-- ==== Sys2Proof/Word.lean ====
section
/-! DEFINITION. The word types of the hub and the plainest arithmetic on them: bit fields of a natural number,
masks, and signed readings of a bit pattern (R4, R5). -/

namespace Sys2Proof

/-- One byte of memory or of a frame. -/
abbrev Byte := BitVec 8

/-- A 32-bit register word (R29). -/
abbrev Word := BitVec 32

/-- A 64-bit value: a fault message (R16), a payload (R440), a ring address. -/
abbrev DWord := BitVec 64

end Sys2Proof
end

