-- ==== Sys2Proof/Syntax.lean ====
section
/-! DEFINITION. The commands and events of the hub, one constructor for each row of the opcode table, and the plain
types of their operands. -/

namespace Sys2Proof

/-- The source of an access: initiator port, slot and node (FUNC.IGNSRC; ports 0 to 5 are NCP pair A, NCP pair B,
PCIe, USB gateway, ring, boot ROM; node 0xFFF is this node). -/
structure Src where
  port : BitVec 3
  slot : BitVec 1
  node : BitVec 12
deriving DecidableEq, Repr

/-- The width of a register access (R29). -/
inductive Width where
  | byte | half | word
deriving DecidableEq, Repr

/-- The two line dies. -/
inductive Die where
  | la | lb
deriving DecidableEq, Repr

/-- The three link ports: ring W, ring E and the twin port. -/
inductive Link where
  | w | e | t
deriving DecidableEq, Repr

/-- What the error-correcting code of a memory word finds at a read (R160). -/
inductive EccResult where
  | clean | corrected | uncorrectable
deriving DecidableEq, Repr

/-- The two NCP pairs. -/
inductive Pair where
  | a | b
deriving DecidableEq, Repr

/-- The straps sampled at the rising edge of RESET_N (SYS.STRAP). -/
structure Straps where
  boot : BitVec 2 := 0
  twinslot : BitVec 1 := 0
  testen : Bool := false
deriving DecidableEq, Repr

/-- A frame as it stands on a link: its header bytes, its payload bytes and its trailer. -/
structure Frame where
  header : List Byte
  payload : List Byte
  trailer : BitVec 32
deriving DecidableEq, Repr

/-- How the bytes of a frame end on a link: its last fragment with the trailer, a fragment hold block (R119), or the
link leaving UP in the middle (R103). -/
inductive FrameEnd where
  | term | hold | cut
deriving DecidableEq, Repr

/-- What the Reed-Solomon code finds at a read of packet-buffer lines (R162, R163): clean, one or two bytes of a cell
corrected, or an uncorrectable cell. -/
inductive LineResult where
  | clean | one (cell : BitVec 16) | two (cell : BitVec 16) | bad (cell : BitVec 16)
deriving DecidableEq, Repr

/-- A CAN frame: identifier (a base identifier in [10:0]), IDE, RTR, FDF, BRS, ESI, DLC and data bytes (R344). -/
structure CanFrame where
  id : BitVec 29 := 0
  ide : Bool := false
  rtr : Bool := false
  fdf : Bool := false
  brs : Bool := false
  esi : Bool := false
  dlc : BitVec 4 := 0
  data : List Byte := []
deriving DecidableEq, Repr

/-- What a detected CAN error adds to the counters (ISO 11898-1): to a receiver 1, or 8 for a dominant bit after its
error flag; to a transmitter 8, or nothing in the exempt cases. -/
inductive CanErrorRole where
  | receiver | receiverSevere | transmitter | transmitterExempt
deriving DecidableEq, Repr

/-- The line conditions of R281. -/
inductive LineCond where
  | openIn | openOff | openOn | shortOff | shortPilot | overload | overtemp | reversed | windowLow | windowHigh
deriving DecidableEq, Repr

/-- Which stage restores the order of a stream (R188, R354, R448). -/
inductive OrderStage where
  | target | bridge | spore
deriving DecidableEq, Repr

/-- A block error (R93): an invalid sync header, or a control block of unknown type. -/
inductive BlockFault where
  | syncHeader | controlType
deriving DecidableEq, Repr

/-- The two devices of the compound device: the hub and the vendor function (R371). -/
inductive UsbDev where
  | hub | vendor
deriving DecidableEq, Repr

/-- The port features of the USB 2.0 hub class; `c` names are the change features. -/
inductive PortFeature where
  | enable | suspend | reset | power | test | cConnection | cEnable | cSuspend | cOverCurrent | cReset
deriving DecidableEq, Repr

/-- The hub class requests (R367). -/
inductive HubRequest where
  | setPort (f : PortFeature) | clearPort (f : PortFeature) | getPortStatus | getHubStatus | getDescriptor
  | clearTTBuffer (id : BitVec 16) | resetTT | getTTState | stopTT
deriving DecidableEq, Repr

/-- How a transaction in a translator stands at a complete-split (R382). -/
inductive TtResult where
  | waiting | done (data : List Byte) | failed
deriving DecidableEq, Repr

/-- The records of a checkpoint (R503). -/
inductive CkptRecord where
  /-- the leader's fabric time at departure, and its base rate -/
  | time (ft : BitVec 80) (base : BitVec 48)
  /-- count at a fabric time in ns, velocity, ZMODE arming, EZCNT -/
  | encoder (nn : Nat) (count : Word) (ns : DWord) (velocity : BitVec 40) (armz : Bool) (ezcnt : Word)
  /-- the 32-byte entry and its state of ACT.AINFO -/
  | action (slot : Nat) (bytes : List Byte) (info : Nat)
  /-- which bank is active, the pending request (0, 1 = SWAP, 2 = ARMSWAP), its axis and position -/
  | bank (active : Bool) (req : Nat) (axis : BitVec 6) (pos : Word)
  /-- a pulse in flight: line, axis, tag, off-edge fabric time -/
  | pulse (line : Nat) (axis : Nat) (tag : Word) (off : BitVec 80)
  | route (slot : Nat) (bytes : List Byte)
  /-- LOUT, present output levels, latched lines, states of the frond and its children by function id -/
  | frond (nn : Nat) (lout levels latched : BitVec 16) (states : List (Nat × Nat))
  /-- on or off, retry count -/
  | channel (nn : Nat) (on : Bool) (retry : Nat)
  /-- the applied value of a control register of the lead set -/
  | register (off : Nat) (value : Word)
  /-- a 64-byte line of the software region of shared memory -/
  | memory (addr : Nat) (bytes : List Byte)
deriving DecidableEq, Repr

/-- The handover messages between the pair (R510, R511): a request for a hand-back, an offer of leadership, the grant
with T0 as ticks from now, a refusal, an abort with its cause, and the request for a base checkpoint (R505). -/
inductive HandoverMsg where
  | request | offer | grant (ticks : Nat) | refuse | abort (cause : BitVec 4) | baseRequest
deriving DecidableEq, Repr

/-- What the tests of BIST find in the structures they test (R551, R552): failing rows and columns by memory id, failing
deserializer slices by port, failing buffer banks, and failing physical engines by frond. -/
structure BistFinds where
  rows : List (BitVec 7 × BitVec 12) := []
  cols : List (BitVec 7 × BitVec 12) := []
  slices : List (Link × BitVec 5) := []
  banks : List (BitVec 5) := []
  engines : List (BitVec 4 × BitVec 3) := []
deriving DecidableEq, Repr

/-- Who makes an access through the aperture: an initiator port that takes the answer as it comes, the host through BAR2
(R457), or a DMA channel (R463). -/
inductive Initiator where
  | port (src : Src)
  | bar2
  | dma (c : BitVec 3)
deriving DecidableEq, Repr

/-- The commands and events of the block: one constructor for each row of the opcode table. -/
inductive Instr where
  /-- REGISTER_WRITE (R29). A write to a register that has no row of its own is checked for size, alignment, mapping and access code, then applied under its write mask. -/
  | registerWrite (src : Src) (off : BitVec 24) (size : Width) (data : Word)
  /-- WIDE_VALUE_WRITE (R30). A write to a register of a wide control value either stages its lower half or applies the staged halves together. -/
  | wideValueWrite (src : Src) (off : BitVec 24) (data : Word)
  /-- WIDE_VALUE_READ (R31). A read of the lower register of a wide status value latches the rest of the value for the same initiator port. -/
  | wideValueRead (src : Src) (off : BitVec 24)
  /-- FUNC_START (R39). FUNC.CMD START takes a STOPPED function without preserved state to STARTING with fresh state. -/
  | funcStart (id : BitVec 8)
  /-- FUNC_STOP (R39). FUNC.CMD STOP takes a STARTING or RUNNING function to STOPPING. -/
  | funcStop (id : BitVec 8)
  /-- FUNC_RESTART (R39). FUNC.CMD RESTART starts a STOPPED function with fresh state, or takes a RUNNING one through STOPPING to STARTING. -/
  | funcRestart (id : BitVec 8)
  /-- FUNC_RESUME (R39). FUNC.CMD RESUME restarts a STOPPED function with PRESV = 1 and DIRTY = 0 from its preserved state. -/
  | funcResume (id : BitVec 8)
  /-- FUNC_CLEAR (R39). FUNC.CMD CLEAR takes a HALTED function to STOPPED and clears PRESV and DIRTY. -/
  | funcClear (id : BitVec 8)
  /-- FUNCTION_RUNNING (R42). A STARTING function enters RUNNING once it has initialised and its needs, parent and domains are RUNNING or ON. -/
  | functionRunning (id : BitVec 8)
  /-- FUNCTION_STOPPED (R42). A STOPPING function enters STOPPED once its work has ended and no child is in STOPPING. -/
  | functionStopped (id : BitVec 8)
  /-- UPDATE_STROBE (R46). FUNC.UPD applies every pending RWS value of one function in one core tick. -/
  | updateStrobe (src : Src) (id : BitVec 8)
  /-- GROUP_STROBE (R47). FUNC.UPDGRP applies the pending RWS values of every member of the selected strobe groups in one core tick. -/
  | groupStrobe (src : Src) (groups : BitVec 16)
  /-- LDX_ADDR_WRITE (R50). A write to LDX.ADDR selects a die and word address and starts a fetch of that line-die register. -/
  | ldxAddrWrite (src : Src) (data : Word)
  /-- LDX_FETCH_DONE (R52). A line-die fetch completes, the fetched word becomes ready and BUSY clears. -/
  | ldxFetchDone (measured : BitVec 16)
  /-- LDX_DATA_WRITE (R51). A write to LDX.DATA posts data and mask to the selected line-die register, sets BUSY and advances the address. -/
  | ldxDataWrite (src : Src) (data : Word)
  /-- LDX_WRITE_CONFIRMED (R54). The line die confirms a posted write and LDX.STAT.BUSY clears. -/
  | ldxWriteConfirmed
  /-- LDX_DATA_READ (R52). A read of LDX.DATA returns the fetched word, advances the address and starts the next fetch. -/
  | ldxDataRead (src : Src)
  /-- LDX_TIMEOUT (R55). A line die that does not answer within 10 µs fails the access, sets ERR, counts it and raises fault kind 0x20. -/
  | ldxTimeout
  /-- LDX_CLAIM (R57). A write to LDX.CLAIM takes the window when it is free, or releases it with a tag of 0. -/
  | ldxClaim (src : Src) (data : Word)
  /-- KEY_UNLOCK (R59). A write to KEY.UNLOCK opens, refreshes or closes the key guard, or counts a busy or bad attempt. -/
  | keyUnlock (src : Src) (data : Word)
  /-- KEY_GUARD_TIMEOUT (R59). The key guard closes after 1,024 core ticks without an RWK write by its holder. -/
  | keyGuardTimeout
  /-- SYS_RESET_WARM (R593). SYS.RESET kind 0b01 answers the write and then warm-resets H, keeping PD0 and retention SRAM. -/
  | sysResetWarm (src : Src)
  /-- SYS_RESET_FULL (R593). SYS.RESET kind 0b10 answers the write and then resets the hub as RESET_N does. -/
  | sysResetFull (src : Src)
  /-- SYS_RESET_RELOAD (R79). SYS.RESET kind 0b11 stops every function and applies the image and its start list again. -/
  | sysResetReload (src : Src)
  /-- RESET_PIN (R580). RESET_N held low for at least 10 µs resets H and the switched parts of both line dies, and its rising edge samples the straps. -/
  | resetPin (straps : Straps)
  /-- POWER_ON (R520). VIN rising through the start threshold starts the bucks, LDOs, VAON and the domain sequencer without software. -/
  | powerOn
  /-- VIN_STOP (R519). VIN falling through 15.5 V stops the line-die bucks. -/
  | vinStop
  /-- SUPPLY_RESET (R521). VCORE, V18 or V5A below its reset level for at least 2 µs causes a supply reset held until the rails recover. -/
  | supplyReset
  /-- INTERNAL_RESET_RELEASE (R580). The internal reset is released once RESET_N is high and the rails are in their windows, and pair B runs the boot ROM. -/
  | internalResetRelease
  /-- RAIL_OUT_OF_WINDOW (R521). A rail or VIN outside its window for at least 10 µs clears its status bit and raises fault kind 0xF2. -/
  | railOutOfWindow (rail : BitVec 3)
  /-- LB_SWITCH_OFF (R521). V5B below 4.50 V for at least 2 µs switches off LB's switched part, so its link drops. -/
  | lbSwitchOff
  /-- BIST (R551). After the boot set of domains is ON, the repair controller applies the maps and tests and repairs the memories, banks and slices. -/
  | bist (finds : BistFinds)
  /-- BIST_DONE (R551). BIST ends, BISTDONE is set and event kind 0x0630 reports the wear figure. -/
  | bistDone
  /-- BOOT_IMAGE (R73). Once BISTDONE is set, the boot ROM applies the overlay, selects and authenticates a slot image, applies it and issues the start list, or waits as a bare hub. -/
  | bootImage
  /-- ERASE (R82). PEAT command ERASE sets a slot to EMPTY and erases its 27 sectors. -/
  | peatErase (src : Src)
  /-- PROGRAM (R82). PEAT command PROGRAM copies ARG1.LEN × 64 bytes from the staging area into an empty erased slot. -/
  | peatProgram (src : Src)
  /-- VERIFY (R82). PEAT command VERIFY authenticates a slot's image and makes an EMPTY slot WRITTEN on success. -/
  | peatVerify (src : Src)
  /-- ARM (R82). PEAT command ARM makes a WRITTEN or GOOD slot TRIAL. -/
  | peatArm (src : Src)
  /-- CONFIRM (R82). PEAT command CONFIRM makes the TRYING slot of the applied image GOOD. -/
  | peatConfirm (src : Src)
  /-- APPLYSTAGE (R81). PEAT command APPLYSTAGE authenticates and applies the staged image on a hub with no applied image. -/
  | peatApplystage (src : Src)
  /-- RELOAD (R85). PEAT command RELOAD applies from a slot every record that belongs to one stopped function and its children. -/
  | peatReload (src : Src)
  /-- OVLWRITE (R82). PEAT command OVLWRITE writes the staged overlay to both overlay copies. -/
  | peatOvlwrite (src : Src)
  /-- OVLERASE (R82). PEAT command OVLERASE erases both overlay copies. -/
  | peatOvlerase (src : Src)
  /-- NODEASG (R82). PEAT command NODEASG appends ARG2.NODE as the assigned number to both boot records. -/
  | peatNodeasg (src : Src)
  /-- KEYPROG (R82). PEAT command KEYPROG programs a key slot with the digest at staging offset 0. -/
  | peatKeyprog (src : Src)
  /-- KEYREVOKE (R82). PEAT command KEYREVOKE revokes a key slot. -/
  | peatKeyrevoke (src : Src)
  /-- SVNADV (R72). PEAT command SVNADV raises the security-version fuse count to the applied image's security version. -/
  | peatSvnadv (src : Src)
  /-- PEAT_COMMAND_DONE (R83). A running PEAT command ends, BUSY clears and RESULT is set, with ERR and ERRCNT on failure. -/
  | peatCommandDone (failed : Option (Die × BitVec 5))
  /-- PEAT_LINE_DIE_LOST (R84). A line die losing power or link during a PEAT command ends it with result 0x7. -/
  | peatLineDieLost
  /-- SIGNAL_DETECTED (R97). A differential swing of at least 80 mV is detected and the link enters TRAINING. -/
  | signalDetected (port : Link)
  /-- CLOCK_RECOVERY_LOCKED (R97). Clock recovery of a training link locks. -/
  | clockRecoveryLocked (port : Link)
  /-- EQUALISER_ADAPTED (R97). The receiver equaliser of a training link finishes adapting. -/
  | equaliserAdapted (port : Link)
  /-- BLOCK_LOCK (R97). After 64 consecutive valid sync headers the link has block lock and enters HANDSHAKE. -/
  | blockLock (port : Link)
  /-- SUPERVISION_BLOCK_RECEIVED (R95). A supervision block is received, its CRC checked and the peer's state, node, slot and lead recorded. -/
  | supervisionBlockReceived (port : Link) (block : DWord)
  /-- SUPERVISION_BLOCK_SEND (R94). Every 1 µs the transmitter sends one supervision block at the next block boundary. -/
  | supervisionBlockSend (port : Link)
  /-- BLOCK_ERROR (R93). A received block with an invalid sync header or an unknown control type is counted. -/
  | blockError (port : Link) (what : BlockFault) (gap : Nat)
  /-- RATE_CYCLE_EXPIRY (R90). Under automatic rate, the training period at one rate ends and the port switches to the other rate. -/
  | rateCycleExpiry (port : Link)
  /-- HOLD_DOWN_EXPIRY (R99). The 1 ms hold-down of a DOWN link ends and training starts again. -/
  | holdDownExpiry (port : Link)
  /-- MODULE_LOS (R101). The module LOS pin asserted takes the link DOWN with cause 0x1. -/
  | moduleLos (port : Link)
  /-- SIGNAL_LOST (R101). The receiver signal falling below 80 mV takes the link DOWN with cause 0x2. -/
  | signalLost (port : Link)
  /-- SUPERVISION_TIMEOUT (R101). No valid supervision block for 4 µs takes the link DOWN with cause 0x4. -/
  | supervisionTimeout (port : Link)
  /-- MODULE_ABSENT (R106). A high MODABS on an SFP28 cage holds the link DOWN with cause 0x6 and raises fault kind 0x43. -/
  | moduleAbsent (port : Link)
  /-- RETRAIN (R100). The link command RETRAIN takes a link to DOWN and restarts its hold-down. -/
  | linkRetrain (port : Link)
  /-- RATEUP (R91). The link command RATEUP retrains a ring port under automatic rate at 25.78125 GBd. -/
  | linkRateup (port : Link)
  /-- MODULE_TRANSFER (R108). A write to MMCTL starts one byte transfer on the module's two-wire bus. -/
  | moduleTransfer (src : Src) (port : Link) (data : Word)
  /-- MODULE_TRANSFER_DONE (R108). A module byte transfer ends, with NACK or ERR set when it failed. -/
  | moduleTransferDone (port : Link) (nack : Bool) (removed : Bool) (data : Byte)
  /-- MODULE_TRANSFER_TIMEOUT (R108). A module transfer not ended within 1 ms ends with ERR = 1. -/
  | moduleTransferTimeout (port : Link)
  /-- SLICE_SHADOW_ROUND (R109). A 1 ms shadow period of a deserializer slice ends and the slice may be marked failing. -/
  | sliceShadowRound (port : Link) (slice : BitVec 5) (disagreements : Nat)
  /-- QUALITY_WINDOW_END (R110). A link quality window ends, WINERR is updated and DEGRADED may change. -/
  | qualityWindowEnd (port : Link) (eyeh : Byte) (eyev : Byte)
  /-- FRAME_RECEIVED (R118). A frame arriving on a port has its header checked, HOPS decremented and is admitted, forwarded or stripped. -/
  | frameReceived (port : Link) (frame : Frame) (fin : FrameEnd)
  /-- FRAME_DELIVERED (R134). A whole frame whose trailer checks is delivered to the consuming block of the hub. -/
  | frameDelivered (lines : LineResult)
  /-- FRAME_SENT (R137). At a frame end the output scheduler picks the next frame by class 0 priority, hold and deficit round robin. -/
  | frameSent (port : Link) (preempt : Option Nat) (lines : LineResult)
  /-- TOKEN_BUCKET_ADMIT (R123). A waiting class 0 frame is admitted when the token bucket holds at least its length. -/
  | tokenBucketAdmit
  /-- ORIGINATION_ADMITTED (R153). A held frame that the hub originates is admitted to every queue it needs in one core tick. -/
  | originationAdmitted
  /-- EPOCH_ANNOUNCEMENT_SEND (R127). After a start of forwarding, an epoch announcement is sent, three times 10 µs apart. -/
  | epochAnnouncementSend
  /-- ORDER_HOLD_EXPIRY (R188). A held early frame's order hold expires, the missing sequence numbers are given up and the hold is counted. -/
  | orderHoldExpiry (stage : OrderStage) (node : BitVec 12) (slot : BitVec 1) (cls : BitVec 3)
  /-- APERTURE_ACCESS (R173). An access at an aperture offset selects a window and becomes one or more ring transactions. -/
  | apertureAccess (init : Initiator) (a : BitVec 30) (write : Bool) (len : BitVec 13) (data : List Byte) (ecc : EccResult)
  /-- OUTSTANDING_ENTRY_WAIT_END (R187). A read or non-posted write waiting for a free outstanding entry is issued once one is free. -/
  | outstandingEntryWaitEnd
  /-- POSTED_WRITE_RECEIVED (R183). A target performs a posted write or returns an error message for it. -/
  | postedWriteReceived
  /-- NON_POSTED_WRITE_RECEIVED (R182). A target performs a non-posted write and answers with one response carrying its status. -/
  | nonPostedWriteReceived
  /-- READ_REQUEST_RECEIVED (R170). A target performs a read and answers with the data and, on a side-effect page, RSE and a POP mask. -/
  | readRequestReceived (ecc : EccResult)
  /-- RESPONSE_RECEIVED (R187). A response matching an outstanding entry completes the access and frees the entry, or is counted as orphan. -/
  | responseReceived
  /-- TRANSACTION_TIMEOUT (R187). XACT.TMO expires for an outstanding entry and the access completes with status TIMEOUT. -/
  | transactionTimeout (entry : BitVec 9)
  /-- POSTED_ERROR_MESSAGE_RECEIVED (R185). An error message for a posted write is logged and raises fault kind 0x60. -/
  | postedErrorMessageReceived
  /-- PREFETCH_LINE_AGED (R191). A prefetch line older than XACT.PFAGE is discarded. -/
  | prefetchLineAged
  /-- SEFREE_WRITE (R191). A write to XACT.SEFREE frees the named side-effect save slots. -/
  | sefreeWrite (slots : BitVec 16)
  /-- TIME_FRAME_SEND (R206). A time source sends a time frame every interval with the departures of the previous frame. -/
  | timeFrameSend
  /-- TIME_FRAME_RECEIVED (R208). A delivered time frame gives an error e against the source, which the time unit checks and applies. -/
  | timeFrameReceived
  /-- BETTER_SOURCE_TIMEOUT (R203). Three intervals after the last frame from every better source, a source starts sending. -/
  | betterSourceTimeout
  /-- HOLDOVER_ENTRY (R211). No time frame from any source for 3 intervals takes a synchronised hub into HOLDOVER. -/
  | holdoverEntry
  /-- PPS_EDGE (R204). A PPS_IN edge records fabric time and drives the servo, or loads the seconds/nanoseconds form. -/
  | ppsEdge (falling : Bool)
  /-- PPS_TIMEOUT (R204). No PPS_IN edge for 1.1 s clears PPSSEEN and raises fault kind 0x75. -/
  | ppsTimeout
  /-- ACCEPTSTEP (R213). Time command ACCEPTSTEP adds PEND to OFFSET and enters ACQUIRE with a step. -/
  | timeAcceptstep
  /-- SLEW (R213). Time command SLEW enters SLEWING, running at the base rate plus or minus SLEWMAX. -/
  | timeSlew
  /-- LOADNOW (R205). Time command LOADNOW sets fabric time at once from TIME.SNLOAD and raises the source generation. -/
  | timeLoadnow (src : Src)
  /-- ARMPPS (R205). Time command ARMPPS loads fabric time from TIME.SNLOAD at the next PPS_IN edge. -/
  | timeArmpps (src : Src)
  /-- PROBE_SEND (R215). Every TIME.PROBE ms the hub sends a link delay probe and records its departures. -/
  | probeSend
  /-- PROBE_RECEIVED (R215). A probe with h = 1 is answered at once and followed by a follow-up with the turnaround. -/
  | probeReceived
  /-- PROBE_ANSWER_RECEIVED (R215). The answer to a probe is received and its arrival recorded. -/
  | probeAnswerReceived
  /-- PROBE_FOLLOW_UP_RECEIVED (R215). A follow-up completes a delay exchange, which is accepted into the link delay mean or counted as failed. -/
  | probeFollowUpReceived
  /-- PROBE_EXCHANGE_TIMEOUT (R215). A follow-up not received within 1 ms fails the exchange and raises fault kind 0x74. -/
  | probeExchangeTimeout (port : Link)
  /-- PPS_OUT_RISE (R217). PPS_OUT rises when fabric time passes a whole multiple of 10^9 ns. -/
  | ppsOutRise
  /-- PPS_OUT_FALL (R217). PPS_OUT falls 100 ms after it rose. -/
  | ppsOutFall
  /-- AXIS_SAMPLE_LATCH (R222). At each publication instant the publishing hub latches the encoder count, sends a sample frame and applies it locally. -/
  | axisSampleLatch (a : BitVec 6) (gate : Bool)
  /-- AXIS_SAMPLE_RECEIVED (R225). A delivered axis sample is checked for source, axis, anchor and age and then applied or discarded. -/
  | axisSampleReceived
  /-- AXIS_COASTING (R226). now − t0 exceeding 1.5 × PERIOD in TRACKING takes the axis to COASTING. -/
  | axisCoasting (a : BitVec 6)
  /-- AXIS_STALE (R226). now − t0 exceeding the stale limit takes the axis to STALE and raises fault kind 0x78. -/
  | axisStale (a : BitVec 6)
  /-- APPEND_WRITE (R253). A write to the append page pushes whole 32-byte entries into the append queue. -/
  | appendWrite (src : Src) (off : BitVec 8) (data : List Byte)
  /-- APPEND_MERGE (R254). The head entry of the append queue is merged into the lowest free slot of the active bank and its axis index. -/
  | appendMerge
  /-- ACTION_COMMIT (R244). An entry is committed when its placement instant comes within 12 µs, or at t_d for kinds without a line edge. -/
  | actionCommit (slot : BitVec 12)
  /-- LINE_COMMAND_PLACEMENT (R245). At the placement instant the line die begins the output transition of a committed command. -/
  | lineCommandPlacement (l : BitVec 8)
  /-- PULSE_OFF_EDGE_COMMIT (R246). The off edge of a pulse in flight is committed by position or by duration after its on edge. -/
  | pulseOffEdgeCommit (l : BitVec 8)
  /-- SHADOW_BANK_WRITE (R256). A write to the action shadow bank is performed and returns a SORTING or READY bank to OPEN. -/
  | shadowBankWrite (off : BitVec 17) (data : List Byte)
  /-- ACT_SEAL (R257). ACT.CMD SEAL takes the OPEN shadow bank to SORTING. -/
  | actSeal
  /-- ACT_CLEARSH (R257). ACT.CMD CLEARSH clears every shadow entry and withdraws any waiting swap request. -/
  | actClearsh
  /-- ACT_SWAP (R258). ACT.CMD SWAP requests a bank swap at the next boundary, sealing an OPEN bank first. -/
  | actSwap
  /-- ACT_ARMSWAP (R258). ACT.CMD ARMSWAP requests a bank swap at the boundary where an axis reaches SWAPPOS. -/
  | actArmswap
  /-- ACT_DISARM (R258). ACT.CMD DISARM withdraws the waiting swap request with record 0x0209. -/
  | actDisarm
  /-- ACT_SORT_DONE (R257). The sort of the shadow bank ends and the bank becomes READY. -/
  | actSortDone
  /-- ACT_CLEAR_DONE (R257). CLEARSH ends and the shadow bank returns from CLEARING to OPEN. -/
  | actClearDone
  /-- ACT_SWAP_BOUNDARY (R260). At a 1 µs boundary where a swap is due and the shadow is READY, the banks change roles. -/
  | actSwapBoundary
  /-- CAPTURE_QUEUE_POP (R264). A read of a capture queue's POP location returns and removes its head entry. -/
  | captureQueuePop (src : Src) (q : BitVec 4) (ecc : EccResult)
  /-- ACT_AIDX_WRITE (R272). A write to ACT.AIDX copies one active-bank entry and its state into AENT0–7 and AINFO. -/
  | actAidxWrite (data : Word)
  /-- LOUT_WRITE (R277). A write to FRDnn.LOUT is sent to the line die at once and drives lines whose source is the register. -/
  | loutWrite (nn : BitVec 4) (data : Word)
  /-- FILTERED_EDGE (R279). A sampled level that has differed from the filtered level for FILT µs becomes a filtered edge. -/
  | filteredEdge (l : BitVec 8) (level : Bool)
  /-- LINE_DIAGNOSTIC_ENTRY (R281). A line condition that has held for its time is entered, counted and reported with its fault kind. -/
  | lineDiagnosticEntry (l : BitVec 8) (cond : LineCond)
  /-- LINE_DIAGNOSTIC_EXIT (R283). A line condition absent for its time is left and event kind 0x0112 is raised. -/
  | lineDiagnosticExit (l : BitVec 8) (cond : LineCond)
  /-- LCMD_UNLATCH (R282). A write to FRDnn.LCMD ends the latch of the named lines, which take their source's present command. -/
  | lcmdUnlatch (nn : BitVec 4) (lines : BitVec 16)
  /-- FROND_BUDGET_OVER (R284). The summed frond output current above FBUDGET for 1 ms sets OVER and raises fault kind 0x94. -/
  | frondBudgetOver (nn : BitVec 4)
  /-- FROND_BUDGET_CUT (R284). The summed current above FBUDGET + 300 mA for 100 µs latches every on output of the frond. -/
  | frondBudgetCut (nn : BitVec 4)
  /-- RS485_DRIVER_OFF (R287). An RS-485 driver in current limit for 1 ms or overheated is switched off and raises fault kind 0x9A. -/
  | rs485DriverOff (ch : BitVec 5) (hot : Bool)
  /-- UART_CHARACTER_RECEIVED (R289). A received character becomes an item in the channel's receive FIFO, with SOM and errors flagged. -/
  | uartCharacterReceived (ch : BitVec 5) (data : BitVec 9) (perr : Bool) (ferr : Bool) (brk : Bool) (ago : Nat)
  /-- UART_IDLE_GAP (R290). The line idle for GAP bit-times after a character stores an EOM item. -/
  | uartIdleGap (ch : BitVec 5)
  /-- UTX_WRITE (R291). A write to UTXc appends a word to the transmit FIFO or is refused and counted. -/
  | utxWrite (ch : BitVec 5) (data : BitVec 10)
  /-- UART_TRANSMIT_START (R291). After the line has been idle for TURN bit-times, the transmitter enables its driver and starts the next word. -/
  | uartTransmitStart (ch : BitVec 5)
  /-- UART_WORD_SENT (R291). A word has been sent, and after EOM or the last word the driver is released after TURN bit-times. -/
  | uartWordSent (ch : BitVec 5)
  /-- UART_RX_POP (R289). A read of URXLc pops one entry of the receive FIFO. -/
  | uartRxPop (src : Src) (ch : BitVec 5) (ecc : EccResult)
  /-- ENCODER_EDGE (R295). A filtered A or B edge changes the encoder count according to the counting mode. -/
  | encoderEdge (u : BitVec 4) (a : Bool) (b : Bool) (gate : Bool)
  /-- ENCODER_Z_EDGE (R296). A rising Z edge counts in EZCNT, latches the count and may load ELOAD. -/
  | encoderZEdge (u : BitVec 4) (gate : Bool)
  /-- ENCODER_LOAD (R296). Encoder command LOAD sets the count to ELOAD and sets ZSET in the next sample. -/
  | encoderLoad (u : BitVec 4)
  /-- ARMZ (R296). Encoder command ARMZ arms a load of ELOAD on the next Z edge. -/
  | encoderArmz (u : BitVec 4)
  /-- ENCODER_SIGNAL_LOSS (R297). An RS-422 pair below 200 mV for 1 µs, or a bad HTL line, enters encoder error cause 1 or 2. -/
  | encoderSignalLoss (u : BitVec 4)
  /-- WAIT (R306). Engine instruction WAIT completes when its line meets the level or edge condition. -/
  | engWait (nn : BitVec 4) (e : BitVec 2)
  /-- WAIT_FLAG (R314). Engine instruction WAIT with FLAG completes when a mark flag is set and clears it. -/
  | engWaitFlag (nn : BitVec 4) (e : BitVec 2)
  /-- AT (R309). Engine instruction AT completes when the axis estimate is at or after X, then may advance X by Y. -/
  | engAt (nn : BitVec 4) (e : BitVec 2)
  /-- SHIFT_OUT (R310). Engine instruction SHIFT out moves N bits from SR to lines, X or null. -/
  | engShiftOut (nn : BitVec 4) (e : BitVec 2)
  /-- SHIFT_IN (R310). Engine instruction SHIFT in moves N bits from lines, X or null into SR. -/
  | engShiftIn (nn : BitVec 4) (e : BitVec 2)
  /-- TAKE (R306). Engine instruction TAKE removes the TX queue head word into X, Y, SR or CNT. -/
  | engTake (nn : BitVec 4) (e : BitVec 2) (ecc : EccResult)
  /-- EMIT (R317). Engine instruction EMIT stores X, Y, SR or CNT as an item in the RX queue. -/
  | engEmit (nn : BitVec 4) (e : BitVec 2)
  /-- DRIVE_OFF (R306). Engine instruction DRIVE off sets the pin commands of the masked lines off. -/
  | engDriveOff (nn : BitVec 4) (e : BitVec 2)
  /-- DRIVE_ON (R306). Engine instruction DRIVE on sets the pin commands of the masked lines on. -/
  | engDriveOn (nn : BitVec 4) (e : BitVec 2)
  /-- DRIVE_TOGGLE (R306). Engine instruction DRIVE toggle inverts the pin commands of the masked lines. -/
  | engDriveToggle (nn : BitVec 4) (e : BitVec 2)
  /-- DRIVE_FROM_X (R306). Engine instruction DRIVE from X sets each masked line's pin command from X. -/
  | engDriveFromX (nn : BitVec 4) (e : BitVec 2)
  /-- COUNT_LOAD (R306). Engine instruction COUNT load sets CNT to its value. -/
  | engCountLoad (nn : BitVec 4) (e : BitVec 2)
  /-- COUNT_DECREMENT (R306). Engine instruction COUNT decrement lowers CNT, holding at 0, and jumps while non-zero with JNZ. -/
  | engCountDecrement (nn : BitVec 4) (e : BitVec 2)
  /-- BRANCH (R313). Engine instruction BRANCH sets PC to its target when its condition holds. -/
  | engBranch (nn : BitVec 4) (e : BitVec 2)
  /-- MARK (R306). Engine instruction MARK raises event kind 0x0120 and/or sets a mark flag. -/
  | engMark (nn : BitVec 4) (e : BitVec 2)
  /-- HALT (R321). Engine instruction HALT ends the program, stopping the engine with PRESV = 0. -/
  | engHalt (nn : BitVec 4) (e : BitVec 2)
  /-- ENGINE_STALL_COMPLETE (R307). A stalled engine instruction completes in the first engine cycle in which its condition holds. -/
  | engineStallComplete (nn : BitVec 4) (e : BitVec 2) (ecc : EccResult)
  /-- ENGINE_DELAY_END (R307). The DLY steps after an engine instruction end and the next step begins. -/
  | engineDelayEnd (nn : BitVec 4) (e : BitVec 2)
  /-- PIN_COMMAND_DEFERRED (R312). A pin command held back by the 250 ns minimum level time takes effect. -/
  | pinCommandDeferred (l : BitVec 8)
  /-- ENGINE_TX_STAGE (R316). A write to ENGk.ETXL stages the low half of a TX word for the writing port. -/
  | engineTxStage (src : Src) (nn : BitVec 4) (e : BitVec 2) (data : BitVec 16)
  /-- ENGINE_TX_APPEND (R316). A write to ENGk.ETXH appends a word to the TX queue or is refused and counted. -/
  | engineTxAppend (src : Src) (nn : BitVec 4) (e : BitVec 2) (data : BitVec 16)
  /-- ENGINE_RX_POP (R317). A read of ENGk.ERXL pops one entry of the engine's RX queue. -/
  | engineRxPop (src : Src) (nn : BitVec 4) (e : BitVec 2) (ecc : EccResult)
  /-- EMPTY_TX (R315). Queue command 0x1 empties the engine's TX queue while it is STOPPED. -/
  | emptyTx (src : Src) (nn : BitVec 4) (e : BitVec 2)
  /-- EMPTY_RX (R315). Queue command 0x2 empties the engine's RX queue while it is STOPPED. -/
  | emptyRx (src : Src) (nn : BitVec 4) (e : BitVec 2)
  /-- EMPTY_BOTH (R315). Queue command 0x3 empties both engine queues while it is STOPPED. -/
  | emptyBoth (src : Src) (nn : BitVec 4) (e : BitVec 2)
  /-- PROGRAM_STORE_STAGE (R320). A write to FRDnn.PSLw stages the low 16 bits of a program word. -/
  | programStoreStage (src : Src) (nn : BitVec 4) (w : BitVec 6) (data : Word)
  /-- PROGRAM_STORE_WRITE (R320). A write to FRDnn.PSHw applies a program word while every engine is STOPPED and sets DIRTY. -/
  | programStoreWrite (src : Src) (nn : BitVec 4) (w : BitVec 6) (data : Word)
  /-- PFLAGSET (R314). A write to FRDnn.PFLAGSET sets the named mark flags at the end of the next engine cycle. -/
  | pflagset (nn : BitVec 4) (flags : BitVec 4)
  /-- ENGINE_SUBSTITUTION (R327). Once the frond is STOPPED, the spare physical engine replaces a failing one. -/
  | engineSubstitution (nn : BitVec 4)
  /-- CAN_LOAD (R338). TXCMD LOAD copies the staging area into a transmit buffer, making it LOADED. -/
  | canLoad (src : Src) (k : BitVec 3) (b : BitVec 2)
  /-- CAN_REQ (R338). TXCMD REQ makes a LOADED transmit buffer PENDING. -/
  | canReq (src : Src) (k : BitVec 3) (b : BitVec 2)
  /-- CAN_LOADREQ (R338). TXCMD LOADREQ copies the staging area into a buffer and makes it PENDING. -/
  | canLoadreq (src : Src) (k : BitVec 3) (b : BitVec 2)
  /-- CAN_ABORT (R340). TXCMD ABORT makes a PENDING buffer LOADED, or lets a SENDING frame finish without retry. -/
  | canAbort (src : Src) (k : BitVec 3) (b : BitVec 2)
  /-- RECOVER (R346). CAN command RECOVER starts bus-off recovery when AUTOREC = 0. -/
  | canRecover (k : BitVec 3)
  /-- CAN_ARBITRATION (R339). At an opportunity to start a frame the controller chooses among its PENDING buffers. -/
  | canArbitration (k : BitVec 3)
  /-- CAN_TRANSMIT_DONE (R340). A successful transmission makes the buffer LOADED or EMPTY by KEEP and counts in TXOK. -/
  | canTransmitDone (k : BitVec 3)
  /-- CAN_TRANSMIT_FAILED (R339). A frame that loses arbitration or meets an error returns its buffer to PENDING, or LOADED with SS. -/
  | canTransmitFailed (k : BitVec 3) (lost : Bool)
  /-- CAN_FRAME_RECEIVED (R343). A frame received without error is filtered to a FIFO, the bridge or discard. -/
  | canFrameReceived (k : BitVec 3) (frame : CanFrame) (ago : Nat)
  /-- CAN_ERROR_DETECTED (R345). A detected bus error updates TEC or REC and may change the error state. -/
  | canErrorDetected (k : BitVec 3) (code : BitVec 3) (dataPhase : Bool) (role : CanErrorRole) (miniv : BitVec 16)
  /-- CAN_RECOVERY_DONE (R346). Bus-off recovery completes after 128 occurrences of 11 recessive bits. -/
  | canRecoveryDone (k : BitVec 3)
  /-- RATE_CANDIDATE_TIMEOUT (R337). A rate candidate's ADTIME ends without result and the next candidate is taken. -/
  | rateCandidateTimeout (k : BitVec 3) (miniv : BitVec 16)
  /-- CAN_WAKE_UP (R336). A wake-up pattern on a standby transceiver is counted and raises event kind 0x0133. -/
  | canWakeUp (k : BitVec 3)
  /-- TXD_DOMINANT_TIMEOUT (R332). The TXD dominant time-out releases the bus and raises fault kind 0xB5. -/
  | txdDominantTimeout (k : BitVec 3)
  /-- CAN_PLL_LOCKED (R333). The 80 MHz CAN PLL locks after PD14 powers up. -/
  | canPllLocked
  /-- CAN_RX_POP (R344). A read of CANk.RXLq pops one entry of an RX FIFO. -/
  | canRxPop (src : Src) (k : BitVec 3) (q : BitVec 1) (ecc : EccResult)
  /-- BRIDGE_LOOKUP (R350). The ingress unit at the head is looked up in the active route bank and up to four frames are originated. -/
  | bridgeLookup
  /-- BRIDGED_FRAME_RECEIVED (R355). A delivered MKIND 1 or 2 frame is checked and queued for its destination port or refused. -/
  | bridgedFrameReceived
  /-- BRIDGE_EGRESS_CAN (R356). The head frame of a CAN egress queue is moved into an owned buffer by LOADREQ once one is EMPTY. -/
  | bridgeEgressCan (k : BitVec 3)
  /-- BRIDGE_EGRESS_UART (R357). A queued message is written into the channel's transmit FIFO while it has room. -/
  | bridgeEgressUart (ch : BitVec 5)
  /-- ERROR_RETURN_RECEIVED (R359). An error return is counted and raises fault kind 0xBA and event kind 0x0143. -/
  | errorReturnReceived
  /-- APPLICATION_MESSAGE_RECEIVED (R360). A delivered MKIND 0 frame is stored in the message queue or dropped. -/
  | applicationMessageReceived
  /-- MESSAGE_QUEUE_POP (R360). A read of BRG.MQL pops one entry of the message queue. -/
  | messageQueuePop (src : Src) (ecc : EccResult)
  /-- BRG_SEAL (R364). BRG.CMD SEAL takes the OPEN route shadow bank to SORTING. -/
  | brgSeal
  /-- BRG_SWAP (R364). BRG.CMD SWAP requests a route bank swap between lookups. -/
  | brgSwap
  /-- BRG_DISARM (R364). BRG.CMD DISARM withdraws the waiting route swap request. -/
  | brgDisarm
  /-- BRG_CLEARSH (R364). BRG.CMD CLEARSH clears every route shadow entry. -/
  | brgClearsh
  /-- BRG_SORT_DONE (R364). The sort of the route shadow bank ends and the bank becomes READY. -/
  | brgSortDone
  /-- BRG_SWAP_TAKES_EFFECT (R364). A due route swap takes effect at a lookup boundary and raises event kind 0x0140. -/
  | brgSwapTakesEffect
  /-- BRG_SHADOW_WRITE (R364). A write to the route shadow bank is performed and returns a SORTING or READY bank to OPEN. -/
  | brgShadowWrite (off : BitVec 16) (data : List Byte)
  /-- BRG_AIDX_WRITE (R362). A write to BRG.AIDX copies one active route entry into AENT0–7. -/
  | brgAidxWrite (data : Word)
  /-- VBUS_CHANGE (R368). USBU_VBUS crossing its thresholds attaches or removes the upstream pull-up. -/
  | vbusChange (mv : BitVec 16)
  /-- PULLUP_ATTACH (R368). Once its conditions have held long enough the upstream pull-up is attached. -/
  | pullupAttach
  /-- DOWNSTREAM_OVERCURRENT (R370). OC_N low for OCDG ms unpowers and disables the port and raises fault kind 0xC0. -/
  | downstreamOvercurrent (k : BitVec 3)
  /-- HUB_CLASS_REQUEST (R370). A hub class request from the host sets or clears port features such as PORT_POWER. -/
  | hubClassRequest (req : HubRequest) (k : BitVec 3)
  /-- PORT_CONNECT_REPORT (R373). 100 ms after a port is powered, the hub reports a connection on it. -/
  | portConnectReport (k : BitVec 3)
  /-- USB_LREAD (R375). Vendor request LREAD reads the local map as a local access. -/
  | usbLread (addr : BitVec 32) (len : Nat)
  /-- USB_LWRITE (R375). Vendor request LWRITE writes the local map as a local access. -/
  | usbLwrite (addr : BitVec 32) (data : List Byte)
  /-- USB_RESULT (R374). Vendor request RESULT returns the result of the last LREAD or LWRITE. -/
  | usbResult
  /-- USB_INFO (R374). Vendor request INFO returns SYS.ID, SYS.NODE, SYS.BOOTSTAT and PEAT.STAT. -/
  | usbInfo
  /-- USB_LOCAL_ACCESS_DONE (R375). A vendor local access completes and its NAKed stage is answered with data, status or STALL. -/
  | usbLocalAccessDone (ecc : EccResult)
  /-- BLOCK_AREAD (R376). Command block AREAD reads through the aperture. -/
  | blockAread (bytes : List Byte) (ecc : EccResult)
  /-- BLOCK_AWRITE (R376). Command block AWRITE writes through the aperture. -/
  | blockAwrite (bytes : List Byte) (ecc : EccResult)
  /-- BLOCK_LREAD (R376). Command block LREAD reads the local map. -/
  | blockLread (bytes : List Byte) (ecc : EccResult)
  /-- BLOCK_LWRITE (R376). Command block LWRITE writes the local map. -/
  | blockLwrite (bytes : List Byte) (ecc : EccResult)
  /-- COMMAND_BLOCK_RESPONSE (R377). A completed command block returns one response on endpoint 0x82 in arrival order. -/
  | commandBlockResponse
  /-- EVENT_ENDPOINT_IN (R378). An IN transfer on endpoint 0x83 carries one spore record or is NAKed. -/
  | eventEndpointIn
  /-- ENDPOINT_HALT (R379). SetFeature(ENDPOINT_HALT) halts an endpoint so that it answers STALL. -/
  | endpointHalt (ep : Byte)
  /-- ENDPOINT_HALT_CLEAR (R379). ClearFeature(ENDPOINT_HALT) clears a halt and resets the data toggle. -/
  | endpointHaltClear (ep : Byte)
  /-- STANDARD_REQUEST (R381). A standard request such as SetConfiguration or SetInterface resets data toggles or is STALLed. -/
  | standardRequest (dev : UsbDev) (req : Byte) (value : BitVec 16) (length : BitVec 16)
  /-- OUT_DATA_PACKET (R380). A bulk or control OUT data packet is answered ACK, NYET or NAK. -/
  | outDataPacket (toggle : Bool) (room : Nat)
  /-- PING (R380). A PING is answered ACK when a full packet fits and NAK otherwise. -/
  | usbPing (room : Nat)
  /-- START_SPLIT (R382). A start-split is taken by a translator buffer or answered NAK. -/
  | startSplit (k : BitVec 3) (periodic : Bool) (uframe : BitVec 14) (id : BitVec 16)
  /-- COMPLETE_SPLIT (R382). A complete-split returns the result or NYET while the transaction has not ended. -/
  | completeSplit (k : BitVec 3) (id : BitVec 16) (result : TtResult)
  /-- USB_SUSPEND (R383). After 3 ms of upstream idle the compound device enters Suspended. -/
  | usbSuspend
  /-- USB_RESUME (R383). A resume ending with EOP takes the device out of Suspended. -/
  | usbResume
  /-- WAKE (R384). USBF.CMD WAKE makes a wake source pending while Suspended. -/
  | usbWake
  /-- WAKE_SENSE_START (R384). After 5 ms plus RWDLY of idle the wake enters SENSE. -/
  | wakeSenseStart
  /-- WAKE_DRIVE_START (R384). After 20 µs of SENSE the port drives K for DRV ms. -/
  | wakeDriveStart
  /-- WAKE_DRIVE_END (R384). The K drive of a remote wake ends. -/
  | wakeDriveEnd
  /-- HOST_K_DURING_WAKE (R385). K from the host in PENDING or SENSE cancels the remote wake, which is reported after the EOP. -/
  | hostKDuringWake
  /-- DOWNSTREAM_REMOTE_WAKE (R386). A downstream device's remote wake is absorbed into or propagated as a resume on its port. -/
  | downstreamRemoteWake (k : BitVec 3)
  /-- USB_BUS_RESET (R387). An upstream bus reset resets USB state, discards unissued blocks and reports event kind 0x0154. -/
  | usbBusReset (high : Bool)
  /-- EVENT_TRAP (R398). A pending level above the served level with interrupts enabled makes the pair take the event trap. -/
  | eventTrap (p : Pair)
  /-- NCP_CLAIM (R399). A read of NCP.xCLAIM returns and clears the lowest pending source of the served level. -/
  | ncpClaim (src : Src) (p : Pair)
  /-- NCP_EOI (R399). A write to NCP.xEOI ends service of the present level. -/
  | ncpEoi (p : Pair)
  /-- LOCKSTEP_MISMATCH (R402). A failed lockstep comparison stops both cores and sends fault kind 0x18 at level 3. -/
  | lockstepMismatch (p : Pair) (pc : Word) (kind : BitVec 2)
  /-- WATCHDOG_KICK (R407). A write of 0x0C5A to NCP.xKICK restarts the watchdog; any other value counts as expiry. -/
  | watchdogKick (p : Pair) (value : BitVec 16)
  /-- WATCHDOG_EXPIRY (R407). The pair watchdog expires, raises fault kind 0xD1 and restarts. -/
  | watchdogExpiry (p : Pair)
  /-- LOCKSTEP_SELF_TEST_DONE (R406). The lockstep self-test after a CLEAR ends, halting the pair with fault kind 0xD0 if it failed. -/
  | lockstepSelfTestDone (p : Pair) (ok : Bool)
  /-- LUI (R419). LUI loads an 18-bit immediate shifted left by 14. -/
  | hkLui (p : Pair) (d : BitVec 4) (imm : BitVec 18)
  /-- ADD (R419). ADD writes a + b and sets Z, N, C, V. -/
  | hkAdd (p : Pair) (d : BitVec 4) (a : BitVec 4) (b : BitVec 4)
  /-- ADDI (R419). ADDI writes a plus a sign-extended immediate and sets Z, N, C, V. -/
  | hkAddi (p : Pair) (d : BitVec 4) (a : BitVec 4) (imm : BitVec 14)
  /-- SUB (R420). SUB writes a − b and sets Z, N, C, V. -/
  | hkSub (p : Pair) (d : BitVec 4) (a : BitVec 4) (b : BitVec 4)
  /-- AND (R419). AND writes a and b. -/
  | hkAnd (p : Pair) (d : BitVec 4) (a : BitVec 4) (b : BitVec 4)
  /-- ANDI (R419). ANDI writes a and a zero-extended immediate. -/
  | hkAndi (p : Pair) (d : BitVec 4) (a : BitVec 4) (imm : BitVec 14)
  /-- OR (R419). OR writes a or b. -/
  | hkOr (p : Pair) (d : BitVec 4) (a : BitVec 4) (b : BitVec 4)
  /-- ORI (R419). ORI writes a or a zero-extended immediate. -/
  | hkOri (p : Pair) (d : BitVec 4) (a : BitVec 4) (imm : BitVec 14)
  /-- XOR (R419). XOR writes a xor b. -/
  | hkXor (p : Pair) (d : BitVec 4) (a : BitVec 4) (b : BitVec 4)
  /-- XORI (R419). XORI writes a xor a zero-extended immediate. -/
  | hkXori (p : Pair) (d : BitVec 4) (a : BitVec 4) (imm : BitVec 14)
  /-- SHL (R419). SHL shifts a left by b[4:0]. -/
  | hkShl (p : Pair) (d : BitVec 4) (a : BitVec 4) (b : BitVec 4)
  /-- SHLI (R419). SHLI shifts a left by an immediate. -/
  | hkShli (p : Pair) (d : BitVec 4) (a : BitVec 4) (imm : BitVec 5)
  /-- SHR (R419). SHR shifts a right logically by b[4:0]. -/
  | hkShr (p : Pair) (d : BitVec 4) (a : BitVec 4) (b : BitVec 4)
  /-- SHRI (R419). SHRI shifts a right logically by an immediate. -/
  | hkShri (p : Pair) (d : BitVec 4) (a : BitVec 4) (imm : BitVec 5)
  /-- SRA (R419). SRA shifts a right arithmetically by b[4:0]. -/
  | hkSra (p : Pair) (d : BitVec 4) (a : BitVec 4) (b : BitVec 4)
  /-- SRAI (R419). SRAI shifts a right arithmetically by an immediate. -/
  | hkSrai (p : Pair) (d : BitVec 4) (a : BitVec 4) (imm : BitVec 5)
  /-- MUL (R419). MUL writes the low 32 bits of a × b. -/
  | hkMul (p : Pair) (d : BitVec 4) (a : BitVec 4) (b : BitVec 4)
  /-- MULH (R419). MULH writes the high 32 bits of the signed product. -/
  | hkMulh (p : Pair) (d : BitVec 4) (a : BitVec 4) (b : BitVec 4)
  /-- DIV (R421). DIV writes the signed quotient truncated toward zero. -/
  | hkDiv (p : Pair) (d : BitVec 4) (a : BitVec 4) (b : BitVec 4)
  /-- DIVU (R421). DIVU writes the unsigned quotient. -/
  | hkDivu (p : Pair) (d : BitVec 4) (a : BitVec 4) (b : BitVec 4)
  /-- REM (R421). REM writes the signed remainder with the sign of a. -/
  | hkRem (p : Pair) (d : BitVec 4) (a : BitVec 4) (b : BitVec 4)
  /-- REMU (R421). REMU writes the unsigned remainder. -/
  | hkRemu (p : Pair) (d : BitVec 4) (a : BitVec 4) (b : BitVec 4)
  /-- MIN (R419). MIN writes the signed lesser of a and b. -/
  | hkMin (p : Pair) (d : BitVec 4) (a : BitVec 4) (b : BitVec 4)
  /-- MAX (R419). MAX writes the signed greater of a and b. -/
  | hkMax (p : Pair) (d : BitVec 4) (a : BitVec 4) (b : BitVec 4)
  /-- CLZ (R419). CLZ writes the number of leading zero bits of a. -/
  | hkClz (p : Pair) (d : BitVec 4) (a : BitVec 4)
  /-- LB (R422). LB loads a sign-extended byte. -/
  | hkLb (p : Pair) (d : BitVec 4) (a : BitVec 4) (post : Bool) (imm : BitVec 14) (ecc : EccResult)
  /-- LBU (R422). LBU loads a zero-extended byte. -/
  | hkLbu (p : Pair) (d : BitVec 4) (a : BitVec 4) (post : Bool) (imm : BitVec 14) (ecc : EccResult)
  /-- LH (R422). LH loads a sign-extended half-word. -/
  | hkLh (p : Pair) (d : BitVec 4) (a : BitVec 4) (post : Bool) (imm : BitVec 14) (ecc : EccResult)
  /-- LHU (R422). LHU loads a zero-extended half-word. -/
  | hkLhu (p : Pair) (d : BitVec 4) (a : BitVec 4) (post : Bool) (imm : BitVec 14) (ecc : EccResult)
  /-- LW (R422). LW loads a word. -/
  | hkLw (p : Pair) (d : BitVec 4) (a : BitVec 4) (post : Bool) (imm : BitVec 14) (ecc : EccResult)
  /-- LD (R422). LD loads two words into a register pair. -/
  | hkLd (p : Pair) (d : BitVec 4) (a : BitVec 4) (post : Bool) (imm : BitVec 14) (ecc : EccResult)
  /-- SB (R422). SB stores a byte. -/
  | hkSb (p : Pair) (d : BitVec 4) (a : BitVec 4) (post : Bool) (imm : BitVec 14)
  /-- SH (R422). SH stores a half-word. -/
  | hkSh (p : Pair) (d : BitVec 4) (a : BitVec 4) (post : Bool) (imm : BitVec 14)
  /-- SW (R422). SW stores a word. -/
  | hkSw (p : Pair) (d : BitVec 4) (a : BitVec 4) (post : Bool) (imm : BitVec 14)
  /-- SD (R422). SD stores a register pair as two words. -/
  | hkSd (p : Pair) (d : BitVec 4) (a : BitVec 4) (post : Bool) (imm : BitVec 14)
  /-- BEQ (R419). BEQ branches when a = b. -/
  | hkBeq (p : Pair) (a : BitVec 4) (b : BitVec 4) (imm : BitVec 14)
  /-- BNE (R419). BNE branches when a ≠ b. -/
  | hkBne (p : Pair) (a : BitVec 4) (b : BitVec 4) (imm : BitVec 14)
  /-- BLT (R419). BLT branches when a < b, signed. -/
  | hkBlt (p : Pair) (a : BitVec 4) (b : BitVec 4) (imm : BitVec 14)
  /-- BGE (R419). BGE branches when a ≥ b, signed. -/
  | hkBge (p : Pair) (a : BitVec 4) (b : BitVec 4) (imm : BitVec 14)
  /-- BLTU (R419). BLTU branches when a < b, unsigned. -/
  | hkBltu (p : Pair) (a : BitVec 4) (b : BitVec 4) (imm : BitVec 14)
  /-- BGEU (R419). BGEU branches when a ≥ b, unsigned. -/
  | hkBgeu (p : Pair) (a : BitVec 4) (b : BitVec 4) (imm : BitVec 14)
  /-- BFS (R419). BFS branches when the named flag is 1. -/
  | hkBfs (p : Pair) (f : BitVec 2) (imm : BitVec 14)
  /-- BFC (R419). BFC branches when the named flag is 0. -/
  | hkBfc (p : Pair) (f : BitVec 2) (imm : BitVec 14)
  /-- JAL (R424). JAL writes the return address and jumps PC-relative. -/
  | hkJal (p : Pair) (d : BitVec 4) (imm : BitVec 22)
  /-- JALR (R424). JALR jumps to a + offset and writes the return address. -/
  | hkJalr (p : Pair) (d : BitVec 4) (a : BitVec 4) (imm : BitVec 14)
  /-- CAS (R423). CAS indivisibly compares a word with d and stores b when they are equal. -/
  | hkCas (p : Pair) (d : BitVec 4) (a : BitVec 4) (b : BitVec 4) (ecc : EccResult)
  /-- SWP (R423). SWP indivisibly swaps a word with b. -/
  | hkSwp (p : Pair) (d : BitVec 4) (a : BitVec 4) (b : BitVec 4) (ecc : EccResult)
  /-- MFS (R431). MFS reads a system register. -/
  | hkMfs (p : Pair) (d : BitVec 4) (n : BitVec 12)
  /-- MTS (R431). MTS writes a system register. -/
  | hkMts (p : Pair) (a : BitVec 4) (n : BitVec 12)
  /-- FENCE (R430). FENCE completes once every earlier access of the pair has completed and discards prefetched instructions. -/
  | hkFence (p : Pair)
  /-- TRAP (R432). TRAP takes trap 0x7 with its immediate in CAUSE.IMM. -/
  | hkTrap (p : Pair) (imm : BitVec 14)
  /-- RETT (R435). RETT restores PC, flags, interrupt enable and mode from the trap state. -/
  | hkRett (p : Pair)
  /-- WFE (R425). WFE waits until a level at or above its operand is pending and writes the highest pending level. -/
  | hkWfe (p : Pair) (d : BitVec 4) (imm : BitVec 4)
  /-- SPORE (R426). SPORE posts one software event from a permitted source with a kind and payload. -/
  | hkSpore (p : Pair) (a : BitVec 4) (b : BitVec 4) (c : BitVec 4)
  /-- AXR (R427). AXR evaluates an axis estimate and writes its count, fraction and flags. -/
  | hkAxr (p : Pair) (d : BitVec 4) (a : BitVec 4) (imm : BitVec 14)
  /-- TIM_TIME (R428). TIM with code 0b00 reads fabric time in whole ns. -/
  | hkTimTime (p : Pair) (d : BitVec 4)
  /-- TIM_TICK (R428). TIM with code 0b01 reads the tick count. -/
  | hkTimTick (p : Pair) (d : BitVec 4)
  /-- TIM_FRACTION (R428). TIM with code 0b10 reads the time fraction, SYNC and whole ns [31:0]. -/
  | hkTimFraction (p : Pair) (d : BitVec 4)
  /-- FIRE (R429). FIRE pushes 32 bytes from memory into the append queue as one action entry and sets Z. -/
  | hkFire (p : Pair) (a : BitVec 4) (ecc : EccResult)
  /-- LOCAL_GAP_RECORD (R445). Once a local spore queue has room after drops, a GAP record with the drop count is stored. -/
  | localGapRecord (q : BitVec 4)
  /-- SPORE_FRAME_SEND (R447). A bound queue sends a spore frame when it holds BATCH records or its oldest has waited HOLD µs. -/
  | sporeFrameSend (q : BitVec 4)
  /-- SPORE_FRAME_RECEIVED (R448). A delivered spore frame is ordered, checked and its records delivered to the host queue. -/
  | sporeFrameReceived
  /-- HQCONS_WRITE (R453). A write to HQCONSh returns slots to the host queue. -/
  | hqconsWrite (src : Src) (h : BitVec 6) (data : Word)
  /-- HOST_QUEUE_ENABLE (R451). HQCTLh.EN going from 0 to 1 takes the queue settings and resets PROD and CONS. -/
  | hostQueueEnable (src : Src) (h : BitVec 6) (vec : BitVec 6) (size : BitVec 4)
  /-- MSIX_MODERATION_TIMEOUT (R454). HQMOD.TIME after the first unsignalled record, the host queue sends its MSI-X vector. -/
  | msixModerationTimeout (h : BitVec 6)
  /-- PCIE_LINK_DOWN (R459). The PCIe link going down while function 11 runs is counted and raises fault kind 0xCB. -/
  | pcieLinkDown
  /-- FUNCTION_LEVEL_RESET (R460). A Function Level Reset resets configuration and MSI-X, disables host queues and DMA channels. -/
  | functionLevelReset
  /-- BAR0_ACCESS (R457). A BAR0 request accesses the register window DW by DW. -/
  | bar0Access (off : BitVec 24) (write : Bool) (data : List (Option Byte))
  /-- BAR4_ACCESS (R457). A BAR4 request accesses local regions 1–5 as local accesses. -/
  | bar4Access (off : BitVec 23) (write : Bool) (len : BitVec 13) (data : List (Option Byte)) (ecc : EccResult)
  /-- DMA_ENABLE (R461). DCTLc.EN going from 0 to 1 takes the ring settings and starts the channel. -/
  | dmaEnable (src : Src) (c : BitVec 3) (vec : BitVec 6) (size : BitVec 4)
  /-- DMA_TAIL_WRITE (R461). A write to DTAILc hands descriptors to the channel. -/
  | dmaTailWrite (c : BitVec 3) (data : Word)
  /-- DMA_DESCRIPTOR_COMPLETE (R463). A descriptor completes, STS and DONEB are written, DHEAD advances and the vector may be sent. -/
  | dmaDescriptorComplete (c : BitVec 3) (desc : List Byte)
  /-- DMA_HOST_READ_TIMEOUT (R464). A host memory read without completion in 50 ms fails with TIMEOUT. -/
  | dmaHostReadTimeout (c : BitVec 3)
  /-- DMA_DISABLE (R465). Writing EN := 0 stops the channel after the descriptors already started. -/
  | dmaDisable (src : Src) (c : BitVec 3)
  /-- FAULT_MESSAGE_PROCESS (R472). The collector takes the next message from its lanes, classifies it and applies the reaction of its level. -/
  | faultMessageProcess
  /-- LINE_DIE_LINK_LOST (R481). A line die with no link traffic for 4 µs applies safe outputs itself and the collector raises kind 0xE3. -/
  | lineDieLinkLost (die : Die)
  /-- ALIVE_TOGGLE (R482). Each half period ALIVE changes level while its conditions hold. -/
  | aliveToggle
  /-- PEER_ALIVE_LOST (R483). No ALIVE_PEER edge for 4 × HALF declares the peer's ALIVE lost. -/
  | peerAliveLost
  /-- PEER_ALIVE_PRESENT (R483). Eight consecutive valid ALIVE_PEER levels declare the peer's ALIVE present. -/
  | peerAlivePresent
  /-- FLT_ACK (R485). FLT.ACK with ALL = 0 clears PEND of one entry and acknowledges its node-safe cause. -/
  | fltAck (entry : BitVec 8)
  /-- FLT_ACK_ALL (R485). FLT.ACK with ALL = 1 clears PEND of every entry and sets SAFEACK. -/
  | fltAckAll
  /-- SAFE_EXIT (R486). FLT.SAFEEXIT ends node safe when it is acknowledged and both line dies are up. -/
  | safeExit (src : Src)
  /-- PAIR_LOGIC_ENTRY (R495). A hub with a valid image enters the pair logic and decides its role by slot, PEERALIVE and twin link. -/
  | pairLogicEntry
  /-- TWIN_WAIT_TIMEOUT (R495). A slot 0 hub that has waited 100 ms without an UP twin link becomes PROBING or RESTING. -/
  | twinWaitTimeout
  /-- PROBE_RESULT_TIMEOUT (R496). A PROBING hub whose ring ports stay down for 100 ms becomes RESTING and raises kind 0xE9. -/
  | probeResultTimeout
  /-- PROBE_REPEAT (R496). Every 10 s a resting slot 0 hub that cannot see its peer probes again. -/
  | probeRepeat
  /-- BOOTWAIT_EXPIRY (R498). PEERALIVE at 0 for BOOTWAIT ms takes a resting hub to TAKING without a checkpoint. -/
  | bootwaitExpiry
  /-- FALLEN_SAFE_END (R500). Two ms after FALLEN the line dies enter rest hold. -/
  | fallenSafeEnd
  /-- CHECKPOINT_INCREMENT_SEND (R502). Each checkpoint period a leading hub sends an increment, or a base checkpoint when needed. -/
  | checkpointIncrementSend
  /-- CHECKPOINT_PART_RECEIVED (R505). A resting hub stages checkpoint parts and applies a checked in-sequence increment whole. -/
  | checkpointPartReceived (seq : Word) (base : Bool) (recs : List CkptRecord) (last : Bool) (ok : Bool)
  /-- CHECKPOINT_SILENCE (R505). No increment for 3 periods sets SYNC to GAP. -/
  | checkpointSilence
  /-- HEALTH_REPORT_SEND (R513). Every 10 ms a hub sends its health report over the twin link. -/
  | healthReportSend
  /-- HEALTH_REPORT_RECEIVED (R513). The peer's health report is stored in TWIN.PHLTH0–7. -/
  | healthReportReceived
  /-- HANDOVER_MESSAGE_RECEIVED (R511). A handover message between the pair starts or advances a handover. -/
  | handoverMessageReceived (m : HandoverMsg)
  /-- HANDBACK_HOLDOFF_EXPIRY (R510). A fit resting slot 0 hub requests a hand-back once its conditions have held for HOLDOFF s. -/
  | handbackHoldoffExpiry
  /-- HANDBACK (R510). Pair command HANDBACK requests a hand-back at once. -/
  | pairHandback
  /-- YIELD (R510). Pair command YIELD offers leadership to the peer. -/
  | pairYield
  /-- RESYNC (R502). Pair command RESYNC makes the leader send a base checkpoint. -/
  | pairResync
  /-- HOLD (R510). Pair command HOLD sets HELD, suppressing automatic hand-back. -/
  | pairHold
  /-- RELEASE (R510). Pair command RELEASE clears HELD. -/
  | pairRelease
  /-- HANDOVER_FREEZE (R511). At T0 the giver freezes its outputs, stops the lead set and sends the final increment. -/
  | handoverFreeze
  /-- HANDOVER_SWITCH (R511). After at least 100 µs of overlap the receiver asserts LEAD and the giver negates it. -/
  | handoverSwitch
  /-- HANDOVER_DONE (R511). The receiver starts the lead set, ends the freeze and enters LEADING. -/
  | handoverDone
  /-- DOMAIN_REQUEST (R523). A write to PWR.DCTL requests domains on or off for the sequencer. -/
  | domainRequest (src : Src) (data : Word)
  /-- DOMAIN_ON (R523). A ramping domain reaches its supply window and becomes ON. -/
  | domainOn (d : BitVec 4)
  /-- DOMAIN_TEST_DONE (R552). The first switch-on test of a domain ends and waiting functions may proceed. -/
  | domainTestDone (d : BitVec 4) (finds : BistFinds)
  /-- DOMAIN_SWITCH_ON_FAILED (R523). A domain not ON within twice its switch-on time becomes FAILED and raises kind 0xF1. -/
  | domainSwitchOnFailed (d : BitVec 4)
  /-- DOMAIN_OFF (R524). A domain is isolated and switched off, losing its working state. -/
  | domainOff (d : BitVec 4)
  /-- BUCK_HICCUP (R528). After 16 consecutive limited cycles a line-die buck stops switching for 10 ms. -/
  | buckHiccup (die : Die)
  /-- BUCK_RESTART (R528). After 10 ms stopped, a line-die buck soft-starts again. -/
  | buckRestart (die : Die)
  /-- TEMPERATURE_MEASUREMENT (R529). Every 100 µs each die's temperature is compared with its warning and critical thresholds. -/
  | temperatureMeasurement (die : BitVec 2) (t : BitVec 16)
  /-- CHANNEL_TINS_EXPIRY (R535). The input in window for TINS takes a waiting channel to PRECHARGE, or RAMP under the hot start. -/
  | channelTinsExpiry (nn : BitVec 4) (hot : Bool)
  /-- PRECHARGE_DONE (R533). VFnn reaching PVINnn − PREDV takes the channel from PRECHARGE to RAMP. -/
  | prechargeDone (nn : BitVec 4)
  /-- GATE_ENHANCED (R536). The main gate enhanced with LIMIT = 0 takes the channel from RAMP to ON. -/
  | gateEnhanced (nn : BitVec 4)
  /-- CHANNEL_UNDERVOLTAGE (R535). The input below UV for UVDLY returns the channel to WAIT with kind 0xF5. -/
  | channelUndervoltage (nn : BitVec 4)
  /-- CHANNEL_OVERVOLTAGE (R535). The input above OV turns the gates off and returns the channel to WAIT. -/
  | channelOvervoltage (nn : BitVec 4)
  /-- PRETMO_EXPIRY (R533). PRETMO elapsing in PRECHARGE trips the channel with kind 0xF6. -/
  | pretmoExpiry (nn : BitVec 4)
  /-- FAULT_TIMER_EXPIRY (R537). The fault timer reaching 100 × FTIM trips the channel. -/
  | faultTimerExpiry (nn : BitVec 4)
  /-- GTMO_EXPIRY (R536). GTMO elapsing in RAMP without enhancement trips the channel with kind 0xFA. -/
  | gtmoExpiry (nn : BitVec 4)
  /-- FAST_TRIP (R538). The shunt voltage reaching FTV turns both FETs off and trips the channel. -/
  | fastTrip (nn : BitVec 4)
  /-- REVERSE_CURRENT (R539). A negative shunt voltage for 2 ticks turns the gates off and returns the channel to WAIT. -/
  | reverseCurrent (nn : BitVec 4)
  /-- REVERSED_SUPPLY (R533). PVINnn below −2.0 V for 10 µs takes the channel to REVERSED. -/
  | reversedSupply (nn : BitVec 4)
  /-- REVERSED_SUPPLY_CLEARED (R533). PVINnn at or above −1.0 V for 100 ms returns a REVERSED channel to WAIT. -/
  | reversedSupplyCleared (nn : BitVec 4)
  /-- POWER_GOOD_ASSERTED (R540). The power-good debounce reaching 1,000 × PGDB asserts power-good. -/
  | powerGoodAsserted (nn : BitVec 4)
  /-- POWER_GOOD_REMOVED (R541). VFnn below PGTH for 10 ticks, or leaving ON, removes power-good. -/
  | powerGoodRemoved (nn : BitVec 4)
  /-- CHANNEL_RETRY (R542). RETRYT s after a trip with retries left the channel re-enters WAIT. -/
  | channelRetry (nn : BitVec 4)
  /-- RETRY_COUNT_RESET (R542). Power-good held for 60 s returns the retry count to 0. -/
  | retryCountReset (nn : BitVec 4)
  /-- RETRY (R542). PWR.PCCMD RETRY clears the retry count of a latched channel and enters WAIT. -/
  | powerRetry (nn : BitVec 4)
  /-- GATE_RELEASE (R546). With PAIRREL = 1 a line die releases its gate outputs 2 ms after its link was lost. -/
  | gateRelease (die : Die)
  /-- SCRUB_READ (R558). The background scrub reads a memory row and writes back corrected words. -/
  | scrubRead (mid : BitVec 7) (row : BitVec 12) (ecc : EccResult) (last : Bool)
  /-- ROW_RETIREMENT (R561). A marked row is copied to the lowest free spare row once its memory allows it. -/
  | rowRetirement (mid : BitVec 7) (row : BitVec 12)
  /-- RETIRE (R561). Repair command RETIRE retires rows waiting with AUTO = 0. -/
  | rprRetire
  /-- MAPWRITE (R557). Repair command MAPWRITE writes the in-service map to both copies. -/
  | rprMapwrite
  /-- SCRUBNOW (R558). Repair command SCRUBNOW starts a full scrub pass at once. -/
  | rprScrubnow
  /-- IN_SERVICE_MAP_WRITE (R557). With AUTOMAP = 1 the in-service map is written after a repair once PEAT is not busy. -/
  | inServiceMapWrite
  /-- SECTOR_RETIREMENT (R562). A marked peat sector is copied into a spare sector while PEAT is not busy. -/
  | sectorRetirement (die : Die) (sector : BitVec 5)
  /-- SERVO_INTERVAL_END (R210). At the end of the interval that follows an applied error, fabric time leaves the proportional rate and runs at the base rate again. -/
  | servoIntervalEnd
  /-- ENCODER_SIGNAL_RESTORED (R297). Encoder error cause 1 or 2 ends, ESTAT.ENCERR clears and samples stop carrying ENCERR. -/
  | encoderSignalRestored (u : BitVec 4)
  /-- SPARE_ENGINE_TEST_FAILED (R326). The continuous test of an unused spare pinna engine fails and ENGMAP.SPAREOK becomes 0. -/
  | spareEngineTestFailed (nn : BitVec 4)
  /-- BUS_INTEGRATION_DONE (R347). A CAN controller that is integrating sees 11 consecutive recessive bits and becomes error-active, able to receive and send. -/
  | busIntegrationDone (k : BitVec 3)
  /-- PROTOCOL_EXCEPTION (R346). A recessive res bit in an FD frame puts the controller into bus integration, counts in PXCNT and raises fault kind 0xB3, or with PXD = 1 sends an error frame. -/
  | protocolException (k : BitVec 3)
  /-- DOWNSTREAM_CONNECT_CHANGE (R373). A device is attached to or detached from a powered downstream port and the port's connection status changes. -/
  | downstreamConnectChange (k : BitVec 3) (attached : Bool) (speed : BitVec 2)
  /-- DOWNSTREAM_RESUME_END (R386). A resume that the hub drives on a downstream port ends, and C_PORT_SUSPEND is set once with event kind 0x0157. -/
  | downstreamResumeEnd (k : BitVec 3)
  /-- ILLEGAL_INSTRUCTION (R415). A pair issues a word with an unlisted opcode, a non-zero zero field or a reserved operand code, and takes the illegal-instruction trap. -/
  | illegalInstruction (p : Pair) (word : Word)
  /-- PCIE_LINK_UP (R459). PCIe link training completes and PCIE.STAT.LINKUP becomes 1, so spore records can be delivered again. -/
  | pcieLinkUp (width : BitVec 3) (speed : BitVec 3)
  /-- PCIE_CONFIGURATION_WRITE (R456). A configuration request from the host changes the header, Bus Master Enable, MSI-X enable or function mask, or the power state. -/
  | pcieConfigurationWrite (bme : Bool) (msixEn : Bool) (fmask : Bool) (dstate : BitVec 2)
  /-- LINE_DIE_LINK_UP (R481). A line die's die-to-die link comes up again after a loss, LA_UP or LB_UP returns to 1 and register access resumes. -/
  | lineDieLinkUp (die : Die)
  /-- RESTING_HUB_SELF_TEST (R513). The resting hub's periodic self-test runs its line-die link check every 1 ms and its pair A lockstep test every 10 s, and raises fault kind 0xED on failure. -/
  | restingHubSelfTest (check : BitVec 4) (pass : Bool)
  /-- TMR_CORRECTION (R13). A disagreement between the copies of a TMR field is corrected on the next core tick and counted in RPR.TMRFIX. -/
  | tmrCorrection
deriving DecidableEq, Repr

end Sys2Proof
end

