-- ==== Sys2Proof/Decode.lean ====
section
/-! DEFINITION. The words that the opcode table gives its rows. The table gives no row any bits: the hub takes commands and
events, not instruction words, so no word spells a command. -/

namespace Sys2Proof

/-- The command that a word spells by the bits of the opcode table: none, since no row has bits. -/
def decodeTableWord (_nbits _w : Nat) : Option Instr := none

end Sys2Proof
end

