-- ==== Sys2Proof/Machine/RegRow.lean ====
section
/-! DEFINITION. What one line of the spec's register tables says of a register or of an array of registers:
where it lies, its access code (R10), the bits it implements (R9), its factory value (R8), the function that owns
it (R27), the codes that are not reserved (R9), and whether it is part of a wide value (R30, R31). -/

namespace Sys2Proof.Machine

/-- The access codes of R10. `rwpPop` is LDX.DATA, which carries RWP and POP together (R29). -/
inductive Acc where
  | ro | rw | rws | rwx | rwk | rwp | pop | wo | rwpPop
deriving DecidableEq, Repr

/-- Part of a value that spans registers: a staged lower part of a control value, the register whose write applies
the `k` staged parts below it (R30), or the lowest part of a status value whose read latches the next `k` (R31). -/
inductive Wide where
  | no | stage | apply (k : Nat) | latch (k : Nat)
deriving DecidableEq, Repr

/-- One register, or a two-dimensional array of registers, of the register tables. -/
structure RegRow where
  base : Nat
  n1 : Nat := 1
  s1 : Nat := 0
  n2 : Nat := 1
  s2 : Nat := 0
  acc : Acc
  /-- the implemented bits; reserved bits read 0 (R9) -/
  mask : Nat := 0xFFFFFFFF
  fac : Nat → Nat → Nat := fun _ _ => 0
  /-- the owning function of element (i, j) is `own + own1 * i + own2 * j`; 256 and above is no owner -/
  own : Nat := 256
  own1 : Nat := 0
  own2 : Nat := 0
  /-- `false` for a value in which an enumerated field holds a reserved code (R9) -/
  ok : Nat → Bool := fun _ => true
  wide : Wide := .no
  /-- a word of 32 data bits to which the write mask of R12 does not apply -/
  full : Bool := false

/-- The element of the row that lies at an offset. -/
def RegRow.index? (r : RegRow) (off : Nat) : Option (Nat × Nat) :=
  if off < r.base then none
  else
    let d := off - r.base
    let i := if r.s1 = 0 then 0 else d / r.s1
    let d1 := if r.s1 = 0 then d else d % r.s1
    let j := if r.s2 = 0 then 0 else d1 / r.s2
    let d2 := if r.s2 = 0 then d1 else d1 % r.s2
    if d2 = 0 ∧ i < r.n1 ∧ j < r.n2 then some (i, j) else none

/-- A register found at an offset: its row and its element. -/
structure RegHit where
  row : RegRow
  i : Nat
  j : Nat

/-- The first row of a list that has an element at the offset. -/
def findRow : List RegRow → Nat → Option RegHit
  | [], _ => none
  | r :: rs, off =>
    match r.index? off with
    | some (i, j) => some { row := r, i := i, j := j }
    | none => findRow rs off

/-- The factory value of the register found (R8). -/
def RegHit.factory (h : RegHit) : Word := BitVec.ofNat 32 (h.row.fac h.i h.j)

/-- The function that owns the register found, when one does (R27). -/
def RegHit.owner? (h : RegHit) : Option Nat :=
  let o := h.row.own + h.row.own1 * h.i + h.row.own2 * h.j
  if o < 256 then some o else none

end Sys2Proof.Machine
end

