-- ==== Sys2Proof/Machine/RowsCan.lean ====
section
/-! DEFINITION. The register rows of the CAN controllers and of the bridge (13). -/

namespace Sys2Proof.Machine

/-- The registers of controller k (13, "CAN registers"). -/
def canRows (k : Nat) : List RegRow :=
  let b := 0x0C0000 + 0x2000 * k
  let own := 32 + k
  [{ base := b, acc := .rwx, mask := 0xF6F, own := own, fac := fun _ _ => 0x41, ok := fun v => decide (v % 8 ≤ 3) },
   { base := b + 0x4, acc := .rwx, mask := 0xFFFF, own := own, fac := fun _ _ => 0x1E01 },
   { base := b + 0x8, acc := .rwx, mask := 0xFF7F, own := own, fac := fun _ _ => 0x3E0F },
   { base := b + 0xC, acc := .rwx, mask := 0x1FFF, own := own, fac := fun _ _ => 0x1C99 },
   { base := b + 0x10, acc := .rwx, mask := 0x7F1F, own := own, fac := fun _ _ => 0x1E00 },
   { base := b + 0x14, acc := .rwx, mask := 0xFFF7, own := own, fac := fun _ _ => 0x3640,
     ok := fun v => decide (v / 4096 ≠ 0) && decide (v / 16 % 256 ≠ 0) },
   { base := b + 0x18, acc := .rws, mask := 0x3, own := own },
   { base := b + 0x1C, n1 := 2, s1 := 4, acc := .rws, mask := 0x1FF, own := own, fac := fun _ _ => 0x1FF },
   { base := b + 0x24, acc := .rws, mask := 0xFFFF, own := own, fac := fun _ _ => 0x1010 },
   { base := b + 0x40, n1 := 8, s1 := 8, acc := .rwx, mask := 0xFFFF, own := own,
     fac := fun i _ => 0x1E00 + 2 ^ i - 1 },
   { base := b + 0x44, n1 := 8, s1 := 8, acc := .rwx, mask := 0xFF7F, own := own, fac := fun _ _ => 0x3E0F },
   { base := b + 0x80, n1 := 2, s1 := 4, acc := .rw, mask := 0xFFFF },
   { base := b + 0x88, acc := .rw, mask := 0x7F },
   { base := b + 0x8C, acc := .wo },
   { base := b + 0x90, acc := .ro },
   { base := b + 0x94, acc := .wo },
   { base := b + 0xA0, n1 := 4, s1 := 4, acc := .ro },
   { base := b + 0xC0, n1 := 2, s1 := 8, acc := .pop },
   { base := b + 0xC4, n1 := 2, s1 := 8, acc := .ro },
   { base := b + 0xD0, n1 := 2, s1 := 4, acc := .ro },
   { base := b + 0x100, n1 := 16, s1 := 0x20, n2 := 4, s2 := 4, acc := .rws, mask := 0xFFFF, own := own },
   { base := b + 0x110, n1 := 16, s1 := 0x20, acc := .rws, mask := 0x7, own := own },
   { base := b + 0x300, n1 := 15, s1 := 4, acc := .ro },
   { base := b + 0x400, n1 := 32, s1 := 4, acc := .rw, mask := 0xFFFF }]

/-- BRG registers (13, "BRG registers"). -/
def brgRows : List RegRow := [
  { base := 0x0B0000, acc := .wo },
  { base := 0x0B0004, acc := .ro },
  { base := 0x0B0008, acc := .rws, mask := 0xFFFF, own := 8, fac := fun _ _ => 0xC8, ok := fun v => v ≠ 0 },
  { base := 0x0B000C, acc := .rws, mask := 0x1FF, own := 8, fac := fun _ _ => 0x1FF },
  { base := 0x0B0010, acc := .rws, mask := 0xFF, own := 8, fac := fun _ _ => 0x10 },
  { base := 0x0B0014, acc := .rw, mask := 0x7FF },
  { base := 0x0B0040, n1 := 8, s1 := 4, acc := .ro },
  { base := 0x0B0080, acc := .pop },
  { base := 0x0B0084, n1 := 2, s1 := 4, acc := .ro },
  { base := 0x0B0100, n1 := 14, s1 := 4, acc := .ro }]

/-- The transceiver words of line die d (13): LD.CANXm and LD.CANSm. -/
def ldCanRows (d : Nat) : List RegRow :=
  let b := 0x1000000 + 0x10000 * d
  [{ base := b + 0x3800, n1 := 4, s1 := 2, acc := .rwx, mask := 1, own := 32 + 4 * d, own1 := 1 },
   { base := b + 0x3801, n1 := 4, s1 := 2, acc := .ro }]

end Sys2Proof.Machine
end

