-- ==== Sys2Proof/Machine/RowsCore.lean ====
section
/-! DEFINITION. The register rows of the SYS, FUNC, KEY and LDX blocks (02), of the fault collector FLT (18) and
of EVT and PCIE (17), as the register tables of those chapters give them. -/

namespace Sys2Proof.Machine

/-- SYS registers (02, "SYS registers"). -/
def sysRows : List RegRow := [
  { base := 0x000000, acc := .ro, fac := fun _ _ => 0x48107416 },
  { base := 0x000004, acc := .ro, wide := .latch 1 },
  { base := 0x000008, acc := .ro },
  { base := 0x00000C, n1 := 5, s1 := 4, acc := .ro },
  { base := 0x000020, acc := .rw, mask := 0xFFFF },
  { base := 0x000024, acc := .rwk, mask := 0x3 }]

/-- FUNC registers (02, "FUNC registers"). -/
def funcRows : List RegRow := [
  { base := 0x010000, acc := .wo },
  { base := 0x010004, acc := .ro },
  { base := 0x010008, n1 := 2, s1 := 4, acc := .wo },
  { base := 0x010010, n1 := 4, s1 := 4, acc := .ro },
  { base := 0x010400, n1 := 256, s1 := 4, acc := .ro },
  { base := 0x010800, n1 := 256, s1 := 4, acc := .rwx, mask := 0x1F, own := 0, own1 := 1 },
  { base := 0x010C00, n1 := 256, s1 := 4, acc := .rwk, mask := 0x1FF }]

/-- KEY registers (02, "KEY registers"). -/
def keyRows : List RegRow := [
  { base := 0x250000, acc := .wo },
  { base := 0x250004, n1 := 4, s1 := 4, acc := .ro }]

/-- LDX registers (02, "LDX registers"). -/
def ldxRows : List RegRow := [
  { base := 0x260000, acc := .rwp, mask := 0xBFFF },
  { base := 0x260004, acc := .rwpPop, mask := 0xFFFF },
  { base := 0x260008, n1 := 2, s1 := 4, acc := .ro },
  { base := 0x260010, acc := .rw, mask := 0xFF }]

/-- FLT registers (18, "FLT registers"). -/
def fltRows : List RegRow := [
  { base := 0x210000, acc := .rwx, mask := 0x10F, fac := fun _ _ => 2, own := 15, ok := fun v => v % 16 ≠ 0 },
  { base := 0x210004, acc := .rwx, mask := 0xFFFF, fac := fun _ _ => 0xFFFF, own := 15 },
  { base := 0x210008, acc := .wo },
  { base := 0x21000C, acc := .rwk, mask := 0x1 },
  { base := 0x210010, acc := .ro },
  { base := 0x210014, acc := .ro, wide := .latch 1 },
  { base := 0x210018, acc := .ro },
  { base := 0x210020, acc := .ro },
  { base := 0x210024, acc := .rw, mask := 0x7F },
  { base := 0x210040, n1 := 12, s1 := 4, acc := .ro },
  { base := 0x211000, n1 := 64, s1 := 0x20, acc := .ro, wide := .latch 1 },
  { base := 0x211004, n1 := 64, s1 := 0x20, n2 := 2, s2 := 4, acc := .ro },
  { base := 0x21100C, n1 := 64, s1 := 0x20, acc := .ro, wide := .latch 1 },
  { base := 0x211010, n1 := 64, s1 := 0x20, acc := .ro },
  { base := 0x212000, n1 := 255, s1 := 0x20, acc := .rwx, mask := 0xC3FF, own := 15 },
  { base := 0x213FE0, acc := .rwx, mask := 0x43FF, own := 15, fac := fun _ _ => 0x8000 },
  { base := 0x212004, n1 := 256, s1 := 0x20, acc := .rwx, mask := 0xE3FF, own := 15, fac := fun _ _ => 0xE000,
    ok := fun v => v / 0x2000 ≠ 5 ∧ v / 0x2000 ≠ 6 },
  { base := 0x212008, n1 := 256, s1 := 0x20, acc := .rwx, mask := 0xFFFF, own := 15 },
  { base := 0x21200C, n1 := 256, s1 := 0x20, acc := .rwx, mask := 0xFFF0, own := 15,
    ok := fun v => v / 0x20 % 8 < 5 },
  { base := 0x212010, n1 := 256, s1 := 0x20, acc := .rwx, mask := 0xFF, own := 15,
    ok := fun v => v ≠ 15 ∧ (v < 56 ∨ 63 < v) },
  { base := 0x214000, n1 := 512, s1 := 4, acc := .ro }]

/-- EVT registers (17, "EVT registers"). -/
def evtRows : List RegRow := [
  { base := 0x0F0000, n1 := 1024, s1 := 4, acc := .rws, mask := 0xFFFE, own := 12 },
  { base := 0x0F1000, n1 := 1024, s1 := 4, acc := .rws, mask := 0x7F, own := 12 },
  { base := 0x0F2000, n1 := 1024, s1 := 4, acc := .ro },
  { base := 0x0F3000, n1 := 16, s1 := 0x20, acc := .rwx, mask := 0xFF00, own := 12, ok := fun v => v / 0x4000 ≠ 3 },
  { base := 0x0F3004, n1 := 16, s1 := 0x20, acc := .rwx, mask := 0xFFFC, own := 12, fac := fun _ _ => 0xFFF0,
    ok := fun v => v / 4 % 4 ≠ 3 },
  { base := 0x0F3008, n1 := 16, s1 := 0x20, acc := .rws, mask := 0xFF1F, own := 12, fac := fun _ _ => 0x0A08,
    ok := fun v => 1 ≤ v % 32 ∧ v % 32 ≤ 16 },
  { base := 0x0F300C, n1 := 16, s1 := 0x20, acc := .rws, mask := 0x1FF, own := 12, fac := fun _ _ => 0x1FF },
  { base := 0x0F3010, n1 := 16, s1 := 0x20, acc := .rws, mask := 0x1FF, own := 12, fac := fun _ _ => 0x20 },
  { base := 0x0F3014, n1 := 16, s1 := 0x20, n2 := 3, s2 := 4, acc := .ro },
  { base := 0x0F3200, acc := .rws, mask := 0xFFFF, own := 12, fac := fun _ _ => 0xC8, ok := fun v => v ≠ 0 },
  { base := 0x0F3204, n1 := 5, s1 := 4, acc := .ro }]

/-- PCIE registers (17, "PCIE registers"). -/
def pcieRows : List RegRow := [
  { base := 0x200000, acc := .rwx, mask := 0x3FF, own := 11, ok := fun v => v % 4 ≠ 3 },
  { base := 0x200004, acc := .rwx, mask := 0xFFFF, own := 11, fac := fun _ _ => 0x3A6E },
  { base := 0x200008, acc := .rwx, mask := 0xFFFF, own := 11, fac := fun _ _ => 0x7416 },
  { base := 0x20000C, n1 := 5, s1 := 4, acc := .ro },
  { base := 0x200400, n1 := 64, s1 := 0x40, acc := .rw, mask := 0xBF0F, ok := fun v => v % 16 < 12 },
  { base := 0x200404, n1 := 64, s1 := 0x40, acc := .rw, mask := 0xF000, wide := .stage },
  { base := 0x200408, n1 := 64, s1 := 0x40, n2 := 2, s2 := 4, acc := .rw, mask := 0xFFFF, wide := .stage },
  { base := 0x200410, n1 := 64, s1 := 0x40, acc := .rw, mask := 0xFFFF, wide := .apply 3 },
  { base := 0x200414, n1 := 64, s1 := 0x40, acc := .rw, mask := 0xFFFC, wide := .stage },
  { base := 0x200418, n1 := 64, s1 := 0x40, n2 := 2, s2 := 4, acc := .rw, mask := 0xFFFF, wide := .stage },
  { base := 0x200420, n1 := 64, s1 := 0x40, acc := .rw, mask := 0xFFFF, wide := .apply 3 },
  { base := 0x200424, n1 := 64, s1 := 0x40, acc := .rw, mask := 0xFFFF, fac := fun _ _ => 0x0101,
    ok := fun v => v ≠ 0 },
  { base := 0x200428, n1 := 64, s1 := 0x40, acc := .rw, mask := 0xFFFF },
  { base := 0x200430, n1 := 64, s1 := 0x40, n2 := 3, s2 := 4, acc := .ro },
  { base := 0x202000, n1 := 8, s1 := 0x40, acc := .rw, mask := 0xBF0F, ok := fun v => v % 16 < 9 },
  { base := 0x202004, n1 := 8, s1 := 0x40, acc := .rw, mask := 0xFFE0, wide := .stage },
  { base := 0x202008, n1 := 8, s1 := 0x40, n2 := 2, s2 := 4, acc := .rw, mask := 0xFFFF, wide := .stage },
  { base := 0x202010, n1 := 8, s1 := 0x40, acc := .rw, mask := 0xFFFF, wide := .apply 3 },
  { base := 0x202014, n1 := 8, s1 := 0x40, acc := .rw, mask := 0xFFFF },
  { base := 0x202018, n1 := 8, s1 := 0x40, n2 := 4, s2 := 4, acc := .ro },
  { base := 0x204000, n1 := 64, s1 := 0x10, acc := .rw, mask := 0xFFFFFFFC, full := true },
  { base := 0x204004, n1 := 64, s1 := 0x10, n2 := 2, s2 := 4, acc := .rw, full := true },
  { base := 0x20400C, n1 := 64, s1 := 0x10, acc := .rw, mask := 1, fac := fun _ _ => 1, full := true },
  { base := 0x205000, n1 := 2, s1 := 4, acc := .ro }]

end Sys2Proof.Machine
end

