-- ==== Sys2Proof/Machine/RowsFrond.lean ====
section
/-! DEFINITION. The register rows of the action scheduler ACT (10), of the fronds with their channels, encoder units
and engines (11, 12), and of the line dies (11). -/

namespace Sys2Proof.Machine

/-- ACT registers (10, "ACT registers"). -/
def actRows : List RegRow := [
  { base := 0x0A0000, acc := .wo },
  { base := 0x0A0004, acc := .ro },
  { base := 0x0A0008, acc := .rw, mask := 0x3F },
  { base := 0x0A000C, acc := .rw, mask := 0xFFFF, wide := .stage },
  { base := 0x0A0010, acc := .rw, mask := 0xFFFF, wide := .apply 1 },
  { base := 0x0A0014, acc := .ro },
  { base := 0x0A0018, acc := .rws, mask := 0xFF, own := 7, fac := fun _ _ => 0xFF },
  { base := 0x0A001C, acc := .rws, mask := 0xFF, own := 7, fac := fun _ _ => 0x10 },
  { base := 0x0A0020, acc := .ro },
  { base := 0x0A0030, acc := .rw, mask := 0xFFF },
  { base := 0x0A0034, acc := .ro },
  { base := 0x0A0040, n1 := 8, s1 := 4, acc := .ro },
  { base := 0x0A0080, n1 := 12, s1 := 4, acc := .ro },
  { base := 0x0A0100, n1 := 48, s1 := 4, acc := .ro },
  { base := 0x0A1000, n1 := 256, s1 := 4, acc := .rwx, mask := 0xFFFF, own := 7 },
  { base := 0x0A1400, n1 := 256, s1 := 4, acc := .rws, mask := 0xFFF8, own := 7 }]

/-- A line mode value that is not reserved, on L0 to L11 or on L12 to L15 (R275, R276). -/
def lmodeOk (pairLine : Bool) (v : Nat) : Bool :=
  let mode := v % 8
  let osrc := v / 16 % 8
  decide (mode ≤ 5) && decide (osrc ≤ 5) && decide (v / 128 % 4 ≠ 3) &&
    (if mode = 5 then (if pairLine then osrc == 0 else decide (2 ≤ osrc))
     else if mode = 2 ∨ mode = 3 then true else osrc == 0)

/-- A UART configuration value that is not reserved (R285, R290). -/
def ucfgOk (c : Nat) (v : Nat) : Bool :=
  let frame := v / 256 % 4
  let data := v / 4 % 4
  decide (frame ≠ 3) && decide (data ≠ 3) && decide (v / 16 % 8 ≤ 4) && (frame != 2 || data == 2) &&
    (c == 0 || decide (v % 4 ≠ 3))

/-- The registers of one RS-485 channel (11). -/
def uartRows (b nn c : Nat) : List RegRow :=
  let o := b + 0x100 + 0x40 * c
  let own := 208 + 2 * nn + c
  [{ base := o, acc := .rwx, mask := 0x1FFF, own := own, fac := fun _ _ => 4, ok := ucfgOk c },
   { base := o + 0x4, acc := .rwx, mask := 0xFFFF, own := own, fac := fun _ _ => 0x87A, ok := fun v => 0x19 ≤ v },
   { base := o + 0x8, acc := .rws, mask := 0xFF0F, own := own, fac := fun _ _ => 0x2301, ok := fun v => 0x100 ≤ v },
   { base := o + 0xC, acc := .rws, mask := 0xFFFF, own := own, fac := fun _ _ => 0x8FF },
   { base := o + 0x10, acc := .wo },
   { base := o + 0x14, acc := .pop },
   { base := o + 0x18, n1 := 10, s1 := 4, acc := .ro }]

/-- The registers of one engine (12). -/
def engineRows (b nn k : Nat) : List RegRow :=
  let o := b + 0x1000 + 0x100 * k
  let own := 128 + 5 * nn + k
  [{ base := o, acc := .rwx, mask := 0xFF00, own := own, fac := fun _ _ => 0x4000,
     ok := fun v => decide (v / 4096 ≤ 8) && decide (v / 256 % 8 ≤ 4) },
   { base := o + 0x4, acc := .rwx, mask := 0x3F7F, own := own, fac := fun _ _ => 0x40,
     ok := fun v => decide (1 ≤ v % 128) && decide (v / 256 + v % 128 ≤ 64) },
   { base := o + 0x8, acc := .rwx, mask := 0x3F, own := own },
   { base := o + 0xC, acc := .rwx, mask := 0x1F1F, own := own },
   { base := o + 0x10, acc := .rwx, mask := 0xFFFF, own := own },
   { base := o + 0x14, acc := .rws, mask := 0xF0F, own := own, fac := fun _ _ => 0x10F },
   { base := o + 0x18, acc := .wo },
   { base := o + 0x20, n1 := 2, s1 := 4, acc := .wo },
   { base := o + 0x28, acc := .pop },
   { base := o + 0x2C, acc := .ro },
   { base := o + 0x40, n1 := 6, s1 := 4, acc := .ro },
   { base := o + 0x60, n1 := 5, s1 := 4, acc := .ro }]

/-- FRDnn registers (11, 12). Factory program words read 0x90_0000. -/
def frondRows (nn : Nat) : List RegRow :=
  let b := 0x100000 + 0x10000 * nn
  [{ base := b, n1 := 12, s1 := 4, acc := .rwx, mask := 0x1FF, own := 16 + nn, ok := lmodeOk false },
   { base := b + 0x30, n1 := 4, s1 := 4, acc := .rwx, mask := 0x1FF, own := 16 + nn, ok := lmodeOk true },
   { base := b + 0x40, n1 := 16, s1 := 4, acc := .rws, mask := 0x3FF, own := 16 + nn },
   { base := b + 0x80, acc := .rw, mask := 0xFFFF },
   { base := b + 0x84, n1 := 3, s1 := 4, acc := .ro },
   { base := b + 0x90, acc := .wo },
   { base := b + 0x200, acc := .rwx, mask := 0x3FFF, own := 240 + nn, fac := fun _ _ => 0x2002,
     ok := fun v => decide (v % 8 ≤ 4) && decide (v / 32 % 4 ≠ 3) && decide (v / 128 % 4 ≠ 3) &&
       decide (v / 512 % 4 ≠ 3) },
   { base := b + 0x204, acc := .rw, mask := 0xFFFF, wide := .stage },
   { base := b + 0x208, acc := .rw, mask := 0xFFFF, wide := .apply 1 },
   { base := b + 0x20C, acc := .wo },
   { base := b + 0x210, n1 := 6, s1 := 4, acc := .ro }] ++
  uartRows b nn 0 ++ uartRows b nn 1 ++
  engineRows b nn 0 ++ engineRows b nn 1 ++ engineRows b nn 2 ++ engineRows b nn 3 ++
  [{ base := b + 0x1800, acc := .ro },
   { base := b + 0x1804, acc := .wo },
   { base := b + 0x1808, acc := .ro },
   { base := b + 0x2000, n1 := 64, s1 := 8, acc := .rw, mask := 0xFFFF, wide := .stage },
   { base := b + 0x2004, n1 := 64, s1 := 8, acc := .rw, mask := 0xFF, wide := .apply 1, fac := fun _ _ => 0x90 }]

/-- The line-die registers of lines, fronds and RS-485 transceivers on die d (11, R302). A line-die register stands at
`0x1000000 + 0x10000 * d` plus its word address. -/
def ldLineRows (d : Nat) : List RegRow :=
  let b := 0x1000000 + 0x10000 * d
  let f := 16 + 8 * d
  [{ base := b + 0x100, n1 := 8, s1 := 0x80, n2 := 16, s2 := 8, acc := .rwx, mask := 0x77FF, own := f, own1 := 1,
     fac := fun _ _ => 0x10A3, ok := fun v => decide (v / 8192 % 4 ≠ 3) && decide (v / 16 % 16 ≠ 0) },
   { base := b + 0x101, n1 := 8, s1 := 0x80, n2 := 16, s2 := 8, acc := .rwx, mask := 0xFFFF, own := f, own1 := 1,
     fac := fun _ _ => 0x9000, ok := fun v => decide (v / 256 ≤ 0x90) && decide (v % 256 ≤ 0x90) },
   { base := b + 0x102, n1 := 8, s1 := 0x80, n2 := 16, s2 := 8, acc := .rwx, mask := 0xFFFF, own := f, own1 := 1,
     fac := fun _ _ => 0x140A },
   { base := b + 0x103, n1 := 128, s1 := 8, n2 := 5, s2 := 1, acc := .ro },
   { base := b + 0x600, n1 := 8, s1 := 4, acc := .rwx, mask := 0xFFFF, own := f, own1 := 1,
     fac := fun _ _ => 0x4B0, ok := fun v => v ≤ 0x4B0 },
   { base := b + 0x601, n1 := 8, s1 := 4, n2 := 3, s2 := 1, acc := .ro },
   { base := b + 0x700, n1 := 8, s1 := 2, n2 := 2, s2 := 1, acc := .rwx, mask := 0x7, own := f, own1 := 1,
     ok := fun v => v / 2 ≠ 3 }]

end Sys2Proof.Machine
end

