-- ==== Sys2Proof/Machine/RowsNcp.lean ====
section
/-! DEFINITION. The register rows of the NCP block (15). -/

namespace Sys2Proof.Machine

/-- NCP registers of pair A and pair B (15, "NCP registers"). -/
def ncpRows : List RegRow := [
  { base := 0x0E0000, n1 := 2, s1 := 0x1000, acc := .rwx, mask := 0xFFFF, own := 13, own1 := 1 },
  { base := 0x0E0004, n1 := 2, s1 := 0x1000, acc := .rws, mask := 0x7FFF, own := 13, own1 := 1,
    fac := fun _ _ => 0x8000 },
  { base := 0x0E0008, n1 := 2, s1 := 0x1000, acc := .rws, mask := 0xFFFF, own := 13, own1 := 1 },
  { base := 0x0E000C, n1 := 2, s1 := 0x1000, n2 := 2, s2 := 4, acc := .wo },
  { base := 0x0E0014, n1 := 2, s1 := 0x1000, acc := .pop },
  { base := 0x0E0018, n1 := 2, s1 := 0x1000, n2 := 3, s2 := 4, acc := .ro },
  { base := 0x0E0100, n1 := 2, s1 := 0x1000, n2 := 32, s2 := 4, acc := .ro },
  { base := 0x0E0200, n1 := 2, s1 := 0x1000, n2 := 4, s2 := 4, acc := .ro }]

end Sys2Proof.Machine
end

