-- ==== Sys2Proof/Config.lean ====
section
/-! DEFINITION. What an implementation or a part fixes and the spec does not state: the open values of the model. None
of them has a body, so that no proof can see a number behind it. -/

namespace Sys2Proof.Config

/-- The kind of the event that the mirror raises on source 501 (R167 states none). -/
opaque mirrorEventKind : BitVec 16

/-- The 64-bit unique id of the part, from fuses (SYS.UID0, SYS.UID1). -/
opaque uid : BitVec 64

/-- The revisions of the line dies LA and LB (SYS.LDREV). -/
opaque ldrev : Nat → BitVec 8

/-- The receive error counter after a good frame when it was above 127: ISO 11898-1 sets it to a value from 119 to 127
and leaves open which. -/
opaque canRec : Nat → Nat

/-- What a measurement register reads, by its offset and the core tick: the world outside decides. -/
opaque measured : Nat → Nat → BitVec 32

/-- The fuse map of the part, written once at the factory (R555). -/
opaque fuseMap : Nat → BitVec 32

/-- Which functions the bytes of a STRUCT section mark present: the spec says that STRUCT does so, not how (R68, R78). -/
opaque structPresent : List Byte → Nat → Bool

/-- A byte of flash that a failed erase or program left behind, by slot, core tick and position. -/
opaque flashResidue : Nat → Nat → Nat → BitVec 8

/-- The delay of the twin link in 2^-16 ns, as the exchange of R215 measures it on the twin port (R506). -/
opaque twinDelay : Nat → Int

/-- The bytes that the cells of the packet buffer hold, by core tick, cell and byte: where the hub places a frame, and what
earlier frames left behind, is open (R172). -/
opaque bufferByte : Nat → Nat → Nat → BitVec 8

/-- The bytes of the boot ROM, which the spec does not print (R391). -/
opaque bootRom : Nat → BitVec 8

end Sys2Proof.Config
end

