-- ==== Sys2Proof/Machine/RowsPower.lean ====
section
/-! DEFINITION. The register rows of PWR and of the line-die power registers (20), of RPR (21), of PEAT (03), and of the
TWIN pair registers (19). -/

namespace Sys2Proof.Machine

/-- PWR registers (20, "PWR registers"). -/
def pwrRows : List RegRow := [
  { base := 0x220000, acc := .rwk, mask := 0x7FFE, fac := fun _ _ => 0x32CF },
  { base := 0x220004, n1 := 2, s1 := 4, acc := .ro },
  { base := 0x22000C, acc := .rwk, mask := 0x3F, fac := fun _ _ => 0x14, ok := fun v => v % 64 ≤ 0x28 },
  { base := 0x220010, acc := .rw, mask := 0xFF, fac := fun _ _ => 0x73, ok := fun v => v % 256 ≤ 0x7D },
  { base := 0x220014, n1 := 4, s1 := 4, acc := .ro },
  { base := 0x220040, n1 := 2, s1 := 4, acc := .ro },
  { base := 0x220100, n1 := 16, s1 := 4, acc := .rws, mask := 1, own := 40, own1 := 1 },
  { base := 0x220180, acc := .wo },
  { base := 0x220200, n1 := 16, s1 := 4, acc := .ro }]

/-- The line-die power registers of die d (20). -/
def ldPowerRows (d : Nat) : List RegRow :=
  let b := 0x1000000 + 0x10000 * d
  let own := 40 + 8 * d
  [{ base := b + 0x1000, n1 := 8, s1 := 0x20, acc := .rwx, mask := 0xFFFF, own := own, own1 := 1,
     fac := fun _ _ => 0xC83C, ok := fun v => decide (v % 256 < v / 256) },
   { base := b + 0x1001, n1 := 8, s1 := 0x20, acc := .rwx, mask := 0xFFFF, own := own, own1 := 1,
     fac := fun _ _ => 0x0A32, ok := fun v => decide (v % 256 ≠ 0) },
   { base := b + 0x1002, n1 := 8, s1 := 0x20, acc := .rwx, mask := 0xFFFF, own := own, own1 := 1,
     fac := fun _ _ => 0x3C41, ok := fun v => decide (v % 16 ≠ 0) },
   { base := b + 0x1003, n1 := 8, s1 := 0x20, acc := .rwx, mask := 0xFFFF, own := own, own1 := 1,
     fac := fun _ _ => 0x4B32, ok := fun v => decide (v % 256 ≤ v / 256) },
   { base := b + 0x1004, n1 := 8, s1 := 0x20, acc := .rwx, mask := 0xFFFF, own := own, own1 := 1,
     fac := fun _ _ => 0x320A, ok := fun v => decide (v % 256 ≠ 0) && decide (v / 256 ≠ 0) },
   { base := b + 0x1005, n1 := 8, s1 := 0x20, acc := .rwx, mask := 0xFFFF, own := own, own1 := 1,
     fac := fun _ _ => 0x029A, ok := fun v => decide (1 ≤ v / 64 % 64) && decide (v / 64 % 64 ≤ 60) },
   { base := b + 0x1008, n1 := 8, s1 := 0x20, n2 := 6, s2 := 1, acc := .ro },
   { base := b + 0x2000, acc := .rwk, mask := 1 },
   { base := b + 0x2001, acc := .rwk, mask := 0x1F, ok := fun v => decide (v % 32 ≤ 10) || decide (22 ≤ v % 32) },
   { base := b + 0x2002, n1 := 3, s1 := 1, acc := .ro }]

/-- RPR registers (21, "RPR registers"). -/
def rprRows : List RegRow := [
  { base := 0x230000, acc := .rwk, mask := 0xFFF3, fac := fun _ _ => 0x4643,
    ok := fun v => v / 4096 ≠ 0 ∧ v / 256 % 16 ≤ 10 ∧ v / 16 % 16 ≤ 12 },
  { base := 0x230004, acc := .wo },
  { base := 0x230008, n1 := 4, s1 := 4, acc := .ro },
  { base := 0x230040, n1 := 7, s1 := 4, acc := .ro },
  { base := 0x230100, n1 := 42, s1 := 4, acc := .ro },
  { base := 0x230400, n1 := 64, s1 := 4, acc := .ro },
  { base := 0x231000, n1 := 256, s1 := 4, acc := .ro },
  { base := 0x232000, n1 := 1024, s1 := 4, acc := .ro }]

/-- PEAT registers (03, "PEAT registers"). -/
def peatRows : List RegRow := [
  { base := 0x240000, acc := .rwp, mask := 0 },
  { base := 0x240004, acc := .rw, mask := 0xFFC1 },
  { base := 0x240008, acc := .rw, mask := 0xFFFF },
  { base := 0x24000C, acc := .rw, mask := 0xFFF, fac := fun _ _ => 0xFFF },
  { base := 0x240010, n1 := 11, s1 := 4, acc := .ro }]

/-- TWIN pair registers (19, "TWIN pair registers"). -/
def pairRows : List RegRow := [
  { base := 0x041000, acc := .rwx, mask := 0xEF0, own := 2, fac := fun _ _ => 0x4F0, ok := fun v => v / 512 % 8 < 6 },
  { base := 0x041004, n1 := 2, s1 := 4, acc := .rws, mask := 0xFFFF, own := 2,
    fac := fun i _ => if i = 0 then 0x3C else 0x7D0, ok := fun v => v ≠ 0 },
  { base := 0x04100C, acc := .rwx, mask := 0xFF7F, own := 2,
    ok := fun v => v % 128 ≤ 0x40 ∧ v / 256 * 2 + v % 128 ≤ 512 },
  { base := 0x041010, acc := .wo },
  { base := 0x041020, n1 := 3, s1 := 4, acc := .ro },
  { base := 0x041040, n1 := 16, s1 := 4, acc := .ro },
  { base := 0x041080, n1 := 7, s1 := 4, acc := .ro }]

end Sys2Proof.Machine
end

