-- ==== Sys2Proof/Machine/RowsRing.lean ====
section
/-! DEFINITION. The register rows of the links (04), of forwarding (05) and of the buffer manager (06). -/

namespace Sys2Proof.Machine

/-- The link registers at a block base, owned by a port function (04, "Link registers"); `twin` leaves out what R112
leaves out. -/
def linkRows (b fn : Nat) (twin : Bool) : List RegRow := [
  { base := b, acc := .rwx, mask := if twin then 0x50 else 0x7F, own := fn, fac := fun _ _ => if twin then 0 else 4,
    ok := fun v => twin || (v / 4 % 4 < 2 && v % 4 ≠ 3) },
  { base := b + 0x04, acc := .rws, mask := 0xFFF, own := fn, fac := fun _ _ => 0x26A },
  { base := b + 0x08, acc := .rws, mask := 0xF000, own := fn, fac := fun _ _ => 0xA000 },
  { base := b + 0x0C, acc := .rws, mask := 0xFFFF, own := fn, fac := fun _ _ => 0x10 },
  { base := b + 0x10, acc := .wo },
  { base := b + 0x20, n1 := 2, s1 := 4, acc := .ro },
  { base := b + 0x30, n1 := 5, s1 := 4, acc := .ro },
  { base := b + 0x50, n1 := 2, s1 := 4, acc := .ro }] ++
  (if twin then [] else [
  { base := b + 0x60, acc := .rwp, mask := 0xFFFF, fac := fun _ _ => 0x5000 },
  { base := b + 0x64, acc := .rwp, mask := 0xFF },
  { base := b + 0x68, acc := .ro },
  { base := b + 0x6C, acc := .rw, mask := 1 }])

/-- FWD registers (05 and 06). -/
def fwdRows : List RegRow := [
  { base := 0x050000, acc := .rwx, mask := 7, own := 3, ok := fun v => v % 4 ≠ 3 },
  { base := 0x050004, acc := .rwx, mask := 0xFFF, own := 3, fac := fun _ _ => 0xFFF, ok := fun v => 2 ≤ v },
  { base := 0x050008, acc := .rwx, mask := 0xFEFE, own := 3, fac := fun _ _ => 0xFFFF },
  { base := 0x05000C, acc := .rwx, mask := 0xFFFF, own := 3, fac := fun _ _ => 0x64,
    ok := fun v => v ≠ 0 ∧ v ≤ 0x9C4 },
  { base := 0x050010, acc := .rwx, mask := 0xFFFF, own := 3, fac := fun _ _ => 0x400, ok := fun v => 0x80 ≤ v },
  { base := 0x050014, n1 := 2, s1 := 4, acc := .ro },
  { base := 0x050020, n1 := 7, s1 := 4, acc := .rws, mask := 0xFF, own := 3, ok := fun v => v ≠ 0,
    fac := fun i _ => match i with
      | 0 => 0x40 | 1 => 0x20 | 2 => 0x10 | 3 => 0x10 | 4 => 0x08 | 5 => 0x04 | _ => 0x01 },
  { base := 0x050040, n1 := 13, s1 := 4, acc := .ro },
  { base := 0x050100, n1 := 255, s1 := 4, acc := .rwx, mask := 0xFFFF, own := 3 },
  { base := 0x0504FC, acc := .rwx, mask := 0x7FFF, own := 3, fac := fun _ _ => 0x8000 },
  { base := 0x050800, n1 := 32, s1 := 4, acc := .ro },
  { base := 0x050880, n1 := 32, s1 := 4, acc := .ro },
  { base := 0x050900, n1 := 32, s1 := 4, acc := .ro },
  { base := 0x050980, n1 := 8, s1 := 4, acc := .ro },
  { base := 0x050C00, n1 := 3, s1 := 4, acc := .rws, mask := 0xFFFF, own := 3 },
  { base := 0x050C0C, acc := .rwx, mask := 0xFFFF, own := 3,
    ok := fun v => v / 0x2000 ≠ 7 ∧ v % 0x2000 * 256 + 2 ^ (v / 0x2000 + 4) * 256 ≤ 0x200000 },
  { base := 0x050C10, n1 := 2, s1 := 4, acc := .ro },
  { base := 0x050C18, acc := .rw, mask := 0x3FF },
  { base := 0x051000, n1 := 2048, s1 := 8, acc := .rwx, mask := 0xFFFF, own := 3, wide := .stage },
  { base := 0x051004, n1 := 2048, s1 := 8, acc := .rwx, mask := 0x8FFF, own := 3, wide := .apply 1 }]

/-- BUF registers (06, "BUF registers"). -/
def bufRows : List RegRow := [
  { base := 0x060000, acc := .rws, mask := 0xFFFF, own := 4, fac := fun _ _ => 0x4557,
    ok := fun v => v % 16 < 8 ∧ v / 16 % 16 < 8 ∧ v / 256 % 16 < 8 ∧ v / 4096 < 8 },
  { base := 0x060004, acc := .rws, mask := 0xFFFF, own := 4, fac := fun _ _ => 0x0234,
    ok := fun v => v % 16 < 8 ∧ v / 16 % 16 < 8 ∧ v / 256 % 16 < 8 ∧ v / 4096 < 8 },
  { base := 0x060008, acc := .rwx, mask := 0xFFFF, own := 4, fac := fun _ _ => 0x400, ok := fun v => v ≤ 0x4000 },
  { base := 0x060010, n1 := 7, s1 := 4, acc := .rws, mask := 0xFFFF, own := 4, fac := fun _ _ => 0x800 },
  { base := 0x060040, n1 := 8, s1 := 4, acc := .rws, mask := 0xFFFF, own := 4, fac := fun _ _ => 0xFFFF },
  { base := 0x060060, acc := .rws, mask := 0xFFFF, own := 4, fac := fun _ _ => 0x100 },
  { base := 0x060080, n1 := 3, s1 := 4, acc := .ro },
  { base := 0x060090, n1 := 4, s1 := 4, acc := .ro }]

end Sys2Proof.Machine
end

