-- ==== Sys2Proof/Machine/RowsTime.lean ====
section
/-! DEFINITION. The register rows of the TIME block (08) and of the AXIS block (09). -/

namespace Sys2Proof.Machine

/-- TIME registers (08, "TIME registers"). -/
def timeRows : List RegRow := [
  { base := 0x080000, acc := .rwx, mask := 0xFE, own := 6, ok := fun v => v / 4 % 4 ≠ 3 },
  { base := 0x080004, acc := .rwx, mask := 0xFF, own := 6, fac := fun _ _ => 0x80 },
  { base := 0x080008, acc := .rws, mask := 0x7, own := 6, fac := fun _ _ => 3, ok := fun v => v ≠ 7 },
  { base := 0x08000C, acc := .rws, mask := 0xFFFF, own := 6, fac := fun _ _ => 0x3E8, ok := fun v => v ≠ 0 },
  { base := 0x080010, acc := .rws, mask := 0xFF, own := 6, fac := fun _ _ => 0x31,
    ok := fun v => v % 16 ≤ 12 ∧ v / 16 ≤ 12 },
  { base := 0x080014, acc := .rws, mask := 0xFFFF, own := 6, fac := fun _ _ => 0x3E8 },
  { base := 0x080018, acc := .rws, mask := 0xFFFF, own := 6, fac := fun _ _ => 0x64,
    ok := fun v => v ≠ 0 ∧ v ≤ 500 },
  { base := 0x08001C, n1 := 2, s1 := 4, acc := .rws, mask := 0xFFFF, own := 6 },
  { base := 0x080024, acc := .wo },
  { base := 0x080028, acc := .rw, mask := 0xFFFF, wide := .stage },
  { base := 0x08002C, acc := .rw, mask := 0x3FFF, wide := .stage },
  { base := 0x080030, n1 := 2, s1 := 4, acc := .rw, mask := 0xFFFF, wide := .stage },
  { base := 0x080038, acc := .rw, mask := 0xFFFF, wide := .apply 4 },
  { base := 0x080040, n1 := 3, s1 := 4, acc := .ro },
  { base := 0x080050, acc := .ro, wide := .latch 2 },
  { base := 0x080054, n1 := 2, s1 := 4, acc := .ro },
  { base := 0x08005C, n1 := 4, s1 := 8, acc := .ro, wide := .latch 1 },
  { base := 0x080060, n1 := 4, s1 := 8, acc := .ro },
  { base := 0x08007C, acc := .ro, wide := .latch 2 },
  { base := 0x080080, n1 := 2, s1 := 4, acc := .ro },
  { base := 0x080090, n1 := 4, s1 := 4, acc := .ro },
  { base := 0x0800C0, n1 := 5, s1 := 4, acc := .ro }]

/-- AXIS registers (09, "AXIS registers"). -/
def axisRows : List RegRow := [
  { base := 0x090000, n1 := 64, s1 := 0x40, acc := .rwx, mask := 0xFFFF, own := 64, own1 := 1, fac := fun _ _ => 0xFFF },
  { base := 0x090004, n1 := 64, s1 := 0x40, acc := .rwx, mask := 0x8FFF, own := 64, own1 := 1,
    fac := fun a _ => 0xF80 + a, ok := fun v => v % 0x1000 ≠ 0xFFF },
  { base := 0x090008, n1 := 64, s1 := 0x40, acc := .rwx, mask := 0xFFFF, own := 64, own1 := 1, fac := fun _ _ => 0x32,
    ok := fun v => 20 ≤ v % 256 ∧ v % 256 ≤ 100 ∧ v / 256 < v % 256 },
  { base := 0x09000C, n1 := 64, s1 := 0x40, acc := .rwx, mask := 0xFFFF, own := 64, own1 := 1, wide := .stage },
  { base := 0x090010, n1 := 64, s1 := 0x40, acc := .rwx, mask := 0xFFFF, own := 64, own1 := 1, wide := .apply 1 },
  { base := 0x090014, n1 := 64, s1 := 0x40, acc := .rws, mask := 0xFFFF, own := 64, own1 := 1, fac := fun _ _ => 0x7D0,
    ok := fun v => 0x64 ≤ v },
  { base := 0x090018, n1 := 64, s1 := 0x40, acc := .rws, mask := 0xFFFF, own := 64, own1 := 1,
    fac := fun _ _ => 0x4000, ok := fun v => v ≠ 0 },
  { base := 0x09001C, n1 := 64, s1 := 0x40, acc := .rws, mask := 0xFFFF, own := 64, own1 := 1,
    fac := fun _ _ => 0x800, ok := fun v => v ≠ 0 },
  { base := 0x090020, n1 := 64, s1 := 0x40, acc := .rws, mask := 0xFFFF, own := 64, own1 := 1,
    fac := fun _ _ => 0x40, ok := fun v => v ≠ 0 },
  { base := 0x090024, n1 := 64, s1 := 0x40, acc := .rws, mask := 0xFFFF, own := 64, own1 := 1,
    fac := fun _ _ => 0x1000, ok := fun v => v ≠ 0 },
  { base := 0x090028, n1 := 64, s1 := 0x40, acc := .rws, mask := 0xF, own := 64, own1 := 1,
    fac := fun _ _ => 8, ok := fun v => 2 ≤ v },
  { base := 0x092000, n1 := 64, s1 := 0x40, acc := .ro },
  { base := 0x092004, n1 := 64, s1 := 0x40, acc := .ro, wide := .latch 9 },
  { base := 0x092008, n1 := 64, s1 := 0x40, n2 := 14, s2 := 4, acc := .ro },
  { base := 0x093000, n1 := 64, s1 := 4, acc := .ro }]

end Sys2Proof.Machine
end

