-- ==== Sys2Proof/Machine/RowsUsb.lean ====
section
/-! DEFINITION. The register rows of the USB block (14). -/

namespace Sys2Proof.Machine

/-- USBH and USBF registers (14, "USB registers"). -/
def usbRows : List RegRow := [
  { base := 0x0D0000, acc := .rwx, mask := 0x3FF, own := 9, fac := fun _ _ => 0x22F, ok := fun v => v / 64 % 16 ≠ 0 },
  { base := 0x0D0004, n1 := 3, s1 := 4, acc := .rwx, mask := 0xFFFF, own := 9,
    fac := fun i _ => if i = 0 then 0x3A6E else 0x7415 + i },
  { base := 0x0D0010, acc := .rw, mask := 1, fac := fun _ _ => 1 },
  { base := 0x0D0014, acc := .rws, mask := 0xFF0F, own := 9, fac := fun _ _ => 2, ok := fun v => v % 16 ≠ 0 },
  { base := 0x0D0020, n1 := 5, s1 := 4, acc := .ro },
  { base := 0x0D0040, n1 := 6, s1 := 4, acc := .ro },
  { base := 0x0D4000, acc := .rwx, mask := 0xF, own := 10, fac := fun _ _ => 8,
    ok := fun v => 1 ≤ v % 16 ∧ v % 16 ≤ 8 },
  { base := 0x0D4004, acc := .rwk, mask := 1, fac := fun _ _ => 1 },
  { base := 0x0D4008, acc := .wo },
  { base := 0x0D400C, n1 := 2, s1 := 4, acc := .ro },
  { base := 0x0D4040, n1 := 5, s1 := 4, acc := .ro }]

end Sys2Proof.Machine
end

