-- ==== Sys2Proof/Machine/RowsXact.lean ====
section
/-! DEFINITION. The register rows of the XACT block (07). -/

namespace Sys2Proof.Machine

/-- XACT and WIN registers (07, "XACT registers"). -/
def xactRows : List RegRow := [
  { base := 0x070000, acc := .rwx, mask := 1, own := 5 },
  { base := 0x070004, acc := .rws, mask := 0xFFFF, own := 5, fac := fun _ _ => 0x64, ok := fun v => v ≠ 0 },
  { base := 0x070008, acc := .rws, mask := 0xFFFF, own := 5, fac := fun _ _ => 0x3E8, ok := fun v => 10 ≤ v },
  { base := 0x07000C, acc := .rws, mask := 0xFFFF, own := 5, fac := fun _ _ => 0xA, ok := fun v => v ≠ 0 },
  { base := 0x070040, n1 := 16, s1 := 4, acc := .rws, mask := 0xFFFF, own := 5, fac := fun _ _ => 0x103,
    ok := fun v => v % 8 ≠ 0 ∧ 1 ≤ v / 8 ∧ v / 8 ≤ 0x200 },
  { base := 0x070100, n1 := 64, s1 := 0x20, acc := .rws, mask := 0xFFFC, own := 5,
    ok := fun v => v / 4 % 16 < 13 ∧ ¬(v / 0x1000 % 2 = 1 ∧ v / 0x800 % 2 = 1) },
  { base := 0x070104, n1 := 64, s1 := 0x20, acc := .rws, mask := 0xF, own := 5 },
  { base := 0x070108, n1 := 64, s1 := 0x20, n2 := 2, s2 := 4, acc := .rws, mask := 0xFFFF, own := 5, wide := .stage },
  { base := 0x070110, n1 := 64, s1 := 0x20, acc := .rws, mask := 0xF, own := 5, wide := .stage },
  { base := 0x070114, n1 := 64, s1 := 0x20, acc := .rws, mask := 0xFFFC, own := 5, ok := fun v => v / 4 % 4 ≠ 3,
    wide := .apply 3 },
  { base := 0x070A00, acc := .ro },
  { base := 0x070A04, acc := .rw, mask := 0x1F },
  { base := 0x070A40, n1 := 4, s1 := 8, n2 := 2, s2 := 4, acc := .ro },
  { base := 0x070A60, acc := .wo },
  { base := 0x070A68, acc := .ro },
  { base := 0x070A80, n1 := 5, s1 := 4, acc := .ro },
  { base := 0x070AC0, n1 := 16, s1 := 4, acc := .ro },
  { base := 0x070C00, n1 := 16, s1 := 0x20, n2 := 3, s2 := 4, acc := .ro },
  { base := 0x070C0C, n1 := 16, s1 := 0x20, acc := .ro, wide := .latch 1 },
  { base := 0x070C10, n1 := 16, s1 := 0x20, acc := .ro },
  { base := 0x070E00, n1 := 16, s1 := 0x10, acc := .rwk, mask := 0xFFF, wide := .stage },
  { base := 0x070E04, n1 := 16, s1 := 0x10, acc := .rwk, mask := 0x3F, fac := fun _ _ => 0x3F, wide := .stage },
  { base := 0x070E08, n1 := 16, s1 := 0x10, acc := .rwk, mask := 0xEFFF, wide := .apply 2,
    fac := fun k _ => if k = 0 then 0xEFFF else 0x6FFF },
  { base := 0x074000, n1 := 4, s1 := 0x100, n2 := 64, s2 := 4, acc := .ro }]

end Sys2Proof.Machine
end

