-- ==== Sys2Proof/Machine/RegMap.lean ====
section
/-! DEFINITION. The register map (R27): which row of the register tables lies at an offset of the window, its
factory value, and where the applied copy of an RWS register stands (R28). -/

namespace Sys2Proof.Machine

/-- The rows of the block that holds an offset (R27). -/
def rowsOf (off : Nat) : List RegRow :=
  match off / 0x10000 with
  | 0x00 => sysRows
  | 0x01 => funcRows
  | 0x02 => linkRows 0x020000 0 false
  | 0x03 => linkRows 0x030000 1 false
  | 0x05 => fwdRows
  | 0x06 => bufRows
  | 0x07 => xactRows
  | 0x08 => timeRows
  | 0x09 => axisRows
  | 0x0E => ncpRows
  | 0x0F => evtRows
  | 0x20 => pcieRows
  | 0x21 => fltRows
  | 0x25 => keyRows
  | 0x26 => ldxRows
  | 0x0A => actRows
  | 0x0B => brgRows
  | 0x0C => canRows (off / 0x2000 % 8)
  | 0x04 => linkRows 0x040000 2 true ++ pairRows
  | 0x0D => usbRows
  | 0x22 => pwrRows
  | 0x23 => rprRows
  | 0x24 => peatRows
  | k => if 0x10 ≤ k ∧ k < 0x20 then frondRows (k - 0x10)
    else if k = 0x100 ∨ k = 0x101 then ldLineRows (k - 0x100) ++ ldCanRows (k - 0x100) ++ ldPowerRows (k - 0x100) else []

/-- The register at an offset, when one is mapped there. -/
def regHit (off : Nat) : Option RegHit := findRow (rowsOf off) off

/-- The factory value at an offset; an unmapped offset reads 0 (R29). -/
def factoryAt (off : Nat) : Word :=
  match regHit off with
  | some h => h.factory
  | none => 0

/-- The offset whose applied copy an offset is: 0x8000 above the register in its block, 0x1000 above it in the CAN
block (R28). -/
def appliedOf? (off : Nat) : Option Nat :=
  if off / 0x10000 = 0x0C then
    if off % 0x2000 < 0x1000 then none else some (off - 0x1000)
  else if off % 0x10000 < 0x8000 then none else some (off - 0x8000)

end Sys2Proof.Machine
end

