-- ==== Sys2Proof/Machine/State.lean ====
section
/-! DEFINITION. Everything the hub holds: its registers and the working state of every block, the queue of commands
that wait, what the last command put out, and the state right after reset. Plain data throughout. -/

namespace Sys2Proof.Machine

/-- A sparse table: keys strictly rising, no entry that equals the default of its key. -/
abbrev Tab (α : Type) := List (Nat × α)

/-! ### Functions (02) -/

/-- The six states of a function (R38). -/
inductive FState where
  | absent | stopped | starting | running | stopping | halted
deriving DecidableEq, Repr

/-- One function: its state, the two flags of R38, how it was started, what follows a stop, and what
FUNC.FSTATn shows of its last command (R40). -/
structure Func where
  st : FState := .stopped
  presv : Bool := false
  dirty : Bool := false
  /-- the start in progress is with fresh state -/
  fresh : Bool := true
  /-- RESTART of a running function: start again once stopped (R39) -/
  restart : Bool := false
  /-- the stop in progress began in RUNNING, so PRESV becomes 1 (R42) -/
  keeps : Bool := false
  /-- RWS values wait for a strobe (FSTATn.PEND) -/
  pend : Bool := false
  lastCmd : BitVec 3 := 0
  rej : Bool := false
  rejState : BitVec 3 := 0
deriving DecidableEq, Repr

/-- The key guard (R59): open, for whom, since which tick. -/
structure KeyGuard where
  opened : Bool := false
  port : BitVec 3 := 0
  slot : BitVec 1 := 0
  node : BitVec 12 := 0
  since : Nat := 0
deriving DecidableEq, Repr

/-- What the LDX window is doing (R50, R51). -/
inductive LdxPhase where
  | idle | fetching | writing
deriving DecidableEq, Repr

/-- The LDX window (R50 to R58). -/
structure Ldx where
  die : Die := .la
  addr : BitVec 14 := 0
  phase : LdxPhase := .idle
  /-- start of the fetch or of the posted write -/
  since : Nat := 0
  /-- the write posted: data, mask, its source, and whether it holds the unlock of an RWK word (R59) -/
  wdata : BitVec 16 := 0
  wmask : BitVec 16 := 0
  wsrc : Src := { port := 0, slot := 0, node := 0xFFF }
  fetched : BitVec 16 := 0
  rdvalid : Bool := false
  err : Bool := false
  /-- reads that wait for the running access (R52) -/
  waiters : List Src := []
deriving DecidableEq, Repr

/-! ### Events and faults (17, 18) -/

/-- The fields of a spore record that the raising block chooses (R440, R441). -/
structure EventBody where
  /-- the axis supplied by the raising block: position, axis, VALID, STALE -/
  axis : Option (Word × Nat × Bool × Bool) := none
  late : Bool := false
  /-- another instant than that of the raise -/
  time : Option Nat := none
  payload : DWord := 0
deriving DecidableEq, Repr

/-- A raise of this command that the settling of the step delivers: an event (R438) or a fault message (R16). -/
inductive Raise where
  | event (src kind : Nat) (body : EventBody)
  | fault (src kind level detail : Nat) (addr : Word)
deriving DecidableEq, Repr

/-- A spore record (R440). -/
structure Record where
  source : BitVec 10
  typ : BitVec 6
  node : BitVec 12
  slot : BitVec 1
  gap : Bool
  late : Bool
  seq : BitVec 16
  kind : BitVec 16
  time : DWord
  pos : Word
  axis : BitVec 6
  avalid : Bool
  astale : Bool
  payload : DWord
deriving DecidableEq, Repr

/-- A local spore queue: records with their arrival ticks, and the GAP record that waits (R443 to R446). -/
structure LocalQueue where
  recs : List (Record × Nat) := []
  gapPend : Bool := false
  gapCount : Nat := 0
  armed : Bool := true
deriving DecidableEq, Repr

/-- A host queue: the settings taken at its enable, its indices, its GAP count and its moderation state
(R451 to R454). -/
structure HostQueue where
  base : Nat := 0
  size : Nat := 0
  wb : Nat := 0
  prod : BitVec 16 := 0
  gapPend : Bool := false
  gapCount : Nat := 0
  unsig : Nat := 0
  firstUnsig : Nat := 0
deriving DecidableEq, Repr

/-- The states of a DMA channel (DSTAT.STATE). -/
inductive DmaState where
  | idle | running | error | stopping
deriving DecidableEq, Repr

/-- A DMA channel (R461 to R465). -/
structure Dma where
  st : DmaState := .idle
  base : Nat := 0
  size : Nat := 0
  head : BitVec 16 := 0
  /-- the tail at the disable, up to which descriptors had started (R465) -/
  stopAt : BitVec 16 := 0
  lastStatus : Byte := 0
  /-- a read of host memory is outstanding since this tick (R464) -/
  reading : Option Nat := none
  /-- transfers of the present descriptor that have completed: aperture offset, length, status, data (R463, R464) -/
  parts : List (Nat × Nat × Nat × List Byte) := []
deriving DecidableEq, Repr

/-- The PCIe endpoint (R456 to R460). -/
structure Pcie where
  linkUp : Bool := false
  width : BitVec 3 := 0
  speed : BitVec 3 := 0
  bme : Bool := false
  msixEn : Bool := false
  fmask : Bool := false
  dstate : BitVec 2 := 0
  /-- pending bits of the 64 vectors -/
  pba : BitVec 64 := 0
deriving DecidableEq, Repr

/-- A classification entry's working state (R472). -/
structure FltEntry where
  c : Nat := 0
  w : Nat := 0
  pend : Bool := false
  last : Nat := 0
deriving DecidableEq, Repr

/-- The fault collector (18). -/
structure Faults where
  prio : List DWord := []
  norm : List DWord := []
  /-- the normal-lane overflow notice waits for room (R469) -/
  ovf : Bool := false
  entries : Tab FltEntry := []
  safe : Bool := false
  safeAck : Bool := false
  cause : DWord := 0
  causeEntry : Option Nat := none
  exitRef : Bool := false
  /-- ALIVE toggles, and its present level (R482) -/
  aliveOn : Bool := false
  aliveLevel : Bool := false
  aliveSince : Nat := 0
  /-- the tick at which the collector's own count restarted (R472) -/
  tick0 : Nat := 0
  /-- the detector at ALIVE_PEER says present (R483) -/
  peerAlive : Bool := false
deriving DecidableEq, Repr

/-! ### Identity and fabric time (02, 08) -/

/-- What the hub is: its straps, and the number that image, boot record or neighbours gave it. -/
structure Ident where
  straps : Straps := {}
  number : BitVec 12 := 0xFFF
  /-- the LEAD bit of SYS.NODE -/
  lead : Bool := false
deriving DecidableEq, Repr

/-- The synchronisation states of R211. -/
inductive Sync where
  | free | acquire | locked | holdover | refusing | slewing
deriving DecidableEq, Repr

/-- A copy of the previous time frame as it arrived (R208): its sequence, arrival time, CORR, hops, and the
corrections made to fabric time up to then, in units of 2^-46 ns. -/
structure Arrival where
  seq : BitVec 16
  at_ : BitVec 80
  corr : BitVec 64
  hops : Nat
  corrections : Int
deriving DecidableEq, Repr

/-- A source heard (R203): rank, generation, tick of its last valid frame, its interval in ticks. -/
structure Heard where
  prio : BitVec 8
  node : BitVec 12
  slot : BitVec 1
  gen : BitVec 16
  last : Nat
  ival : Nat
deriving DecidableEq, Repr

/-- A link delay exchange on one port (R215): sequence, the tick at which the probe was sent while the exchange is open,
departure t1, arrival t4 of the answer once recorded, and the accepted delays, newest first, at most 16. -/
structure Probe where
  seq : BitVec 8 := 0
  t1 : Option (BitVec 80) := none
  t4 : Option (BitVec 80) := none
  accepted : List Int := []
  since : Option Nat := none
deriving DecidableEq, Repr

/-- The time unit (08). -/
structure Time where
  /-- tick at which the 64-bit tick counter restarted (R197) -/
  tick0 : Nat := 0
  offset : BitVec 80 := 0
  /-- the rate in use, and the base rate (R198, R210) -/
  rate : BitVec 48 := 0x666666666666
  base : BitVec 48 := 0x666666666666
  /-- corrections made to fabric time, in 2^-46 ns, up to tick `rateSince` (R208) -/
  corrections : Int := 0
  rateSince : Nat := 0
  sync : Sync := .free
  /-- the entry to ACQUIRE was with a step and its first error has not come (R211) -/
  stepFirst : Bool := false
  /-- an error was applied since the last entry to ACQUIRE with a step -/
  appliedOnce : Bool := false
  good : Nat := 0
  over200 : Nat := 0
  pend : Int := 0
  clamp : Bool := false
  ppsSeen : Bool := false
  ppsLast : Nat := 0
  ppsTime : DWord := 0
  ppsArmed : Bool := false
  ppsOut : Bool := false
  heard : List Heard := []
  current : Option Heard := none
  curHops : BitVec 12 := 0
  /-- port E is the path in use (R209) -/
  dir : Bool := false
  /-- the chosen path gave no copy for 3 frames and has not yet come back (R209) -/
  fallen : Bool := false
  both : Bool := false
  miss : Nat := 0
  back : Nat := 0
  lastSeq : Option (BitVec 16) := none
  arrW : Option Arrival := none
  arrE : Option Arrival := none
  prevW : Option Arrival := none
  prevE : Option Arrival := none
  err : Int := 0
  dirdiff : Int := 0
  lastFrame : Nat := 0
  sendSeq : BitVec 16 := 0
  /-- departures of the copies of this hub's last time frame, by port (R206) -/
  depW : BitVec 80 := 0
  depE : BitVec 80 := 0
  sending : Bool := false
  /-- tick at which the next time frame is due -/
  sendAt : Nat := 0
  /-- tick at which the proportional term of R210 ends -/
  servoEnd : Nat := 0
  /-- tick at which PPS_OUT rose -/
  ppsRise : Nat := 0
  gen : BitVec 16 := 0
  /-- answers to probes that have not left yet: sequence, port, arrival of the probe (R215) -/
  answers : List (BitVec 8 × Link × BitVec 80) := []
  probeW : Probe := {}
  probeE : Probe := {}
  probeSeq : BitVec 8 := 0
deriving DecidableEq, Repr

/-! ### Axes (09) -/

/-- The estimator states of R226. -/
inductive AxState where
  | off | none | acquiring | tracking | coasting | stale
deriving DecidableEq, Repr

/-- An axis: the estimate of R228 and what the state machine of R226 to R231 keeps. -/
structure Axis where
  st : AxState := .off
  p0 : BitVec 48 := 0
  v : BitVec 40 := 0
  acc : BitVec 32 := 0
  t0 : BitVec 80 := 0
  acq : Nat := 0
  rejRun : Nat := 0
  slot : BitVec 1 := 0
  encerr : Bool := false
  armed : Bool := true
  res : Int := 0
  sseq : BitVec 16 := 0
deriving DecidableEq, Repr

/-! ### The NCP pairs (15, 16) -/

/-- The flags of HRK32 (R420). -/
structure Flags where
  z : Bool := false
  n : Bool := false
  c : Bool := false
  v : Bool := false
deriving DecidableEq, Repr

/-- What a load does with the bytes it gets (R422). -/
inductive LoadKind where
  | lb | lbu | lh | lhu | lw | ld
deriving DecidableEq, Repr

/-- An instruction that waits for an access on the ring: a load with its destination, or a non-posted store, the
failing address, and the base register it will change (R187, R422). -/
structure NcpWait where
  load : Option (LoadKind × BitVec 4)
  addr : Word
  base : Option (BitVec 4 × Word)
deriving DecidableEq, Repr

/-- An NCP pair: its registers and trap state (R431), its protection regions (R396), its events (R397, R399), and
its private memories (R390). -/
structure Ncp where
  /-- g1 to g15 by number -/
  g : Tab Word := []
  pc : Word := 0
  flags : Flags := {}
  ie : Bool := false
  sys : Bool := true
  pie : Bool := false
  pmode : Bool := false
  intrap : Bool := false
  epc : Word := 0
  cause : Word := 0
  badaddr : Word := 0
  tvec : Word := 0x10000000
  eflags : Flags := {}
  scratch : Word := 0
  /-- tick of the last fresh state, and the latched CYCLEH -/
  cycle0 : Nat := 0
  cyclehLatch : Option Word := none
  mpuBase : Tab Word := []
  mpuCfg : Tab Word := []
  /-- the pending sources, rising (R397) -/
  pend : List Nat := []
  /-- the other pair's source is pending at level 15 whatever the routing says (R404) -/
  forced : Bool := false
  /-- the levels being served, the present one first (R399) -/
  serving : List Nat := []
  /-- waiting in WFE (R425) -/
  wfe : Bool := false
  wait : Option NcpWait := none
  /-- both cores stopped by a failed comparison (R402) -/
  stopped : Bool := false
  /-- the next START or RESTART runs the lockstep self-test (R406), and it runs now -/
  testDue : Bool := false
  testing : Bool := false
  /-- executing the boot ROM (R409) -/
  bootrom : Bool := false
  /-- the watchdog timer runs since this tick (R407) -/
  kick : Option Nat := none
  code : List Host.Cell := []
  data : List Host.Cell := []
deriving DecidableEq, Repr

/-! ### Port FIFOs (06) -/

/-- A port FIFO: its entries, oldest first, the last entry popped, UNDER, and the watermark notice (R157 to R161). -/
structure PortFifo where
  entries : List DWord := []
  last : DWord := 0
  under : Bool := false
  armed : Bool := true
deriving DecidableEq, Repr

/-! ### Links (04) -/

/-- The link states of R96. -/
inductive LState where
  | disabled | down | training | handshake | up
deriving DecidableEq, Repr

/-- One link (04): its state, what training has reached, what the peer said, its error windows, its deserializer
slices and its module. -/
structure LinkPort where
  st : LState := .disabled
  /-- 0 none, 1 = 25.78125 GBd, 2 = 10.3125 GBd (STAT.RATE) -/
  rate : Nat := 0
  /-- the hold-down runs, since this tick (R99) -/
  hold : Bool := false
  downSince : Nat := 0
  cause : BitVec 4 := 0
  sigdet : Bool := false
  clk : Bool := false
  eq : Bool := false
  blklock : Bool := false
  goodSup : Nat := 0
  lastSup : Nat := 0
  lastSend : Nat := 0
  cycleStart : Nat := 0
  peerNode : BitVec 12 := 0xFFF
  peerSlot : BitVec 1 := 0
  peerLead : Bool := false
  peerCap : BitVec 2 := 0
  remflt : Bool := false
  epoch : BitVec 8 := 0
  seq : BitVec 8 := 0
  /-- going-down blocks still to send (R105) -/
  goingDown : Nat := 0
  /-- index of the last block, and of the invalid sync headers among the last 64 (R101 cause 0x3) -/
  blockPos : Nat := 0
  badHeaders : List Nat := []
  winCount : Nat := 0
  winerr : BitVec 16 := 0
  degraded : Bool := false
  eyeh : Byte := 0
  eyev : Byte := 0
  /-- failing rounds of each slice, slices marked, spares in use (R109) -/
  rounds : Tab Nat := []
  marked : BitVec 32 := 0
  spares : Nat := 0
  modabs : Bool := false
  modlos : Bool := false
  mmBusy : Bool := false
  mmSince : Nat := 0
  mmErr : Bool := false
  mmNack : Bool := false
deriving DecidableEq, Repr

/-! ### Frames, forwarding and buffers (05, 06) -/

/-- A frame header, field by field (R113, R114). -/
structure Hdr where
  ver : BitVec 2 := 0
  cls : BitVec 3 := 0
  typ : BitVec 3 := 0
  path : Bool := false
  cm : Bool := false
  pf : Bool := false
  trunc : Bool := false
  rerr : Bool := false
  rse : Bool := false
  mc : Bool := false
  hop : Bool := false
  dest : BitVec 12 := 0
  tsel : BitVec 2 := 0
  src : BitVec 12 := 0
  sslot : BitVec 1 := 0
  sepoch : BitVec 3 := 0
  seq : BitVec 16 := 0
  hops : BitVec 12 := 0
  len : BitVec 11 := 0
  frag : BitVec 5 := 0
  corr : BitVec 64 := 0
  addr : BitVec 48 := 0
  tag : BitVec 16 := 0
  stream : BitVec 16 := 0
deriving DecidableEq, Repr

/-- A frame held in the packet buffer: header, payload, whether it will be ended with an inverted trailer (R135), the
port and tick of its arrival, its cells, and whether they come from the class 0 reserve (R151). -/
structure Packet where
  h : Hdr
  payload : List Byte
  stomp : Bool := false
  inPort : Option Link := none
  tick : Nat := 0
  arrival : BitVec 80 := 0
  corrections : Int := 0
  cells : Nat := 0
  reserve : Bool := false
  /-- a mirror copy for the NCP ring (R165) -/
  mirror : Bool := false
  /-- the mirror copy failed its trailer check (R166) -/
  badTrailer : Bool := false
  rawTrailer : BitVec 32 := 0
  /-- a line of it was uncorrectable: the queues that still hold it discard it as they reach it (R163) -/
  dead : Bool := false
deriving DecidableEq, Repr

/-- A frame the hub originates and that waits for admission (R153): what it is and where it goes. -/
inductive Route where
  | ring | path (e : Bool) | twin | port (l : Link)
deriving DecidableEq, Repr

/-- A held origination: header without sequence and path, payload, route, and whether it is an epoch announcement. -/
structure Orig where
  h : Hdr
  payload : List Byte
  route : Route
  announce : Bool := false
  /-- the pair whose posted store it is (R393) -/
  owner : Option Pair := none
  /-- the access and part of a posted write, which completes once its frames are admitted (R183) -/
  part : Option (Nat × Nat) := none
deriving DecidableEq, Repr

/-- The states of a duplicate window (R126). -/
inductive WinState where
  | free | armed | opened
deriving DecidableEq, Repr

/-- A duplicate window (R126). -/
structure DupWin where
  st : WinState := .free
  e : BitVec 3 := 0
  high : BitVec 16 := 0
  seen : BitVec 64 := 0
deriving DecidableEq, Repr

/-- A frame on hold at an output, with the bytes already sent and its fragment index (R119). -/
structure HeldOut where
  pkt : Packet
  sent : Nat
  frag : BitVec 5
deriving DecidableEq, Repr

/-- An output scheduler: the frame on hold, the class in turn, whether it had its quantum, and the deficits (R137). -/
structure OutSched where
  hold : Option HeldOut := none
  cls : Nat := 1
  given : Bool := false
  deficit : Tab Nat := []
deriving DecidableEq, Repr

/-- A preempted frame open at an input: its first header, its last fragment index, and its bytes so far (R120). -/
structure OpenIn where
  header : List Byte
  frag : Nat
  bytes : List Byte
deriving DecidableEq, Repr

/-- Who consumes a delivered frame. -/
inductive Sink where
  | time | axis | probe | write | nonPosted | read | response | errorMsg
  | spore | bridged | appMsg | errorReturn | pairMsg | other
deriving DecidableEq, Repr

/-- A frame delivered to a block of the hub, which takes it in its own step. -/
structure Delivered where
  sink : Sink
  port : Link
  h : Hdr
  payload : List Byte
  arrival : BitVec 80
  corrections : Int
  /-- its sequence number had been given up (R188) -/
  late : Bool := false
  /-- it has passed the ordering stage of its consumer (R354, R448) -/
  ordered : Bool := false
deriving DecidableEq, Repr

/-- A stage that restores the sequence order of one stream (R188): the next number expected, numbers above it that
passed, and the frames held with the tick since which they are held. -/
structure Stream where
  next : Option (BitVec 16) := none
  passed : List (BitVec 16) := []
  held : List (Delivered × Nat) := []
deriving DecidableEq, Repr

/-- The forwarding unit and the buffer manager (05, 06). -/
structure Fwd where
  /-- packet store, next packet id, and the 32 queues of (packet id, CM set in this copy) -/
  store : Tab (Option Packet) := []
  nextId : Nat := 0
  queues : Tab (List (Nat × Bool)) := []
  armed : BitVec 8 := 0xFF
  outW : OutSched := {}
  outE : OutSched := {}
  outT : OutSched := {}
  openW : Option OpenIn := none
  openE : Option OpenIn := none
  openT : Option OpenIn := none
  /-- sequence counters by key (R122) -/
  seqs : Tab (BitVec 16) := []
  epoch : BitVec 3 := 0
  poweron : Bool := true
  /-- function 3 has started since the last reset (R127) -/
  started : Bool := false
  annLeft : Nat := 0
  annAt : Nat := 0
  /-- class 0 frames that wait for the token bucket (R123), and other held originations (R153) -/
  class0 : List Orig := []
  held : List Orig := []
  /-- bucket level in 1/500 byte and the tick at which it was so -/
  bucket : Nat := 512000
  bucketAt : Nat := 0
  uniWin : Tab DupWin := []
  mcWin : Tab DupWin := []
  mirCount : Tab Nat := []
  mirLost : Nat := 0
  inbox : List Delivered := []
  /-- the ordering stages of the target node, the bridge and the spore engine, by (source, slot, class) (R188) -/
  streams : Tab Stream := []
  brgStreams : Tab Stream := []
  sprStreams : Tab Stream := []
  /-- capacity: active banks and spare banks in use (R147, R164) -/
  banks : Nat := 16
  spareBanks : Nat := 0
deriving DecidableEq, Repr

/-! ### Bridged units (13) -/

/-- The states of a shadow bank (R256, R364). -/
inductive BankState where
  | opened | sorting | ready | clearing
deriving DecidableEq, Repr


/-- A frame or message that waits at an egress: the frame that brought it, its data, and for a channel the words still
to write (R355 to R357). -/
structure Egress where
  h : Hdr
  data : List Byte
  w9 : Bool
  words : List (BitVec 10) := []
deriving DecidableEq, Repr

/-- An ingress unit (R349): port, lookup key, the CAN frame or none, data bytes, 2-byte characters, start in ns. -/
structure BrgUnit where
  port : Nat
  key : Word
  can : Option CanFrame
  data : List Byte
  w9 : Bool
  ns : Nat
deriving DecidableEq, Repr

/-! ### CAN controllers (13) -/

/-- The states of a transmit buffer (R338). -/
inductive BufState where
  | empty | loaded | pending | sending
deriving DecidableEq, Repr

/-- A transmit buffer (R338 to R340). -/
structure TxBuf where
  st : BufState := .empty
  frame : CanFrame := {}
  keep : Bool := false
  ss : Bool := false
  /-- ABORT of the SENDING buffer: not tried again (R340) -/
  abort : Bool := false
  /-- the bridged frame it carries (R356) -/
  bridged : Option Egress := none
deriving DecidableEq, Repr

/-- The error-confinement states (R345). -/
inductive CanConf where
  | active | passive | busOff
deriving DecidableEq, Repr

/-- A CAN controller (R331 to R347). -/
structure Can where
  b0 : TxBuf := {}
  b1 : TxBuf := {}
  b2 : TxBuf := {}
  result : BitVec 3 := 0
  rx0 : PortFifo := {}
  rx1 : PortFifo := {}
  tec : Nat := 0
  rec_ : Nat := 0
  integrating : Bool := true
  conf : CanConf := .active
  /-- bus-off recovery has begun (R346) -/
  recovering : Bool := false
  lec : BitVec 3 := 0
  dlec : BitVec 3 := 0
  ewarn : Bool := false
  /-- rate detection (R337): candidate in use, its start, frames in a row, rounds, shortest interval, found -/
  cand : BitVec 3 := 0
  candSince : Nat := 0
  okRun : Nat := 0
  rounds : Nat := 0
  miniv : Option (BitVec 16) := none
  found : Bool := false
  tdcr : BitVec 7 := 0
  /-- LD.CANSm: dominant time-out, wake-up seen since the last start -/
  domTimeout : Bool := false
  wakeSeen : Bool := false
  egress : List Egress := []
deriving DecidableEq, Repr

/-- The bridge (13): two banks of 2,048 route entries, the ingress queue and the message queue. -/
structure Brg where
  bank0 : List Host.Cell := []
  bank1 : List Host.Cell := []
  active : Bool := false
  sh : BankState := .opened
  req : Bool := false
  waitSort : Bool := false
  ingress : List BrgUnit := []
  msgq : PortFifo := {}
deriving DecidableEq, Repr

/-! ### Field lines, RS-485 channels, encoders (11) and engines (12) -/

/-- A field line on its die: the mode it was last sent (LMODE of R277), its comparator and filtered level (R279), the
level commanded at its driver, the level the scheduler last left (R277), its latch (R282), the conditions entered
(R281), and the minimum level time of engine commands (R312). -/
structure Line where
  lmode : BitVec 9 := 0
  raw : Bool := false
  filt : Bool := false
  cmd : Bool := false
  sched : Bool := false
  latched : Bool := false
  /-- latched by the frond budget (R284) -/
  cut : Bool := false
  conds : List LineCond := []
  engAt : Nat := 0
  deferred : Option Bool := none
  /-- the line stands at SAFE by the safe signal or by its die's own doing, until its frond is started (R479, R481) -/
  safed : Bool := false
deriving DecidableEq, Repr

/-- An RS-485 channel (R285 to R293). -/
structure Uart where
  rx : PortFifo := {}
  tx : List (BitVec 10) := []
  sending : Option (BitVec 10) := none
  driver : Bool := false
  receiving : Bool := false
  /-- a message is open: its EOM item is still to come (R290) -/
  msgOpen : Bool := false
  /-- the line is idle before the next character (R290) -/
  idle : Bool := true
  /-- the driver was switched off at this tick (R287) -/
  offAt : Option Nat := none
  /-- the message that the bridge assembles from this channel (R349): open, spoiled, its start, and its characters -/
  asmOpen : Bool := false
  asmBad : Bool := false
  asmStart : Nat := 0
  asmChars : List (BitVec 9) := []
  /-- messages queued for this channel (R357), the first with the words still to write -/
  egress : List Egress := []
deriving DecidableEq, Repr

/-- An encoder unit (R294 to R299). -/
structure Encoder where
  count : Word := 0
  zlatch : Word := 0
  a : Bool := false
  b : Bool := false
  z : Bool := false
  gate : Bool := false
  down : Bool := false
  armz : Bool := false
  /-- for the next axis sample: the count was set, an error occurred -/
  zset : Bool := false
  errPend : Bool := false
  cause1 : Bool := false
  cause2 : Bool := false
  /-- START of a take-over: the count and ZSET of the checkpoint are kept (R299) -/
  keep : Bool := false
deriving DecidableEq, Repr

/-- A pinna engine: the state of R304, its queues (R315), its last error (R321), and the tick at which its next step
begins. -/
structure Engine where
  pc : BitVec 6 := 0
  sr : Word := 0
  bc : Nat := 0
  x : Word := 0
  y : Word := 0
  cnt : BitVec 16 := 0
  qe : Bool := false
  delay : Nat := 0
  stalled : Bool := false
  /-- the level that an edge WAIT refers to (R308) -/
  ref : Bool := false
  nextAt : Nat := 0
  pins : BitVec 16 := 0
  tx : List Word := []
  rx : PortFifo := {}
  err : Option (BitVec 6 × BitVec 3) := none
  /-- the entry offset of a RESTART by a START action (R324) -/
  entry : Option (BitVec 6) := none
deriving DecidableEq, Repr

/-- The frond-wide state of the engines: mark flags (R314), flags set by software for the end of the next cycle, and
the placement on physical engines (R326, R327). -/
structure Frond where
  flags : BitVec 4 := 0
  map : BitVec 12 := 0x688
  spare : BitVec 3 := 4
  spareOk : Bool := true
  failing : BitVec 5 := 0
  pending : Bool := false
deriving DecidableEq, Repr

/-! ### The action scheduler (10) -/

/-- A waiting swap request (ACT.STAT.SWAPREQ). -/
inductive SwapReq where
  | none | swap | armswap
deriving DecidableEq, Repr

/-- What an entry carries into its records (R267): group, REC, slot, tag, axis, lateness, the LATE and STALE flags. -/
structure ActRec where
  group : Nat
  rec_ : Bool
  slot : Nat
  tag : Word
  axis : Nat
  lateness : Nat := 0
  late : Bool := false
  stale : Bool := false
deriving DecidableEq, Repr

/-- A command committed to a line die: its line, level, placement instant and edge instant on the tick counter, and
the entry whose outcome it is; an off edge of a pulse has none (R244, R247). -/
structure LineCmd where
  line : Nat
  on : Bool
  place : Nat
  edge : Nat
  entry : Option ActRec
deriving DecidableEq, Repr

/-- Where the off edge of a pulse lies: a position of an axis, or an instant on the tick counter (R246). -/
inductive OffEdge where
  | pos (axis : Nat) (target : BitVec 48)
  | tick (at_ : Nat)
deriving DecidableEq, Repr

/-- A pulse in flight: one per line (R246, R247). -/
structure Pulse where
  line : Nat
  onEdge : Nat
  offs : List OffEdge
  /-- the edge instant of the committed off command -/
  off : Option Nat := none
  entries : List ActRec
deriving DecidableEq, Repr

/-- The action scheduler (10): two banks of 4,096 entries of 32 bytes, the append queue, committed commands, pulses
in flight, and the capture queues. -/
structure Act where
  bank0 : List Host.Cell := []
  bank1 : List Host.Cell := []
  /-- the active bank is bank 1 -/
  active : Bool := false
  sh : BankState := .opened
  req : SwapReq := .none
  waitSort : Bool := false
  /-- axis and position that ARMSWAP took (R258) -/
  swapAx : BitVec 6 := 0
  swapPos : Word := 0
  appq : List (List Byte) := []
  cmds : List LineCmd := []
  pulses : List Pulse := []
  caps : Tab PortFifo := []
deriving DecidableEq, Repr

/-! ### USB (14) -/

/-- A hub port (R370, R373, R386): its USB 2.0 status and change bits; `attached` says that a device is there. -/
structure UsbPort where
  attached : Bool := false
  speed : BitVec 2 := 0
  power : Bool := false
  powerAt : Nat := 0
  connect : Bool := false
  enable : Bool := false
  susp : Bool := false
  overcur : Bool := false
  test : Bool := false
  ocPin : Bool := false
  cConnect : Bool := false
  cEnable : Bool := false
  cSusp : Bool := false
  cOvercur : Bool := false
  cReset : Bool := false
  /-- the hub drives a resume on the port (R386) -/
  resuming : Bool := false
deriving DecidableEq, Repr

/-- A transaction translator (R382): its non-periodic buffers, and the start-splits of one microframe. -/
structure Translator where
  bufs : List (BitVec 16) := []
  periodic : List (BitVec 16) := []
  uframe : Nat := 0
  count : Nat := 0
deriving DecidableEq, Repr

/-- The phases of a remote wake (R384). -/
inductive WakePhase where
  | none | pending | sense | drive
deriving DecidableEq, Repr

/-- A vendor control access in progress (R375): a write or a read, its address, its data or its length. -/
structure UsbCtl where
  write : Bool
  addr : BitVec 32
  len : Nat
  data : List Byte
  /-- its stage is still to be answered; a bus reset abandons it (R387) -/
  answer : Bool := true
deriving DecidableEq, Repr

/-- A command block taken (R376, R377): its id, operation, tag and length, and its result once it has completed: status,
DETAIL, bytes completed and data. -/
structure UsbBlock where
  id : Nat
  op : Byte
  tag : BitVec 16
  len : Nat
  issued : Bool
  result : Option (Nat × Nat × Nat × List Byte)
deriving DecidableEq, Repr

/-- One device of the compound device: address, configuration, alternate setting, remote wake. -/
structure UsbDevice where
  addr : BitVec 7 := 0
  config : Bool := false
  alt : Bool := false
  rwake : Bool := false
deriving DecidableEq, Repr

/-- The USB functions (14). -/
structure Usb where
  /-- VBUS is at or above 4.0 V, since this tick, and has not fallen below 3.5 V since -/
  vbus : Bool := false
  vbusOk : Bool := false
  vbusSince : Nat := 0
  pullup : Bool := false
  offAt : Option Nat := none
  high : Bool := false
  default_ : Bool := false
  hub : UsbDevice := {}
  fn : UsbDevice := {}
  suspended : Bool := false
  idleSince : Nat := 0
  wake : WakePhase := .none
  wakeSrc : BitVec 16 := 0
  senseAt : Nat := 0
  driveAt : Nat := 0
  drove : Bool := false
  cancelled : Bool := false
  /-- endpoints 0x01, 0x82, 0x83 halted -/
  halt : BitVec 3 := 0
  /-- the toggle expected or sent next on 0x01, 0x82, 0x83 and the hub's 0x81 -/
  toggles : BitVec 4 := 0
  ports : Tab UsbPort := []
  tts : Tab Translator := []
  ctl : Option UsbCtl := none
  resSeq : Byte := 0
  resStatus : Byte := 0
  resDetail : Byte := 0
  resDone : Nat := 0
  blocks : List UsbBlock := []
  nextBlock : Nat := 0
deriving DecidableEq, Repr

/-! ### Power (20) -/

/-- The states of a domain (PWR.DSTAT). -/
inductive DomState where
  | off | ramping | on | failed
deriving DecidableEq, Repr

/-- A power domain (R522 to R525): its state, since when, and whether its first switch-on test has still to run or runs
(R552). -/
structure Domain where
  st : DomState := .off
  since : Nat := 0
  tested : Bool := false
deriving DecidableEq, Repr

/-- The states of a field power channel (R532). -/
inductive PcState where
  | off | wait | precharge | ramp | on | tripped | reversed | safeoff
deriving DecidableEq, Repr

/-- A field power channel (R531 to R545). -/
structure PowerChan where
  st : PcState := .off
  /-- entry to the state -/
  since : Nat := 0
  pg : Bool := false
  pgSince : Nat := 0
  /-- power-good has not been asserted since the last entry to WAIT: start-up -/
  startup : Bool := true
  latched : Bool := false
  retry : Nat := 0
  revin : Bool := false
  inwin : Bool := false
  /-- WAIT was entered with fresh state: the hot start may apply (R536) -/
  freshWait : Bool := false
  /-- the gate is held on in FALLEN or TAKING (R545) -/
  hold : Bool := false
deriving DecidableEq, Repr

/-- A line die's always-on part as H sees it (R519, R481): its link, the outputs it applies on its own, its supply
measurements, thermal state, buck, and gate release. -/
structure LineDie where
  linkUp : Bool := false
  lost : Bool := false
  lostAt : Nat := 0
  regstat : BitVec 5 := 0x13
  temp : BitVec 16 := 0
  vin : BitVec 16 := 0
  warn : Bool := false
  crit : Bool := false
  buckOn : Bool := true
  buckOff : Option Nat := none
  gatesFree : Bool := false
deriving DecidableEq, Repr

/-- Rails and temperature of H (R521, R527, R529), and the last refusal of the sequencer (PWR.DREF). -/
structure Power where
  vin : Bool := true
  rstat : BitVec 10 := 0x3F
  temp : BitVec 16 := 0
  warn : Bool := false
  crit : Bool := false
  dref : BitVec 13 := 0
  doms : Tab Domain := []
  chans : Tab PowerChan := []
deriving DecidableEq, Repr

/-! ### Repair (21) -/

/-- A row of the row table (R559): memory, row, count, window start. -/
structure RowEntry where
  mid : Nat
  row : Nat
  count : Nat
  since : Nat
deriving DecidableEq, Repr

/-- A memory of R550: spare rows and columns used, bit i for spare i; tested, failed. -/
structure RepMem where
  rows : Nat := 0
  cols : Nat := 0
  tested : Bool := false
  failed : Bool := false
deriving DecidableEq, Repr

/-- A row marked for retirement (R559 to R561); `go` says that the command RETIRE has reached it. -/
structure RowMark where
  mid : Nat
  row : Nat
  go : Bool := false
deriving DecidableEq, Repr

/-- The repair controller (21). -/
structure Repair where
  done : Bool := false
  pbFail : Bool := false
  mapCopy : BitVec 2 := 0
  scrubbing : Bool := false
  mapPend : Bool := false
  mapFull : Bool := false
  mapGen : Nat := 0
  /-- in-service entries in effect -/
  map : List Word := []
  mems : Tab RepMem := []
  /-- the row table (R559), and the rows marked -/
  rows : Tab (Option RowEntry) := []
  marks : List RowMark := []
  /-- spare sectors used, bit i for spare i, and the highest erase count of each die's peat store -/
  secA : Nat := 0
  secB : Nat := 0
  eraseA : Nat := 0
  eraseB : Nat := 0
  /-- erase counts of the logical sectors, 32·die + sector -/
  erases : Tab Nat := []
  wear : Byte := 0
  pool : Byte := 0
deriving DecidableEq, Repr

/-! ### Images and the peat store (03) -/

/-- A slot of the peat store: its state of R64, generation and security version of its image, the image bytes, and
whether its sectors are erased. -/
structure Slot where
  st : BitVec 3 := 0
  gen : Word := 0
  svn : BitVec 6 := 0
  image : List Host.Cell := []
  /-- bytes programmed since the last erase -/
  len : Nat := 0
  erased : Bool := true
deriving DecidableEq, Repr

/-- A copy of the default overlay: its bytes and its generation; none when it has been erased. -/
structure Overlay where
  bytes : List Byte := []
deriving DecidableEq, Repr

/-- A copy of the in-service repair map: generation and entries; `ok` says that its check passes. -/
structure MapCopy where
  ok : Bool := false
  gen : Nat := 0
  entries : List Word := []
deriving DecidableEq, Repr

/-- A PEAT command in progress: its code and the arguments it took. -/
structure PeatJob where
  op : Nat
  slot : Bool
  kslot : Nat
  fid : Nat
  len : Nat
  node : BitVec 12
deriving DecidableEq, Repr

/-- The peat store and its controller (03): flash contents and fuses survive every reset. -/
structure Peat where
  slotA : Slot := {}
  slotB : Slot := {}
  ovl1 : Overlay := {}
  ovl2 : Overlay := {}
  map1 : MapCopy := {}
  map2 : MapCopy := {}
  /-- assigned node number of the boot records -/
  assigned : BitVec 12 := 0xFFF
  /-- digests of the key slots -/
  keys : Tab (List Byte) := []
  revoked : BitVec 4 := 0
  svn : BitVec 6 := 0
  job : Option PeatJob := none
  lastOp : BitVec 4 := 0
  result : BitVec 4 := 0
  err : Bool := false
  mixed : Bool := false
  /-- generation, ring id and node field of the applied image, its slot (1 = A, 2 = B, 0 = staging), its security
  version -/
  appGen : Word := 0
  appRing : Word := 0
  appNode : BitVec 12 := 0xFFF
  appSvn : BitVec 6 := 0
  ovlSkipped : Nat := 0
  ovlApplied : Nat := 0
deriving DecidableEq, Repr

/-- How far the boot has come (SYS.BOOTSTAT, SYS.RSTCAUSE). -/
structure Boot where
  phase : BitVec 4 := 0
  valid : Bool := false
  overlay : Bool := false
  slot : BitVec 2 := 0
  cause : BitVec 5 := 1
  waiting : Bool := false
  /-- the internal reset is released: pair B runs the boot ROM -/
  released : Bool := false
  /-- a reset is held until the rails have recovered (R521), or RESET_N is low (R580) -/
  held : Bool := false
  /-- the boot set is ON and BIST runs -/
  bist : Bool := false
  /-- SYS.RESET.KIND of the write in progress; 0 between commands (R593) -/
  request : BitVec 2 := 0
  /-- an image is applied and its start list waits until every requested domain is ON or FAILED (R526) -/
  listDue : Bool := false
  /-- the image clears PD9, which happens after the start list (R410, R526) -/
  pd9Off : Bool := false
  /-- line-die records that wait for their die's link: register, and value with its mask (R75) -/
  ldWait : List (Nat × Word) := []
deriving DecidableEq, Repr

/-! ### The lichen pair (19) -/

/-- The roles of R490. -/
inductive Role where
  | none | resting | probing | taking | leading | giving | receiving | fallen
deriving DecidableEq, Repr

/-- SYNC of a checkpoint copy (R505). -/
inductive CkSync where
  | none | loading | insync | gap
deriving DecidableEq, Repr

/-- The pair logic (19). -/
structure PairLogic where
  role : Role := .none
  /-- the pair logic has been entered, at this tick -/
  entered : Option Nat := none
  /-- slot 0 waits for the twin link (R495) -/
  waiting : Bool := false
  seenAlive : Bool := false
  probeAt : Nat := 0
  /-- the twin link was UP when the pair logic last looked (R502) -/
  twinWas : Bool := false
  /-- since when PEERALIVE has read 0 (R498, R500) -/
  lowSince : Nat := 0
  /-- RESTING after FALLEN: may take the node over after BOOTWAIT (R500) -/
  fromFallen : Bool := false
  fallenAt : Nat := 0
  /-- the last twin supervision block with LEAD = 1 (R499) -/
  leadSeen : Option Nat := none
  held : Bool := false
  cold : Bool := false
  selfTest : Bool := true
  rounds : Nat := 0
  holdSince : Option Nat := none
  /-- line dies are in rest hold, or frozen (R492, R511) -/
  rest : Bool := true
  frozen : Bool := false
  sync : CkSync := .none
  ckSeq : Word := 0
  ckAt : Nat := 0
  /-- the copy kept, the parts staged, and the leader's content at its last increment -/
  copy : List CkptRecord := []
  staged : List CkptRecord := []
  sent : List CkptRecord := []
  baseDue : Bool := false
  peerHealth : Tab Word := []
  /-- a handover: T0, and what it has reached -/
  t0 : Option Nat := none
  froze : Bool := false
  finalIn : Option Nat := none
  switched : Bool := false
deriving DecidableEq, Repr

/-! ### Fabric transactions (07) -/

/-- Who began an access through the aperture, and takes its completion (R187, R377, R463): a plain initiator, a waiting
instruction of a pair, a PCIe request, a command block, or a transfer of a DMA channel at an aperture offset. -/
inductive Who where
  | plain (src : Src)
  | ncp (p : Pair)
  | pcie
  | block (id : Nat)
  | dma (c : Nat) (a : Nat)
deriving DecidableEq, Repr

/-- A prefetch block (R191): window, target as node, twin selector, hop and path, and local address of the block. -/
structure PfKey where
  win : Nat
  target : Nat
  block : Nat
deriving DecidableEq, Repr

/-- One ring transaction that an access has become (R176, R179, R180); a block fetched for a read says which bytes of
it the read wants. -/
structure Request where
  hdr : Hdr
  payload : List Byte
  route : Route
  dom : Nat
  posted : Bool
  access : Nat
  part : Nat
  len : Nat
  fetch : Option (PfKey × Nat) := none
  /-- the pair whose store it is (R393) -/
  owner : Option Pair := none
deriving DecidableEq, Repr

/-- An outstanding entry (R187): the request and the tick of its issue. -/
structure Outst where
  req : Request
  since : Nat
deriving DecidableEq, Repr

/-- An access through the aperture whose transactions are under way: the results of the parts so far, as status, DETAIL
and data (R176, R377). -/
structure Access where
  who : Who
  write : Bool
  lens : List Nat
  results : Tab (Option (Nat × Nat × List Byte)) := []
deriving DecidableEq, Repr

/-- A prefetch line (R191): its block, domain, tick of its fetch, bytes, marked words and those returned. -/
structure PfLine where
  key : PfKey
  dom : Nat
  since : Nat
  data : List Byte
  marked : BitVec 64
  returned : BitVec 64 := 0
deriving DecidableEq, Repr

/-- The transaction unit (07). -/
structure Xact where
  entries : Tab (Option Outst) := []
  gens : Tab Nat := []
  counts : Tab Nat := []
  waiting : List Request := []
  accesses : Tab (Option Access) := []
  nextAccess : Nat := 0
  /-- least recently used first -/
  lines : List PfLine := []
  seUsed : BitVec 4 := 0
deriving DecidableEq, Repr


/-! ### What a command puts out -/

/-- What the hub puts out at its pins, ports and to an initiator. -/
inductive Output where
  /-- the answer to an initiator's read, with the status of R181 -/
  | answer (src : Src) (status : Nat) (data : List Byte)
  /-- a posted write into host memory (R452, R463) -/
  | hostWrite (addr : Nat) (data : List Byte)
  /-- an MSI-X message: vector, address and data of its table entry -/
  | msix (vector : Nat) (addr : DWord) (data : Word)
  /-- a PCIe completion: 0 successful, 1 Unsupported Request, 4 Completer Abort, with its data -/
  | completion (status : Nat) (data : List Byte)
  /-- the ALIVE pin -/
  | alive (level : Bool)
  /-- a frame, or a fragment of one, at a link's transmitter (R113, R119) -/
  | frame (port : Link) (f : Frame) (fin : FrameEnd)
  /-- a supervision block at a link's transmitter (R95) -/
  | supervision (port : Link) (block : DWord)
  /-- the PPS_OUT pin (R217) -/
  | ppsOut (level : Bool)
  /-- the driver of a field line is switched (R275) -/
  | line (l : Nat) (on : Bool)
  /-- a character leaves an RS-485 channel (R291) -/
  | uart (channel : Nat) (word : BitVec 10)
  /-- a CAN controller begins a frame on its bus (R339) -/
  | can (k : Nat) (f : CanFrame)
  /-- a USB handshake or data packet of an endpoint: 0 ACK, 1 NYET, 2 NAK, 3 STALL, 4 data, 5 ERR -/
  | usb (dev : UsbDev) (ep : Byte) (kind : Nat) (data : List Byte)
  /-- the power switch of a downstream USB port, at the polarity of USBH.CTRL.PPOL -/
  | usbPower (port : Nat) (level : Bool)
  /-- the LEAD pin (R490) -/
  | lead (level : Bool)
  /-- a part of a checkpoint on the twin port (R502, R503): sequence, base or increment, its records -/
  | checkpoint (seq : Word) (base : Bool) (records : List CkptRecord)
  /-- a handover message on the twin port (R510, R511) -/
  | handover (m : HandoverMsg)
  /-- the main and pre-charge gate of a power channel; none is high impedance (R532, R545) -/
  | gate (nn : Nat) (main pre : Option Bool)
deriving DecidableEq, Repr

/-! ### The state -/

/-- The whole hub. -/
structure State where
  /-- commands that wait, first in first out -/
  pending : List Instr := []
  /-- what the last command put out -/
  out : List Output := []
  /-- raises of the command in progress; empty between commands -/
  raised : List Raise := []
  /-- core ticks that have passed since the first reset -/
  now : Nat := 0
  /-- the model's own counter for free values -/
  fresh : Nat := 0
  /-- last tick at which a fault limited to once a millisecond was raised, by (source, kind) -/
  limits : Tab Nat := []
  /-- register values: in effect, or pending for an RWS register -/
  regs : Tab Word := []
  /-- applied values of RWS registers (R28, R45) -/
  applied : Tab Word := []
  /-- staged lower parts of wide control values (R30) -/
  staged : Tab Word := []
  /-- latched upper parts of wide status values, by initiator port (R31) -/
  latches : List ((Nat × Nat) × Word) := []
  funcs : Tab Func := []
  key : KeyGuard := {}
  ldx : Ldx := {}
  queues : Tab LocalQueue := []
  hostq : Tab HostQueue := []
  dma : Tab Dma := []
  pcie : Pcie := {}
  flt : Faults := {}
  ident : Ident := {}
  time : Time := {}
  axes : Tab Axis := []
  ncpA : Ncp := {}
  ncpB : Ncp := {}
  linkW : LinkPort := {}
  linkE : LinkPort := {}
  linkT : LinkPort := {}
  fwd : Fwd := {}
  /-- NCP shared memory, local map region 1 (R169) -/
  shared : List Host.Cell := []
  lines : Tab Line := []
  uarts : Tab Uart := []
  encoders : Tab Encoder := []
  engines : Tab Engine := []
  fronds : Tab Frond := []
  act : Act := {}
  cans : Tab Can := []
  /-- the CAN clock's PLL has locked (R333) -/
  canPll : Bool := false
  brg : Brg := {}
  usb : Usb := {}
  power : Power := {}
  dieA : LineDie := {}
  dieB : LineDie := {}
  rpr : Repair := {}
  peat : Peat := {}
  boot : Boot := {}
  pair : PairLogic := {}
  /-- retention SRAM holds the checkpoint copy; the process image memory is local map region 2 -/
  image : List Host.Cell := []
  xact : Xact := {}
deriving DecidableEq, Repr

/-- Why a command stops the block. -/
inductive Fault where
  /-- never raised -/
  | none
deriving DecidableEq, Repr

/-- Why a command has no meaning. -/
inductive Refusal where
  /-- raised by the dispatch for a command that has no meaning yet (safe) -/
  | notModelled (mnemonic : String)
deriving DecidableEq, Repr

/-- The hub right after a power-on reset: PD0 is on, and the sequencer switches on the first domain of the boot set
(R520 step 4, R526). -/
def State.reset : State :=
  { power := { doms := [(0, { st := .on }), (1, { st := .ramping })] } }

end Sys2Proof.Machine
end

