-- ==== Sys2Proof/Machine/Ops.lean ====
section
/-! DEFINITION. The named operations over tables, registers, functions and raises that every meaning is written in:
sparse tables, bit fields, register reads and writes, saturating counters (R32), ignored writes (R35), and the
raising of events and faults (R438). -/

namespace Sys2Proof.Machine

/-! ### Sparse tables -/

/-- The entry of a table at a key, or the default of that key. -/
def tabGet {α : Type} (d : α) : Tab α → Nat → α
  | [], _ => d
  | (j, v) :: r, k => if j = k then v else tabGet d r k

/-- A table without a key. -/
def tabErase {α : Type} (t : Tab α) (k : Nat) : Tab α := t.filter (fun e => e.1 != k)

/-- Insertion before the first greater key. -/
def tabInsert {α : Type} (t : Tab α) (k : Nat) (v : α) : Tab α :=
  match t with
  | [] => [(k, v)]
  | (j, w) :: r => if k < j then (k, v) :: (j, w) :: r else (j, w) :: tabInsert r k v

/-- A table with a key set; setting the default removes the entry, so equal tables are equal data. -/
def tabSet {α : Type} [DecidableEq α] (d : α) (t : Tab α) (k : Nat) (v : α) : Tab α :=
  if v = d then tabErase t k else tabInsert (tabErase t k) k v

/-! ### Bit fields (R5) -/

/-- Bits [hi:lo] of a number. -/
def nbits (v hi lo : Nat) : Nat := v / 2 ^ lo % 2 ^ (hi + 1 - lo)

/-- Bit n of a number. -/
def nbit (v n : Nat) : Bool := v / 2 ^ n % 2 = 1

/-- A Boolean as a bit at a place. -/
def bitAt (b : Bool) (n : Nat) : Nat := if b then 2 ^ n else 0

/-- A number with bits [hi:lo] replaced. -/
def putBits (v hi lo x : Nat) : Nat :=
  v - nbits v hi lo * 2 ^ lo + (x % 2 ^ (hi + 1 - lo)) * 2 ^ lo

/-- The signed reading of the low w bits of a number. -/
def toSigned (w n : Nat) : Int :=
  let m := n % 2 ^ w
  if 2 * m < 2 ^ w then (m : Int) else (m : Int) - (2 ^ w : Nat)

/-- The two's complement bits of an integer. -/
def ofSigned (w : Nat) (z : Int) : Nat := (z % ((2 ^ w : Nat) : Int)).toNat

/-- An integer held within the range of w signed bits. -/
def satSigned (w : Nat) (z : Int) : Int :=
  let m : Int := (2 ^ (w - 1) : Nat)
  if z < -m then -m else if m - 1 < z then m - 1 else z

/-- Quotient rounded to the nearest, ties away from zero (R228). -/
def roundDiv (n : Int) (d : Nat) : Int :=
  let q : Int := ((2 * n.natAbs + d) / (2 * d) : Nat)
  if n < 0 then -q else q

/-- Quotient rounded toward zero (R229). -/
def truncDiv (n : Int) (d : Nat) : Int :=
  let q : Int := (n.natAbs / d : Nat)
  if n < 0 then -q else q

/-- The bytes of a number, least significant first. -/
def leBytes (n : Nat) : Nat → List Byte
  | 0 => []
  | k + 1 => BitVec.ofNat 8 n :: leBytes (n / 256) k

/-- The number spelled by bytes, least significant first. -/
def leNat : List Byte → Nat
  | [] => 0
  | b :: r => b.toNat + 256 * leNat r

/-- The bytes of a number, most significant first. -/
def beBytes (n k : Nat) : List Byte := (leBytes n k).reverse

/-- The number spelled by bytes, most significant first. -/
def beNat (l : List Byte) : Nat := leNat l.reverse

/-- The part of a list of k elements from position i. -/
def slice {α : Type} (l : List α) (i k : Nat) : List α := (l.drop i).take k

/-! ### Registers -/

/-- The value of a register: in effect, or pending for an RWS register (R45). -/
def State.rg (s : State) (off : Nat) : Word := tabGet (factoryAt off) s.regs off

/-- The same as a number. -/
def State.rv (s : State) (off : Nat) : Nat := (s.rg off).toNat

/-- Bits [hi:lo] of a register. -/
def State.rf (s : State) (off hi lo : Nat) : Nat := nbits (s.rv off) hi lo

/-- Bit n of a register. -/
def State.rb (s : State) (off n : Nat) : Bool := nbit (s.rv off) n

/-- The applied value of an RWS register (R28, R45). -/
def State.ap (s : State) (off : Nat) : Nat := (tabGet (factoryAt off) s.applied off).toNat

/-- Bits [hi:lo] of an applied value. -/
def State.af (s : State) (off hi lo : Nat) : Nat := nbits (s.ap off) hi lo

/-- Bit n of an applied value. -/
def State.ab (s : State) (off n : Nat) : Bool := nbit (s.ap off) n

/-- A register set. -/
def State.setReg (s : State) (off : Nat) (v : Word) : State :=
  { s with regs := tabSet (factoryAt off) s.regs off v }

/-- A register set to a number. -/
def State.setNat (s : State) (off v : Nat) : State := s.setReg off (BitVec.ofNat 32 v)

/-- An applied value set. -/
def State.setApplied (s : State) (off : Nat) (v : Word) : State :=
  { s with applied := tabSet (factoryAt off) s.applied off v }

/-- A counter raised by k; it saturates and does not wrap (R32). -/
def State.bumpBy (s : State) (off k : Nat) : State :=
  s.setNat off (min (s.rv off + k) 0xFFFFFFFF)

/-- A counter raised by 1 (R32). -/
def State.bump (s : State) (off : Nat) : State := s.bumpBy off 1

/-! ### Output and raises -/

/-- Something put out by the command. -/
def State.emit (s : State) (o : Output) : State := { s with out := s.out ++ [o] }

/-- An event raised on a source (R438). -/
def State.event (s : State) (src kind : Nat) (body : EventBody := {}) : State :=
  { s with raised := s.raised ++ [.event src kind body] }

/-- An event with a payload. -/
def State.eventP (s : State) (src kind payload : Nat) : State :=
  s.event src kind { payload := BitVec.ofNat 64 payload }

/-- A fault message sent by a block (R16); it is also an event on its source (R438). -/
def State.fault (s : State) (src kind level detail : Nat) (addr : Nat := 0) : State :=
  { s with raised := s.raised ++ [.fault src kind level detail (BitVec.ofNat 32 addr)] }

/-- One core tick is 1.6 ns: 625 ticks to a microsecond (R7). -/
def ticksPerUs : Nat := 625

/-- A fault that its block sends at most once in so many ticks; what is suppressed never reaches the collector (R470). -/
def State.faultEvery (s : State) (period src kind level detail : Nat) (addr : Nat := 0) : State :=
  let key := src * 256 + kind
  let last := tabGet 0 s.limits key
  if last ≠ 0 ∧ s.now + 1 < last + period then s
  else { s.fault src kind level detail addr with limits := tabSet 0 s.limits key (s.now + 1) }

/-- A fault sent at most once per millisecond. -/
def State.faultMs (s : State) (src kind level detail : Nat) (addr : Nat := 0) : State :=
  s.faultEvery 625000 src kind level detail addr

/-- The source field of FUNC.IGNSRC. -/
def srcCode (p : Src) : Nat := p.port.toNat * 0x2000 + p.slot.toNat * 0x1000 + p.node.toNat

/-- What every ignored write does (R35). -/
def State.ignored (s : State) (src : Src) (off reason : Nat) : State :=
  (((s.bump 0x010010).setNat 0x010014 (reason * 0x1000000 + off)).setNat 0x010018 (srcCode src)).fault 770 0x0B 0 reason off

/-- The passage of time up to an instant named by an event; time never runs back. -/
def State.advanceTo (s : State) (t : Nat) : State := { s with now := max s.now t }

/-! ### Functions -/

/-- Ids that are always ABSENT: 56 to 63 and engines with e = 4 (R37). -/
def alwaysAbsent (id : Nat) : Bool :=
  (56 ≤ id && id ≤ 63) || (128 ≤ id && id < 208 && (id - 128) % 5 == 4)

/-- A function right after reset (FSTATn.STATE). -/
def Func.reset (id : Nat) : Func := if alwaysAbsent id then { st := .absent } else {}

/-- A function of the table. -/
def State.func (s : State) (id : Nat) : Func := tabGet (Func.reset id) s.funcs id

/-- A function set. -/
def State.setFunc (s : State) (id : Nat) (f : Func) : State :=
  { s with funcs := tabSet (Func.reset id) s.funcs id f }

/-- A function is in RUNNING. -/
def State.running (s : State) (id : Nat) : Bool := (s.func id).st == .running

/-- A function is STARTING, RUNNING or STOPPING. -/
def State.active (s : State) (id : Nat) : Bool :=
  match (s.func id).st with
  | .starting | .running | .stopping => true
  | _ => false

/-- The code of a function state in FUNC.FSTATn. -/
def FState.code : FState → Nat
  | .absent => 0 | .stopped => 1 | .starting => 2 | .running => 3 | .stopping => 4 | .halted => 5

/-- A power domain; PD0 is ON while VAON is good (R522). -/
def State.dom (s : State) (d : Nat) : Domain := if d = 0 then { st := .on, tested := true } else tabGet {} s.power.doms d

/-- A power domain set. -/
def State.setDom (s : State) (d : Nat) (x : Domain) : State :=
  { s with power := { s.power with doms := tabSet {} s.power.doms d x } }

/-- A power domain is ON. -/
def State.domOn (s : State) (d : Nat) : Bool := (s.dom d).st == .on

/-- A line die: 0 = LA, 1 = LB. -/
def State.die (s : State) (d : Nat) : LineDie := if d = 0 then s.dieA else s.dieB

/-- A line die set. -/
def State.setDie (s : State) (d : Nat) (x : LineDie) : State := if d = 0 then { s with dieA := x } else { s with dieB := x }

/-- The line dies hold every line as in mode OFF: rest hold (R492), or factory test mode (R487). -/
def State.restHold (s : State) : Bool := s.pair.rest || s.ident.straps.testen

/-- The lines of die d are held as in mode OFF (R273, R487, R492). -/
def State.dieDark (s : State) (d : Nat) : Bool := s.restHold || !s.domOn (12 + d)

/-- This hub's slot (SYS.NODE.SLOT, the strap). -/
def State.slot (s : State) : BitVec 1 := s.ident.straps.twinslot

/-- A node number as it names this hub: its own number, or 0xFFF. -/
def State.isOwn (s : State) (node : Nat) : Bool := node == 0xFFF || node == s.ident.number.toNat

/-- An axis of the table. -/
def State.axis (s : State) (a : Nat) : Axis := tabGet {} s.axes a

/-- An axis set. -/
def State.setAxis (s : State) (a : Nat) (x : Axis) : State := { s with axes := tabSet {} s.axes a x }

end Sys2Proof.Machine
end

