-- ==== Sys2Proof/Machine/Fifo.lean ====
section
/-! DEFINITION. Levels with a watermark notice (R157) and port FIFOs with loss markers (R159 to R161), written once
for every block that owns one. -/

namespace Sys2Proof.Machine

/-! ### Watermarks (R157) -/

/-- A level changes from `old` to `new` against mark m and hysteresis h: whether the notice is raised, and whether it
is armed afterwards (R157). -/
def wmStep (armed : Bool) (m h old new : Nat) : Bool × Bool :=
  let raised := armed && decide (old ≤ m) && decide (m < new)
  let armed1 := armed && !raised
  let rearm := decide (new + h < m) || (decide (new = 0) && decide (m ≤ h))
  (raised, armed1 || rearm)

/-- The payload of a notice: the level after the change in [31:0], the mark in [63:32] (R157). -/
def wmPayload (m new : Nat) : Nat := new + m * 2 ^ 32

/-! ### Port FIFOs (R159 to R161) -/

/-- The marker of R160: [63] = 1, [15:0] the lost items. -/
def fifoMarker (lost : Nat) : DWord := BitVec.ofNat 64 (2 ^ 63 + min lost 0xFFFF)

/-- The marker returned in place of an uncorrectable entry: count 1 with ECC = 1 (R160). -/
def fifoEccMarker : DWord := BitVec.ofNat 64 (2 ^ 63 + 2 ^ 17 + 1)

/-- An entry is a marker. -/
def isMarker (e : DWord) : Bool := e.getMsbD 0

/-- Entries with one more lost item recorded at the tail (R159). -/
def addLost : List DWord → List DWord
  | [] => [fifoMarker 1]
  | [e] => if isMarker e then [fifoMarker (e.toNat % 65536 + 1)] else [e, fifoMarker 1]
  | e :: r => e :: addLost r

/-- An item of some entries offered to a port FIFO of N: stored whole, or dropped whole with a marker (R159). The
Boolean says whether it was stored. Either way an entry is held, which ends UNDER (R161). -/
def PortFifo.store (f : PortFifo) (n : Nat) (item : List DWord) : PortFifo × Bool :=
  if f.entries.length + item.length ≤ n then
    ({ f with entries := f.entries ++ item, under := false }, true)
  else
    ({ f with entries := addLost f.entries, under := if f.entries = addLost f.entries then f.under else false }, false)

/-- A POP: the entry returned, and the FIFO left; an empty FIFO returns the last entry popped and reads UNDER
(R161). -/
def PortFifo.pop (f : PortFifo) (ecc : EccResult) : DWord × PortFifo :=
  match f.entries with
  | [] => (f.last, { f with under := true })
  | e :: r =>
    let v := if ecc = .uncorrectable then fifoEccMarker else e
    (v, { f with entries := r, last := v })

/-- A port FIFO emptied at START or RESTART of its owner: nothing popped since, notice armed. -/
def PortFifo.restart (_ : PortFifo) : PortFifo := {}

/-- The watermark notice of a port FIFO after a change of level, raised on a source with a kind (R157). -/
def State.fifoNotice (s : State) (old f : PortFifo) (m h src kind : Nat) : State × PortFifo :=
  let (r, a) := wmStep f.armed m h old.entries.length f.entries.length
  let s := if r then s.eventP src kind (wmPayload m f.entries.length) else s
  (s, { f with armed := a })

/-- What a POP reports of its entry: a corrected bit counts at `cor` and raises kind 0x10 at level note, an
uncorrectable one raises kind 0x11 at level warn (R160); a POP of an empty FIFO counts at `under` (R161). -/
def State.popReport (s : State) (f : PortFifo) (ecc : EccResult) (src cor under addr : Nat) : State :=
  if f.entries.isEmpty then s.bump under
  else match ecc with
    | .clean => s
    | .corrected => (s.bump cor).fault src 0x10 0 0 addr
    | .uncorrectable => s.fault src 0x11 1 0 addr

end Sys2Proof.Machine
end

