-- ==== Sys2Proof/Machine/TimeCore.lean ====
section
/-! DEFINITION. The arithmetic of fabric time (08) and of axis estimates (09): reading them at an instant, changing
the rate without a jump, and stepping. -/

namespace Sys2Proof.Machine

/-- The 64-bit tick counter (R197). -/
def State.tickCount (s : State) : Nat := (s.now - s.time.tick0) % 2 ^ 64

/-- The part of fabric time that the tick counter gives at a rate (R198). -/
def ratePart (rate : BitVec 48) (c : Nat) : Nat := rate.toNat * c / 2 ^ 30

/-- Fabric time in units of 2^-16 ns (R198). -/
def State.ft (s : State) : BitVec 80 := s.time.offset + BitVec.ofNat 80 (ratePart s.time.rate s.tickCount)

/-- Fabric time in whole nanoseconds. -/
def State.ns (s : State) : Nat := s.ft.toNat / 65536

/-- Corrections made to fabric time up to now, in units of 2^-46 ns: the steps, and the time gained or lost by
running at another rate than the base rate (R208). -/
def State.correctionsNow (s : State) : Int :=
  s.time.corrections +
    ((s.time.rate.toNat : Int) - (s.time.base.toNat : Int)) * ((s.now - s.time.rateSince : Nat) : Int)

/-- A change of the rate in use: the offset takes up the difference, so fabric time has no jump (R199). -/
def State.setRate (s : State) (base rate : BitVec 48) : State :=
  let c := s.tickCount
  { s with time := { s.time with
      offset := s.time.offset + BitVec.ofNat 80 (ratePart s.time.rate c) - BitVec.ofNat 80 (ratePart rate c)
      rate := rate, base := base, corrections := s.correctionsNow, rateSince := s.now } }

/-- The anchor of every estimate moved with a discontinuous change of fabric time (R233). -/
def shiftAnchors (d : BitVec 80) (t : Tab Axis) : Tab Axis :=
  t.map (fun e => (e.1, { e.2 with t0 := e.2.t0 + d }))

/-- A discontinuous change of fabric time by d, with the anchors moved by the same amount in the same tick (R233). -/
def State.stepTime (s : State) (d : Int) : State :=
  let b : BitVec 80 := BitVec.ofInt 80 d
  { s with time := { s.time with offset := s.time.offset + b, corrections := s.time.corrections + d * 2 ^ 30 }
           axes := shiftAnchors b s.axes }

/-- The signed difference of two fabric times in units of 2^-16 ns (R201). -/
def tdiff (a b : BitVec 80) : Int := (a - b).toInt

/-- The increment of an estimate over an interval of d units of 2^-16 ns, in units of 2^-16 count: exact, then
rounded once, with ties away from zero (R228). -/
def Axis.increment (x : Axis) (d : Int) : Int :=
  let lim : Int := 2 ^ 47
  let d := if d < -lim then -lim else if lim < d then lim else d
  roundDiv (x.v.toInt * d * 2 ^ 49 + x.acc.toInt * d * d) (2 ^ 81)

/-- The position p(t): count in [47:16], fraction in [15:0] (R228). -/
def Axis.eval (x : Axis) (t : BitVec 80) : BitVec 48 :=
  x.p0 + BitVec.ofInt 48 (x.increment (tdiff t x.t0))

/-- The count part of a position. -/
def posCount (p : BitVec 48) : Word := BitVec.ofNat 32 (p.toNat / 65536)

/-- VALID of an estimator state (R226). -/
def AxState.valid : AxState → Bool
  | .off | .none => false
  | _ => true

/-- STALE of an estimator state (R226). -/
def AxState.isStale : AxState → Bool
  | .tracking | .coasting => false
  | _ => true

/-- The code of an estimator state (R226). -/
def AxState.code : AxState → Nat
  | .off => 0 | .none => 1 | .acquiring => 2 | .tracking => 3 | .coasting => 4 | .stale => 5

/-- What a record carries of an axis at a fabric time: count, axis, VALID, STALE (R441). -/
def State.axisStamp (s : State) (a : Nat) (t : BitVec 80) : Word × Nat × Bool × Bool :=
  let x := s.axis a
  (posCount (x.eval t), a, x.st.valid, x.st.isStale)

end Sys2Proof.Machine
end

