-- ==== Sys2Proof/Machine/SporeOps.lean ====
section
/-! DEFINITION. Where an event goes (17): its record, the local spore queues, the pending bits of the NCP pairs, host
queues in host memory and MSI-X. -/

namespace Sys2Proof.Machine

/-! ### NCP pending bits (R397) -/

/-- A pair's event state. -/
def State.ncp (s : State) : Pair → Ncp
  | .a => s.ncpA
  | .b => s.ncpB

/-- A pair set. -/
def State.setNcp (s : State) (p : Pair) (n : Ncp) : State :=
  match p with
  | .a => { s with ncpA := n }
  | .b => { s with ncpB := n }

/-- The register offset of a pair's block (R414). -/
def ncpBase : Pair → Nat
  | .a => 0x0E0000
  | .b => 0x0E1000

/-- The function of a pair. -/
def pairFn : Pair → Nat
  | .a => 13
  | .b => 14

/-- The event source of a pair. -/
def pairSrc : Pair → Nat
  | .a => 704
  | .b => 705

/-- The other pair. -/
def otherPair : Pair → Pair
  | .a => .b
  | .b => .a

/-- A number put into a rising list. -/
def insertRising (n : Nat) : List Nat → List Nat
  | [] => [n]
  | m :: r => if n < m then n :: m :: r else if n = m then m :: r else m :: insertRising n r

/-- A raise reaches a pair: the source becomes pending, or counts in EVCOAL when it already is (R397). -/
def State.ncpRaise (s : State) (p : Pair) (n : Nat) : State :=
  let x := s.ncp p
  if x.pend.contains n then s.bump (ncpBase p + 0x20C)
  else s.setNcp p { x with pend := insertRising n x.pend }

/-! ### Records (R440 to R442) -/

/-- The 32 bytes of a record as they stand in host memory (R440). -/
def Record.bytes (r : Record) : List Byte :=
  leBytes (r.source.toNat + r.typ.toNat * 0x400) 2 ++
  leBytes (r.node.toNat + r.slot.toNat * 0x1000 + bitAt r.astale 13 + bitAt r.late 14 + bitAt r.gap 15) 2 ++
  leBytes r.seq.toNat 2 ++ leBytes r.kind.toNat 2 ++ leBytes r.time.toNat 8 ++ leBytes r.pos.toNat 4 ++
  leBytes (r.axis.toNat + bitAt r.avalid 6 + bitAt r.astale 7) 4 ++ leBytes r.payload.toNat 8

/-- The next sequence number of a source is taken, and its counter rises (R442). -/
def State.takeSeq (s : State) (n : Nat) : BitVec 16 × State :=
  let o := 0x0F2000 + 4 * (n % 1024)
  let q := s.rv o
  (BitVec.ofNat 16 q, s.setNat o ((q + 1) % 65536))

/-- The axis a record carries: the raising block's, else the stamp of EVT.STAMPn (R441). -/
def State.recordAxis (s : State) (n : Nat) (body : EventBody) : Option (Word × Nat × Bool × Bool) :=
  match body.axis with
  | some a => some a
  | none =>
    if s.ab (0x0F1000 + 4 * n) 6 then some (s.axisStamp (s.af (0x0F1000 + 4 * n) 5 0) s.ft) else none

/-- A record with a sequence number (R440, R441). -/
def State.record (s : State) (n typ kind : Nat) (body : EventBody) (seq : BitVec 16) : Record :=
  let (pos, a, v, st) := (s.recordAxis n body).getD (0, 0, false, false)
  { source := BitVec.ofNat 10 n, typ := BitVec.ofNat 6 typ, node := s.ident.number, slot := s.slot
    gap := typ == 2, late := body.late, seq := seq, kind := BitVec.ofNat 16 kind
    time := BitVec.ofNat 64 (body.time.getD s.ns), pos := if v then pos else 0, axis := BitVec.ofNat 6 a
    avalid := v, astale := st, payload := body.payload }

/-- A GAP record of a source: no axis, the count of dropped records in its payload (R445, R453). -/
def State.gapRecord (s : State) (n kind payload : Nat) (seq : BitVec 16) : Record :=
  { source := BitVec.ofNat 10 n, typ := 2, node := s.ident.number, slot := s.slot, gap := true, late := false
    seq := seq, kind := BitVec.ofNat 16 kind, time := BitVec.ofNat 64 s.ns, pos := 0, axis := 0, avalid := false
    astale := false, payload := BitVec.ofNat 64 payload }

/-! ### Local spore queues (R443 to R446) -/

/-- A local queue of the table. -/
def State.queue (s : State) (q : Nat) : LocalQueue := tabGet {} s.queues q

/-- A local queue set. -/
def State.setQueue (s : State) (q : Nat) (x : LocalQueue) : State := { s with queues := tabSet {} s.queues q x }

/-- The offset of EVT.QBINDq; the queue's other registers follow it. -/
def qBase (q : Nat) : Nat := 0x0F3000 + 0x20 * (q % 16)

/-- A change of a local queue with its watermark notice (R446). -/
def State.changeQueue (s : State) (q : Nat) (x : LocalQueue) : State :=
  let old := (s.queue q).recs.length
  let new := x.recs.length
  let m := s.af (qBase q + 0xC) 8 0
  let (r, a) := wmStep x.armed m (s.af (qBase q + 0x10) 8 0) old new
  let s := s.setQueue q { x with armed := a }
  if r then s.eventP (512 + q) 0x0502 (wmPayload m new) else s

/-- The GAP record that waits is stored once there is room (R445). -/
def State.storeLocalGap (s : State) (q : Nat) : State :=
  let x := s.queue q
  if x.gapPend ∧ x.recs.length < 256 then
    let (seq, s) := s.takeSeq (512 + q)
    let r := s.gapRecord (512 + q) 0x0500 (min x.gapCount 0xFFFFFFFF) seq
    s.changeQueue q { x with recs := x.recs ++ [(r, s.now)], gapPend := false, gapCount := 0 }
  else s

/-- A record arrives at a local queue: stored, or dropped with the loss remembered (R444, R445). -/
def State.enqueueLocal (s : State) (q : Nat) (r : Record) : State :=
  let s := s.storeLocalGap q
  let x := s.queue q
  if s.rf (qBase q) 15 14 = 0 then s.bump (qBase q + 0x18)
  else if x.gapPend ∨ 256 ≤ x.recs.length then
    ((s.bump (qBase q + 0x18)).setQueue q { x with gapPend := true, gapCount := x.gapCount + 1 }).faultMs
      (512 + q) 0xC8 0 q
  else s.changeQueue q { x with recs := x.recs ++ [(r, s.now)] }

/-! ### MSI-X (R454) -/

/-- A vector is sent, or its pending bit set while it is masked; nothing is sent while MSI-X or bus mastering is
disabled. -/
def State.sendMsix (s : State) (v : Nat) : State :=
  let b := 0x204000 + 0x10 * v
  if !s.pcie.msixEn then s
  else if s.pcie.fmask || s.rb (b + 0xC) 0 || !s.pcie.bme then
    { s with pcie := { s.pcie with pba := s.pcie.pba ||| BitVec.ofNat 64 (2 ^ v) } }
  else s.emit (.msix v (BitVec.ofNat 64 (s.rv b + s.rv (b + 4) * 2 ^ 32)) (s.rg (b + 8)))

/-- A raise is routed by EVT.ROUTEn to a local queue and to the pairs (R437, R466); one on source 536 also
sends the vector of PCIE.CTRL.EVVEC (17, "PCIE registers"). -/
def State.routeRaise (s : State) (n typ kind : Nat) (body : EventBody) : State :=
  let route := s.ap (0x0F0000 + 4 * n)
  let s :=
    if nbit route 15 then
      let (seq, s) := s.takeSeq n
      if s.running 12 then s.enqueueLocal (nbits route 14 11) (s.record n typ kind body seq)
      else s.bump 0x0F3204
    else s
  let s := if nbit route 10 then s.ncpRaise .a n else s
  let s := if nbit route 5 then s.ncpRaise .b n else s
  if n = 536 then s.sendMsix (s.rf 0x200000 9 4) else s

/-- Pending vectors that are no longer masked are sent (PCIe Base 4.0). -/
def State.flushMsix (s : State) : State :=
  (List.range 64).foldl (fun s v =>
    if nbit s.pcie.pba.toNat v ∧ s.pcie.msixEn ∧ !s.pcie.fmask ∧ s.pcie.bme ∧ !s.rb (0x204000 + 0x10 * v + 0xC) 0 then
      ({ s with pcie := { s.pcie with pba := s.pcie.pba &&& ~~~ BitVec.ofNat 64 (2 ^ v) } }).sendMsix v
    else s) s

/-! ### Host queues (R451 to R454) -/

/-- A host queue of the table. -/
def State.hq (s : State) (h : Nat) : HostQueue := tabGet {} s.hostq h

/-- A host queue set. -/
def State.setHq (s : State) (h : Nat) (x : HostQueue) : State := { s with hostq := tabSet {} s.hostq h x }

/-- The offset of PCIE.HQCTLh; the queue's other registers follow it. -/
def hqReg (h : Nat) : Nat := 0x200400 + 0x40 * h

/-- The records a host queue can hold (R451). -/
def HostQueue.slots (x : HostQueue) : Nat := 2 ^ (x.size + 4)

/-- The records software has not yet returned: (PROD − CONS) mod 65,536 (R451). -/
def State.hqHeld (s : State) (h : Nat) : Nat := ((s.hq h).prod - BitVec.ofNat 16 (s.rv (hqReg h + 0x28))).toNat

/-- A host queue is full (R451). -/
def State.hqFull (s : State) (h : Nat) : Bool := s.hqHeld h == (s.hq h).slots

/-- A record is written to slot PROD of a host queue, and PROD advances (R452). -/
def State.hqPut (s : State) (h : Nat) (r : Record) : State :=
  let x := s.hq h
  let s := s.emit (.hostWrite (x.base + 32 * (x.prod.toNat % x.slots)) r.bytes)
  s.setHq h { x with prod := x.prod + 1, unsig := x.unsig + 1, firstUnsig := if x.unsig = 0 then s.now else x.firstUnsig }

/-- The MSI-X message of a host queue; sending clears the count (R454). -/
def State.hqSignal (s : State) (h : Nat) : State :=
  let s := (s.sendMsix (s.rf (hqReg h) 13 8)).bump (hqReg h + 0x38)
  s.setHq h { s.hq h with unsig := 0 }

/-- The writeback of PROD, and the message once the unsignalled records reach HQMOD.COUNT (R452, R454). -/
def State.hqWriteback (s : State) (h : Nat) : State :=
  let x := s.hq h
  let s := if x.wb = 0 then s else s.emit (.hostWrite x.wb (leBytes x.prod.toNat 4))
  let count := s.rf (hqReg h + 0x24) 7 0
  if count ≠ 0 ∧ count ≤ x.unsig then s.hqSignal h else s

/-- A record that finds its host queue full is dropped (R453). -/
def State.hqDrop (s : State) (h : Nat) : State :=
  let x := s.hq h
  let s := (s.bump (hqReg h + 0x34)).setHq h { x with gapPend := true, gapCount := x.gapCount + 1 }
  let key := (1024 + h) * 256 + 0xC9
  let last := tabGet 0 s.limits key
  if last ≠ 0 ∧ s.now + 1 < last + 625000 then s
  else { s.fault 537 0xC9 1 h with limits := tabSet 0 s.limits key (s.now + 1) }

/-- The GAP record that waits goes into the first free slot (R453). -/
def State.hqGap (s : State) (h : Nat) : State :=
  let x := s.hq h
  if x.gapPend ∧ !s.hqFull h then
    let (seq, s) := s.takeSeq 537
    let r := s.gapRecord 537 0x0501 (min x.gapCount 0xFFFFFFFF + h * 2 ^ 32) seq
    let s := s.hqPut h r
    (s.setHq h { s.hq h with gapPend := false, gapCount := 0 }).hqWriteback h
  else s

/-- Records delivered to a host queue in order, then written back (R452, R453). -/
def State.hqDeliver (s : State) (h : Nat) (rs : List Record) : State :=
  let s := rs.foldl (fun s r => if s.hqFull h || (s.hq h).gapPend then s.hqDrop h else s.hqPut h r) s
  s.hqWriteback h

/-- Why records cannot be delivered to host queue h of this hub (R449). -/
def State.hqReady (s : State) (h : Nat) : Bool :=
  s.running 12 && s.running 11 && s.pcie.linkUp && s.pcie.bme && s.rb (hqReg h) 15

/-- Records that arrive at this hub for host queue h (R449, R452). -/
def State.hostArrive (s : State) (h : Nat) (rs : List Record) : State :=
  if s.hqReady h then s.hqDeliver h rs
  else (s.bumpBy 0x0F320C rs.length).faultMs 537 0xCC 0 h

end Sys2Proof.Machine
end

