-- ==== Sys2Proof/Machine/FaultOps.lean ====
section
/-! DEFINITION. Fault messages and the lanes of the fault collector (R16, R468, R469), classification (R471, R472) and
the log (R484). -/

namespace Sys2Proof.Machine

/-- A fault message (R16). -/
def faultMsg (src kind level detail : Nat) (addr : Word) : DWord :=
  BitVec.ofNat 64 (src % 1024 * 2 ^ 54 + kind % 256 * 2 ^ 46 + level % 8 * 2 ^ 43 + detail % 2048 * 2 ^ 32 + addr.toNat)

/-- SOURCE of a message. -/
def msgSource (m : DWord) : Nat := nbits m.toNat 63 54

/-- KIND of a message. -/
def msgKind (m : DWord) : Nat := nbits m.toNat 53 46

/-- The proposed LEVEL of a message. -/
def msgLevel (m : DWord) : Nat := nbits m.toNat 45 43

/-- A message enters its lane; the Boolean says that it found the priority lane full (R468, R469). -/
def State.laneEnter (s : State) (m : DWord) : State × Bool :=
  if 3 ≤ msgLevel m then
    if s.flt.prio.length < 16 then ({ s with flt := { s.flt with prio := s.flt.prio ++ [m] } }, false)
    else (s.bump 0x210060, true)
  else if s.flt.norm.length < 64 then ({ s with flt := { s.flt with norm := s.flt.norm ++ [m] } }, false)
  else ({ s.bump 0x210060 with flt := { s.flt with ovf := true } }, false)

/-- A classification entry's working state. -/
def State.fltEntry (s : State) (e : Nat) : FltEntry := tabGet {} s.flt.entries e

/-- A classification entry's working state set. -/
def State.setFltEntry (s : State) (e : Nat) (x : FltEntry) : State :=
  { s with flt := { s.flt with entries := tabSet {} s.flt.entries e x } }

/-- The offset of FLT.CLSAe. -/
def clsBase (e : Nat) : Nat := 0x212000 + 0x20 * e

/-- Entry e matches a message (R471). -/
def State.clsMatch (s : State) (m : DWord) (e : Nat) : Bool :=
  let a := s.rv (clsBase e)
  let c := s.rv (clsBase e + 8)
  nbit a 15 && decide (nbits a 9 0 ≤ msgSource m) && decide (msgSource m ≤ s.rf (clsBase e + 4) 9 0) &&
    ((msgKind m ^^^ nbits c 7 0) &&& nbits c 15 8) == 0

/-- The lowest-numbered entry that matches; entry 255 matches what no other does (R471). -/
def State.classify (s : State) (m : DWord) : Nat :=
  ((List.range 255).find? (s.clsMatch m)).getD 255

/-- The owner of a source (R476). -/
def sourceOwner (n : Nat) : Option Nat :=
  if n < 256 then some (16 + n / 16)
  else if n < 336 then some (128 + (n - 256))
  else if n < 368 then some (208 + (n - 336))
  else if n < 384 then some (240 + (n - 368))
  else if n < 392 then some (32 + (n - 384))
  else if n < 397 then some 9
  else if n = 397 then some 10
  else if 400 ≤ n ∧ n < 464 then some (64 + (n - 400))
  else if 464 ≤ n ∧ n < 480 then some 7
  else if 480 ≤ n ∧ n < 496 then some (40 + (n - 480))
  else if n = 496 then some 0
  else if n = 497 then some 1
  else if n = 498 then some 2
  else if n = 499 ∨ n = 501 then some 3
  else if n = 500 then some 4
  else if (512 ≤ n ∧ n < 528) ∨ n = 537 then some 12
  else if 528 ≤ n ∧ n < 537 then some 11
  else if 576 ≤ n ∧ n < 581 then some 5
  else if 581 ≤ n ∧ n < 585 then some 8
  else if 640 ≤ n ∧ n < 644 then some 6
  else if n = 704 then some 13
  else if n = 705 then some 14
  else none

/-- What classification decides of a message (R472). -/
structure Verdict where
  entry : Option Nat
  level : Nat
  severe : Bool
  escalated : Bool
deriving DecidableEq, Repr

/-- The collector's own tick count (R472). -/
def State.fltTick (s : State) : Nat := (s.now - s.flt.tick0) % 2 ^ 64

/-- The classification of a message by entry e, with the entry's new working state (R472). -/
def State.classifyBy (s : State) (m : DWord) (e : Nat) : Verdict × FltEntry :=
  let x := s.fltEntry e
  let d := s.rv (clsBase e + 0xC)
  let t := s.fltTick
  let fresh := x.c = 0 ∨ 6250000 * 2 ^ nbits d 11 8 ≤ (t + 2 ^ 64 - x.w) % 2 ^ 64
  let w := if fresh then t else x.w
  let c := (if fresh then 0 else x.c) + 1
  let n := nbits d 15 12
  let severe : Bool := n ≠ 0 ∧ n ≤ c
  let base := s.rf (clsBase e + 4) 15 13
  let l0 := if severe then nbits d 7 5 else if base = 7 then msgLevel m else base
  let esc : Bool := s.rb (clsBase e) 14 && x.pend
  let l1 := if esc then min (l0 + 1) 4 else l0
  let l := if msgKind m = 0x18 then max l1 3 else l1
  ({ entry := some e, level := l, severe := severe, escalated := esc && decide (l0 < l1) },
   { c := if severe then 0 else c, w := w, pend := x.pend || decide (1 ≤ l), last := l })

/-- The log is full when it holds 64 entries (R484). -/
def State.logFull (s : State) : Bool := (s.rv 0x210020 + 128 - s.rv 0x210024) % 128 == 64

/-- A log entry for a message applied at level 1 or above (R484). -/
def State.logFault (s : State) (m : DWord) (v : Verdict) (halted : Nat) : State :=
  if s.logFull then s.bump 0x210064
  else
    let p := s.rv 0x210020
    let b := 0x211000 + 0x20 * (p % 64)
    let info := halted * 0x10000 + v.entry.getD 0xFF * 0x100 + bitAt v.entry.isNone 5 + bitAt v.escalated 4 +
      bitAt v.severe 3 + v.level
    let s := (((s.setNat b (m.toNat % 2 ^ 32)).setNat (b + 4) (m.toNat / 2 ^ 32)).setNat (b + 8) info)
    let s := (s.setNat (b + 0xC) (s.ns % 2 ^ 32)).setNat (b + 0x10) (s.ns / 2 ^ 32)
    s.setNat 0x210020 ((p + 1) % 128)

end Sys2Proof.Machine
end

