-- ==== Sys2Proof/Machine/Frames.lean ====
section
/-! DEFINITION. Frame headers and their check fields (R113 to R117): the layout of the 32 header bytes, the CRC-16 of
the header, the CRC-32 of the payload, the CRC-8 of supervision blocks, and what R115 calls illegal. -/

namespace Sys2Proof.Machine

/-- One bit of a left-shifting CRC of w bits with a polynomial. -/
def crcBit (w poly crc : Nat) (b : Bool) : Nat :=
  let top := nbit crc (w - 1) != b
  let sh := crc * 2 % 2 ^ w
  if top then sh ^^^ poly else sh

/-- One byte into a left-shifting CRC, most significant bit first. -/
def crcByte (w poly crc : Nat) (x : Byte) : Nat :=
  [7, 6, 5, 4, 3, 2, 1, 0].foldl (fun c i => crcBit w poly c (nbit x.toNat i)) crc

/-- CRC-16, polynomial 0x1021, initial value 0xFFFF (R116). -/
def crc16 (l : List Byte) : BitVec 16 := BitVec.ofNat 16 (l.foldl (crcByte 16 0x1021) 0xFFFF)

/-- CRC-8, polynomial 0x07, over the 48 field bits of a supervision block, most significant bit first (R95). -/
def crc8 (fields : Nat) : Byte := BitVec.ofNat 8 ((beBytes fields 6).foldl (crcByte 8 0x07) 0)

/-- One byte into the CRC-32 of IEEE 802.3 in its bit-reversed form. -/
def crc32Byte (c : Nat) (x : Byte) : Nat :=
  [0, 1, 2, 3, 4, 5, 6, 7].foldl
    (fun c _ => if c % 2 = 1 then (c / 2) ^^^ 0xEDB88320 else c / 2) (c ^^^ x.toNat)

/-- The CRC-32 of IEEE 802.3 (R116). -/
def crc32 (l : List Byte) : BitVec 32 := BitVec.ofNat 32 (l.foldl crc32Byte 0xFFFFFFFF ^^^ 0xFFFFFFFF)

/-- The header bytes before and after HCRC: bytes 0 to 27, and bytes 30 and 31 (R113). -/
def Hdr.body (h : Hdr) : List Byte × List Byte :=
  (beBytes (h.ver.toNat * 64 + h.cls.toNat * 8 + h.typ.toNat) 1 ++
   beBytes (bitAt h.path 7 + bitAt h.cm 6 + bitAt h.pf 5 + bitAt h.trunc 4 + bitAt h.rerr 3 + bitAt h.rse 2 +
     bitAt h.mc 1 + bitAt h.hop 0) 1 ++
   beBytes (h.dest.toNat * 16 + h.tsel.toNat * 4) 2 ++
   beBytes (h.src.toNat * 16 + h.sslot.toNat * 8 + h.sepoch.toNat) 2 ++
   beBytes h.seq.toNat 2 ++ beBytes (h.hops.toNat * 16) 2 ++ beBytes (h.len.toNat * 32 + h.frag.toNat) 2 ++
   beBytes h.corr.toNat 8 ++ beBytes h.addr.toNat 6 ++ beBytes h.tag.toNat 2,
   beBytes h.stream.toNat 2)

/-- HCRC of a header (R116). -/
def Hdr.hcrc (h : Hdr) : BitVec 16 := crc16 (h.body.1 ++ h.body.2)

/-- The 32 header bytes with HCRC computed (R113, R116). -/
def Hdr.bytes (h : Hdr) : List Byte := h.body.1 ++ beBytes h.hcrc.toNat 2 ++ h.body.2

/-- The header that 32 bytes spell (R113). -/
def parseHdr (l : List Byte) : Hdr :=
  let f (i k : Nat) := beNat (slice l i k)
  let b0 := f 0 1
  let b1 := f 1 1
  { ver := BitVec.ofNat 2 (nbits b0 7 6), cls := BitVec.ofNat 3 (nbits b0 5 3), typ := BitVec.ofNat 3 (nbits b0 2 0)
    path := nbit b1 7, cm := nbit b1 6, pf := nbit b1 5, trunc := nbit b1 4, rerr := nbit b1 3, rse := nbit b1 2
    mc := nbit b1 1, hop := nbit b1 0
    dest := BitVec.ofNat 12 (nbits (f 2 2) 15 4), tsel := BitVec.ofNat 2 (nbits (f 2 2) 3 2)
    src := BitVec.ofNat 12 (nbits (f 4 2) 15 4), sslot := BitVec.ofNat 1 (nbits (f 4 2) 3 3)
    sepoch := BitVec.ofNat 3 (nbits (f 4 2) 2 0), seq := BitVec.ofNat 16 (f 6 2)
    hops := BitVec.ofNat 12 (nbits (f 8 2) 15 4), len := BitVec.ofNat 11 (nbits (f 10 2) 15 5)
    frag := BitVec.ofNat 5 (nbits (f 10 2) 4 0), corr := BitVec.ofNat 64 (f 12 8), addr := BitVec.ofNat 48 (f 20 6)
    tag := BitVec.ofNat 16 (f 26 2), stream := BitVec.ofNat 16 (f 30 2) }

/-- The header check of R118: HCRC over the bytes as received. -/
def hcrcOk (l : List Byte) : Bool := crc16 (slice l 0 28 ++ slice l 30 2) == BitVec.ofNat 16 (beNat (slice l 28 2))

/-- A whole frame as it leaves a transmitter; a stomped frame carries the inverse of its CRC-32 (R135). -/
def wireFrame (h : Hdr) (payload : List Byte) (stomp : Bool) : Frame :=
  { header := h.bytes, payload := payload, trailer := if stomp then ~~~ crc32 payload else crc32 payload }

/-- Length of a frame in bytes: header, payload and trailer (R116). -/
def frameBytes (len : Nat) : Nat := 36 + 4 * len

/-- Cells that a frame occupies (R147). -/
def frameCells (len : Nat) : Nat := (frameBytes len + 63) / 64

/-- The combination of type, class and addressing is one that R115 allows. -/
def typeLegal (h : Hdr) : Bool :=
  let c := h.cls.toNat
  match h.typ.toNat with
  | 0 => c == 0 && h.mc && h.dest == 0xFFF
  | 1 | 2 => c == 0 && h.mc
  | 3 => c ≠ 0 && !h.hop
  | 4 | 5 | 6 => c ≠ 0 && !h.mc
  | _ => !h.hop

/-- A frame that R115 calls illegal. -/
def illegalFrame (h : Hdr) : Bool :=
  !typeLegal h || (h.mc && h.hop) || h.trunc || (h.dest == 0xFFF && !h.mc && !h.hop) ||
    (h.cls == 0 && decide (23 < h.len.toNat)) || decide (512 < h.len.toNat)

end Sys2Proof.Machine
end

