-- ==== Sys2Proof/Machine/FwdOps.lean ====
section
/-! DEFINITION. The packet buffer, admission, origination, duplicate discard and output scheduling (05, 06). -/

namespace Sys2Proof.Machine

/-! ### Ports -/

/-- A link of the hub. -/
def State.link (s : State) : Link → LinkPort
  | .w => s.linkW
  | .e => s.linkE
  | .t => s.linkT

/-- A link set. -/
def State.setLink (s : State) (l : Link) (x : LinkPort) : State :=
  match l with
  | .w => { s with linkW := x }
  | .e => { s with linkE := x }
  | .t => { s with linkT := x }

/-- The register base of a link, its function, its event source, and its output number (R27, R104, R148). -/
def linkBase : Link → Nat
  | .w => 0x020000 | .e => 0x030000 | .t => 0x040000

/-- Function of a port. -/
def linkFn : Link → Nat
  | .w => 0 | .e => 1 | .t => 2

/-- Event source of a port (R104). -/
def linkSrc (l : Link) : Nat := 496 + linkFn l

/-- The port opposite (R124). -/
def oppositePort : Link → Link
  | .w => .e | .e => .w | .t => .t

/-- A link is UP. -/
def State.linkIsUp (s : State) (l : Link) : Bool := (s.link l).st == .up

/-- Repeat mode: forwarding or the buffer manager is not RUNNING (R136, R150). -/
def State.repeatMode (s : State) : Bool := !(s.running 3 && s.running 4)

/-! ### The packet store (R147 to R151) -/

/-- The active cells (BUF.CAP.CELLS). -/
def State.capCells (s : State) : Nat := s.fwd.banks * 4096

/-- Cells withdrawn from allocation because their row is marked: up to 8 for each row of a buffer bank, a free value,
since which of them are in use is not modelled (R561). -/
def State.withdrawnCells (s : State) : Nat :=
  s.rpr.marks.foldl (fun n m => if m.mid < 18 then n + (Config.measured (0x060000 + m.row) s.now).toNat % 9 else n) 0

/-- A packet of the store. -/
def State.packet (s : State) (id : Nat) : Option Packet := tabGet none s.fwd.store id

/-- The entries of queue q = 8·o + c. -/
def State.bufQ (s : State) (q : Nat) : List (Nat × Bool) := tabGet [] s.fwd.queues q

/-- The packets held. -/
def State.packets (s : State) : List Packet := s.fwd.store.filterMap (fun e => e.2)

/-- Cells of packets that satisfy a condition, each counted once. -/
def State.cellsWhere (s : State) (f : Packet → Bool) : Nat :=
  (s.packets.filter f).foldl (fun n p => n + p.cells) 0

/-- Cells that a queue holds, by a condition on its packets (R148). -/
def State.queueCells (s : State) (q : Nat) (f : Packet → Bool) : Nat :=
  (s.bufQ q).foldl (fun n e => match s.packet e.1 with
    | some p => if f p then n + p.cells else n
    | none => n) 0

/-- F: unallocated shared cells (R151). -/
def State.freeShared (s : State) : Nat :=
  s.capCells - s.rv 0x060008 - s.cellsWhere (fun p => !p.reserve) - s.withdrawnCells

/-- Unallocated cells of the class 0 reserve (R151). -/
def State.freeReserve (s : State) : Nat := s.rv 0x060008 - s.cellsWhere (fun p => p.reserve)

/-- The threshold code of a class (BUF.ALPHA0, ALPHA1). -/
def State.alpha (s : State) (c : Nat) : Nat :=
  if c < 4 then s.af 0x060000 (4 * c + 3) (4 * c) else s.af 0x060004 (4 * (c - 4) + 3) (4 * (c - 4))

/-- ⌊2^k × F⌋ for k = code − 4 (R151). -/
def thresholdLimit (code f : Nat) : Nat := if code < 4 then f / 2 ^ (4 - code) else f * 2 ^ (code - 4)

/-- A frame of class c that needs n cells may take them from the reserve (R151 step 1). -/
def State.reserveOk (s : State) (c n : Nat) : Bool := c == 0 && decide (n ≤ s.freeReserve)

/-- Admission of a frame of class c and n cells to queue q (R151). -/
def State.admits (s : State) (q c n : Nat) : Bool :=
  s.reserveOk c n ||
    (decide (s.queueCells q (fun p => !p.reserve) + n ≤ thresholdLimit (s.alpha c) s.freeShared) &&
     decide (n ≤ s.freeShared))

/-- The class as which a packet is queued: a mirror copy is a class 7 frame (R165). -/
def Packet.qcls (p : Packet) : Nat := if p.mirror then 7 else p.h.cls.toNat

/-- The level of a buffer class (R158). -/
def State.classLevel (s : State) (c : Nat) : Nat := s.cellsWhere (fun p => p.qcls == c)

/-- The watermark notice of class c after its level changed from `old` (R158). -/
def State.classNotice (s : State) (c old : Nat) : State :=
  let new := s.classLevel c
  let m := s.ap (0x060040 + 4 * c)
  if m = 0xFFFF then s
  else
    let (r, a) := wmStep (nbit s.fwd.armed.toNat c) m (s.ap 0x060060) old new
    let bit := BitVec.ofNat 8 (2 ^ c)
    let s := { s with fwd := { s.fwd with armed := if a then s.fwd.armed ||| bit else s.fwd.armed &&& ~~~ bit } }
    if r then s.eventP 500 (0x0160 + c) (wmPayload m new) else s

/-- A frame stored once and placed in the queues that admitted it; the copies for W, E and twin of a queue deeper than
BUF.MARKc are marked (R148, R155). -/
def State.storePacket (s : State) (p : Packet) (qs : List Nat) : State :=
  if qs.isEmpty then s
  else
    let c := p.h.cls.toNat
    let n := frameCells p.h.len.toNat
    let old := s.classLevel c
    let p := { p with cells := n, reserve := s.reserveOk c n }
    let id := s.fwd.nextId
    let s := { s with fwd := { s.fwd with store := tabSet none s.fwd.store id (some p), nextId := id + 1 } }
    let s := qs.foldl (fun s q =>
      let s := { s with fwd := { s.fwd with queues := tabSet [] s.fwd.queues q (s.bufQ q ++ [(id, false)]) } }
      if q < 24 ∧ c ≠ 0 ∧ s.ap (0x060010 + 4 * (c - 1)) < s.queueCells q (fun _ => true) then
        let s := s.bump (0x050900 + 4 * q)
        { s with fwd := { s.fwd with queues := tabSet [] s.fwd.queues q ((s.bufQ q).dropLast ++ [(id, true)]) } }
      else s) s
    s.classNotice c old

/-- A packet released by queue q: its cells return to free space when no queue holds it any more (R148). -/
def State.releaseFrom (s : State) (q id : Nat) : State :=
  match s.packet id with
  | none => s
  | some p =>
    let old := s.classLevel p.qcls
    let s := { s with fwd := { s.fwd with queues := tabSet [] s.fwd.queues q ((s.bufQ q).filter (·.1 != id)) } }
    if (List.range 32).any (fun k => (s.bufQ k).any (·.1 == id)) then s
    else ({ s with fwd := { s.fwd with store := tabSet none s.fwd.store id none } }).classNotice p.qcls old

/-- Every frame of a queue discarded and counted at an offset. -/
def State.flushQueue (s : State) (q counter : Nat) : State :=
  (s.bufQ q).foldl (fun s e => (s.bump counter).releaseFrom q e.1) s

/-- Frames queued for a port that is not UP are discarded and counted (R133). -/
def State.portFlush (s : State) (l : Link) : State :=
  let s := (List.range 8).foldl (fun s c => s.flushQueue (8 * linkFn l + c) 0x050068) s
  match l with
  | .w => { s with fwd := { s.fwd with outW := { s.fwd.outW with hold := none } } }
  | .e => { s with fwd := { s.fwd with outE := { s.fwd.outE with hold := none } } }
  | .t => { s with fwd := { s.fwd with outT := { s.fwd.outT with hold := none } } }

/-- A STOP of function 4 discards every queued frame (R150). -/
def State.bufferFlush (s : State) : State :=
  (List.range 32).foldl (fun s q => s.flushQueue q (0x050880 + 4 * q)) s

/-! ### Admission, counted (R151, R153) -/

/-- Admission of a transit or delivered frame to one queue, counted when it fails, at most one fault per millisecond
and queue (R153). -/
def State.tryQueue (s : State) (p : Packet) (q : Nat) : Bool × State :=
  if s.admits q p.h.cls.toNat (frameCells p.h.len.toNat) then (true, s)
  else
    let s := s.bump (0x050880 + 4 * q)
    let key := (2048 + q) * 256 + 0x51
    let last := tabGet 0 s.limits key
    if last ≠ 0 ∧ s.now + 1 < last + 625000 then (false, s)
    else (false, { s.fault 500 0x51 0 q with limits := tabSet 0 s.limits key (s.now + 1) })

/-- A frame placed in every queue that admits it (R151, R153). -/
def State.place (s : State) (p : Packet) (qs : List Nat) : State :=
  let (ok, s) := qs.foldl (fun (a : List Nat × State) q =>
    let (b, s) := a.2.tryQueue p q
    (if b then a.1 ++ [q] else a.1, s)) ([], s)
  s.storePacket p ok

/-- A frame of this class from this input to this output is stored before it is forwarded: CTMODE, or an input link
slower than the output link; class 0 is always cut through at equal rates (R134). -/
def State.stored (s : State) (i o : Link) (c : Nat) : Bool :=
  let slower := (s.link i).rate == 2 && (s.link o).rate == 1
  let ct := if c = 0 then true else if o = .e then s.rb 0x050008 (8 + c) else if o = .w then s.rb 0x050008 c else false
  slower || !ct

/-! ### Frames that go on -/

/-- The header as it is forwarded: HOPS lowered, not below 0, PF and FRAG cleared (R120, R129). -/
def forwardHdr (h : Hdr) : Hdr := { h with hops := if h.hops = 0 then 0 else h.hops - 1, pf := false, frag := 0 }

/-- A copy that this hub sent itself (R131). -/
def State.ownCopy (s : State) (h : Hdr) : Bool :=
  h.src == s.ident.number && h.sslot == s.slot && !h.hop && h.src != 0xFFF

/-- A frame of a ring port goes on to the opposite port (R118, R129 to R132, R136). -/
def State.goesOn (s : State) (l : Link) (h : Hdr) : Bool :=
  l != .t && (forwardHdr h).hops != 0 &&
    (h.ver != 0 || (!illegalFrame h && (s.repeatMode || h.hop || (if h.mc then !s.ownCopy h else h.dest != s.ident.number))))

/-- The frame being cut through when its input link leaves UP: the output frame carries what had come and ends with the
inverse of its CRC-32 (R135). -/
def State.cutOut (s : State) (l : Link) (header payload : List Byte) : State :=
  let h := parseHdr header
  let c := h.cls.toNat
  let o := oppositePort l
  let p : Packet := { h := forwardHdr h, payload := payload, stomp := true, inPort := some l, tick := s.now, arrival := s.ft }
  if !s.goesOn l h || !s.linkIsUp o then s
  else if s.repeatMode then s.storePacket p [8 * linkFn o + c]
  else if s.stored l o c then s
  else s.place p [8 * linkFn o + c]

/-! ### Origination (R121 to R123, R153) -/

/-- The key of the sequence counter of a header: (class, node) or (class, group) (R122). -/
def seqKey (h : Hdr) : Nat := (h.cls.toNat * 2 + if h.mc then 1 else 0) * 4096 + h.dest.toNat

/-- A frame has no sequence number of its own: hop-addressed, supervision and time frames (R122). -/
def noSeq (h : Hdr) : Bool := h.hop || h.typ == 0 || h.typ == 1

/-- The header stamped at admission with source, epoch, sequence and HOPS (R122, R129). -/
def State.stampHdr (s : State) (h : Hdr) : Hdr × State :=
  let k := seqKey h
  let q := tabGet (0 : BitVec 16) s.fwd.seqs k
  let h := { h with
    src := s.ident.number, sslot := s.slot, sepoch := s.fwd.epoch
    hops := if h.hop then h.dest else BitVec.ofNat 12 (s.rv 0x050004) }
  if noSeq h then ({ h with seq := 0 }, s)
  else ({ h with seq := q }, { s with fwd := { s.fwd with seqs := tabSet 0 s.fwd.seqs k (q + 1) } })

/-- The outputs a held origination needs, with the PATH flag of each copy (R121, R132). -/
def State.routeCopies (s : State) (r : Route) : List (Link × Bool) :=
  match r with
  | .ring =>
    let o := s.rf 0x050000 1 0
    (if o ≠ 2 then [(.e, false)] else []) ++ (if o ≠ 1 then [(.w, true)] else [])
  | .path e => if e then [(.e, false)] else [(.w, true)]
  | .twin => [(.t, false)]
  | .port l => [(l, l == .w)]

/-- The queue of an origination's copies on the ports that are UP, and those counted down (R133). -/
def State.needs (s : State) (o : Orig) : List (Nat × Bool) :=
  ((s.routeCopies o.route).filter (fun c => s.linkIsUp c.1)).map (fun c => (8 * linkFn c.1 + o.h.cls.toNat, c.2))

/-- Every queue that the origination needs admits it in this tick (R153). -/
def State.originationFits (s : State) (o : Orig) : Bool :=
  (s.needs o).all (fun c => s.admits c.1 o.h.cls.toNat (frameCells o.h.len.toNat))

/-- An origination admitted to every queue it needs in one tick: both copies are sent or neither is (R153), stored once
(R148); PATH is set as each copy leaves. A copy for a port that is not UP is discarded and counted (R133). -/
def State.admitOrigination (s : State) (o : Orig) : State :=
  let (h, s) := s.stampHdr o.h
  let down := ((s.routeCopies o.route).filter (fun c => !s.linkIsUp c.1)).length
  let s := s.bumpBy 0x050068 down
  s.storePacket { h := h, payload := o.payload, tick := s.now, arrival := s.ft } ((s.needs o).map (·.1))

/-- This hub takes its node's part on the ring: LEADING, TAKING, or RECEIVING after the switch (R493). -/
def State.ringLeads (s : State) : Bool :=
  match s.pair.role with
  | .leading | .taking => true
  | .receiving => s.ident.lead
  | _ => false

/-- The hub may originate a frame: without its node's part on the ring it originates only responses and supervision
(R493), besides hop-addressed frames, which an unnumbered hub may send (R178), and frames of the twin port (R177). -/
def State.mayOriginate (s : State) (h : Hdr) (r : Route) : Bool :=
  s.ringLeads || h.typ == 0 || h.typ == 6 || h.hop || r == .twin

/-- A frame that a block originates: class 0 waits for the token bucket, dropped when its queue of 16 is full (R123);
every other class is held until admission (R153). What R493 keeps the hub from originating does not leave it. -/
def State.originate (s : State) (h : Hdr) (payload : List Byte) (r : Route := .ring) (owner : Option Pair := none)
    (part : Option (Nat × Nat) := none) : State :=
  let h := { h with len := BitVec.ofNat 11 (payload.length / 4) }
  let o : Orig := { h := h, payload := payload, route := r, owner := owner, part := part }
  if !s.mayOriginate h r then s
  else if h.cls = 0 then
    if 16 ≤ s.fwd.class0.length then (s.bump 0x05006C).fault 499 0x48 1 0
    else { s with fwd := { s.fwd with class0 := s.fwd.class0 ++ [o] } }
  else { s with fwd := { s.fwd with held := s.fwd.held ++ [o] } }

/-- The bucket's level now, in 1/500 byte: filled at TB0RATE, at most TB0DEPTH (R123). -/
def State.bucketNow (s : State) : Nat :=
  min (s.fwd.bucket + s.rv 0x05000C * (s.now - s.fwd.bucketAt)) (s.rv 0x050010 * 500)

/-- The waiting class 0 frame at the head is admitted when the bucket holds its length (R123); while announcements
are still to be sent no other frame goes (R127). -/
def State.tokenAdmit (s : State) : State :=
  match s.fwd.class0 with
  | [] => s
  | o :: rest =>
    let need := frameBytes o.h.len.toNat * 500
    if s.repeatMode ∨ s.bucketNow < need ∨ (0 < s.fwd.annLeft ∧ !o.announce) ∨ !s.originationFits o then s
    else
      let s := { s with fwd := { s.fwd with class0 := rest, bucket := s.bucketNow - need, bucketAt := s.now } }
      s.admitOrigination o

/-- Held originations of one class in order: the first that fits among the heads of the classes (R153). In repeat
mode only a response goes, to a hop-addressed request or over the twin port, past those that wait (R136, R589). -/
def firstFitting (s : State) : List Orig → List Nat → List Orig → Option (Orig × List Orig)
  | [], _, _ => none
  | o :: r, blocked, before =>
    let c := o.h.cls.toNat
    let allowed := if s.repeatMode then o.h.typ == 6 && (o.h.hop || o.route == .twin) else decide (s.fwd.annLeft = 0)
    if !blocked.contains c ∧ allowed ∧ s.originationFits o then some (o, before.reverse ++ r)
    else firstFitting s r (if s.repeatMode ∧ !allowed then blocked else c :: blocked) (o :: before)

/-- A held origination is admitted (R153). -/
def State.originationAdmit (s : State) : State :=
  match firstFitting s s.fwd.held [] [] with
  | none => s
  | some (o, rest) => ({ s with fwd := { s.fwd with held := rest } }).admitOrigination o

/-! ### Duplicate discard (R125 to R128) -/

/-- What a window does with a copy. -/
inductive WinVerdict where
  | deliver | stale | second | old
deriving DecidableEq, Repr

/-- The window update of R126. -/
def DupWin.step (w : DupWin) (epoch : BitVec 3) (seq : BitVec 16) : WinVerdict × DupWin :=
  let d := (seq - w.high).toInt
  let de := (epoch - w.e).toNat
  if w.st = .free ∨ (w.st = .armed ∧ de = 0) ∨ (1 ≤ de ∧ de ≤ 3) then
    (.deliver, { st := .opened, e := epoch, high := seq, seen := 1 })
  else if de ≠ 0 then (.stale, w)
  else if 0 < d then
    let sh := if 64 ≤ d then 0 else w.seen <<< d.toNat
    (.deliver, { w with seen := sh ||| 1, high := seq })
  else if -63 ≤ d then
    if nbit w.seen.toNat (-d).toNat then (.second, w)
    else (.deliver, { w with seen := w.seen ||| BitVec.ofNat 64 (2 ^ (-d).toNat) })
  else (.old, w)

/-- The key of a unicast window: source node, source slot, class (R125). -/
def uniKey (h : Hdr) : Nat := (h.src.toNat * 2 + h.sslot.toNat) * 8 + h.cls.toNat

/-- The multicast window entry for a frame: the lowest valid one whose group, slot, class and source match (R125). -/
def State.mcEntry (s : State) (h : Hdr) : Option Nat :=
  s.regs.findSome? (fun e =>
    if 0x051004 ≤ e.1 ∧ e.1 < 0x055000 ∧ e.1 % 8 = 4 ∧ nbit e.2.toNat 15 ∧ nbits e.2.toNat 11 0 = h.src.toNat ∧
        s.rv (e.1 - 4) = h.dest.toNat * 16 + h.sslot.toNat * 8 + h.cls.toNat then some ((e.1 - 0x051004) / 8)
    else none)

/-- Duplicate discard of a frame, counted; true when the frame is to be delivered (R126). -/
def State.dupCheck (s : State) (h : Hdr) : Bool × State :=
  let verdict (r : WinVerdict) (s : State) : Bool × State :=
    match r with
    | .deliver => (true, s)
    | .stale => (false, s.bump 0x050048)
    | .second => (false, s.bump 0x050040)
    | .old => (false, s.bump 0x050044)
  if h.typ = 0 ∨ h.typ = 1 ∨ h.hop then (true, s)
  else if h.mc then
    match s.mcEntry h with
    | some k =>
      let (r, w) := (tabGet {} s.fwd.mcWin k).step h.sepoch h.seq
      verdict r { s with fwd := { s.fwd with mcWin := tabSet {} s.fwd.mcWin k w } }
    | none =>
      if h.path = s.rb 0x050000 2 then
        (true, (s.bump 0x05004C).faultMs 499 0x4A 0 (h.dest.toNat % 2048))
      else (false, s)
  else
    let k := uniKey h
    let (r, w) := (tabGet {} s.fwd.uniWin k).step h.sepoch h.seq
    verdict r { s with fwd := { s.fwd with uniWin := tabSet {} s.fwd.uniWin k w } }

/-- An epoch announcement arms every window of its source (R127): every unicast class, and every multicast entry
whose key names that source. -/
def State.armWindows (s : State) (src : BitVec 12) (slot : BitVec 1) (e : BitVec 3) : State :=
  let arm (w : DupWin) : DupWin := { w with st := .armed, e := e }
  let s : State := (List.range 8).foldl (fun (s : State) c =>
    let k := (src.toNat * 2 + slot.toNat) * 8 + c
    { s with fwd := { s.fwd with uniWin := tabSet {} s.fwd.uniWin k (arm (tabGet {} s.fwd.uniWin k)) } }) s
  let ks : List Nat := s.regs.filterMap (fun x =>
    if 0x051004 ≤ x.1 ∧ x.1 < 0x055000 ∧ x.1 % 8 = 4 ∧ nbit x.2.toNat 15 ∧ nbits x.2.toNat 11 0 = src.toNat ∧
        s.rf (x.1 - 4) 3 3 = slot.toNat then some ((x.1 - 0x051004) / 8) else none)
  ks.foldl (fun s k =>
    { s with fwd := { s.fwd with mcWin := tabSet {} s.fwd.mcWin k (arm (tabGet {} s.fwd.mcWin k)) } }) s

end Sys2Proof.Machine
end

