-- ==== Sys2Proof/Machine/RepairCore.lean ====
section
/-! DEFINITION. What every repair shares (21): the memories and their spares (R550), the map entries (R554, R557), and the
wear figure (R564). -/

namespace Sys2Proof.Machine

/-- The memory ids of R550. -/
def memIds : List Nat := List.range 18 ++ [0x1F, 0x20, 0x21, 0x22, 0x23, 0x24, 0x25, 0x26, 0x27, 0x28, 0x29]

/-- Rows of a memory (R550). -/
def memRows (mid : Nat) : Nat :=
  if mid < 18 then 512
  else match mid with
    | 0x1F => 2048 | 0x20 => 512 | 0x21 => 512 | 0x22 => 512 | 0x23 => 512 | 0x24 => 4096 | 0x25 => 2048
    | 0x26 => 256 | 0x27 => 256 | 0x28 => 128 | 0x29 => 128 | _ => 0

/-- Spare rows of a memory (R550). -/
def memSpares (mid : Nat) : Nat :=
  if mid < 18 then 4
  else match mid with
    | 0x1F => 8 | 0x20 => 8 | 0x21 => 8 | 0x22 => 8 | 0x23 => 8 | 0x24 => 16 | 0x25 => 8
    | 0x26 => 4 | 0x27 => 4 | 0x28 => 4 | 0x29 => 4 | _ => 0

/-- A memory's repair state. -/
def State.mem (s : State) (mid : Nat) : RepMem := tabGet {} s.rpr.mems mid

/-- A memory's repair state set. -/
def State.setMem (s : State) (mid : Nat) (x : RepMem) : State :=
  { s with rpr := { s.rpr with mems := tabSet {} s.rpr.mems mid x } }

/-- How many of the first k bits of a mask are 1. -/
def bitsUsed (k m : Nat) : Nat := ((List.range k).filter (nbit m)).length

/-- The lowest of the first k spares that is free. -/
def lowestFree (k m : Nat) : Option Nat := (List.range k).find? (fun i => !nbit m i)

/-- A map entry (R554). -/
def mapEntry (typ unit spare failed : Nat) : Word :=
  BitVec.ofNat 32 (typ * 2 ^ 29 + unit * 2 ^ 22 + spare * 2 ^ 18 + failed)

/-- A repair is appended to the in-service map; a full map takes no more (R557). -/
def State.recordRepair (s : State) (e : Word) : State :=
  if 1024 ≤ s.rpr.map.length then
    ({ s with rpr := { s.rpr with mapFull := true } }).fault 774 0xE6 1 2
  else
    { s with rpr := { s.rpr with map := s.rpr.map ++ [e], mapPend := s.rpr.mapPend || s.rb 0x230000 1 } }

/-- The use fractions of R564, each as numerator, denominator and pool. -/
def State.wearPools (s : State) : List (Nat × Nat × Nat) :=
  memIds.flatMap (fun m => [(bitsUsed (memSpares m) (s.mem m).rows, memSpares m, m), (bitsUsed 2 (s.mem m).cols, 2, m)]) ++
  [(s.fwd.spareBanks, 2, 0x40), (s.linkW.spares, 2, 0x41), (s.linkE.spares, 2, 0x42), (s.linkT.spares, 2, 0x43)] ++
  (List.range 16).map (fun nn =>
    let x := tabGet ({} : Frond) s.fronds nn
    (if x.spare = 7 ∨ !x.spareOk then 1 else 0, 1, 0x50 + nn)) ++
  [(bitsUsed 2 s.rpr.secA, 2, 0x60), (bitsUsed 2 s.rpr.secB, 2, 0x61),
   (min s.rpr.eraseA 10000, 10000, 0x62), (min s.rpr.eraseB 10000, 10000, 0x63)]

/-- The wear figure and the first pool that sets it (R564). -/
def State.wearNow (s : State) : Nat × Nat :=
  s.wearPools.foldl (fun (a : Nat × Nat) (n, d, p) =>
    let f := (255 * n + d - 1) / d
    if a.1 < f then (f, p) else a) (0, 0)

/-- The wear figure follows its pools; each change raises event kind 0x0632 (R564). -/
def State.wearSweep (s : State) : State :=
  let (f, p) := s.wearNow
  let old := s.rpr.wear.toNat
  let s := { s with rpr := { s.rpr with wear := BitVec.ofNat 8 f, pool := BitVec.ofNat 8 p } }
  if old = f then s else s.eventP 774 0x0632 (f + p * 256)

end Sys2Proof.Machine
end

