-- ==== Sys2Proof/Machine/LinkOps.lean ====
section
/-! DEFINITION. What happens on a link (04): training, supervision, loss, the module and the deserializer slices. -/

namespace Sys2Proof.Machine

/-- The code of a link state (R96). -/
def LState.code : LState → Nat
  | .disabled => 0 | .down => 1 | .training => 2 | .handshake => 3 | .up => 4

/-- A ring port under automatic rate (R90). -/
def State.autoRate (s : State) (l : Link) : Bool := l ≠ .t && s.rf (linkBase l) 1 0 == 0

/-- The rate at which training starts (R90, R92). -/
def State.firstRate (s : State) (l : Link) : Nat :=
  if l = .t then 2 else if s.rf (linkBase l) 1 0 = 2 then 2 else 1

/-- The port has an SFP28 cage (R106). -/
def State.hasCage (s : State) (l : Link) : Bool := l ≠ .t && s.rf (linkBase l) 3 2 == 1

/-- The rates this end advertises: bit 0 = 10.3125 GBd, bit 1 = 25.78125 GBd (R95). -/
def State.ownCap (s : State) (l : Link) : Nat :=
  if l = .t then 1 else match s.rf (linkBase l) 1 0 with
    | 1 => 2
    | 2 => 1
    | _ => 3

/-- Replacement of marked slices by spares at entry to TRAINING (R109). -/
def LinkPort.replaceSlices (x : LinkPort) : LinkPort :=
  (List.range 32).foldl (fun x i =>
    if nbit x.marked.toNat i ∧ x.spares < 2 then
      { x with marked := x.marked &&& ~~~ BitVec.ofNat 32 (2 ^ i), spares := x.spares + 1
               rounds := tabSet 0 x.rounds i 0 }
    else x) x

/-- Marked slices of a port replaced, each appended to the repair map (R109, R557). -/
def State.repairSlices (s : State) (l : Link) : State :=
  let x := s.link l
  let y := x.replaceSlices
  let gone := (List.range 32).filter (fun i => nbit x.marked.toNat i && !nbit y.marked.toNat i)
  let s := s.setLink l y
  if gone = [] then s
  else
    let unit := match l with | .w => 0 | .e => 1 | .t => 2
    ((List.range gone.length).foldl (fun s k =>
      s.recordRepair (mapEntry 4 unit (x.spares + k) (gone.getD k 0))) s).wearSweep

/-- Entry to TRAINING (R97 step 1). -/
def State.enterTraining (s : State) (l : Link) : State :=
  let s := s.repairSlices l
  let x := s.link l
  let rate := if x.rate = 0 then s.firstRate l else x.rate
  s.setLink l { x with st := .training, sigdet := true, clk := false, eq := false, blklock := false, goodSup := 0
                       rate := rate }

/-- The probes of a port forgotten when it leaves UP (R215). -/
def State.forgetProbe (s : State) (l : Link) : State :=
  match l with
  | .w => { s with time := { s.time with probeW := {} } }
  | .e => { s with time := { s.time with probeE := {} } }
  | .t => s

/-- The preempted frame open at a port discarded: counted in the port's CRCERR (R103) and in FWD.FRAGERR (R120); what
was cut through of it ends with an inverted trailer (R135). -/
def State.dropOpen (s : State) (l : Link) : State :=
  let drop (o : Option OpenIn) (s : State) : State :=
    match o with
    | none => s
    | some o => ((s.cutOut l o.header o.bytes).bump (linkBase l + 0x38)).bump 0x050060
  match l with
  | .w => drop s.fwd.openW { s with fwd := { s.fwd with openW := none } }
  | .e => drop s.fwd.openE { s with fwd := { s.fwd with openE := none } }
  | .t => drop s.fwd.openT { s with fwd := { s.fwd with openT := none } }

/-- The link went DOWN in this core tick: a further cause makes no second transition (R102). -/
def State.downNow (s : State) (l : Link) : Bool :=
  let x := s.link l
  x.st == .down && x.hold && x.downSince == s.now

/-- Entry to DOWN with a cause: one transition, counted once, with the hold-down and, on leaving UP, the loss event,
the abandoned frames and the forgotten delays (R99, R102 to R104, R133). Of several causes in one core tick the lowest
is shown (R102). -/
def State.linkDown (s : State) (l : Link) (cause : Nat) : State :=
  let x := s.link l
  if x.st = .disabled then s
  else if s.downNow l then s.setLink l { x with cause := BitVec.ofNat 4 (min x.cause.toNat cause) }
  else if x.st = .down ∧ cause ≠ 7 then s
  else
    let wasUp := x.st == .up
    let s := if wasUp then s.dropOpen l else s
    let s := s.setLink l { x with
      st := .down, hold := true, downSince := s.now, cause := BitVec.ofNat 4 cause, clk := false, eq := false
      blklock := false, goodSup := 0, remflt := false, rate := 0, cycleStart := s.now, eyeh := 0, eyev := 0 }
    let s := s.bump (linkBase l + 0x3C)
    if wasUp then ((s.portFlush l).forgetProbe l).fault (linkSrc l) 0x40 1 cause else s

/-- SIGNAL_DETECTED: TRAINING starts unless the hold-down still runs (R97, R99). -/
def linkSignal (l : Link) (s : State) : State :=
  let x := s.link l
  if x.st ≠ .down then s
  else
    let x := { x with sigdet := true, modlos := false, modabs := false }
    let s := s.setLink l x
    if x.hold then s else s.enterTraining l

/-- CLOCK_RECOVERY_LOCKED (R97 step 2). -/
def linkClock (l : Link) (s : State) : State :=
  let x := s.link l
  if x.st = .training then s.setLink l { x with clk := true } else s

/-- EQUALISER_ADAPTED (R97 step 3). -/
def linkEqualiser (l : Link) (s : State) : State :=
  let x := s.link l
  if x.st = .training ∧ x.clk then s.setLink l { x with eq := true } else s

/-- BLOCK_LOCK: HANDSHAKE, with the link epoch raised (R97 step 4, R95). -/
def linkBlockLock (l : Link) (s : State) : State :=
  let x := s.link l
  if x.st = .training ∧ x.eq then
    s.setLink l { x with st := .handshake, blklock := true, goodSup := 0, epoch := x.epoch + 1, lastSup := s.now }
  else s

/-- Entry to UP, with its event (R97 step 5, R104). -/
def State.linkUp (s : State) (l : Link) : State :=
  let x := s.link l
  (s.setLink l { x with st := .up }).eventP (linkSrc l) 0x0170
    (x.rate + x.peerNode.toNat * 2 ^ 16 + x.peerSlot.toNat * 2 ^ 28)

/-- A supervision block is received (R95, R97, R98, R101 cause 0x5). -/
def linkSupervision (l : Link) (b : DWord) (s : State) : State :=
  let x := s.link l
  let f := b.toNat / 256
  if x.st ≠ .handshake ∧ x.st ≠ .up then s
  else if b.toNat % 256 ≠ 0x4B ∨ crc8 (f % 2 ^ 48) ≠ BitVec.ofNat 8 (nbits f 55 48) then
    (s.setLink l { x with goodSup := 0 }).bump (linkBase l + 0x40)
  else
    let state := nbits f 18 16
    let cap := nbits f 15 14
    let x := { x with
      lastSup := s.now, peerNode := BitVec.ofNat 12 (nbits f 11 0), peerSlot := BitVec.ofNat 1 (nbits f 12 12)
      peerLead := nbit f 13, peerCap := BitVec.ofNat 2 cap, remflt := nbit f 19 }
    if x.st = .up then
      let s := s.setLink l x
      if state = 5 ∨ x.remflt then s.linkDown l 5 else s
    else
      let good : Bool := (state = 3 ∨ state = 4) ∧ nbit cap (if x.rate = 1 then 1 else 0)
      let x := { x with goodSup := if good then x.goodSup + 1 else 0 }
      let s := s.setLink l x
      if x.goodSup < 3 then s
      else if l = .t ∧ x.peerSlot = s.slot then
        if x.goodSup = 3 then s.fault 498 0x45 1 0 else s
      else s.linkUp l

/-- The supervision block a transmitter sends (R95). -/
def State.supBlock (s : State) (l : Link) : DWord :=
  let x := s.link l
  let state := if 0 < x.goingDown then 5 else x.st.code
  let f := s.ident.number.toNat + s.slot.toNat * 2 ^ 12 + bitAt s.ident.lead 13 + s.ownCap l * 2 ^ 14 +
    state * 2 ^ 16 + bitAt (!x.blklock) 19 + x.seq.toNat * 2 ^ 20 + x.epoch.toNat * 2 ^ 28
  BitVec.ofNat 64 (0x4B + (f + (crc8 f).toNat * 2 ^ 48) * 256)

/-- SUPERVISION_BLOCK_SEND: every microsecond while the transmitter is not idle (R94, R105, R107). -/
def linkSupSend (l : Link) (s : State) : State :=
  let x := s.link l
  if (x.st = .disabled ∧ x.goingDown = 0) ∨ (l ≠ .t ∧ s.rb (linkBase l + 0x6C) 0) then s
  else
    let s := s.advanceTo (x.lastSend + ticksPerUs)
    (s.setLink l { x with lastSend := s.now, seq := x.seq + 1, goingDown := x.goingDown - 1 }).emit
      (.supervision l (s.supBlock l))

/-- BLOCK_ERROR, `gap` valid blocks after the last error: counted, and 16 invalid headers within 64 blocks take the
link down with cause 0x3 (R93, R101). -/
def linkBlockError (l : Link) (w : BlockFault) (gap : Nat) (s : State) : State :=
  let x := s.link l
  if x.st = .disabled ∨ x.st = .down then s
  else
    let pos := x.blockPos + gap + 1
    match w with
    | .controlType => (s.setLink l { x with blockPos := pos }).bump (linkBase l + 0x34)
    | .syncHeader =>
      let bad := pos :: x.badHeaders.filter (fun p => decide (pos < p + 64))
      let s := (s.setLink l { x with blockPos := pos, badHeaders := bad, winCount := x.winCount + 1 }).bump
        (linkBase l + 0x30)
      if 16 ≤ bad.length ∧ x.st = .up then
        (s.setLink l { s.link l with badHeaders := [] }).linkDown l 3
      else s

/-- RATE_CYCLE_EXPIRY under automatic rate: 100 ms at 25.78125 GBd, 300 ms at 10.3125 GBd, in turn (R90). -/
def linkRateCycle (l : Link) (s : State) : State :=
  let x := s.link l
  if !s.autoRate l ∨ x.st = .up ∨ x.st = .disabled ∨ x.hold then s
  else
    let rate := if x.rate = 2 then 2 else 1
    let s := s.advanceTo (x.cycleStart + if rate = 1 then 62500000 else 187500000)
    let x := { x with rate := 3 - rate, cycleStart := s.now, clk := false, eq := false, blklock := false, goodSup := 0
                      st := if x.st = .down then .down else .training }
    s.setLink l x

/-- HOLD_DOWN_EXPIRY: after 1 ms training starts again (R99). -/
def linkHoldEnd (l : Link) (s : State) : State :=
  let x := s.link l
  if x.st = .down ∧ x.hold then
    let s := s.advanceTo (x.downSince + 625000)
    let s := s.setLink l { x with hold := false, cycleStart := s.now, rate := 0 }
    if x.sigdet ∧ !x.modabs then s.enterTraining l else s
  else s

/-- MODULE_LOS with a cage (R101, R106). -/
def linkModuleLos (l : Link) (s : State) : State :=
  if s.hasCage l then
    let s := s.setLink l { s.link l with modlos := true, sigdet := false }
    s.linkDown l 1
  else s

/-- SIGNAL_LOST (R101). -/
def linkSignalLost (l : Link) (s : State) : State :=
  (s.setLink l { s.link l with sigdet := false }).linkDown l 2

/-- SUPERVISION_TIMEOUT: no valid block for 4 µs while UP (R101). -/
def linkSupTimeout (l : Link) (s : State) : State :=
  let x := s.link l
  if x.st = .up then (s.advanceTo (x.lastSup + 4 * ticksPerUs)).linkDown l 4 else s

/-- MODULE_ABSENT with a cage (R106). -/
def linkModuleAbsent (l : Link) (s : State) : State :=
  if s.hasCage l then
    let x := s.link l
    let s := s.setLink l { x with modabs := true, sigdet := false }
    let s := if x.mmBusy then s.setLink l { s.link l with mmBusy := false, mmErr := true } else s
    (s.linkDown l 6).fault (linkSrc l) 0x43 0 0
  else s

/-- RETRAIN: to DOWN, or the hold-down restarted, counted with cause 0x7 (R100). -/
def linkRetrain (l : Link) (s : State) : State := s.linkDown l 7

/-- RATEUP: a ring port under automatic rate retrains at 25.78125 GBd (R91, x.CMD). -/
def linkRateup (l : Link) (s : State) : State := if s.autoRate l then s.linkDown l 7 else s

/-- A write to MMCTL, which starts a byte transfer (R108); ignored with reason 0x2 while BUSY. -/
def linkMmctl (src : Src) (l : Link) (v : Word) (s : State) : State :=
  let off := linkBase l + 0x60
  if l = .t then s.ignored src off 4
  else
    let x := s.link l
    if x.mmBusy then s.ignored src off 2
    else
      let m := v >>> 16
      let s := s.setReg off ((s.rg off &&& ~~~m) ||| (v &&& m))
      s.setLink l { s.link l with mmBusy := true, mmSince := s.now, mmErr := false, mmNack := false }

/-- MODULE_TRANSFER_DONE (R108). -/
def linkMmDone (l : Link) (nack removed : Bool) (d : Byte) (s : State) : State :=
  let x := s.link l
  if x.mmBusy then
    let s := s.setLink l { x with mmBusy := false, mmNack := nack && !removed, mmErr := removed }
    if !nack ∧ !removed ∧ !s.rb (linkBase l + 0x60) 15 then s.setNat (linkBase l + 0x64) d.toNat else s
  else s

/-- MODULE_TRANSFER_TIMEOUT: not ended within 1 ms (R108). -/
def linkMmTimeout (l : Link) (s : State) : State :=
  let x := s.link l
  if x.mmBusy then (s.advanceTo (x.mmSince + 625000)).setLink l { x with mmBusy := false, mmErr := true } else s

/-- SLICE_SHADOW_ROUND: three failing rounds in a row mark the slice (R109). -/
def linkSliceRound (l : Link) (i : BitVec 5) (n : Nat) (s : State) : State :=
  let x := s.link l
  let k := i.toNat
  let r := if 4 ≤ n then tabGet 0 x.rounds k + 1 else 0
  let s := s.setLink l { x with rounds := tabSet 0 x.rounds k (min r 3) }
  if 3 ≤ r ∧ !nbit x.marked.toNat k then
    let s := s.setLink l { s.link l with marked := x.marked ||| BitVec.ofNat 32 (2 ^ k) }
    let s := s.eventP (linkSrc l) 0x0171 k
    let s := if 2 ≤ x.spares then s.fault (linkSrc l) 0x44 1 0 else s
    if s.rb (linkBase l) 6 ∧ x.spares < 2 then s.linkDown l 7 else s
  else s

/-- QUALITY_WINDOW_END: WINERR and DEGRADED, with the eye measured while UP (R110, R111). -/
def linkQuality (l : Link) (eh ev : Byte) (s : State) : State :=
  let x := s.link l
  let n := min x.winCount 0xFFFF
  let deg : Bool := s.ap (linkBase l + 0xC) < n
  let up := x.st == .up
  let s := s.setLink l { x with winCount := 0, winerr := BitVec.ofNat 16 n, degraded := deg
                                eyeh := if up then eh else 0, eyev := if up then ev else 0 }
  if deg ∧ !x.degraded then s.fault (linkSrc l) 0x42 1 0
  else if !deg ∧ x.degraded then s.eventP (linkSrc l) 0x0172 n
  else s

/-- FALLEN: UP at 10.3125 GBd under automatic rate though both ends advertise 25.78125 GBd (R91). -/
def State.fallen (s : State) (l : Link) : Bool :=
  let x := s.link l
  x.st == .up && x.rate == 2 && s.autoRate l && x.peerCap.getLsbD 1

/-- x.STAT (04, "Link registers"). -/
def State.linkStat (s : State) (l : Link) : Nat :=
  let x := s.link l
  x.peerNode.toNat * 2 ^ 20 + x.peerSlot.toNat * 2 ^ 19 + bitAt x.peerLead 18 + bitAt (s.fallen l) 16 +
    x.cause.toNat * 2 ^ 12 + bitAt x.degraded 11 + bitAt x.remflt 10 + bitAt (l != .t && !x.modabs) 9 +
    bitAt x.modlos 8 + bitAt x.sigdet 7 + bitAt x.blklock 6 +
    (if x.st = .disabled ∨ x.st = .down then 0 else x.rate) * 16 + x.st.code

/-! ### The port functions (R96, R105) -/

/-- A port function enters RUNNING: its link leaves DISABLED for DOWN without a hold-down (R96, R97). -/
def State.portRunning (s : State) (l : Link) : State :=
  let x := s.link l
  if x.st ≠ .disabled then s
  else s.setLink l { x with st := .down, hold := false, rate := 0, cycleStart := s.now, goingDown := 0 }

/-- A port function is stopped: the link goes DOWN with cause 0x8 and three going-down blocks are sent (R101, R105). -/
def State.portStopping (s : State) (l : Link) : State :=
  let s := s.linkDown l 8
  s.setLink l { s.link l with goingDown := 3 }

/-- A port function is STOPPED: its transmitter idles (R105). -/
def State.portStopped (s : State) (l : Link) : State :=
  s.setLink l { s.link l with st := .disabled, hold := false, goingDown := 0, rate := 0 }

/-- A port function is HALTED: its transmitter idles at once (R105). -/
def State.portHalted (s : State) (l : Link) : State :=
  (s.linkDown l 8).portStopped l

end Sys2Proof.Machine
end

