-- ==== Sys2Proof/Machine/FwdRecv.lean ====
section
/-! DEFINITION. Frames that arrive, pass, are delivered and leave (R118 to R138, R162 to R167, R188). -/

namespace Sys2Proof.Machine

/-! ### Memory: bytes by address, one canonical form -/

/-- What a byte that nothing has written reads as (DESIGN CHOICE: the spec gives no contents after power-on;
notes/assumptions/10). -/
def memDefault : Byte := 0

/-- A memory is in its canonical form: addresses strictly rising, no entry equal to what an unlisted address reads. -/
def Memory.wf : List Host.Cell → Bool
  | [] => true
  | [c] => c.2 != memDefault
  | c :: d :: r => c.2 != memDefault && decide (c.1 < d.1) && Memory.wf (d :: r)

/-- One byte read. -/
def memRead (m : List Host.Cell) (a : Nat) : Byte := tabGet memDefault m a

/-- One byte written. -/
def memWrite (m : List Host.Cell) (a : Nat) (b : Byte) : List Host.Cell := tabSet memDefault m a b

/-- k bytes read from an address. -/
def memReadN (m : List Host.Cell) (a k : Nat) : List Byte := (List.range k).map (fun i => memRead m (a + i))

/-- Bytes written from an address, in ascending order. -/
def memWriteN (m : List Host.Cell) (a : Nat) : List Byte → List Host.Cell
  | [] => m
  | b :: r => memWriteN (memWrite m a b) (a + 1) r

/-! ### Ordering stages (R188) -/

/-- Held frames whose turn has come, in order, and the stage after them. -/
def Stream.drain : Nat → Stream → List Delivered → List Delivered × Stream
  | 0, x, acc => (acc.reverse, x)
  | k + 1, x, acc =>
    match x.next with
    | none => (acc.reverse, x)
    | some n =>
      if x.passed.contains n then
        Stream.drain k { x with next := some (n + 1), passed := x.passed.filter (· != n) } acc
      else match x.held.find? (fun e => e.1.h.seq == n) with
        | some e => Stream.drain k { x with next := some (n + 1), held := x.held.filter (fun f => f.1.h.seq != n) }
            (e.1 :: acc)
        | none => (acc.reverse, x)

/-- A frame reaches a stage: what the stage lets through, in order, and the stage after it. `own` says that the stage
holds early frames of this type; a frame whose number was given up goes through marked late. -/
def Stream.arrive (x : Stream) (d : Delivered) (own : Bool) (now : Nat) : List Delivered × Stream :=
  match x.next with
  | none => ([d], { x with next := some (d.h.seq + 1) })
  | some n =>
    let k := (d.h.seq - n).toInt
    if k < 0 then ([{ d with late := true }], x)
    else if k = 0 then
      let (r, x) := Stream.drain (x.held.length + x.passed.length + 1) { x with next := some (n + 1) } []
      (d :: r, x)
    else if own then ([], { x with held := x.held ++ [(d, now)] })
    else ([d], { x with passed := d.h.seq :: x.passed })

/-- The hold of the frame held longest expires: the numbers below the lowest held one are given up, and what then
follows goes through. -/
def Stream.expire (x : Stream) : List Delivered × Stream :=
  match x.held, x.next with
  | [], _ => ([], x)
  | e :: _, none => ([e.1], { x with held := x.held.drop 1 })
  | e :: es, some n =>
    let low := es.foldl (fun (m : BitVec 16) f => if (f.1.h.seq - n).toNat < (m - n).toNat then f.1.h.seq else m)
      e.1.h.seq
    Stream.drain (x.held.length + x.passed.length + 1)
      { x with next := some low, passed := x.passed.filter (fun q => decide ((low - n).toNat ≤ (q - n).toNat)) } []

/-- The key of a stream: (source node, source slot, class). -/
def streamKey (h : Hdr) : Nat := uniKey h

/-! ### Delivery -/

/-- Who consumes a frame that this hub delivers (R119, R206, R215, R353). -/
def sinkOf (h : Hdr) (payload : List Byte) : Sink :=
  match h.typ.toNat with
  | 0 => if 2 ≤ (payload.headD 0).toNat ∧ (payload.headD 0).toNat ≤ 4 then .probe else .other
  | 1 => .time
  | 2 => .axis
  | 3 => .write
  | 4 => .nonPosted
  | 5 => .read
  | 6 => if h.rerr ∧ nbit (beNat (slice payload 0 4)) 31 then .errorMsg else .response
  | _ => match h.addr.toNat / 2 ^ 44 with
    | 0 => .appMsg
    | 1 => .bridged
    | 2 => .bridged
    | 3 => .errorReturn
    | 4 => .spore
    | 8 => .pairMsg
    | _ => .other

/-- A frame handed to the block that consumes it; a type 7 frame of another code, or a pair frame from a ring port, is
discarded and counted (R353). -/
def State.hand (s : State) (d : Delivered) : State :=
  if d.h.typ = 7 ∧ (d.sink = .other ∨ (d.sink = .pairMsg ∧ d.port ≠ .t)) then s.bump 0x0B0118
  else if d.sink = .other then s else { s with fwd := { s.fwd with inbox := s.fwd.inbox ++ [d] } }

/-- The oldest frame waiting for a block. -/
def State.takeInbox (s : State) (k : Sink) : Option (Delivered × State) :=
  match s.fwd.inbox.find? (fun d => d.sink == k) with
  | none => none
  | some d => some (d, { s with fwd := { s.fwd with inbox := s.fwd.inbox.erase d } })

/-- No frame of the same stream that a block takes first waits before this one (R189, R190). -/
def State.inTurn (s : State) (d : Delivered) (first : List Sink) : Bool :=
  !(s.fwd.inbox.takeWhile (fun e => e != d)).any (fun e => first.contains e.sink && streamKey e.h == streamKey d.h)

/-- The oldest frame waiting for a block, when it is its turn. -/
def State.takeTurn (s : State) (k : Sink) (first : List Sink) : Option (Delivered × State) :=
  match s.takeInbox k with
  | none => none
  | some (d, t) => if s.inTurn d first then some (d, t) else none

/-- The streams of a source start over at an epoch announcement: the first number of the new epoch is 0 (R188). Held
frames go on to their consumers first. -/
def State.resetStreams (s : State) (src : BitVec 12) (slot : BitVec 1) : State :=
  (List.range 8).foldl (fun s c =>
    let k := (src.toNat * 2 + slot.toNat) * 8 + c
    let held := (tabGet {} s.fwd.streams k).held.map (·.1)
    let s : State := held.foldl State.hand s
    let one : Stream := { next := some 0 }
    { s with fwd := { s.fwd with streams := tabSet {} s.fwd.streams k one
                                 brgStreams := tabSet {} s.fwd.brgStreams k one
                                 sprStreams := tabSet {} s.fwd.sprStreams k one } }) s

/-- An epoch announcement is received (R127): an announcement of an epoch already in force changes nothing (R125,
"repeated supervision frames have no further effect"). -/
def State.announced (s : State) (h : Hdr) (payload : List Byte) : State :=
  let b := (slice payload 1 1).headD 0
  let e := BitVec.ofNat 3 (b.toNat % 8)
  let ws := (List.range 8).map (fun c => tabGet ({} : DupWin) s.fwd.uniWin ((h.src.toNat * 2 + h.sslot.toNat) * 8 + c))
  if ws.all (fun w => w.st != .free && w.e == e) then s
  else (s.armWindows h.src h.sslot e).resetStreams h.src h.sslot

/-- A frame delivered to this hub's own block, after its trailer check (R134, R156, R127). -/
def State.deliverHere (s : State) (p : Packet) : State :=
  let s := if p.h.cm then s.bump (0x050980 + 4 * p.h.cls.toNat) else s
  if p.h.typ = 0 ∧ p.payload.headD 0 = 1 then s.announced p.h p.payload
  else s.hand { sink := sinkOf p.h p.payload, port := p.inPort.getD .t, h := p.h, payload := p.payload
                arrival := p.arrival, corrections := p.corrections }

/-! ### Admission and counting -/

/-- The output queue of a port that is UP; a frame for a port that is not UP is discarded and counted (R133). -/
def State.outQueue (s : State) (l : Link) (c : Nat) : List Nat × State :=
  if s.linkIsUp l then ([8 * linkFn l + c], s) else ([], s.bump 0x050068)

/-- The local queue of a class. -/
def localQ (c : Nat) : Nat := 24 + c

/-- A mirror copy is lost (R167). -/
def State.mirrorLost (s : State) (port : Link) : State :=
  let s := s.bump 0x050C10
  let s := { s with fwd := { s.fwd with mirLost := s.fwd.mirLost + 1 } }
  s.faultMs 501 0x52 0 (linkFn port)

/-- The Nth frame of a port is copied to the NCP (R165): the first 128 bytes, TRUNC set, as a class 7 frame of the
local queue. -/
def State.mirror (s : State) (port : Link) (h : Hdr) (payload : List Byte) (trailer : BitVec 32)
    (bad : Bool) : State :=
  let p := linkFn port
  let n := s.ap (0x050C00 + 4 * p)
  if n = 0 then s
  else
    let k := tabGet 0 s.fwd.mirCount p + 1
    let s := { s with fwd := { s.fwd with mirCount := tabSet 0 s.fwd.mirCount p (if n ≤ k then 0 else k) } }
    if k < n then s
    else
      let pkt : Packet := { h := { h with trunc := true }, payload := payload, inPort := some port, tick := s.tickCount
                            mirror := true, badTrailer := bad, rawTrailer := trailer }
      let q := localQ 7
      let cells := (min (frameBytes h.len.toNat) 128 + 63) / 64
      if decide (s.queueCells q (fun x => !x.reserve) + cells ≤ thresholdLimit (s.alpha 7) s.freeShared) &&
          decide (cells ≤ s.freeShared) then
        let id := s.fwd.nextId
        let old := s.classLevel 7
        { s with fwd := { s.fwd with store := tabSet none s.fwd.store id (some { pkt with cells := cells }), nextId := id + 1
                                     queues := tabSet [] s.fwd.queues q (s.bufQ q ++ [(id, false)]) } }.classNotice 7 old
      else s.mirrorLost port

/-- A mirror copy reaches the NCP ring, or is lost when the ring is full (R166, R167). -/
def State.writeMirror (s : State) (p : Packet) : State :=
  let cfg := s.rv 0x050C0C
  let size := 2 ^ (nbits cfg 15 13 + 4)
  let prod := s.rv 0x050C14 % size
  let port := p.inPort.getD .t
  if (prod + 1) % size = s.rv 0x050C18 then s.mirrorLost port
  else
    let frame := p.h.bytes ++ p.payload ++ beBytes p.rawTrailer.toNat 4
    let copy := frame.take 128
    let slot := copy ++ List.replicate (128 - copy.length) 0 ++ leBytes p.tick 8 ++ leBytes (linkFn port) 1 ++
      leBytes (bitAt (decide (128 < frame.length)) 0 + bitAt p.badTrailer 1) 1 ++ leBytes copy.length 2 ++
      leBytes (min s.fwd.mirLost 0xFFFFFFFF) 4 ++ List.replicate 112 0
    let base := nbits cfg 12 0 * 256 + prod * 256
    let s := { s with shared := memWriteN s.shared base slot, fwd := { s.fwd with mirLost := 0 } }
    (s.setNat 0x050C14 ((prod + 1) % size)).event 501 Sys2Proof.Config.mirrorEventKind.toNat

/-! ### FRAME_RECEIVED -/

/-- The bytes that came before a fragment: the preempted frame open at an input port. -/
def State.openAt (s : State) : Link → Option OpenIn
  | .w => s.fwd.openW
  | .e => s.fwd.openE
  | .t => s.fwd.openT

/-- The preempted frame open at an input port set. -/
def State.setOpen (s : State) (l : Link) (o : Option OpenIn) : State :=
  match l with
  | .w => { s with fwd := { s.fwd with openW := o } }
  | .e => { s with fwd := { s.fwd with openE := o } }
  | .t => { s with fwd := { s.fwd with openT := o } }

/-- A repeated header differs from the first only in PF, FRAG and HCRC (R120). -/
def sameHeader (a b : List Byte) : Bool :=
  let mask (h : List Byte) : List Byte :=
    slice h 0 1 ++ (slice h 1 1).map (fun x => x &&& 0xDF#8) ++ slice h 2 9 ++
      (slice h 11 1).map (fun x => x &&& 0xE0#8) ++ slice h 12 16 ++ slice h 30 2
  mask a == mask b

/-- Fragments joined (R119, R120): the whole frame's header and payload once its last fragment has come, or none
while it is on hold or broken. A frame that the loss of its link cuts is counted in CRCERR (R103), in FRAGERR too when it had been
preempted (R120), and ended with an inverted trailer where it was being cut through (R135). -/
def State.reassemble (s : State) (l : Link) (f : Frame) (fin : FrameEnd) :
    Option (List Byte × List Byte) × State :=
  let h := parseHdr f.header
  let broken (s : State) := (none, (s.setOpen l none).bump 0x050060)
  match s.openAt l with
  | none =>
    if h.pf then broken s
    else match fin with
      | .term => (some (f.header, f.payload), s)
      | .hold => (none, s.setOpen l (some { header := f.header, frag := 0, bytes := f.payload }))
      | .cut => (none, (s.cutOut l f.header f.payload).bump (linkBase l + 0x38))
  | some o =>
    if !h.pf then
      -- a class 0 frame passes a frame on hold; a start block of another class breaks it
      if h.cls ≠ 0 then broken s
      else match fin with
        | .term => (some (f.header, f.payload), s)
        | .hold => broken s
        | .cut => (none, (s.cutOut l f.header f.payload).bump (linkBase l + 0x38))
    else if !sameHeader o.header f.header ∨ h.frag.toNat ≠ o.frag + 1 then broken s
    else match fin with
      | .term => (some (o.header, o.bytes ++ f.payload), s.setOpen l none)
      | .hold => (none, s.setOpen l (some { o with frag := h.frag.toNat, bytes := o.bytes ++ f.payload }))
      | .cut => broken ((s.cutOut l o.header (o.bytes ++ f.payload)).bump (linkBase l + 0x38))

/-- This hub leads its node (SYS.NODE.LEAD). -/
def State.leads (s : State) : Bool := s.ident.lead

/-- The TSEL of a frame names this hub (R130, R493): 0b00 while it leads, or its own slot. -/
def State.tselHere (s : State) (tsel : BitVec 2) : Bool :=
  (tsel == 0 && s.ringLeads) || tsel.toNat == 1 + s.slot.toNat

/-- The status answered for a request whose resting hub cannot be reached (R130). -/
def statusTwinDown : Nat := 0x04

/-- A response or an error message to the source of a request, with word 0 given (R130, R132, R180); what came over the
twin port is answered over it (R592). -/
def State.respond (s : State) (h : Hdr) (rerr rse : Bool) (payload : List Byte) (port : Link := .w) : State :=
  let r : Hdr := { cls := h.cls, typ := 6, rerr := rerr, rse := rse, hop := h.hop, dest := if h.hop then h.dest else h.src
                   tsel := if h.hop then 0 else BitVec.ofNat 2 (1 + h.sslot.toNat), tag := h.tag, addr := h.addr
                   stream := h.stream }
  s.originate r payload (if h.hop then .path h.path else if port = .t then .twin else .ring)

/-- A unicast frame for this node on its way out of the order stage: to this hub, or over the twin port, or answered
for when the twin link is not UP (R130, R493). -/
def State.splitTwin (s : State) (p : Packet) : State :=
  let c := p.h.cls.toNat
  if s.tselHere p.h.tsel then s.place p [localQ c]
  else if !s.ringLeads then s.bump 0x050050
  else if s.linkIsUp .t then s.place p [16 + c]
  else match p.h.typ.toNat with
    | 3 => if p.h.mc then s else s.respond p.h true false (beBytes (2 ^ 31 + statusTwinDown) 4)
    | 4 | 5 => s.respond p.h true false (beBytes statusTwinDown 4)
    | _ => s

/-- What the ordering stages of the bridge and of the spore engine see of a unicast frame of this node (R354, R448):
their own frames when their block takes them, every other number at once; frames that this releases go on. -/
def State.passStages (s : State) (d : Delivered) : State :=
  let k := streamKey d.h
  let here := s.tselHere d.h.tsel
  let go (own : Sink) (x : Stream) : List Delivered × Stream :=
    if here ∧ d.sink = own then ([], x)
    else
      let (out, x) := x.arrive d false s.now
      (out.filter (fun e => e.sink == own && !e.late && e.h.seq != d.h.seq), x)
  let (o1, x1) := go .bridged (tabGet {} s.fwd.brgStreams k)
  let (o2, x2) := go .spore (tabGet {} s.fwd.sprStreams k)
  let s := { s with fwd := { s.fwd with brgStreams := tabSet {} s.fwd.brgStreams k x1
                                        sprStreams := tabSet {} s.fwd.sprStreams k x2 } }
  (o1 ++ o2).foldl (fun s e => s.hand { e with ordered := true }) s

/-- A frame that reaches the target node in its stream's order (R188). -/
def State.inOrder (s : State) (p : Packet) (newLife : Bool) : State :=
  let k := streamKey p.h
  let x : Stream := if newLife then {} else tabGet {} s.fwd.streams k
  let d : Delivered := { sink := sinkOf p.h p.payload, port := p.inPort.getD .t, h := p.h, payload := p.payload
                         arrival := p.arrival, corrections := p.corrections }
  let own := decide (3 ≤ p.h.typ.toNat ∧ p.h.typ.toNat ≤ 6)
  let s := if newLife then { s with fwd := { s.fwd with
    brgStreams := tabSet {} s.fwd.brgStreams k {}, sprStreams := tabSet {} s.fwd.sprStreams k {} } } else s
  let s := s.passStages d
  let (out, x) := x.arrive d own s.now
  let s := { s with fwd := { s.fwd with streams := tabSet {} s.fwd.streams k x } }
  out.foldl (fun s d =>
    if d.late ∧ d.h.typ = 6 then s.bump 0x070A90
    else if d.late ∧ own then s.hand d
    else s.splitTwin { p with h := d.h, payload := d.payload, inPort := some d.port, arrival := d.arrival
                              corrections := d.corrections }) s

/-- A frame that opens a new life of its source under R126 without an announcement. -/
def State.newLife (s : State) (h : Hdr) : Bool :=
  let w : DupWin := tabGet {} s.fwd.uniWin (uniKey h)
  let de := (h.sepoch - w.e).toNat
  w.st != .free && decide (1 ≤ de ∧ de ≤ 3)

/-- A unicast frame that came over the twin port: a response to a ring node goes onto the ring with this node's number
and the responder's slot (R592); everything else is for this hub (R130). -/
def State.fromTwin (s : State) (p : Packet) (h : Hdr) : State :=
  if h.typ = 6 ∧ h.dest ≠ s.ident.number then
    let h := { h with src := s.ident.number, hops := BitVec.ofNat 12 (s.rv 0x050004) }
    let qs := ((s.routeCopies .ring).filter (fun c => s.linkIsUp c.1)).map (fun c => 8 * linkFn c.1 + h.cls.toNat)
    s.place { p with h := h, inPort := none } qs
  else
    (s.passStages { sink := sinkOf h p.payload, port := .t, h := p.h, payload := p.payload, arrival := p.arrival
                    corrections := p.corrections }).place p [localQ h.cls.toNat]

/-- A frame that goes on to the opposite port, and to the hub when it is for it too; one that goes no further is only for
the hub (R118, R133 to R135). -/
def State.transit (s : State) (l : Link) (base : Packet) (bad stomp local_ : Bool) : State :=
  let c := base.h.cls.toNat
  if base.h.hops = 0 ∨ l = .t then if local_ ∧ !bad ∧ !stomp then s.place base [localQ c] else s
  else
    let o := oppositePort l
    let stored := s.stored l o c
    if (bad ∨ stomp) ∧ stored then s
    else
      let (q, s) := s.outQueue o c
      if bad ∨ stomp then s.place { base with stomp := true } q
      else s.place base (q ++ if local_ then [localQ c] else [])

/-- A frame to a group: taken once when the hub is a member (R126, R131). -/
def State.groupFrame (s : State) (l : Link) (h : Hdr) (base : Packet) (own bad stomp : Bool) : State :=
  let member := s.rb (0x050100 + 4 * (h.dest.toNat / 16)) (h.dest.toNat % 16)
  let (acc, s) := if member ∧ !bad ∧ !stomp then s.dupCheck h else (false, s)
  if own then if acc then s.place base [localQ h.cls.toNat] else s
  else
    let s := if base.h.hops = 0 ∧ !acc ∧ l ≠ .t then s.bump 0x050050 else s
    s.transit l base bad stomp acc

/-- A frame to this hub (R126, R188). -/
def State.ownFrame (s : State) (h : Hdr) (base : Packet) : State :=
  let nl := s.newLife h
  let (acc, s) := s.dupCheck h
  if acc then s.inOrder base nl else s

/-- A frame of FRAME_RECEIVED in normal forwarding: passed on, delivered, stripped or discarded (R118 to R135, R493). -/
def State.route (s : State) (l : Link) (h : Hdr) (payload : List Byte) (bad stomp : Bool) : State :=
  let base : Packet := { h := forwardHdr h, payload := payload, inPort := some l, tick := s.now, arrival := s.ft
                         corrections := s.correctionsNow }
  let own := s.ownCopy h
  if h.ver ≠ 0 then
    let s := if base.h.hops = 0 ∧ l ≠ .t then s.bump 0x050050 else s
    (s.bump 0x050058).transit l base bad stomp false
  else if illegalFrame h then (s.bump 0x050054).fault 499 0x4B 0 h.typ.toNat
  else
    let s := if (l = .e ∧ !h.path) ∨ (l = .w ∧ h.path) then
      (s.bump 0x050070).fault 499 0x49 0 (if l = .w then 0 else 1) else s
    if h.hop then
      if base.h.hops = 0 then if bad ∨ stomp then s else s.place base [localQ h.cls.toNat]
      else s.transit l base bad stomp false
    else if h.mc then s.groupFrame l h base own bad stomp
    else if l = .t then if bad ∨ stomp then s else s.fromTwin base h
    else if h.dest = s.ident.number then if bad ∨ stomp then s else s.ownFrame h base
    else
      let s := if base.h.hops = 0 ∧ !own ∧ l ≠ .t then s.bump 0x050050 else s
      s.transit l base bad stomp false

/-- A frame in repeat mode: cut through from W to E and from E to W; only a hop-addressed frame whose HOPS reaches 0
here is delivered (R136), and what a bare hub is asked over the twin port (R589). What R115 calls illegal goes no
further. -/
def State.repeatFrame (s : State) (l : Link) (h : Hdr) (payload : List Byte) (bad stomp : Bool) : State :=
  let h1 := forwardHdr h
  let p : Packet := { h := h1, payload := payload, stomp := bad || stomp, inPort := some l, tick := s.now
                      arrival := s.ft, corrections := s.correctionsNow }
  if h.ver = 0 ∧ illegalFrame h then (s.bump 0x050054).fault 499 0x4B 0 h.typ.toNat
  else if h.ver = 0 ∧ h.hop ∧ h1.hops = 0 then
    if bad ∨ stomp then s else s.deliverHere p
  else if h.ver = 0 ∧ l = .t then if bad ∨ stomp ∨ h.mc ∨ h.hop ∨ h.typ = 6 then s else s.deliverHere p
  else
    let s := if h.ver ≠ 0 then s.bump 0x050058 else s
    if l = .t then s
    else if h1.hops = 0 then if s.ownCopy h then s else s.bump 0x050050
    else
      let o := oppositePort l
      if s.linkIsUp o then s.storePacket p [8 * linkFn o + h.cls.toNat] else s.bump 0x050068

/-- FRAME_RECEIVED: a frame, or a fragment of one, arrives on a port (R118 to R136). -/
def fwdReceive (l : Link) (f : Frame) (fin : FrameEnd) (s : State) : State :=
  if !s.linkIsUp l then s
  else if f.header.length ≠ 32 ∨ !hcrcOk f.header then s.bump (linkBase l + 0x38)
  else match s.reassemble l f fin with
    | (none, s) => s
    | (some (hb, payload), s) =>
      let h := parseHdr hb
      let good := crc32 payload
      let stomp := f.trailer == ~~~good
      let bad := f.trailer != good && !stomp
      let s := s.mirror l h payload f.trailer (bad || stomp)
      let s := if stomp then s.bump 0x05005C else if bad then s.bump (linkBase l + 0x38) else s
      if s.repeatMode then s.repeatFrame l h payload bad stomp else s.route l h payload bad stomp

/-- ORDER_HOLD_EXPIRY for a stream of this node: the missing numbers are given up (R188). -/
def fwdOrderExpiry (src : BitVec 12) (slot : BitVec 1) (cls : BitVec 3) (s : State) : State :=
  let k := (src.toNat * 2 + slot.toNat) * 8 + cls.toNat
  let x : Stream := tabGet {} s.fwd.streams k
  match x.held with
  | [] => s
  | e :: _ =>
    let s := s.advanceTo (e.2 + s.ap 0x070008 * ticksPerUs)
    let (out, x) := x.expire
    let s := { s with fwd := { s.fwd with streams := tabSet {} s.fwd.streams k x } }
    let s := (s.bump 0x070A8C).fault 580 0x65 0 cls.toNat
    out.foldl (fun s d =>
      s.splitTwin { h := d.h, payload := d.payload, inPort := some d.port, arrival := d.arrival
                    corrections := d.corrections, tick := s.now }) s

/-! ### FRAME_DELIVERED -/

/-- What a read of packet-buffer lines reports (R162, R163). -/
def State.lineReport (s : State) : LineResult → State
  | .clean => s
  | .one c => ((s.bump 0x060090).setNat 0x06009C (2 ^ 18 + 0x10000 + c.toNat)).fault 500 0x10 0 0 (c.toNat * 64)
  | .two c => ((s.bump 0x060094).setNat 0x06009C (2 ^ 18 + 0x20000 + c.toNat)).fault 500 0x10 0 0 (c.toNat * 64)
  | .bad c => ((s.bump 0x060098).setNat 0x06009C (2 ^ 18 + 0x30000 + c.toNat)).fault 500 0x11 1 0 (c.toNat * 64)

/-- The line is uncorrectable (R163). -/
def lineBad : LineResult → Bool
  | .bad _ => true
  | _ => false

/-- A packet with an uncorrectable line leaves the queue that read it, and the others discard it as they reach it
(R163). -/
def State.dropPacket (s : State) (q id : Nat) : State :=
  match s.packet id with
  | none => s
  | some p =>
    { s with fwd := { s.fwd with store := tabSet none s.fwd.store id (some { p with dead := true }) } }.releaseFrom q id

/-- FRAME_DELIVERED: the next frame of the local queues goes to the block that consumes it, class 0 first, oldest
first within a class (R134, R163). -/
def fwdDeliver (lines : LineResult) (s : State) : State :=
  match (List.range 8).find? (fun c => !(s.bufQ (localQ c)).isEmpty) with
  | none => s
  | some c =>
    match s.bufQ (localQ c) with
    | [] => s
    | (id, cm) :: _ =>
      match s.packet id with
      | none => s
      | some p =>
        if p.dead then s.releaseFrom (localQ c) id
        else if lineBad lines then (s.lineReport lines).dropPacket (localQ c) id
        else
          let s := (s.lineReport lines).releaseFrom (localQ c) id
          if p.mirror then s.writeMirror p else s.deliverHere { p with h := { p.h with cm := p.h.cm || cm } }

/-! ### FRAME_SENT -/

/-- The scheduler of an output. -/
def State.sched (s : State) : Link → OutSched
  | .w => s.fwd.outW
  | .e => s.fwd.outE
  | .t => s.fwd.outT

/-- The scheduler of an output set. -/
def State.setSched (s : State) (l : Link) (x : OutSched) : State :=
  match l with
  | .w => { s with fwd := { s.fwd with outW := x } }
  | .e => { s with fwd := { s.fwd with outE := x } }
  | .t => { s with fwd := { s.fwd with outT := x } }

/-- The first class 0 frame of a queue, transit before local (R137 steps 1 and 2). -/
def State.class0Head (s : State) (q : Nat) : Option (Nat × Bool) :=
  let isTransit (e : Nat × Bool) : Bool := match s.packet e.1 with
    | some p => p.inPort.isSome
    | none => false
  match (s.bufQ q).find? isTransit with
  | some e => some e
  | none => (s.bufQ q).head?

/-- The class that deficit round robin serves next, with the scheduler after the choice (R137 step 4). -/
def drrPick (s : State) (l : Link) : Nat → OutSched → Option (Nat × OutSched)
  | 0, _ => none
  | k + 1, x =>
    let c := x.cls
    let nextCls := if c = 7 then 1 else c + 1
    match s.bufQ (8 * linkFn l + c) with
    | [] => drrPick s l k { x with cls := nextCls, given := false, deficit := tabSet 0 x.deficit c 0 }
    | (id, _) :: _ =>
      let d := tabGet 0 x.deficit c + if x.given then 0 else s.ap (0x050020 + 4 * (c - 1)) * 256
      let n := match s.packet id with
        | some p => frameBytes p.h.len.toNat
        | none => 0
      if n ≤ d then some (c, { x with given := true, deficit := tabSet 0 x.deficit c (d - n) })
      else drrPick s l k { x with cls := nextCls, given := false, deficit := tabSet 0 x.deficit c d }

/-- The header of a frame as it leaves by a port: PATH of an originated copy (R121), CM of this copy (R155), and for a
time frame in transit its residence and the delay of the link it came by (R138, R207). -/
def State.outHdr (s : State) (l : Link) (p : Packet) (cm : Bool) (ldly : Link → Int) : Hdr :=
  let h := { p.h with cm := p.h.cm || cm }
  match p.inPort with
  | none => { h with path := l == .w }
  | some i =>
    if h.typ = 1 then
      let res : Int := ((s.time.rate.toNat * (s.now - p.tick) / 2 ^ 30 : Nat) : Int)
      { h with corr := h.corr + BitVec.ofInt 64 (res + ldly i) }
    else h

/-- The bytes of a frame after its header: payload and trailer. -/
def frameRest (f : Frame) : List Byte := f.payload ++ beBytes f.trailer.toNat 4

/-- A frame, or the rest of the frame on hold, sent up to a preemption point or to its end (R119, R135). -/
def State.sendFrom (s : State) (l : Link) (p : Packet) (sent : Nat) (frag : BitVec 5) (cut : Option Nat) (bad : Bool) :
    State :=
  let total := frameBytes p.h.len.toNat
  let start := if sent = 0 then 0 else sent - 32
  let h := { p.h with pf := decide (0 < sent), frag := frag }
  let waiting := !(s.bufQ (8 * linkFn l)).isEmpty
  let f := wireFrame h p.payload (p.stomp || bad)
  match cut with
  | some k =>
    if p.h.cls ≠ 0 ∧ waiting ∧ k % 64 = 0 ∧ sent < k ∧ 32 ≤ k ∧ k + 64 ≤ total ∧ frag ≠ 31 then
      let s := s.bump 0x050064
      let s := s.emit (.frame l { f with payload := slice p.payload start (k - 32 - start) } .hold)
      s.setSched l { s.sched l with hold := some { pkt := p, sent := k, frag := frag + 1 } }
    else s.emit (.frame l { f with payload := p.payload.drop start } .term)
  | none => s.emit (.frame l { f with payload := p.payload.drop start } .term)

/-- A supervision frame of R215: LEN 3, its kind and bytes. -/
def State.probeFrame (s : State) (body : List Byte) : State :=
  s.originate { cls := 0, typ := 0, mc := true, dest := 0xFFF } (body ++ List.replicate (12 - body.length) 0)

/-- The departure of a frame of this hub is stamped (R200): its own time frame (R206), a probe (R215), and the answer
to a probe, whose follow-up then carries the turnaround. -/
def State.stampDeparture (s : State) (l : Link) (p : Packet) : State :=
  let kind := if p.h.typ = 0 then (p.payload.headD 0).toNat else 0
  let seq : BitVec 8 := (slice p.payload 1 1).headD 0
  if p.inPort.isSome then s
  else if p.h.typ = 1 then
    match l with
    | .w => { s with time := { s.time with depW := s.ft } }
    | .e => { s with time := { s.time with depE := s.ft } }
    | .t => s
  else if kind = 2 then
    match l with
    | .w => if s.time.probeW.since.isSome ∧ s.time.probeW.seq = seq then
        { s with time := { s.time with probeW := { s.time.probeW with t1 := some s.ft } } } else s
    | .e => if s.time.probeE.since.isSome ∧ s.time.probeE.seq = seq then
        { s with time := { s.time with probeE := { s.time.probeE with t1 := some s.ft } } } else s
    | .t => s
  else if kind = 3 then
    match s.time.answers.find? (fun a => a.1 == seq && a.2.1 == l) with
    | none => s
    | some a =>
      let s := { s with time := { s.time with answers := s.time.answers.erase a } }
      s.probeFrame ([4, seq, BitVec.ofNat 8 (linkFn l), 0] ++ beBytes (ofSigned 64 (tdiff s.ft a.2.2)) 8)
  else s

/-- FRAME_SENT at a port: the next frame by the order of R137, sent whole or up to byte offset `cut` when class 0
waits (R119); an uncorrectable line ends it with the inverted trailer (R163). -/
def fwdSend (ldly : State → Link → Int) (l : Link) (cut : Option Nat) (lines : LineResult) (s : State) : State :=
  if !s.linkIsUp l then s
  else
    let q0 := 8 * linkFn l
    let go (s : State) (q : Nat) (e : Nat × Bool) (cut : Option Nat) : State :=
      match s.packet e.1 with
      | none => s
      | some p =>
        if p.dead then s.releaseFrom q e.1
        else
          let s := (s.lineReport lines).stampDeparture l p
          let p := { p with h := s.outHdr l p e.2 (ldly s) }
          let s := s.sendFrom l p 0 0 cut (lineBad lines)
          if lineBad lines then s.dropPacket q e.1 else s.releaseFrom q e.1
    match s.class0Head q0 with
    | some e => go s q0 e none
    | none =>
      match (s.sched l).hold with
      | some h =>
        let s := s.setSched l { s.sched l with hold := none }
        (s.lineReport lines).sendFrom l h.pkt h.sent h.frag cut (lineBad lines)
      | none =>
        match drrPick s l 160 (s.sched l) with
        | none => s
        | some (c, x) =>
          match s.bufQ (q0 + c) with
          | [] => s.setSched l x
          | e :: _ =>
            if (s.packet e.1).any (fun p => p.dead) then s.releaseFrom (q0 + c) e.1
            else go (s.setSched l x) (q0 + c) e cut

/-! ### Epoch announcements (R127) -/

/-- EPOCH_ANNOUNCEMENT_SEND: one of the three announcements after a start of forwarding, 10 µs apart. -/
def fwdAnnounce (s : State) : State :=
  if s.fwd.annLeft = 0 ∨ s.repeatMode then s
  else
    let s := if s.fwd.annLeft < 3 then s.advanceTo (s.fwd.annAt + 10 * ticksPerUs) else s
    let h : Hdr := { cls := 0, typ := 0, mc := true, dest := 0xFFF, len := 2 }
    let body : List Byte := [1, BitVec.ofNat 8 (s.fwd.epoch.toNat + bitAt s.fwd.poweron 7), 0, 0, 0, 0, 0, 0]
    let o : Orig := { h := h, payload := body, route := .ring, announce := true }
    { s with fwd := { s.fwd with annLeft := s.fwd.annLeft - 1, annAt := s.now, class0 := o :: s.fwd.class0 } }

/-- START or RESTART of function 3: the epoch rises unless it is the first start since a reset, every sequence counter
restarts, and three announcements are due (R127). -/
def State.fwdFresh (s : State) : State :=
  let f := s.fwd
  let f := if f.started then { f with epoch := f.epoch + 1, poweron := false, seqs := [] } else f
  { s with fwd := { f with started := true, annLeft := 3 } }

/-- A stop of function 3: frames held for origination wait for its next start (R153); announcements that are still due
belong to the start that is over (R127). -/
def State.fwdStopped (s : State) : State :=
  { s with fwd := { s.fwd with class0 := s.fwd.class0.filter (fun o => !o.announce), annLeft := 0 } }

end Sys2Proof.Machine
end

