-- ==== Sys2Proof/Machine/RegOps.lean ====
section
/-! DEFINITION. Masked writes (R12) and values that span registers (R30). -/

namespace Sys2Proof.Machine

/-- A written data bit changes an implemented bit of the register only where its mask bit is 1 (R9, R12). -/
def maskedWrite (cur : Word) (impl : Nat) (v : Word) : Word :=
  let m := v >>> 16 &&& BitVec.ofNat 32 impl
  (cur &&& ~~~m) ||| (v &&& m)

/-- The staged value of a lower register, when one is staged (R30). -/
def State.stagedAt (s : State) (off : Nat) : Option Word :=
  let v := (tabGet (0 : Word) s.staged off).toNat
  if nbit v 16 then some (BitVec.ofNat 32 (v % 65536)) else none

/-- A write to a lower register is staged (R30). -/
def State.stage (s : State) (off impl : Nat) (v : Word) : State :=
  let cur := (s.stagedAt off).getD (s.rg off)
  { s with staged := tabSet 0 s.staged off (maskedWrite cur impl v ||| 0x10000) }

/-- Nothing is staged at an offset any more. -/
def State.unstage (s : State) (off : Nat) : State := { s with staged := tabSet 0 s.staged off 0 }

/-- The write that applies the `k` staged registers below it (R30). -/
def State.applyWide (s : State) (off impl k : Nat) (v : Word) : State :=
  let s := (List.range k).foldl (fun s i =>
    let o := off - 4 * (i + 1)
    match s.stagedAt o with
    | some w => (s.setReg o w).unstage o
    | none => s) s
  s.setReg off (maskedWrite (s.rg off) impl v)

end Sys2Proof.Machine
end

