-- ==== Sys2Proof/Machine/Flags.lean ====
section
/-! DEFINITION. Every result and flag computation of HRK32 (R419 to R421): a result with the flags it leaves. -/

namespace Sys2Proof.Machine

/-- Z and N of a result, with the other flags kept (R420). -/
def setZN (f : Flags) (r : Word) : Flags := { f with z := r == 0, n := r.msb }

/-- a + b, with carry out of bit 31 and signed overflow (R420). -/
def aluAdd (f : Flags) (a b : Word) : Word × Flags :=
  let r := a + b
  (r, { setZN f r with c := decide (2 ^ 32 ≤ a.toNat + b.toNat), v := decide (r.toInt ≠ a.toInt + b.toInt) })

/-- a − b, with borrow and signed overflow (R420). -/
def aluSub (f : Flags) (a b : Word) : Word × Flags :=
  let r := a - b
  (r, { setZN f r with c := decide (a.toNat < b.toNat), v := decide (r.toInt ≠ a.toInt - b.toInt) })

/-- A logical result: Z and N (R419). -/
def aluLogic (f : Flags) (r : Word) : Word × Flags := (r, setZN f r)

/-- a << s; C is the last bit shifted out, 0 when s = 0 (R420). -/
def aluShl (f : Flags) (a : Word) (s : Nat) : Word × Flags :=
  let r := a <<< s
  (r, { setZN f r with c := if s = 0 then false else a.getLsbD (32 - s) })

/-- a >> s, logical (R420). -/
def aluShr (f : Flags) (a : Word) (s : Nat) : Word × Flags :=
  let r := a >>> s
  (r, { setZN f r with c := if s = 0 then false else a.getLsbD (s - 1) })

/-- a >> s, arithmetic (R420). -/
def aluSra (f : Flags) (a : Word) (s : Nat) : Word × Flags :=
  let r := a.sshiftRight s
  (r, { setZN f r with c := if s = 0 then false else a.getLsbD (s - 1) })

/-- The low 32 bits of a × b; V when the signed product does not fit (R420). -/
def aluMul (f : Flags) (a b : Word) : Word × Flags :=
  let r := a * b
  (r, { setZN f r with v := decide (r.toInt ≠ a.toInt * b.toInt) })

/-- The high 32 bits of the signed product (R419). -/
def aluMulh (f : Flags) (a b : Word) : Word × Flags :=
  aluLogic f (BitVec.ofInt 32 (a.toInt * b.toInt / 2 ^ 32))

/-- The signed quotient, truncated toward zero, with the two special cases of R421. -/
def quotS (a b : Word) : Word := if b = 0 then 0xFFFFFFFF else a.sdiv b

/-- The special cases of signed division (R421). -/
def divSpecial (a b : Word) : Bool := b == 0 || (a == 0x80000000 && b == 0xFFFFFFFF)

/-- DIV (R421). -/
def aluDiv (f : Flags) (a b : Word) : Word × Flags :=
  let r := quotS a b
  (r, { setZN f r with v := divSpecial a b })

/-- DIVU (R421). -/
def aluDivu (f : Flags) (a b : Word) : Word × Flags :=
  let r := if b = 0 then 0xFFFFFFFF else a / b
  (r, { setZN f r with v := b == 0 })

/-- REM: the sign of a; a when b = 0, and 0 in the other special case (R421). -/
def aluRem (f : Flags) (a b : Word) : Word × Flags :=
  let r := if b = 0 then a else if divSpecial a b then 0 else a.srem b
  (r, { setZN f r with v := divSpecial a b })

/-- REMU (R421). -/
def aluRemu (f : Flags) (a b : Word) : Word × Flags :=
  let r := if b = 0 then a else a % b
  (r, { setZN f r with v := b == 0 })

/-- MIN, signed. -/
def aluMin (f : Flags) (a b : Word) : Word × Flags := aluLogic f (if a.slt b then a else b)

/-- MAX, signed. -/
def aluMax (f : Flags) (a b : Word) : Word × Flags := aluLogic f (if a.slt b then b else a)

/-- Leading zero bits of a word, 0 to 32. -/
def clzFrom (a : Word) : Nat → Nat → Nat
  | 0, n => n
  | k + 1, n => if a.getLsbD k then n else clzFrom a k (n + 1)

/-- CLZ. -/
def aluClz (f : Flags) (a : Word) : Word × Flags := aluLogic f (BitVec.ofNat 32 (clzFrom a 32 0))

/-- FLAGS as system register 0x000 shows them (R431). -/
def Flags.code (f : Flags) : Nat := bitAt f.z 0 + bitAt f.n 1 + bitAt f.c 2 + bitAt f.v 3

/-- The flags that a number spells. -/
def flagsOf (n : Nat) : Flags := { z := nbit n 0, n := nbit n 1, c := nbit n 2, v := nbit n 3 }

/-- Flag f of BFS and BFC: 0 Z, 1 N, 2 C, 3 V (R419). -/
def Flags.pick (f : Flags) (k : BitVec 2) : Bool :=
  match k.toNat with
  | 0 => f.z | 1 => f.n | 2 => f.c | _ => f.v

end Sys2Proof.Machine
end

