-- ==== Sys2Proof/Machine/Operands.lean ====
section
/-! DEFINITION. What HRK32 instructions read and write (16): general registers, operand forms (R416), protection
(R396), traps and the return from one (R432 to R435), and the decoding that R415 to R417 require. -/

namespace Sys2Proof.Machine

/-- A general register; g0 reads as 0 (R417). -/
def Ncp.reg (x : Ncp) (r : BitVec 4) : Word := if r = 0 then 0 else tabGet 0 x.g r.toNat

/-- A general register written; a write to g0 is discarded (R417). -/
def Ncp.setReg (x : Ncp) (r : BitVec 4) (v : Word) : Ncp :=
  if r = 0 then x else { x with g := tabSet 0 x.g r.toNat v }

/-- A register pair written: d and d + 1; with d = 0 only g1 (R417). -/
def Ncp.setPair (x : Ncp) (d : BitVec 4) (lo hi : Word) : Ncp := (x.setReg d lo).setReg (d + 1) hi

/-- A pair register code that is not reserved: even and at most 12 (R417). -/
def pairOk (d : BitVec 4) : Bool := d.toNat % 2 == 0 && decide (d.toNat ≤ 12)

/-- The instruction is done: PC to the next one (R415). -/
def Ncp.advance (x : Ncp) : Ncp := { x with pc := x.pc + 4 }

/-- An immediate sign-extended (R416). -/
def sx {w : Nat} (i : BitVec w) : Word := i.signExtend 32

/-- An immediate zero-extended (R416). -/
def zx {w : Nat} (i : BitVec w) : Word := i.zeroExtend 32

/-- STATUS as system register 0x001 shows it (R431). -/
def Ncp.status (x : Ncp) : Nat :=
  bitAt x.ie 0 + bitAt x.sys 1 + bitAt x.pie 2 + bitAt x.pmode 3 + bitAt x.intrap 4

/-! ### Traps (R432 to R435) -/

/-- Taking a trap (R433): EPC, CAUSE and BADADDR are written, the flags and the mode saved, interrupts off, system
mode, and PC at the vector of the cause. -/
def Ncp.takeTrap (x : Ncp) (code : Nat) (epc bad : Word) (status imm : Nat) : Ncp :=
  { x with epc := epc, cause := BitVec.ofNat 32 (code + status * 2 ^ 8 + imm * 2 ^ 16), badaddr := bad
           eflags := x.flags, pie := x.ie, pmode := x.sys, ie := false, sys := true, intrap := true
           pc := x.tvec + BitVec.ofNat 32 (0x10 * code), wfe := false, wait := none }

/-- The return from a trap (R435). -/
def Ncp.returnTrap (x : Ncp) : Ncp :=
  { x with pc := x.epc, flags := x.eflags, ie := x.pie, sys := x.pmode, intrap := false }

/-- A pair enters HALTED: the other pair, when RUNNING, gets its source at level 15 (R404); with no pair left running,
kind 0xD2 (R405). -/
def State.pairHalt (s : State) (p : Pair) : State :=
  let s := s.setNcp p { s.ncp p with stopped := true, wfe := false, wait := none, testing := false, kick := none }
  let s := s.setFunc (pairFn p) { s.func (pairFn p) with st := .halted, restart := false }
  let o := otherPair p
  let s := if s.running (pairFn o) then (s.setNcp o { s.ncp o with forced := true }).ncpRaise o (pairSrc p) else s
  let st := (s.func (pairFn o)).st
  if st = .halted ∨ st = .absent then s.fault 704 0xD2 2 0 else s

/-- A synchronous trap of a pair: taken, or a double trap while INTRAP = 1, which takes the pair to HALTED and is
reported; the boot ROM's pair only stops (R433, R434, R409). -/
def State.syncTrap (s : State) (p : Pair) (code : Nat) (epc bad : Word) (status imm : Nat) : State :=
  let x := s.ncp p
  if x.intrap then
    let s := if x.bootrom then s.setNcp p { x with stopped := true, wfe := false, wait := none } else s.pairHalt p
    s.fault (pairSrc p) 0xD3 3 code
  else s.setNcp p (x.takeTrap code epc bad status imm)

/-- Fresh state of a pair (R408, R431): SRAM contents are kept. -/
def State.ncpFresh (s : State) (p : Pair) : State :=
  let x := s.ncp p
  s.setNcp p { pc := BitVec.ofNat 32 (0x10000000 + 4 * s.rv (ncpBase p)), cycle0 := s.now, testDue := x.testDue
               code := x.code, data := x.data }

/-- A trap whose EPC holds the instruction itself. -/
def State.trapHere (s : State) (p : Pair) (code : Nat) (bad : Word := 0) (status : Nat := 0) : State :=
  s.syncTrap p code (s.ncp p).pc bad status 0

/-! ### Protection (R396) -/

/-- What an access does, for TR, TW and TX. -/
inductive AccessKind where
  | read | write | exec
deriving DecidableEq, Repr

/-- Region r contains an address: SIZE gives 2^(SIZE + 6) bytes, and base bits below the size are taken as 0. -/
def Ncp.regionHas (x : Ncp) (r : Nat) (a : Word) : Bool :=
  let cfg := (tabGet (0 : Word) x.mpuCfg r).toNat
  let k := nbits cfg 12 8 + 6
  nbit cfg 0 && (tabGet (0 : Word) x.mpuBase r).toNat / 2 ^ k == a.toNat / 2 ^ k

/-- An access is allowed: the lowest-numbered enabled region that contains the address decides; system mode is bound
by regions with SYS = 1 only (R396). -/
def Ncp.allowed (x : Ncp) (k : AccessKind) (a : Word) : Bool :=
  let binds (r : Nat) : Bool := x.regionHas r a && (!x.sys || nbit (tabGet (0 : Word) x.mpuCfg r).toNat 4)
  match (List.range 16).find? binds with
  | some r =>
    let cfg := (tabGet (0 : Word) x.mpuCfg r).toNat
    match k with
    | .read => nbit cfg 1
    | .write => nbit cfg 2
    | .exec => nbit cfg 3
  | none => x.sys

/-- A protection trap, counted in MPUVIO (R396). -/
def State.protTrap (s : State) (p : Pair) (a : Word) : State :=
  (s.bump (ncpBase p + 0x208)).trapHere p 4 a

/-! ### Issue (R415, R418) -/

/-- An address lies in the boot ROM or in code SRAM, the only places instructions are fetched from (R391). -/
def fetchable (a : Word) : Bool :=
  decide (a.toNat < 0x10000) || decide (0x10000000 ≤ a.toNat ∧ a.toNat < 0x10040000)

/-- A pair issues instructions: it is RUNNING, or pair B executes the boot ROM (R409); its cores are not stopped and
no access of it waits on the ring. -/
def State.issues (s : State) (p : Pair) : Bool :=
  let x := s.ncp p
  (s.running (pairFn p) || x.bootrom) && !x.stopped && x.wait.isNone

/-- One instruction of a pair: fetched under R391 and R396, then performed. A pair that waits in WFE issues only that
WFE again. -/
def State.issue (s : State) (p : Pair) (f : State → State) (isWfe : Bool := false) : State :=
  let x := s.ncp p
  if !s.issues p || (x.wfe && !isWfe) then s
  else if !fetchable x.pc then s.trapHere p 5 x.pc 0xFF
  else if !x.allowed .exec x.pc then s.protTrap p x.pc
  else f s

/-- An instruction that only computes in the pair. -/
def State.compute (s : State) (p : Pair) (f : Ncp → Ncp) : State :=
  s.issue p (fun s => s.setNcp p (f (s.ncp p)).advance)

/-- An ALU instruction: d and the flags (R419). -/
def State.alu (s : State) (p : Pair) (d : BitVec 4) (r : Ncp → Word × Flags) : State :=
  s.compute p (fun x => { x.setReg d (r x).1 with flags := (r x).2 })

/-- A conditional branch: the target is computed from the address of the instruction (R424). -/
def State.branchIf (s : State) (p : Pair) (i : BitVec 14) (c : Ncp → Bool) : State :=
  s.issue p (fun s =>
    let x := s.ncp p
    s.setNcp p { x with pc := if c x then x.pc + 4 * sx i else x.pc + 4 })

/-! ### Levels (R397 to R399) -/

/-- The level at which a source is pending at a pair: its routing, or 15 for the halted pair's source (R404). -/
def State.levelOf (s : State) (p : Pair) (n : Nat) : Option Nat :=
  if (s.ncp p).forced ∧ n = pairSrc (otherPair p) then some 15
  else
    let r := s.ap (0x0F0000 + 4 * n)
    match p with
    | .a => if nbit r 10 then some (nbits r 9 6) else none
    | .b => if nbit r 5 then some (nbits r 4 1) else none

/-- A level is enabled; bit 15 of LVLEN reads 1. -/
def State.levelOn (s : State) (p : Pair) (l : Nat) : Bool := l == 15 || s.ab (ncpBase p + 4) l

/-- The highest pending level (R397). -/
def State.topLevel (s : State) (p : Pair) : Option Nat :=
  (s.ncp p).pend.foldl (fun m n =>
    match s.levelOf p n with
    | some l => if s.levelOn p l then some (max l (m.getD 0)) else m
    | none => m) none

/-- The event trap of a pair is due (R398). -/
def State.eventDue (s : State) (p : Pair) : Option Nat :=
  let x := s.ncp p
  match s.topLevel p with
  | none => none
  | some l =>
    let above : Bool := match x.serving with
      | [] => true
      | a :: _ => decide (a < l)
    if above && x.ie && s.running (pairFn p) && !x.stopped && x.wait.isNone then some l else none

/-! ### Decoding (R415 to R417) -/

/-- The general fields of a word. -/
def fld (w : Word) (hi lo : Nat) : Nat := nbits w.toNat hi lo

/-- Which opcodes write a register pair named by d. -/
def pairField (w : Word) : Bool := pairOk (BitVec.ofNat 4 (fld w 25 22))

/-- The system registers that exist (R431). -/
def sysRegListed (n : Nat) : Bool := n ≤ 0xA || (0x10 ≤ n && n < 0x30)

/-- A word is legal: its opcode is listed, fields marked zero are zero, and no operand code is reserved. -/
def legalWord (w : Word) : Bool :=
  let z (hi lo : Nat) : Bool := fld w hi lo == 0
  let d := fld w 25 22
  let a := fld w 21 18
  let post := nbit w.toNat 17
  let mem (u load pair : Bool) : Bool :=
    z 15 14 && (u || !nbit w.toNat 16) && !(post && (a == 0 || (load && d == a))) && (!pair || pairField w)
  match fld w 31 26 with
  | 0x01 => z 21 18
  | 0x02 | 0x04 | 0x06 | 0x08 | 0x0A | 0x0C | 0x0E | 0x10 | 0x12 | 0x13 | 0x14 | 0x15 | 0x16 | 0x17 | 0x18 | 0x19
  | 0x2C | 0x2D | 0x39 => z 13 0
  | 0x03 | 0x07 | 0x09 | 0x0B | 0x2A => z 17 14
  | 0x0D | 0x0F | 0x11 => z 17 14 && z 13 5
  | 0x1A => z 17 14 && z 13 0
  | 0x20 | 0x21 => mem true true false
  | 0x22 => mem false true false
  | 0x23 => mem false true true
  | 0x24 | 0x25 | 0x26 => mem false false false
  | 0x27 => mem false false true
  | 0x28 => z 22 22 && (decide (fld w 25 23 < 6) || (a == 0 && z 15 14))
  | 0x29 => true
  | 0x30 => z 21 18 && z 17 14 && z 13 12 && sysRegListed (fld w 11 0)
  | 0x31 => z 25 22 && z 17 14 && z 13 12 && sysRegListed (fld w 11 0)
  | 0x32 | 0x34 => z 25 0
  | 0x33 => z 25 22 && z 21 18 && z 17 14
  | 0x38 => z 21 18 && z 17 14 && z 13 4
  | 0x3A => z 17 14 && pairField w
  | 0x3B => z 21 18 && z 17 14 && z 13 2 && decide (fld w 1 0 ≠ 3) && pairField w
  | 0x3C => z 25 22 && z 17 14 && z 13 0
  | _ => false

end Sys2Proof.Machine
end

