-- ==== Sys2Proof/Machine/UsbOps.lean ====
section
/-! DEFINITION. The USB hub and the vendor function (14): connection, ports, hub class and standard requests,
translators, suspend and remote wake, bus reset, endpoints. -/

namespace Sys2Proof.Machine

/-- The USB state changed. -/
def State.usbSet (s : State) (u : Usb) : State := { s with usb := u }

/-- One millisecond in core ticks. -/
def ticksPerMs : Nat := 625000

/-- A port of the hub: 1 to 5. -/
def State.usbPort (s : State) (k : Nat) : UsbPort := tabGet {} s.usb.ports k

/-- A port of the hub set; the power switch of ports 1 to 4 follows PORT_POWER (R370). -/
def State.setUsbPort (s : State) (k : Nat) (p : UsbPort) : State :=
  let was := (s.usbPort k).power
  let s := s.usbSet { s.usb with ports := tabSet {} s.usb.ports k p }
  if was ≠ p.power ∧ k ≤ 4 then s.emit (.usbPower k (p.power == s.rb 0x0D0000 5)) else s

/-- An answer at an endpoint. -/
def State.usbAnswer (s : State) (d : UsbDev) (ep kind : Nat) (data : List Byte := []) : State :=
  s.emit (.usb d (BitVec.ofNat 8 ep) kind data)

/-- A protocol STALL on endpoint 0, counted (R379). -/
def State.usbStall (s : State) (d : UsbDev) : State := (s.bump 0x0D0054).usbAnswer d 0 3

/-- A device of the compound device. -/
def Usb.dev (u : Usb) : UsbDev → UsbDevice
  | .hub => u.hub
  | .vendor => u.fn

/-- A device of the compound device set. -/
def Usb.setDev (u : Usb) (d : UsbDev) (x : UsbDevice) : Usb :=
  match d with
  | .hub => { u with hub := x }
  | .vendor => { u with fn := x }

/-! ### Remote wake (R384, R385) -/

/-- A wake source becomes pending while the device is Suspended and the host has set DEVICE_REMOTE_WAKEUP (R384). -/
def State.wakeSource (s : State) (d : UsbDev) (bit : Nat) : State :=
  let u := s.usb
  if u.suspended && (u.dev d).rwake && !u.cancelled then
    if u.wake = .none ∧ !u.drove then
      s.usbSet { u with wake := .pending, wakeSrc := BitVec.ofNat 16 (2 ^ bit) }
    else s.usbSet { u with wakeSrc := u.wakeSrc ||| BitVec.ofNat 16 (2 ^ bit) }
  else s

/-- A status change of port k (R384). -/
def State.portChanged (s : State) (k : Nat) : State := if k ≤ 4 then s.wakeSource .hub (1 + k) else s

/-- WAKE: USBF.CMD 0x1 (R384). -/
def usbWake (s : State) : State := if s.usb.suspended then s.wakeSource .vendor 0 else s.bump 0x0D4050

/-- A write to USBF.CMD. -/
def usbCmd (src : Src) (v : Nat) (s : State) : State :=
  if v % 16 = 1 then usbWake s else s.ignored src 0x0D4008 1

/-- WAKE_SENSE_START: 5 ms plus RWDLY of idle (R384). -/
def usbSense (s : State) : State :=
  let u := s.usb
  if u.wake = .pending then
    let s := s.advanceTo (u.idleSince + (5 + s.af 0x0D0014 15 8) * ticksPerMs)
    s.usbSet { s.usb with wake := .sense, senseAt := s.now }
  else s

/-- WAKE_DRIVE_START: after 20 µs of SENSE (R384). -/
def usbDrive (s : State) : State :=
  let u := s.usb
  if u.wake = .sense then
    let s := s.advanceTo (u.senseAt + 20 * ticksPerUs)
    s.usbSet { s.usb with wake := .drive, driveAt := s.now }
  else s

/-- WAKE_DRIVE_END: DRV ms of K have been driven (R384). -/
def usbDriveEnd (s : State) : State :=
  let u := s.usb
  if u.wake = .drive then
    let s := s.advanceTo (u.driveAt + s.af 0x0D0014 3 0 * ticksPerMs)
    s.usbSet { s.usb with wake := .none, drove := true }
  else s

/-- HOST_K_DURING_WAKE: the host's resume comes first (R385). -/
def usbHostK (s : State) : State :=
  let u := s.usb
  if u.wake = .pending ∨ u.wake = .sense then
    s.usbSet { u with wake := .none, cancelled := true, wakeSrc := u.wakeSrc ||| 0x8000 }
  else s

/-- USB_SUSPEND: 3 ms of upstream idle (R383). -/
def usbSuspend (s : State) : State :=
  let u := s.usb
  if u.pullup && !u.suspended then
    ((s.usbSet { u with suspended := true, idleSince := s.now - 3 * ticksPerMs, wake := .none, drove := false,
                        cancelled := false }).bump 0x0D0044).event 392 0x0150
  else s

/-- USB_RESUME: a resume ends with EOP (R383, R384, R385). -/
def usbResume (s : State) : State :=
  let u := s.usb
  if u.suspended then
    let byDrive := u.drove || u.wake == .drive
    let s := s.usbSet { u with suspended := false, wake := .none, drove := false, cancelled := false }
    if byDrive then (s.bump 0x0D0048).event 392 0x0152
    else if u.cancelled then s.eventP 392 0x0153 u.wakeSrc.toNat
    else s.event 392 0x0151
  else s

/-! ### Connection (R368, R369) -/

/-- Both devices and every downstream port return to their states after reset; port 5 follows function 10. -/
def State.usbClear (s : State) : State :=
  let s := [1, 2, 3, 4].foldl (fun s k =>
    let p := s.usbPort k
    s.setUsbPort k { attached := p.attached, speed := p.speed, ocPin := p.ocPin }) s
  s.usbSet { s.usb with
    default_ := false, hub := {}, fn := {}, suspended := false, wake := .none, drove := false, cancelled := false
    halt := 0, toggles := 0, tts := [], high := false }

/-- The pull-up is removed; the device state is Attached (R368). -/
def State.usbDetach (s : State) : State :=
  if s.usb.pullup then
    let s := s.usbClear
    s.usbSet { s.usb with pullup := false, offAt := some s.now }
  else s

/-- VBUS_CHANGE: the voltage on USBU_VBUS in millivolts (R368). -/
def usbVbus (mv : BitVec 16) (s : State) : State :=
  let v := mv.toNat
  let u := s.usb
  if v < 3500 then
    let s := if u.pullup then s.fault 392 0xC1 0 0 else s
    let s := s.usbSet { s.usb with vbus := false, vbusOk := false }
    s.usbDetach
  else if v < 4000 then s.usbSet { u with vbus := false, vbusOk := u.vbusOk && u.pullup }
  else s.usbSet { u with vbus := true, vbusSince := if u.vbusOk then u.vbusSince else s.now, vbusOk := true }

/-- PULLUP_ATTACH (R368). -/
def usbAttach (s : State) : State :=
  let u := s.usb
  if s.running 9 && s.rb 0x0D0010 0 && u.vbusOk && !u.pullup then
    let off := match u.offAt with
      | some t => t + 10 * ticksPerMs
      | none => 0
    let s := s.advanceTo (max (u.vbusSince + 10 * ticksPerMs) off)
    s.usbSet { s.usb with pullup := true }
  else s

/-- Function 9 stops: the pull-up is removed, ports off, every USB state of the compound device reset (R369). -/
def State.usbHubStopped (s : State) : State := s.usbDetach.usbClear

/-- Function 10 enters RUNNING or stops: port 5 reports a device connected only while it is RUNNING (R369). -/
def State.usbFnConnect (s : State) (on : Bool) : State :=
  let s := s.usbSet { s.usb with
    fn := {}, halt := 0, toggles := s.usb.toggles &&& 8, blocks := [], ctl := none }
  let p := s.usbPort 5
  s.setUsbPort 5 { p with attached := on, connect := on, power := on, enable := false, susp := false
                          cConnect := p.cConnect || p.connect != on }

/-! ### Downstream ports (R370, R373, R386) -/

/-- DOWNSTREAM_OVERCURRENT: OC_N of port k has been low for OCDG ms (R370). -/
def usbOvercurrent (k : BitVec 3) (s : State) : State :=
  let n := k.toNat
  let p := s.usbPort n
  if 1 ≤ n ∧ n ≤ 4 ∧ p.power then
    let s := s.setUsbPort n { p with power := false, enable := false, connect := false, susp := false, overcur := true
                                     cOvercur := true, ocPin := true, resuming := false }
    (((s.bump 0x0D004C).event (392 + n) 0x0156).fault (392 + n) 0xC0 1 n).portChanged n
  else s

/-- A connection is reported once the port has been powered for 100 ms (R373). -/
def State.reportConnect (s : State) (k : Nat) : State :=
  let p := s.usbPort k
  if p.power && p.attached && !p.connect then
    (s.setUsbPort k { p with connect := true, cConnect := true }).portChanged k
  else s

/-- PORT_CONNECT_REPORT (R373). -/
def usbConnectReport (k : BitVec 3) (s : State) : State :=
  let p := s.usbPort k.toNat
  if p.power && p.attached && !p.connect then
    (s.advanceTo (p.powerAt + 100 * ticksPerMs)).reportConnect k.toNat
  else s

/-- DOWNSTREAM_CONNECT_CHANGE: a device is attached to or detached from port k (R373). -/
def usbConnectChange (k : BitVec 3) (attached : Bool) (speed : BitVec 2) (s : State) : State :=
  let n := k.toNat
  if n = 0 ∨ 4 < n then s
  else
    let p := s.usbPort n
    if attached then
      let s := s.setUsbPort n { p with attached := true, speed := speed }
      if p.power ∧ p.powerAt + 100 * ticksPerMs ≤ s.now then s.reportConnect n else s
    else
      let gone := { p with attached := false, connect := false, enable := false, susp := false, resuming := false }
      if p.connect then (s.setUsbPort n { gone with cConnect := true }).portChanged n else s.setUsbPort n gone

/-- DOWNSTREAM_REMOTE_WAKE: the device on port k signals remote wake (R384, R386). -/
def usbDeviceWake (k : BitVec 3) (s : State) : State :=
  let n := k.toNat
  let p := s.usbPort n
  if n = 0 ∨ 4 < n then s
  else if s.usb.suspended then s.wakeSource .hub (5 + n)
  else if p.susp ∧ !p.resuming then s.setUsbPort n { p with resuming := true }
  else s

/-- DOWNSTREAM_RESUME_END: C_PORT_SUSPEND is set once, with one event (R386). -/
def usbResumeEnd (k : BitVec 3) (s : State) : State :=
  let n := k.toNat
  let p := s.usbPort n
  if p.resuming then
    ((s.setUsbPort n { p with resuming := false, susp := false, cSusp := true }).event (392 + n) 0x0157).portChanged n
  else s

/-- wPortStatus and wPortChange of a port (USB 2.0). -/
def UsbPort.status (p : UsbPort) : List Byte :=
  leBytes (bitAt p.connect 0 + bitAt p.enable 1 + bitAt p.susp 2 + bitAt p.overcur 3 + bitAt p.power 8 +
    bitAt (p.connect && p.speed == 1) 9 + bitAt (p.connect && p.speed == 2) 10 + bitAt p.test 11) 2 ++
  leBytes (bitAt p.cConnect 0 + bitAt p.cEnable 1 + bitAt p.cSusp 2 + bitAt p.cOvercur 3 + bitAt p.cReset 4) 2

/-- The hub descriptor (R373). -/
def hubDescriptor : List Byte := [9, 0x29, 5, 0x0D, 0, 50, 0, 0x20, 0xFF]

/-- The translator that serves port k: that of port 1 with alternate setting 0 (R382). -/
def State.ttOf (s : State) (k : Nat) : Nat := if s.usb.hub.alt then k else 1

/-- A translator. -/
def State.tt (s : State) (k : Nat) : Translator := tabGet {} s.usb.tts k

/-- A translator set. -/
def State.setTt (s : State) (k : Nat) (x : Translator) : State := s.usbSet { s.usb with tts := tabSet {} s.usb.tts k x }

/-- SetPortFeature (USB 2.0, R370). -/
def State.setFeature (s : State) (k : Nat) (f : PortFeature) : State :=
  let p := s.usbPort k
  match f with
  | .power =>
    if k = 5 ∨ p.power ∨ !s.rb 0x0D0000 (k - 1) then s
    else s.setUsbPort k { p with power := true, powerAt := s.now, overcur := false, ocPin := false }
  | .reset =>
    if p.connect then s.setUsbPort k { p with enable := true, susp := false, cReset := true, resuming := false } else s
  | .suspend => if p.enable then s.setUsbPort k { p with susp := true } else s
  | .test => s.setUsbPort k { p with test := true }
  | _ => s

/-- ClearPortFeature (USB 2.0, R386): clearing PORT_SUSPEND drives a resume. -/
def State.clearFeature (s : State) (k : Nat) (f : PortFeature) : State :=
  let p := s.usbPort k
  match f with
  | .power =>
    if k = 5 then s
    else s.setUsbPort k { p with power := false, connect := false, enable := false, susp := false, resuming := false }
  | .enable => s.setUsbPort k { p with enable := false }
  | .suspend => if p.susp then s.setUsbPort k { p with resuming := true } else s
  | .cConnection => s.setUsbPort k { p with cConnect := false }
  | .cEnable => s.setUsbPort k { p with cEnable := false }
  | .cSuspend => s.setUsbPort k { p with cSusp := false }
  | .cOverCurrent => s.setUsbPort k { p with cOvercur := false }
  | .cReset => s.setUsbPort k { p with cReset := false }
  | _ => s

/-- HUB_CLASS_REQUEST on port k (R367, R370, R382). -/
def usbHubRequest (req : HubRequest) (k : BitVec 3) (s : State) : State :=
  let n := k.toNat
  if !s.usb.pullup then s
  else if !s.usb.hub.config then s.usbStall .hub
  else
    let port (f : State → State) : State :=
      if 1 ≤ n ∧ n ≤ 5 then (f s).usbAnswer .hub 0 0 else s.usbStall .hub
    match req with
    | .setPort f => port (fun s => s.setFeature n f)
    | .clearPort f => port (fun s => s.clearFeature n f)
    | .getPortStatus =>
      if 1 ≤ n ∧ n ≤ 5 then s.usbAnswer .hub 0 4 (s.usbPort n).status else s.usbStall .hub
    | .getHubStatus => s.usbAnswer .hub 0 4 [0, 0, 0, 0]
    | .getDescriptor => s.usbAnswer .hub 0 4 hubDescriptor
    | .clearTTBuffer id => port (fun s =>
        let t := s.ttOf n
        s.setTt t { s.tt t with bufs := (s.tt t).bufs.filter (· != id), periodic := (s.tt t).periodic.filter (· != id) })
    | .resetTT => port (fun s => s.setTt (s.ttOf n) {})
    | .getTTState => s.usbStall .hub
    | .stopTT => s.usbStall .hub

/-! ### Translators (R382) -/

/-- START_SPLIT: a transaction of a port is taken by a translator buffer or answered NAK (R382). -/
def usbStartSplit (k : BitVec 3) (periodic : Bool) (uframe : BitVec 14) (id : BitVec 16) (s : State) : State :=
  let t := s.ttOf k.toNat
  let x := s.tt t
  if !s.usb.hub.config then s
  else if periodic then
    let n := if x.uframe = uframe.toNat then x.count else 0
    if 16 ≤ n then s.usbAnswer .hub 0 2
    else s.setTt t { x with uframe := uframe.toNat, count := n + 1, periodic := x.periodic ++ [id] }
  else if 2 ≤ x.bufs.length then s.usbAnswer .hub 0 2
  else (s.setTt t { x with bufs := x.bufs ++ [id] }).usbAnswer .hub 0 0

/-- COMPLETE_SPLIT: the result, or NYET while the transaction has not ended (R382). -/
def usbCompleteSplit (k : BitVec 3) (id : BitVec 16) (r : TtResult) (s : State) : State :=
  let t := s.ttOf k.toNat
  let x := s.tt t
  if !(x.bufs.contains id || x.periodic.contains id) then s
  else
    let freed := s.setTt t { x with bufs := x.bufs.erase id, periodic := x.periodic.erase id }
    match r with
    | .waiting => s.usbAnswer .hub 0 1
    | .done d => freed.usbAnswer .hub 0 4 d
    | .failed => ((freed.bump 0x0D0050).fault (392 + k.toNat) 0xC4 0 k.toNat).usbAnswer .hub 0 5

/-! ### Standard requests and endpoints (R371, R372, R379 to R381) -/

/-- The upper-case hexadecimal digit of a nibble. -/
def hexDigit (n : Nat) : Byte := BitVec.ofNat 8 (if n < 10 then 48 + n else 55 + n)

/-- A string descriptor of ASCII bytes. -/
def stringDescriptor (l : List Byte) : List Byte :=
  leBytes (2 + 2 * l.length) 1 ++ [3] ++ l.flatMap (fun c => [c, 0])

/-- ASCII bytes of a string. -/
def asciiBytes (t : String) : List Byte := t.toList.map (fun c => BitVec.ofNat 8 c.toNat)

/-- The strings of a device: language, manufacturer, product, serial number (R371). -/
def State.usbString (s : State) (d : UsbDev) (i : Nat) : Option (List Byte) :=
  match i with
  | 0 => some [4, 3, 0x09, 0x04]
  | 1 => some (stringDescriptor (asciiBytes "Holrek"))
  | 2 => some (stringDescriptor (asciiBytes (match d with
      | .hub => "ZG7416 ring hub"
      | .vendor => "ZG7416 station gateway")))
  | 3 => some (stringDescriptor
      ((List.range 16).map (fun k => hexDigit (Sys2Proof.Config.uid.toNat / 16 ^ (15 - k) % 16)) ++
        [0x2D, BitVec.ofNat 8 (48 + s.slot.toNat)]))
  | _ => none

/-- The device descriptor (R371); MINOR is SYS.ID.MINOR. -/
def State.deviceDescriptor (s : State) (d : UsbDev) : List Byte :=
  let bcd := leBytes (0x0B00 + s.rf 0x000000 19 16) 2
  let vid := leBytes (s.rv 0x0D0004) 2
  match d with
  | .hub => [18, 1, 0, 2, 9, 0, if s.usb.high then 2 else 0, 64] ++ vid ++ leBytes (s.rv 0x0D0008) 2 ++ bcd ++ [1, 2, 3, 1]
  | .vendor => [18, 1, 0, 2, 0, 0, 0, 64] ++ vid ++ leBytes (s.rv 0x0D000C) 2 ++ bcd ++ [1, 2, 3, 1]

/-- An endpoint descriptor. -/
def epDescriptor (addr kind size interval : Nat) : List Byte :=
  [7, 5, BitVec.ofNat 8 addr, BitVec.ofNat 8 kind] ++ leBytes size 2 ++ leBytes interval 1

/-- The configuration descriptor with its interfaces and endpoints (R372), of type 2, or 7 for the other speed. -/
def configDescriptor (d : UsbDev) (high : Bool) (typ : Byte) : List Byte :=
  let body := match d with
    | .hub =>
      let ep := epDescriptor 0x81 3 1 (if high then 12 else 255)
      [9, 4, 0, 0, 1, 9, 0, 1, 0] ++ ep ++ [9, 4, 0, 1, 1, 9, 0, 2, 0] ++ ep
    | .vendor =>
      let n := if high then 512 else 64
      [9, 4, 0, 0, 3, 0xFF, 0x4B, 1, 0] ++ epDescriptor 0x01 2 n 0 ++ epDescriptor 0x82 2 n 0 ++
        epDescriptor 0x83 3 64 (if high then 4 else 1)
  [9, typ] ++ leBytes (9 + body.length) 2 ++ [1, 1, 0, 0xE0, 0] ++ body

/-- The device qualifier (R371). -/
def State.qualifier (s : State) (d : UsbDev) : List Byte :=
  let x := s.deviceDescriptor d
  let proto : Byte := match d with
    | .hub => if s.usb.high then 0 else 2
    | .vendor => 0
  [10, 6] ++ slice x 2 4 ++ [proto, 64, 1, 0]

/-- A standard descriptor by wValue. -/
def State.descriptor (s : State) (d : UsbDev) (v : Nat) : Option (List Byte) :=
  match v / 256 with
  | 1 => some (s.deviceDescriptor d)
  | 2 => some (configDescriptor d s.usb.high 2)
  | 3 => s.usbString d (v % 256)
  | 6 => some (s.qualifier d)
  | 7 => some (configDescriptor d (!s.usb.high) 7)
  | _ => none

/-- Every bulk and interrupt endpoint of a device returns to DATA0 (R381). -/
def Usb.resetToggles (u : Usb) : UsbDev → Usb
  | .hub => { u with toggles := u.toggles &&& 7 }
  | .vendor => { u with toggles := u.toggles &&& 8 }

/-- STANDARD_REQUEST addressed to a device: USB 2.0 request code, wValue and wLength (R371, R372, R379, R381). -/
def usbStandard (d : UsbDev) (req : Byte) (value length : BitVec 16) (s : State) : State :=
  let u := s.usb
  let x := u.dev d
  let ok (s : State) : State := s.usbAnswer d 0 0
  if !u.pullup ∨ (d = .vendor ∧ !s.running 10) then s
  else match req.toNat with
    | 0 => s.usbAnswer d 0 4 ([BitVec.ofNat 8 (1 + bitAt x.rwake 1), 0].take length.toNat)
    | 1 => if value = 1 then ok (s.usbSet (u.setDev d { x with rwake := false })) else s.usbStall d
    | 3 => if value = 1 then ok (s.usbSet (u.setDev d { x with rwake := true }))
      else if value = 2 then ok s else s.usbStall d
    | 5 => ok (s.usbSet (u.setDev d { x with addr := BitVec.ofNat 7 value.toNat }))
    | 6 => match s.descriptor d value.toNat with
      | some l => s.usbAnswer d 0 4 (l.take length.toNat)
      | none => s.usbStall d
    | 8 => s.usbAnswer d 0 4 ([BitVec.ofNat 8 (bitAt x.config 0)].take length.toNat)
    | 9 => if 1 < value.toNat % 256 then s.usbStall d
      else
        let u := (u.setDev d { x with config := value.toNat % 256 == 1, alt := false }).resetToggles d
        ok (s.usbSet (match d with
          | .hub => u
          | .vendor => { u with halt := 0 }))
    | 10 => if x.config then s.usbAnswer d 0 4 ([BitVec.ofNat 8 (bitAt x.alt 0)].take length.toNat) else s.usbStall d
    | 11 => if x.config ∧ (value = 0 ∨ (value = 1 ∧ d = .hub)) then
        ok (s.usbSet ((u.setDev d { x with alt := value == 1 }).resetToggles d))
      else s.usbStall d
    | _ => s.usbStall d

/-- The place of an endpoint of the vendor function in HALT and in the toggles. -/
def epIndex (ep : Byte) : Option Nat :=
  if ep = 0x01 then some 0 else if ep = 0x82 then some 1 else if ep = 0x83 then some 2 else none

/-- An endpoint of the vendor function is halted. -/
def State.epHalted (s : State) (i : Nat) : Bool := nbit s.usb.halt.toNat i

/-- ENDPOINT_HALT: SetFeature(ENDPOINT_HALT) (R379). -/
def usbHalt (ep : Byte) (s : State) : State :=
  match epIndex ep with
  | some i => if s.usb.fn.config then
      (s.usbSet { s.usb with halt := s.usb.halt ||| BitVec.ofNat 3 (2 ^ i) }).usbAnswer .vendor 0 0
    else s.usbStall .vendor
  | none => s.usbStall .vendor

/-- ENDPOINT_HALT_CLEAR: the halt ends and the toggle is DATA0 (R379, R381). -/
def usbHaltClear (ep : Byte) (s : State) : State :=
  match epIndex ep with
  | some i => if s.usb.fn.config then
      (s.usbSet { s.usb with halt := s.usb.halt &&& ~~~ BitVec.ofNat 3 (2 ^ i)
                             toggles := s.usb.toggles &&& ~~~ BitVec.ofNat 4 (2 ^ i) }).usbAnswer .vendor 0 0
    else s.usbStall .vendor
  | none => s.usbStall .vendor

/-- OUT_DATA_PACKET on endpoint 0x01 with its toggle; `room` is how many full packets fit before it (R379 to R381). -/
def usbOutData (toggle : Bool) (room : Nat) (s : State) : State :=
  let u := s.usb
  if !u.fn.config then s
  else if s.epHalted 0 then s.usbAnswer .vendor 1 3
  else if toggle ≠ nbit u.toggles.toNat 0 then s.usbAnswer .vendor 1 0
  else if room = 0 then s.usbAnswer .vendor 1 2
  else
    (s.usbSet { u with toggles := u.toggles ^^^ 1 }).usbAnswer .vendor 1 (if room = 1 ∧ u.high then 1 else 0)

/-- PING on endpoint 0x01 (R380). -/
def usbPing (room : Nat) (s : State) : State :=
  if !s.usb.fn.config then s
  else if s.epHalted 0 then s.usbAnswer .vendor 1 3
  else s.usbAnswer .vendor 1 (if room = 0 then 2 else 0)

/-- The local queue bound to the USB function (R444). -/
def State.usbQueue (s : State) : Option Nat := (List.range 16).find? (fun q => s.rf (qBase q) 15 14 == 2)

/-- EVENT_ENDPOINT_IN: one record of the bound queue, or NAK while it is empty (R378). -/
def usbEventIn (s : State) : State :=
  let u := s.usb
  if !u.fn.config ∨ u.suspended then s
  else if s.epHalted 2 then s.usbAnswer .vendor 0x83 3
  else match s.usbQueue with
    | none => s.usbAnswer .vendor 0x83 2
    | some q =>
      let x := s.queue q
      match x.recs with
      | [] => s.usbAnswer .vendor 0x83 2
      | (r, _) :: rest =>
        if !s.running 12 then s.usbAnswer .vendor 0x83 2
        else
          let s := (s.changeQueue q { x with recs := rest }).storeLocalGap q
          (s.usbSet { s.usb with toggles := s.usb.toggles ^^^ 4 }).usbAnswer .vendor 0x83 4 r.bytes

/-- COMMAND_BLOCK_RESPONSE: the response of the oldest block, once it has completed (R377). -/
def usbBlockResponse (s : State) : State :=
  let u := s.usb
  match u.blocks with
  | [] => if u.fn.config then s.usbAnswer .vendor 0x82 2 else s
  | b :: rest =>
    if s.epHalted 1 then s.usbAnswer .vendor 0x82 3
    else match b.result with
      | none => s.usbAnswer .vendor 0x82 2
      | some (st, det, done, data) =>
        let hdr := [b.op, BitVec.ofNat 8 st] ++ leBytes b.tag.toNat 2 ++ leBytes det 1 ++ [0, 0, 0] ++ leBytes done 2 ++
          List.replicate 6 0
        let read := b.op == 0x01 || b.op == 0x11
        let body := if read then data ++ List.replicate (b.len - data.length) 0 else []
        (s.usbSet { u with blocks := rest, toggles := u.toggles ^^^ 2 }).usbAnswer .vendor 0x82 4 (hdr ++ body)

/-! ### Vendor control requests (R374, R375) -/

/-- The result of a vendor access (R374). -/
def State.usbResultIs (s : State) (status detail done : Nat) : State :=
  s.usbSet { s.usb with resStatus := BitVec.ofNat 8 status, resDetail := BitVec.ofNat 8 detail, resDone := done }

/-- USB_LREAD and USB_LWRITE: the access is latched while its stage is NAKed; what cannot be performed is STALLed
(R375, R379). -/
def usbLocal (write : Bool) (addr : BitVec 32) (len : Nat) (data : List Byte) (s : State) : State :=
  let u := s.usb
  if !s.running 10 ∨ !u.pullup then s
  else if !u.fn.config ∨ len = 0 ∨ 4096 < len ∨ u.ctl.isSome then s.usbStall .vendor
  else
    let s := s.usbSet { u with resSeq := u.resSeq + 1 }
    if !s.rb 0x0D4004 0 then (s.usbResultIs 0x0B 0xFF 0).usbStall .vendor
    else if addr.toNat < 0x1000000 ∧ (addr.toNat % 4 ≠ 0 ∨ len % 4 ≠ 0) then (s.usbResultIs 7 0 0).usbStall .vendor
    else s.usbSet { s.usb with ctl := some { write := write, addr := addr, len := len, data := data } }

/-- USB_RESULT (R374). -/
def usbResult (s : State) : State :=
  let u := s.usb
  if !s.running 10 ∨ !u.pullup then s
  else if !u.fn.config then s.usbStall .vendor
  else s.usbAnswer .vendor 0 4 ([u.resSeq, u.resStatus, u.resDetail, 0] ++ leBytes u.resDone 4)

/-! ### Bus reset (R387) -/

/-- USB_BUS_RESET; `high` says that the chirp found a high-speed host. -/
def usbBusReset (high : Bool) (s : State) : State :=
  let u := s.usb
  if !u.pullup then s
  else
    let unissued := (u.blocks.filter (fun b => !b.issued)).length
    let responses := (u.blocks.filter (fun b => b.issued)).length
    let aborted := match u.ctl with
      | some c => c.answer
      | none => false
    let s := (s.bump 0x0D0040).usbClear
    let s := s.usbSet { s.usb with
      default_ := true, high := high && !s.rb 0x0D0000 4, blocks := []
      ctl := u.ctl.map (fun c => { c with answer := false }) }
    let s := (s.bumpBy 0x0D4048 responses).bumpBy 0x0D404C (bitAt aborted 0)
    let s := s.eventP 397 0x0154 (unissued + responses * 65536 + bitAt aborted 32)
    if unissued + responses = 0 then s else s.fault 397 0xC3 0 (min responses 0x7FF)

/-- DEVSTATE of the compound device. -/
def Usb.devState (u : Usb) : Nat :=
  if !u.pullup then 0 else if u.suspended then 5 else if u.hub.config then 4 else if u.hub.addr ≠ 0 then 3
  else if u.default_ then 2 else 1

/-- The live USB registers. -/
def State.usbView (s : State) (off : Nat) : Option Nat :=
  let u := s.usb
  match off with
  | 0x0D0020 => some (bitAt u.vbus 7 + bitAt u.pullup 8 + u.devState * 2 ^ 9 + bitAt u.high 12 + u.hub.addr.toNat * 2 ^ 13 +
      bitAt u.hub.config 20 + bitAt u.hub.alt 21 +
      (match u.wake with | .none => 0 | .pending => 1 | .sense => 2 | .drive => 3) * 2 ^ 22)
  | 0x0D400C => some u.wakeSrc.toNat
  | 0x0D4010 => some (u.fn.addr.toNat + bitAt u.fn.config 7 + (u.blocks.filter (fun b => !b.issued)).length * 2 ^ 8 +
      (u.blocks.filter (fun b => b.issued && b.result.isNone)).length * 2 ^ 12 + u.halt.toNat * 2 ^ 16)
  | _ =>
    if 0x0D0024 ≤ off ∧ off < 0x0D0034 then
      let p := s.usbPort ((off - 0x0D0020) / 4)
      some (bitAt p.connect 0 + bitAt p.enable 1 + bitAt p.susp 2 + bitAt p.overcur 3 + bitAt p.power 5 + bitAt p.test 6 +
        p.speed.toNat * 2 ^ 7 + bitAt p.ocPin 9)
    else none

end Sys2Proof.Machine
end

