-- ==== Sys2Proof/Machine/XactCore.lean ====
section
/-! DEFINITION. The initiator side of fabric transactions (07): issue, outstanding entries, completion towards the
initiator ports, the posted-error log and the prefetch lines. -/

namespace Sys2Proof.Machine

/-! ### Status codes (R181) -/

/-- OK. -/
def stOk : Nat := 0
/-- PERMIT. -/
def stPermit : Nat := 1
/-- ADDR. -/
def stAddr : Nat := 2
/-- IGNORED. -/
def stIgnored : Nat := 3
/-- TWINDOWN. -/
def stTwinDown : Nat := 4
/-- NOTRUN. -/
def stNotRun : Nat := 5
/-- UNCORR. -/
def stUncorr : Nat := 6
/-- FORMAT. -/
def stFormat : Nat := 7
/-- LATE. -/
def stLate : Nat := 8
/-- TIMEOUT. -/
def stTimeout : Nat := 9
/-- NONODE. -/
def stNoNode : Nat := 0xA
/-- WINDOW. -/
def stWindow : Nat := 0xB
/-- SEDISC. -/
def stSeDisc : Nat := 0xC

/-! ### The posted-error log (R185, R195) -/

/-- An entry of the posted-error log, or a count when the log is full. -/
def State.pelEntry (s : State) (status dom count detail node slot addr : Nat) : State :=
  let prod := s.rf 0x070A00 4 0
  if (prod + 32 - s.rf 0x070A04 4 0) % 32 = 16 then (s.bump 0x070A80).fault 576 0x61 1 dom
  else
    let b := 0x070C00 + 0x20 * (prod % 16)
    let s := ((s.setNat b (addr % 2 ^ 32)).setNat (b + 4) (node * 2 ^ 20 + slot * 2 ^ 19 + addr / 2 ^ 32 % 2 ^ 16))
    let s := s.setNat (b + 8) (status * 2 ^ 24 + dom * 2 ^ 20 + count % 4096 * 256 + detail % 256)
    let s := (s.setNat (b + 12) (s.ns % 2 ^ 32)).setNat (b + 16) (s.ns / 2 ^ 32 % 2 ^ 32)
    s.setNat 0x070A00 ((prod + 1) % 32)

/-- A posted write failed: logged, and kind 0x60 (R185, R186). -/
def State.pelLog (s : State) (status dom count detail node slot addr : Nat) : State :=
  (s.pelEntry status dom count detail node slot addr).fault 576 0x60 1 status

/-! ### Completion towards the initiator port (R187) -/

/-- The value a load writes (R422). -/
def LoadKind.value (k : LoadKind) (b : List Byte) : Word :=
  match k with
  | .lb => BitVec.ofInt 32 (toSigned 8 (leNat (b.take 1)))
  | .lbu => BitVec.ofNat 32 (leNat (b.take 1))
  | .lh => BitVec.ofInt 32 (toSigned 16 (leNat (b.take 2)))
  | .lhu => BitVec.ofNat 32 (leNat (b.take 2))
  | .lw | .ld => BitVec.ofNat 32 (leNat (b.take 4))

/-- A store is done: the post-incremented base and the next instruction (R422). -/
def Ncp.storeDone (x : Ncp) (base : Option (BitVec 4 × Word)) : Ncp :=
  let x := match base with
    | some (r, v) => x.setReg r v
    | none => x
  x.advance

/-- A load has its data: the destination, then the post-incremented base, and the next instruction (R417, R422). -/
def Ncp.loadDone (x : Ncp) (k : LoadKind) (d : BitVec 4) (b : List Byte) (base : Option (BitVec 4 × Word)) : Ncp :=
  let x := match k with
    | .ld => x.setPair d (k.value b) (BitVec.ofNat 32 (leNat (slice b 4 4)))
    | _ => x.setReg d (k.value b)
  x.storeDone base

/-- The waiting instruction of a pair gets its completion: a failed one takes the bus error trap (R187, R422). -/
def State.ncpComplete (s : State) (p : Pair) (status : Nat) (data : List Byte) : State :=
  let x := s.ncp p
  match x.wait with
  | none => s
  | some w =>
    if status = stOk then
      let x := { x with wait := none }
      match w.load with
      | some (k, d) => s.setNcp p (x.loadDone k d data w.base)
      | none => s.setNcp p (x.storeDone w.base)
    else (s.setNcp p { x with wait := none }).trapHere p 5 w.addr status

/-- A completion of a PCIe read or non-posted request: all-ones data or Completer Abort when it failed (R187). -/
def State.pcieComplete (s : State) (status : Nat) (write : Bool) (len : Nat) (data : List Byte) : State :=
  if write then s
  else if status = stOk then s.emit (.completion 0 data)
  else if s.rb 0x070000 0 then s.emit (.completion 4 [])
  else s.emit (.completion 0 (List.replicate len 0xFF))

/-- An access ends (R187, R377, R464). -/
def State.completeTo (s : State) (w : Who) (write : Bool) (len status detail done : Nat) (data : List Byte) : State :=
  match w with
  | .plain src => s.emit (.answer src status data)
  | .ncp p => s.ncpComplete p status data
  | .pcie => s.pcieComplete status write len data
  | .block id =>
    { s with usb := { s.usb with blocks := s.usb.blocks.map (fun b =>
        if b.id = id then { b with result := some (status, detail, done, data) } else b) } }
  | .dma c a =>
    let d : Dma := tabGet {} s.dma c
    { s with dma := tabSet {} s.dma c { d with parts := d.parts ++ [(a, len, status, data)] } }

/-! ### Prefetch lines (R191) -/

/-- The marked words of a line that have not been returned. -/
def PfLine.owed (l : PfLine) : List Nat := (List.range 64).filter (fun i => nbit l.marked.toNat i && !nbit l.returned.toNat i)

/-- A line is discarded: when a marked word has not been returned, the line goes to a save slot and is logged (R191). -/
def State.discardLine (s : State) (l : PfLine) : State :=
  let s := { s with xact := { s.xact with lines := s.xact.lines.erase l } }
  match l.owed with
  | [] => s
  | w :: ws =>
    let slot := (List.range 4).find? (fun i => !nbit s.xact.seUsed.toNat i)
    let s := match slot with
      | some i =>
        let s := { s with xact := { s.xact with seUsed := s.xact.seUsed ||| BitVec.ofNat 4 (2 ^ i) } }
        let s := (List.range 64).foldl (fun (s : State) k => s.setNat (0x074000 + 0x100 * i + 4 * k) (leNat (slice l.data (4 * k) 4))) s
        let m := (w :: ws).foldl (fun n k => n + 2 ^ k) 0
        (s.setNat (0x070A40 + 8 * i) (m % 2 ^ 32)).setNat (0x070A44 + 8 * i) (m / 2 ^ 32)
      | none => s
    let d := slot.getD 0xFF
    (s.pelEntry stSeDisc l.dom 0 d 0xFFF 0 (l.key.block + 4 * w)).fault 579 0x64 1 d

/-- Every line that satisfies a condition is discarded. -/
def State.discardWhere (s : State) (f : PfLine → Bool) : State := (s.xact.lines.filter f).foldl State.discardLine s

/-- A fetched block becomes a line; the least recently used of 8 makes room (R191). -/
def State.fillLine (s : State) (l : PfLine) : State :=
  let s := s.discardWhere (fun x => x.key == l.key)
  let s := if 8 ≤ s.xact.lines.length then
      match s.xact.lines with
      | x :: _ => s.discardLine x
      | [] => s
    else s
  { s with xact := { s.xact with lines := s.xact.lines ++ [l] } }

/-- The bits of the words that k bytes from position o touch. -/
def wordBits (o k : Nat) : BitVec 64 :=
  BitVec.ofNat 64 ((List.range 64).foldl (fun n i => if o < 4 * i + 4 ∧ 4 * i < o + k then n + 2 ^ i else n) 0)

/-- A read served from a line: its bytes; the line becomes the most recently used (R191). -/
def State.serveLine (s : State) (l : PfLine) (o k : Nat) : List Byte × State :=
  let l' := { l with returned := l.returned ||| wordBits o k }
  (slice l.data o k, { s with xact := { s.xact with lines := s.xact.lines.erase l ++ [l'] } })

/-! ### Issue and completion of transactions (R179, R183, R187) -/

/-- The result of one part; with the last part the access ends, with the status of its first failure (R377). -/
def State.partDone (s : State) (id part status detail : Nat) (data : List Byte) : State :=
  match tabGet none s.xact.accesses id with
  | none => s
  | some a =>
    let a := { a with results := tabSet none a.results part (some (status, detail, data)) }
    if (List.range a.lens.length).all (fun i => (tabGet none a.results i).isSome) then
      let (st, det, n, d) := (List.range a.lens.length).foldl
        (fun (r : Nat × Nat × Nat × List Byte) i =>
          match tabGet none a.results i with
          | some (st, det, d) =>
            if r.1 ≠ stOk then r else if st = stOk then (stOk, 0, r.2.2.1 + a.lens.getD i 0, r.2.2.2 ++ d)
            else (st, det, r.2.2.1, r.2.2.2)
          | none => r) (stOk, 0, 0, [])
      let s := { s with xact := { s.xact with accesses := tabSet none s.xact.accesses id none } }
      s.completeTo a.who a.write (a.lens.foldl (· + ·) 0) st det n d
    else { s with xact := { s.xact with accesses := tabSet none s.xact.accesses id (some a) } }

/-- The outstanding entries in use. -/
def State.outstanding (s : State) : List (Nat × Outst) := s.xact.entries.filterMap (fun e => e.2.map (fun o => (e.1, o)))

/-- A domain may issue one more read or non-posted write (R187). -/
def State.entryFree (s : State) (dom : Nat) : Bool :=
  let l := s.outstanding
  decide (l.length < 512) && decide ((l.filter (fun e => e.2.req.dom == dom)).length < s.af (0x070040 + 4 * dom) 15 3)

/-- A transaction is issued: a posted write with its domain and count, which completes when its frames are admitted
(R183), any other with a free entry and its generation (R179); its class is that of its domain (R174). -/
def State.issueRequest (s : State) (r : Request) : State :=
  let h := { r.hdr with cls := BitVec.ofNat 3 (s.af (0x070040 + 4 * r.dom) 2 0) }
  if r.posted then
    let n := tabGet 0 s.xact.counts r.dom
    let s := { s with xact := { s.xact with counts := tabSet 0 s.xact.counts r.dom ((n + 1) % 4096) } }
    let s := s.originate { h with tag := BitVec.ofNat 16 (r.dom * 4096 + n) } r.payload r.route r.owner (some (r.access, r.part))
    if s.mayOriginate h r.route ∧ h.cls ≠ 0 then s else s.partDone r.access r.part 0 0 []
  else
    match (List.range 512).find? (fun e => (tabGet none s.xact.entries e).isNone) with
    | none => { s with xact := { s.xact with waiting := s.xact.waiting ++ [r] } }
    | some e =>
      let tag := BitVec.ofNat 16 (tabGet 0 s.xact.gens e * 512 + e)
      let s := { s with xact := { s.xact with entries := tabSet none s.xact.entries e (some { req := r, since := s.now }) } }
      s.originate { h with tag := tag } r.payload r.route r.owner

/-- A transaction is issued, or waits at its initiator port behind others of its domain (R187). -/
def State.sendRequest (s : State) (r : Request) : State :=
  if s.xact.waiting.any (fun w => w.dom == r.dom) ∨ (!r.posted ∧ !s.entryFree r.dom) then
    { s with xact := { s.xact with waiting := s.xact.waiting ++ [r] } }
  else s.issueRequest r

/-- ORIGINATION_ADMITTED: a held origination is admitted (R153); a posted write then completes at its initiator (R183). -/
def xactAdmit (s : State) : State :=
  match firstFitting s s.fwd.held [] [] with
  | none => s
  | some (o, _) =>
    match o.part with
    | some (a, p) => s.originationAdmit.partDone a p 0 0 []
    | none => s.originationAdmit

/-- The waiting transaction that may be issued next: the oldest of a domain that has an entry free for it (R187). -/
def nextWaiting (s : State) : List Request → List Nat → Option Request
  | [], _ => none
  | r :: rs, blocked =>
    if !blocked.contains r.dom ∧ (r.posted ∨ s.entryFree r.dom) then some r else nextWaiting s rs (r.dom :: blocked)

/-- OUTSTANDING_ENTRY_WAIT_END: a waiting transaction is issued once an entry is free (R187). -/
def xactWaitEnd (s : State) : State :=
  if !s.running 5 then s
  else match nextWaiting s s.xact.waiting [] with
    | none => s
    | some r => ({ s with xact := { s.xact with waiting := s.xact.waiting.erase r } }).issueRequest r

/-- Waiting transactions complete with NOTRUN when function 5 stops (R194). -/
def State.dropWaiting (s : State) : State :=
  let w := s.xact.waiting
  let s := { s with xact := { s.xact with waiting := [] } }
  w.foldl (fun s r =>
    if r.posted then
      (s.pelLog stNotRun r.dom (tabGet 0 s.xact.counts r.dom) 0 0xFFF 0 r.hdr.addr.toNat).partDone r.access r.part 0 0 []
    else s.partDone r.access r.part stNotRun 0 []) s

/-- An outstanding entry freed: its generation rises (R179). -/
def State.freeEntry (s : State) (e : Nat) : State :=
  { s with xact := { s.xact with entries := tabSet none s.xact.entries e none
                                 gens := tabSet 0 s.xact.gens e ((tabGet 0 s.xact.gens e + 1) % 128) } }

/-- The end of the transaction of an entry; a fetched block fills a line and serves the read that asked for it (R191). -/
def State.entryDone (s : State) (e : Nat) (o : Outst) (status detail : Nat) (data : List Byte) (mask : Nat) : State :=
  let s := s.freeEntry e
  match o.req.fetch with
  | some (key, off) =>
    if status = stOk then
      let l : PfLine := { key := key, dom := o.req.dom, since := s.now, data := data, marked := BitVec.ofNat 64 mask }
      let s := s.fillLine l
      let (d, s) := s.serveLine l off o.req.len
      s.partDone o.req.access o.req.part stOk 0 d
    else s.partDone o.req.access o.req.part status detail []
  | none => s.partDone o.req.access o.req.part status detail data

/-- RESPONSE_RECEIVED, after the error messages of its stream that came before it (R180, R187, R190). -/
def xactResponse (s : State) : State :=
  match s.takeTurn .response [.errorMsg] with
  | none => s
  | some (d, s) =>
    let e := d.h.tag.toNat % 512
    let w0 := beNat (slice d.payload 0 4)
    match tabGet none s.xact.entries e with
    | some o =>
      if tabGet 0 s.xact.gens e = d.h.tag.toNat / 512 then
        let s := if d.h.cm then s.bump (0x070AC0 + 4 * o.req.dom) else s
        let start := if d.h.rse then 20 else 4
        let n := if o.req.fetch.isSome then 256 else o.req.len
        let data := if o.req.hdr.typ = 5 then slice d.payload (start + o.req.hdr.addr.toNat % 4) n else []
        s.entryDone e o (nbits w0 7 0) (nbits w0 15 8) data (if d.h.rse then beNat (slice d.payload 4 16) else 0)
      else (s.bump 0x070A88).faultMs 577 0x66 0 0
    | none => (s.bump 0x070A88).faultMs 577 0x66 0 0

/-- TRANSACTION_TIMEOUT: XACT.TMO after the issue of an outstanding request (R187). -/
def xactTimeout (e : BitVec 9) (s : State) : State :=
  match tabGet none s.xact.entries e.toNat with
  | none => s
  | some o =>
    let s := s.advanceTo (o.since + s.af 0x070004 15 0 * 100 * ticksPerUs)
    (s.fault 577 0x20 1 o.req.dom).entryDone e.toNat o stTimeout 0 [] 0

/-- POSTED_ERROR_MESSAGE_RECEIVED (R185). -/
def xactErrorMessage (s : State) : State :=
  match s.takeInbox .errorMsg with
  | none => s
  | some (d, s) =>
    let w0 := beNat (slice d.payload 0 4)
    let dom := d.h.tag.toNat / 4096
    let s := if d.h.cm then s.bump (0x070AC0 + 4 * dom) else s
    s.pelLog (nbits w0 7 0) dom (d.h.tag.toNat % 4096) (nbits w0 15 8) d.h.src.toNat d.h.sslot.toNat d.h.addr.toNat

/-- PREFETCH_LINE_AGED: the oldest line has reached XACT.PFAGE (R191). -/
def xactLineAged (s : State) : State :=
  match s.xact.lines with
  | [] => s
  | l :: ls =>
    let o := ls.foldl (fun (m : PfLine) x => if x.since < m.since then x else m) l
    (s.advanceTo (o.since + s.af 0x07000C 15 0 * ticksPerUs)).discardLine o

/-- SEFREE_WRITE: save slots freed (R191). -/
def xactSefree (v : BitVec 16) (s : State) : State :=
  { s with xact := { s.xact with seUsed := s.xact.seUsed &&& ~~~ (v.truncate 4) } }

/-- XACT.OUTST. -/
def State.xactView (s : State) (off : Nat) : Option Nat :=
  if off = 0x070A68 then some (s.outstanding.length * 2 ^ 16 + s.xact.seUsed.toNat) else none

end Sys2Proof.Machine
end

