-- ==== Sys2Proof/Machine/HostOps.lean ====
section
/-! DEFINITION. The spore engine's frames and the host attachment (17): spore frames sent and received, host queues,
MSI-X moderation, the PCIe endpoint, and DMA channels. -/

namespace Sys2Proof.Machine

/-! ### Spore frames (R445, R447, R448) -/

/-- LOCAL_GAP_RECORD: the waiting GAP record is stored once there is room (R445). -/
def localGap (q : BitVec 4) (s : State) : State := if s.running 12 then s.storeLocalGap q.toNat else s

/-- SPORE_FRAME_SEND of a queue with DEST = 0b01: the records due by BATCH or HOLD leave in one frame of class 5 (R447). A
queue bound to a host queue of this hub delivers there without the ring (R444). -/
def sporeSend (q : BitVec 4) (s : State) : State :=
  let n := q.toNat
  let b := qBase n
  let recs := (s.queue n).recs
  let dest := s.rf b 15 14
  match recs with
  | [] => s
  | r :: _ =>
    let own := s.isOwn (s.rf (b + 4) 15 4)
    if !s.running 12 ∨ dest ≠ 1 ∨ (!own ∧ (!s.running 3 ∨ !s.ringLeads)) then s
    else
      let s := if s.af (b + 8) 4 0 ≤ recs.length then s else s.advanceTo (r.2 + s.af (b + 8) 15 8 * ticksPerUs)
      let k := min recs.length 16
      let out := (recs.take k).map (·.1)
      let x := s.queue n
      let s := (s.changeQueue n { x with recs := recs.drop k }).storeLocalGap n
      let s := s.bumpBy (b + 0x1C) k
      if own then s.hostArrive (s.rf b 13 8) out
      else
        s.originate { cls := 5, typ := 7, dest := BitVec.ofNat 12 (s.rf (b + 4) 15 4)
                      tsel := BitVec.ofNat 2 (s.rf (b + 4) 3 2)
                      addr := BitVec.ofNat 48 (4 * 2 ^ 44 + s.rf b 13 8 * 2 ^ 32), stream := BitVec.ofNat 16 n }
          (beBytes k 4 ++ out.flatMap Record.bytes)

/-- A record as its 32 bytes spell it (R440). -/
def parseRecord (l : List Byte) : Record :=
  let f (i k : Nat) := leNat (slice l i k)
  let w0 := f 0 2
  let w1 := f 2 2
  let ax := f 20 4
  { source := BitVec.ofNat 10 w0, typ := BitVec.ofNat 6 (w0 / 0x400), node := BitVec.ofNat 12 w1
    slot := BitVec.ofNat 1 (w1 / 0x1000), gap := nbit w1 15, late := nbit w1 14, seq := BitVec.ofNat 16 (f 4 2)
    kind := BitVec.ofNat 16 (f 6 2), time := BitVec.ofNat 64 (f 8 8), pos := BitVec.ofNat 32 (f 16 4)
    axis := BitVec.ofNat 6 ax, avalid := nbit ax 6, astale := nbit ax 7, payload := BitVec.ofNat 64 (f 24 8) }

/-- A spore frame in order: checked, and its records delivered to the host queue (R448, R449). -/
def State.sporeTake (s : State) (d : Delivered) : State :=
  let w0 := beNat (slice d.payload 0 4)
  let h := d.h.addr.toNat / 2 ^ 32 % 256
  if w0 = 0 ∨ 16 < w0 ∨ d.h.len.toNat ≠ 1 + 8 * w0 ∨ 64 ≤ h then (s.bump 0x0F3210).fault 537 0xCE 0 0
  else s.hostArrive h ((List.range w0).map (fun i => parseRecord (slice d.payload (4 + 32 * i) 32)))

/-- SPORE_FRAME_RECEIVED: the frames of one stream are taken in sequence order (R448). -/
def sporeReceived (s : State) : State :=
  match s.takeInbox .spore with
  | none => s
  | some (d, s) =>
    if d.h.mc ∨ d.ordered then s.sporeTake d
    else
      let k := streamKey d.h
      let (out, x) := (tabGet {} s.fwd.sprStreams k : Stream).arrive d true s.now
      let s := { s with fwd := { s.fwd with sprStreams := tabSet {} s.fwd.sprStreams k x } }
      out.foldl (fun s e => if e.late then s.bump 0x0F3214 else if e.sink = .spore then s.sporeTake e else s) s

/-- ORDER_HOLD_EXPIRY of the spore engine (R448). -/
def sporeOrderExpiry (src : BitVec 12) (slot : BitVec 1) (cls : BitVec 3) (s : State) : State :=
  let k := (src.toNat * 2 + slot.toNat) * 8 + cls.toNat
  let x : Stream := tabGet {} s.fwd.sprStreams k
  match x.held with
  | [] => s
  | e :: _ =>
    let s := s.advanceTo (e.2 + s.ap 0x0F3200 * ticksPerUs)
    let (out, x) := x.expire
    let s := { s with fwd := { s.fwd with sprStreams := tabSet {} s.fwd.sprStreams k x } }
    let s := (s.bump 0x0F3208).fault 537 0xCD 0 0
    out.foldl (fun s e => if e.sink = .spore then s.sporeTake e else s) s

/-! ### Host queues (R451 to R454) -/

/-- A 64-bit address held in four registers. -/
def State.wideAddr (s : State) (off : Nat) : Nat :=
  s.rv off + s.rv (off + 4) * 2 ^ 16 + s.rv (off + 8) * 2 ^ 32 + s.rv (off + 12) * 2 ^ 48

/-- The enable of a host queue takes its settings and restarts it (R451). -/
def State.hqEnable (s : State) (h : Nat) : State :=
  let b := hqReg h
  (s.setNat (b + 0x28) 0).setHq h { base := s.wideAddr (b + 4), size := s.rf b 3 0, wb := s.wideAddr (b + 0x14) }

/-- A write to HQCTLh (R451). -/
def hqctlWrite (src : Src) (h : BitVec 6) (v : Word) (s : State) : State :=
  let b := hqReg h.toNat
  let new := maskedWrite (s.rg b) 0xBF0F v
  if 12 ≤ new.toNat % 16 then s.ignored src b 1
  else
    let was := s.rb b 15
    let s := s.setReg b new
    if !was ∧ nbit new.toNat 15 then s.hqEnable h.toNat else s

/-- HQCONS_WRITE: slots go back to a host queue, and a waiting GAP record takes the first of them (R452, R453). -/
def hqconsWrite (src : Src) (h : BitVec 6) (v : Word) (s : State) : State :=
  let n := h.toNat
  let off := hqReg n + 0x28
  let new := maskedWrite (s.rg off) 0xFFFF v
  if (s.hq n).slots < ((s.hq n).prod - new.truncate 16).toNat then s.ignored src off 1
  else
    let s := s.setReg off new
    if s.rb (hqReg n) 15 then s.hqGap n else s

/-- MSIX_MODERATION_TIMEOUT: HQMOD.TIME × 10 µs after the first unsignalled record (R454). -/
def msixTimeout (h : BitVec 6) (s : State) : State :=
  let n := h.toNat
  let x := s.hq n
  let t := s.rf (hqReg n + 0x24) 15 8
  if x.unsig = 0 ∨ t = 0 ∨ !s.rb (hqReg n) 15 then s
  else (s.advanceTo (x.firstUnsig + t * 10 * ticksPerUs)).hqSignal n

/-! ### The PCIe endpoint (R456, R459, R460) -/

/-- PCIE_LINK_UP: training ends at a width of 1, 2 or 4 lanes and a rate of Gen1 to Gen4 (R459). -/
def pcieLinkUp (width speed : BitVec 3) (s : State) : State :=
  if s.running 11 then { s with pcie := { s.pcie with linkUp := true, width := width, speed := speed } } else s

/-- PCIE_LINK_DOWN (R459). -/
def pcieLinkDown (s : State) : State :=
  if s.running 11 ∧ s.pcie.linkUp then
    (({ s with pcie := { s.pcie with linkUp := false, width := 0, speed := 0 } }).bump 0x200010).fault 536 0xCB 1 0
  else s

/-- PCIE_CONFIGURATION_WRITE: what the host sets in the configuration space (R456). -/
def pcieConfig (bme msixEn fmask : Bool) (dstate : BitVec 2) (s : State) : State :=
  if s.running 11 ∧ s.pcie.linkUp then
    ({ s with pcie := { s.pcie with bme := bme, msixEn := msixEn, fmask := fmask, dstate := dstate } }).flushMsix
  else s

/-- FUNCTION_LEVEL_RESET (R460). -/
def pcieFlr (s : State) : State :=
  if s.running 11 then
    let s := { s with pcie := { s.pcie with bme := false, msixEn := false, fmask := false, dstate := 0, pba := 0 }
                      dma := s.dma.map (fun e => (e.1, { e.2 with st := .idle, reading := none, parts := [] })) }
    let s := (List.range 64).foldl (fun (s : State) h => s.setNat (hqReg h) (s.rv (hqReg h) % 2 ^ 15)) s
    let s := (List.range 8).foldl (fun (s : State) c => s.setNat (0x202000 + 0x40 * c) (s.rv (0x202000 + 0x40 * c) % 2 ^ 15)) s
    let s := (List.range 64).foldl (fun s v =>
      [0, 4, 8, 12].foldl (fun (s : State) o => s.setReg (0x204000 + 0x10 * v + o) (factoryAt (0x204000 + 0x10 * v + o))) s) s
    (s.bump 0x200014).event 536 0x0520
  else s

/-! ### DMA channels (R461 to R465) -/

/-- A channel of the table. -/
def State.dmac (s : State) (c : Nat) : Dma := tabGet {} s.dma c

/-- A channel set. -/
def State.setDma (s : State) (c : Nat) (x : Dma) : State := { s with dma := tabSet {} s.dma c x }

/-- The offset of PCIE.DCTLc; the channel's other registers follow it. -/
def dmaReg (c : Nat) : Nat := 0x202000 + 0x40 * c

/-- The channel has a descriptor to process (R461, R465). -/
def State.dmaDue (s : State) (c : Nat) : Bool :=
  let x := s.dmac c
  match x.st with
  | .running => x.head.toNat != s.rv (dmaReg c + 0x14)
  | .stopping => x.head != x.stopAt
  | _ => false

/-- The channel begins to read its next descriptor, or idles at the end of a stop (R463, R465). -/
def State.dmaNext (s : State) (c : Nat) : State :=
  let x := s.dmac c
  if s.dmaDue c then s.setDma c { x with reading := some s.now }
  else s.setDma c { x with reading := none, st := if x.st = .stopping then .idle else x.st }

/-- A channel stops after the descriptors that have already started (R465). -/
def State.dmaStop (s : State) (c : Nat) : State :=
  let x := s.dmac c
  match x.st with
  | .running =>
    let n := if x.reading.isSome then x.head + 1 else x.head
    s.setDma c { x with st := if n = x.head then .idle else .stopping, stopAt := n }
  | .error => s.setDma c { x with st := .idle }
  | _ => s

/-- Every channel stops (R459). -/
def State.dmaStopAll (s : State) : State := (List.range 8).foldl State.dmaStop s

/-- A write to DCTLc (R461, R465). -/
def dctlWrite (src : Src) (c : BitVec 3) (v : Word) (s : State) : State :=
  let n := c.toNat
  let b := dmaReg n
  let new := maskedWrite (s.rg b) 0xBF0F v
  if 9 ≤ new.toNat % 16 then s.ignored src b 1
  else
    let was := s.rb b 15
    let s := s.setReg b new
    if !was ∧ nbit new.toNat 15 then
      (s.setNat (b + 0x14) 0).setDma n { st := .running, base := s.wideAddr (b + 4), size := new.toNat % 16 }
    else if was ∧ !nbit new.toNat 15 then s.dmaStop n
    else s

/-- DMA_TAIL_WRITE: descriptors handed to the channel (R461). -/
def dtailWrite (c : BitVec 3) (v : Word) (s : State) : State :=
  let n := c.toNat
  let off := dmaReg n + 0x14
  let s := s.setReg off (maskedWrite (s.rg off) 0xFFFF v)
  if (s.dmac n).reading.isNone then s.dmaNext n else s

/-- A descriptor ends: STS and DONEB are written, DHEAD advances, and the vector may be sent; a failed one stops the
channel (R463, R464). -/
def State.dmaEnd (s : State) (c status done : Nat) (irq : Bool) : State :=
  let x := s.dmac c
  let addr := x.base + 32 * (x.head.toNat % 2 ^ (x.size + 4)) + 20
  let s := s.emit (.hostWrite addr (leBytes (1 + status * 256) 4 ++ leBytes done 4))
  let x := { x with head := x.head + 1, lastStatus := BitVec.ofNat 8 status, reading := none, parts := [] }
  let vec := s.rf (dmaReg c) 13 8
  if status = stOk then
    let s := (s.setDma c x).bump (dmaReg c + 0x20)
    (if irq then s.sendMsix vec else s).dmaNext c
  else
    let s := (s.setDma c { x with st := .error }).bump (dmaReg c + 0x24)
    (s.sendMsix vec).fault (528 + c) 0xCA 1 status

/-- The transfers of a descriptor in ascending order from byte `i`: status of the first failure, bytes completed before
it, and their data; none while some transfer has not completed (R464). -/
def dmaWalk (parts : List (Nat × Nat × Nat × List Byte)) (aper len : Nat) :
    Nat → Nat → List (Nat × List Byte) → Option (Nat × Nat × List (Nat × List Byte))
  | 0, _, _ => none
  | k + 1, i, acc =>
    if len ≤ i then some (stOk, i, acc.reverse)
    else match parts.find? (fun p => p.1 == aper + i) with
      | none => none
      | some (_, n, st, d) =>
        if st ≠ stOk then some (st, i, acc.reverse)
        else if n = 0 then none
        else dmaWalk parts aper len k (i + n) ((i, d) :: acc)

/-- DMA_DESCRIPTOR_COMPLETE: the descriptor as host memory holds it. Its transfers are the accesses that the channel made
through the aperture (R462 to R464). -/
def dmaComplete (c : BitVec 3) (desc : List Byte) (s : State) : State :=
  let n := c.toNat
  let x := s.dmac n
  let f (i k : Nat) := leNat (slice desc i k)
  let haddr := f 0 8
  let aper := f 8 4
  let len := f 12 4
  let ctl := f 16 4
  if !s.dmaDue n ∨ x.reading.isNone ∨ desc.length ≠ 32 then s
  else if haddr % 4 ≠ 0 ∨ 2 ^ 30 ≤ aper ∨ len = 0 ∨ 1048576 < len ∨ len % 4 ≠ 0 ∨ 8 ≤ ctl ∨ f 28 4 ≠ 0 then
    s.dmaEnd n stFormat 0 false
  else match dmaWalk x.parts aper len (x.parts.length + 1) 0 [] with
    | none => s
    | some (st, done, data) =>
      let s := if nbit ctl 0 then data.foldl (fun s e => s.emit (.hostWrite (haddr + e.1) e.2)) s else s
      s.dmaEnd n st done (nbit ctl 1)

/-- DMA_HOST_READ_TIMEOUT: a read of host memory without a completion in 50 ms (R464). -/
def dmaTimeout (c : BitVec 3) (s : State) : State :=
  let n := c.toNat
  match (s.dmac n).reading with
  | some t =>
    if s.dmaDue n then
      let s := (s.advanceTo (t + 31250000)).bump 0x200018
      s.dmaEnd n stTimeout ((s.dmac n).parts.foldl (fun k p => if p.2.2.1 = stOk then k + p.2.1 else k) 0) false
    else s
  | none => s

/-! ### What the registers show -/

/-- The live EVT registers. -/
def State.evtView (s : State) (off : Nat) : Option Nat :=
  if 0x0F3000 ≤ off ∧ off < 0x0F3200 ∧ off % 0x20 = 0x14 then
    let q := (off - 0x0F3000) / 0x20
    let x := s.queue q
    let n := x.recs.length
    some (n + bitAt (decide (s.af (qBase q + 0xC) 8 0 < n)) 9 + bitAt (decide (256 ≤ n)) 10 + bitAt x.gapPend 11)
  else none

/-- The code of a DMA state (DSTAT.STATE). -/
def DmaState.code : DmaState → Nat
  | .idle => 0 | .running => 1 | .error => 2 | .stopping => 3

/-- The live PCIE registers. -/
def State.pcieView (s : State) (off : Nat) : Option Nat :=
  let p := s.pcie
  if off = 0x20000C then
    some (bitAt p.linkUp 0 + p.speed.toNat * 2 + p.width.toNat * 16 + p.dstate.toNat * 128 + bitAt p.bme 9 +
      bitAt p.msixEn 10 + bitAt p.fmask 11)
  else if 0x200400 ≤ off ∧ off < 0x201400 ∧ off % 0x40 = 0x30 then
    let h := (off - 0x200400) / 0x40
    let x := s.hq h
    some (x.prod.toNat + bitAt (s.hqFull h) 16 + bitAt x.gapPend 17)
  else if 0x202000 ≤ off ∧ off < 0x202200 then
    let x := s.dmac ((off - 0x202000) / 0x40)
    match off % 0x40 with
    | 0x18 => some x.head.toNat
    | 0x1C => some (x.st.code + x.lastStatus.toNat * 256)
    | _ => none
  else if off = 0x205000 then some (p.pba.toNat % 2 ^ 32)
  else if off = 0x205004 then some (p.pba.toNat / 2 ^ 32)
  else none

end Sys2Proof.Machine
end

