-- ==== Sys2Proof/Machine/TimeOps.lean ====
section
/-! DEFINITION. The time unit (08): sources, time frames, the servo and its states, refusal and acceptance, 1PPS, and
the measurement of link delay. -/

namespace Sys2Proof.Machine

/-! ### Settings -/

/-- TIME.CTRL.ROLE (R202). -/
def State.timeRole (s : State) : Nat := s.rf 0x080000 7 6

/-- TIME.CTRL.FORM: the seconds/nanoseconds form (R216). -/
def State.timeForm (s : State) : Bool := s.rb 0x080000 5

/-- The interval I of R210 in ticks for an interval code: 125 µs × 2^code. -/
def intervalTicks (code : Nat) : Nat := 78125 * 2 ^ code

/-- The threshold of R212 in 2^-16 ns. -/
def State.stepThr (s : State) : Int := (s.ap 0x08000C * 65536 : Nat)

/-- Ticks from now until fabric time is at or after an instant (R198). -/
def State.ticksUntil (s : State) (t : BitVec 80) : Nat :=
  let d := tdiff t s.ft
  if d ≤ 0 then 0
  else
    let r := s.time.rate.toNat
    let c := s.tickCount
    (2 ^ 30 * (r * c / 2 ^ 30 + d.toNat) - r * c + (r - 1)) / r

/-- The passage of time until fabric time is at or after an instant. -/
def State.advanceFt (s : State) (t : BitVec 80) : State := s.advanceTo (s.now + s.ticksUntil t)

/-! ### Link delay (R215) -/

/-- The probe of a port. -/
def State.probe (s : State) : Link → Probe
  | .w => s.time.probeW
  | .e => s.time.probeE
  | .t => {}

/-- The probe of a port set. -/
def State.setProbe (s : State) (l : Link) (x : Probe) : State :=
  match l with
  | .w => { s with time := { s.time with probeW := x } }
  | .e => { s with time := { s.time with probeE := x } }
  | .t => s

/-- TIME.LDADJW or LDADJE in 2^-16 ns; the twin port has none. -/
def State.ldAdj (s : State) : Link → Int
  | .w => toSigned 16 (s.ap 0x08001C) * 4096
  | .e => toSigned 16 (s.ap 0x080020) * 4096
  | .t => 0

/-- The delay of a link (TIME.LDLYW, TIME.LDLYE): the mean of the accepted values plus the adjustment; the adjustment
alone, with negative values taken as 0, while there are none or PROBE = 0 (R215). -/
def State.ldly (s : State) (l : Link) : Int :=
  let acc := (s.probe l).accepted
  if acc.isEmpty ∨ s.ap 0x080014 = 0 then max 0 (s.ldAdj l)
  else truncDiv (acc.foldl (· + ·) 0) acc.length + s.ldAdj l

/-- PROBE_SEND: a probe leaves on the ring, and an exchange opens on each ring port that is UP (R215). -/
def timeProbeSend (s : State) : State :=
  if s.ap 0x080014 = 0 ∨ !(s.linkIsUp .w || s.linkIsUp .e) then s
  else
    let q := s.time.probeSeq + 1
    let s := { s with time := { s.time with probeSeq := q } }
    let open_ (s : State) (l : Link) : State :=
      if s.linkIsUp l then s.setProbe l { s.probe l with seq := q, since := some s.now, t1 := none, t4 := none } else s
    ((open_ (open_ s .w) .e)).probeFrame [2, q]

/-- The hops a frame delivered here has travelled (R208). -/
def State.hopsTravelled (s : State) (d : Delivered) : Nat := (s.rv 0x050004 + 4096 - d.h.hops.toNat) % 4096

/-- The oldest waiting supervision frame of a kind of R215. -/
def State.takeProbe (s : State) (kind : Nat) : Option (Delivered × State) :=
  match s.fwd.inbox.find? (fun d => d.sink == .probe && (d.payload.headD 0).toNat == kind) with
  | none => none
  | some d => some (d, { s with fwd := { s.fwd with inbox := s.fwd.inbox.erase d } })

/-- Byte i of a payload. -/
def byteAt (l : List Byte) (i : Nat) : Byte := (slice l i 1).headD 0

/-- PROBE_RECEIVED: a probe that has travelled one hop is answered at once (R215). -/
def timeProbeReceived (s : State) : State :=
  match s.takeProbe 2 with
  | none => s
  | some (d, s) =>
    if s.hopsTravelled d ≠ 1 then s
    else
      let q := byteAt d.payload 1
      let s := { s with time := { s.time with answers := (s.time.answers ++ [(q, d.port, d.arrival)]) } }
      s.probeFrame [3, q, BitVec.ofNat 8 (linkFn d.port)]

/-- An answer or follow-up belongs to the open exchange of the port it arrived on (R215). -/
def State.probeMatches (s : State) (d : Delivered) : Bool :=
  let x := s.probe d.port
  s.hopsTravelled d == 1 && x.since.isSome && byteAt d.payload 1 == x.seq &&
    (byteAt d.payload 2).toNat % 2 == linkFn (oppositePort d.port)

/-- PROBE_ANSWER_RECEIVED: the arrival t4 is recorded (R215). -/
def timeProbeAnswer (s : State) : State :=
  match s.takeProbe 3 with
  | none => s
  | some (d, s) =>
    if s.probeMatches d then s.setProbe d.port { s.probe d.port with t4 := some d.arrival } else s

/-- PROBE_FOLLOW_UP_RECEIVED: the exchange is accepted and its delay taken (R215). -/
def timeProbeFollowUp (s : State) : State :=
  match s.takeProbe 4 with
  | none => s
  | some (d, s) =>
    let x := s.probe d.port
    match x.since, x.t1, x.t4 with
    | some since, some t1, some t4 =>
      if s.probeMatches d ∧ s.now ≤ since + 625000 then
        let turn := toSigned 64 (beNat (slice d.payload 4 8))
        let v := truncDiv (tdiff t4 t1 - turn) 2
        s.setProbe d.port { x with since := none, accepted := (v :: x.accepted).take 16 }
      else s
    | _, _, _ => s

/-- PROBE_EXCHANGE_TIMEOUT: an exchange without a follow-up within 1 ms has failed (R215). -/
def timeProbeTimeout (l : Link) (s : State) : State :=
  match (s.probe l).since with
  | none => s
  | some t =>
    let s := s.advanceTo (t + 625000)
    ((s.setProbe l { s.probe l with since := none }).bump 0x0800CC).faultEvery 625000000 642 0x74 0 (linkFn l)

/-! ### Sources (R202, R203, R205) -/

/-- Rank of a source: (priority, node, slot), the lowest first (R203). -/
def rankOf (prio : BitVec 8) (node : BitVec 12) (slot : BitVec 1) : Nat :=
  prio.toNat * 8192 + node.toNat * 2 + slot.toNat

/-- The rank of a source heard. -/
def Heard.rank (h : Heard) : Nat := rankOf h.prio h.node h.slot

/-- This hub's own rank. -/
def State.ownRank (s : State) : Nat := rankOf (BitVec.ofNat 8 (s.rv 0x080004)) s.ident.number s.slot

/-- The sources heard within their last 3 intervals. -/
def State.heardNow (s : State) : List Heard := s.time.heard.filter (fun h => decide (s.now < h.last + 3 * h.ival))

/-- The best of some sources. -/
def bestOf (l : List Heard) : Option Heard :=
  l.foldl (fun m h => match m with
    | none => some h
    | some b => if h.rank < b.rank then some h else some b) none

/-- The better sources heard within the last 3 intervals (R203). -/
def State.betterHeard (s : State) : List Heard := s.heardNow.filter (fun h => decide (h.rank < s.ownRank))

/-- ACQUIRE with a step (R211). -/
def State.acquireStep (s : State) : State :=
  { s with time := { s.time with sync := .acquire, stepFirst := true, appliedOnce := false, good := 0, over200 := 0 } }

/-- ACQUIRE without a step (R211). -/
def State.acquirePlain (s : State) : State :=
  { s with time := { s.time with sync := .acquire, stepFirst := false, good := 0, over200 := 0 } }

/-- Fabric time runs at the base rate. -/
def State.runAtBase (s : State) : State := s.setRate s.time.base s.time.base

/-- A source begins to send time frames (R203, R206). -/
def State.startSending (s : State) : State :=
  let s := { s.acquirePlain with time := { s.acquirePlain.time with
    sending := true, sendAt := s.now, depW := 0, depE := 0, current := none, arrW := none, arrE := none } }
  if s.timeRole = 2 then s else { s with time := { s.time with sync := .free } }

/-- The synchronisation state that TIME.STAT shows (R211). -/
def State.syncShown (s : State) : Sync :=
  if !s.running 6 || s.timeRole == 3 || (s.time.sending && s.timeRole != 2) then .free else s.time.sync

/-- The code of a synchronisation state. -/
def Sync.code : Sync → Nat
  | .free => 0 | .acquire => 1 | .locked => 2 | .holdover => 3 | .refusing => 4 | .slewing => 5

/-- Function 6 enters RUNNING: a source sends unless it hears a better one, every other hub acquires with a step
(R203, R218). -/
def State.timeRunning (s : State) : State :=
  if s.timeRole = 3 then { s with time := { s.time with sync := .free, sending := false } }
  else if s.timeForm then s.acquireStep
  else if s.timeRole ≠ 0 ∧ s.betterHeard.isEmpty then s.startSending
  else s.acquireStep

/-- Function 6 starts with fresh state. -/
def State.timeFresh (s : State) : State :=
  { s with time := { s.time with heard := [], current := none, arrW := none, arrE := none, prevW := none, prevE := none
                                 lastSeq := none, dir := false, fallen := false, miss := 0, back := 0, both := false, pend := 0
                                 err := 0, dirdiff := 0, ppsSeen := false, ppsArmed := false } }

/-- Function 6 leaves RUNNING: fabric time runs on at the last base rate (R218). -/
def State.timeStopped (s : State) : State :=
  { s.runAtBase with time := { s.runAtBase.time with sending := false, sync := .free } }

/-! ### The servo (R199, R210) -/

/-- The limits of the base rate: the nominal rate ± 200 ppm (R199). -/
def rateLow : Nat := 0x666666666666 - 0x666666666666 * 200 / 1000000
/-- The upper limit. -/
def rateHigh : Nat := 0x666666666666 + 0x666666666666 * 200 / 1000000

/-- One error passes through the servo over an interval of I ticks (R210), with the clamp of R199. -/
def State.servo (s : State) (e : Int) (i : Nat) : State :=
  let kp := s.af 0x080010 3 0
  let ki := s.af 0x080010 7 4
  let want : Int := s.time.base.toNat + roundDiv (e * 2 ^ 30) (i * 2 ^ ki)
  let up := decide ((rateHigh : Int) < want)
  let clamp := up || decide (want < (rateLow : Int))
  let base : Nat := if up then rateHigh else if clamp then rateLow else want.toNat
  let run : Int := base + roundDiv (e * 2 ^ 30) (i * 2 ^ kp)
  let s := s.setRate (BitVec.ofNat 48 base) (BitVec.ofInt 48 run)
  let s := { s with time := { s.time with clamp := clamp, servoEnd := s.now + i } }
  if clamp then s.fault 640 0x73 1 (if up then 1 else 0) else s

/-- SERVO_INTERVAL_END: the proportional term has had its interval (R210). -/
def timeServoEnd (s : State) : State :=
  if s.syncShown = .slewing ∨ s.time.rate = s.time.base then s
  else (s.advanceTo s.time.servoEnd).runAtBase

/-- While SLEWING fabric time runs SLEWMAX ppm beside the base rate, in the direction that reduces e (R213). -/
def State.slewRate (s : State) : State :=
  let x := s.time.base.toNat * s.ap 0x080018 / 1000000
  s.setRate s.time.base (BitVec.ofNat 48 (if 0 ≤ s.time.pend then s.time.base.toNat + x else s.time.base.toNat - x))

/-- 50 ns and 200 ns in units of 2^-16 ns (R211). -/
def nsUnits (n : Nat) : Nat := n * 65536

/-- One value of e is applied or refused, with the changes of state of R211 to R213. `path` is 0 for the clockwise
copy. -/
def State.applyError (s : State) (e : Int) (path i : Nat) : State :=
  let st := s.time.sync
  let s := { s with time := { s.time with err := e } }
  if st = .acquire ∧ s.time.stepFirst then
    -- a step of fabric time moves every anchor with it (R251)
    let s := s.stepTime e
    { s with time := { s.time with stepFirst := false, appliedOnce := true, good := 0, over200 := 0 } }
  else if s.stepThr < (e.natAbs : Int) then
    let s := { s with time := { s.time with pend := e } }
    match st with
    | .slewing => s.slewRate
    | .refusing => s
    | _ => (({ s.runAtBase with time := { s.runAtBase.time with sync := .refusing } }).bump 0x0800C0).fault 640 0x70 1 path
  else
    let s := match st with
      | .refusing | .slewing | .holdover => s.acquirePlain
      | _ => s
    let s := (({ s with time := { s.time with appliedOnce := true } } : State)).servo e i
    match s.time.sync with
    | .acquire =>
      let good := if e.natAbs ≤ nsUnits 50 then s.time.good + 1 else 0
      if 8 ≤ good then { s with time := { s.time with sync := .locked, good := 0, over200 := 0 } }
      else { s with time := { s.time with good := good } }
    | .locked =>
      let far := if nsUnits 200 < e.natAbs then s.time.over200 + 1 else 0
      if 4 ≤ far then s.acquirePlain else { s with time := { s.time with over200 := far } }
    | _ => s

/-! ### Time frames (R206 to R209) -/

/-- TIME_FRAME_SEND: a sending source sends a frame every interval (R206). -/
def timeFrameSend (s : State) : State :=
  if !s.running 6 || !s.time.sending || s.timeForm then s
  else
    let s := s.advanceTo s.time.sendAt
    let code := s.ap 0x080008
    let body := beBytes s.time.sendSeq.toNat 2 ++ [BitVec.ofNat 8 (s.rv 0x080004)] ++
      beBytes (code + bitAt s.time.ppsSeen 3) 1 ++ beBytes s.time.gen.toNat 2 ++ [0, 0] ++
      beBytes s.time.depE.toNat 10 ++ beBytes s.time.depW.toNat 10 ++ [0, 0, 0, 0]
    let s := { s with time := { s.time with
      sendSeq := s.time.sendSeq + 1, sendAt := s.now + intervalTicks code, depW := 0, depE := 0 } }
    s.originate { cls := 0, typ := 1, mc := true, dest := 0xFFF } body

/-- BETTER_SOURCE_TIMEOUT: 3 intervals after the last frame from every better source, a source starts to send
(R203). -/
def timeBetterTimeout (s : State) : State :=
  if !s.running 6 || s.timeForm || s.time.sending || !(s.timeRole == 1 || s.timeRole == 2) then s
  else
    let due := (s.time.heard.filter (fun h => decide (h.rank < s.ownRank))).foldl
      (fun m h => max m (h.last + 3 * h.ival)) 0
    (s.advanceTo due).startSending

/-- The arrival of the last copy on a path: false is the clockwise copy, which arrives on port W (R209). -/
def State.lastArrival (s : State) (p : Bool) : Option Arrival :=
  let (a, b) := if p then (s.time.arrE, s.time.prevE) else (s.time.arrW, s.time.prevW)
  match a with
  | some x => some x
  | none => b

/-- The path that DIRMODE or the hops choose (R209); true is port E. -/
def State.preferE (s : State) : Bool :=
  match s.rf 0x080000 3 2 with
  | 1 => false
  | 2 => true
  | _ => match s.lastArrival false, s.lastArrival true with
    | some w, some e => decide (e.hops < w.hops)
    | none, some _ => true
    | _, none => false

/-- The error of one path for frame n, from the previous frame's arrival on it (R208): the corrections made since are
taken off, so that e is computed against the time as they left it (R213). -/
def State.pathError (s : State) (p : Bool) (n : BitVec 16) (payload : List Byte) : Option Int :=
  match (if p then s.time.prevE else s.time.prevW) with
  | none => none
  | some a =>
    -- copies that arrive on port W are clockwise: bytes 8 to 17
    let d : Nat := beNat (slice payload (if p then 18 else 8) 10)
    if a.seq ≠ n - 1 ∨ d = 0 then none
    else
      let corr := toSigned 64 a.corr.toNat
      let raw : BitVec 80 := BitVec.ofNat 80 d + BitVec.ofInt 80 corr + BitVec.ofInt 80 (s.ldly (if p then .e else .w))
      some (tdiff raw a.at_ - (s.correctionsNow - a.corrections) / 2 ^ 30)

/-- Which paths gave a copy of the frame before, and so the path in use (R209). -/
def State.pathStep (s : State) (n : BitVec 16) : State :=
  let t := s.time
  let prev := decide (t.lastSeq = some (n - 1))
  let got (p : Bool) : Bool := prev && (if p then t.arrE.isSome else t.arrW.isSome)
  let pref := s.preferE
  let miss := if got pref then 0 else t.miss + 1
  let back := if got pref then t.back + 1 else 0
  let fallen := if t.fallen then decide (back < 3) else decide (3 ≤ miss)
  { s with time := { t with
    miss := miss, back := back, fallen := fallen, dir := pref != fallen, lastSeq := some n
    prevW := if t.arrW.isSome then t.arrW else t.prevW, prevE := if t.arrE.isSome then t.arrE else t.prevE
    arrW := none, arrE := none } }

/-- The difference of the two paths' errors, when both gave one (R209). -/
def State.pathDiff (s : State) (ew ee : Option Int) : State :=
  match ew, ee with
  | some a, some b => { s with time := { s.time with dirdiff := a - b } }
  | _, _ => s

/-- The first copy of a new frame n: the previous frame's copies are judged for the choice of path, and the error of
the path in use is taken (R208, R209). -/
def State.newTimeFrame (s : State) (n : BitVec 16) (payload : List Byte) : State :=
  let t := s.time
  if t.lastSeq.isNone then { s with time := { t with lastSeq := some n } }
  else
    let s := s.pathStep n
    let dir := s.time.dir
    let changed := dir != t.dir && (t.prevW.isSome || t.prevE.isSome)
    let s := if changed then (s.bump 0x0800C4).fault 641 0x72 0 0 else s
    let ew := s.pathError false n payload
    let ee := s.pathError true n payload
    let s := s.pathDiff ew ee
    match (if dir then ee else ew) with
    | none => s
    | some e =>
      let h := ((if dir then s.time.prevE else s.time.prevW).map (fun a => a.hops)).getD 0
      ({ s with time := { s.time with curHops := BitVec.ofNat 12 h } }).applyError e (if dir then 1 else 0)
        (intervalTicks (s.ap 0x080008))

/-- A copy of frame n arrives on its path (R208). -/
def State.timeCopy (s : State) (d : Delivered) (n : BitVec 16) : State :=
  let s := if s.time.lastSeq = some n then s else s.newTimeFrame n d.payload
  let a : Arrival := { seq := n, at_ := d.arrival, corr := d.h.corr, hops := s.hopsTravelled d, corrections := d.corrections }
  let s := match d.port with
    | .e => { s with time := { s.time with arrE := some a } }
    | _ => { s with time := { s.time with arrW := some a } }
  { s with time := { s.time with both := s.time.arrW.isSome && s.time.arrE.isSome } }

/-- A source is heard by a frame (R203). -/
def State.heardBy (s : State) (src : Heard) : State :=
  let others := s.time.heard.filter (fun h => !(h.node == src.node && h.slot == src.slot))
  { s with time := { s.time with heard := src :: others } }

/-- A hub that sends stops sending when it hears a better source (R203). -/
def State.yieldSource (s : State) : State :=
  if s.time.sending && !s.betterHeard.isEmpty then
    ({ s with time := { s.time with sending := false } }).acquireStep else s

/-- The source in use; another one than before starts over (R203, R208). -/
def State.takeSource (s : State) (src : Heard) : State :=
  let same := match s.time.current with
    | some c => c.node == src.node && c.slot == src.slot && c.gen == src.gen
    | none => false
  let s := if s.time.current.isSome ∧ !same then (s.bump 0x0800C8).fault 641 0x72 0 1 else s
  let s := if same then s else
    { s with time := { s.time with lastSeq := none, arrW := none, arrE := none, prevW := none, prevE := none
                                   miss := 0, back := 0 } }
  { s with time := { s.time with current := some src } }

/-- TIME_FRAME_RECEIVED: a delivered time frame (R203, R208). -/
def timeFrameReceived (s : State) : State :=
  match s.takeInbox .time with
  | none => s
  | some (d, s) =>
    if !s.running 6 || s.timeRole == 3 || s.timeForm || d.payload.length != 32 then s
    else
      let src : Heard := {
        prio := byteAt d.payload 2, node := d.h.src, slot := d.h.sslot, gen := BitVec.ofNat 16 (beNat (slice d.payload 4 2))
        last := s.now, ival := intervalTicks ((byteAt d.payload 3).toNat % 8) }
      let s := (s.heardBy src).yieldSource
      if s.time.sending then s
      else
        let s := { s with time := { s.time with lastFrame := s.now } }
        match bestOf s.heardNow with
        | none => s
        | some b =>
          if b.node ≠ src.node ∨ b.slot ≠ src.slot then s
          else (s.takeSource src).timeCopy d (BitVec.ofNat 16 (beNat (slice d.payload 0 2)))

/-- The checkpoint period in ticks: 0.25 ms × 2^CKPER (R502). -/
def State.ckPeriod (s : State) : Nat := 156250 * 2 ^ s.rf 0x041000 11 9

/-- HOLDOVER_ENTRY: no frame from any source for 3 intervals (R211, R214). -/
def timeHoldover (s : State) : State :=
  let st := s.time.sync
  if !s.running 6 || s.timeRole == 3 || s.timeForm || s.time.sending || !s.time.appliedOnce || st == .holdover ||
      st == .free then s
  else
    let i := if s.pair.role = .resting ∧ s.pair.sync ≠ .none then s.ckPeriod
      else match s.time.current with
        | some c => c.ival
        | none => intervalTicks (s.ap 0x080008)
    let s := s.advanceTo (s.time.lastFrame + 3 * i)
    (({ s.runAtBase with time := { s.runAtBase.time with sync := .holdover } }).fault 641 0x71 1 0)

/-! ### Commands (R205, R213) -/

/-- ACCEPTSTEP while REFUSING: PEND is added to fabric time, with every anchor, and ACQUIRE entered with a step (R213,
R233). -/
def timeAcceptStep (s : State) : State :=
  if s.syncShown = .refusing then (s.stepTime s.time.pend).acquireStep else s.bump 0x0800D0

/-- SLEW while REFUSING (R213). -/
def timeSlew (s : State) : State :=
  if s.syncShown = .refusing then ({ s with time := { s.time with sync := .slewing } }).slewRate else s.bump 0x0800D0

/-- The fabric time that TIME.SNLOAD gives: SEC × 10^9 + NS with a zero fraction (R205). -/
def State.snLoad (s : State) : BitVec 80 :=
  let ns := s.rv 0x080028 + s.rv 0x08002C * 2 ^ 16
  let sec := s.rv 0x080030 + s.rv 0x080034 * 2 ^ 16 + s.rv 0x080038 * 2 ^ 32
  BitVec.ofNat 80 ((sec * 1000000000 + ns) * 65536)

/-- Fabric time is loaded, with every anchor, and the source generation rises (R205, R233). -/
def State.loadTime (s : State) : State :=
  let s := s.stepTime (tdiff s.snLoad s.ft)
  { s with time := { s.time with gen := s.time.gen + 1, ppsArmed := false } }

/-- LOADNOW (R205). -/
def timeLoadNow (src : Src) (s : State) : State :=
  if s.timeRole = 0 then s.ignored src 0x080024 1 else s.loadTime

/-- ARMPPS (R205). -/
def timeArmPps (src : Src) (s : State) : State :=
  if s.timeRole = 0 then s.ignored src 0x080024 1 else { s with time := { s.time with ppsArmed := true } }

/-- A write to TIME.CMD. -/
def timeCmd (src : Src) (v : Nat) (s : State) : State :=
  match v % 16 with
  | 1 => timeAcceptStep s
  | 2 => timeSlew s
  | 3 => timeLoadNow src s
  | 4 => timeArmPps src s
  | _ => s.ignored src 0x080024 1

/-! ### 1PPS (R204, R216, R217) -/

/-- Distance in 2^-16 ns from a fabric time to the nearest whole multiple of 10^9 ns (R204). -/
def toWholeSecond (t : BitVec 80) : Int :=
  let m := 1000000000 * 65536
  let r := t.toNat % m
  if 2 * r < m then -(r : Int) else (m : Int) - r

/-- PPS_EDGE: an edge at PPS_IN of some direction (R204, R205, R216). -/
def timePpsEdge (falling : Bool) (s : State) : State :=
  if falling ≠ s.rb 0x080000 4 ∨ !s.running 6 then s
  else
    let s := if s.time.ppsArmed then s.loadTime else s
    if s.timeRole ≠ 2 then s
    else if s.timeForm then
      let d := toWholeSecond s.ft
      { s with time := { s.time with offset := s.time.offset + BitVec.ofInt 80 d, ppsSeen := true, ppsLast := s.now
                                     ppsTime := BitVec.ofNat 64 s.ns } }
    else
      let e := toWholeSecond s.ft
      let s := { s with time := { s.time with ppsSeen := true, ppsLast := s.now, ppsTime := BitVec.ofNat 64 s.ns } }
      if s.time.sending then s.applyError e 0 625000000 else s

/-- PPS_TIMEOUT: no edge for 1.1 s (R204). -/
def timePpsTimeout (s : State) : State :=
  if !s.running 6 || s.timeRole != 2 || !s.time.ppsSeen then s
  else
    let s := s.advanceTo (s.time.ppsLast + 687500000)
    let s := if s.time.sending then s.runAtBase else s
    ({ s with time := { s.time with ppsSeen := false } }).fault 643 0x75 1 0

/-- PPS_OUT_RISE: fabric time passes a whole multiple of 10^9 ns with CTRL.PPSOUT = 1 (R217). -/
def timePpsOutRise (s : State) : State :=
  if !s.rb 0x080000 1 || s.time.ppsOut then s
  else
    let s := s.advanceFt (BitVec.ofNat 80 ((s.ns / 1000000000 + 1) * 1000000000 * 65536))
    ({ s with time := { s.time with ppsOut := true, ppsRise := s.now } }).emit (.ppsOut true)

/-- PPS_OUT_FALL: 100 ms later (R217). -/
def timePpsOutFall (s : State) : State :=
  if s.time.ppsOut then
    let s := s.advanceTo (s.time.ppsRise + 62500000)
    ({ s with time := { s.time with ppsOut := false } }).emit (.ppsOut false)
  else s

/-! ### What the registers show (08, "TIME registers") -/

/-- A signed measurement, saturating, as 32 bits. -/
def sat32 (z : Int) : Nat := ofSigned 32 (satSigned 32 z)

/-- The live TIME registers. -/
def State.timeView (s : State) (off : Nat) : Option Nat :=
  let w (n : Nat) (k : Nat) := n / 2 ^ (32 * k) % 2 ^ 32
  let pend := ofSigned 64 s.time.pend
  match off with
  | 0x080040 => some (bitAt s.time.both 7 + bitAt s.timeForm 6 + bitAt s.time.ppsSeen 5 + bitAt s.time.clamp 4 +
      bitAt s.time.dir 3 + s.syncShown.code)
  | 0x080044 => some (match s.time.current with
      | some c => c.node.toNat * 2 ^ 20 + c.slot.toNat * 2 ^ 19 + s.time.curHops.toNat * 2 ^ 7
      | none => 0xFFF00000)
  | 0x080048 => some (match s.time.current with
      | some c => c.prio.toNat * 2 ^ 24 + c.gen.toNat
      | none => 0)
  | 0x080050 => some (s.ft.toNat % 2 ^ 32)
  | 0x080054 => some (w s.ft.toNat 1)
  | 0x080058 => some (w s.ft.toNat 2)
  | 0x08005C => some (w s.tickCount 0)
  | 0x080060 => some (w s.tickCount 1)
  | 0x080064 => some (w s.time.base.toNat 0)
  | 0x080068 => some (w s.time.base.toNat 1)
  | 0x08006C => some (w pend 0)
  | 0x080070 => some (w pend 1)
  | 0x080074 => some (w s.time.ppsTime.toNat 0)
  | 0x080078 => some (w s.time.ppsTime.toNat 1)
  | 0x08007C => some (s.ns % 1000000000)
  | 0x080080 => some (w (s.ns / 1000000000) 0)
  | 0x080084 => some (w (s.ns / 1000000000) 1)
  | 0x080090 => some (sat32 s.time.err)
  | 0x080094 => some (sat32 s.time.dirdiff)
  | 0x080098 => some ((max 0 (s.ldly .w)).toNat % 2 ^ 32)
  | 0x08009C => some ((max 0 (s.ldly .e)).toNat % 2 ^ 32)
  | _ => none

end Sys2Proof.Machine
end

