-- ==== Sys2Proof/Machine/AxisOps.lean ====
section
/-! DEFINITION. Position axes (09): samples, the estimator and its states. -/

namespace Sys2Proof.Machine

/-- A sample of an axis as R224 lays it out. -/
structure Sample where
  hold : Bool
  encerr : Bool
  zset : Bool
  t : BitVec 80
  z : Word
  slot : BitVec 1
deriving DecidableEq, Repr

/-- The register base of axis a, and its live values. -/
def axBase (a : Nat) : Nat := 0x090000 + 0x40 * a

/-- A signed difference of two positions in 2^-16 counts (R234). -/
def pdiff (a b : BitVec 48) : Int := (a - b).toInt

/-- A count as a position with zero fraction. -/
def countPos (z : Word) : BitVec 48 := BitVec.ofNat 48 (z.toNat * 65536)

/-- D of R229: whole nanoseconds, at least 1. -/
def sampleD (x : Axis) (t : BitVec 80) : Int :=
  let d := roundDiv (tdiff t x.t0) 65536
  if d = 0 then 1 else d

/-- Quotient by a possibly negative divisor, rounded toward zero. -/
def truncDivI (n d : Int) : Int := if d < 0 then truncDiv (-n) d.natAbs else truncDiv n d.natAbs

/-- The first sample of an acquisition (R229). -/
def Axis.firstSample (x : Axis) (p : Sample) : Axis :=
  { x with st := .acquiring, p0 := countPos p.z, v := 0, acc := 0, t0 := p.t, acq := 1, rejRun := 0, slot := p.slot
           armed := true }

/-- The second sample of an acquisition (R229). -/
def Axis.secondSample (x : Axis) (p : Sample) : Axis :=
  let r := pdiff (countPos p.z) (x.eval p.t)
  let v := satSigned 40 (truncDivI (r * 65536) (sampleD x p.t))
  { x with p0 := countPos p.z, v := BitVec.ofInt 40 v, acc := 0, t0 := p.t, res := r, slot := p.slot, armed := true }

/-- The full update with gains GA, GB and GG (R229). -/
def Axis.update (x : Axis) (p : Sample) (ga gb gg : Nat) : Axis :=
  let d := sampleD x p.t
  let pp := x.eval p.t
  let r := pdiff (countPos p.z) pp
  let vp := x.v.toInt + truncDiv (x.acc.toInt * d) (2 ^ 32)
  let v := satSigned 40 (vp + truncDivI (gb * r) d)
  let acc := satSigned 32 (x.acc.toInt + truncDivI (gg * r * 2 ^ 25) (d * d))
  { x with p0 := pp + BitVec.ofInt 48 (roundDiv (ga * r) 65536), v := BitVec.ofInt 40 v, acc := BitVec.ofInt 32 acc
           t0 := p.t, res := r, rejRun := 0, slot := p.slot, armed := true }

/-- A new state of an axis; leaving STALE raises event kind 0x0180 with the new state (R227). -/
def State.axisTo (s : State) (a : Nat) (x : Axis) : State :=
  let was := (s.axis a).st
  let s := s.setAxis a x
  if was = .stale ∧ x.st ≠ .stale then s.eventP (400 + a) 0x0180 x.st.code else s

/-- A re-initialisation from a sample, with its cause (R230). -/
def State.axisReinit (s : State) (a : Nat) (p : Sample) (cause : Nat) : State :=
  ((s.axisTo a ((s.axis a).firstSample p)).bump (axBase a + 0x202C)).fault (400 + a) 0x7C 0 cause

/-- A sample that is applied, or rejected by the jump check (R229 to R231). -/
def State.axisApply (s : State) (a : Nat) (p : Sample) : State :=
  let x := s.axis a
  let b := axBase a
  let ga := s.ap (b + 0x18)
  let gb := s.ap (b + 0x1C)
  let gg := s.ap (b + 0x20)
  let done (s : State) (x : Axis) : State := (s.axisTo a x).bump (b + 0x202C)
  match x.st with
  | .off => s
  | .none | .stale => done s (x.firstSample p)
  | _ =>
    if p.zset then s.axisReinit a p 1
    else if p.slot ≠ x.slot then s.axisReinit a p 2
    else if x.st = .acquiring then
      let y := if x.acq = 1 then x.secondSample p else x.update p ga gb gg
      let n := x.acq + 1
      done s { y with acq := n, st := if s.ap (b + 0x28) ≤ n then .tracking else .acquiring }
    else
      let r := pdiff (countPos p.z) (x.eval p.t)
      if s.ap (b + 0x24) * 65536 < r.natAbs then
        let s := (s.setAxis a { x with rejRun := x.rejRun + 1, res := r }).bump (b + 0x2034)
        let s := s.fault (400 + a) 0x79 0 a
        if 3 ≤ x.rejRun + 1 then s.axisReinit a p 0 else s
      else done s { x.update p ga gb gg with st := .tracking }

/-- A sample that passed the checks of R225: ENCERR and HOLD samples are not applied (R231). -/
def State.axisAccept (s : State) (a : Nat) (p : Sample) : State :=
  let x := s.axis a
  let s := s.setAxis a { x with encerr := p.encerr }
  if p.encerr then
    let s := s.bump (axBase a + 0x203C)
    if x.armed then (s.setAxis a { s.axis a with armed := false }).fault (400 + a) 0x7A 1 a else s
  else if p.hold then s
  else s.axisApply a p

/-- The sample that a payload spells (R224). -/
def sampleOf (payload : List Byte) (slot : BitVec 1) : Sample :=
  let q := (byteAt payload 2).toNat
  { hold := nbit q 0, encerr := nbit q 1, zset := nbit q 2, t := BitVec.ofNat 80 (beNat (slice payload 4 10))
    z := BitVec.ofNat 32 (beNat (slice payload 16 4)), slot := slot }

/-- The age and order checks of R225 on a sample for axis a, then its acceptance. -/
def State.axisCheck (s : State) (a : Nat) (p : Sample) : State :=
  let x := s.axis a
  let age := tdiff s.ft p.t
  let early := decide (age < -(nsUnits 4000 : Int))
  let late := decide ((nsUnits (s.ap (axBase a + 0x14) * 1000) : Int) < age)
  if early || late then
    (s.bump (axBase a + 0x2038)).fault (400 + a) 0x7B 0 (if early then 1 else 0)
  else if x.st ≠ .none ∧ tdiff p.t x.t0 ≤ 0 then s
  else s.axisAccept a p

/-- AXIS_SAMPLE_RECEIVED: a delivered sample (R225). -/
def axisSampleReceived (s : State) : State :=
  match s.takeInbox .axis with
  | none => s
  | some (d, s) =>
    let a := d.h.tag.toNat % 64
    let node := s.rf (axBase a) 11 0
    let fromSource := d.h.src.toNat == node || (node == 0xFFF && d.h.src == s.ident.number)
    if !s.running (64 + a) || !fromSource || d.payload.length < 20 || (byteAt d.payload 3).toNat != a then s
    else s.axisCheck a (sampleOf d.payload d.h.sslot)

/-- AXIS_COASTING: in TRACKING, now − t0 exceeds 1.5 × PERIOD (R226, R227). -/
def axisCoast (a : BitVec 6) (s : State) : State :=
  let n := a.toNat
  let x := s.axis n
  if x.st = .tracking then
    let s := s.advanceFt (x.t0 + BitVec.ofNat 80 (nsUnits (s.rf (axBase n + 8) 7 0 * 1500) + 1))
    (s.setAxis n { x with st := .coasting }).bump (axBase n + 0x2030)
  else s

/-- AXIS_STALE: now − t0 exceeds AXIS.STALEa (R226, R227). -/
def axisStale (a : BitVec 6) (s : State) : State :=
  let n := a.toNat
  let x := s.axis n
  match x.st with
  | .acquiring | .tracking | .coasting =>
    let s := s.advanceFt (x.t0 + BitVec.ofNat 80 (nsUnits (s.ap (axBase n + 0x14) * 1000) + 1))
    (s.setAxis n { x with st := .stale }).fault (400 + n) 0x78 1 n
  | _ => s

/-! ### From position to instant (R243) -/

/-- Fabric time at a tick of the counter at the present rate (R198). -/
def State.ftAt (s : State) (c : Nat) : BitVec 80 := s.time.offset + BitVec.ofNat 80 (ratePart s.time.rate c)

/-- The earliest tick in [lo, lo + n] at which a condition that stays true holds, by halving; `k` bounds the halvings. -/
def firstTick (f : Nat → Bool) : Nat → Nat → Nat → Nat
  | 0, lo, _ => lo
  | k + 1, lo, n =>
    if n = 0 then lo
    else
      let h := n / 2
      if f (lo + h) then firstTick f k lo h else firstTick f k (lo + h + 1) (n - h - 1)

/-- The last tick, counted from now, up to which the estimate does not run backwards within the clamp of R228: until
the velocity v + acc·Δ reaches 0. -/
def State.risingTicks (s : State) (x : Axis) : Nat :=
  let clampEnd := s.ticksUntil (x.t0 + BitVec.ofNat 80 (2 ^ 47))
  if x.acc.toInt < 0 then
    let d := truncDivI (x.v.toInt * 2 ^ 48) (-x.acc.toInt)
    min clampEnd (s.ticksUntil (x.t0 + BitVec.ofInt 80 d))
  else clampEnd

/-- The due instant of a target on an axis: the earliest core tick from now at which p(t) reaches it, as a distance
from now; none when v ≤ 0 or no such tick exists within the clamp (R243). A target already reached is due now. -/
def State.dueIn (s : State) (a : Nat) (target : BitVec 48) : Option Nat :=
  let x := s.axis a
  let need := pdiff target (x.eval s.ft)
  if need ≤ 0 then some 0
  else if x.v.toInt ≤ 0 then none
  else
    let here := x.increment (tdiff s.ft x.t0)
    let c := s.tickCount
    let f (k : Nat) : Bool := decide (here + need ≤ x.increment (tdiff (s.ftAt (c + k)) x.t0))
    let n := s.risingTicks x
    if f n then some (firstTick f 40 0 n) else none

/-- The function of an axis enters RUNNING: NONE, with the notice of R231 armed (R227, R231). -/
def State.axisRunning (s : State) (a : Nat) : State :=
  s.setAxis a { (s.axis a) with st := .none, armed := true, acq := 0, rejRun := 0 }

/-- The function of an axis leaves RUNNING (R226). -/
def State.axisOff (s : State) (a : Nat) : State := s.axisTo a { (s.axis a) with st := .off }

/-- AXIS.SPEEDa in µm/s, from SCALE counts per metre in 2^-8 (R235). -/
def State.axisSpeed (s : State) (a : Nat) : Int :=
  let scale := s.rv (axBase a + 0xC) + s.rv (axBase a + 0x10) * 65536
  if scale = 0 then 0
  else truncDiv ((s.axis a).v.toInt * 1000000000 * 256 * 1000000) (2 ^ 32 * scale)

/-- The live AXIS registers, with whether this hub publishes the axis. -/
def State.axisView (s : State) (publishing : Nat → Bool) (off : Nat) : Option Nat :=
  if off < 0x092000 ∨ 0x093000 ≤ off then none
  else
    let a := (off - 0x092000) / 0x40
    let x := s.axis a
    match off % 0x40 with
    | 0x00 => some (bitAt (publishing a) 7 + bitAt x.encerr 6 + x.slot.toNat * 32 + bitAt x.st.isStale 4 +
        bitAt x.st.valid 3 + x.st.code)
    | 0x04 => some (posCount (x.eval s.ft)).toNat
    | 0x08 => some ((x.eval s.ft).toNat % 65536)
    | 0x0C => some (x.v.toNat % 2 ^ 32)
    | 0x10 => some (ofSigned 32 (toSigned 8 (x.v.toNat / 2 ^ 32)))
    | 0x14 => some x.acc.toNat
    | 0x18 => some (x.t0.toNat % 2 ^ 32)
    | 0x1C => some (x.t0.toNat / 2 ^ 32 % 2 ^ 32)
    | 0x20 => some (x.t0.toNat / 2 ^ 64)
    | 0x24 => some (sat32 x.res)
    | 0x28 => some (sat32 (s.axisSpeed a))
    | _ => none

end Sys2Proof.Machine
end

