-- ==== Sys2Proof/Machine/ActCapture.lean ====
section
/-! DEFINITION. Captures (10): a line edge or a snapshot, stamped with fabric time and an axis, in a capture queue. -/

namespace Sys2Proof.Machine

/-- A fault that is limited under a key of its own: at most once in so many ticks (R470). -/
def State.faultKeyed (s : State) (key period src kind level detail : Nat) : State :=
  let last := tabGet 0 s.limits key
  if last ≠ 0 ∧ s.now + 1 < last + period then s
  else { s.fault src kind level detail with limits := tabSet 0 s.limits key (s.now + 1) }

/-- A capture queue. -/
def State.capQ (s : State) (q : Nat) : PortFifo := tabGet {} s.act.caps q

/-- A capture queue set, with its watermark notice (R265). -/
def State.setCapQ (s : State) (q : Nat) (f : PortFifo) : State :=
  let (s, f) := s.fifoNotice (s.capQ q) f (s.ap 0x0A0018) (s.ap 0x0A001C) (464 + q) 0x0103
  { s with act := { s.act with caps := tabSet {} s.act.caps q f } }

/-- The two entries of a capture (R263). -/
def captureItem (line ev axis : Nat) (valid stale : Bool) (pos : Word) (ns : Nat) : List DWord :=
  [BitVec.ofNat 64 (line * 2 ^ 54 + ev * 2 ^ 52 + bitAt valid 51 + bitAt stale 50 + axis * 2 ^ 44 + pos.toNat),
   BitVec.ofNat 64 (2 ^ 62 + ns % 2 ^ 62)]

/-- A capture of line l: EV 0 rising, 1 falling, 2 and 3 snapshots, with the axis at this instant (R262, R263, R266). -/
def State.capture (s : State) (l ev axis q : Nat) (rec_ : Bool) : State :=
  let x := s.axis axis
  let pos := if x.st.valid then posCount (x.eval s.ft) else 0
  let (f, ok) := (s.capQ q).store 128 (captureItem l ev axis x.st.valid x.st.isStale pos s.ns)
  let s := s.setCapQ q f
  let s := if ok then s
    else (s.bump (0x0A0100 + 4 * q)).faultKeyed ((3072 + q) * 256 + 0x85) 625000 464 0x85 0 q
  if rec_ then
    s.event l (0x0100 + min ev 2)
      { axis := some (pos, axis, x.st.valid, x.st.isStale), payload := BitVec.ofNat 64 (ev + q * 16) }
  else s

/-- A filtered edge of line l is captured when ACT.CAPCFGl selects it and function 7 is RUNNING (R262); the caller has
checked the frond. -/
def State.captureEdge (s : State) (l : Nat) (level : Bool) : State :=
  let cfg := s.ap (0x0A1400 + 4 * l)
  if s.running 7 ∧ nbit cfg (if level then 14 else 15) then
    s.capture l (if level then 0 else 1) (nbits cfg 13 8) (nbits cfg 7 4) (nbit cfg 3)
  else s

/-- A read of the POP location of capture queue q (R264, R161). -/
def State.capturePop (s : State) (q : Nat) (ecc : EccResult) : DWord × State :=
  let f := s.capQ q
  let s := s.popReport f ecc (464 + q) (0x0A0180 + 4 * q) (0x0A0140 + 4 * q) 0
  let (v, f) := f.pop ecc
  (v, s.setCapQ q f)

/-- ACT.CQSTAT. -/
def State.cqStat (s : State) : Nat :=
  (List.range 16).foldl (fun n q =>
    n + bitAt (s.capQ q).under (16 + q) + bitAt (decide (s.ap 0x0A0018 < (s.capQ q).entries.length)) q) 0

end Sys2Proof.Machine
end

