-- ==== Sys2Proof/Machine/FrondOps.lean ====
section
/-! DEFINITION. Field lines and their diagnostics, RS-485 channels and encoder units (11). -/

namespace Sys2Proof.Machine

/-! ### Lines -/

/-- A line of the table. -/
def State.line (s : State) (l : Nat) : Line := tabGet {} s.lines l

/-- A line set. -/
def State.setLine (s : State) (l : Nat) (x : Line) : State := { s with lines := tabSet {} s.lines l x }

/-- The register base of a frond (R301). -/
def frdBase (nn : Nat) : Nat := 0x100000 + 0x10000 * nn

/-- The word of a line-die register of die d (R302). -/
def ldOff (d word : Nat) : Nat := 0x1000000 + 0x10000 * d + word

/-- The word 0x0100 + 8·j of a line, in its die's register space. -/
def lineWord (l : Nat) : Nat := ldOff (l / 128) (0x100 + 8 * (l % 128))

/-- A counter of a line die raised by 1: 16 bits, saturating (R302). -/
def State.bump16 (s : State) (off : Nat) : State := s.setNat off (min (s.rv off + 1) 0xFFFF)

/-- The mode of a line as the line die has it (R275, R277). -/
def Line.mode (x : Line) : Nat := x.lmode.toNat % 8

/-- The output source of a line (R276). -/
def Line.osrc (x : Line) : Nat := x.lmode.toNat / 16 % 8

/-- STOPVAL of a line (R277). -/
def Line.stopval (x : Line) : Nat := x.lmode.toNat / 128

/-- The line has an output stage in its mode: HSOUT, PILOT, or SERIAL on L0 to L11 (R276). -/
def Line.isOutput (x : Line) (l : Nat) : Bool :=
  x.mode == 2 || x.mode == 3 || (x.mode == 5 && decide (l % 16 < 12))

/-- The comparator output: 0 in OFF, and while wiring is reversed (R275, R281). -/
def Line.comparator (x : Line) : Bool := x.raw && x.mode != 0 && !x.conds.contains .reversed

/-- The level that WAIT and BRANCH read: raw in SERIAL mode, filtered in any other, 0 in OFF (R308). -/
def Line.level (x : Line) : Bool :=
  if x.mode = 0 then false else if x.mode = 5 then x.comparator else x.filt

/-- The driver is on: commanded, and not held off by a latch, by heat or by reversed wiring (R281, R282). -/
def Line.driven (x : Line) (l : Nat) : Bool :=
  x.isOutput l && x.cmd && !x.latched && !x.conds.contains .overtemp && !x.conds.contains .reversed

/-- The driver of a line is on: driven, on a die that does not hold its lines as in mode OFF (R273, R492). -/
def State.lineOut (s : State) (l : Nat) (x : Line) : Bool := x.driven l && !s.dieDark (l / 128)

/-- A line set whatever holds it, with its driver's switching put out. -/
def State.forceLine (s : State) (l : Nat) (x : Line) : State :=
  let was := s.lineOut l (s.line l)
  let s := s.setLine l x
  if was = s.lineOut l x then s else s.emit (.line l (s.lineOut l x))

/-- A line changed; while its die is frozen (R511) or holds its lines at SAFE (R479, R481) its commanded level stays. -/
def State.updateLine (s : State) (l : Nat) (x : Line) : State :=
  let old := s.line l
  s.forceLine l (if s.pair.frozen || old.safed || s.flt.safe || (s.die (l / 128)).lost then { x with cmd := old.cmd } else x)

/-- A change after which the drivers that it switches are put out: what the dies hold has changed. -/
def State.withDies (s : State) (f : State → State) : State :=
  let t := f s
  let gone := s.lines.filter (fun e => !t.lines.any (fun x => x.1 == e.1))
  (t.lines ++ gone).foldl (fun u e =>
    let v := t.lineOut e.1 (t.line e.1)
    if s.lineOut e.1 (s.line e.1) = v then u else u.emit (.line e.1 v)) t

/-- The SAFE value of LD.LCFGj for a line: off, on, or hold. -/
def State.safeLevel (s : State) (l : Nat) (now : Bool) : Bool :=
  match s.rf (lineWord l) 14 13 with
  | 0 => false
  | 1 => true
  | _ => now

/-- A line takes its SAFE value, and keeps it until its frond is started (R479, R481, R486). -/
def State.safeLine (s : State) (l : Nat) : State :=
  let x := s.line l
  s.forceLine l { x with cmd := s.safeLevel l x.cmd, deferred := none, safed := true }

/-- Die d may let a line follow its frond again: the safe signal is released and the link is up (R479, R481). -/
def State.dieFree (s : State) (d : Nat) : Bool := !s.flt.safe && !(s.die d).lost

/-- The lines of a frond follow it again when it is started (R481, R486). -/
def State.unsafeLine (s : State) (l : Nat) : State :=
  let x := s.line l
  if x.safed ∧ s.dieFree (l / 128) then s.setLine l { x with safed := false } else s

/-- The frond of a line is RUNNING. -/
def State.frondRuns (s : State) (l : Nat) : Bool := s.running (16 + l / 16)

/-- A level commanded at a line by its source; an on command at a latched line is refused and counted (R282). -/
def State.lineCommand (s : State) (l : Nat) (v : Bool) : State :=
  let x := s.line l
  let s := if x.latched ∧ v ∧ x.isOutput l then s.bump16 (lineWord l + 6) else s
  s.updateLine l { x with cmd := v }

/-- Bit i of FRDnn.LOUT for a line. -/
def State.loutBit (s : State) (l : Nat) : Bool := s.rb (frdBase (l / 16) + 0x80) (l % 16)

/-- The pin command of the engine that drives a line (R276, R304). -/
def State.enginePin (s : State) (l e : Nat) : Bool :=
  nbit (tabGet ({} : Engine) s.engines (5 * (l / 16) + e)).pins.toNat (l % 16)

/-- The present command of a line's source (R277). -/
def State.sourceCommand (s : State) (l : Nat) : Bool :=
  let x := s.line l
  match x.osrc with
  | 0 => s.loutBit l
  | 1 => x.sched
  | k => s.enginePin l (k - 2)

/-- A fold over the 16 lines of a frond. -/
def State.eachLine (s : State) (nn : Nat) (f : State → Nat → State) : State :=
  (List.range 16).foldl (fun s i => f s (16 * nn + i)) s

/-- An accepted START or RESTART of a frond: its LMODE values go to the line die, fresh outputs are off or follow LOUT,
and the mark flags are cleared (R277, R314). -/
def State.frondStart (s : State) (nn : Nat) : State :=
  let s := s.eachLine nn (fun s l =>
    let s := s.unsafeLine l
    let x := s.line l
    let x := { x with lmode := BitVec.ofNat 9 (s.rv (frdBase nn + 4 * (l % 16))), sched := false, deferred := none }
    if s.dieFree (l / 128) then s.updateLine l { x with cmd := x.osrc == 0 && x.isOutput l && s.loutBit l }
    else (s.setLine l x).safeLine l)
  { s with fronds := tabSet {} s.fronds nn { tabGet {} s.fronds nn with flags := 0 } }

/-- A frond enters RUNNING: each output takes its source's present command (R277). -/
def State.frondRunning (s : State) (nn : Nat) : State :=
  s.eachLine nn (fun s l =>
    let s := s.unsafeLine l
    if (s.line l).isOutput l then s.lineCommand l (s.sourceCommand l) else s)

/-- A frond leaves RUNNING by a stop: STOPVAL (R277). -/
def State.frondStopping (s : State) (nn : Nat) : State :=
  s.eachLine nn (fun s l =>
    let x := { s.line l with deferred := none }
    match x.stopval with
    | 0 => s.updateLine l { x with cmd := false }
    | 1 => s.updateLine l { x with cmd := true }
    | _ => s.updateLine l x)

/-- A frond is HALTED: SAFE of LD.LCFGj (R277). -/
def State.frondHalted (s : State) (nn : Nat) : State :=
  s.eachLine nn (fun s l =>
    let x := { s.line l with deferred := none }
    s.updateLine l { x with cmd := s.safeLevel l x.cmd })

/-- An engine enters HALTED: the lines that name it take STOPVAL while the frond is RUNNING (R325). -/
def State.engineHaltLines (s : State) (nn e : Nat) : State :=
  if s.running (16 + nn) then
    s.eachLine nn (fun s l =>
      let x := { s.line l with deferred := none }
      if x.osrc = 2 + e ∧ x.isOutput l then
        match x.stopval with
        | 0 => s.updateLine l { x with cmd := false }
        | 1 => s.updateLine l { x with cmd := true }
        | _ => s.updateLine l x
      else s)
  else s

/-- LOUT_WRITE: the value is sent to the line die at once, and drives the lines whose source is the register while the
frond is RUNNING, or STARTING with fresh state (R277). -/
def loutWrite (nn : BitVec 4) (v : Word) (s : State) : State :=
  let n := nn.toNat
  let off := frdBase n + 0x80
  let m := v >>> 16
  let s := s.setReg off (((s.rg off &&& ~~~m) ||| (v &&& m)) &&& 0xFFFF)
  let f := s.func (16 + n)
  if f.st = .running ∨ (f.st = .starting ∧ f.fresh) then
    s.eachLine n (fun s l =>
      let x := s.line l
      if x.osrc = 0 ∧ x.isOutput l then s.lineCommand l (s.loutBit l) else s)
  else s

/-- FILTERED_EDGE: the sampled level of a line has differed for FILT µs (R279, R280); a line in SERIAL mode bypasses
the filter, and a line in OFF reads 0. -/
def lineEdge (l : BitVec 8) (level : Bool) (s : State) : State :=
  let n := l.toNat
  let x := { s.line n with raw := level }
  let s := s.setLine n x
  let v := x.comparator && !s.dieDark (n / 128)
  if (s.func (16 + n / 16)).st = .absent ∨ x.mode = 5 ∨ v = x.filt then s
  else
    let s := s.setLine n { x with filt := v }
    let s := if s.frondRuns n then s.captureEdge n v else s
    if s.ab (frdBase (n / 16) + 0x40 + 4 * (n % 16)) (if v then 8 else 9) then
      s.eventP n (if v then 0x0110 else 0x0111) (bitAt v 0)
    else s

/-! ### Diagnostics (R281 to R284) -/

/-- The fault kind, level and detail of a condition (R300). -/
def condReport : LineCond → Nat × Nat × Nat
  | .openIn => (0x90, 1, 0)
  | .openOff => (0x90, 1, 1)
  | .openOn => (0x90, 1, 2)
  | .overload => (0x91, 1, 0)
  | .overtemp => (0x91, 1, 1)
  | .shortOff => (0x92, 1, 0)
  | .shortPilot => (0x92, 1, 1)
  | .reversed => (0x93, 1, 0)
  | .windowLow => (0x95, 0, 0)
  | .windowHigh => (0x95, 0, 1)

/-- NOSUP: power channel PCnn is not asserting power-good (R274), given by the caller. -/
def State.lineChecked (s : State) (l : Nat) (c : LineCond) (nosup : Bool) : Bool :=
  let x := s.line l
  let cfg := s.rv (lineWord l)
  let on := s.lineOut l x
  !s.dieDark (l / 128) && match c with
  | .openIn => x.mode == 1 && nbit cfg 8 && !nosup
  | .openOff => x.mode == 2 && !on && nbit cfg 9 && !nosup
  | .openOn => x.mode == 2 && on && nbit cfg 10 && !nosup
  | .shortOff => x.mode == 2 && !on && nbit cfg 9
  | .shortPilot => x.mode == 3 && !on
  | .overload => (x.mode == 2 || x.mode == 3) && on
  | .overtemp => x.mode == 2 || x.mode == 3
  | .reversed => x.mode != 0
  | .windowLow | .windowHigh => x.mode == 4

/-- The conditions whose reaction REACT decides (R281). -/
def condReacts : LineCond → Bool
  | .shortPilot | .overload => true
  | _ => false

/-- LINE_DIAGNOSTIC_ENTRY: a condition has held for its time (R281 to R283). -/
def lineCondEntry (nosup : Bool) (l : BitVec 8) (c : LineCond) (s : State) : State :=
  let n := l.toNat
  let x := s.line n
  if !s.lineChecked n c nosup then s
  else
    let latch (s : State) : State :=
      if condReacts c && s.rb (lineWord n) 12 then s.updateLine n { s.line n with latched := true } else s
    if x.conds.contains c then latch s
    else
      let s := s.updateLine n { x with conds := c :: x.conds }
      let (kind, level, detail) := condReport c
      ((latch s).bump16 (lineWord n + 7)).fault n kind level detail

/-- LD.LSTATj. -/
def State.lstat (s : State) (l : Nat) (nosup : Bool) : Nat :=
  let x := s.line l
  let has (c : LineCond) : Bool := x.conds.contains c
  bitAt x.comparator 11 + bitAt (has .overtemp) 10 + bitAt (has .windowHigh) 9 + bitAt (has .windowLow) 8 +
    bitAt nosup 7 + bitAt (has .reversed) 6 + bitAt (has .shortOff || has .shortPilot) 5 +
    bitAt (has .overload || has .overtemp) 4 + bitAt (has .openIn || has .openOff || has .openOn) 3 +
    bitAt ((has .overload || has .shortPilot) && !x.latched) 2 + bitAt x.latched 1 + bitAt (s.lineOut l x) 0

/-- LINE_DIAGNOSTIC_EXIT: a condition has been absent for its time (R283). -/
def lineCondExit (nosup : Bool) (l : BitVec 8) (c : LineCond) (s : State) : State :=
  let n := l.toNat
  let x := s.line n
  if x.conds.contains c then
    let s := s.updateLine n { x with conds := x.conds.filter (· != c) }
    s.eventP n 0x0112 (s.lstat n nosup + (condReport c).1 * 65536)
  else s

/-- LCMD_UNLATCH: the named lines take their source's present command (R282). -/
def lcmdUnlatch (nn : BitVec 4) (v : BitVec 16) (s : State) : State :=
  s.eachLine nn.toNat (fun s l =>
    let x := s.line l
    if nbit v.toNat (l % 16) ∧ x.latched then
      let s := s.updateLine l { x with latched := false, cut := false }
      if s.frondRuns l ∧ x.isOutput l then s.lineCommand l (s.sourceCommand l) else s
    else s)

/-- The word of LD.FBUDGETk of a frond. -/
def fbudgetWord (nn : Nat) : Nat := ldOff (nn / 8) (0x600 + 4 * (nn % 8))

/-- The frond-wide state of a frond. -/
def State.frond (s : State) (nn : Nat) : Frond := tabGet {} s.fronds nn

/-- The frond-wide state set. -/
def State.setFrond (s : State) (nn : Nat) (x : Frond) : State := { s with fronds := tabSet {} s.fronds nn x }

/-- FROND_BUDGET_OVER: the summed current above FBUDGET for 1 ms (R284); the check is suspended while NOSUP (R274). -/
def frondOver (nosup : Bool) (nn : BitVec 4) (s : State) : State :=
  let n := nn.toNat
  if nosup then s else s.fault (480 + n) 0x94 1 0

/-- FROND_BUDGET_CUT: every output that is on is latched (R284). -/
def frondCut (nosup : Bool) (nn : BitVec 4) (s : State) : State :=
  let n := nn.toNat
  if nosup then s
  else
    let s := s.eachLine n (fun s l =>
      let x := s.line l
      if s.lineOut l x ∧ (x.mode = 2 ∨ x.mode = 3) then s.updateLine l { x with latched := true, cut := true } else s)
    s.fault (480 + n) 0x94 2 1

/-- FSTAT.CUT: a line latched by the budget remains latched (R284). -/
def State.frondCutNow (s : State) (nn : Nat) : Bool :=
  (List.range 16).any (fun i => (s.line (16 * nn + i)).cut)

/-! ### RS-485 channels (R285 to R293) -/

/-- A channel: 2·nn + c. -/
def State.uart (s : State) (ch : Nat) : Uart := tabGet {} s.uarts ch

/-- A channel set. -/
def State.setUart (s : State) (ch : Nat) (x : Uart) : State := { s with uarts := tabSet {} s.uarts ch x }

/-- The register base of a channel. -/
def uartBase (ch : Nat) : Nat := frdBase (ch / 2) + 0x100 + 0x40 * (ch % 2)

/-- UCFGc.XMODE (R285). -/
def State.xmode (s : State) (ch : Nat) : Nat := s.rf (uartBase ch) 1 0

/-- UCFGc.OWNER: the bridge reads and writes the FIFOs (R290). -/
def State.uartBridged (s : State) (ch : Nat) : Bool := s.rb (uartBase ch) 10

/-- UCFGc.FRAME (R290). -/
def State.uartFrame (s : State) (ch : Nat) : Nat := s.rf (uartBase ch) 9 8

/-- Core ticks of one bit: DIVF × 8^PRE periods of 4 ns (R288). -/
def State.bitTicks (s : State) (ch : Nat) : Nat :=
  s.rv (uartBase ch + 4) * (if s.rb (uartBase ch) 12 then 8 else 1) * 5 / 2

/-- A receive FIFO set, with its watermark notice (R292). -/
def State.setUartRx (s : State) (ch : Nat) (f : PortFifo) : State :=
  let wm := s.ap (uartBase ch + 0xC)
  let (s, f) := s.fifoNotice (s.uart ch).rx f (wm % 256) (wm / 256) (336 + ch) 0x0118
  s.setUart ch { s.uart ch with rx := f }

/-- An item stored in a receive FIFO of 64, or lost (R289). -/
def State.uartStore (s : State) (ch : Nat) (item : DWord) : State :=
  let (f, ok) := (s.uart ch).rx.store 64 [item]
  let s := s.setUartRx ch f
  if ok then s else (s.bump (uartBase ch + 0x30)).faultMs (336 + ch) 0x99 0 0

/-- A receive item (R289). -/
def uartItem (ns : Nat) (eom som brk ferr perr : Bool) (data : Nat) : DWord :=
  BitVec.ofNat 64 (ns % 2 ^ 48 * 2 ^ 14 + bitAt eom 13 + bitAt som 12 + bitAt brk 11 + bitAt ferr 10 + bitAt perr 9 + data)

/-- What is wrong with a character that came in (R289). -/
def State.charError (s : State) (ch : Nat) (bad : Bool) (counter detail : Nat) : State :=
  if bad then (s.bump (uartBase ch + counter)).faultMs (336 + ch) 0x98 0 detail else s

/-- UART_CHARACTER_RECEIVED: one character, `ago` ticks after the centre of its start bit (R289, R290). -/
def uartReceived (ch : BitVec 5) (data : BitVec 9) (perr ferr brk : Bool) (ago : Nat) (s : State) : State :=
  let n := ch.toNat
  let x := s.uart n
  let xm := s.xmode n
  if !s.running (208 + n) || xm == 2 || (xm == 0 && x.driver && !s.rb (uartBase n) 11) then s
  else
    let mode := s.uartFrame n
    let d := if brk then 0 else data.toNat
    let start := (s.ft - BitVec.ofNat 80 (s.time.rate.toNat * ago / 2 ^ 30)).toNat / 65536
    let som := (mode == 1 && x.idle) || (mode == 2 && nbit d 8)
    let s := if mode = 2 ∧ som ∧ x.msgOpen then s.uartStore n (uartItem s.ns true false false false false 0) else s
    let s := s.setUart n { s.uart n with idle := false, msgOpen := if mode = 0 then false else x.msgOpen || som
                                         receiving := false }
    let s := ((s.charError n perr 0x24 0).charError n ferr 0x28 1).charError n brk 0x2C 2
    s.uartStore n (uartItem start false som brk ferr perr d)

/-- UART_IDLE_GAP: the line has been idle for GAP bit-times after a character (R290). -/
def uartIdleGap (ch : BitVec 5) (s : State) : State :=
  let n := ch.toNat
  let x := s.uart n
  if s.running (208 + n) ∧ s.uartFrame n = 1 ∧ !x.idle then
    let s := s.setUart n { x with idle := true, msgOpen := false }
    s.uartStore n (uartItem s.ns true false false false false 0)
  else s

/-- A word appended to the transmit FIFO of 64; the Boolean says whether there was room (R291). -/
def State.uartPush (s : State) (ch : Nat) (w : BitVec 10) : State × Bool :=
  let x := s.uart ch
  if x.tx.length < 64 then (s.setUart ch { x with tx := x.tx ++ [w] }, true) else (s, false)

/-- UTX_WRITE: refused and counted when the FIFO is full or the bridge owns it (R291). -/
def utxWrite (ch : BitVec 5) (v : BitVec 10) (s : State) : State :=
  let n := ch.toNat
  if s.uartBridged n then s.bump (uartBase n + 0x3C)
  else match s.uartPush n v with
    | (s, true) => s
    | (s, false) => s.bump (uartBase n + 0x3C)

/-- UART_TRANSMIT_START: the driver is enabled and the next word starts; a driver switched off comes on again at the
first character after 10 ms (R287, R291). -/
def uartTransmitStart (ch : BitVec 5) (s : State) : State :=
  let n := ch.toNat
  let x := s.uart n
  if !s.running (208 + n) || s.xmode n == 1 || x.sending.isSome then s
  else match x.tx with
    | [] => s
    | w :: r =>
      let off := match x.offAt with
        | some t => if s.now < t + 6250000 then some t else none
        | none => none
      s.setUart n { x with tx := r, sending := some w, driver := off.isNone, offAt := off }

/-- UART_WORD_SENT: the driver is released after EOM or the last word (R291, R293). -/
def uartWordSent (ch : BitVec 5) (s : State) : State :=
  let n := ch.toNat
  let x := s.uart n
  match x.sending with
  | none => s
  | some w =>
    let s := if x.driver then s.emit (.uart n w) else s
    let more := s.running (208 + n) && !x.tx.isEmpty && !nbit w.toNat 9
    s.setUart n { x with sending := none, driver := x.driver && (more || s.xmode n == 2 || s.xmode n == 3) }

/-- UART_RX_POP (R289). -/
def State.uartPop (s : State) (ch : Nat) (ecc : EccResult) : DWord × State :=
  let f := (s.uart ch).rx
  let s := s.popReport f ecc (336 + ch) (uartBase ch + 0x38) (uartBase ch + 0x34) (uartBase ch + 0x14)
  let (v, f) := f.pop ecc
  (v, s.setUartRx ch f)

/-- RS485_DRIVER_OFF: in current limit for 1 ms, or overheated (R287). -/
def rs485Off (ch : BitVec 5) (hot : Bool) (s : State) : State :=
  let n := ch.toNat
  let x := s.uart n
  if x.driver then
    (s.setUart n { x with driver := false, offAt := some s.now }).fault (336 + n) 0x9A 1 (bitAt hot 0)
  else s

/-- A channel starts with fresh state: both FIFOs empty (R293). -/
def State.uartFresh (s : State) (ch : Nat) : State := s.setUart ch {}

/-- A channel is stopped or halted: the driver is released (R293). -/
def State.uartStopped (s : State) (ch : Nat) : State :=
  s.setUart ch { s.uart ch with sending := none, driver := false, receiving := false }

/-! ### Encoder units (R294 to R299) -/

/-- An encoder unit. -/
def State.encoder (s : State) (u : Nat) : Encoder := tabGet {} s.encoders u

/-- An encoder unit set. -/
def State.setEncoder (s : State) (u : Nat) (x : Encoder) : State := { s with encoders := tabSet {} s.encoders u x }

/-- ECFG of a unit. -/
def State.ecfg (s : State) (u hi lo : Nat) : Nat := s.rf (frdBase u + 0x200) hi lo

/-- Counting is gated off (R295). -/
def State.gatedOff (s : State) (u : Nat) (gate : Bool) : Bool :=
  match s.ecfg u 10 9 with
  | 1 => !gate
  | 2 => gate
  | _ => false

/-- The count step of a change of A and B from (a0, b0) to (a, b) (R295): +1, −1 or 0 before DIR. Quadrature counts up
when A leads B; 1× counts at edges of A while B is low (PRESUMED: the usual decoding, notes/assumptions/81). -/
def encoderStep (mode : Nat) (a0 b0 a b : Bool) : Int :=
  let ea := a != a0
  let eb := b != b0
  let upA : Int := if a != b then 1 else -1
  let upB : Int := if a == b then 1 else -1
  match mode with
  | 0 => if ea && !eb && !b then (if a then 1 else -1) else 0
  | 1 => if ea && !eb then upA else 0
  | 2 => if ea && !eb then upA else if eb && !ea then upB else 0
  | 3 => if ea && a then (if b then -1 else 1) else 0
  | _ => (if ea && a then 1 else 0) - (if eb && b then 1 else 0)

/-- An encoder error is counted and reported (R297). -/
def State.encoderError (s : State) (u cause : Nat) : State :=
  ((s.setEncoder u { s.encoder u with errPend := true }).bump (frdBase u + 0x220)).faultMs (368 + u) 0x9D 1 cause

/-- ENCODER_EDGE: the filtered levels of A and B, and the gate, in one engine cycle (R295, R297). -/
def encoderEdge (u : BitVec 4) (a b gate : Bool) (s : State) : State :=
  let n := u.toNat
  let x := s.encoder n
  if !s.running (240 + n) then s.setEncoder n { x with a := a, b := b, gate := gate }
  else
    let mode := s.ecfg n 2 0
    let d0 := encoderStep mode x.a x.b a b
    let d := if s.ecfg n 4 4 = 1 then -d0 else d0
    let live := !s.gatedOff n gate
    let x' := { x with a := a, b := b, gate := gate
                       count := if live then x.count + BitVec.ofInt 32 d else x.count
                       down := if live && d != 0 then decide (d < 0) else x.down }
    let s := s.setEncoder n x'
    if mode ≤ 2 ∧ a ≠ x.a ∧ b ≠ x.b then s.encoderError n 0 else s

/-- ELOAD of a unit. -/
def State.eload (s : State) (u : Nat) : Word :=
  BitVec.ofNat 32 (s.rv (frdBase u + 0x204) + s.rv (frdBase u + 0x208) * 65536)

/-- The count is loaded; the next axis sample carries ZSET (R296). -/
def State.encoderSet (s : State) (u : Nat) : State :=
  s.setEncoder u { s.encoder u with count := s.eload u, zset := true }

/-- ENCODER_Z_EDGE: a rising transition of the filtered Z input (R296). -/
def encoderZ (u : BitVec 4) (gate : Bool) (s : State) : State :=
  let n := u.toNat
  let s := s.setEncoder n { s.encoder n with gate := gate, z := true }
  if !s.running (240 + n) || s.ecfg n 6 5 == 0 then s
  else if s.ecfg n 11 11 = 1 ∧ s.gatedOff n gate then s
  else
    let x := s.encoder n
    let s := (s.setEncoder n { x with zlatch := x.count }).bump (frdBase n + 0x224)
    match s.ecfg n 8 7 with
    | 1 => s.encoderSet n
    | 2 => if x.armz then (s.setEncoder n { s.encoder n with armz := false }).encoderSet n else s
    | _ => s

/-- ECMD LOAD (R296). -/
def encoderLoad (u : BitVec 4) (s : State) : State := s.encoderSet u.toNat

/-- ECMD ARMZ (R296). -/
def encoderArm (u : BitVec 4) (s : State) : State :=
  s.setEncoder u.toNat { s.encoder u.toNat with armz := true }

/-- A write to FRDnn.ECMD. -/
def encoderCmd (src : Src) (u : BitVec 4) (v : Nat) (s : State) : State :=
  match v % 16 with
  | 1 => encoderLoad u s
  | 2 => encoderArm u s
  | _ => s.ignored src (frdBase u.toNat + 0x20C) 1

/-- ENCODER_SIGNAL_LOSS: cause 1 in RS-422 mode, cause 2 in HTL mode (R297). -/
def encoderLoss (u : BitVec 4) (s : State) : State :=
  let n := u.toNat
  let x := s.encoder n
  if !s.running (240 + n) then s
  else if s.ecfg n 3 3 = 1 then
    if x.cause1 then s else (s.setEncoder n { x with cause1 := true }).encoderError n 1
  else if x.cause2 then s else (s.setEncoder n { x with cause2 := true }).encoderError n 2

/-- ENCODER_SIGNAL_RESTORED (R297). -/
def encoderRestored (u : BitVec 4) (s : State) : State :=
  let n := u.toNat
  let x := s.encoder n
  if s.ecfg n 3 3 = 1 then s.setEncoder n { x with cause1 := false } else s.setEncoder n { x with cause2 := false }

/-- EDLY in ns (R298). -/
def State.edly (s : State) (u : Nat) : Nat :=
  if s.ecfg u 3 3 = 1 then 160 else 300 + 250 * 2 ^ s.ecfg u 13 12

/-- Fresh state of an encoder unit: the count is ELOAD and ARMZ disarmed, unless a take-over keeps the checkpoint's
count (R299). -/
def State.encoderFresh (s : State) (u : Nat) : State :=
  let x := s.encoder u
  if x.keep then s.setEncoder u { x with keep := false, armz := false }
  else s.setEncoder u { x with count := s.eload u, armz := false, cause1 := false, cause2 := false, errPend := false }

/-! ### Publication of axis samples (R221 to R224) -/

/-- This hub publishes samples of axis a (R221). -/
def State.publishing (s : State) (a : Nat) : Bool :=
  s.rb (axBase a + 4) 15 && s.isOwn (s.rf (axBase a) 11 0) && s.leads && s.running (64 + a) &&
    s.running (240 + s.rf (axBase a) 15 12)

/-- AXIS_SAMPLE_LATCH: at the next instant k × PERIOD + PHASE the count is latched, applied here and sent (R222 to
R224). -/
def axisLatch (a : BitVec 6) (gate : Bool) (s : State) : State :=
  let n := a.toNat
  if !s.publishing n then s
  else
    let u := s.rf (axBase n) 15 12
    let pub := s.rv (axBase n + 8)
    let period := pub % 256 * 1000
    let phase := pub / 256 * 1000
    let k := if s.ns < phase then 0 else (s.ns - phase) / period + 1
    let at_ := BitVec.ofNat 80 (nsUnits (k * period + phase))
    let s := s.advanceFt at_
    let s := s.setEncoder u { s.encoder u with gate := gate }
    let e := s.encoder u
    let t := at_ - BitVec.ofNat 80 (nsUnits (s.edly u))
    let hold := s.gatedOff u gate
    let err := e.errPend || e.cause1 || e.cause2
    let x := s.axis n
    let p : Sample := { hold := hold, encerr := err, zset := e.zset, t := t, z := e.count, slot := s.slot }
    let body := beBytes x.sseq.toNat 2 ++
      beBytes (bitAt hold 0 + bitAt err 1 + bitAt e.zset 2 + bitAt gate 3) 1 ++ beBytes n 1 ++ beBytes t.toNat 10 ++
      [0, 0] ++ beBytes e.count.toNat 4
    let s := s.setAxis n { x with sseq := x.sseq + 1 }
    let s := (s.setEncoder u { e with errPend := false, zset := false }).bump (0x093000 + 4 * n)
    let s := s.axisCheck n p
    s.originate { cls := 0, typ := 2, mc := true, dest := BitVec.ofNat 12 (s.rf (axBase n + 4) 11 0)
                  tag := BitVec.ofNat 16 n } body

/-! ### What the registers show -/

/-- The live FRDnn registers of lines, channels and the encoder unit. -/
def State.frondView (s : State) (nn o : Nat) (waiting : Bool) : Option Nat :=
  let b := frdBase nn
  let bits (f : Nat → Bool) : Nat := (List.range 16).foldl (fun n i => n + bitAt (f (16 * nn + i)) i) 0
  let x := s.encoder nn
  if o = 0x84 then some (bits (fun l => (s.line l).filt) + 65536 * bits (fun l => (s.line l).comparator))
  else if o = 0x88 then some (bits (fun l => (s.line l).isOutput l && (s.line l).cmd) +
    65536 * bits (fun l => (s.line l).latched))
  else if o = 0x8C then some (bits (fun l => !(s.line l).conds.isEmpty))
  else if o = 0x210 then some x.count.toNat
  else if o = 0x214 then some x.zlatch.toNat
  else if o = 0x218 then some (bitAt x.a 0 + bitAt x.b 1 + bitAt x.z 2 + bitAt x.gate 3 + bitAt (s.gatedOff nn x.gate) 4 +
    bitAt (x.cause1 || x.cause2) 5 + bitAt x.armz 6 + bitAt waiting 7 + bitAt x.down 8)
  else if o = 0x21C then some (s.edly nn)
  else if 0x100 ≤ o ∧ o < 0x180 then
    let ch := 2 * nn + (o - 0x100) / 0x40
    let u := s.uart ch
    match o % 0x40 with
    | 0x18 => some (u.rx.last.toNat / 2 ^ 32)
    | 0x1C => some (u.tx.length * 65536 + u.rx.entries.length)
    | 0x20 => some (bitAt u.receiving 0 + bitAt u.driver 1 + bitAt u.rx.under 2 +
        bitAt (decide (s.ap (b + 0x10C + 0x40 * (ch % 2)) % 256 < u.rx.entries.length)) 3 +
        bitAt (decide (64 ≤ u.tx.length)) 4 + bitAt u.msgOpen 5)
    | _ => none
  else none

end Sys2Proof.Machine
end

