-- ==== Sys2Proof/Machine/CanOps.lean ====
section
/-! DEFINITION. CAN controllers (13): transmit buffers, reception, errors, rate detection, and the bridge's egress to
them with its error returns. -/

namespace Sys2Proof.Machine

/-! ### State and registers -/

/-- A controller of the table. -/
def State.can (s : State) (k : Nat) : Can := tabGet {} s.cans k

/-- A controller set. -/
def State.setCan (s : State) (k : Nat) (x : Can) : State := { s with cans := tabSet {} s.cans k x }

/-- The register base of a controller. -/
def canBase (k : Nat) : Nat := 0x0C0000 + 0x2000 * k

/-- The function of a controller. -/
def canFn (k : Nat) : Nat := 32 + k

/-- CFG.MODE (R336). -/
def State.canMode (s : State) (k : Nat) : Nat := s.rf (canBase k) 2 0

/-- A buffer of a controller. -/
def Can.buf (x : Can) : Nat → TxBuf
  | 0 => x.b0 | 1 => x.b1 | _ => x.b2

/-- A buffer of a controller set. -/
def Can.setBuf (x : Can) (b : Nat) (v : TxBuf) : Can :=
  match b with
  | 0 => { x with b0 := v } | 1 => { x with b1 := v } | _ => { x with b2 := v }

/-- The bridge owns the BRGBUF highest-numbered buffers (R348). -/
def State.bufOwned (s : State) (k b : Nat) : Bool := decide (3 ≤ b + s.rf (canBase k) 9 8)

/-- The data bytes that a DLC stands for (ISO 11898-1). -/
def dlcBytes (dlc : Nat) (fdf : Bool) : Nat :=
  if dlc ≤ 8 then dlc
  else if !fdf then 8
  else match dlc with
    | 9 => 12 | 10 => 16 | 11 => 20 | 12 => 24 | 13 => 32 | 14 => 48 | _ => 64

/-- The lowest DLC that holds n bytes. -/
def dlcFor (n : Nat) : Nat := ((List.range 16).find? (fun d => decide (n ≤ dlcBytes d true))).getD 15

/-- The timing of R333 is consistent. -/
def State.canTimingOk (s : State) (k : Nat) : Bool :=
  let b := canBase k
  let nsjw := s.rf (b + 4) 15 9 + 1
  let nbrp := s.rf (b + 4) 8 0 + 1
  let t1 := s.rf (b + 8) 15 8 + 1
  let t2 := s.rf (b + 8) 6 0 + 1
  let d1 := s.rf (b + 0xC) 12 8 + 1
  let d2 := s.rf (b + 0xC) 7 4 + 1
  let dsjw := s.rf (b + 0xC) 3 0 + 1
  let dbrp := s.rf (b + 0x10) 4 0 + 1
  let bit := nbrp * (1 + t1 + t2)
  let dbit := dbrp * (1 + d1 + d2)
  decide (2 ≤ t1) && decide (2 ≤ t2) && decide (nsjw ≤ t2) && decide (dsjw ≤ d2) && decide (80 ≤ bit) &&
    decide (bit ≤ 8000) && (!s.rb b 3 || (decide (dbit ≤ bit) && decide (16 ≤ dbit)))

/-! ### The bridge's egress and error returns (R355 to R358) -/

/-- An error return for a unicast frame that is refused or abandoned (R358). -/
def State.errorReturn (s : State) (h : Hdr) (status : Nat) : State :=
  if h.mc then s
  else
    let a := 3 * 2 ^ 44 + nbits h.addr.toNat 39 32 * 2 ^ 32 + h.addr.toNat % 2 ^ 32
    s.originate { cls := h.cls, typ := 7, dest := h.src, tsel := BitVec.ofNat 2 (1 + h.sslot.toNat)
                  addr := BitVec.ofNat 48 a } (beBytes (h.stream.toNat % 4096 + status * 2 ^ 16) 4)

/-- A bridged frame is refused with a status (R355). -/
def State.egressRefuse (s : State) (h : Hdr) (status : Nat) : State :=
  ((s.bump 0x0B0108).fault 583 0xBB 0 status).errorReturn h status

/-- At bus-off or STOP every owned buffer and every queued frame of the controller is abandoned (R356). -/
def State.canAbandon (s : State) (k : Nat) : State :=
  let s := [0, 1, 2].foldl (fun s b =>
    let x := s.can k
    let t := x.buf b
    match t.bridged with
    | none => s
    | some e =>
      if t.st = .sending then s.setCan k (x.setBuf b { t with abort := true })
      else if t.st = .empty then s
      else (s.setCan k (x.setBuf b {})).egressRefuse e.h 6) s
  let q := (s.can k).egress
  let s := s.setCan k { s.can k with egress := [] }
  q.foldl (fun s e => s.egressRefuse e.h 6) s

/-- Bus-off or STOP: PENDING buffers become LOADED, and the bridge's are abandoned (R341). -/
def State.canDropPending (s : State) (k : Nat) : State :=
  let s := [0, 1, 2].foldl (fun s b =>
    let x := s.can k
    let t := x.buf b
    if t.st = .pending ∧ t.bridged.isNone then (s.setCan k (x.setBuf b { t with st := .loaded })).bump (canBase k + 0x328)
    else s) s
  s.canAbandon k

/-! ### Transmit buffers (R338 to R342) -/

/-- The staging area as a frame (TXSTGL, TXSTGH, TXSTGF, TXDATA). -/
def State.staging (s : State) (k : Nat) : CanFrame :=
  let b := canBase k
  let hi := s.rv (b + 0x84)
  let f := s.rv (b + 0x88)
  let fdf := nbit hi 15
  let n := if nbit hi 14 then 0 else dlcBytes (f % 16) fdf
  { id := BitVec.ofNat 29 (s.rv (b + 0x80) + hi % 0x2000 * 65536), ide := nbit hi 13, rtr := nbit hi 14, fdf := fdf
    brs := nbit f 4, dlc := BitVec.ofNat 4 f
    data := ((List.range 32).flatMap (fun w => leBytes (s.rv (b + 0x400 + 4 * w)) 2)).take n }

/-- The staging area is malformed (R338). -/
def frameMalformed (f : CanFrame) : Bool :=
  (!f.fdf && (decide (8 < f.dlc.toNat) || f.brs)) || (f.fdf && f.rtr)

/-- A transmit command refused with a result (R338). -/
def State.txRefuse (s : State) (k result : Nat) : State :=
  (s.setCan k { s.can k with result := BitVec.ofNat 3 result }).bump (canBase k + 0x32C)

/-- A transmit command on buffer b: refused under R338, or its effect. -/
def State.txCmd (s : State) (k b : Nat) (accepts : BufState → Bool) (loads : Bool) (f : TxBuf → State → State) :
    State :=
  let t := (s.can k).buf b
  if !s.running (canFn k) then s.txRefuse k 3
  else if s.bufOwned k b then s.txRefuse k 2
  else if !accepts t.st then s.txRefuse k 1
  else if loads && frameMalformed (s.staging k) then s.txRefuse k 4
  else f t (s.setCan k { s.can k with result := 0 })

/-- The buffer with the staging area copied in. -/
def State.loadedBuf (s : State) (k : Nat) (st : BufState) : TxBuf :=
  { st := st, frame := s.staging k, keep := s.rb (canBase k + 0x88) 5, ss := s.rb (canBase k + 0x88) 6 }

/-- A TXCMD of a buffer that exists; buffer code 3 is ignored with reason 0x1. -/
def txBuffer (src : Src) (k : BitVec 3) (b : BitVec 2) (f : Nat → Nat → State → State) (s : State) : State :=
  if b = 3 then s.ignored src (canBase k.toNat + 0x8C) 1 else f k.toNat b.toNat s

/-- CAN_LOAD (R338). -/
def canLoad (src : Src) (k : BitVec 3) (b : BitVec 2) : State → State :=
  txBuffer src k b (fun k b s => s.txCmd k b (fun st => st == .empty || st == .loaded) true
    (fun _ s => s.setCan k ((s.can k).setBuf b (s.loadedBuf k .loaded))))

/-- REQ of a buffer (R338). -/
def State.canRequest (s : State) (k b : Nat) : State :=
  s.txCmd k b (fun st => st == .loaded) false
    (fun t s => s.setCan k ((s.can k).setBuf b { t with st := .pending, abort := false }))

/-- CAN_REQ (R338). -/
def canReq (src : Src) (k : BitVec 3) (b : BitVec 2) : State → State :=
  txBuffer src k b (fun k b s => s.canRequest k b)

/-- CAN_LOADREQ (R338). -/
def canLoadreq (src : Src) (k : BitVec 3) (b : BitVec 2) : State → State :=
  txBuffer src k b (fun k b s => s.txCmd k b (fun st => st == .empty || st == .loaded) true
    (fun _ s => s.setCan k ((s.can k).setBuf b (s.loadedBuf k .pending))))

/-- CAN_ABORT (R340). -/
def canAbort (src : Src) (k : BitVec 3) (b : BitVec 2) : State → State :=
  txBuffer src k b (fun k b s => s.txCmd k b (fun st => st == .pending || st == .sending) false
    (fun t s =>
      if t.st = .pending then
        (s.setCan k ((s.can k).setBuf b { t with st := .loaded })).bump (canBase k + 0x328)
      else s.setCan k ((s.can k).setBuf b { t with abort := true })))

/-- A write to CANk.TXCMD. -/
def canTxCmd (src : Src) (k : BitVec 3) (v : Nat) (s : State) : State :=
  let b := BitVec.ofNat 2 (v / 16)
  match v % 16 with
  | 1 => canLoad src k b s
  | 2 => canReq src k b s
  | 3 => canLoadreq src k b s
  | 4 => canAbort src k b s
  | _ => s.ignored src (canBase k.toNat + 0x8C) 1

/-- The arbitration field of a frame as the bus compares it, the lowest first: base identifier, RTR or SRR, IDE,
extension, RTR (R339). -/
def frameArb (f : CanFrame) : Nat :=
  if f.ide then f.id.toNat / 2 ^ 18 * 2 ^ 22 + 2 ^ 21 + 2 ^ 20 + f.id.toNat % 2 ^ 18 * 4 + (if f.rtr then 2 else 0)
  else f.id.toNat % 2 ^ 11 * 2 ^ 22 + (if f.rtr then 2 ^ 21 else 0)

/-- The buffer chosen among those PENDING (R339); a frame of CAN FD waits while FDEN = 0. -/
def State.canChoose (s : State) (k : Nat) : Option Nat :=
  let x := s.can k
  let c := [0, 1, 2].filter (fun b => (x.buf b).st == .pending && (!(x.buf b).frame.fdf || s.rb (canBase k) 3))
  if s.rb (canBase k) 5 then c.head?
  else c.foldl (fun m b => match m with
    | none => some b
    | some a => if frameArb (x.buf b).frame < frameArb (x.buf a).frame then some b else m) none

/-- The controller may start a frame: RUNNING, integrated, not bus-off, in normal mode or internal loopback, and none
under way (R336, R345). -/
def State.canMaySend (s : State) (k : Nat) : Bool :=
  let x := s.can k
  s.running (canFn k) && !x.integrating && x.conf != .busOff && (s.canMode k == 0 || s.canMode k == 3) &&
    [0, 1, 2].all (fun b => (x.buf b).st != .sending)

/-- CAN_ARBITRATION: an opportunity to start a frame (R339). -/
def canArbitration (k : BitVec 3) (s : State) : State :=
  let n := k.toNat
  if !s.canMaySend n then s
  else match s.canChoose n with
    | none => s
    | some b =>
      let x := s.can n
      let t := x.buf b
      (s.setCan n (x.setBuf b { t with st := .sending })).emit (.can n t.frame)

/-- The buffer on its way. -/
def Can.sending (x : Can) : Option Nat := [0, 1, 2].find? (fun b => (x.buf b).st == .sending)

/-! ### Receiving (R343, R344) -/

/-- The filter key of a frame: laid out as TXSTGL and TXSTGH. -/
def frameKey (f : CanFrame) : Nat :=
  f.id.toNat + bitAt f.ide 29 + bitAt f.rtr 30 + bitAt f.fdf 31

/-- The first filter that matches (R343). -/
def State.canFilter (s : State) (k : Nat) (f : CanFrame) : Option Nat :=
  (List.range 16).find? (fun i =>
    let b := canBase k + 0x100 + 0x20 * i
    let id := s.ap b + s.ap (b + 4) * 65536
    let mask := s.ap (b + 8) + s.ap (b + 0xC) * 65536
    s.ab (b + 0x10) 2 && (frameKey f ^^^ id) &&& mask == 0)

/-- The entries of a received frame (R344). -/
def canItem (f : CanFrame) (filter ns : Nat) : List DWord :=
  let words := (f.data.length + 3) / 4
  [BitVec.ofNat 64 (2 ^ 62 + f.dlc.toNat * 2 ^ 58 + bitAt f.esi 57 + bitAt f.brs 56 + bitAt f.fdf 55 + bitAt f.rtr 54 +
     bitAt f.ide 53 + filter * 2 ^ 48 + f.id.toNat),
   BitVec.ofNat 64 (ns % 2 ^ 62)] ++
  (List.range words).map (fun i => BitVec.ofNat 64 (leNat (slice f.data (4 * i) 4)))

/-- An RX FIFO. -/
def Can.rx (x : Can) (q : Nat) : PortFifo := if q = 0 then x.rx0 else x.rx1

/-- An RX FIFO set, with its watermark notice (R344). -/
def State.setCanRx (s : State) (k q : Nat) (f : PortFifo) : State :=
  let b := canBase k
  let hys := if q = 0 then s.af (b + 0x24) 7 0 else s.af (b + 0x24) 15 8
  let (s, f) := s.fifoNotice ((s.can k).rx q) f (s.ap (b + 0x1C + 4 * q)) hys (384 + k) 0x0130
  s.setCan k (if q = 0 then { s.can k with rx0 := f } else { s.can k with rx1 := f })

/-- A frame stored in an RX FIFO, or lost (R344). -/
def State.canStore (s : State) (k q : Nat) (item : List DWord) : State :=
  let (f, ok) := ((s.can k).rx q).store 256 item
  let s := s.setCanRx k q f
  if ok then s
  else
    let s := s.bump (canBase k + 0x314 + 4 * q)
    let key := (4096 + 2 * k + q) * 256 + 0xB4
    s.faultKeyed key 625000 (384 + k) 0xB4 0 q

/-- A unit reaches the bridge: queued, or discarded when the queue of 64 is full or the hub has no node number
(R349). -/
def State.brgIngress (s : State) (u : BrgUnit) : State :=
  if s.ident.number = 0xFFF ∨ 64 ≤ s.brg.ingress.length then
    (s.bump 0x0B0104).faultMs 582 0xB9 0 u.port
  else { s with brg := { s.brg with ingress := s.brg.ingress ++ [u] } }

/-- A frame received without error goes where its filter says (R343). -/
def State.canDeliver (s : State) (k : Nat) (f : CanFrame) (ns : Nat) : State :=
  let hit := s.canFilter k f
  let dest := match hit with
    | some i => s.af (canBase k + 0x110 + 0x20 * i) 1 0
    | none => s.af (canBase k + 0x18) 1 0
  match dest with
  | 0 => s
  | 1 => s.canStore k 0 (canItem f (hit.getD 0x1F) ns)
  | 2 => s.canStore k 1 (canItem f (hit.getD 0x1F) ns)
  | _ => s.brgIngress { port := k, key := BitVec.ofNat 32 (bitAt f.ide 31 + bitAt f.rtr 30 + bitAt f.fdf 29 + f.id.toNat)
                        can := some f, data := f.data, w9 := false, ns := ns }

/-! ### Error confinement (R345, R346) -/

/-- The confinement state that the counters give. -/
def confOf (tec rec_ : Nat) : CanConf :=
  if 256 ≤ tec then .busOff else if 128 ≤ tec ∨ 128 ≤ rec_ then .passive else .active

/-- The code of PSR.STATE for a confinement state. -/
def CanConf.code : CanConf → Nat
  | .active => 1 | .passive => 2 | .busOff => 3

/-- The counters changed: the states that follow, with their events and faults (R345). -/
def State.canCounters (s : State) (k tec rec_ : Nat) : State :=
  let x := s.can k
  let c := if x.conf = .busOff then .busOff else confOf tec rec_
  let warn := decide (96 ≤ tec) || decide (96 ≤ rec_)
  let s := s.setCan k { x with tec := tec, rec_ := rec_, conf := c, ewarn := warn }
  let s := if warn ∧ !x.ewarn then s.fault (384 + k) 0xB2 0 0 else s
  if c = x.conf then s
  else
    let s := s.eventP (384 + k) 0x0131 (c.code + tec % 512 * 2 ^ 16 + rec_ % 128 * 2 ^ 32)
    match c with
    | .active => s
    | .passive => s.fault (384 + k) 0xB0 1 (bitAt (decide (128 ≤ tec)) 0)
    | .busOff =>
      let s := ((s.fault (384 + k) 0xB1 1 0).bump (canBase k + 0x310)).canDropPending k
      s.setCan k { s.can k with recovering := s.rb (canBase k) 6 }

/-- REC after a frame received: 1 less; from above 127 to a value from 119 to 127 that ISO 11898-1 leaves open. -/
def recAfter (s : State) (r : Nat) : Nat × State :=
  if 127 < r then (119 + Sys2Proof.Config.canRec s.fresh % 9, { s with fresh := s.fresh + 1 })
  else (r - 1, s)

/-- The controller that sent a frame has measured the loop delay at the frame's FDF-to-res edge (R335): what CANk.TDCR then
shows is a measurement. -/
def State.canDelay (s : State) (k : Nat) (f : CanFrame) (x : Can) : Can :=
  if f.fdf && s.rb (canBase k) 11 && decide (s.rf (canBase k + 0x10) 4 0 < 2)
    then { x with tdcr := (Config.measured (canBase k + 0xAC) s.now).truncate 7 } else x

/-- CAN_TRANSMIT_DONE: the frame under way succeeded (R340); in internal loopback the controller receives it (R343). -/
def canTransmitDone (k : BitVec 3) (s : State) : State :=
  let n := k.toNat
  let x := s.can n
  match x.sending with
  | none => s
  | some b =>
    let t := x.buf b
    let x := s.canDelay n t.frame x
    let s := (s.setCan n (x.setBuf b (if t.keep then { t with st := .loaded, abort := false } else {}))).bump
      (canBase n + 0x304)
    let s := s.canCounters n (x.tec - 1) x.rec_
    if s.canMode n = 3 then (s.bump (canBase n + 0x300)).canDeliver n t.frame s.ns else s

/-- CAN_TRANSMIT_FAILED: the frame under way lost arbitration or met an error (R339, R340). -/
def canTransmitFailed (k : BitVec 3) (lost : Bool) (s : State) : State :=
  let n := k.toNat
  let x := s.can n
  match x.sending with
  | none => s
  | some b =>
    let t := x.buf b
    let x := s.canDelay n t.frame x
    let s := if lost then s.bump (canBase n + 0x308) else s
    let stays := x.conf == .busOff || !s.running (canFn n)
    match t.bridged with
    | some e =>
      if t.abort ∨ stays then (s.setCan n (x.setBuf b {})).egressRefuse e.h 6
      else s.setCan n (x.setBuf b { t with st := .pending })
    | none =>
      if t.ss ∨ t.abort ∨ stays then
        (s.setCan n (x.setBuf b { t with st := .loaded, abort := false })).bump (canBase n + 0x328)
      else s.setCan n (x.setBuf b { t with st := .pending })

/-! ### Rate detection (R337) -/

/-- The nominal bit time of a candidate in 12.5 ns. -/
def State.candBit (s : State) (k i : Nat) : Nat :=
  let b := canBase k + 0x40 + 8 * i
  (s.rf b 8 0 + 1) * (1 + (s.rf (b + 4) 15 8 + 1) + (s.rf (b + 4) 6 0 + 1))

/-- Candidate i is skipped: its bit time exceeds MINIV / 0.75. -/
def State.candSkipped (s : State) (k i : Nat) : Bool :=
  match (s.can k).miniv with
  | none => false
  | some m => decide (m.toNat * 4 < s.candBit k i * 3)

/-- The next candidate from i on, with the rounds that end on the way; after one whole round of skips it is 0. -/
def State.candFrom (s : State) (k : Nat) : Nat → Nat → State
  | 0, i => s.setCan k { s.can k with cand := BitVec.ofNat 3 i, candSince := s.now, okRun := 0 }
  | f + 1, i =>
    let last := s.rf (canBase k + 0x14) 2 0
    if last < i then
      ((s.setCan k { s.can k with rounds := min 15 ((s.can k).rounds + 1) }).fault (384 + k) 0xB6 0 0).candFrom k f 0
    else if s.candSkipped k i then s.candFrom k f (i + 1)
    else s.setCan k { s.can k with cand := BitVec.ofNat 3 i, candSince := s.now, okRun := 0 }

/-- Rate detection moves on from the present candidate. -/
def State.nextCandidate (s : State) (k : Nat) : State := s.candFrom k 9 ((s.can k).cand.toNat + 1)

/-- The shortest interval between edges seen so far (R337). -/
def State.seenInterval (s : State) (k : Nat) (m : BitVec 16) : State :=
  let x := s.can k
  s.setCan k { x with miniv := some (match x.miniv with
    | none => m
    | some o => if m.toNat < o.toNat then m else o) }

/-- Rate detection is under way: no candidate found yet. -/
def State.detecting (s : State) (k : Nat) : Bool := s.running (canFn k) && s.canMode k == 2 && !(s.can k).found

/-- RATE_CANDIDATE_TIMEOUT: ADTIME ends without result (R337). -/
def canRateTimeout (k : BitVec 3) (miniv : BitVec 16) (s : State) : State :=
  let n := k.toNat
  if s.detecting n then
    let s := s.advanceTo ((s.can n).candSince + s.rf (canBase n + 0x14) 11 4 * 625000)
    (s.seenInterval n miniv).nextCandidate n
  else s

/-- CAN_FRAME_RECEIVED: a frame received without error, `ago` ticks after its SOF edge (R337, R343). -/
def canFrameReceived (k : BitVec 3) (f : CanFrame) (ago : Nat) (s : State) : State :=
  let n := k.toNat
  let x := s.can n
  let mode := s.canMode n
  if !s.running (canFn n) || mode == 3 || (f.fdf && !s.rb (canBase n) 3) || (x.integrating && mode != 2) ||
      (x.conf == .busOff && mode == 0) then s
  else if mode == 2 && f.fdf && f.brs then s
  else
    let sof := (s.ft - BitVec.ofNat 80 (s.time.rate.toNat * ago / 2 ^ 30)).toNat / 65536
    let s := s.bump (canBase n + 0x300)
    let s :=
      if mode = 0 then
        let (r, s) := recAfter s x.rec_
        s.canCounters n x.tec r
      else if s.detecting n then
        let ok := x.okRun + 1
        if s.rf (canBase n + 0x14) 15 12 ≤ ok then
          (s.setCan n { s.can n with okRun := ok, found := true }).eventP (384 + n) 0x0132 x.cand.toNat
        else s.setCan n { s.can n with okRun := ok }
      else s
    s.canDeliver n f sof

/-- CAN_ERROR_DETECTED: a bus error with its code, in the nominal or the data phase (R345, R337). -/
def canErrorDetected (k : BitVec 3) (code : BitVec 3) (dataPhase : Bool) (role : CanErrorRole) (miniv : BitVec 16)
    (s : State) : State :=
  let n := k.toNat
  let x := s.can n
  if !s.running (canFn n) then s
  else
    let x1 := if dataPhase then { x with dlec := code } else { x with lec := code }
    let s := (s.setCan n x1).bump (canBase n + 0x30C)
    if s.canMode n = 0 then
      match role with
      | .receiver => s.canCounters n x.tec (x.rec_ + 1)
      | .receiverSevere => s.canCounters n x.tec (x.rec_ + 8)
      | .transmitter => s.canCounters n (x.tec + 8) x.rec_
      | .transmitterExempt => s
    else if s.detecting n then
      let s := s.seenInterval n miniv
      if code = 1 ∨ code = 2 ∨ code = 6 then s.nextCandidate n else s
    else s

/-- CAN_RECOVERY_DONE: 128 occurrences of 11 recessive bits (R346). -/
def canRecoveryDone (k : BitVec 3) (s : State) : State :=
  let n := k.toNat
  let x := s.can n
  if x.conf = .busOff ∧ x.recovering then
    (s.setCan n { x with tec := 0, rec_ := 0, conf := .active, recovering := false, ewarn := false }).eventP (384 + n)
      0x0131 1
  else s

/-- RECOVER (R346). -/
def canRecover (k : BitVec 3) (s : State) : State :=
  let n := k.toNat
  let x := s.can n
  if s.running (canFn n) ∧ x.conf = .busOff ∧ !s.rb (canBase n) 6 ∧ !x.recovering then
    s.setCan n { x with recovering := true }
  else s.bump (canBase n + 0x338)

/-- A write to CANk.CMD. -/
def canCmd (src : Src) (k : BitVec 3) (v : Nat) (s : State) : State :=
  if v % 16 = 1 then canRecover k s else s.ignored src (canBase k.toNat + 0x94) 1

/-- BUS_INTEGRATION_DONE (R347, ISO 11898-1). -/
def canIntegrated (k : BitVec 3) (s : State) : State :=
  let n := k.toNat
  if s.running (canFn n) then s.setCan n { s.can n with integrating := false } else s

/-- PROTOCOL_EXCEPTION: a recessive res bit in an FD frame with PXD = 0 (R346). -/
def canProtocolException (k : BitVec 3) (s : State) : State :=
  let n := k.toNat
  if s.running (canFn n) ∧ !s.rb (canBase n) 10 then
    ((s.setCan n { s.can n with integrating := true }).bump (canBase n + 0x330)).fault (384 + n) 0xB3 0 0
  else s

/-- The word LD.CANXm of a controller. -/
def canxWord (k : Nat) : Nat := ldOff (k / 4) (0x3800 + 2 * (k % 4))

/-- CAN_WAKE_UP: a wake-up pattern at a transceiver in standby (R336). -/
def canWake (k : BitVec 3) (s : State) : State :=
  let n := k.toNat
  if !s.running (canFn n) ∧ s.rb (canxWord n) 0 then
    ((s.setCan n { s.can n with wakeSeen := true }).bump (canBase n + 0x334)).event (384 + n) 0x0133
  else s

/-- TXD_DOMINANT_TIMEOUT: the transceiver releases the bus (R332). -/
def canDominant (k : BitVec 3) (s : State) : State :=
  let n := k.toNat
  (s.setCan n { s.can n with domTimeout := true }).fault (384 + n) 0xB5 1 0

/-- CAN_PLL_LOCKED (R333). -/
def canPllLocked (s : State) : State := { s with canPll := true }

/-- CAN_RX_POP (R344). -/
def State.canPop (s : State) (k q : Nat) (ecc : EccResult) : DWord × State :=
  let f := (s.can k).rx q
  let b := canBase k
  let s := s.popReport f ecc (384 + k) (b + 0x324) (b + 0x31C + 4 * q) (b + 0xC0 + 8 * q)
  let (v, f) := f.pop ecc
  (v, s.setCanRx k q f)

/-! ### The controller functions (R347) -/

/-- Fresh state: counters, FIFOs, buffers and ADSTAT (R347). -/
def State.canFresh (s : State) (k : Nat) : State :=
  let s := s.canAbandon k
  s.setCan k { domTimeout := (s.can k).domTimeout }

/-- A controller enters RUNNING: it integrates (R347), and rate detection starts at candidate 0 (R337). -/
def State.canRunning (s : State) (k : Nat) : State :=
  let s := s.setCan k { s.can k with integrating := true, wakeSeen := false }
  if s.canMode k = 2 then
    let s := s.setCan k { s.can k with found := false, rounds := 0, miniv := none }
    s.candFrom k 9 0
  else s

/-- A STOP of a controller (R341, R356). -/
def State.canStopping (s : State) (k : Nat) : State := s.canDropPending k

/-- PSR.STATE: integrating, rate detection, or the confinement state. -/
def State.canPsrState (s : State) (k : Nat) : Nat :=
  let x := s.can k
  if s.running (canFn k) ∧ s.canMode k = 2 then 4 else if x.integrating then 0 else x.conf.code

/-- The code of a buffer state. -/
def BufState.code : BufState → Nat
  | .empty => 0 | .loaded => 1 | .pending => 2 | .sending => 3

/-- The live CAN registers. -/
def State.canView (s : State) (off : Nat) : Option Nat :=
  let k := off / 0x2000 % 8
  let x := s.can k
  match off % 0x2000 with
  | 0x90 => some (x.result.toNat * 256 + x.b0.st.code + x.b1.st.code * 4 + x.b2.st.code * 16)
  | 0xA0 => some (s.canPsrState k + x.lec.toNat * 8 + x.dlec.toNat * 64 + bitAt x.ewarn 9 + bitAt x.sending.isSome 11)
  | 0xA4 => some (x.tec % 512 + x.rec_ % 128 * 65536)
  | 0xA8 => some (bitAt x.found 0 + (if x.found then x.cand.toNat else 0) * 2 + x.rounds * 16 +
      (x.miniv.getD 0).toNat * 65536)
  | 0xAC => some x.tdcr.toNat
  | 0xC4 => some (x.rx0.last.toNat / 2 ^ 32)
  | 0xCC => some (x.rx1.last.toNat / 2 ^ 32)
  | 0xD0 => some (x.rx0.entries.length + x.rx1.entries.length * 65536)
  | 0xD4 => some (bitAt (decide (s.ap (canBase k + 0x1C) < x.rx0.entries.length)) 0 +
      bitAt (decide (s.ap (canBase k + 0x20) < x.rx1.entries.length)) 1 + bitAt x.rx0.under 2 + bitAt x.rx1.under 3)
  | _ => none

end Sys2Proof.Machine
end

