-- ==== Sys2Proof/Machine/BrgOps.lean ====
section
/-! DEFINITION. The bridge (13, R348 to R366): ingress and UART messages, the lookup, bridged frames and the egress to
ports, error returns, application messages, and the two route banks. -/

namespace Sys2Proof.Machine

/-! ### Ingress from RS-485 channels (R349) -/

/-- A unit discarded, counted and reported (R349). -/
def State.brgDiscard (s : State) (port : Nat) : State := (s.bump 0x0B0104).faultMs 582 0xB9 0 port

/-- A UART message ends: it becomes a unit, or is discarded when it is spoiled or longer than 2,036 bytes (R349). -/
def State.asmFinish (s : State) (ch : Nat) : State :=
  let x := s.uart ch
  let s := s.setUart ch { x with asmOpen := false, asmBad := false, asmStart := 0, asmChars := [] }
  let w9 := s.rf (uartBase ch) 3 2 == 2
  let data := x.asmChars.flatMap (fun c => if w9 then leBytes c.toNat 2 else leBytes c.toNat 1)
  if x.asmBad ∨ 2036 < data.length then s.brgDiscard (8 + ch)
  else s.brgIngress { port := 8 + ch, key := BitVec.ofNat 32 (leNat (data.take 4)), can := none, data := data, w9 := w9
                      ns := x.asmStart }

/-- One entry of a receive FIFO reaches the message in assembly (R349). -/
def State.asmTake (s : State) (ch : Nat) (e : DWord) : State :=
  let v := e.toNat
  let x := s.uart ch
  let start := s.ns - (s.ns + 2 ^ 48 - nbits v 61 14) % 2 ^ 48
  let bad := nbit v 9 || nbit v 10 || nbit v 11
  let one : Uart := { x with asmOpen := true, asmBad := bad, asmStart := start, asmChars := [BitVec.ofNat 9 v] }
  if isMarker e then (if x.asmOpen then s.setUart ch { x with asmBad := true } else s)
  else if nbit v 13 then (if x.asmOpen then s.asmFinish ch else s)
  else if s.uartFrame ch = 0 then (s.setUart ch one).asmFinish ch
  else if nbit v 12 then (if x.asmOpen then s.brgDiscard (8 + ch) else s).setUart ch one
  else if x.asmOpen then
    s.setUart ch { x with asmBad := x.asmBad || bad, asmChars := x.asmChars ++ [BitVec.ofNat 9 v] }
  else s

/-- The bridge reads the receive FIFO of a channel that it owns (R290, R349). -/
def State.asmDrain (s : State) (ch : Nat) : State :=
  if s.uartBridged ch && s.running 8 then
    let es := (s.uart ch).rx.entries
    let last := es.getLast?.getD (s.uart ch).rx.last
    es.foldl (fun s e => s.asmTake ch e) (s.setUartRx ch { (s.uart ch).rx with entries := [], last := last })
  else s

/-- UART_CHARACTER_RECEIVED with what the bridge does of it (R289, R349). -/
def brgCharacter (ch : BitVec 5) (data : BitVec 9) (perr ferr brk : Bool) (ago : Nat) (s : State) : State :=
  (uartReceived ch data perr ferr brk ago s).asmDrain ch.toNat

/-- UART_IDLE_GAP with what the bridge does of it (R290, R349). -/
def brgIdleGap (ch : BitVec 5) (s : State) : State := (uartIdleGap ch s).asmDrain ch.toNat

/-! ### Route banks (R362 to R364) -/

/-- The active bank. -/
def Brg.bank (x : Brg) : List Host.Cell := if x.active then x.bank1 else x.bank0

/-- The shadow bank. -/
def Brg.shadow (x : Brg) : List Host.Cell := if x.active then x.bank0 else x.bank1

/-- The shadow bank set. -/
def Brg.setShadow (x : Brg) (m : List Host.Cell) : Brg := if x.active then { x with bank0 := m } else { x with bank1 := m }

/-- Word w of entry i of a bank whose entries have 32 bytes (R239, R363). -/
def bankWord (m : List Host.Cell) (i w : Nat) : Nat := leNat (memReadN m (32 * i + 4 * w) 4)

/-- The slots of a bank with VALID = 1, rising. -/
def validSlots (m : List Host.Cell) : List Nat :=
  m.filterMap (fun c => if c.1 % 32 = 3 ∧ nbit c.2.toNat 7 then some (c.1 / 32) else none)

/-- VALID := 0 in one entry of a bank. -/
def clearValid (m : List Host.Cell) (i : Nat) : List Host.Cell :=
  memWrite m (32 * i + 3) (memRead m (32 * i + 3) &&& 0x7F)

/-- A port code of R348. -/
def portCode (p : Nat) : Bool := p < 40 || p == 0x3F

/-- A malformed route entry (R363). -/
def routeMalformed (m : List Host.Cell) (i : Nat) : Bool :=
  let w0 := bankWord m i 0
  let dst := w0 % 256
  nbits w0 27 26 == 3 || nbits w0 25 23 == 0 || nbits w0 22 16 != 0 || nbits (bankWord m i 1) 19 0 != 0 ||
    bankWord m i 5 != 0 || bankWord m i 6 != 0 || bankWord m i 7 != 0 || !portCode (nbits w0 15 8) ||
    !portCode dst || (decide (8 ≤ dst) && decide (dst < 40) && bankWord m i 4 != 0)

/-- Entry i of a bank matches a unit (R350). -/
def routeMatch (m : List Host.Cell) (u : BrgUnit) (i : Nat) : Bool :=
  !routeMalformed m i && nbits (bankWord m i 0) 15 8 == u.port &&
    (u.key.toNat ^^^ bankWord m i 2) &&& bankWord m i 3 == 0

/-- The matches of a unit in the active bank: the first, and with CONT of that one later ones, up to four in all
(R350). -/
def State.routeMatches (s : State) (u : BrgUnit) : List Nat :=
  let m := s.brg.bank
  match (validSlots m).filter (routeMatch m u) with
  | [] => []
  | i :: r => if nbit (bankWord m i 0) 30 then (i :: r).take 4 else [i]

/-- The bridged frame that a match originates (R351, R352). -/
def State.originateRoute (s : State) (u : BrgUnit) (i : Nat) : State :=
  let m := s.brg.bank
  let w0 := bankWord m i 0
  let w1 := bankWord m i 1
  let nw := bankWord m i 4
  let mask := bankWord m i 3
  let keep := nbit w0 29
  let stream := bitAt s.brg.active 11 + i
  let body := beBytes (u.data.length + bitAt u.w9 11) 4 ++ beBytes u.ns 8 ++ u.data
  let payload := body ++ List.replicate ((4 - body.length % 4) % 4) 0
  let (kind, low, tag) := match u.can with
    | some f =>
      let id := if keep then f.id.toNat else ((nw &&& mask) ||| (f.id.toNat &&& (0xFFFFFFFF - mask))) % 2 ^ 29
      let ide := if keep then f.ide else nbit nw 31
      (1, bitAt ide 31 + bitAt (nbit nw 30) 30 + bitAt (nbit nw 29) 29 + id,
        f.dlc.toNat * 4096 + bitAt f.rtr 11 + bitAt f.esi 10 + u.port)
    | none => (2, 0, u.port)
  s.originate { cls := BitVec.ofNat 3 (nbits w0 25 23), typ := 7, mc := nbit w0 28
                dest := BitVec.ofNat 12 (nbits w1 31 20)
                tsel := if nbit w0 28 then 0 else BitVec.ofNat 2 (nbits w0 27 26)
                addr := BitVec.ofNat 48 (kind * 2 ^ 44 + w0 % 256 * 2 ^ 32 + low), tag := BitVec.ofNat 16 tag
                stream := BitVec.ofNat 16 stream } payload

/-- BRIDGE_LOOKUP: the unit at the head of the ingress queue (R350). -/
def brgLookup (s : State) : State :=
  match s.brg.ingress with
  | [] => s
  | u :: r =>
    if !s.running 8 then s
    else
      let s := { s with brg := { s.brg with ingress := r } }
      match s.routeMatches u with
      | [] => (s.bump 0x0B0100).faultMs 582 0xB8 0 u.port
      | ms => ms.foldl (fun s i => s.originateRoute u i) s

/-- The waiting swap request of the route banks is withdrawn (R364). -/
def State.brgWithdraw (s : State) : State :=
  if s.brg.req then { s with brg := { s.brg with req := false, waitSort := false } }.event 581 0x0142 else s

/-- A command without effect (BRG.CMDNOP). -/
def State.brgNop (s : State) : State := s.bump 0x0B0130

/-- The swap of the route banks (R364). -/
def State.brgSwapNow (s : State) : State :=
  let late := s.brg.waitSort
  let s := { s with brg := { s.brg with active := !s.brg.active, sh := .opened, req := false, waitSort := false } }
  let s := (s.bump 0x0B0120).eventP 581 0x0140 (bitAt s.brg.active 0)
  if late then (s.event 581 0x0141 { late := true }).fault 581 0xBC 0 0 else s

/-- While function 8 is STOPPED a swap takes effect at once when the shadow is READY (R365). -/
def State.brgAtOnce (s : State) : State :=
  if (s.func 8).st == .stopped && s.brg.req && s.brg.sh == .ready then s.brgSwapNow else s

/-- BRG_SEAL (R364, R257). -/
def brgSeal (s : State) : State :=
  if s.brg.sh = .opened then { s with brg := { s.brg with sh := .sorting } } else s.brgNop

/-- BRG_SWAP (R364, R258): an OPEN bank is sealed first; given while SORTING, the swap waits for the sort. -/
def brgSwap (s : State) : State :=
  let b := s.brg
  let sh : BankState := if b.sh = .opened then .sorting else b.sh
  State.brgAtOnce { s with brg := { b with req := true, waitSort := b.sh == .sorting, sh := sh } }

/-- BRG_DISARM (R364, R258). -/
def brgDisarm (s : State) : State := if s.brg.req then s.brgWithdraw else s.brgNop

/-- BRG_CLEARSH: every entry of the shadow reads VALID = 0, and the bank is OPEN again (R364, R257). -/
def brgClearsh (s : State) : State :=
  let s := s.brgWithdraw
  let m := s.brg.shadow
  let b := s.brg.setShadow ((validSlots m).foldl clearValid m)
  { s with brg := { b with sh := .opened } }

/-- A write to BRG.CMD. -/
def brgCmd (src : Src) (v : Nat) (s : State) : State :=
  match v % 16 with
  | 1 => brgSeal s
  | 2 => brgSwap s
  | 4 => brgDisarm s
  | 5 => brgClearsh s
  | _ => s.ignored src 0x0B0000 1

/-- BRG_SORT_DONE: malformed entries are skipped, counted and reported, and the bank is READY (R363, R364). -/
def brgSortDone (s : State) : State :=
  if s.brg.sh = .sorting then
    let m := s.brg.shadow
    let bad := (validSlots m).filter (routeMalformed m)
    let s := bad.foldl (fun s i => (s.bump 0x0B011C).fault 581 0xBD 0 i) s
    State.brgAtOnce { s with brg := { s.brg with sh := .ready } }
  else s

/-- BRG_SWAP_TAKES_EFFECT: between two lookups, once the shadow is READY (R364). -/
def brgSwapTakes (s : State) : State := if s.brg.req && s.brg.sh == .ready then s.brgSwapNow else s

/-- BRG_SHADOW_WRITE: bytes written into the shadow bank (R364, R256). -/
def brgShadowWrite (off : BitVec 16) (data : List Byte) (s : State) : State :=
  if s.brg.sh = .clearing then s
  else
    let s := { s with brg := s.brg.setShadow (memWriteN s.brg.shadow off.toNat data) }
    if s.brg.sh = .opened then s
    else
      let s := s.brgWithdraw
      { s with brg := { s.brg with sh := .opened } }

/-- BRG_AIDX_WRITE: the entry of the active bank copied into AENT0 to AENT7 (R362). -/
def brgAidx (v : Word) (s : State) : State :=
  let s := s.setReg 0x0B0014 (maskedWrite (s.rg 0x0B0014) 0x7FF v)
  let i := s.rv 0x0B0014
  (List.range 8).foldl (fun s w => s.setNat (0x0B0040 + 4 * w) (bankWord s.brg.bank i w)) s

/-! ### Egress (R353 to R358) -/

/-- A frame delivered with CM counts (R361). -/
def State.brgMarked (s : State) (d : Delivered) : State := if d.h.cm then s.bump 0x0B0110 else s

/-- The CAN frame that a bridged frame asks for (R352, R355). -/
def bridgedCan (h : Hdr) (data : List Byte) : CanFrame :=
  let a := h.addr.toNat
  let fdf := nbit a 30
  let rtr := nbit h.tag.toNat 11
  let dlc := if rtr then nbits h.tag.toNat 15 12 else dlcFor data.length
  let n := if rtr then 0 else dlcBytes dlc true
  { id := BitVec.ofNat 29 a, ide := nbit a 31, rtr := rtr, fdf := fdf, brs := nbit a 29
    esi := nbit h.tag.toNat 10, dlc := BitVec.ofNat 4 dlc
    data := (data ++ List.replicate (n - data.length) 0).take n }

/-- The port is a bridge port whose function is RUNNING (R348, R355). -/
def State.bridgePort (s : State) (p : Nat) : Bool :=
  if p < 8 then s.running (canFn p) && s.rf (canBase p) 9 8 != 0
  else if p < 40 then s.running (208 + (p - 8)) && s.uartBridged (p - 8)
  else false

/-- The unit cannot be sent on the port (R355 status 0x4). -/
def State.bridgeFormat (s : State) (p : Nat) (h : Hdr) (data : List Byte) (w9 short : Bool) : Bool :=
  short ||
    (if p < 8 then
      decide (64 < data.length) || (!nbit h.addr.toNat 30 && decide (8 < data.length)) ||
        (nbit h.tag.toNat 11 && !data.isEmpty) || frameMalformed (bridgedCan h data)
    else w9 && s.rf (uartBase (p - 8)) 3 2 != 2)

/-- The words that a message becomes: 9-bit characters from pairs, bit 8 of the first with FRAME = 0b10, EOM on the
last (R357). -/
def uartWords (w9 mark : Bool) (data : List Byte) : List (BitVec 10) :=
  let chars := if w9 then (List.range (data.length / 2)).map (fun i => leNat (slice data (2 * i) 2) % 512)
    else data.map BitVec.toNat
  let chars := if mark && !w9 then chars.zipIdx.map (fun e => if e.2 = 0 then e.1 + 256 else e.1) else chars
  chars.zipIdx.map (fun e => BitVec.ofNat 10 (e.1 + bitAt (e.2 + 1 == chars.length) 9))

/-- A bridged frame is checked and queued for its port, or refused with the first status that applies (R355). -/
def State.brgEgress (s : State) (d : Delivered) : State :=
  let s := s.brgMarked d
  let p := nbits d.h.addr.toNat 39 32
  let w0 := beNat (slice d.payload 0 4)
  let count := w0 % 2048
  let w9 := nbit w0 11
  let data := slice d.payload 12 count
  let e : Egress := { h := d.h, data := data, w9 := w9 }
  if !s.running 8 then s.egressRefuse d.h 1
  else if !s.bridgePort p then s.egressRefuse d.h 2
  else if p < 8 ∧ s.canMode p ≠ 0 then s.egressRefuse d.h 3
  else if s.bridgeFormat p d.h data w9 (decide (data.length < count)) then s.egressRefuse d.h 4
  else if p < 8 then
    if 32 ≤ (s.can p).egress.length then s.egressRefuse d.h 5
    else s.setCan p { s.can p with egress := (s.can p).egress ++ [e] }
  else
    let ch := p - 8
    if 8 ≤ (s.uart ch).egress.length then s.egressRefuse d.h 5
    else s.setUart ch { s.uart ch with egress := (s.uart ch).egress ++
      [{ e with words := uartWords w9 (s.uartFrame ch == 2) data }] }

/-- A frame in its turn, or one whose number has been given up (R354). -/
def State.brgTurn (s : State) (d : Delivered) : State := if d.late then s.bump 0x0B0134 else s.brgEgress d

/-- BRIDGED_FRAME_RECEIVED: a delivered MKIND 1 or 2 frame, in the sequence order of its stream (R354, R355). -/
def brgFrameReceived (s : State) : State :=
  match s.takeInbox .bridged with
  | none => s
  | some (d, s) =>
    if d.ordered || d.h.mc then s.brgTurn d
    else
      let k := streamKey d.h
      let (out, x) := (tabGet ({} : Stream) s.fwd.brgStreams k).arrive d true s.now
      out.foldl (fun s e => if e.sink == .bridged then s.brgTurn e else s)
        { s with fwd := { s.fwd with brgStreams := tabSet {} s.fwd.brgStreams k x } }

/-- ORDER_HOLD_EXPIRY of the bridge's stage (R354). -/
def brgOrderExpiry (src : BitVec 12) (slot : BitVec 1) (cls : BitVec 3) (s : State) : State :=
  let k := (src.toNat * 2 + slot.toNat) * 8 + cls.toNat
  let x : Stream := tabGet {} s.fwd.brgStreams k
  match x.held with
  | [] => s
  | e :: _ =>
    let s := s.advanceTo (e.2 + s.ap 0x0B0008 * ticksPerUs)
    let (out, x) := x.expire
    let s := { s with fwd := { s.fwd with brgStreams := tabSet {} s.fwd.brgStreams k x } }
    out.foldl State.brgTurn (s.bump 0x0B0114)

/-- BRIDGE_EGRESS_CAN: the head frame moved into a free owned buffer (R356). -/
def brgEgressCan (k : BitVec 3) (s : State) : State :=
  let n := k.toNat
  let x := s.can n
  match x.egress with
  | [] => s
  | e :: r =>
    if x.conf = .busOff then (s.setCan n { x with egress := r }).egressRefuse e.h 6
    else if !s.running (canFn n) then s
    else match [0, 1, 2].find? (fun b => s.bufOwned n b && (x.buf b).st == .empty) with
      | none => s
      | some b => s.setCan n (Can.setBuf { x with egress := r } b
          { st := .pending, frame := bridgedCan e.h e.data, bridged := some e })

/-- BRIDGE_EGRESS_UART: words of the message at the head, while the transmit FIFO has room (R357). -/
def brgEgressUart (ch : BitVec 5) (s : State) : State :=
  let n := ch.toNat
  let x := s.uart n
  match x.egress with
  | [] => s
  | e :: r =>
    if !s.running (208 + n) then s
    else
      let room := 64 - x.tx.length
      let rest := e.words.drop room
      s.setUart n { x with tx := x.tx ++ e.words.take room
                           egress := if rest.isEmpty then r else { e with words := rest } :: r }

/-- ERROR_RETURN_RECEIVED (R359). -/
def brgErrorReturn (s : State) : State :=
  match s.takeInbox .errorReturn with
  | none => s
  | some (d, s) =>
    let a := d.h.addr.toNat
    let w0 := beNat (slice d.payload 0 4)
    let st := nbits w0 18 16
    let port := nbits a 39 32
    (((s.brgMarked d).bump 0x0B010C).fault 583 0xBA 1 (st + port * 8)).eventP 583 0x0143
      (a % 2 ^ 32 + st * 2 ^ 32 + port * 2 ^ 40 + w0 % 4096 * 2 ^ 48)

/-! ### The message queue (R360) -/

/-- The message queue set, with its watermark notice (R360). -/
def State.setMsgq (s : State) (f : PortFifo) : State :=
  let (s, f) := s.fifoNotice s.brg.msgq f (s.ap 0x0B000C) (s.ap 0x0B0010) 584 0x0144
  { s with brg := { s.brg with msgq := f } }

/-- APPLICATION_MESSAGE_RECEIVED: stored whole in the message queue, or lost (R360). -/
def brgMessage (s : State) : State :=
  match s.takeInbox .appMsg with
  | none => s
  | some (d, s) =>
    let s := s.brgMarked d
    let h := d.h
    let n := h.len.toNat
    if n = 0 ∨ 16 < n then s.bump 0x0B0118
    else
      let item := [BitVec.ofNat 64 (2 ^ 62 + h.src.toNat * 2 ^ 50 + h.sslot.toNat * 2 ^ 49 + h.cls.toNat * 2 ^ 46 +
          bitAt h.cm 45 + bitAt h.mc 44 + (n - 1) * 2 ^ 39), BitVec.ofNat 64 (s.ns % 2 ^ 62)] ++
        (List.range n).map (fun i => BitVec.ofNat 64 (beNat (slice d.payload (4 * i) 4)))
      let (f, ok) := s.brg.msgq.store 256 item
      let s := s.setMsgq f
      if ok then s else (s.bump 0x0B0124).faultMs 584 0xBE 0 0

/-- MESSAGE_QUEUE_POP (R360). -/
def State.msgPop (s : State) (ecc : EccResult) : DWord × State :=
  let f := s.brg.msgq
  let s := s.popReport f ecc 584 0x0B012C 0x0B0128 0x0B0080
  let (v, f) := f.pop ecc
  (v, s.setMsgq f)

/-! ### Function 8 (R365) -/

/-- START or RESTART: the ingress queue and the message queue empty, notices armed. -/
def State.brgFresh (s : State) : State := { s with brg := { s.brg with ingress := [], msgq := {} } }

/-- A STOP: the ingress units found are discarded and counted, and the queued CAN frames are abandoned (R356, R365). -/
def State.brgStopping (s : State) : State :=
  let n := s.brg.ingress.length
  let s := { (s.bumpBy 0x0B0104 n) with brg := { s.brg with ingress := [] } }
  (List.range 8).foldl (fun s k =>
    let q := (s.can k).egress
    q.foldl (fun s e => s.egressRefuse e.h 6) (s.setCan k { s.can k with egress := [] })) s

/-- The live BRG registers. -/
def State.brgView (s : State) (off : Nat) : Option Nat :=
  let b := s.brg
  match off with
  | 0x0B0004 => some ((match b.sh with | .opened => 0 | .sorting => 1 | .ready => 2 | .clearing => 3) +
      bitAt b.active 3 + bitAt b.req 4 + bitAt b.waitSort 6 +
      bitAt (decide (s.ap 0x0B000C < b.msgq.entries.length)) 7)
  | 0x0B0084 => some (b.msgq.last.toNat / 2 ^ 32)
  | 0x0B0088 => some (b.msgq.entries.length + bitAt b.msgq.under 16)
  | _ => none

end Sys2Proof.Machine
end

