-- ==== Sys2Proof/Machine/EngineOps.lean ====
section
/-! DEFINITION. Pinna engines (12): their instructions, queues, flags, program store and placement. -/

namespace Sys2Proof.Machine

/-! ### Registers and state -/

/-- An engine: index 5·nn + e. -/
def State.engine (s : State) (i : Nat) : Engine := tabGet {} s.engines i

/-- An engine set. -/
def State.setEngine (s : State) (i : Nat) (x : Engine) : State := { s with engines := tabSet {} s.engines i x }

/-- The index of logical engine e of frond nn. -/
def engIdx (nn : BitVec 4) (e : BitVec 2) : Nat := 5 * nn.toNat + e.toNat

/-- The frond of an engine index. -/
def engFrond (i : Nat) : Nat := i / 5

/-- The register base of an engine (R330). -/
def engBase (i : Nat) : Nat := frdBase (i / 5) + 0x1000 + 0x100 * (i % 5)

/-- TXD, SHDIR, DBASE, WIN, SIDE and the cycles of a step, in core ticks. -/
def State.txd (s : State) (i : Nat) : Nat := s.rf (engBase i) 15 12
/-- SHDIR (R310). -/
def State.shdir (s : State) (i : Nat) : Bool := s.rb (engBase i) 11
/-- DBASE. -/
def State.dbase (s : State) (i : Nat) : Nat := s.rf (engBase i) 10 8
/-- WIN.SIZE. -/
def State.winSize (s : State) (i : Nat) : Nat := s.rf (engBase i + 4) 6 0
/-- WIN.BASE. -/
def State.winBase (s : State) (i : Nat) : Nat := s.rf (engBase i + 4) 13 8
/-- One step: DIV + 1 engine cycles of 5 core ticks (R304). -/
def State.stepTicks (s : State) (i : Nat) : Nat := (s.rv (engBase i + 0x10) + 1) * 5

/-- Word w of the program store of a frond (R319). -/
def State.progWord (s : State) (nn w : Nat) : Nat :=
  s.rf (frdBase nn + 0x2000 + 8 * w) 15 0 + s.rf (frdBase nn + 0x2004 + 8 * w) 7 0 * 65536

/-- The level of line i of the engine's frond (R308). -/
def State.engLevel (s : State) (i k : Nat) : Bool := (s.line (16 * engFrond i + k)).level

/-- Delay steps still to run (R304, R307). -/
def State.delayLeft (s : State) (i : Nat) : Nat :=
  let x := s.engine i
  let t := s.stepTicks i
  min x.delay ((x.nextAt - s.now + t - 1) / t)

/-! ### Errors (R321, R327) -/

/-- The physical engine that carries a logical one (R326). -/
def State.physical (s : State) (i : Nat) : Nat := nbits (s.frond (engFrond i)).map.toNat (3 * (i % 5) + 2) (3 * (i % 5))

/-- A working spare is held. -/
def Frond.spareWorks (x : Frond) : Bool := x.spare != 7 && x.spareOk

/-- The physical engine of a logical engine is marked failing (R327). -/
def State.markFailing (s : State) (i : Nat) : State :=
  let x := s.frond (engFrond i)
  s.setFrond (engFrond i) { x with failing := x.failing ||| BitVec.ofNat 5 (2 ^ s.physical i), pending := x.spareWorks }

/-- An engine error: STOPPED with PRESV = 1 and PC at the failing instruction (R321). -/
def State.engError (s : State) (i cause : Nat) : State :=
  let x := s.engine i
  let s := s.setEngine i { x with err := some (x.pc, BitVec.ofNat 3 cause), stalled := false, delay := 0 }
  let f := s.func (128 + i)
  let s := s.setFunc (128 + i) { f with st := .stopped, presv := true }
  let s := (s.bump (engBase i + 0x70)).fault (256 + i) 0xA0 1 (cause + x.pc.toNat * 8)
  if cause = 5 then s.markFailing i else s

/-! ### Pin commands (R311, R312) -/

/-- The minimum time of a level that an engine sets: 250 ns (R312). -/
def minLevelTicks : Nat := 157

/-- A pin command reaches the line die: it waits when the level has not yet stood for 250 ns, and the last of several
that wait takes effect (R312). -/
def State.engineDrive (s : State) (l : Nat) (v : Bool) : State :=
  let x := s.line l
  if s.now < x.engAt + minLevelTicks then s.setLine l { x with deferred := if v = x.cmd then none else some v }
  else if v = x.cmd then s
  else (s.setLine l { x with engAt := s.now, deferred := none }).lineCommand l v

/-- Pin commands of an engine: kept as its state, and sent to the lines that name it while the frond is RUNNING (R304,
R311). -/
def State.pinCommands (s : State) (i : Nat) (ps : List (Nat × Bool)) : State :=
  ps.foldl (fun s (k, v) =>
    let x := s.engine i
    let b := BitVec.ofNat 16 (2 ^ k)
    let s := s.setEngine i { x with pins := if v then x.pins ||| b else x.pins &&& ~~~b }
    let l := 16 * engFrond i + k
    if (s.line l).osrc = 2 + i % 5 ∧ (s.line l).isOutput l ∧ s.frondRuns l then s.engineDrive l v else s) s

/-- The side-set of a word (R305, R311). -/
def State.sideSet (s : State) (i w : Nat) : List (Nat × Bool) :=
  if nbit w 16 then
    let v := s.rv (engBase i + 0xC)
    (if nbit v 4 then [(nbits v 3 0, nbit w 14)] else []) ++ (if nbit v 12 then [(nbits v 11 8, nbit w 15)] else [])
  else []

/-- PIN_COMMAND_DEFERRED: the 250 ns have passed (R312). -/
def enginePinDeferred (l : BitVec 8) (s : State) : State :=
  let n := l.toNat
  let x := s.line n
  match x.deferred with
  | none => s
  | some v =>
    let s := s.advanceTo (x.engAt + minLevelTicks)
    if s.frondRuns n then (s.setLine n { x with deferred := none, engAt := s.now }).lineCommand n v
    else s.setLine n { x with deferred := none }

/-! ### Issue and completion (R307) -/

/-- PC moves to the next instruction or a target, and the delay runs (R306, R307); outside the window it is an engine
error (R321 causes 1 and 2). -/
def State.engNext (s : State) (i w : Nat) (target : Option Nat) (stallEnd : Bool) : State :=
  let x := s.engine i
  let dly := nbits w 19 17
  let to_ := target.getD (x.pc.toNat + 1)
  if s.winSize i ≤ to_ then s.engError i (if target.isSome then 1 else 2)
  else s.setEngine i { x with
    pc := BitVec.ofNat 6 to_, stalled := false, delay := dly
    nextAt := if stallEnd then s.now + 5 + dly * s.stepTicks i else s.now + (1 + dly) * s.stepTicks i }

/-- The instruction stalls (R307). -/
def State.engStall (s : State) (i : Nat) : State := s.setEngine i { s.engine i with stalled := true }

/-- The word at PC. -/
def State.engWord (s : State) (i : Nat) : Nat := s.progWord (engFrond i) (s.winBase i + (s.engine i).pc.toNat)

/-- The OP of a word. -/
def opOf (w : Nat) : Nat := nbits w 23 20

/-- Operand bits that their type does not name are 0, and no operand holds a reserved code (R305, R306). -/
def operandOk (w : Nat) : Bool :=
  let z (hi lo : Nat) : Bool := nbits w hi lo == 0
  match opOf w with
  | 0 => if nbit w 11 then nbits w 13 12 == 1 && z 10 2 else z 10 4
  | 1 => z 5 0
  | 2 => nbits w 12 11 != 3 && z 5 4
  | 3 => z 10 0
  | 4 => z 9 0
  | 5 => true
  | 6 => !nbit w 13 || z 12 7
  | 7 => decide (nbits w 13 10 < 13)
  | 8 => (nbit w 13 || nbit w 12) && z 3 2
  | 9 => z 12 12 && z 3 0
  | _ => false

/-- An instruction of the wanted type at PC issues: its side-set takes effect, a reserved code is engine error 0, and
the meaning runs (R307, R321). `own` says that the meaning merges the side-set with its own pin commands (R311). -/
def State.engIssue (s : State) (nn : BitVec 4) (e : BitVec 2) (want : Nat → Bool) (own : Bool)
    (f : State → Nat → Nat → State) : State :=
  let i := engIdx nn e
  let x := s.engine i
  let w := s.engWord i
  if !s.running (128 + i) || x.stalled || x.delay != 0 then s
  else if 10 ≤ opOf w then
    let s := s.advanceTo x.nextAt
    (s.pinCommands i (s.sideSet i w)).engError i 0
  else if !want w then s
  else
    let s := s.advanceTo x.nextAt
    let s := if own then s else s.pinCommands i (s.sideSet i w)
    if operandOk w then f s i w else (if own then s.pinCommands i (s.sideSet i w) else s).engError i 0

/-! ### The instructions (R306) -/

/-- WAIT's condition on a level, with the reference of an edge (R308). -/
def waitMet (cond : Nat) (ref level : Bool) (issue : Bool) : Bool :=
  match cond with
  | 0 => !level
  | 1 => level
  | 2 => !issue && !ref && level
  | _ => !issue && ref && !level

/-- WAIT on a line. -/
def engWait (nn : BitVec 4) (e : BitVec 2) (s : State) : State :=
  s.engIssue nn e (fun w => opOf w == 0 && !nbit w 11) false (fun s i w =>
    let v := s.engLevel i (nbits w 3 0)
    let s := s.setEngine i { s.engine i with ref := v }
    if waitMet (nbits w 13 12) v v true then s.engNext i w none false else s.engStall i)

/-- A mark flag is set. -/
def State.markFlag (s : State) (i k : Nat) : Bool := nbit (s.frond (engFrond i)).flags.toNat k

/-- A mark flag written. -/
def State.setMarkFlag (s : State) (nn k : Nat) (v : Bool) : State :=
  let x := s.frond nn
  let b := BitVec.ofNat 4 (2 ^ k)
  s.setFrond nn { x with flags := if v then x.flags ||| b else x.flags &&& ~~~b }

/-- WAIT on a flag, which it clears (R314). -/
def engWaitFlag (nn : BitVec 4) (e : BitVec 2) (s : State) : State :=
  s.engIssue nn e (fun w => opOf w == 0 && nbit w 11) false (fun s i w =>
    let k := nbits w 1 0
    if s.markFlag i k then (s.setMarkFlag (engFrond i) k false).engNext i w none false else s.engStall i)

/-- AT's axis estimate is at or after X, and may be trusted (R309). -/
def State.atMet (s : State) (i w : Nat) : Bool :=
  let a := s.axis (nbits w 13 8)
  a.st.valid && (!a.st.isStale || nbit w 6) && decide (0 ≤ pdiff (a.eval s.ft) (countPos (s.engine i).x))

/-- AT completes: with ADV the target moves on (R306). -/
def State.atDone (s : State) (i w : Nat) (stallEnd : Bool) : State :=
  let x := s.engine i
  let s := if nbit w 7 then s.setEngine i { x with x := x.x + x.y } else s
  s.engNext i w none stallEnd

/-- AT. -/
def engAt (nn : BitVec 4) (e : BitVec 2) (s : State) : State :=
  s.engIssue nn e (fun w => opOf w == 1) false (fun s i w =>
    if s.atMet i w then s.atDone i w false else s.engStall i)

/-- N of a SHIFT. -/
def shiftN (w : Nat) : Nat := nbits w 10 6 + 1

/-- SHIFT out: N bits leave SR for lines, X or nothing (R310). -/
def engShiftOut (nn : BitVec 4) (e : BitVec 2) (s : State) : State :=
  s.engIssue nn e (fun w => opOf w == 2 && !nbit w 13) true (fun s i w =>
    let n := shiftN w
    let base := nbits w 3 0
    let peer := nbits w 12 11
    let x := s.engine i
    let side := s.sideSet i w
    if peer = 0 ∧ 15 < base + n - 1 then (s.pinCommands i side).engError i 4
    else
      let v := if s.shdir i then x.sr.toNat / 2 ^ (32 - n) else x.sr.toNat % 2 ^ n
      let sr := if s.shdir i then x.sr <<< n else x.sr >>> n
      let s := s.setEngine i { x with sr := sr, bc := x.bc - n, x := if peer = 1 then BitVec.ofNat 32 v else x.x }
      let mine := if peer = 0 then (List.range n).map (fun k => (base + k, nbit v k)) else []
      let s := s.pinCommands i (side.filter (fun p => !mine.any (·.1 == p.1)) ++ mine)
      s.engNext i w none false)

/-- SHIFT in: N bits enter SR from lines, X or nothing (R310). -/
def engShiftIn (nn : BitVec 4) (e : BitVec 2) (s : State) : State :=
  s.engIssue nn e (fun w => opOf w == 2 && nbit w 13) false (fun s i w =>
    let n := shiftN w
    let base := nbits w 3 0
    let peer := nbits w 12 11
    let x := s.engine i
    if peer = 0 ∧ 15 < base + n - 1 then s.engError i 4
    else
      let v := match peer with
        | 0 => (List.range n).foldl (fun m k => m + bitAt (s.engLevel i (base + k)) k) 0
        | 1 => x.x.toNat % 2 ^ n
        | _ => 0
      let sr := if s.shdir i then (x.sr <<< n) ||| BitVec.ofNat 32 v else (x.sr >>> n) ||| BitVec.ofNat 32 (v * 2 ^ (32 - n))
      (s.setEngine i { x with sr := sr, bc := min 32 (x.bc + n) }).engNext i w none false)

/-- A word taken from the TX queue goes to its destination (R306). -/
def Engine.take (x : Engine) (dst : Nat) (v : Word) : Engine :=
  match dst with
  | 0 => { x with x := v }
  | 1 => { x with y := v }
  | 2 => { x with sr := v, bc := 32 }
  | _ => { x with cnt := v.setWidth 16 }

/-- The head word of the TX queue is taken, with what its code finds (R315, R316). -/
def State.takeHead (s : State) (i w : Nat) (ecc : EccResult) (stallEnd : Bool) : State :=
  let x := s.engine i
  match x.tx with
  | [] => s
  | v :: r =>
    match ecc with
    | .uncorrectable => (s.setEngine i { x with tx := r }).engError i 5
    | _ =>
      let s := if ecc = .corrected then (s.bump (engBase i + 0x68)).fault (256 + i) 0x10 0 0 else s
      (s.setEngine i { (x.take (nbits w 13 12) v) with tx := r, qe := false }).engNext i w none stallEnd

/-- TAKE: it stalls on an empty queue, or with NB sets QE and goes on (R306, R313). -/
def engTake (nn : BitVec 4) (e : BitVec 2) (ecc : EccResult) (s : State) : State :=
  s.engIssue nn e (fun w => opOf w == 3) false (fun s i w =>
    if s.txd i = 0 then s.engError i 3
    else if (s.engine i).tx.isEmpty then
      if nbit w 11 then (s.setEngine i { s.engine i with qe := true }).engNext i w none false else s.engStall i
    else s.takeHead i w ecc false)

/-- The item of an EMIT (R317). -/
def Engine.item (x : Engine) (src : Nat) : DWord :=
  let d := match src with
    | 0 => x.x.toNat
    | 1 => x.y.toNat
    | 2 => x.sr.toNat + x.bc * 2 ^ 32
    | _ => x.cnt.toNat
  BitVec.ofNat 64 d

/-- The RX queue set, with its watermark notice (R318). -/
def State.setEngRx (s : State) (i : Nat) (f : PortFifo) : State :=
  let wm := s.ap (engBase i + 0x14)
  let (s, f) := s.fifoNotice (s.engine i).rx f (wm % 16) (wm / 256) (256 + i) 0x0122
  s.setEngine i { s.engine i with rx := f }

/-- The RX queue holds N entries (R306). -/
def State.rxFull (s : State) (i : Nat) : Bool := decide (8 - s.txd i ≤ (s.engine i).rx.entries.length)

/-- EMIT stores its item, or drops it with DROP = 1 when the queue holds N entries (R317). -/
def State.emitDone (s : State) (i w : Nat) (stallEnd : Bool) : State :=
  let x := s.engine i
  let (f, ok) := x.rx.store (8 - s.txd i) [x.item (nbits w 13 12)]
  let s := s.setEngRx i f
  let s := if ok then s else (s.bump (engBase i + 0x60)).faultMs (256 + i) 0xA1 0 0
  let s := if nbit w 10 ∧ nbits w 13 12 = 2 then s.setEngine i { s.engine i with sr := 0, bc := 0 } else s
  s.engNext i w none stallEnd

/-- EMIT. -/
def engEmit (nn : BitVec 4) (e : BitVec 2) (s : State) : State :=
  s.engIssue nn e (fun w => opOf w == 4) false (fun s i w =>
    if s.txd i = 8 then s.engError i 3
    else if s.rxFull i ∧ !nbit w 11 then s.engStall i
    else s.emitDone i w false)

/-- DRIVE: the pin commands of the masked lines, by a function of the present command and the index (R306). -/
def engDrive (op : Nat) (level : Engine → Nat → Nat → Bool) (nn : BitVec 4) (e : BitVec 2) (s : State) : State :=
  s.engIssue nn e (fun w => opOf w == 5 && nbits w 13 12 == op) true (fun s i w =>
    let x := s.engine i
    let base := s.dbase i
    let mine := ((List.range 12).filter (fun k => nbit w k)).map (fun k => (base + k, level x (base + k) k))
    let s := s.pinCommands i ((s.sideSet i w).filter (fun p => !mine.any (·.1 == p.1)) ++ mine)
    s.engNext i w none false)

/-- DRIVE off. -/
def engDriveOff : BitVec 4 → BitVec 2 → State → State := engDrive 0 (fun _ _ _ => false)
/-- DRIVE on. -/
def engDriveOn : BitVec 4 → BitVec 2 → State → State := engDrive 1 (fun _ _ _ => true)
/-- DRIVE toggle. -/
def engDriveToggle : BitVec 4 → BitVec 2 → State → State := engDrive 2 (fun x l _ => !nbit x.pins.toNat l)
/-- DRIVE from X. -/
def engDriveFromX : BitVec 4 → BitVec 2 → State → State := engDrive 3 (fun x _ k => nbit x.x.toNat k)

/-- COUNT load. -/
def engCountLoad (nn : BitVec 4) (e : BitVec 2) (s : State) : State :=
  s.engIssue nn e (fun w => opOf w == 6 && !nbit w 13) false (fun s i w =>
    (s.setEngine i { s.engine i with cnt := BitVec.ofNat 16 (nbits w 12 0) }).engNext i w none false)

/-- COUNT decrement, with its jump. -/
def engCountDecrement (nn : BitVec 4) (e : BitVec 2) (s : State) : State :=
  s.engIssue nn e (fun w => opOf w == 6 && nbit w 13) false (fun s i w =>
    let x := s.engine i
    let c : BitVec 16 := if x.cnt = 0 then 0 else x.cnt - 1
    let s := s.setEngine i { x with cnt := c }
    s.engNext i w (if nbit w 6 ∧ c ≠ 0 then some (nbits w 5 0) else none) false)

/-- The condition of a BRANCH (R313). -/
def State.branchMet (s : State) (i w : Nat) : Bool :=
  let x := s.engine i
  match nbits w 13 10 with
  | 0x0 => true
  | 0x1 => x.cnt == 0
  | 0x2 => x.cnt != 0
  | 0x3 => s.engLevel i (nbits w 9 6)
  | 0x4 => !s.engLevel i (nbits w 9 6)
  | 0x5 => x.tx.isEmpty
  | 0x6 => s.rxFull i
  | 0x7 => x.bc == 0
  | 0x8 => x.bc != 0
  | 0x9 => x.x == x.y
  | 0xA => x.x != x.y
  | 0xB => s.markFlag i (nbits w 7 6)
  | _ => x.qe

/-- BRANCH. -/
def engBranch (nn : BitVec 4) (e : BitVec 2) (s : State) : State :=
  s.engIssue nn e (fun w => opOf w == 7) false (fun s i w =>
    s.engNext i w (if s.branchMet i w then some (nbits w 5 0) else none) false)

/-- MARK: an event, a flag, or both. -/
def engMark (nn : BitVec 4) (e : BitVec 2) (s : State) : State :=
  s.engIssue nn e (fun w => opOf w == 8) false (fun s i w =>
    let s := if nbit w 13 then s.eventP (256 + i) 0x0120 (nbits w 11 4 + (s.engine i).x.toNat * 2 ^ 32) else s
    let s := if nbit w 12 then s.setMarkFlag (engFrond i) (nbits w 1 0) true else s
    s.engNext i w none false)

/-- HALT: the program ends with PRESV = 0 (R321). -/
def engHalt (nn : BitVec 4) (e : BitVec 2) (s : State) : State :=
  s.engIssue nn e (fun w => opOf w == 9) false (fun s i w =>
    let s := if nbit w 13 then s.eventP (256 + i) 0x0121 (nbits w 11 4) else s
    s.setFunc (128 + i) { s.func (128 + i) with st := .stopped, presv := false })

/-- ENGINE_STALL_COMPLETE: the condition of the stalled instruction is tested, and when it holds the instruction
completes (R307). AT completes at the instant its estimate reaches X. -/
def engStallComplete (nn : BitVec 4) (e : BitVec 2) (ecc : EccResult) (s : State) : State :=
  let i := engIdx nn e
  let x := s.engine i
  let w := s.engWord i
  if !s.running (128 + i) || !x.stalled then s
  else match opOf w with
    | 0 =>
      if nbit w 11 then
        let k := nbits w 1 0
        if s.markFlag i k then (s.setMarkFlag (engFrond i) k false).engNext i w none true else s
      else if waitMet (nbits w 13 12) x.ref (s.engLevel i (nbits w 3 0)) false then s.engNext i w none true
      else s
    | 1 =>
      let a := nbits w 13 8
      let st := (s.axis a).st
      if st.valid && (!st.isStale || nbit w 6) then
        match s.dueIn a (countPos x.x) with
        | some t =>
          let s := s.advanceTo (s.now + t)
          if s.atMet i w then s.atDone i w true else s
        | none => s
      else s
    | 3 => s.takeHead i w ecc true
    | 4 => if s.rxFull i then s else s.emitDone i w true
    | _ => s

/-- ENGINE_DELAY_END: the delay has run and the next step begins (R307). -/
def engDelayEnd (nn : BitVec 4) (e : BitVec 2) (s : State) : State :=
  let i := engIdx nn e
  let x := s.engine i
  if s.running (128 + i) ∧ x.delay ≠ 0 then
    (s.advanceTo x.nextAt).setEngine i { x with delay := 0 }
  else s

/-! ### Queues (R315 to R317) -/

/-- The key under which a port's staged TX half stands (R316). -/
def txStageKey (src : Src) (i : Nat) : Nat := 0x2000000 * (1 + src.port.toNat) + engBase i + 0x20

/-- ENGINE_TX_STAGE (R316). -/
def engTxStage (src : Src) (nn : BitVec 4) (e : BitVec 2) (v : BitVec 16) (s : State) : State :=
  { s with staged := tabSet 0 s.staged (txStageKey src (engIdx nn e)) (BitVec.ofNat 32 (v.toNat + 0x10000)) }

/-- ENGINE_TX_APPEND: the word joins the TX queue, or is refused and counted (R316). -/
def engTxAppend (src : Src) (nn : BitVec 4) (e : BitVec 2) (v : BitVec 16) (s : State) : State :=
  let i := engIdx nn e
  let lo := (tabGet (0 : Word) s.staged (txStageKey src i)).toNat % 65536
  let x := s.engine i
  let s := { s with staged := tabSet 0 s.staged (txStageKey src i) 0 }
  if s.txd i = 0 ∨ s.txd i ≤ x.tx.length ∨ (s.func (128 + i)).st = .absent then
    (s.bump (engBase i + 0x6C)).faultMs (256 + i) 0xA2 0 0
  else s.setEngine i { x with tx := x.tx ++ [BitVec.ofNat 32 (v.toNat * 65536 + lo)] }

/-- ENGINE_RX_POP (R317). -/
def State.engRxPop (s : State) (i : Nat) (ecc : EccResult) : DWord × State :=
  let f := (s.engine i).rx
  let s := s.popReport f ecc (256 + i) (engBase i + 0x68) (engBase i + 0x64) (engBase i + 0x28)
  let (v, f) := f.pop ecc
  (v, s.setEngRx i f)

/-- ENGk.QCMD: accepted while the engine is STOPPED (R315). -/
def engQueueCmd (op : Nat) (src : Src) (nn : BitVec 4) (e : BitVec 2) (s : State) : State :=
  let i := engIdx nn e
  let off := engBase i + 0x18
  if op = 0 ∨ 3 < op then s.ignored src off 1
  else if (s.func (128 + i)).st ≠ .stopped then s.ignored src off 0
  else
    let s := if op = 1 ∨ op = 3 then s.setEngine i { s.engine i with tx := [] } else s
    if op = 2 ∨ op = 3 then s.setEngRx i { (s.engine i).rx with entries := [] } else s

/-- EMPTY_TX. -/
def engEmptyTx : Src → BitVec 4 → BitVec 2 → State → State := engQueueCmd 1
/-- EMPTY_RX. -/
def engEmptyRx : Src → BitVec 4 → BitVec 2 → State → State := engQueueCmd 2
/-- EMPTY_BOTH. -/
def engEmptyBoth : Src → BitVec 4 → BitVec 2 → State → State := engQueueCmd 3

/-- An accepted change of TXD empties both queues (R315). -/
def State.txdChanged (s : State) (i : Nat) : State :=
  (s.setEngine i { s.engine i with tx := [] }).setEngRx i { (s.engine i).rx with entries := [] }

/-! ### Program store and flags (R314, R320) -/

/-- A write to the program store is accepted: every engine of the frond that is not ABSENT is STOPPED (R320). -/
def State.storeOpen (s : State) (nn : Nat) : Bool :=
  [0, 1, 2, 3].all (fun e =>
    let st := (s.func (128 + 5 * nn + e)).st
    st == .absent || st == .stopped)

/-- PROGRAM_STORE_STAGE: a write to PSLw (R320). -/
def progStage (src : Src) (nn : BitVec 4) (w : BitVec 6) (v : Word) (s : State) : State :=
  let off := frdBase nn.toNat + 0x2000 + 8 * w.toNat
  if s.storeOpen nn.toNat then s.stage off 0xFFFF v else s.ignored src off 7

/-- PROGRAM_STORE_WRITE: a write to PSHw applies the word and sets DIRTY in every STOPPED engine (R320). -/
def progWrite (src : Src) (nn : BitVec 4) (w : BitVec 6) (v : Word) (s : State) : State :=
  let n := nn.toNat
  let off := frdBase n + 0x2004 + 8 * w.toNat
  if s.storeOpen n then
    [0, 1, 2, 3].foldl (fun s e =>
      let f := s.func (128 + 5 * n + e)
      if f.st = .stopped then s.setFunc (128 + 5 * n + e) { f with dirty := true } else s) (s.applyWide off 0xFF 1 v)
  else s.ignored src off 7

/-- PFLAGSET (R314). -/
def engPflagSet (nn : BitVec 4) (v : BitVec 4) (s : State) : State :=
  let x := s.frond nn.toNat
  s.setFrond nn.toNat { x with flags := x.flags ||| v }

/-! ### Spare engines (R326 to R328) -/

/-- ENGINE_SUBSTITUTION while the frond is STOPPED (R327). -/
def engSubstitute (nn : BitVec 4) (s : State) : State :=
  let n := nn.toNat
  let x := s.frond n
  let bad := [0, 1, 2, 3].find? (fun e => nbit x.failing.toNat (nbits x.map.toNat (3 * e + 2) (3 * e)))
  match bad with
  | none => s
  | some e =>
    if (s.func (16 + n)).st ≠ .stopped ∨ !x.pending ∨ !x.spareWorks then s
    else
      let i := 5 * n + e
      let s := s.setFrond n { x with
        map := BitVec.ofNat 12 (putBits x.map.toNat (3 * e + 2) (3 * e) x.spare.toNat), spare := 7, pending := false }
      let s := s.setFunc (128 + i) { s.func (128 + i) with presv := false, dirty := false }
      let s := (s.txdChanged i).fault (256 + i) 0xA4 0 x.spare.toNat
      (s.recordRepair (mapEntry 5 n 0 (nbits x.map.toNat (3 * e + 2) (3 * e)))).wearSweep

/-- SPARE_ENGINE_TEST_FAILED: ENGMAP.SPAREOK reads 0 from now on (R326). -/
def engSpareFailed (nn : BitVec 4) (s : State) : State :=
  let x := s.frond nn.toNat
  if x.spare = 7 then s else (s.setFrond nn.toNat { x with spareOk := false, pending := false }).wearSweep

/-! ### The engine functions (R322 to R324) -/

/-- A stop: everything is kept, with the delay steps still to run (R322). -/
def State.engineStopped (s : State) (i : Nat) : State :=
  s.setEngine i { s.engine i with delay := s.delayLeft i }

/-- Fresh state (R324). -/
def State.engineFresh (s : State) (i : Nat) : State :=
  let x := s.engine i
  s.setEngine i { x with pc := x.entry.getD (BitVec.ofNat 6 (s.rv (engBase i + 8))), sr := 0, bc := 0, x := 0, y := 0
                         cnt := 0, qe := false, delay := 0, stalled := false, entry := none }

/-- An engine enters RUNNING: its steps are timed from now, and an edge WAIT takes its reference afresh (R322, R323); an
entry offset outside the window is an engine error (R321 cause 1). -/
def State.engineRunning (s : State) (i : Nat) : State :=
  let x := s.engine i
  let s := s.setEngine i { x with nextAt := s.now + x.delay * s.stepTicks i
                                  ref := s.engLevel i (nbits (s.engWord i) 3 0) }
  if s.winSize i ≤ x.pc.toNat then s.engError i 1 else s

/-! ### What the registers show -/

/-- The code of ENGk.STAT.STALL. -/
def State.stallCode (s : State) (i : Nat) : Nat :=
  if (s.engine i).stalled then
    match opOf (s.engWord i) with
    | 0 => 1 | 1 => 2 | 3 => 3 | 4 => 4 | _ => 0
  else 0

/-- The live engine registers of a frond. -/
def State.engineView (s : State) (nn o : Nat) : Option Nat :=
  if o = 0x1800 then some (s.frond nn).flags.toNat
  else if o = 0x1808 then
    let x := s.frond nn
    some (x.failing.toNat * 2 ^ 19 + bitAt x.pending 18 + bitAt x.spareOk 17 + x.spare.toNat * 2 ^ 14 + x.map.toNat)
  else if 0x1000 ≤ o ∧ o < 0x1400 then
    let i := 5 * nn + (o - 0x1000) / 0x100
    let x := s.engine i
    match o % 0x100 with
    | 0x2C => some (x.rx.last.toNat / 2 ^ 32)
    | 0x40 => some (bitAt x.qe 22 + bitAt (decide (s.ap (engBase i + 0x14) % 16 < x.rx.entries.length)) 21 +
        bitAt x.rx.under 20 + x.rx.entries.length * 2 ^ 16 + x.tx.length * 2 ^ 12 + s.delayLeft i * 2 ^ 9 +
        s.stallCode i * 64 + x.pc.toNat)
    | 0x44 => some x.sr.toNat
    | 0x48 => some x.x.toNat
    | 0x4C => some x.y.toNat
    | 0x50 => some (x.cnt.toNat * 65536 + x.bc)
    | 0x54 => some (match x.err with
        | some (pc, c) => 512 + pc.toNat * 8 + c.toNat
        | none => 0)
    | _ => none
  else none

end Sys2Proof.Machine
end

