-- ==== Sys2Proof/Machine/ActCore.lean ====
section
/-! DEFINITION. The action scheduler without its commits (10): entries and their checks, the append queue, pulses in
flight, the shadow bank and its commands, and what function 7 does at its transitions. -/

namespace Sys2Proof.Machine

/-! ### Entries (R239 to R241) -/

/-- An action entry, field by field (R239). -/
structure ActEntry where
  valid : Bool
  kind : Nat
  stalepol : Nat
  dunit : Bool
  rec_ : Bool
  carry : Bool
  axis : Nat
  group : Nat
  zero : Nat
  target : Nat
  pos : BitVec 48
  late : Nat
  dur : Nat
  arg0 : Nat
  arg1 : Nat
  tag : Word

/-- The entry that 32 bytes spell (R239). -/
def parseEntry (l : List Byte) : ActEntry :=
  let w (i : Nat) := leNat (slice l (4 * i) 4)
  { valid := nbit (w 0) 31, kind := nbits (w 0) 30 27, stalepol := nbits (w 0) 26 25, dunit := nbit (w 0) 24
    rec_ := nbit (w 0) 23, carry := nbit (w 0) 22, axis := nbits (w 0) 21 16, group := nbits (w 0) 15 12
    zero := nbits (w 0) 11 0, target := w 1, pos := BitVec.ofNat 48 (w 2 * 65536 + w 3 % 65536), late := w 3 / 65536
    dur := w 4, arg0 := w 5, arg1 := w 6, tag := BitVec.ofNat 32 (w 7) }

/-- A line kind: SET, CLEAR or PULSE (R240). -/
def ActEntry.isLine (e : ActEntry) : Bool := decide (1 ≤ e.kind) && decide (e.kind ≤ 3)

/-- A malformed entry (R241); `append` is false in a bank. -/
def ActEntry.malformed (e : ActEntry) (append : Bool) : Bool :=
  !e.valid || e.stalepol == 3 || decide (2 ^ 31 ≤ e.dur) || e.zero != 0 ||
  match e.kind with
  | 1 | 2 => decide (256 ≤ e.target) || e.dur != 0
  | 3 => decide (256 ≤ e.target) || e.dur == 0
  | 4 => decide (e.target < 128) || decide (207 < e.target) || decide (64 ≤ e.arg0) || e.arg1 != 0
  | 5 => decide (2 ^ 18 ≤ e.target)
  | 6 => decide (32 ≤ e.target) || e.target / 8 == 3 || e.arg0 != 0 || e.arg1 != 0
  | 7 => decide (256 ≤ e.target) || decide (16 ≤ e.arg0) || e.arg1 != 0
  | 15 => !append || e.target != 0
  | _ => true

/-- The active bank. -/
def Act.bank (x : Act) : List Host.Cell := if x.active then x.bank1 else x.bank0

/-- The active bank set. -/
def Act.setBank (x : Act) (m : List Host.Cell) : Act := if x.active then { x with bank1 := m } else { x with bank0 := m }

/-- The shadow bank. -/
def Act.shadow (x : Act) : List Host.Cell := if x.active then x.bank0 else x.bank1

/-- The shadow bank set. -/
def Act.setShadow (x : Act) (m : List Host.Cell) : Act := if x.active then { x with bank0 := m } else { x with bank1 := m }

/-- Entry i of a bank. -/
def bankEntry (m : List Host.Cell) (i : Nat) : ActEntry := parseEntry (memReadN m (32 * i) 32)

/-- A slot of the active bank is freed: its entry reads VALID = 0 (R254). -/
def State.freeSlot (s : State) (i : Nat) : State :=
  { s with act := s.act.setBank (clearValid s.act.bank i) }

/-- The lowest free slot of the active bank (R254). -/
def State.freeActSlot (s : State) : Option Nat :=
  let v := validSlots s.act.bank
  let k := v.zipIdx.foldl (fun n e => if e.1 = n then n + 1 else n) 0
  if k < 4096 then some k else none

/-! ### Records (R267) -/

/-- What an entry in a slot carries into its records. -/
def ActEntry.info (e : ActEntry) (slot : Nat) : ActRec :=
  { group := e.group, rec_ := e.rec_, slot := slot, tag := e.tag, axis := e.axis }

/-- A record of the scheduler: fabric time and axis position at an instant (R267). -/
def State.actRecord (s : State) (r : ActRec) (kind : Nat) (t : BitVec 80) : State :=
  let (pos, a, v, st) := s.axisStamp r.axis t
  s.event (464 + r.group) kind
    { axis := some (if v then pos else 0, a, v, st || r.stale), late := r.late && kind == 0x0201
      time := some (t.toNat / 65536)
      payload := BitVec.ofNat 64 (r.tag.toNat + r.slot * 2 ^ 32 + min r.lateness 0xFFFF * 2 ^ 48) }

/-- An appended entry refused: the queue or the bank is full, or the entry is malformed (R254). -/
def State.appRefuse (s : State) (e : ActEntry) (kind detail : Nat) : State :=
  let s := s.bump (if kind = 0x87 then 0x0A0098 else 0x0A0094)
  (s.actRecord (e.info 0) 0x0206 s.ft).fault (464 + e.group) kind (if kind = 0x87 then 0 else 1) detail

/-- Whole entries pushed into the append queue of 256 (R253, R254). -/
def State.actPush (s : State) : List Byte → Nat → State
  | _, 0 => s
  | l, k + 1 =>
    let one := l.take 32
    let s := if 256 ≤ s.act.appq.length then s.appRefuse (parseEntry one) 0x82 0
      else { s with act := { s.act with appq := s.act.appq ++ [one] } }
    s.actPush (l.drop 32) k

/-- A write to the append page: whole entries, aligned; any other write performs nothing and gives FORMAT (R253). -/
def State.appendWrite (s : State) (off : Nat) (data : List Byte) : Option State :=
  if data.isEmpty || data.length % 32 != 0 || off % 32 != 0 || decide (256 < off + data.length) then none
  else some (s.actPush data (data.length / 32))

/-! ### Pulses in flight (R246, R247) -/

/-- Ticks by which the edge of a line lags its placement: ACT.LEADl in units of 50 ns (R244, R245). -/
def State.leadTicks (s : State) (l : Nat) (on : Bool) : Nat :=
  let r := s.rv (0x0A1000 + 4 * l)
  (roundDiv ((nbits r (if on then 15 else 7) (if on then 8 else 0) * 125 : Nat) : Int) 4).toNat

/-- The pulse in flight on a line. -/
def State.pulseOn (s : State) (l : Nat) : Option Pulse := s.act.pulses.find? (fun p => p.line == l)

/-- The pulse in flight on a line set, or removed. -/
def State.setPulse (s : State) (l : Nat) (p : Option Pulse) : State :=
  { s with act := { s.act with pulses := s.act.pulses.filter (fun q => q.line != l) ++ p.toList } }

/-- A command committed to the line die. -/
def State.addCmd (s : State) (c : LineCmd) : State := { s with act := { s.act with cmds := s.act.cmds ++ [c] } }

/-- The instant of an off edge: a position is placed on the estimate, and at once when the axis has VALID = 0 (R250). -/
def State.offDue (s : State) : OffEdge → Option Nat
  | .tick t => some t
  | .pos a target => if (s.axis a).st.valid then (s.dueIn a target).map (s.now + ·) else some s.now

/-- The later of the off edges of a pulse, when every one is known. -/
def State.offInstant (s : State) (p : Pulse) : Option Nat :=
  p.offs.foldl (fun m o => match m, s.offDue o with
    | some a, some b => some (max a b)
    | _, _ => none) (some 0)

/-- The off edge of a pulse is committed for an instant: at least 4 µs between commit and placement, at least 1 µs after
the on edge (R244, R246). -/
def State.commitOff (s : State) (p : Pulse) (edge : Nat) : State :=
  let lead := s.leadTicks p.line false
  let s := s.advanceTo (edge - lead - 7500)
  let e := max (max edge (s.now + 2500 + lead)) (p.onEdge + ticksPerUs)
  (s.setPulse p.line (some { p with off := some e })).addCmd
    { line := p.line, on := false, place := e - lead, edge := e, entry := none }

/-- PULSE_OFF_EDGE_COMMIT (R246). -/
def actOffCommit (l : BitVec 8) (s : State) : State :=
  match s.pulseOn l.toNat with
  | none => s
  | some p =>
    if p.off.isSome then s
    else match s.offInstant p with
      | none => s
      | some e => s.commitOff p e

/-- The off edge of a pulse placed at once (R255, R261). -/
def State.offAtOnce (s : State) (p : Pulse) : State := if p.off.isSome then s else s.commitOff p s.now

/-- The committed command of a line that is carried out next: by placement instant, an off command after an on command
of the same tick (R247). -/
def State.nextCmd (s : State) (l : Nat) : Option LineCmd :=
  (s.act.cmds.filter (fun c => c.line == l)).foldl (fun m c => match m with
    | none => some c
    | some d => if c.place < d.place ∨ (c.place = d.place ∧ c.on ∧ !d.on) then some c else some d) none

/-- LINE_COMMAND_PLACEMENT: at its placement instant the line die carries out the next command of a line, or discards it
when the frond is not RUNNING or the line is not the scheduler's (R245, R247, R277). -/
def actPlacement (l : BitVec 8) (s : State) : State :=
  let n := l.toNat
  match s.nextCmd n with
  | none => s
  | some c =>
    let s := s.advanceTo c.place
    let s := { s with act := { s.act with cmds := s.act.cmds.erase c } }
    let x := s.line n
    let t := s.ftAt (s.tickCount + (c.edge - s.now))
    let ok := s.frondRuns n && x.isOutput n && x.osrc == 1
    let s := if ok then (s.setLine n { x with sched := c.on }).lineCommand n c.on
      else s.setLine n { x with sched := x.sched && c.on }
    match c.entry with
    | some r =>
      if ok then
        let s := s.bump 0x0A0080
        if r.late then s.actRecord r 0x0201 t else if r.rec_ then s.actRecord r 0x0200 t else s
      else s
    | none =>
      match s.pulseOn n with
      | none => s
      | some p =>
        p.entries.foldl (fun s r => if r.rec_ then s.actRecord r 0x0207 t else s) (s.setPulse n none)

/-! ### The shadow bank (R256 to R258) -/

/-- The waiting swap request is withdrawn with record 0x0209 (R256, R257, R258). -/
def State.actWithdraw (s : State) : State :=
  if s.act.req = .none then s
  else { s with act := { s.act with req := .none, waitSort := false } }.event 464 0x0209

/-- A command that does nothing (R269). -/
def State.actNop (s : State) : State := s.bump 0x0A00AC

/-- SHADOW_BANK_WRITE: bytes written into the shadow bank (R256). -/
def actShadowWrite (off : BitVec 17) (data : List Byte) (s : State) : State :=
  if s.act.sh = .clearing then s
  else
    let s := { s with act := s.act.setShadow (memWriteN s.act.shadow off.toNat data) }
    if s.act.sh = .opened then s
    else
      let s := s.actWithdraw
      { s with act := { s.act with sh := .opened } }

/-- ACT_SEAL (R257). -/
def actSeal (s : State) : State :=
  if s.act.sh = .opened then { s with act := { s.act with sh := .sorting } } else s.actNop

/-- ACT_CLEARSH: every entry reads VALID = 0, and a waiting request is withdrawn (R257). -/
def actClearsh (s : State) : State :=
  if s.act.sh = .clearing then s.actNop
  else
    let s := s.actWithdraw
    let b := s.act.setShadow ((validSlots s.act.shadow).foldl clearValid s.act.shadow)
    { s with act := { b with sh := .clearing } }

/-- ACT_CLEAR_DONE (R257). -/
def actClearDone (s : State) : State :=
  if s.act.sh = .clearing then { s with act := { s.act with sh := .opened } } else s

/-- A swap request given: an OPEN bank is sealed first, and an earlier request is replaced without a record (R258). -/
def State.actRequest (s : State) (q : SwapReq) : State :=
  let sh : BankState := if s.act.sh = .opened then .sorting else s.act.sh
  { s with act := { s.act with req := q, waitSort := false, sh := sh } }

/-- ACT_SWAP (R258). -/
def actSwap (s : State) : State := s.actRequest .swap

/-- ACT_ARMSWAP: accepted in STARTING and RUNNING only; it takes axis and position in effect (R258, R261). -/
def actArmswap (s : State) : State :=
  if (s.func 7).st = .starting ∨ (s.func 7).st = .running then
    let s := s.actRequest .armswap
    { s with act := { s.act with swapAx := BitVec.ofNat 6 (s.rv 0x0A0008)
                                 swapPos := BitVec.ofNat 32 (s.rv 0x0A000C + s.rv 0x0A0010 * 65536) } }
  else s.actNop

/-- ACT_DISARM (R258). -/
def actDisarm (s : State) : State := if s.act.req = .none then s.actNop else s.actWithdraw

/-- A write to ACT.CMD (R269). -/
def actCmd (src : Src) (v : Nat) (s : State) : State :=
  match v % 16 with
  | 1 => actSeal s
  | 2 => actSwap s
  | 3 => actArmswap s
  | 4 => actDisarm s
  | 5 => actClearsh s
  | _ => s.ignored src 0x0A0000 1

/-- ACT_SORT_DONE: malformed entries are skipped, counted and recorded, and the bank is READY; a SWAP that waited had
fallen due meanwhile (R257, R259). -/
def actSortDone (s : State) : State :=
  if s.act.sh = .sorting then
    let m := s.act.shadow
    let bad := (validSlots m).filter (fun i => (bankEntry m i).malformed false)
    let s := bad.foldl (fun s i =>
      let e := bankEntry m i
      ((s.bump 0x0A0098).actRecord (e.info i) 0x0206 s.ft).fault (464 + e.group) 0x87 0 e.kind) s
    { s with act := { s.act with
      sh := .ready, waitSort := s.act.waitSort || (s.act.req == .swap && (s.func 7).st != .starting) } }
  else s

/-- The state of a slot of the active bank: 0 free, 1 pending, 2 held by its stale policy, 3 committed and not yet carried
out (ACT.AINFO). -/
def State.actInfo (s : State) (i : Nat) : Nat :=
  let e := bankEntry s.act.bank i
  let committed : Bool := s.act.cmds.any (fun c => match c.entry with
    | some r => r.slot == i
    | none => false)
  if !e.valid then (if committed then 3 else 0) else if e.stalepol = 1 ∧ (s.axis e.axis).st.isStale then 2 else 1

/-- ACT_AIDX_WRITE: entry INDEX of the active bank and its state copied (R272). -/
def actAidx (v : Word) (s : State) : State :=
  let s := s.setReg 0x0A0030 (maskedWrite (s.rg 0x0A0030) 0xFFF v)
  let i := s.rv 0x0A0030
  let info := s.actInfo i
  let s := (List.range 8).foldl (fun s w => s.setNat (0x0A0040 + 4 * w) (bankWord s.act.bank i w)) s
  s.setNat 0x0A0034 info

/-! ### Function 7 (R261) -/

/-- START or RESTART: append queue, in-flight list and capture queues empty. -/
def State.actFresh (s : State) : State := { s with act := { s.act with appq := [], pulses := [], caps := [] } }

/-- A STOP: the off edge of every pulse in flight is placed at once. -/
def State.actStopping (s : State) : State := s.act.pulses.foldl State.offAtOnce s

/-- HALTED: the line dies discard what is not yet carried out. -/
def State.actHalted (s : State) : State := { s with act := { s.act with cmds := [], pulses := [] } }

/-- The live ACT registers. -/
def State.actView (s : State) (off : Nat) : Option Nat :=
  let x := s.act
  match off with
  | 0x0A0004 => some ((match x.sh with | .opened => 0 | .sorting => 1 | .ready => 2 | .clearing => 3) +
      bitAt x.active 3 + (match x.req with | .none => 0 | .swap => 1 | .armswap => 2) * 16 + bitAt x.waitSort 6 +
      bitAt (x.req == .armswap && (s.axis x.swapAx.toNat).st.isStale) 7 + bitAt (decide (256 ≤ x.appq.length)) 8 +
      (validSlots x.bank).length * 65536)
  | 0x0A0014 => some x.appq.length
  | 0x0A0020 => some s.cqStat
  | _ => none

end Sys2Proof.Machine
end

