-- ==== Sys2Proof/Machine/PowerOps.lean ====
section
/-! DEFINITION. Power (20): the domain sequencer, rails, bucks and temperature, and the field power channels with what
their functions do at their transitions. -/

namespace Sys2Proof.Machine

/-! ### Functions and domains (R24, R37, R44) -/

/-- The parent of a function (R37). -/
def parentOf (id : Nat) : Option Nat :=
  if 128 ≤ id ∧ id < 208 then some (16 + (id - 128) / 5)
  else if 208 ≤ id ∧ id < 240 then some (16 + (id - 208) / 2)
  else if 240 ≤ id then some (id - 224)
  else none

/-- The children of a function (R37). -/
def childrenOf (id : Nat) : List Nat :=
  if 16 ≤ id ∧ id < 32 then
    let nn := id - 16
    [0, 1, 2, 3, 4].map (fun e => 128 + 5 * nn + e) ++ [208 + 2 * nn, 209 + 2 * nn, 240 + nn]
  else []

/-- The domains on which the work of a function depends (R24, R44). -/
def domsOf (id : Nat) : List Nat :=
  let frond (nn : Nat) := if nn < 8 then [10, 12] else [11, 13]
  match parentOf id with
  | some f => frond (f - 16)
  | none =>
    if 16 ≤ id ∧ id < 32 then frond (id - 16)
    else if 32 ≤ id ∧ id < 40 then [14, if id < 36 then 12 else 13]
    else if 40 ≤ id ∧ id < 56 then [if id < 48 then 12 else 13]
    else if 64 ≤ id then [7]
    else match id with
      | 0 => [1] | 1 => [2] | 2 => [3] | 11 => [4] | 9 => [5] | 10 => [5] | 6 => [7] | 7 => [7]
      | 13 => [8] | 14 => [9] | 15 => [0] | _ => [6]

/-- The functions of a domain, counted under R44. -/
def functionsIn (d : Nat) : List Nat := (List.range 256).filter (fun id => (domsOf id).contains d)

/-- The domain whose status registers and counters lie at an offset (R24, R524). -/
def domainOfOffset (off : Nat) : Nat :=
  match off / 0x10000 with
  | 0x02 => 1 | 0x03 => 2 | 0x04 => 3 | 0x20 => 4 | 0x0D => 5
  | 0x05 => 6 | 0x06 => 6 | 0x07 => 6 | 0x0B => 6 | 0x0F => 6
  | 0x08 => 7 | 0x09 => 7 | 0x0A => 7 | 0x0C => 14 | 0x100 => 12 | 0x101 => 13
  | 0x0E => if off % 0x10000 < 0x1000 then 8 else 9
  | k => if 0x10 ≤ k ∧ k < 0x18 then 10 else if 0x18 ≤ k ∧ k < 0x20 then 11 else 0

/-! ### The sequencer (R523 to R525) -/

/-- The code of a domain state (PWR.DSTAT). -/
def DomState.code : DomState → Nat
  | .off => 0 | .ramping => 1 | .on => 2 | .failed => 3

/-- A change of a domain's state (R523). -/
def State.domTo (s : State) (d : Nat) (st : DomState) : State :=
  let old := (s.dom d).st
  let s := s.withDies (fun s => s.setDom d { s.dom d with st := st, since := s.now })
  s.eventP 776 0x0702 (d + st.code * 2 ^ 8 + old.code * 2 ^ 16)

/-- PWR.DCTL requests a domain on. -/
def State.wanted (s : State) (d : Nat) : Bool := s.rb 0x220000 d

/-- The domain that the sequencer acts on: the one that ramps, or the lowest whose state is not as requested (R523). -/
def State.seqAt (s : State) : Option Nat :=
  let ds := (List.range 15).drop 1
  match ds.find? (fun d => (s.dom d).st == .ramping) with
  | some d => some d
  | none => ds.find? (fun d => (s.wanted d && (s.dom d).st == .off) || (!s.wanted d && (s.dom d).st == .on))

/-- The sequencer begins the switch-on of the domain it has reached (R523). -/
def State.seqStep (s : State) : State :=
  match s.seqAt with
  | some d => if (s.dom d).st = .off then s.domTo d .ramping else s
  | none => s

/-- A write to PWR.DCTL that the key guard has let through: refused for each domain in which a function is at work,
taken for the others (R523, R525). -/
def domainRequest (v : Word) (s : State) : State :=
  let old := s.rv 0x220000
  let new := (maskedWrite (s.rg 0x220000) 0x7FFE v).toNat
  let s := (List.range 15).foldl (fun (s : State) d =>
    if nbit old d && !nbit new d then
      match (functionsIn d).find? s.active with
      | some id =>
        ({ s with power := { s.power with dref := BitVec.ofNat 13 (0x1000 + d * 256 + id) } }.bump 0x220040).fault
          776 0xF0 0 d
      | none =>
        let s := s.setNat 0x220000 (s.rv 0x220000 - 2 ^ d)
        if (s.dom d).st = .failed then s.domTo d .off else s
    else if !nbit old d && nbit new d then s.setNat 0x220000 (s.rv 0x220000 + 2 ^ d)
    else s) s
  s.seqStep

/-- DOMAIN_ON: the ramping domain has reached its supply window (R523). -/
def domainOn (d : BitVec 4) (s : State) : State :=
  let n := d.toNat
  if (s.dom n).st = .ramping then
    let s := s.domTo n .on
    let s := if n = 12 ∨ n = 13 then s.setDie (n - 12) { s.die (n - 12) with linkUp := true, lost := false } else s
    s.seqStep
  else s

/-- Ticks of twice the switch-on time of a domain (R522, R523). -/
def switchOnLimit (d : Nat) : Nat := if d = 12 ∨ d = 13 then 375000 else 25000

/-- DOMAIN_SWITCH_ON_FAILED (R523). -/
def domainFailed (d : BitVec 4) (s : State) : State :=
  let n := d.toNat
  if (s.dom n).st = .ramping then
    let s := s.advanceTo ((s.dom n).since + switchOnLimit n)
    ((s.domTo n .failed).fault 776 0xF1 2 n).seqStep
  else s

/-- Entries of a table whose keys satisfy a test are dropped. -/
def tabDrop {α : Type} (t : Tab α) (f : Nat → Bool) : Tab α := t.filter (fun e => !f e.1)

/-- A port keeps what its pins show: signal and module. -/
def LinkPort.pins (x : LinkPort) : LinkPort := { sigdet := x.sigdet, modabs := x.modabs, modlos := x.modlos }

/-- What forwarding has in PD0: the epoch, and the placement of the buffer banks (R127, R552). -/
def Fwd.pd0 (f : Fwd) : Fwd :=
  { epoch := f.epoch, poweron := f.poweron, started := f.started, banks := f.banks, spareBanks := f.spareBanks }

/-- The working state of a domain is lost (R524). -/
def State.loseDomain (s : State) (d : Nat) : State :=
  let half (w lo n : Nat) : Bool := decide (lo ≤ n) && decide (n < lo + w)
  match d with
  | 1 => { s with linkW := { s.linkW.pins with spares := s.linkW.spares } }
  | 2 => { s with linkE := { s.linkE.pins with spares := s.linkE.spares } }
  | 3 => { s with linkT := { s.linkT.pins with spares := s.linkT.spares } }
  | 4 => { s with pcie := {}, hostq := [], dma := [] }
  | 5 => s.usbDetach.usbClear.usbSet { ports := s.usb.ports, vbus := s.usb.vbus, vbusOk := s.usb.vbusOk,
                                       vbusSince := s.usb.vbusSince }
  | 6 => { s with fwd := s.fwd.pd0, brg := {}, queues := [], image := [], xact := {} }
  | 7 => { s with time := { tick0 := s.now }, axes := [], act := {} }
  | 8 => { s with ncpA := {} }
  | 9 => { s with ncpB := {} }
  | 10 | 11 =>
    let o := (d - 10) * 8
    { s with uarts := tabDrop s.uarts (half 16 (2 * o)), encoders := tabDrop s.encoders (half 8 o)
             engines := tabDrop s.engines (half 40 (5 * o)) }
  | 12 | 13 => s.withDies (fun s =>
    { s with lines := tabDrop s.lines (half 128 (128 * (d - 12)))
             power := { s.power with chans := tabDrop s.power.chans (half 8 (8 * (d - 12))) } })
  | 14 => { s with cans := [], canPll := false }
  | _ => s

/-- The status registers and counters of a domain restart from their factory values (R524). -/
def State.loseStatus (s : State) (d : Nat) : State :=
  { s with regs := s.regs.filter (fun e =>
      domainOfOffset e.1 != d || match regHit e.1 with
        | some h => h.row.acc != .ro
        | none => true) }

/-- Every function of a domain loses its preserved state (R524). -/
def State.losePreserved (s : State) (d : Nat) : State :=
  (functionsIn d).foldl (fun s id => s.setFunc id { s.func id with presv := false, dirty := false }) s

/-- DOMAIN_OFF: the sequencer has isolated a domain and opened its switch (R523, R524). -/
def domainOff (d : BitVec 4) (s : State) : State :=
  let n := d.toNat
  if s.seqAt = some n ∧ (s.dom n).st = .on then
    let s := s.domTo n .off
    let s := if n = 12 ∨ n = 13 then s.setDie (n - 12) { s.die (n - 12) with linkUp := false } else s
    (((s.loseDomain n).loseStatus n).losePreserved n).seqStep
  else s

/-! ### Rails, bucks and temperature (R519, R521, R528, R529) -/

/-- VIN_STOP: the line-die bucks stop (R519). -/
def vinStop (s : State) : State :=
  { s with power := { s.power with vin := false }
           dieA := { s.dieA with buckOn := false }, dieB := { s.dieB with buckOn := false } }

/-- RAIL_OUT_OF_WINDOW: 0 VCORE, 1 V18, 2 V5A, 3 V5B, 4 V33, 5 VIN at LA, 6 VIN at LB (R521). -/
def railOut (rail : BitVec 3) (s : State) : State :=
  let n := rail.toNat
  let clearH (b : Nat) (s : State) : State :=
    { s with power := { s.power with rstat := s.power.rstat &&& ~~~ BitVec.ofNat 10 (2 ^ b) } }
  let clearD (d b : Nat) (s : State) : State :=
    s.setDie d { s.die d with regstat := (s.die d).regstat &&& ~~~ BitVec.ofNat 5 (2 ^ b) }
  let s := match n with
    | 0 => clearH 0 s
    | 1 => clearD 0 1 (clearH 1 s)
    | 2 => clearD 0 0 (clearH 2 s)
    | 3 => clearD 1 0 (clearH 3 s)
    | 4 => clearD 1 1 (clearH 4 s)
    | 5 => clearD 0 4 s
    | 6 => clearD 1 4 s
    | _ => s
  if n < 7 then s.fault 777 0xF2 1 n else s

/-- LB_SWITCH_OFF: the switched part of LB loses its supply, and its link drops (R521). -/
def lbSwitchOff (s : State) : State :=
  let s := s.setDie 1 { s.die 1 with linkUp := false }
  (s.loseDomain 13).loseStatus 13

/-- BUCK_HICCUP: after 16 consecutive limited cycles a line-die buck stops switching (R528). -/
def buckHiccup (die : Die) (s : State) : State :=
  let d := match die with | .la => 0 | .lb => 1
  let x := s.die d
  if x.buckOn ∧ x.buckOff = none then
    s.setDie d { x with buckOff := some s.now, regstat := x.regstat ||| 8 }
  else s

/-- BUCK_RESTART: after 10 ms it soft-starts again (R528). -/
def buckRestart (die : Die) (s : State) : State :=
  let d := match die with | .la => 0 | .lb => 1
  match (s.die d).buckOff with
  | none => s
  | some t =>
    let s := s.advanceTo (t + 6250000)
    s.setDie d { s.die d with buckOff := none, regstat := (s.die d).regstat &&& 0x17 }

/-- A condition entered at a threshold and left 5 °C below it; temperatures in 0.5 °C (R529). -/
def hotter (was : Bool) (t limit : Int) : Bool := decide (limit ≤ t) || (was && decide (limit - 10 < t))

/-- TEMPERATURE_MEASUREMENT of H (0), LA (1) or LB (2), signed in 0.5 °C (R529). -/
def temperature (die : BitVec 2) (t : BitVec 16) (s : State) : State :=
  let z := t.toInt
  let report (src : Nat) (w0 c0 w1 c1 : Bool) (s : State) : State :=
    let s := if w1 && !w0 then s.fault src 0xF3 1 0 else s
    if c1 && !c0 then s.fault src 0xF4 4 0 else s
  match die.toNat with
  | 0 =>
    let x := s.power
    let w := hotter x.warn z (2 * (s.rv 0x220010 : Nat))
    let c := hotter x.crit z 250
    report 780 x.warn x.crit w c { s with power := { x with temp := t, warn := w, crit := c } }
  | 3 => s
  | k =>
    let x := s.die (k - 1)
    let w := hotter x.warn z 280
    let c := hotter x.crit z 300
    report (777 + k) x.warn x.crit w c (s.setDie (k - 1) { x with temp := t, warn := w, crit := c })

/-! ### Field power channels (R531 to R546) -/

/-- A channel of the table. -/
def State.chan (s : State) (nn : Nat) : PowerChan := tabGet {} s.power.chans nn

/-- The line-die word i of the settings of channel nn (LD.PCWINk and the words that follow). -/
def State.pcWord (s : State) (nn i : Nat) : Nat := s.rv (ldOff (nn / 8) (0x1000 + 0x20 * (nn % 8) + i))

/-- The gates of a channel: main and pre-charge; none is high impedance (R487, R532, R545, R546). -/
def State.chanGates (s : State) (nn : Nat) (x : PowerChan) : Option Bool × Option Bool :=
  if s.ident.straps.testen then (some false, some false)
  else if s.pair.rest || (s.die (nn / 8)).gatesFree then (none, none)
  else if x.hold then (some true, some false)
  else match x.st with
    | .precharge => (some false, some true)
    | .ramp => (some true, some true)
    | .on => (some true, some false)
    | _ => (some false, some false)

/-- A channel set, with the switching of its gates put out; a frozen die holds its gates (R545). -/
def State.setChan (s : State) (nn : Nat) (x : PowerChan) : State :=
  let was := s.chanGates nn (s.chan nn)
  let s := { s with power := { s.power with chans := tabSet {} s.power.chans nn x } }
  let g := s.chanGates nn x
  if was = g ∨ s.pair.frozen then s else s.emit (.gate nn g.1 g.2)

/-- A change of what the dies hold: the drivers and the gates that it switches are put out. -/
def State.redrive (s : State) (f : State → State) : State :=
  let t := s.withDies f
  (List.range 16).foldl (fun u nn =>
    let g := t.chanGates nn (t.chan nn)
    if s.chanGates nn (s.chan nn) = g then u else u.emit (.gate nn g.1 g.2)) t

/-- The code of a channel state (R532). -/
def PcState.code : PcState → Nat
  | .off => 0 | .wait => 1 | .precharge => 2 | .ramp => 3 | .on => 4 | .tripped => 5 | .reversed => 6 | .safeoff => 7

/-- Power-good changes (R541). -/
def State.setPg (s : State) (nn : Nat) (v : Bool) : State :=
  let x := s.chan nn
  if x.pg = v then s
  else (s.setChan nn { x with pg := v, pgSince := s.now, startup := x.startup && !v }).eventP (480 + nn) 0x0701 (bitAt v 0)

/-- A change of a channel's state (R533): power-good goes with ON, the entry counters rise. -/
def State.chanTo (s : State) (nn : Nat) (st : PcState) (hot : Bool := false) : State :=
  let old := (s.chan nn).st
  if old = st then s
  else
    let s := if old = .on then s.setPg nn false else s
    let x := s.chan nn
    let s := s.setChan nn { x with st := st, since := s.now, startup := x.startup || st == .wait, freshWait := false
                                   latched := x.latched && st == .tripped
                                   hold := x.hold && (st == .off || st == .wait) }
    let b := ldOff (nn / 8) (0x1008 + 0x20 * (nn % 8))
    let s := if st = .tripped then s.bump16 (b + 4) else s
    let s := if st = .precharge ∨ hot then s.bump16 (b + 5) else s
    s.eventP (480 + nn) 0x0700 (st.code + old.code * 2 ^ 8)

/-- The channel is between pre-charge and ON (R537). -/
def PowerChan.charging (x : PowerChan) : Bool := x.st == .precharge || x.st == .ramp || x.st == .on

/-- A trip: reported, and latched when no retry is allowed or none is left (R542). -/
def State.chanTrip (s : State) (nn kind detail : Nat) : State :=
  let s := (s.fault (480 + nn) kind 1 detail).chanTo nn .tripped
  let x := s.chan nn
  let n := s.pcWord nn 5 / 4096
  if x.retry < n then s
  else
    let s := s.setChan nn { x with latched := true }
    if n = 0 then s else s.fault (480 + nn) 0xFB 2 x.retry

/-- The channel's function and its ON bit as the line die takes them (R531, R533). -/
def State.chanApply (s : State) (nn : Nat) : State :=
  let st := (s.chan nn).st
  if s.ap (0x220100 + 4 * nn) = 0 then (if st = .safeoff then s else s.chanTo nn .off)
  else if st = .off ∧ s.running (40 + nn) then s.chanTo nn .wait
  else s

/-- Function 40 + nn enters RUNNING; fresh state sets the retry count to 0 (R531, R536). -/
def State.chanRunning (s : State) (nn : Nat) (fresh : Bool) : State :=
  let held := (s.chan nn).hold
  let s := if fresh then s.setChan nn { s.chan nn with retry := 0 } else s
  let s := s.chanApply nn
  let x := s.chan nn
  if fresh ∧ x.st = .wait ∧ x.since = s.now then
    if held then (s.chanTo nn .ramp true) else s.setChan nn { x with freshWait := true }
  else s

/-- Function 40 + nn enters STOPPING (R531, R533). -/
def State.chanStopping (s : State) (nn : Nat) : State := if (s.chan nn).st = .safeoff then s else s.chanTo nn .off

/-- A channel is switched off by a HALT or by the safe signal (R533, R544). -/
def State.chanSafeOff (s : State) (nn : Nat) : State := s.chanTo nn .safeoff

/-- SAFEOFF ends once the function is STOPPED and the safe signal released (R533). -/
def State.chanLeaveSafe (s : State) (nn : Nat) : State :=
  if (s.chan nn).st = .safeoff ∧ (s.func (40 + nn)).st = .stopped ∧ s.dieFree (nn / 8) then s.chanTo nn .off else s

/-- Bit nn of FLT.PCCUT. -/
def State.pccut (s : State) (nn : Nat) : Bool := s.rb 0x210004 nn

/-- CHANNEL_TINS_EXPIRY: the input has been in window for TINS; `hot` says that fresh state entered WAIT with the input in
window and VFnn ≥ PGTH, which skips TINS and PRECHARGE (R535, R536). -/
def chanTins (nn : BitVec 4) (hot : Bool) (s : State) : State :=
  let n := nn.toNat
  let x := s.chan n
  if x.st = .wait then
    let h := hot && x.freshWait
    let s := if h then s else s.advanceTo (x.since + s.pcWord n 1 / 256 * 6250000)
    let s := s.setChan n { x with inwin := true }
    s.chanTo n (if h then .ramp else .precharge) h
  else s

/-- PRECHARGE_DONE (R533). -/
def chanPrecharged (nn : BitVec 4) (s : State) : State :=
  if (s.chan nn.toNat).st = .precharge then s.chanTo nn.toNat .ramp else s

/-- GATE_ENHANCED (R536). -/
def chanEnhanced (nn : BitVec 4) (s : State) : State :=
  if (s.chan nn.toNat).st = .ramp then s.chanTo nn.toNat .on else s

/-- The input left its window, or current flowed back: WAIT with kind 0xF5 (R533, R535, R539). -/
def State.chanInput (s : State) (nn detail : Nat) : State :=
  let s := s.setChan nn { s.chan nn with inwin := false, since := if (s.chan nn).st = .wait then s.now else (s.chan nn).since }
  if (s.chan nn).charging then (s.chanTo nn .wait).fault (480 + nn) 0xF5 1 detail else s

/-- CHANNEL_UNDERVOLTAGE: below UV for UVDLY (R535). -/
def chanUnder (nn : BitVec 4) (s : State) : State := s.chanInput nn.toNat 0

/-- CHANNEL_OVERVOLTAGE (R535). -/
def chanOver (nn : BitVec 4) (s : State) : State := s.chanInput nn.toNat 1

/-- REVERSE_CURRENT: for 2 ticks, in RAMP or ON, or at a gate held on (R539, R545). -/
def chanReverseCurrent (nn : BitVec 4) (s : State) : State :=
  let n := nn.toNat
  let x := s.chan n
  let s := s.setChan n { x with hold := false }
  if x.st = .ramp ∨ x.st = .on then (s.chanTo n .wait).fault (480 + n) 0xF5 1 2 else s

/-- PRETMO_EXPIRY (R533). -/
def chanPretmo (nn : BitVec 4) (s : State) : State :=
  let n := nn.toNat
  let x := s.chan n
  if x.st = .precharge then (s.advanceTo (x.since + s.pcWord n 1 % 256 * 625000)).chanTrip n 0xF6 0 else s

/-- FAULT_TIMER_EXPIRY: a short during start, or an overload in service (R533, R537). -/
def chanFaultTimer (nn : BitVec 4) (s : State) : State :=
  let n := nn.toNat
  let x := s.chan n
  match x.st with
  | .precharge => s.chanTrip n 0xF6 1
  | .ramp => s.chanTrip n 0xF6 2
  | .on => if x.startup then s.chanTrip n 0xF6 3 else s.chanTrip n 0xF7 0
  | _ => s

/-- GTMO_EXPIRY (R536). -/
def chanGtmo (nn : BitVec 4) (s : State) : State :=
  let n := nn.toNat
  let x := s.chan n
  if x.st = .ramp then (s.advanceTo (x.since + 5 * 2 ^ (s.pcWord n 5 % 8) * 625000)).chanTrip n 0xFA 0 else s

/-- FAST_TRIP: in PRECHARGE, RAMP or ON, or at a gate held on (R538, R545). -/
def chanFastTrip (nn : BitVec 4) (s : State) : State :=
  let n := nn.toNat
  let x := s.chan n
  let s := s.setChan n { x with hold := false }
  if x.charging then s.chanTrip n 0xF8 x.st.code else s

/-- REVERSED_SUPPLY: below −2.0 V for 10 µs (R533, R543). -/
def chanReversed (nn : BitVec 4) (s : State) : State :=
  let n := nn.toNat
  let x := s.chan n
  let s := s.setChan n { x with revin := true, inwin := false }
  match x.st with
  | .off | .safeoff | .reversed => s
  | _ => (s.chanTo n .reversed).fault (480 + n) 0xF9 1 0

/-- REVERSED_SUPPLY_CLEARED: at or above −1.0 V for 100 ms (R533). -/
def chanUnreversed (nn : BitVec 4) (s : State) : State :=
  let n := nn.toNat
  let x := s.chan n
  let s := s.setChan n { x with revin := false }
  if x.st = .reversed then s.chanTo n .wait else s

/-- POWER_GOOD_ASSERTED: the debounce has reached 1,000 × PGDB in ON (R540). -/
def chanPg (nn : BitVec 4) (s : State) : State :=
  let n := nn.toNat
  let x := s.chan n
  if x.st = .on ∧ !x.pg then (s.advanceTo (x.since + s.pcWord n 2 % 16 * 625000)).setPg n true else s

/-- POWER_GOOD_REMOVED: VFnn below PGTH for 10 ticks (R541). -/
def chanPgGone (nn : BitVec 4) (s : State) : State := s.setPg nn.toNat false

/-- CHANNEL_RETRY: RETRYT s after a trip with retries left (R542). -/
def chanRetry (nn : BitVec 4) (s : State) : State :=
  let n := nn.toNat
  let x := s.chan n
  if x.st = .tripped ∧ !x.latched then
    let s := s.advanceTo (x.since + s.pcWord n 5 / 64 % 64 * 625000000)
    (s.setChan n { x with retry := x.retry + 1 }).chanTo n .wait
  else s

/-- RETRY_COUNT_RESET: power-good has stood for 60 s (R542). -/
def chanRetryReset (nn : BitVec 4) (s : State) : State :=
  let n := nn.toNat
  let x := s.chan n
  if x.pg then (s.advanceTo (x.pgSince + 37500000000)).setChan n { x with retry := 0 } else s

/-- RETRY: PWR.PCCMD frees a latched channel (R542). -/
def chanRetryCmd (nn : BitVec 4) (s : State) : State :=
  let n := nn.toNat
  let x := s.chan n
  if x.st = .tripped ∧ x.latched then (s.setChan n { x with retry := 0 }).chanTo n .wait else s.bump 0x220044

/-- A write to PWR.PCCMD. -/
def pccmd (src : Src) (v : Nat) (s : State) : State :=
  if v % 16 = 1 then chanRetryCmd (BitVec.ofNat 4 (v / 16)) s else s.ignored src 0x220180 1

/-- GATE_RELEASE: with PAIRREL = 1, 2 ms after the link of a die was lost (R546). -/
def gateRelease (die : Die) (s : State) : State :=
  let d := match die with | .la => 0 | .lb => 1
  let x := s.die d
  if x.lost ∧ s.rb (ldOff d 0x2000) 0 ∧ !x.gatesFree then
    let s := s.advanceTo (x.lostAt + 1250000)
    let t := s.setDie d { s.die d with gatesFree := true }
    (List.range 8).foldl (fun u k =>
      let nn := 8 * d + k
      if s.chanGates nn (s.chan nn) = (none, none) then u else u.emit (.gate nn none none)) t
  else s

/-- The live PWR registers (20, "PWR registers"). -/
def State.powerView (s : State) (off : Nat) : Option Nat :=
  if off = 0x220000 then some (s.rv 0x220000 ||| 1)
  else if off = 0x220004 then some ((List.range 15).foldl (fun n d => n + (s.dom d).st.code * 4 ^ d) 0)
  else if off = 0x220008 then some s.power.dref.toNat
  else if off = 0x220014 then
    some (s.power.rstat.toNat % 64 + (Config.measured off s.now).toNat / 256 % 4 * 256)
  else if off = 0x220018 ∨ off = 0x22001C then some ((Config.measured off s.now).toNat % 65536)
  else if off = 0x220020 then some (s.power.temp.signExtend 32).toNat
  else if 0x220200 ≤ off ∧ off < 0x220240 ∧ off % 4 = 0 then
    let nn := (off - 0x220200) / 4
    let x := s.chan nn
    let m := (Config.measured off s.now).toNat
    some (x.st.code + bitAt x.pg 3 + bitAt (nbit m 4) 4 + bitAt x.latched 5 + x.retry * 64 + bitAt x.hold 10 +
      bitAt x.revin 11 + (if x.charging then m / 65536 else 0) * 65536)
  else none

/-- The line-die power registers that show what the die holds or measures; `m` is the value measured (20). -/
def State.ldPowerView (s : State) (d word : Nat) (m : BitVec 16) : Option Nat :=
  let x := s.die d
  if word = 0x2002 then some (x.regstat.toNat % 4 + bitAt (nbit m.toNat 2) 2 + x.regstat.toNat / 8 * 8)
  else if word = 0x2003 then some x.temp.toNat
  else if word = 0x2004 then some m.toNat
  else if 0x1000 ≤ word ∧ word < 0x1100 then
    let nn := 8 * d + (word - 0x1000) / 0x20
    let c := s.chan nn
    let g := s.chanGates nn c
    match word % 0x20 with
    | 8 => some (c.st.code + bitAt c.pg 3 + bitAt (nbit m.toNat 4) 4 + bitAt (g.1 == some true) 5 + bitAt c.revin 6 +
        bitAt c.inwin 7 + bitAt (s.pccut nn) 8 + bitAt c.hold 9 + c.retry * 2 ^ 10)
    | 9 => some m.toNat
    | 10 => some m.toNat
    | 11 => some (if c.charging then m.toNat else 0)
    | _ => none
  else none

end Sys2Proof.Machine
end

