-- ==== Sys2Proof/Machine/Funcs.lean ====
section
/-! DEFINITION. The functions of the hub (02): commands and rejections, what each function does at its transitions, what
it waits for, the reactions that halt it, node safe and ALIVE (18), and the role of the pair as far as functions follow
it (19). -/

namespace Sys2Proof.Machine

/-! ### Pending values (R45 to R47) -/

/-- Every pending RWS value of a function is applied in one core tick (R46); a strobe of the windows discards the prefetch
lines (R191). -/
def State.applyPending (s : State) (id : Nat) : State :=
  let mine (off : Nat) : Bool := match regHit off with
    | some h => h.row.acc == .rws && h.owner? == some id
    | none => false
  let offs := (s.regs.map Prod.fst ++ s.applied.map Prod.fst).filter mine
  let s := offs.foldl (fun s off => s.setApplied off (s.rg off)) s
  let s := if id = 5 then s.discardWhere (fun _ => true) else s
  s.setFunc id { s.func id with pend := false }

/-! ### The lead set and the field set (R478, R491) -/

/-- The lead set (R491). -/
def State.leadSet (s : State) (id : Nat) : Bool :=
  id == 7 || id == 8 || decide (16 ≤ id) || (id == 13 && s.rb 0x041000 7)

/-- The field set (R478). -/
def State.fieldSet (s : State) (id : Nat) : Bool :=
  id == 7 || id == 8 || (decide (16 ≤ id) && decide (id < 40)) || decide (128 ≤ id) ||
    (decide (40 ≤ id) && decide (id < 56) && s.pccut (id - 40)) || (id == 13 && s.rb 0x210000 8)

/-- The roles in which the lead set may run (R491). -/
def Role.leads : Role → Bool
  | .taking | .leading | .receiving => true
  | _ => false

/-! ### Waiting (R25, R43, R44, R286, R327, R328, R334, R486, R491, R552, R553) -/

/-- The function that owns a bridge port (R348). -/
def portFunction (p : Nat) : Option Nat :=
  if p < 8 then some (32 + p) else if p < 40 then some (208 + (p - 8)) else none

/-- What a function needs to be RUNNING (R25). -/
def State.needsOf (s : State) (id : Nat) : List Nat :=
  if 64 ≤ id ∧ id < 128 then [6, 3]
  else if 16 ≤ id ∧ id < 32 then [24 + id]
  else match id with
    | 7 => 6 :: ((validSlots s.act.bank).map (bankEntry s.act.bank)).filterMap (fun e =>
        if e.malformed false then none else some (64 + e.axis))
    | 8 => 3 :: (validSlots s.brg.bank).filterMap (fun i =>
        if routeMalformed s.brg.bank i then none else portFunction (nbits (bankWord s.brg.bank i 0) 15 8))
    | 12 => if (s.func 11).st = .absent then [3] else [3, 11]
    | 5 => [3]
    | _ => []

/-- The functions that own the pairs a function claims, with the pair (R286). -/
def State.claims (s : State) (id : Nat) : List (Nat × Nat) :=
  if 208 ≤ id ∧ id < 240 then
    if (id - 208) % 2 = 0 ∧ s.xmode (id - 208) = 3 then [(id + 1, 1)] else []
  else if 240 ≤ id then
    let nn := id - 240
    if s.ecfg nn 3 3 = 1 then
      [(208 + 2 * nn, 0), (209 + 2 * nn, 1)] ++ (if s.ecfg nn 6 5 = 2 then [(208 + 2 * (nn ^^^ 1), 0)] else [])
    else []
  else []

/-- The claims of a function whose owners are not ABSENT. -/
def State.openClaims (s : State) (id : Nat) : List (Nat × Nat) :=
  (s.claims id).filter (fun c => (s.func c.1).st != .absent)

/-- A logical engine whose physical engine is failing, with no working spare (R328). -/
def State.engineDead (s : State) (id : Nat) : Bool :=
  decide (128 ≤ id) && decide (id < 208) &&
    (let x := s.frond ((id - 128) / 5)
     nbit x.failing.toNat (s.physical (id - 128)) && !x.spareWorks)

/-- A memory on which a function works is FAILED (R553). -/
def State.memoryFailed (s : State) (id : Nat) : Bool :=
  let bad (l : List Nat) : Bool := l.any (fun m => (tabGet ({} : RepMem) s.rpr.mems m).failed)
  match id with
  | 13 => bad [0x20, 0x21]
  | 7 => bad [0x26, 0x27]
  | 8 => bad [0x28, 0x29]
  | _ => false

/-- Domains whose first switch-on runs a test (R552). -/
def testedDomain (d : Nat) : Bool := d == 8 || d == 10 || d == 11

/-- A function in STARTING waits (FSTATn.WAITING). -/
def State.waits (s : State) (id : Nat) : Bool :=
  !((s.needsOf id).all s.running) ||
  (match parentOf id with
    | some p => !s.running p
    | none => false) ||
  !((domsOf id).all (fun d => s.domOn d && (!testedDomain d || (s.dom d).tested))) ||
  (s.leadSet id && !s.pair.role.leads) || (s.fieldSet id && s.flt.safe) ||
  !(s.openClaims id).isEmpty || s.engineDead id || s.memoryFailed id ||
  (decide (16 ≤ id) && decide (id < 32) && (s.frond (id - 16)).pending) ||
  (decide (32 ≤ id) && decide (id < 40) && !(s.canTimingOk (id - 32) && s.canPll)) ||
  (id == 13 && s.ncpA.testing) || (id == 14 && s.ncpB.testing)

/-! ### What each function does at its transitions -/

/-- The link of a port function. -/
def portLink : Nat → Link
  | 0 => .w | 1 => .e | _ => .t

/-- Functions for which RESUME behaves as RESTART (R369, R459). -/
def resumeIsRestart (id : Nat) : Bool := id == 9 || id == 10 || id == 11

/-- The local queues of the spore engine emptied, what they held counted (R466). -/
def State.sporeFresh (s : State) : State :=
  (List.range 16).foldl (fun s q =>
    let n := (s.queue q).recs.length
    ((if n = 0 then s else s.bumpBy (qBase q + 0x18) n)).setQueue q {}) s

/-- A pair starts fresh: with the lockstep self-test when it is the first start after a CLEAR (R406, R408). -/
def State.pairFresh (s : State) (p : Pair) : State :=
  let s := s.ncpFresh p
  let x := s.ncp p
  s.setNcp p { x with testing := x.testDue, testDue := false }

/-- An accepted START or RESTART of a function, or a RESTART that starts again: fresh state. -/
def State.onFresh (s : State) (id : Nat) : State :=
  if 16 ≤ id ∧ id < 32 then s.frondStart (id - 16)
  else if 32 ≤ id ∧ id < 40 then s.canFresh (id - 32)
  else if 128 ≤ id ∧ id < 208 then s.engineFresh (id - 128)
  else if 208 ≤ id ∧ id < 240 then s.uartFresh (id - 208)
  else if 240 ≤ id then s.encoderFresh (id - 240)
  else match id with
    | 3 => s.fwdFresh
    | 6 => s.timeFresh
    | 7 => s.actFresh
    | 8 => s.brgFresh
    | 12 => s.sporeFresh
    | 13 => s.pairFresh .a
    | 14 => s.pairFresh .b
    | 15 => { s with flt := { s.flt with entries := s.flt.entries.map (fun e => (e.1, { e.2 with c := 0, pend := false })) } }
    | _ => s

/-- What is reported when a start that must wait is accepted (R286, R328, R334). -/
def State.onAccepted (s : State) (id : Nat) : State :=
  let s := (s.openClaims id).foldl (fun s c =>
    s.fault (if id < 240 then 336 + (id - 208) else 368 + (id - 240)) 0x9E 0 c.2) s
  let s := if s.engineDead id then s.fault (256 + (id - 128)) 0xA3 2 ((id - 128) % 5) else s
  if 32 ≤ id ∧ id < 40 ∧ !s.canTimingOk (id - 32) then s.fault (384 + (id - 32)) 0xB7 0 0 else s

/-- Entry to RUNNING. -/
def State.onRunning (s : State) (id : Nat) (fresh : Bool) : State :=
  if id < 3 then s.portRunning (portLink id)
  else if 16 ≤ id ∧ id < 32 then s.frondRunning (id - 16)
  else if 32 ≤ id ∧ id < 40 then s.canRunning (id - 32)
  else if 40 ≤ id ∧ id < 56 then s.chanRunning (id - 40) fresh
  else if 64 ≤ id ∧ id < 128 then s.axisRunning (id - 64)
  else if 128 ≤ id ∧ id < 208 then s.engineRunning (id - 128)
  else match id with
    | 6 => s.timeRunning
    | 10 => s.usbFnConnect true
    | _ => s

/-- Entry to STOPPING. -/
def State.onStopping (s : State) (id : Nat) : State :=
  if id < 3 then s.portStopping (portLink id)
  else if 16 ≤ id ∧ id < 32 then s.frondStopping (id - 16)
  else if 32 ≤ id ∧ id < 40 then s.canStopping (id - 32)
  else if 40 ≤ id ∧ id < 56 then s.chanStopping (id - 40)
  else if 64 ≤ id ∧ id < 128 then s.axisOff (id - 64)
  else if 128 ≤ id ∧ id < 208 then s.engineStopped (id - 128)
  else match id with
    | 5 => s.dropWaiting
    | 4 => { s.bufferFlush with fwd := { s.bufferFlush.fwd with armed := 0xFF } }
    | 6 => s.timeStopped
    | 7 => s.actStopping
    | 8 => s.brgStopping
    | 9 => s.usbHubStopped
    | 10 => s.usbFnConnect false
    | 11 => s.dmaStopAll
    | _ => s

/-- Entry to STOPPED from STOPPING. -/
def State.onStopped (s : State) (id : Nat) : State :=
  if id < 3 then s.portStopped (portLink id)
  else if 208 ≤ id ∧ id < 240 then s.uartStopped (id - 208)
  else match id with
    | 3 => s.fwdStopped
    | 5 => s.discardWhere (fun _ => true)
    | 11 => { s with pcie := { s.pcie with linkUp := false, width := 0, speed := 0 } }
    | _ => s

/-- Entry to HALTED. -/
def State.onHalted (s : State) (id : Nat) : State :=
  if id < 3 then s.portHalted (portLink id)
  else if 16 ≤ id ∧ id < 32 then s.frondHalted (id - 16)
  else if 40 ≤ id ∧ id < 56 then s.chanSafeOff (id - 40)
  else if 64 ≤ id ∧ id < 128 then s.axisOff (id - 64)
  else if 128 ≤ id ∧ id < 208 then (s.engineStopped (id - 128)).engineHaltLines ((id - 128) / 5) ((id - 128) % 5)
  else if 208 ≤ id ∧ id < 240 then s.uartStopped (id - 208)
  else match id with
    | 5 => s.dropWaiting.discardWhere (fun _ => true)
    | 6 => s.timeStopped
    | 7 => s.actHalted
    | 9 => s.usbHubStopped
    | 10 => s.usbFnConnect false
    | 13 => s.pairHalt .a
    | 14 => s.pairHalt .b
    | _ => s

/-- A CLEAR: HALTED ends (R39, R406, R533). -/
def State.onCleared (s : State) (id : Nat) : State :=
  if 40 ≤ id ∧ id < 56 then s.chanLeaveSafe (id - 40)
  else match id with
    | 13 => s.setNcp .a { s.ncpA with testDue := true }
    | 14 => s.setNcp .b { s.ncpB with testDue := true }
    | _ => s

/-- An axis may have become stale, or the scheduler RUNNING: entries with the discard policy go (R249). -/
def State.staleSweep (s : State) : State :=
  if !s.running 7 then s
  else
    let m := s.act.bank
    (validSlots m).foldl (fun s i =>
      let e := bankEntry m i
      if e.malformed false || e.stalepol != 2 || !(s.axis e.axis).st.isStale then s
      else
        let s := (s.freeSlot i).bump 0x0A008C
        (s.actRecord (e.info i) 0x0203 s.ft).fault (464 + e.group) 0x86 0 e.axis) s

/-! ### Transitions (R39 to R43) -/

/-- One function enters STOPPING. -/
def State.stopOne (s : State) (id : Nat) (restart : Bool) : State :=
  let f := s.func id
  if f.st = .starting ∨ f.st = .running then
    (s.setFunc id { f with st := .stopping, keeps := f.st == .running, restart := restart }).onStopping id
  else s

/-- A function enters STOPPING, and each child that is STARTING or RUNNING with it (R43). -/
def State.enterStopping (s : State) (id : Nat) (restart : Bool) : State :=
  ((childrenOf id).foldl (fun s c => s.stopOne c false) (s.stopOne id restart)).staleSweep

/-- A function enters STARTING (R39). -/
def State.enterStarting (s : State) (id : Nat) (fresh : Bool) : State :=
  let s := s.setFunc id { s.func id with
    st := .starting, fresh := fresh, restart := false, keeps := false, presv := false, dirty := false }
  ((if fresh then s.onFresh id else s).onAccepted id).staleSweep

/-! ### ALIVE and the roles (R482, R490 to R500) -/

/-- ALIVE may toggle (R482). -/
def State.aliveMay (s : State) : Bool :=
  s.boot.valid && s.running 15 && !s.flt.safe && !s.ident.straps.testen

/-- The code of a role (R490). -/
def Role.code : Role → Nat
  | .none => 0 | .resting => 1 | .probing => 2 | .taking => 3 | .leading => 4 | .giving => 5 | .receiving => 6
  | .fallen => 7

/-- The LEAD pin (R490). -/
def State.leadPin (s : State) : Bool := s.ident.lead || s.pair.role == .probing

/-- A change of role: event kind 0x0610, SYS.NODE.LEAD, the LEAD pin and what the line dies hold (R490, R492, R517). -/
def State.roleTo (s : State) (r : Role) (lead rest : Bool) : State :=
  let old := s.pair.role
  if old = r then s
  else
    let pin := s.leadPin
    let s := s.redrive (fun s =>
      { s with pair := { s.pair with role := r, rest := rest, frozen := s.pair.frozen && (r == .giving || r == .receiving) }
               ident := { s.ident with lead := lead } })
    let s := s.eventP 771 0x0610 (r.code + old.code * 256)
    if pin = s.leadPin then s else s.emit (.lead s.leadPin)

/-- STOP to every function of the lead set that is STARTING or RUNNING (R491). -/
def State.stopLeadSet (s : State) : State :=
  (List.range 256).foldl (fun s id => if s.leadSet id then s.enterStopping id false else s) s

/-- The lines that the dies know take their SAFE values (R479, R497, R500). -/
def State.safeLines (s : State) (d : Nat → Bool) : State :=
  (s.lines.map Prod.fst).foldl (fun s l => if d (l / 128) then s.safeLine l else s) s

/-- A hub that leads falls: LEAD negated, SAFE values, the lead set stopped (R491, R500). -/
def State.fall (s : State) : State :=
  match s.pair.role with
  | .leading | .taking | .giving =>
    let on := (List.range 16).filter (fun nn => (s.chanGates nn (s.chan nn)).1 == some true && !s.pccut nn)
    let s := s.roleTo .fallen false false
    let s := { s with pair := { s.pair with fallenAt := s.now, frozen := false, t0 := none } }
    let s := on.foldl (fun s nn => s.setChan nn { s.chan nn with hold := true }) s
    (s.safeLines (fun _ => true)).stopLeadSet
  | _ => s

/-- ALIVE stops when a condition of R482 no longer holds; a leading hub falls with it (R500). -/
def State.aliveCheck (s : State) : State :=
  if s.aliveMay || !s.flt.aliveOn then s
  else
    let s := { s with flt := { s.flt with aliveOn := false, aliveLevel := false } }
    (s.emit (.alive false)).fall

/-- A function is stopped by command (R39). -/
def State.stopFn (s : State) (id : Nat) (restart : Bool) : State := (s.enterStopping id restart).aliveCheck

/-! ### Halting (R42, R43, R475 to R478) -/

/-- One function enters HALTED. -/
def State.haltOne (s : State) (id : Nat) : State :=
  if s.active id then (s.setFunc id { s.func id with st := .halted, restart := false, keeps := false }).onHalted id else s

/-- A function enters HALTED with every child that is not ABSENT or STOPPED; the Boolean says that it did (R43, R476). -/
def State.haltFn (s : State) (id : Nat) : Bool × State :=
  if s.active id then
    (true, ((childrenOf id).foldl State.haltOne (s.haltOne id)).staleSweep.aliveCheck)
  else (false, s)

/-- Node safe (R478 to R480): SAFE, the cause, the field set HALTED, every line at SAFE, ALIVE and LEAD low. -/
def State.nodeSafe (s : State) (m : DWord) (entry : Option Nat) : State :=
  if s.flt.safe then s
  else
    let s := { s with flt := { s.flt with safe := true, safeAck := false, cause := m, causeEntry := entry } }
    let s := s.bump 0x210068
    let s := (List.range 256).foldl (fun s id => if s.fieldSet id then s.haltOne id else s) s
    let s := (List.range 16).foldl (fun s nn => if s.pccut nn then s.chanSafeOff nn else s) s
    let s := (s.safeLines (fun _ => true)).staleSweep.aliveCheck
    s.event 769 0x0600 { payload := m }

/-! ### Function commands (R39 to R41) -/

/-- FUNC.CSTAT after a command. -/
def State.cstat (s : State) (id cmd : Nat) (st : FState) (rej : Bool) : State :=
  let seq := (s.rv 0x010004 / 65536 + 1) % 65536
  s.setNat 0x010004 (seq * 65536 + 0x8000 + st.code * 0x1000 + bitAt rej 11 + cmd * 256 + id)

/-- A rejected command (R40). -/
def State.reject (s : State) (id cmd : Nat) : State :=
  let f := s.func id
  let s := s.cstat id cmd f.st true
  let s := s.setFunc id { f with rej := true, rejState := BitVec.ofNat 3 f.st.code, lastCmd := BitVec.ofNat 3 cmd }
  (s.bump 0x01001C).fault 770 0x0C 0 (id + cmd * 256) 0x010000

/-- What a command does in the present state of its function: 1 fresh start, 2 stop, 3 restart of a running function,
4 resume, 5 clear; none is rejected (R39). -/
def Func.verdict (f : Func) (cmd : Nat) : Option Nat :=
  match f.st, cmd with
  | .stopped, 1 => if f.presv then none else some 1
  | .stopped, 3 => some 1
  | .stopped, 4 => if f.presv ∧ !f.dirty then some 4 else none
  | .starting, 2 => some 2
  | .running, 2 => some 2
  | .running, 3 => some 3
  | .halted, 5 => some 5
  | _, _ => none

/-- A write to FUNC.CMD: START 1, STOP 2, RESTART 3, RESUME 4, CLEAR 5 (R39 to R41). -/
def State.funcCommand (s : State) (id cmd : Nat) : State :=
  let f := s.func id
  match f.verdict cmd with
  | none => s.reject id cmd
  | some v =>
    let s := s.cstat id cmd f.st false
    let s := s.setFunc id { f with rej := false, rejState := 0, lastCmd := BitVec.ofNat 3 cmd }
    match v with
    | 1 => (s.applyPending id).enterStarting id true
    | 2 => s.stopFn id false
    | 3 => (s.applyPending id).stopFn id true
    | 4 => (s.applyPending id).enterStarting id (resumeIsRestart id)
    | _ => (s.setFunc id { s.func id with st := .stopped, presv := false, dirty := false }).onCleared id

/-- A write to FUNC.CMD as software makes it: reserved codes are ignored (R9, R35, R39). -/
def funcCmd (src : Src) (id : BitVec 8) (cmd : Nat) (s : State) : State :=
  if 1 ≤ cmd ∧ cmd ≤ 5 then s.funcCommand id.toNat cmd else s.ignored src 0x010000 1

/-- FUNCTION_RUNNING: a function that has initialised enters RUNNING once nothing makes it wait (R42). -/
def functionRunning (id : BitVec 8) (s : State) : State :=
  let n := id.toNat
  let f := s.func n
  if f.st = .starting ∧ !s.waits n then
    ((s.setFunc n { f with st := .running }).onRunning n f.fresh).staleSweep
  else s

/-- Work of a function that is still going on in STOPPING, beyond its own time (R43, R408). -/
def State.stillWorks (s : State) (id : Nat) : Bool :=
  (childrenOf id).any (fun c => (s.func c).st == .stopping) ||
  (id == 5 && !s.outstanding.isEmpty) || (id == 11 && s.dma.any (fun e => e.2.st == .stopping)) || (id == 13 && s.ncpA.wait.isSome) || (id == 14 && s.ncpB.wait.isSome)

/-- FUNCTION_STOPPED: the work of a STOPPING function has ended; a RESTART starts it again (R39, R42, R43). -/
def functionStopped (id : BitVec 8) (s : State) : State :=
  let n := id.toNat
  let f := s.func n
  if f.st = .stopping ∧ !s.stillWorks n then
    let s := (s.setFunc n { f with st := .stopped, presv := f.keeps, keeps := false }).onStopped n
    if f.restart then s.enterStarting n true
    else if 40 ≤ n ∧ n < 56 then s.chanLeaveSafe (n - 40) else s
  else s

/-- UPDATE_STROBE: FUNC.UPD (R46, R47). -/
def updateStrobe (src : Src) (id : BitVec 8) (s : State) : State :=
  let n := id.toNat
  if (s.func n).st = .absent then s.ignored src 0x010008 6
  else
    let s := s.applyPending n
    if 40 ≤ n ∧ n < 56 then s.chanApply (n - 40) else s

/-- GROUP_STROBE: FUNC.UPDGRP (R47). -/
def groupStrobe (src : Src) (groups : BitVec 16) (s : State) : State :=
  (List.range 256).foldl (fun s n =>
    let g := s.rv (0x010800 + 4 * n)
    if nbit g 4 && nbit groups.toNat (g % 16) then
      if (s.func n).st = .absent then s.ignored src 0x01000C 6
      else
        let s := s.applyPending n
        if 40 ≤ n ∧ n < 56 then s.chanApply (n - 40) else s
    else s) s

/-- FUNC.FSTATn. -/
def State.fstat (s : State) (n : Nat) : Nat :=
  let f := s.func n
  f.st.code + bitAt f.presv 3 + bitAt f.dirty 4 + bitAt (f.st == .starting && s.waits n) 5 + bitAt f.pend 6 +
    f.lastCmd.toNat * 128 + bitAt f.rej 10 + f.rejState.toNat * 2048

/-! ### ALIVE (R482, R483) -/

/-- ALIVE_TOGGLE: a half period ends; toggling restarts with a rising edge, and a FALLEN hub then rests (R482, R500). -/
def aliveToggle (s : State) : State :=
  if s.aliveMay then
    let s := s.advanceTo (if s.flt.aliveOn then s.flt.aliveSince + s.rf 0x210000 3 0 * ticksPerUs else s.now)
    let lvl := !s.flt.aliveOn || !s.flt.aliveLevel
    let was := s.flt.aliveOn
    let s := { s with flt := { s.flt with aliveOn := true, aliveLevel := lvl, aliveSince := s.now } }
    let s := s.emit (.alive lvl)
    if !was ∧ s.pair.role = .fallen then
      let s := (s.roleTo .resting false true).stopLeadSet
      { s with pair := { s.pair with fromFallen := !s.flt.peerAlive, lowSince := s.now } }
    else s
  else s.aliveCheck

end Sys2Proof.Machine
end

