-- ==== Sys2Proof/Machine/FltOps.lean ====
section
/-! DEFINITION. The fault collector at work (18): what becomes of the raises of a command, the processing of messages and
its reactions, acknowledgement and the exit from node safe, and the loss of a line die's link. -/

namespace Sys2Proof.Machine

/-! ### The raises of a command (R16, R438, R443, R468, R469) -/

/-- The source of a raise. -/
def Raise.source : Raise → Nat
  | .event n _ _ => n
  | .fault n _ _ _ _ => n

/-- Insertion that keeps raises of one source in order, ascending by source. -/
def insertRaise (r : Raise) : List Raise → List Raise
  | [] => [r]
  | x :: xs => if r.source < x.source then r :: x :: xs else x :: insertRaise r xs

/-- Raises of one core tick, in ascending source id order (R443, R468). -/
def sortRaises (l : List Raise) : List Raise := l.foldl (fun a r => insertRaise r a) []

/-- The message of kind 0xE1 for a priority lane that is full (R469). -/
def overflowMsg : DWord := faultMsg 768 0xE1 4 0 0

/-- Node safe under R469: the cause message bypasses classification. -/
def State.overflowSafe (s : State) : State :=
  let s := (s.bump 0x210054).logFault overflowMsg { entry := none, level := 4, severe := false, escalated := false } 0xFF
  s.nodeSafe overflowMsg none

/-- What follows a message's place in a lane: node safe, where an urgent one found none (R469). -/
def State.afterLane (q : State × Bool) : State := if q.2 then q.1.overflowSafe else q.1

/-- One raise: routed as an event (R437), and as a fault message also taken into its lane (R438, R468). -/
def State.deliverRaise (s : State) : Raise → State
  | .event n kind body => s.routeRaise n 0 kind body
  | .fault n kind level detail addr =>
    (State.afterLane (s.laneEnter (faultMsg n kind level detail addr))).routeRaise n 1 (kind + level * 256)
      { payload := faultMsg n kind level detail addr }

/-- Delivery of the raises in progress, and of those that delivery raises in turn. -/
def settleLoop : Nat → State → State
  | 0, s => { s with raised := [] }
  | k + 1, s =>
    if s.raised = [] then s
    else settleLoop k ((sortRaises s.raised).foldl State.deliverRaise { s with raised := [] })

/-- A command's end: its raises are delivered. -/
def settle (s : State) : State := if s.raised = [] then s else settleLoop 64 s

/-- A command begins: nothing is put out or raised yet. -/
def State.begun (s : State) : State := { s with out := [], raised := [] }

/-- A command's whole effect on everything but the queue: what `f` does to the state, then the delivery of its raises. -/
def act (f : State → State) (s : State) : Host.Outcome State Fault Refusal :=
  .next { settle (f s.begun) with pending := s.pending }

/-! ### Processing of messages (R468 to R476) -/

/-- The next message: the priority lane first, in each lane the oldest (R468). -/
def State.takeMsg (s : State) : Option (DWord × State) :=
  match s.flt.prio, s.flt.norm with
  | m :: r, _ => some (m, { s with flt := { s.flt with prio := r } })
  | [], m :: r => some (m, { s with flt := { s.flt with norm := r } })
  | [], [] => none

/-- The pair that a message of kind 0x18 reports (R473). -/
def reportingPair (m : DWord) : Option Nat :=
  if msgKind m ≠ 0x18 then none
  else if msgSource m = 704 then some 13 else if msgSource m = 705 then some 14 else none

/-- The target of a level 3 reaction (R476). -/
def State.targetOf (s : State) (m : DWord) (v : Verdict) : Option Nat :=
  match v.entry with
  | some e => if s.rb (clsBase e + 0xC) 4 then some (s.rf (clsBase e + 0x10) 7 0) else sourceOwner (msgSource m)
  | none => sourceOwner (msgSource m)

/-- A function halted by a reaction, with event kind 0x0602 when its state changes (R475). -/
def State.react (s : State) (entry : Option Nat) (id : Nat) : Bool × State :=
  let (did, s) := s.haltFn id
  (did, if did then s.eventP 768 0x0602 (id + entry.getD 0xFF * 256) else s)

/-- The reaction of an applied level (R475 to R478). -/
def State.applyLevel (s : State) (m : DWord) (v : Verdict) : State :=
  let target := s.targetOf m v
  let level := if v.level = 3 ∧ target.isNone then 2 else v.level
  let v := { v with level := level }
  let s := s.bump (0x210044 + 4 * level)
  let s := match v.entry with
    | some e => s.setFltEntry e { s.fltEntry e with last := level }
    | none => s
  let (halted, s) := match (if 3 ≤ level then target else none) with
    | some id =>
      let (did, s) := s.react v.entry id
      (if did then id else 0xFF, s)
    | none => (0xFF, s)
  let s := match reportingPair m with
    | some id => if 3 ≤ level then (s.react v.entry id).2 else s
    | none => s
  let s := if 4 ≤ level then s.nodeSafe m v.entry else s
  if 1 ≤ level then s.logFault m v halted else s

/-- The overflow notice of the normal lane, once there is room (R469). -/
def State.laneNotice (s : State) : State :=
  if s.flt.ovf ∧ s.flt.norm.length < 64 then
    ({ s with flt := { s.flt with ovf := false } }).faultMs 768 0xE0 1 0
  else s

/-- FAULT_MESSAGE_PROCESS: the next message is classified, or applied at its proposed level while function 15 is not
RUNNING, and its reaction is run (R468, R472, R474, R475). -/
def faultProcess (s : State) : State :=
  match s.takeMsg with
  | none => s
  | some (m, s) =>
    let s := s.bump 0x210040
    if s.running 15 then
      let e := s.classify m
      let (v, x) := s.classifyBy m e
      let s := (s.setFltEntry e x).bump (0x214400 + 4 * e)
      let s := if v.severe then s.bump 0x210058 else s
      let s := if v.escalated then s.bump 0x21005C else s
      (s.applyLevel m v).laneNotice
    else (s.applyLevel m { entry := none, level := msgLevel m, severe := false, escalated := false }).laneNotice

/-! ### Acknowledgement and exit (R485, R486) -/

/-- FLT_ACK with ALL = 0 (R485). -/
def fltAck (entry : BitVec 8) (s : State) : State :=
  let e := entry.toNat
  let x := s.fltEntry e
  let acks : Bool := s.flt.safe && s.flt.causeEntry == some e && !s.flt.safeAck
  if !x.pend && !acks then s.bump 0x21006C
  else
    let s := s.setFltEntry e { x with pend := false }
    if acks then { s with flt := { s.flt with safeAck := true } } else s

/-- FLT_ACK with ALL = 1 (R485). -/
def fltAckAll (s : State) : State :=
  let any := s.flt.entries.any (fun e => e.2.pend)
  if !any && s.flt.safeAck then s.bump 0x21006C
  else
    let es := s.flt.entries.map Prod.fst
    let s := es.foldl (fun s e => s.setFltEntry e { s.fltEntry e with pend := false }) s
    { s with flt := { s.flt with safeAck := true } }

/-- A write to FLT.ACK. -/
def fltAckWrite (v : Nat) (s : State) : State := if nbit v 15 then fltAckAll s else fltAck (BitVec.ofNat 8 v) s

/-- LDX.STAT.LA_UP and LB_UP: the die is powered and its link is up. -/
def State.dieUp (s : State) (d : Nat) : Bool := s.domOn (12 + d) && (s.die d).linkUp

/-- EXIT = 1 written to FLT.SAFEEXIT (R486). -/
def safeExit (s : State) : State :=
  if s.flt.safe ∧ s.flt.safeAck ∧ s.dieUp 0 ∧ s.dieUp 1 then
    let s := { s with flt := { s.flt with safe := false, exitRef := false } }
    let s := (List.range 16).foldl State.chanLeaveSafe s
    s.event 769 0x0601
  else ({ s with flt := { s.flt with exitRef := true } }).bump 0x21006C

/-! ### Line dies (R481) -/

/-- The RS-485 drivers of a die are released (R479, R492). -/
def State.releaseDrivers (s : State) (d : Nat) : State :=
  { s with uarts := s.uarts.map (fun e =>
      if e.1 / 16 = d then (e.1, { e.2 with driver := false, sending := none }) else e) }

/-- The number of a line die. -/
def dieIndex : Die → Nat
  | .la => 0 | .lb => 1

/-- LINE_DIE_LINK_LOST: no traffic for 4 µs; the die applies the safe outputs on its own (R481). -/
def dieLost (die : Die) (s : State) : State :=
  let d := dieIndex die
  let s := s.setDie d { s.die d with linkUp := false, lost := true, lostAt := s.now }
  let s := (s.safeLines (fun k => k == d)).releaseDrivers d
  let s := (List.range 8).foldl (fun s k => if s.pccut (8 * d + k) then s.chanSafeOff (8 * d + k) else s) s
  s.fault 769 0xE3 4 d

/-- LINE_DIE_LINK_UP: the link is up again (R481). -/
def dieUpAgain (die : Die) (s : State) : State :=
  let d := dieIndex die
  let s := s.redrive (fun s => s.setDie d { s.die d with linkUp := true, lost := false, gatesFree := false })
  (List.range 8).foldl (fun s k => s.chanLeaveSafe (8 * d + k)) s

/-! ### What FLT shows -/

/-- Entries that await acknowledgement (FLT.STAT.PENDING). -/
def State.fltPending (s : State) : Nat := (s.flt.entries.filter (fun e => e.2.pend)).length

/-- An entry at level 2 or above awaits acknowledgement (FLT.STAT.DEGRADED). -/
def State.fltDegraded (s : State) : Bool := s.flt.entries.any (fun e => e.2.pend && decide (2 ≤ e.2.last))

/-- The live FLT registers (18, "FLT registers"). -/
def State.fltView (s : State) (off : Nat) : Option Nat :=
  let f := s.flt
  match off with
  | 0x210010 =>
    let pend := s.fltPending
    some (bitAt f.safe 0 + bitAt s.fltDegraded 1 + bitAt f.aliveOn 2 + bitAt (!s.running 15) 3 + bitAt f.exitRef 4 +
      bitAt f.safeAck 5 + pend * 65536)
  | 0x210014 => some (f.cause.toNat % 2 ^ 32)
  | 0x210018 => some (f.cause.toNat / 2 ^ 32)
  | 0x213FE0 => some (s.rv 0x213FE0 ||| 0x8000)
  | _ =>
    if 0x214000 ≤ off ∧ off < 0x214400 then
      let x := s.fltEntry ((off - 0x214000) / 4)
      some (x.c * 65536 + bitAt x.pend 15 + x.last * 4096)
    else none

end Sys2Proof.Machine
end

