-- ==== Sys2Proof/Machine/ActOps.lean ====
section
/-! DEFINITION. The commits of the action scheduler (10, R242 to R249), the merge of appended entries (R254, R255), the
swap of the banks (R258 to R260), and the axis commands that can make an axis stale. -/

namespace Sys2Proof.Machine

/-! ### Commits (R242 to R249) -/

/-- An entry of the active bank that may be converted now: function 7 RUNNING, the entry well formed, and its stale
policy lets it (R241, R249). -/
def State.mayCommit (s : State) (e : ActEntry) : Bool :=
  let st := (s.axis e.axis).st
  s.running 7 && !e.malformed false && (!st.isStale || (e.stalepol == 0 && st.valid))

/-- Lateness in units of 2^-16 count at an instant (R248). -/
def State.latenessAt (s : State) (e : ActEntry) (t : BitVec 80) : Int := pdiff ((s.axis e.axis).eval t) e.pos

/-- The entry's record with its lateness L, and STALE when its axis is stale (R248, R249). -/
def State.judged (s : State) (e : ActEntry) (slot : Nat) (l : Int) : ActRec :=
  { e.info slot with lateness := l.toNat / 65536, late := decide (0 < l), stale := (s.axis e.axis).st.isStale }

/-- An entry is missed (R248). -/
def State.actMiss (s : State) (e : ActEntry) (slot : Nat) (l : Int) (t : BitVec 80) : State :=
  let r := s.judged e slot l
  (((s.freeSlot slot).bump 0x0A0088).actRecord r 0x0202 t).fault (464 + e.group) 0x80 1 e.axis

/-- An action fails (R242). -/
def State.actFail (s : State) (e : ActEntry) (r : ActRec) (t : BitVec 80) : State :=
  ((s.bump 0x0A0090).actRecord r 0x0204 t).fault (464 + e.group) 0x81 0 e.kind

/-- A late action is counted (R248). -/
def State.countLate (s : State) (r : ActRec) : State := if r.late then s.bump 0x0A0084 else s

/-- Ticks of DUR ns at the base rate (R246). -/
def State.durTicks (s : State) (ns : Nat) : Nat :=
  (roundDiv ((ns * 2 ^ 46 : Nat) : Int) s.time.base.toNat).toNat

/-- The off edge of a PULSE (R246). -/
def State.offEdge (s : State) (e : ActEntry) (edge : Nat) : OffEdge :=
  if e.dunit then .tick (edge + s.durTicks e.dur) else .pos e.axis (e.pos + BitVec.ofNat 48 (e.dur * 65536))

/-- A pulse enters the in-flight list, or merges with the one in flight on its line; a committed off command is withdrawn
only when the new off edge is the later one (R246, R247). -/
def State.startPulse (s : State) (l edge : Nat) (off : OffEdge) (r : ActRec) : State :=
  match s.pulseOn l with
  | none => s.setPulse l (some { line := l, onEdge := edge, offs := [off], entries := [r] })
  | some p =>
    let s := s.bump 0x0A00A4
    let p1 := { p with onEdge := max p.onEdge edge, entries := p.entries ++ [r] }
    match p.off with
    | none => s.setPulse l (some { p1 with offs := p.offs ++ [off] })
    | some o =>
      let later : Bool := match s.offDue off with
        | some t => decide (o < t)
        | none => true
      if later then
        let s := { s with act := { s.act with cmds := s.act.cmds.filter (fun c => !(c.line == l && c.entry.isNone)) } }
        s.setPulse l (some { p1 with offs := [off], off := none })
      else s.setPulse l (some p1)

/-- The target of a line kind lets its action through (R242). -/
def State.lineTargetOk (s : State) (l : Nat) : Bool :=
  let x := s.line l
  x.isOutput l && x.osrc == 1 && s.frondRuns l

/-- A line kind is committed: SET, CLEAR or PULSE, due in d ticks (R242, R244, R246 to R248). -/
def State.commitLine (s : State) (e : ActEntry) (slot d : Nat) : State :=
  let l := e.target
  let on := e.kind != 2
  let lead := s.leadTicks l on
  let edge := s.now + d
  let s := s.advanceTo (edge - lead - 7500)
  let place := max (edge - lead) (s.now + 2500)
  let late : Bool := d == 0 || decide (edge < place + lead)
  let edge := place + lead
  let t := s.ftAt (s.tickCount + (edge - s.now))
  let lat : Int := if late then s.latenessAt e t else 0
  if (e.late * 65536 : Nat) < lat then s.actMiss e slot lat t
  else
    let r := s.judged e slot lat
    let s := s.freeSlot slot
    if !s.lineTargetOk l then s.actFail e r t
    else
      let s := s.countLate r
      let s := if e.kind = 3 then s.startPulse l edge (s.offEdge e edge) r else s
      s.addCmd { line := l, on := on, place := place, edge := edge, entry := some r }

/-- The action of another kind, carried out on H; none when it fails (R240, R242). -/
def State.performAction (s : State) (e : ActEntry) : Option State :=
  match e.kind with
  | 4 =>
    if ((s.func e.target).verdict 3).isNone then none
    else
      let i := e.target - 128
      some ((s.setEngine i { s.engine i with entry := some (BitVec.ofNat 6 e.arg0) }).funcCommand e.target 3)
  | 5 =>
    let h : Hdr := { cls := BitVec.ofNat 3 (nbits e.target 17 15), typ := 7, mc := nbit e.target 14
                     dest := BitVec.ofNat 12 e.target, tsel := BitVec.ofNat 2 (nbits e.target 13 12) }
    some (s.originate h (beBytes e.arg0 4 ++ beBytes e.arg1 4 ++ beBytes e.tag.toNat 4))
  | 6 =>
    let k := e.target % 8
    let b := e.target / 8
    let x := s.can k
    let st := match b with | 0 => x.b0.st | 1 => x.b1.st | _ => x.b2.st
    if s.running (32 + k) && st == .loaded then some (s.canRequest k b) else none
  | 7 =>
    let l := e.target
    if s.frondRuns l then
      some (s.capture l (if (s.line l).filt then 3 else 2) e.axis e.arg0 (s.rb (0x0A1400 + 4 * l) 3))
    else none
  | _ => none

/-- Another kind is carried out at t_d, which is its commit (R242, R244, R248). -/
def State.commitOther (s : State) (e : ActEntry) (slot d : Nat) : State :=
  let s := s.advanceTo (s.now + d)
  let lat : Int := if d = 0 then s.latenessAt e s.ft else 0
  if (e.late * 65536 : Nat) < lat then s.actMiss e slot lat s.ft
  else
    let r := s.judged e slot lat
    let s := s.freeSlot slot
    match s.performAction e with
    | none => (if e.kind = 4 then s.funcCommand e.target 3 else s).actFail e r s.ft
    | some t =>
      let t := (t.countLate r).bump 0x0A0080
      if r.late then t.actRecord r 0x0201 t.ft else if r.rec_ then t.actRecord r 0x0200 t.ft else t

/-- The commit of an entry of the active bank, when it has an instant (R243, R244). -/
def State.commitSlot (s : State) (slot : Nat) : State :=
  let e := bankEntry s.act.bank slot
  if !s.mayCommit e then s
  else match s.dueIn e.axis e.pos with
    | none => s
    | some d => if e.isLine then s.commitLine e slot d else s.commitOther e slot d

/-- ACTION_COMMIT (R244). -/
def actCommit (slot : BitVec 12) (s : State) : State := s.commitSlot slot.toNat

/-- The target of an entry is already behind the estimate: it is committed at once (R248). -/
def State.judgeBehind (s : State) (slot : Nat) : State :=
  let e := bankEntry s.act.bank slot
  if s.mayCommit e && decide (0 ≤ s.latenessAt e s.ft) then s.commitSlot slot else s

/-! ### Appending (R254, R255) -/

/-- A merged CANCEL (R255). -/
def State.actCancel (s : State) (e : ActEntry) : State :=
  let m := s.act.bank
  let mine := (validSlots m).filter (fun i => (bankEntry m i).axis == e.axis && (bankEntry m i).tag == e.tag)
  let s := mine.foldl State.freeSlot s
  let s := if mine.isEmpty then s else s.bumpBy 0x0A00A8 mine.length
  let s := if nbit e.arg0 0 then
      (s.act.pulses.filter (fun p => p.entries.any (fun r => r.axis == e.axis && r.tag == e.tag))).foldl
        State.offAtOnce s
    else s
  if e.rec_ then s.actRecord { e.info 0 with lateness := mine.length } 0x0205 s.ft else s

/-- An entry placed in the lowest free slot of the active bank; refused when there is none (R254). -/
def State.placeEntry (s : State) (bytes : List Byte) : Option Nat × State :=
  match s.freeActSlot with
  | none => (none, s.appRefuse (parseEntry bytes) 0x82 1)
  | some i => (some i, { s with act := s.act.setBank (memWriteN s.act.bank (32 * i) bytes) })

/-- APPEND_MERGE: the head entry of the append queue is merged (R254). -/
def actMerge (s : State) : State :=
  if !s.running 7 then s
  else match s.act.appq with
    | [] => s
    | one :: rest =>
      let s := { s with act := { s.act with appq := rest } }
      let e := parseEntry one
      if e.malformed true then s.appRefuse e 0x87 e.kind
      else if e.kind = 15 then s.actCancel e
      else match s.placeEntry one with
        | (none, s) => s
        | (some i, s) => s.staleSweep.judgeBehind i

/-! ### Swaps (R258 to R260) -/

/-- The swap request is due now (R258, R261). -/
def State.swapDue (s : State) : Bool :=
  match s.act.req with
  | .none => false
  | .swap => true
  | .armswap =>
    let x := s.axis s.act.swapAx.toNat
    !x.st.isStale && decide (0 ≤ pdiff (x.eval s.ft) (countPos s.act.swapPos))

/-- The banks change roles in one core tick (R260). -/
def State.swapBanks (s : State) : State :=
  let old := s.act.bank
  let es := (validSlots old).filter (fun i => !(bankEntry old i).malformed false)
  let carried := es.filter (fun i => (bankEntry old i).carry)
  let n := es.length - carried.length
  let late := s.act.waitSort
  let s := { s with act := { s.act with active := !s.act.active, sh := .opened, req := .none, waitSort := false } }
  let s := s.bump 0x0A009C
  let s := if n = 0 then s else (s.bumpBy 0x0A00A0 n).fault 464 0x84 0 (min n 0x7FF)
  let s := if late then s.fault 464 0x83 0 0 else s
  let s := s.event 464 0x0208 { late := late, payload := BitVec.ofNat 64 (n + bitAt s.act.active 16) }
  let s := carried.foldl (fun s i => (s.placeEntry (memReadN old (32 * i) 32)).2) s
  let s := s.staleSweep
  if s.running 7 then (validSlots s.act.bank).foldl State.judgeBehind s else s

/-- ACT_SWAP_BOUNDARY: the next tick count that is a multiple of 625 (R258, R259). -/
def actBoundary (s : State) : State :=
  let r := s.tickCount % 625
  let s := if r = 0 then s else s.advanceTo (s.now + (625 - r))
  if !s.swapDue || (s.func 7).st == .starting then s
  else match s.act.sh with
    | .sorting => { s with act := { s.act with waitSort := true } }
    | .ready => s.swapBanks
    | _ => s

/-! ### Axis commands (R225 to R230, R249) -/

/-- AXIS_SAMPLE_LATCH with the stale policy of waiting entries. -/
def actAxisLatch (a : BitVec 6) (gate : Bool) (s : State) : State := (axisLatch a gate s).staleSweep

/-- AXIS_SAMPLE_RECEIVED with the stale policy of waiting entries. -/
def actAxisSample (s : State) : State := (axisSampleReceived s).staleSweep

/-- AXIS_STALE with the stale policy of waiting entries. -/
def actAxisStale (a : BitVec 6) (s : State) : State := (axisStale a s).staleSweep

end Sys2Proof.Machine
end

