-- ==== Sys2Proof/Machine/PeatCore.lean ====
section
/-! DEFINITION. The peat store and its controller as far as they need no image (03): the commands taken, the slots, the key
slots, the boot records, and what the registers show. -/

namespace Sys2Proof.Machine

/-- The slot named by a bit: false A, true B. -/
def State.slotOf (s : State) (b : Bool) : Slot := if b then s.peat.slotB else s.peat.slotA

/-- A slot set. -/
def State.setSlot (s : State) (b : Bool) (x : Slot) : State :=
  if b then { s with peat := { s.peat with slotB := x } } else { s with peat := { s.peat with slotA := x } }

/-- The line die of a slot: LA holds A, LB holds B (R61). -/
def slotDie (b : Bool) : Nat := if b then 1 else 0

/-- A slot whose line die is unpowered or whose link is down reads UNREADABLE (R64). -/
def State.slotReadable (s : State) (b : Bool) : Bool := s.dieUp (slotDie b)

/-- The applied image came from this slot. -/
def State.fromSlot (s : State) (b : Bool) : Bool := s.boot.valid && s.boot.slot.toNat == (if b then 2 else 1)

/-- ERASE and PROGRAM are refused for the slot of the applied image unless the other slot is GOOD (R84). -/
def State.slotProtected (s : State) (b : Bool) : Bool := s.fromSlot b && (s.slotOf !b).st != 4

/-- A slot's sectors are erased once more (R564). -/
def State.countErase (s : State) (d sec : Nat) : State :=
  let k := 32 * d + sec
  let n := tabGet 0 s.rpr.erases k + 1
  let r := { s.rpr with erases := tabSet 0 s.rpr.erases k n }
  { s with rpr := if d = 0 then { r with eraseA := max r.eraseA n } else { r with eraseB := max r.eraseB n } }

/-- The 27 sectors of a slot erased. -/
def State.countSlotErase (s : State) (b : Bool) : State :=
  ((List.range 27).foldl (fun s k => s.countErase (slotDie b) k) s).wearSweep

/-- One sector of both dies erased. -/
def State.countBoth (s : State) (sec : Nat) : State := ((s.countErase 0 sec).countErase 1 sec).wearSweep

/-- A PEAT command is taken with the arguments as they stand (R82, R83). An ERASE that is not refused leaves its slot
EMPTY from the start. -/
def State.peatTake (s : State) (op : Nat) : State :=
  let a := s.rv 0x240004
  let job : PeatJob := { op := op, slot := nbit a 0, kslot := nbits a 7 6, fid := nbits a 15 8
                         len := s.rf 0x240008 15 0, node := BitVec.ofNat 12 (s.rf 0x24000C 11 0) }
  let s := { s with peat := { s.peat with job := some job, lastOp := BitVec.ofNat 4 op } }
  if op = 1 ∧ s.slotReadable job.slot ∧ !s.slotProtected job.slot then
    s.setSlot job.slot { s.slotOf job.slot with st := 0, erased := false }
  else s

/-- A PEAT command ends with a result; all but 0x0 are failures (R83). -/
def State.peatEnd (s : State) (result : Nat) : State :=
  let fails : Bool := result != 0
  let s := { s with peat := { s.peat with job := none, result := BitVec.ofNat 4 result, err := fails } }
  if fails then s.bump 0x240034 else s

/-- The commands that the key guard guards (R82). -/
def peatGuarded (op : Nat) : Bool :=
  op == 1 || op == 2 || op == 4 || (decide (8 ≤ op) && decide (op ≤ 13))

/-- Key slots programmed. -/
def State.keysProgrammed (s : State) : Nat :=
  (List.range 4).foldl (fun n k => n + bitAt ((tabGet [] s.peat.keys k).length == 32) k) 0

/-- The hub is open: no key slot is programmed (R71). -/
def State.openHub (s : State) : Bool := s.keysProgrammed == 0

/-- The bare hub waits for an image (R80). -/
def State.waitsForImage (s : State) : Bool := s.boot.waiting && !s.boot.valid

/-- KEYPROG: an empty key slot takes a digest (R82). -/
def State.keyProg (s : State) (k : Nat) (digest : List Byte) : Nat × State :=
  if nbit s.keysProgrammed k || nbit s.peat.revoked.toNat k then (6, s)
  else (0, { s with peat := { s.peat with keys := tabSet [] s.peat.keys k digest } })

/-- KEYREVOKE: a programmed key slot is revoked (R82). -/
def State.keyRevoke (s : State) (k : Nat) : Nat × State :=
  if nbit s.keysProgrammed k ∧ !nbit s.peat.revoked.toNat k then
    (0, { s with peat := { s.peat with revoked := s.peat.revoked ||| BitVec.ofNat 4 (2 ^ k) } })
  else (6, s)

/-- ARM: a WRITTEN or GOOD slot becomes TRIAL (R82). -/
def State.peatArm (s : State) (b : Bool) : Nat × State :=
  if !s.slotReadable b then (7, s)
  else if (s.slotOf b).st = 1 ∨ (s.slotOf b).st = 4 then (0, s.setSlot b { s.slotOf b with st := 2 })
  else (6, s)

/-- CONFIRM: the TRYING slot from which the applied image came becomes GOOD (R82). -/
def State.peatConfirm (s : State) : Nat × State :=
  match [false, true].find? s.fromSlot with
  | none => (6, s)
  | some b =>
    if !s.slotReadable b then (7, s)
    else if (s.slotOf b).st = 3 then (0, s.setSlot b { s.slotOf b with st := 4 })
    else (6, s)

/-- SVNADV: the fuses rise to the security version of the applied image, and never fall (R72). -/
def State.svnAdvance (s : State) : Nat × State :=
  if !s.boot.valid then (6, s)
  else (0, { s with peat := { s.peat with svn := if s.peat.svn < s.peat.appSvn then s.peat.appSvn else s.peat.svn } })

/-- NODEASG: both boot records take the assigned number (R82). -/
def State.nodeAssign (s : State) (n : BitVec 12) : Nat × State :=
  if s.dieUp 0 ∧ s.dieUp 1 then (0, { s with peat := { s.peat with assigned := n } }) else (7, s)

/-- ERASE: the slot EMPTY and its sectors erased; a flash failure leaves it EMPTY and not erased (R82, R88). -/
def State.peatErase (s : State) (b failed : Bool) : Nat × State :=
  if !s.slotReadable b then (7, s)
  else if s.slotProtected b then (9, s)
  else
    let s := s.countSlotErase b
    if failed then (8, s.setSlot b { s.slotOf b with st := 0, gen := 0, svn := 0, erased := false })
    else (0, s.setSlot b {})

/-- The local process of the repair map: both copies written with the generation raised (R557). -/
def State.writeMap (s : State) (failed : Bool) : Nat × State :=
  let gen := s.rpr.mapGen + 1
  let open_ (k : Nat) : Bool := nbit (Config.measured k s.now).toNat 0
  let copy (ok : Bool) : MapCopy := { ok := ok, gen := gen, entries := s.rpr.map }
  if !(s.dieUp 0 && s.dieUp 1) then (7, s.fault 774 0xE6 1 1)
  else
    let s := (s.bump 0x230058).countBoth 28
    if failed then
      (8, ({ s with peat := { s.peat with map1 := copy (open_ 0x23FF00), map2 := copy (open_ 0x23FF04) } }).fault
        774 0xE6 1 1)
    else
      (0, { s with peat := { s.peat with map1 := copy true, map2 := copy true }
                   rpr := { s.rpr with mapGen := gen } })

/-- The live PEAT registers (03, "PEAT registers"). -/
def State.peatView (s : State) (off : Nat) : Option Nat :=
  let p := s.peat
  let slot (b : Bool) : Nat :=
    let x := s.slotOf b
    (if s.slotReadable b then x.st.toNat else 7) + bitAt (s.fromSlot b) 3 + x.svn.toNat * 16
  match off with
  | 0x240010 => some (bitAt p.job.isSome 0 + bitAt p.err 1 +
      (if p.job.isSome then (Config.measured off s.now).toNat % 256 * 256 else 0) + bitAt s.waitsForImage 17 +
      bitAt s.openHub 18 + bitAt p.mixed 19 + p.lastOp.toNat * 2 ^ 20 + p.result.toNat * 2 ^ 24)
  | 0x240014 => some (slot false)
  | 0x240018 => some (slot true)
  | 0x24001C => some p.slotA.gen.toNat
  | 0x240020 => some p.slotB.gen.toNat
  | 0x240024 => some p.appGen.toNat
  | 0x240028 => some (s.keysProgrammed + p.revoked.toNat * 16)
  | 0x24002C => some p.svn.toNat
  | 0x240030 => some (p.assigned.toNat + bitAt (p.assigned != 0xFFF) 12)
  | 0x240038 => some (p.ovlApplied % 65536 + p.ovlSkipped % 65536 * 65536)
  | _ => none

end Sys2Proof.Machine
end

