-- ==== Sys2Proof/Machine/RepairOps.lean ====
section
/-! DEFINITION. The repair controller (21): BIST and the maps it applies, scrubbing, the row table and retirement, the
in-service map, and what the registers show. -/

namespace Sys2Proof.Machine

/-! ### Maps and tests (R551 to R556) -/

/-- A spare of a memory taken by a map entry; none when it is in use or out of range (R554, R556). -/
def State.useSpare (s : State) (e : Word) : Option State :=
  let v := e.toNat
  let unit := nbits v 28 22
  let sp := nbits v 21 18
  let f := nbits v 17 0
  match nbits v 31 29 with
  | 1 =>
    let x := s.mem unit
    if sp < memSpares unit ∧ f < memRows unit ∧ !nbit x.rows sp then
      some (s.setMem unit { x with rows := x.rows + 2 ^ sp })
    else none
  | 2 =>
    let x := s.mem unit
    if sp < 2 ∧ 0 < memRows unit ∧ !nbit x.cols sp then some (s.setMem unit { x with cols := x.cols + 2 ^ sp })
    else none
  | 3 =>
    if unit = 0 ∧ sp < 2 ∧ f < 18 ∧ s.fwd.spareBanks ≤ sp then
      some { s with fwd := { s.fwd with spareBanks := sp + 1 } }
    else none
  | 4 =>
    let l : Link := match unit with | 0 => .w | 1 => .e | _ => .t
    if unit < 3 ∧ sp < 2 ∧ f < 32 ∧ (s.link l).spares ≤ sp then
      some (s.setLink l { s.link l with spares := sp + 1 })
    else none
  | 5 =>
    let x := s.frond unit
    if unit < 16 ∧ f < 5 ∧ x.spare ≠ 7 then
      let e := [0, 1, 2, 3].find? (fun e => nbits x.map.toNat (3 * e + 2) (3 * e) == f)
      match e with
      | some e => some (s.setFrond unit { x with
          map := BitVec.ofNat 12 (putBits x.map.toNat (3 * e + 2) (3 * e) x.spare.toNat), spare := 7 })
      | none => some (s.setFrond unit { x with spareOk := false })
    else none
  | 6 =>
    let used := if unit = 0 then s.rpr.secA else s.rpr.secB
    if unit < 2 ∧ sp < 2 ∧ f < 32 ∧ !nbit used sp then
      some { s with rpr := if unit = 0 then { s.rpr with secA := used + 2 ^ sp } else { s.rpr with secB := used + 2 ^ sp } }
    else none
  | _ => none

/-- The fuse map (R555). -/
def fuseEntries : List Word := (List.range 256).map Config.fuseMap

/-- An in-service entry names a failure that the fuse map already repairs (R556). -/
def fuseRepairs (e : Word) : Bool :=
  fuseEntries.any (fun f => nbits f.toNat 31 22 == nbits e.toNat 31 22 && nbits f.toNat 17 0 == nbits e.toNat 17 0)

/-- The fuse map applied (R551 step 1). -/
def State.applyFuses (s : State) : State := fuseEntries.foldl (fun s e => (s.useSpare e).getD s) s

/-- The copy of the in-service map that counts: the one that passes, of the higher generation, copy 1 on a tie (R63). -/
def State.mapChoice (s : State) : Option (Nat × MapCopy) :=
  let ok1 := s.peat.map1.ok && s.dieUp 0
  let ok2 := s.peat.map2.ok && s.dieUp 1
  if ok1 ∧ (!ok2 ∨ s.peat.map2.gen ≤ s.peat.map1.gen) then some (1, s.peat.map1)
  else if ok2 then some (2, s.peat.map2)
  else none

/-- The spare that a map entry asks for, unless the fuses repair the same place already (R556). -/
def State.spareFor (s : State) (e : Word) : Option State := if fuseRepairs e then none else s.useSpare e

/-- The in-service map read and applied (R556). -/
def State.applyMap (s : State) : State :=
  match s.mapChoice with
  | none => ({ s with rpr := { s.rpr with mapCopy := 0 } }).fault 774 0xE6 1 3
  | some (k, c) =>
    c.entries.foldl (fun s e =>
      match s.spareFor e with
      | some t => { t with rpr := { t.rpr with map := t.rpr.map ++ [e] } }
      | none => s.bump 0x230054) { s with rpr := { s.rpr with mapCopy := BitVec.ofNat 2 k, mapGen := c.gen } }

/-- A memory that its spares cannot repair (R553). -/
def State.memFails (s : State) (mid : Nat) : State :=
  let s := (s.setMem mid { s.mem mid with failed := true }).fault 775 0xE7 2 mid
  if mid = 0x22 ∨ mid = 0x23 ∨ mid = 0x24 then
    { s with rpr := { s.rpr with pbFail := true }, boot := { s.boot with phase := 0xE } }
  else s

/-- A failing row repaired with the lowest free spare (R553). -/
def State.repairRow (s : State) (mid row : Nat) : State :=
  let x := s.mem mid
  match lowestFree (memSpares mid) x.rows with
  | some k => (s.setMem mid { x with rows := x.rows + 2 ^ k }).recordRepair (mapEntry 1 mid k row)
  | none => if x.failed then s else s.memFails mid

/-- A failing column repaired with the lowest free spare (R553). -/
def State.repairCol (s : State) (mid col : Nat) : State :=
  let x := s.mem mid
  match lowestFree 2 x.cols with
  | some k => (s.setMem mid { x with cols := x.cols + 2 ^ k }).recordRepair (mapEntry 2 mid k col)
  | none => if x.failed then s else s.memFails mid

/-- Memories tested and repaired: the failing rows and columns of those that `which` names (R551, R553). -/
def State.testMemories (s : State) (which : Nat → Bool) (f : BistFinds) : State :=
  let s := (memIds.filter which).foldl (fun s m => s.setMem m { s.mem m with tested := true }) s
  let s := (f.rows.filter (fun r => which r.1.toNat)).foldl (fun s r =>
    if r.2.toNat < memRows r.1.toNat then s.repairRow r.1.toNat r.2.toNat else s) s
  (f.cols.filter (fun c => which c.1.toNat && decide (0 < memRows c.1.toNat))).foldl (fun s c =>
    s.repairCol c.1.toNat c.2.toNat) s

/-- Buffer banks placed: those that failed a test, or that rows and columns could not repair, give way to the spares; with
more than two gone the capacity falls (R164, R551 step 6). -/
def State.placeBanks (s : State) (banks : List (BitVec 5)) : State :=
  let bad := (List.range 18).filter (fun b => banks.contains (BitVec.ofNat 5 b) || (s.mem b).failed)
  let s := (List.range bad.length).foldl (fun s k =>
    let sp := s.fwd.spareBanks
    if sp < 2 then
      ({ s with fwd := { s.fwd with spareBanks := sp + 1 } }).recordRepair (mapEntry 3 0 sp (bad.getD k 0))
    else { s with fwd := { s.fwd with banks := s.fwd.banks - 1 } }) s
  if s.fwd.banks < 16 then s.fault 500 0x50 2 0 else s

/-- Slices that fail the loopback test are replaced while spares remain (R109, R551 step 7). -/
def State.testSlices (s : State) (f : BistFinds) : State :=
  f.slices.foldl (fun s (l, i) =>
    (s.setLink l { s.link l with marked := (s.link l).marked ||| BitVec.ofNat 32 (2 ^ i.toNat) }).repairSlices l) s

/-- Physical engines that fail their test: a spare takes the place of the first that carries a logical engine (R326,
R553). -/
def State.testEngines (s : State) (which : Nat → Bool) (f : BistFinds) : State :=
  (f.engines.filter (fun e => which e.1.toNat)).foldl (fun s (nn, p) =>
    let n := nn.toNat
    let x := s.frond n
    if 5 ≤ p.toNat then s
    else if x.spare = p then s.setFrond n { x with spareOk := false }
    else
      let e := ([0, 1, 2, 3].find? (fun e => nbits x.map.toNat (3 * e + 2) (3 * e) == p.toNat)).getD 0
      let x := { x with failing := x.failing ||| BitVec.ofNat 5 (2 ^ p.toNat) }
      if x.spareWorks then
        (s.setFrond n { x with spare := 7
                               map := BitVec.ofNat 12 (putBits x.map.toNat (3 * e + 2) (3 * e) x.spare.toNat) }).recordRepair
          (mapEntry 5 n 0 p.toNat)
      else s.setFrond n x) s

/-- The last reset was a power-on or supply reset (SYS.RSTCAUSE). -/
def State.coldReset (s : State) : Bool := s.boot.cause == 1 || s.boot.cause == 16

/-- The boot set of domains is ON (R520, R526). -/
def State.bootSetOn (s : State) : Bool := [1, 2, 3, 6, 7, 9, 12, 13].all s.domOn

/-- BIST: the maps are applied and the structures of the boot set tested and repaired (R551 steps 1, 2, 4 to 7). -/
def runBist (f : BistFinds) (s : State) : State :=
  if s.rpr.done || s.boot.bist || !s.bootSetOn then s
  else
    let s := { s with boot := { s.boot with bist := true } }
    let s := s.applyFuses.testMemories (fun m => m == 0x22 || m == 0x23 || m == 0x24) f
    let s := { s with shared := [], ncpB := { s.ncpB with code := [], data := [] } }
    let s := s.applyMap
    let s := s.testMemories (fun m => decide (m < 18) || m == 0x1F || (decide (0x26 ≤ m) && decide (m ≤ 0x29)) ||
      (m == 0x25 && s.coldReset)) f
    let s := { s with image := [] }
    ((s.placeBanks f.banks).testSlices f).wearSweep

/-- BIST_DONE (R551 step 8). -/
def bistDone (s : State) : State :=
  if s.boot.bist ∧ !s.rpr.done then
    ({ s with rpr := { s.rpr with done := true } }).eventP 775 0x0630 s.rpr.wear.toNat
  else s

/-- DOMAIN_TEST_DONE: the test at the first switch-on of PD8, PD10 or PD11 ends (R552). -/
def domainTested (d : BitVec 4) (f : BistFinds) (s : State) : State :=
  let n := d.toNat
  if testedDomain n ∧ s.domOn n ∧ !(s.dom n).tested then
    let s := s.setDom n { s.dom n with tested := true }
    let s := if n = 8 then
        let s := s.testMemories (fun m => m == 0x20 || m == 0x21) f
        { s with ncpA := { s.ncpA with code := [], data := [] } }
      else s.testEngines (fun nn => decide (8 * (n - 10) ≤ nn) && decide (nn < 8 * (n - 10) + 8)) f
    s.wearSweep
  else s

/-! ### The row table (R559 to R563) -/

/-- Ticks of the window of the row table: 60 s × 2^RETWIN (R559). -/
def State.rowWindow (s : State) : Nat := 37500000000 * 2 ^ s.rf 0x230000 11 8

/-- A row is marked for retirement. -/
def State.markRow (s : State) (mid row : Nat) : State :=
  if s.rpr.marks.any (fun m => m.mid == mid && m.row == row) then s
  else { s with rpr := { s.rpr with marks := s.rpr.marks ++ [{ mid := mid, row := row }] } }

/-- Entry e of the row table. -/
def State.rowEntry (s : State) (e : Nat) : Option RowEntry := tabGet none s.rpr.rows e

/-- The table place for a row: its own entry, a free one, or the one whose window ended longest ago (R559). -/
def State.rowPlace (s : State) (mid row : Nat) : Option Nat :=
  let w := s.rowWindow
  let own (e : Nat) : Bool := match s.rowEntry e with
    | some x => x.mid == mid && x.row == row
    | none => false
  let ended (e : Nat) : Bool := match s.rowEntry e with
    | some x => decide (x.since + w ≤ s.now)
    | none => false
  let since (e : Nat) : Nat := match s.rowEntry e with
    | some x => x.since
    | none => 0
  match (List.range 64).find? own with
  | some e => some e
  | none =>
    match (List.range 64).find? (fun e => (s.rowEntry e).isNone) with
    | some e => some e
    | none => ((List.range 64).filter ended).foldl (fun a e =>
        match a with
        | none => some e
        | some b => if since e < since b then some e else a) none

/-- A correction counts against its row (R558, R559). -/
def State.rowCorrected (s : State) (mid row : Nat) : State :=
  match s.rowPlace mid row with
  | none => s.bump 0x230050
  | some e =>
    let x : RowEntry := match s.rowEntry e with
      | some x => if x.mid = mid ∧ x.row = row ∧ s.now < x.since + s.rowWindow then { x with count := x.count + 1 }
          else { mid := mid, row := row, count := 1, since := s.now }
      | none => { mid := mid, row := row, count := 1, since := s.now }
    let s := { s with rpr := { s.rpr with rows := tabSet none s.rpr.rows e (some x) } }
    if s.rf 0x230000 15 12 ≤ x.count then s.markRow mid row else s

/-- What error correction finds in a row counts against it (R558 to R560). -/
def State.rowResult (s : State) (mid row : Nat) (r : EccResult) : State :=
  match r with
  | .clean => s
  | .corrected => s.rowCorrected mid row
  | .uncorrectable => s.markRow mid row

/-- SCRUB_READ: the background pass reads a row; `last` ends the pass (R558, R560). -/
def scrubRead (mid : BitVec 7) (row : BitVec 12) (r : EccResult) (last : Bool) (s : State) : State :=
  let m := mid.toNat
  let n := row.toNat
  if memRows m ≤ n then s
  else
    let s := { s with rpr := { s.rpr with scrubbing := !last } }
    let s := match r with
      | .clean => s
      | .corrected => s.bump 0x230044
      | .uncorrectable => (s.bump 0x230048).fault 775 0xEE 1 m
    s.rowResult m n r

/-- The domain that holds a memory. -/
def memDomain (mid : Nat) : Nat :=
  if mid < 0x20 then 6
  else match mid with
    | 0x20 => 8 | 0x21 => 8 | 0x22 => 9 | 0x23 => 9 | 0x24 => 6 | 0x26 => 7 | 0x27 => 7 | 0x28 => 6 | 0x29 => 6 | _ => 0

/-- Retirement of a row may take place now (R561, R563). -/
def State.mayRetire (s : State) (mid : Nat) : Bool :=
  s.domOn (memDomain mid) &&
  match mid with
  | 0x26 => s.act.active && s.act.sh != .sorting
  | 0x27 => !s.act.active && s.act.sh != .sorting
  | 0x28 => s.brg.active && s.brg.sh != .sorting
  | 0x29 => !s.brg.active && s.brg.sh != .sorting
  | _ => true

/-- The table entry and the mark of a row go. -/
def State.unmarkRow (s : State) (mid row : Nat) : State :=
  { s with rpr := { s.rpr with
      marks := s.rpr.marks.filter (fun m => !(m.mid == mid && m.row == row))
      rows := s.rpr.rows.filter (fun e => match e.2 with
        | some x => !(x.mid == mid && x.row == row)
        | none => false) } }

/-- A retirement of AUTO = 1, or one that RETIRE has reached (R561). -/
def State.retireDue (s : State) (mid row : Nat) : Bool :=
  s.rpr.marks.any (fun m => m.mid == mid && m.row == row && (m.go || s.rb 0x230000 0))

/-- ROW_RETIREMENT: a marked row is copied to the lowest free spare (R561, R563). -/
def rowRetire (mid : BitVec 7) (row : BitVec 12) (s : State) : State :=
  let m := mid.toNat
  let n := row.toNat
  if s.retireDue m n && s.mayRetire m && decide (m < 0x60) then
    let x := s.mem m
    let s := s.unmarkRow m n
    match lowestFree (memSpares m) x.rows with
    | none => s.fault 774 0xE5 2 m
    | some k =>
      let s := ((s.setMem m { x with rows := x.rows + 2 ^ k }).bump 0x23004C).fault 774 0xE4 0 m
      (s.recordRepair (mapEntry 1 m k n)).wearSweep
  else s

/-! ### The in-service map and the sectors (R557, R562) -/

/-- The map write starts as a PEAT command once PEAT is free (R557). -/
def State.startMapWrite (s : State) : State :=
  if s.peat.job.isSome then { s with rpr := { s.rpr with mapPend := true } }
  else ({ s with rpr := { s.rpr with mapPend := false } }).peatTake 15

/-- IN_SERVICE_MAP_WRITE: a waiting map write starts (R557). -/
def mapWriteStart (s : State) : State := if s.rpr.mapPend && !s.peat.job.isSome then s.startMapWrite else s

/-- The pseudo memory id under which the sectors of die d stand in the row table. -/
def sectorMid (d : Nat) : Nat := 0x60 + d

/-- SECTOR_RETIREMENT: a marked sector is copied as a PEAT command (R562). -/
def sectorRetire (die : Die) (sec : BitVec 5) (s : State) : State :=
  let d := dieIndex die
  if s.retireDue (sectorMid d) sec.toNat && !s.peat.job.isSome && s.dieUp d then
    let s := s.peatTake 14
    match s.peat.job with
    | some j => { s with peat := { s.peat with job := some { j with slot := d == 1, len := sec.toNat } } }
    | none => s
  else s

/-- A sector retirement ends: its spare is used, or none is left (R562, R563). -/
def State.endSector (s : State) (d sec : Nat) (failed : Bool) : Nat × State :=
  if !s.dieUp d then (7, s)
  else if failed then (8, s)
  else
    let used := if d = 0 then s.rpr.secA else s.rpr.secB
    let s := s.unmarkRow (sectorMid d) sec
    match lowestFree 2 used with
    | none => (8, s.fault 774 0xE5 2 (sectorMid d))
    | some k =>
      let r := s.rpr
      let s := { s with rpr := if d = 0 then { r with secA := used + 2 ^ k } else { r with secB := used + 2 ^ k } }
      let s := (s.bump 0x23004C).fault 774 0xE4 0 (sectorMid d)
      (0, (s.recordRepair (mapEntry 6 d k sec)).wearSweep)

/-- RETIRE: the rows that wait with AUTO = 0 may go (R561). -/
def rprRetire (s : State) : State :=
  { s with rpr := { s.rpr with marks := s.rpr.marks.map (fun m => { m with go := true }) } }

/-- SCRUBNOW: a full pass starts at once (R558). -/
def rprScrubNow (s : State) : State := { s with rpr := { s.rpr with scrubbing := true } }

/-- A write to RPR.CMD: 1 RETIRE, 2 MAPWRITE, 3 SCRUBNOW. -/
def rprCmd (src : Src) (op : Nat) (s : State) : State :=
  match op with
  | 1 => rprRetire s
  | 2 => s.startMapWrite
  | 3 => rprScrubNow s
  | _ => s.ignored src 0x230004 1

/-- TMR_CORRECTION: a disagreement among the copies of a TMR field is corrected and counted (R13). -/
def tmrFix (s : State) : State := s.bump 0x230040

/-! ### What the registers show -/

/-- The live RPR registers (21, "RPR registers"). -/
def State.rprView (s : State) (off : Nat) : Option Nat :=
  let r := s.rpr
  if off = 0x230008 then
    some (bitAt r.done 0 + bitAt (!r.marks.isEmpty && !s.rb 0x230000 0) 1 + bitAt r.mapPend 2 + bitAt r.mapFull 3 +
      bitAt r.scrubbing 4 + r.mapCopy.toNat * 32 + bitAt r.pbFail 7 + r.map.length * 65536)
  else if off = 0x23000C then some (r.wear.toNat + r.pool.toNat * 256)
  else if off = 0x230010 then some (bitsUsed 2 r.secA + min r.eraseA 0xFFFF * 65536)
  else if off = 0x230014 then some (bitsUsed 2 r.secB + min r.eraseB 0xFFFF * 65536)
  else if 0x230100 ≤ off ∧ off < 0x2301A8 then
    let m := (off - 0x230100) / 4
    let x := s.mem m
    some (if memRows m = 0 then 0 else
      bitAt x.tested 0 + bitAt x.failed 1 + bitsUsed 2 x.cols * 2 ^ 12 + bitsUsed 16 x.rows * 2 ^ 16 + memSpares m * 2 ^ 24)
  else if 0x230400 ≤ off ∧ off < 0x230500 then
    some (match s.rowEntry ((off - 0x230400) / 4) with
      | none => 0
      | some x => 2 ^ 31 + x.mid * 2 ^ 24 + min x.count 15 * 2 ^ 20 +
          bitAt (r.marks.any (fun m => m.mid == x.mid && m.row == x.row)) 19 + x.row)
  else if 0x231000 ≤ off ∧ off < 0x231400 then some (Config.fuseMap ((off - 0x231000) / 4)).toNat
  else if 0x232000 ≤ off ∧ off < 0x233000 then some (r.map.getD ((off - 0x232000) / 4) 0).toNat
  else none

end Sys2Proof.Machine
end

