-- ==== Sys2Proof/Machine/PairOps.lean ====
section
/-! DEFINITION. The lichen pair (19): who leads, checkpoints, the take-over, the handover, health reports, and what the
pair registers show. -/

namespace Sys2Proof.Machine

/-- The pair logic runs (R489). -/
def State.pairRuns (s : State) : Bool := s.boot.valid && !s.ident.straps.testen && s.pair.entered.isSome

/-- The twin link is UP. -/
def State.twinUp (s : State) : Bool := s.linkIsUp .t

/-- Checkpoints and pair messages can pass (R489). -/
def State.pairTalks (s : State) : Bool := s.pairRuns && s.running 2 && s.twinUp

/-- PEERLEAD (R494). -/
def State.peerLead (s : State) : Bool := s.twinUp && s.linkT.peerLead

/-- READY (R513). -/
def State.pairReady (s : State) : Bool :=
  s.boot.valid && !s.flt.safe && !s.fltDegraded && s.dieUp 0 && s.dieUp 1 && s.pair.selfTest

/-- A field of the peer's last report (R513). -/
def State.peerWord (s : State) (w hi lo : Nat) : Nat := nbits (tabGet (0 : Word) s.pair.peerHealth w).toNat hi lo

/-- The peer as its last report has it: RESTING, READY and INSYNC (R510). -/
def State.peerFit (s : State) : Bool :=
  s.peerWord 0 15 13 == 1 && s.peerWord 0 19 19 == 1 && s.peerWord 0 25 24 == 2

/-! ### Roles (R490 to R500) -/

/-- Drivers and holds go with the entry to rest hold (R492). -/
def State.restEntered (s : State) : State :=
  let s := (s.releaseDrivers 0).releaseDrivers 1
  (List.range 16).foldl (fun s nn => if (s.chan nn).hold then s.setChan nn { s.chan nn with hold := false } else s) s

/-- Entry to RESTING (R491, R492). -/
def State.toResting (s : State) : State := ((s.roleTo .resting false true).stopLeadSet).restEntered

/-- Leadership under R495 or R496: the lines stand at SAFE until their fronds run (R497). -/
def State.toLeading (s : State) : State :=
  let s := (s.safeLines (fun _ => true)).roleTo .leading true false
  { s with pair := { s.pair with baseDue := true, sync := .none } }

/-- Entry to PROBING (R495, R496). -/
def State.toProbing (s : State) : State :=
  let s := ((s.roleTo .probing false true).stopLeadSet).restEntered
  { s with pair := { s.pair with probeAt := s.now } }

/-- The ring has answered a probe (R496). -/
def State.ringAnswers (s : State) : Bool := s.linkIsUp .w || s.linkIsUp .e

/-- Rules 1 and 2 of R495 for a slot 0 hub; none while neither holds. -/
def State.decideSlot0 (s : State) : Option State :=
  let done (s : State) : State := { s with pair := { s.pair with waiting := false } }
  if !s.flt.peerAlive then some (done s).toLeading
  else if s.twinUp then some (if s.peerLead then (done s).toResting else (done s).toLeading)
  else none

/-- PAIR_LOGIC_ENTRY: a hub with a valid image decides its role (R489, R495, R498). -/
def pairEntry (s : State) : State :=
  if !s.boot.valid || s.ident.straps.testen || s.pair.entered.isSome then s
  else
    let s := { s with pair := { s.pair with entered := some s.now, lowSince := s.now } }
    if s.slot = 0 then (s.decideSlot0).getD { s with pair := { s.pair with waiting := true } }
    else s.toResting

/-- TWIN_WAIT_TIMEOUT: 100 ms without a twin link (R495 rule 4). -/
def pairTwinTimeout (s : State) : State :=
  match s.pair.waiting, s.pair.entered with
  | true, some t =>
    let s := s.advanceTo (t + 100 * ticksPerMs)
    match s.decideSlot0 with
    | some s => s
    | none =>
      let s := { s with pair := { s.pair with waiting := false } }
      if s.rb 0x041000 6 then s.toProbing else s.toResting
  | _, _ => s

/-- PROBE_RESULT_TIMEOUT (R496). -/
def pairProbeResult (s : State) : State :=
  if s.pair.role ≠ .probing then s
  else if s.ringAnswers then s.toLeading
  else
    let s := s.advanceTo (s.pair.probeAt + 100 * ticksPerMs)
    (s.toResting.bump 0x041094).fault 771 0xE9 1 0

/-- PROBE_REPEAT: every 10 s while the peer is alive and the twin link is not UP (R496). -/
def pairProbeAgain (s : State) : State :=
  if s.pair.role = .resting ∧ s.slot = 0 ∧ s.pair.probeAt ≠ 0 ∧ s.flt.peerAlive ∧ !s.twinUp then
    (s.advanceTo (s.pair.probeAt + 10000 * ticksPerMs)).toProbing
  else s

/-- FALLEN_SAFE_END: 2 ms after FALLEN the dies enter rest hold (R500). -/
def pairFallenEnd (s : State) : State :=
  if s.pair.role = .fallen ∧ !s.pair.rest then
    let s := s.advanceTo (s.pair.fallenAt + 2 * ticksPerMs)
    (s.redrive (fun s => { s with pair := { s.pair with rest := true } })).restEntered
  else s

/-! ### What a checkpoint carries (R503) -/

/-- The function whose registers lie at an offset: the row's own, or that of its block (R27). -/
def registerOwner (off : Nat) : Option Nat :=
  match regHit off with
  | none => none
  | some h =>
    match h.owner? with
    | some f => some f
    | none =>
      match off / 0x10000 with
      | 0x0A => some 7
      | 0x0B => some 8
      | 0x0C => some (32 + off / 0x2000 % 8)
      | 0x09 => some (64 + off % 0x1000 / 0x40)
      | k => if 0x10 ≤ k ∧ k < 0x20 then some (16 + (k - 0x10)) else none

/-- The RW and RWS control registers of the lead set, with their applied values (R503). -/
def State.leadRegs (s : State) : List CkptRecord :=
  ((s.regs.map Prod.fst ++ s.applied.map Prod.fst).eraseDups.filter (fun off =>
      match regHit off, registerOwner off with
      | some h, some f => (h.row.acc == .rw || h.row.acc == .rws) && s.leadSet f
      | _, _ => false)).map (fun off =>
    match regHit off with
    | some h => .register off (if h.row.acc == .rws then BitVec.ofNat 32 (s.ap off) else s.rg off)
    | none => .register off 0)

/-- A 16-bit picture of the lines of a frond. -/
def State.lineBits (s : State) (nn : Nat) (f : Line → Bool) : BitVec 16 :=
  BitVec.ofNat 16 ((List.range 16).foldl (fun n i => n + bitAt (f (s.line (16 * nn + i))) i) 0)

/-- The records sent in every increment (R503). -/
def State.ckptFull (s : State) : List CkptRecord :=
  [.time s.ft s.time.base] ++
  ((List.range 16).filter (fun nn => s.running (240 + nn))).map (fun nn =>
    let e := s.encoder nn
    let a := ((List.range 64).find? (fun a => s.publishing a && s.rf (axBase a) 15 12 == nn)).getD 64
    .encoder nn e.count (BitVec.ofNat 64 s.ns) (s.axis a).v e.armz (s.rg (frdBase nn + 0x224))) ++
  s.act.pulses.map (fun p =>
    let r := p.entries.headD { group := 0, rec_ := false, slot := 0, tag := 0, axis := 0 }
    let at_ := (p.off.orElse (fun _ => s.offInstant p)).getD s.now
    .pulse p.line r.axis r.tag (s.ft + BitVec.ofNat 80 (ratePart s.time.rate (at_ - s.now)))) ++
  (List.range 16).map (fun nn =>
    .frond nn (BitVec.ofNat 16 (s.rv (frdBase nn + 0x80))) (s.lineBits nn (·.cmd)) (s.lineBits nn (·.latched))
      (((16 + nn) :: childrenOf (16 + nn)).map (fun id => (id, (s.func id).st.code))))

/-- The entry of a slot as a checkpoint carries it: a committed one with its VALID bit back (R503, R507). -/
def State.actionRecord (s : State) (i : Nat) : CkptRecord :=
  let w := bankWord s.act.bank i 0
  .action i (leBytes (w ||| 0x80000000) 4 ++ memReadN s.act.bank (32 * i + 4) 28) (s.actInfo i)

/-- The records sent on change (R503). -/
def State.ckptOnChange (s : State) : List CkptRecord :=
  (validSlots s.act.bank).map s.actionRecord ++
  ((s.act.cmds.filterMap (·.entry)).filter (fun r => s.actInfo r.slot == 3)).map (fun r => s.actionRecord r.slot) ++
  [.bank s.act.active (match s.act.req with | .none => 0 | .swap => 1 | .armswap => 2) s.act.swapAx s.act.swapPos] ++
  (validSlots s.brg.bank).map (fun i => .route i (memReadN s.brg.bank (32 * i) 32)) ++
  (List.range 16).map (fun nn => .channel nn ((s.chanGates nn (s.chan nn)).1 == some true) (s.chan nn).retry) ++
  s.leadRegs ++
  (List.range (s.rf 0x04100C 6 0 * 64)).map (fun k =>
    let a := s.rf 0x04100C 15 8 * 0x2000 + 64 * k
    .memory a (memReadN s.shared a 64))

/-- Two records describe the same thing. -/
def ckptSame : CkptRecord → CkptRecord → Bool
  | .time _ _, .time _ _ => true
  | .encoder a _ _ _ _ _, .encoder b _ _ _ _ _ => a == b
  | .action a _ _, .action b _ _ => a == b
  | .bank _ _ _ _, .bank _ _ _ _ => true
  | .pulse a _ _ _, .pulse b _ _ _ => a == b
  | .route a _, .route b _ => a == b
  | .frond a _ _ _ _, .frond b _ _ _ _ => a == b
  | .channel a _ _, .channel b _ _ => a == b
  | .register a _, .register b _ => a == b
  | .memory a _, .memory b _ => a == b
  | _, _ => false

/-- A record that is sent whole in every increment replaces what an earlier one said. -/
def ckptWhole : CkptRecord → Bool
  | .time _ _ | .encoder _ _ _ _ _ _ | .pulse _ _ _ _ | .frond _ _ _ _ _ => true
  | _ => false

/-- What says that something sent before is gone: an empty slot, a register back at its factory value. -/
def ckptGone : CkptRecord → Option CkptRecord
  | .action i _ _ => some (.action i [] 0)
  | .route i _ => some (.route i [])
  | .register off _ => some (.register off (factoryAt off))
  | _ => none

/-- The changes of an increment against what was sent before (R502). -/
def ckptChanges (sent cur : List CkptRecord) : List CkptRecord :=
  cur.filter (fun r => !sent.contains r) ++
    (sent.filter (fun r => !cur.any (ckptSame r))).filterMap ckptGone

/-- An increment applied to a copy, whole (R505). -/
def ckptMerge (copy recs : List CkptRecord) : List CkptRecord :=
  let kept := copy.filter (fun r => !ckptWhole r && !recs.any (ckptSame r))
  let live (r : CkptRecord) : Bool := match r with
    | .action _ [] _ => false
    | .route _ [] => false
    | _ => true
  kept ++ recs.filter live

/-- CHECKPOINT_INCREMENT_SEND: an increment, or a base when one is due (R502). -/
def ckptSend (s : State) : State :=
  if !s.pairTalks || !(s.pair.role == .leading || (s.pair.role == .giving && !s.pair.froze)) then s
  else
    let s := s.advanceTo (s.pair.ckAt + s.ckPeriod)
    let now := s.ckptOnChange
    let base := s.pair.baseDue
    let recs := s.ckptFull ++ (if base then now else ckptChanges s.pair.sent now)
    let seq := s.pair.ckSeq + 1
    let s := { s with pair := { s.pair with ckSeq := seq, ckAt := s.now, sent := now, baseDue := false } }
    s.emit (.checkpoint seq base recs)

/-- A pair message on the twin port (R514). -/
def State.tell (s : State) (m : HandoverMsg) : State := if s.pairTalks then s.emit (.handover m) else s

/-- An increment is not applied: GAP, counted, reported, and a base requested (R505). -/
def State.ckptGap (s : State) (detail : Nat) : State :=
  let s := { s with pair := { s.pair with sync := .gap, staged := [] } }
  ((s.bump 0x04108C).fault 772 0xEB 0 detail).tell .baseRequest

/-- The generation of the leader's report differs from the applied image's (R505). -/
def State.ckptForeign (s : State) : Bool :=
  s.peerWord 0 16 16 == 1 && s.peerWord 1 31 0 != s.peat.appGen.toNat

/-- A time record drives the time unit of a resting hub that is INSYNC (R506). -/
def State.ckptTime (s : State) (recs : List CkptRecord) : State :=
  if s.pair.role ≠ .resting ∨ !s.running 6 ∨ s.timeRole = 3 ∨ s.timeForm then s
  else
    recs.foldl (fun s r => match r with
      | .time ft _ =>
        let s := { s with time := { s.time with lastFrame := s.now } }
        s.applyError (tdiff ft s.ft + Config.twinDelay s.now) 0 s.ckPeriod
      | _ => s) s

/-- The lines and gates of a receiver leave rest hold at the frozen levels (R511 step 3, R545). -/
def State.takeFrozen (s : State) : State :=
  let s := s.pair.copy.foldl (fun s r => match r with
    | .frond nn _ levels latched _ =>
      s.eachLine nn (fun s l =>
        let i := l % 16
        let x := s.line l
        s.setLine l { x with lmode := BitVec.ofNat 9 (s.rv (frdBase nn + 4 * i)), cmd := nbit levels.toNat i
                             latched := nbit latched.toNat i, deferred := none, safed := false })
    | .channel nn on retry => s.setChan nn { s.chan nn with hold := on && !s.pccut nn, retry := retry }
    | _ => s) s
  s.redrive (fun s => { s with pair := { s.pair with rest := false, frozen := true } })

/-- A checkpoint that is whole and in sequence (R505, R511 step 3). -/
def State.ckptApply (s : State) (seq : Word) (base : Bool) : State :=
  let recs := s.pair.staged
  let copy := if base then ckptMerge [] recs else ckptMerge s.pair.copy recs
  let s := { s with pair := { s.pair with copy := copy, staged := [], sync := .insync, ckSeq := seq, ckAt := s.now } }
  let s := if base then s.bump 0x041090 else s
  let s := s.ckptTime recs
  match s.pair.role, s.pair.t0 with
  | .receiving, some t =>
    if t ≤ s.now ∧ s.pair.finalIn = none then
      ({ s with pair := { s.pair with finalIn := some s.now } }).takeFrozen
    else s
  | _, _ => s

/-- The pair frame that brought a part is taken from the inbox. -/
def State.dropPairFrame (s : State) (kind : Nat) : State :=
  match s.fwd.inbox.find? (fun d => d.sink == .pairMsg && (d.payload.headD 0).toNat == kind) with
  | some d => { s with fwd := { s.fwd with inbox := s.fwd.inbox.erase d } }
  | none => s

/-- CHECKPOINT_PART_RECEIVED: a part is staged; `fin` is the part with the end record, and `ok` says that it checks
(R505). -/
def ckptPart (seq : Word) (base : Bool) (recs : List CkptRecord) (fin ok : Bool) (s : State) : State :=
  let s := s.dropPairFrame 2
  if !s.pairTalks || !(s.pair.role == .resting || s.pair.role == .receiving) then s
  else if s.ckptForeign then
    if s.pair.sync = .gap then s else s.ckptGap 1
  else
    let s := if base ∧ s.pair.sync ≠ .loading then { s with pair := { s.pair with sync := .loading, staged := [] } } else s
    let s := { s with pair := { s.pair with staged := s.pair.staged ++ recs } }
    if !fin then s
    else if base then (if ok then s.ckptApply seq true else s.ckptGap 0)
    else if ok && seq == s.pair.ckSeq + 1 && (s.pair.sync == .insync || s.pair.sync == .gap) then s.ckptApply seq false
    else s.ckptGap 0

/-- CHECKPOINT_SILENCE: no increment for 3 periods (R505). -/
def ckptSilence (s : State) : State :=
  if (s.pair.role = .resting ∨ s.pair.role = .receiving) ∧ s.pair.sync = .insync then
    let s := s.advanceTo (s.pair.ckAt + 3 * s.ckPeriod)
    { s with pair := { s.pair with sync := .gap } }
  else s

/-! ### The take-over (R507) -/

/-- A bank with one entry written. -/
def putEntry (m : List Host.Cell) (i : Nat) (bytes : List Byte) : List Host.Cell := memWriteN m (32 * i) bytes

/-- One record of the copy written into the hub (R507 step 2). -/
def State.restoreRecord (s : State) : CkptRecord → State
  | .register off v =>
    let s := s.setReg off v
    match regHit off with
    | some h => if h.row.acc == .rws then s.setApplied off v else s
    | none => s
  | .action i bytes info =>
    if info = 3 then s else { s with act := s.act.setBank (putEntry s.act.bank i bytes) }
  | .route i bytes =>
    let m := putEntry s.brg.bank i bytes
    { s with brg := if s.brg.active then { s.brg with bank1 := m } else { s.brg with bank0 := m } }
  | .encoder nn count ns v armz ez =>
    let d := tdiff s.ft (BitVec.ofNat 80 (ns.toNat * 65536))
    let moved := roundDiv (({ v := v } : Axis).increment d) 65536
    let e := s.encoder nn
    (s.setEncoder nn { e with count := count + BitVec.ofInt 32 moved, zset := true, keep := true, armz := armz }).setReg
      (frdBase nn + 0x224) ez
  | .frond nn lout _ latched _ =>
    let s := s.setNat (frdBase nn + 0x80) lout.toNat
    s.eachLine nn (fun s l => s.setLine l { s.line l with latched := nbit latched.toNat (l % 16) })
  | .channel nn on retry => s.setChan nn { s.chan nn with hold := on && !s.pccut nn, retry := retry }
  | .memory a bytes => { s with shared := memWriteN s.shared a bytes }
  | .time _ _ | .bank _ _ _ _ | .pulse _ _ _ _ => s

/-- The checkpoint copy written into the lead-set registers and tables: slots keep their numbers, committed entries take
the lowest free slots, the shadow is left empty and OPEN (R507 step 2). -/
def State.restoreCopy (s : State) : State :=
  let active := s.pair.copy.foldl (fun a r => match r with
    | .bank b _ _ _ => b
    | _ => a) s.act.active
  let s := { s with act := { s.act with bank0 := [], bank1 := [], active := active, sh := .opened, req := .none
                                        waitSort := false, appq := [], cmds := [], pulses := [] }
                    brg := { s.brg with bank0 := if s.brg.active then s.brg.bank0 else []
                                        bank1 := if s.brg.active then [] else s.brg.bank1 } }
  let s := s.pair.copy.foldl State.restoreRecord s
  s.pair.copy.foldl (fun s r => match r with
    | .action _ bytes info =>
      if info = 3 then
        match s.freeActSlot with
        | some i => { s with act := s.act.setBank (putEntry s.act.bank i bytes) }
        | none => s
      else s
    | _ => s) s

/-- The start list: the ids up to the first entry that is not VALID (R79). -/
def State.startList (s : State) : List Nat :=
  ((List.range 256).takeWhile (fun i => s.rb (0x010C00 + 4 * i) 8)).map (fun i => s.rf (0x010C00 + 4 * i) 7 0)

/-- START for the lead-set functions in the order of the start list; a function that holds preserved state is started
with RESTART, since START would be rejected (R39, R507 step 3). -/
def State.startLeadSet (s : State) : State :=
  (s.startList.filter s.leadSet).foldl (fun s id =>
    s.funcCommand id (if (s.func id).st = .stopped ∧ (s.func id).presv then 3 else 1)) s

/-- A take-over: TAKING, the copy restored unless it is cold, the lead set started, LEADING (R507). -/
def State.takeOver (s : State) (noCkpt : Bool) : State :=
  let cold := noCkpt || s.pair.sync != .insync
  let seq := s.pair.ckSeq.toNat
  let age := if s.pair.ckAt = 0 then 0 else min ((s.now - s.pair.ckAt) / ticksPerUs) 0xFFFFFFFF
  let s := (s.safeLines (fun _ => true)).roleTo .taking true false
  let s := { s with pair := { s.pair with cold := cold, t0 := none, frozen := false, fromFallen := false } }
  let s := if cold then s else s.restoreCopy
  let s := (s.startLeadSet).roleTo .leading true false
  let s := { s with pair := { s.pair with sync := .none, staged := [], sent := [], baseDue := true } }
  ((s.eventP 771 0x0611 (seq + age * 2 ^ 32)).bump 0x041080).fault 771 0xE8 1 (bitAt cold 0)

/-- BOOTWAIT_EXPIRY (R498, R500). -/
def pairBootwait (s : State) : State :=
  let wait := s.af 0x041008 15 0 * ticksPerMs
  if s.pair.role ≠ .resting ∨ s.flt.peerAlive then s
  else if s.pair.fromFallen then
    if s.rb 0x041000 5 then (s.advanceTo (s.pair.lowSince + wait)).takeOver true else s
  else match s.pair.entered with
    | some t => if s.slot = 1 ∧ !s.pair.seenAlive then (s.advanceTo (t + wait)).takeOver true else s
    | none => s

/-! ### Handover (R510 to R512) -/

/-- A handover runs. -/
def State.handing (s : State) : Bool := s.pair.role == .giving || s.pair.role == .receiving

/-- A request that starts no handover (R510). -/
def State.handRefused (s : State) : State := (s.bump 0x041088).fault 771 0xEC 0 0

/-- A handover aborted before its switch: the receiver rests again, the giver ends the freeze and resumes (R512). -/
def State.handAbort (s : State) (cause : Nat) : State :=
  let close (s : State) : State :=
    { s with pair := { s.pair with t0 := none, froze := false, finalIn := none, switched := false } }
  let report (s : State) : State := (s.bump 0x041088).fault 771 0xEC 0 cause
  match s.pair.role with
  | .receiving =>
    if s.pair.switched then s
    else
      let s := s.redrive (fun s => { s with pair := { s.pair with frozen := false } })
      report (close s).toResting
  | .giving =>
    let froze := s.pair.froze
    let s := s.redrive (fun s => { s with pair := { s.pair with frozen := false } })
    let s := (close s).roleTo .leading true false
    let s := if froze then
        (List.range 256).foldl (fun s id =>
          let f := s.func id
          if s.leadSet id && f.st == .stopped && f.presv && !f.dirty then s.funcCommand id 4 else s) s
      else s
    report s
  | _ => s

/-- The conditions of an automatic hand-back (R510). -/
def State.holdoffRuns (s : State) : Bool :=
  s.pair.role == .resting && s.slot == 0 && s.pairReady && s.pair.sync == .insync && s.rb 0x041000 4 && !s.pair.held

/-- What the hub notes of the twin link: a base falls due when it comes up, and when the peer was last seen to lead. -/
def State.twinNoted (s : State) : State :=
  let up := s.twinUp
  { s with pair := { s.pair with
      baseDue := s.pair.baseDue || (up && !s.pair.twinWas && s.pair.role == .leading), twinWas := up
      leadSeen := if up ∧ s.linkT.peerLead ∧ s.linkT.lastSup = s.now then some s.now else s.pair.leadSeen } }

/-- The hand-back hold-off starts, goes on or ends (R510). -/
def State.holdNoted (s : State) : State :=
  let on := s.holdoffRuns
  { s with pair := { s.pair with holdSince := if on then s.pair.holdSince.orElse (fun _ => some s.now) else none } }

/-- What the pair logic sees at once: the wait of R495, a probe answered, a twin link that came UP or left, READY that
fell, and the hold-off (R496, R502, R510, R512). -/
def pairWatch (s : State) : State :=
  if !s.pairRuns then s
  else
    let s := s.twinNoted
    let s := if s.pair.waiting then (s.decideSlot0).getD s else s
    let s := if s.pair.role = .probing ∧ s.ringAnswers then s.toLeading else s
    let s := if s.handing ∧ !s.pair.switched then
        if !s.twinUp then s.handAbort 2
        else if s.pair.role = .receiving ∧ !s.pairReady then (s.tell (.abort 3)).handAbort 3
        else s
      else s
    s.holdNoted

/-- PEER_ALIVE_LOST (R483, R495, R499, R501, R512). -/
def peerLost (s : State) : State :=
  if !s.flt.peerAlive then s
  else
    let s := { s with flt := { s.flt with peerAlive := false }, pair := { s.pair with lowSince := s.now } }
    let tenMs := 10 * ticksPerMs
    let quiet : Bool := decide (s.linkT.lastSup ≠ 0) && decide (s.now < s.linkT.lastSup + tenMs) &&
      (match s.pair.leadSeen with
       | some t => decide (t + tenMs ≤ s.now)
       | none => true)
    if !s.pairRuns then s
    else match s.pair.role with
      | .resting =>
        if !s.rb 0x041000 5 then s
        else if quiet then s.fault 773 0xEA 1 1
        else s.takeOver false
      | .leading => s.fault 773 0xEA 1 0
      | .giving => s.handAbort 1
      | .receiving => if s.pair.switched then s else s.takeOver false
      | _ => pairWatch s

/-- PEER_ALIVE_PRESENT (R483, R494). -/
def peerPresent (s : State) : State :=
  pairWatch { s with flt := { s.flt with peerAlive := true }, pair := { s.pair with seenAlive := true, fromFallen := false } }

/-- A request to the hub that leads: granted for the next checkpoint boundary, or refused (R510, R511). -/
def State.handGrant (s : State) : State :=
  if s.pair.role = .leading ∧ s.pairTalks ∧ s.peerFit then
    let p := s.ckPeriod
    let t := if s.now < s.pair.ckAt + p then s.pair.ckAt + p - s.now else p
    let s := s.tell (.grant t)
    let s := s.roleTo .giving true false
    { s with pair := { s.pair with t0 := some (s.now + t), froze := false } }
  else (s.tell .refuse).handRefused

/-- This hub may receive (R510). -/
def State.mayReceive (s : State) : Bool :=
  s.pair.role == .resting && s.pairReady && s.pair.sync == .insync && s.pairTalks

/-- HANDOVER_MESSAGE_RECEIVED (R505, R510 to R512). -/
def handMessage (m : HandoverMsg) (s : State) : State :=
  let s := s.dropPairFrame 3
  if !s.pairRuns then s
  else match m with
    | .request => if s.handing then (s.tell .refuse).handRefused else s.handGrant
    | .offer => if s.mayReceive then s.tell .request else (s.tell .refuse).handRefused
    | .grant t =>
      if s.mayReceive then
        let s := s.roleTo .receiving false true
        { s with pair := { s.pair with t0 := some (s.now + t), finalIn := none, switched := false } }
      else (s.tell (.abort 3)).handRefused
    | .refuse => if s.pair.role = .giving then s.handAbort 3 else s
    | .abort c => if s.handing then s.handAbort c.toNat else s
    | .baseRequest => if s.pair.role = .leading then { s with pair := { s.pair with baseDue := true } } else s

/-- A pair command without effect (TWIN.CMDNOP). -/
def State.pairNop (s : State) : State := s.bump 0x041098

/-- HANDBACK (R510, R512). -/
def pairHandback (s : State) : State :=
  if s.handing ∨ s.slot ≠ 0 ∨ s.pair.role ≠ .resting then s.pairNop
  else if s.mayReceive then s.tell .request
  else s.handRefused

/-- HANDBACK_HOLDOFF_EXPIRY (R510). -/
def pairHoldoff (s : State) : State :=
  match s.pair.holdSince with
  | none => s
  | some t =>
    if s.holdoffRuns then
      let s := s.advanceTo (t + s.af 0x041004 15 0 * 1000 * ticksPerMs)
      let s := { s with pair := { s.pair with holdSince := some s.now } }
      if s.mayReceive then s.tell .request else s.handRefused
    else s

/-- YIELD (R510, R512). -/
def pairYield (s : State) : State :=
  if s.pair.role ≠ .leading then s.pairNop
  else if s.pairTalks ∧ s.peerFit then s.tell .offer
  else s.handRefused

/-- RESYNC (R502). -/
def pairResync (s : State) : State :=
  match s.pair.role with
  | .leading => { s with pair := { s.pair with baseDue := true } }
  | .resting => if s.pairTalks then s.tell .baseRequest else s.pairNop
  | _ => s.pairNop

/-- HOLD (R510). -/
def pairHold (s : State) : State :=
  if s.pair.held then s.pairNop else { s with pair := { s.pair with held := true, holdSince := none } }

/-- RELEASE (R510). -/
def pairRelease (s : State) : State :=
  if s.pair.held then pairWatch { s with pair := { s.pair with held := false } } else s.pairNop

/-- A write to TWIN.PCMD. -/
def pairCmd (src : Src) (op : Nat) (s : State) : State :=
  match op with
  | 1 => pairHandback s
  | 2 => pairYield s
  | 3 => pairResync s
  | 4 => pairHold s
  | 5 => pairRelease s
  | _ => s.ignored src 0x041010 1

/-- HANDOVER_FREEZE: at T0 the giver freezes, stops the lead set and sends the final increment (R511 step 2). -/
def handFreeze (s : State) : State :=
  match s.pair.role, s.pair.t0 with
  | .giving, some t =>
    if s.pair.froze then s
    else
      let s := s.advanceTo t
      let recs := s.ckptFull ++ ckptChanges s.pair.sent s.ckptOnChange
      let seq := s.pair.ckSeq + 1
      let s := { s with pair := { s.pair with froze := true, frozen := true } }
      let s := s.stopLeadSet
      let s := { s with pair := { s.pair with ckSeq := seq, ckAt := s.now } }
      s.emit (.checkpoint seq false recs)
  | _, _ => s

/-- HANDOVER_SWITCH: after 100 µs of overlap the receiver asserts LEAD; the giver negates it and rests (R511 steps 4
and 5). -/
def handSwitch (s : State) : State :=
  match s.pair.role with
  | .receiving =>
    match s.pair.finalIn with
    | some t =>
      if s.pair.switched then s
      else
        let s := s.advanceTo (t + 100 * ticksPerUs)
        let s := { s with pair := { s.pair with switched := true }, ident := { s.ident with lead := true } }
        s.emit (.lead true)
    | none => s
  | .giving =>
    if s.pair.froze then
      let s := { s with pair := { s.pair with t0 := none, froze := false, sync := .none } }
      ((s.toResting.bump 0x041084).eventP 771 0x0612 0)
    else s
  | _ => s

/-- The off edges of the pulses in flight, placed at their fabric times or at once (R511). -/
def State.placePulses (s : State) : State :=
  s.pair.copy.foldl (fun s r => match r with
    | .pulse l _ _ off =>
      let e := s.now + s.ticksUntil off
      let lead := s.leadTicks l false
      s.addCmd { line := l, on := false, place := max s.now (e - lead), edge := e, entry := none }
    | _ => s) s

/-- HANDOVER_DONE: the receiver starts the lead set, ends the freeze and leads (R511 step 6). -/
def handDone (s : State) : State :=
  if s.pair.role = .receiving ∧ s.pair.switched then
    let s := s.restoreCopy
    let s := s.redrive (fun s => { s with pair := { s.pair with frozen := false } })
    let s := (s.startLeadSet).placePulses
    let s := s.roleTo .leading true false
    let s := { s with pair := { s.pair with t0 := none, finalIn := none, switched := false, sync := .none, sent := []
                                            baseDue := true } }
    (s.bump 0x041084).eventP 771 0x0612 1
  else s

/-! ### Health reports (R513) -/

/-- The code of SYNC (R505). -/
def CkSync.code : CkSync → Nat
  | .none => 0 | .loading => 1 | .insync => 2 | .gap => 3

/-- Microseconds since the last checkpoint (TWIN.CKAGE). -/
def State.ckAge (s : State) : Nat := if s.pair.ckAt = 0 then 0 else (s.now - s.pair.ckAt) / ticksPerUs

/-- Word w of this hub's health report (R513). -/
def State.healthWord (s : State) (w : Nat) : Nat :=
  match w with
  | 0 => s.ident.number.toNat + s.slot.toNat * 2 ^ 12 + s.pair.role.code * 2 ^ 13 + bitAt s.boot.valid 16 +
      bitAt s.flt.safe 17 + bitAt s.fltDegraded 18 + bitAt s.pairReady 19 + bitAt (s.running 13) 20 +
      bitAt (s.running 14) 21 + bitAt (s.dieUp 0) 22 + bitAt (s.dieUp 1) 23 + s.pair.sync.code * 2 ^ 24
  | 1 => s.peat.appGen.toNat
  | 2 => s.pair.ckSeq.toNat
  | 3 => min s.ckAge 0xFFFF + s.rpr.wear.toNat * 2 ^ 24
  | 4 => min s.fltPending 0xFFFF + min s.pair.rounds 0xFFFF * 2 ^ 16
  | 5 => s.power.temp.toNat
  | 6 => s.ns % 2 ^ 32
  | _ => s.ns / 2 ^ 32 % 2 ^ 32

/-- HEALTH_REPORT_SEND: a class 3 frame to group 0xFFE on the twin port (R513, R514). -/
def healthSend (s : State) : State :=
  if s.pairTalks then
    s.originate { cls := 3, typ := 7, mc := true, dest := 0xFFE, addr := 0x800000000000 }
      (beBytes 0x01000000 4 ++ (List.range 8).flatMap (fun w => beBytes (s.healthWord w) 4)) .twin
  else s

/-- HEALTH_REPORT_RECEIVED (R513): a generation that differs takes SYNC to GAP (R505). -/
def healthReceived (s : State) : State :=
  match s.fwd.inbox.find? (fun d => d.sink == .pairMsg && (d.payload.headD 0).toNat == 1) with
  | none => s
  | some d =>
    let s := { s with fwd := { s.fwd with inbox := s.fwd.inbox.erase d } }
    if d.payload.length ≠ 36 then s
    else
      let ws := (List.range 8).foldl (fun (t : Tab Word) w =>
        tabSet 0 t w (BitVec.ofNat 32 (beNat (slice d.payload (4 + 4 * w) 4)))) s.pair.peerHealth
      let s := { s with pair := { s.pair with peerHealth := ws } }
      let s := if s.pair.role = .resting ∧ s.ckptForeign ∧ s.pair.sync ≠ .gap then s.ckptGap 1 else s
      pairWatch s

/-- RESTING_HUB_SELF_TEST: one check passes or fails; a FAILED retention SRAM fails it (R513, R553). -/
def pairSelfTest (check : BitVec 4) (pass : Bool) (s : State) : State :=
  if s.pair.role ≠ .resting then s
  else if pass && !(s.mem 0x25).failed then
    pairWatch { s with pair := { s.pair with selfTest := true, rounds := min (s.pair.rounds + 1) 0xFFFF } }
  else pairWatch (({ s with pair := { s.pair with selfTest := false } } : State).fault 773 0xED 1 check.toNat)

/-! ### What the registers show -/

/-- Seconds of hold-off left (TWIN.PSTAT.HOLDLEFT). -/
def State.holdLeft (s : State) : Nat :=
  match s.pair.holdSince with
  | some t => min (s.af 0x041004 15 0 - (s.now - t) / 625000000) 0xFFFF
  | none => 0

/-- The live pair registers (19, "TWIN pair registers"). -/
def State.pairView (s : State) (off : Nat) : Option Nat :=
  if off = 0x041020 then
    some (s.pair.role.code + s.pair.sync.code * 16 + bitAt s.flt.peerAlive 6 + bitAt s.peerLead 7 +
      bitAt (s.peerWord 0 19 19 == 1) 8 + bitAt s.pairReady 9 + bitAt s.pair.cold 10 + bitAt s.pair.held 11 +
      s.holdLeft * 65536)
  else if off = 0x041024 then some s.pair.ckSeq.toNat
  else if off = 0x041028 then some (min s.ckAge 0xFFFFFFFF)
  else if 0x041040 ≤ off ∧ off < 0x041060 then some (s.healthWord ((off - 0x041040) / 4))
  else if 0x041060 ≤ off ∧ off < 0x041080 then some (tabGet (0 : Word) s.pair.peerHealth ((off - 0x041060) / 4)).toNat
  else none

end Sys2Proof.Machine
end

