-- ==== Sys2Proof/Machine/NcpCore.lean ====
section
/-! DEFINITION. The NCP registers of both pairs (15): kick, end of service, claim, and what they show; the watchdog and
lockstep. -/

namespace Sys2Proof.Machine

/-- An expiry of a pair's watchdog: reported, counted, and the timer restarts (R407). -/
def State.watchdogExpires (s : State) (p : Pair) : State :=
  let s := s.setNcp p { s.ncp p with kick := some s.now }
  (s.bump (ncpBase p + 0x204)).fault (pairSrc p) 0xD1 3 0

/-- A write to NCP.xKICK (R407). -/
def ncpKick (p : Pair) (v : BitVec 16) (s : State) : State :=
  if s.af (ncpBase p + 8) 15 0 = 0 then s
  else if v = 0x0C5A then s.setNcp p { s.ncp p with kick := some s.now }
  else s.watchdogExpires p

/-- WATCHDOG_EXPIRY: TIME µs after the last restart, while the pair is RUNNING (R407). -/
def ncpWatchdog (p : Pair) (s : State) : State :=
  let t := s.af (ncpBase p + 8) 15 0
  match (s.ncp p).kick with
  | some k =>
    if t ≠ 0 ∧ s.running (pairFn p) then (s.advanceTo (k + t * ticksPerUs)).watchdogExpires p else s
  | none => s

/-- A write to NCP.xEOI: the service of the present level ends (R399). -/
def ncpEoi (p : Pair) (s : State) : State :=
  let x := s.ncp p
  s.setNcp p { x with serving := x.serving.tail }

/-- A read of NCP.xCLAIM: the lowest-numbered pending source of the level served, cleared (R399). -/
def State.ncpClaim (s : State) (p : Pair) : Nat × State :=
  let x := s.ncp p
  match x.serving with
  | [] => (0, s)
  | l :: _ =>
    match x.pend.find? (fun n => s.levelOf p n == some l) with
    | none => (l * 2 ^ 16, s)
    | some n =>
      (2 ^ 31 + l * 2 ^ 16 + n,
       s.setNcp p { x with pend := x.pend.filter (· != n), forced := x.forced && n != pairSrc (otherPair p) })

/-- LOCKSTEP_MISMATCH: both cores stop, the failing output is recorded, and kind 0x18 is sent (R402). -/
def ncpMismatch (p : Pair) (pc : Word) (kind : BitVec 2) (s : State) : State :=
  if s.issues p || s.running (pairFn p) then
    let s := s.setNcp p { s.ncp p with stopped := true }
    let s := s.setNat (ncpBase p + 0x20) (pc.toNat / 4 * 4 + kind.toNat)
    (s.bump (ncpBase p + 0x200)).fault (pairSrc p) 0x18 3 0
  else s

/-- The lockstep self-test ends: passed, or failed with kind 0xD0 and HALTED (R406). -/
def ncpSelfTest (p : Pair) (pass : Bool) (s : State) : State :=
  let x := s.ncp p
  if x.testing then
    let s := s.setNcp p { x with testing := false }
    if pass then s else ((s.haltFn (pairFn p)).2).fault (pairSrc p) 0xD0 3 0
  else s

/-- The live NCP registers (15, "NCP registers"). -/
def State.ncpView (s : State) (off : Nat) : Option Nat :=
  let p : Pair := if off % 0x10000 < 0x1000 then .a else .b
  let x := s.ncp p
  let o := off % 0x1000
  if o = 4 then some (s.rv off ||| 0x8000)
  else if o = 0x18 then
    let other := (s.func (pairFn (otherPair p))).st
    some (bitAt x.bootrom 0 + x.serving.headD 0 * 2 ^ 12 + bitAt (!x.serving.isEmpty) 16 + bitAt (other == .halted) 17 +
      bitAt x.wfe 18 + bitAt x.sys 19 + bitAt x.ie 20)
  else if o = 0x1C then some (if s.running (pairFn p) then 0 else x.pc.toNat)
  else if 0x100 ≤ o ∧ o < 0x180 then
    let i := (o - 0x100) / 4
    some (x.pend.foldl (fun n k => if k / 32 = i then n + 2 ^ (k % 32) else n) 0)
  else none

end Sys2Proof.Machine
end

