-- ==== Sys2Proof/Machine/RegView.lean ====
section
/-! DEFINITION. What a register shows when it is read (R9, R11, R28, R29, R31, R524): the live values of every block, applied
copies, latched upper parts, and the POP locations (R10). -/

namespace Sys2Proof.Machine

/-! ### The key guard (R59) -/

/-- Core ticks for which the key guard stays open (R59). -/
def keyTicks : Nat := 1024

/-- The key guard is open now. -/
def State.keyOpen (s : State) : Bool := s.key.opened && decide (s.now < s.key.since + keyTicks)

/-- An initiator holds the open key guard. -/
def State.keyHeldBy (s : State) (src : Src) : Bool :=
  s.keyOpen && s.key.port == src.port && s.key.slot == src.slot && s.key.node == src.node

/-- KEY.STAT. -/
def State.keyStat (s : State) : Nat :=
  if s.keyOpen then
    1 + (s.key.since + keyTicks - s.now) * 2 + s.key.port.toNat * 2 ^ 12 + s.key.node.toNat * 2 ^ 16 + s.key.slot.toNat * 2 ^ 28
  else 0

/-! ### Live values -/

/-- LDX.STAT.BUSY. -/
def State.ldxBusy (s : State) : Bool := s.ldx.phase != .idle

/-- The live registers of SYS, FUNC, KEY and LDX (02). -/
def State.sysView (s : State) (off : Nat) : Option Nat :=
  match off with
  | 0x000004 => some (Config.uid.toNat % 2 ^ 32)
  | 0x000008 => some (Config.uid.toNat / 2 ^ 32)
  | 0x00000C => some ((if s.dieA.linkUp then (Config.ldrev 0).toNat else 0) + (if s.dieB.linkUp then (Config.ldrev 1).toNat else 0) * 256)
  | 0x000010 => some (s.ident.straps.boot.toNat + s.ident.straps.twinslot.toNat * 4 + bitAt s.ident.straps.testen 3)
  | 0x000014 => some s.boot.cause.toNat
  | 0x000018 => some (s.boot.phase.toNat + s.boot.slot.toNat * 16 + bitAt s.boot.overlay 6 + bitAt s.boot.valid 7)
  | 0x00001C => some (s.ident.number.toNat + s.slot.toNat * 2 ^ 12 + bitAt s.ident.lead 13)
  | 0x000024 => some 0
  | 0x250004 => some s.keyStat
  | 0x260000 => some (s.ldx.addr.toNat + (match s.ldx.die with | .la => 0 | .lb => 2 ^ 15))
  | 0x260008 => some (bitAt s.ldxBusy 0 + bitAt s.ldx.err 1 + bitAt (s.dieUp 0) 2 + bitAt (s.dieUp 1) 3 + bitAt s.ldx.rdvalid 4)
  | _ => if 0x010400 ≤ off ∧ off < 0x010800 then some (s.fstat ((off - 0x010400) / 4)) else none

/-- The live link registers (04). -/
def State.linkView (s : State) (l : Link) (o : Nat) : Option Nat :=
  let x := s.link l
  match o with
  | 0x20 => some (s.linkStat l)
  | 0x24 => some (x.winerr.toNat * 65536 + x.eyeh.toNat * 256 + x.eyev.toNat)
  | 0x50 => some x.marked.toNat
  | 0x54 => some (x.spares + bitAt (x.marked != 0 && decide (x.spares < 2)) 2)
  | 0x68 => some (bitAt x.mmBusy 0 + bitAt x.mmErr 1 + bitAt x.mmNack 2)
  | _ => none

/-- The live FWD registers (05, 06). -/
def State.fwdView (s : State) (off : Nat) : Option Nat :=
  if off = 0x050014 then some (s.fwd.epoch.toNat + bitAt s.fwd.poweron 3)
  else if off = 0x050018 then
    some (bitAt (s.repeatMode && (s.linkIsUp .w || s.linkIsUp .e)) 0 +
      bitAt (s.rf 0x050000 1 0 != 0 || !s.linkIsUp .w || !s.linkIsUp .e) 1 + bitAt (decide (16 ≤ s.fwd.class0.length)) 2)
  else if 0x050800 ≤ off ∧ off < 0x050880 then some (s.queueCells ((off - 0x050800) / 4) (fun _ => true))
  else none

/-- The live BUF registers (06). -/
def State.bufView (s : State) (off : Nat) : Option Nat :=
  match off with
  | 0x060080 => some s.freeShared
  | 0x060084 => some ((List.range 8).foldl (fun n c => n + bitAt (decide (s.ap (0x060040 + 4 * c) < s.classLevel c)) c) 0)
  | 0x060088 => some (s.capCells + s.fwd.banks * 2 ^ 17 + s.fwd.spareBanks * 2 ^ 22)
  | _ => none

/-- The live value of a register, when it has one. -/
def State.view (s : State) (off : Nat) : Option Nat :=
  match off / 0x10000 with
  | 0x00 | 0x01 | 0x25 | 0x26 => s.sysView off
  | 0x02 => s.linkView .w (off % 0x10000)
  | 0x03 => s.linkView .e (off % 0x10000)
  | 0x04 => if off % 0x10000 < 0x1000 then s.linkView .t (off % 0x10000) else s.pairView off
  | 0x05 => s.fwdView off
  | 0x06 => s.bufView off
  | 0x07 => s.xactView off
  | 0x08 => s.timeView off
  | 0x09 => s.axisView s.publishing off
  | 0x0A => s.actView off
  | 0x0B => s.brgView off
  | 0x0C => s.canView off
  | 0x0D => s.usbView off
  | 0x0E => s.ncpView off
  | 0x0F => s.evtView off
  | 0x20 => s.pcieView off
  | 0x21 => s.fltView off
  | 0x22 => s.powerView off
  | 0x23 => s.rprView off
  | 0x24 => s.peatView off
  | k =>
    if 0x10 ≤ k ∧ k < 0x20 then
      let nn := k - 0x10
      let o := off % 0x10000
      if 0x1000 ≤ o then s.engineView nn o
      else s.frondView nn o ((s.func (240 + nn)).st == .starting && s.waits (240 + nn))
    else none

/-- The value a register shows, POP locations and latches apart: write-only registers and unmapped offsets read 0 (R10,
R29), an applied copy shows what is applied (R28), and status and counters of a domain that is not ON read 0 (R524). -/
def State.regValue (s : State) (off : Nat) : Word :=
  match regHit off with
  | some h =>
    match h.row.acc with
    | .wo => 0
    | .ro => if s.domOn (domainOfOffset off) then ((s.view off).map (BitVec.ofNat 32)).getD (s.rg off) else 0
    | _ => ((s.view off).map (BitVec.ofNat 32)).getD (s.rg off)
  | none =>
    match appliedOf? off with
    | some o => match regHit o with
      | some h => if h.row.acc = .rws then BitVec.ofNat 32 (s.ap o) else 0
      | none => 0
    | none => 0

/-! ### POP locations (R10, R161, R264) -/

/-- The item that a read of a POP location of the register window takes. -/
def State.popReg (s : State) (off : Nat) (ecc : EccResult) : Option (Nat × State) :=
  let low (r : DWord × State) : Nat × State := (r.1.toNat % 2 ^ 32, r.2)
  if off = 0x0E0014 then some (s.ncpClaim .a)
  else if off = 0x0E1014 then some (s.ncpClaim .b)
  else if off = 0x0B0080 then some (low (s.msgPop ecc))
  else if off / 0x10000 = 0x0C ∧ (off % 0x2000 = 0xC0 ∨ off % 0x2000 = 0xC8) then
    some (low (s.canPop (off / 0x2000 % 8) (if off % 0x2000 = 0xC0 then 0 else 1) ecc))
  else if 0x100000 ≤ off ∧ off < 0x200000 then
    let nn := off / 0x10000 - 0x10
    let o := off % 0x10000
    if o = 0x114 ∨ o = 0x154 then some (low (s.uartPop (2 * nn + (o - 0x114) / 0x40) ecc))
    else if 0x1000 ≤ o ∧ o < 0x1400 ∧ o % 0x100 = 0x28 then some (low (s.engRxPop (5 * nn + (o - 0x1000) / 0x100) ecc))
    else none
  else none

/-- A register offset is a POP location (R10, R170). -/
def isPop (off : Nat) : Bool :=
  match regHit off with
  | some h => h.row.acc == .pop || h.row.acc == .rwpPop
  | none => false

/-! ### Reads (R29, R31) -/

/-- A latched upper part of an initiator port. -/
def State.latchAt (s : State) (port off : Nat) : Option Word :=
  (s.latches.find? (fun e => e.1 == (port, off))).map (·.2)

/-- The upper parts latched by a read of a lower register, for one port (R31). -/
def State.latchUpper (s : State) (port off k : Nat) : State :=
  let offs := (List.range k).map (fun i => off + 4 * (i + 1))
  let kept := s.latches.filter (fun e => !(e.1.1 == port && offs.contains e.1.2))
  { s with latches := kept ++ offs.map (fun o => ((port, o), s.regValue o)) }

/-- A read of the aligned word at an offset by an initiator port, other than of LDX.DATA: the latched part when the port
has one there, else the value shown; a POP location advances, and a lower status register latches the rest (R11, R31). -/
def State.regRead (s : State) (port off : Nat) (ecc : EccResult := .clean) : Word × State :=
  match s.popReg off ecc with
  | some (v, s) => (BitVec.ofNat 32 v, s)
  | none =>
    match s.latchAt port off with
    | some w => (w, { s with latches := s.latches.filter (fun e => e.1 != (port, off)) })
    | none =>
      match regHit off with
      | some h => match h.row.wide with
        | .latch k => (s.regValue off, s.latchUpper port off k)
        | _ => (s.regValue off, s)
      | none => (s.regValue off, s)

end Sys2Proof.Machine
end

