-- ==== Sys2Proof/Machine/KeyLdx.lean ====
section
/-! DEFINITION. The key guard (R59, R60) and the LDX window to the line dies (R50 to R58) at work. -/

namespace Sys2Proof.Machine

/-! ### The key guard -/

/-- The code that opens the guard. -/
def keyCode : Nat := 0x5A3C

/-- A write to KEY.UNLOCK (R59, R60). -/
def keyUnlock (src : Src) (data : Word) (s : State) : State :=
  let code := data.toNat % 65536
  if !s.keyOpen then
    if code = keyCode then
      { s with key := { opened := true, port := src.port, slot := src.slot, node := src.node, since := s.now } }
    else s.bump 0x25000C
  else if s.keyHeldBy src then
    if code = keyCode then { s with key := { s.key with since := s.now } }
    else ({ s with key := {} }).bump 0x25000C
  else if code = keyCode then s.bump 0x250010
  else s.bump 0x25000C

/-- KEY_GUARD_TIMEOUT: 1,024 core ticks without an RWK write by the holder (R59). -/
def keyTimeout (s : State) : State :=
  if s.key.opened then { s.advanceTo (s.key.since + keyTicks) with key := {} } else s

/-- A key violation (R36, R60). -/
def State.keyViolation (s : State) (off : Nat) : State := (s.bump 0x250008).fault 770 0x0A 0 0 off

/-- An RWK write meets the guard: the holder's write passes and closes it, any other is a violation (R59, R60). -/
def State.keyPass (s : State) (src : Src) (off : Nat) : Bool × State :=
  if s.keyHeldBy src then (true, { s with key := {} }) else (false, s.keyViolation off)

/-! ### Line-die registers (R302) -/

/-- The live value of a line-die register, where it has one; `m` is what the die measures (R281 to R287, 13, 20). -/
def State.ldView (s : State) (d word : Nat) (m : BitVec 16) : Option Nat :=
  if 0x100 ≤ word ∧ word < 0x500 then
    let l := 128 * d + (word - 0x100) / 8
    match word % 8 with
    | 3 => some (s.lstat l (!(s.chan (l / 16)).pg))
    | 4 | 5 => some m.toNat
    | _ => none
  else if 0x600 ≤ word ∧ word < 0x620 then
    let nn := 8 * d + (word - 0x600) / 4
    match word % 4 with
    | 1 | 2 => some m.toNat
    | 3 => some (bitAt (nbit m.toNat 0) 0 + bitAt (s.frondCutNow nn) 1 + bitAt (s.chan nn).pg 2)
    | _ => none
  else if 0x3800 ≤ word ∧ word < 0x3808 ∧ word % 2 = 1 then
    let c := s.can (4 * d + (word - 0x3801) / 2)
    some (bitAt c.domTimeout 0 + bitAt (nbit m.toNat 1) 1 + bitAt c.wakeSeen 2)
  else s.ldPowerView d word m

/-- What a fetch of a line-die word brings: 0 where nothing is mapped (R29, R302). -/
def State.ldRead (s : State) (d word : Nat) (m : BitVec 16) : BitVec 16 :=
  match s.ldView d word m with
  | some v => BitVec.ofNat 16 v
  | none => match regHit (ldOff d word) with
    | some _ => (s.rg (ldOff d word)).truncate 16
    | none => 0

/-- A posted write reaches its line-die register; a refusal is reported at LDX.DATA (R35, R49, R51, R302). -/
def State.ldWrite (s : State) (src : Src) (d word : Nat) (data mask : BitVec 16) : State :=
  let off := ldOff d word
  match regHit off with
  | none => s.ignored src 0x260004 4
  | some h =>
    let v := maskedWrite (s.rg off) h.row.mask (data.setWidth 32 ||| (mask.setWidth 32) <<< 16)
    let put (s : State) : State := if h.row.ok v.toNat then s.setReg off v else s.ignored src 0x260004 1
    match h.row.acc with
    | .rwk => put s
    | .rwx => match h.owner? with
      | some f =>
        if (s.func f).st = .absent then s.ignored src 0x260004 6
        else if (s.func f).st ≠ .stopped then s.ignored src 0x260004 0
        else put s
      | none => put s
    | _ => s.ignored src 0x260004 5

/-! ### The window -/

/-- The number of the selected die. -/
def Ldx.d (x : Ldx) : Nat := match x.die with | .la => 0 | .lb => 1

/-- A fetch of the selected word starts (R50). -/
def State.ldxFetch (s : State) : State :=
  { s with ldx := { s.ldx with phase := .fetching, since := s.now, rdvalid := false } }

/-- The word address advances on the same die (R51 to R53). -/
def State.ldxAdvance (s : State) : State := { s with ldx := { s.ldx with addr := s.ldx.addr + 1 } }

/-- LDX_ADDR_WRITE (R50, R56). -/
def ldxAddrWrite (src : Src) (data : Word) (s : State) : State :=
  if s.ldxBusy then s.ignored src 0x260000 2
  else
    let cur := BitVec.ofNat 32 (s.ldx.addr.toNat + s.ldx.d * 2 ^ 15)
    let v := maskedWrite cur 0xBFFF data
    State.ldxFetch { s with ldx := { s.ldx with die := if nbit v.toNat 15 then .lb else .la, addr := v.truncate 14 } }

/-- The selected line-die word is guarded by a key (R59). -/
def State.ldxGuarded (s : State) : Bool :=
  match regHit (ldOff s.ldx.d s.ldx.addr.toNat) with
  | some h => h.row.acc == .rwk
  | none => false

/-- LDX_DATA_WRITE: data and mask are posted; the write to a guarded word meets the guard here (R51, R56, R59). -/
def ldxDataWrite (src : Src) (data : Word) (s : State) : State :=
  let guarded := s.ldxGuarded
  if s.ldxBusy then s.ignored src 0x260004 2
  else
    let (ok, s) := if guarded then s.keyPass src 0x260004 else (true, s)
    if ok then
      { s with ldx := { s.ldx with phase := .writing, since := s.now, wdata := data.truncate 16
                                   wmask := (data >>> 16).truncate 16, wsrc := src } }
    else s

/-- Reads that waited for a fetch get its word one after the other, each starting the next fetch (R52). -/
def State.ldxServe (s : State) : State :=
  match s.ldx.waiters with
  | [] => s
  | w :: ws =>
    let s := s.emit (.answer w stOk (leBytes s.ldx.fetched.toNat 4))
    (({ s with ldx := { s.ldx with waiters := ws } }).ldxAdvance).ldxFetch

/-- LDX_FETCH_DONE: the fetched word is ready (R50, R52). -/
def ldxFetchDone (m : BitVec 16) (s : State) : State :=
  if s.ldx.phase = .fetching ∧ s.dieUp s.ldx.d then
    State.ldxServe { s with ldx := { s.ldx with phase := .idle, rdvalid := true, err := false
                                                fetched := s.ldRead s.ldx.d s.ldx.addr.toNat m } }
  else s

/-- LDX_WRITE_CONFIRMED: the line die has performed the write; the address advances and the next word is fetched
(R51, R54). -/
def ldxWriteConfirmed (s : State) : State :=
  if s.ldx.phase = .writing ∧ s.dieUp s.ldx.d then
    let x := s.ldx
    let s := s.ldWrite x.wsrc x.d x.addr.toNat x.wdata x.wmask
    (({ s with ldx := { s.ldx with err := false } }).ldxAdvance).ldxFetch
  else s

/-- A line die that does not answer: the access has failed, and every read that waits returns 0 (R55). -/
def State.ldxFail (s : State) : State :=
  let ws := s.ldx.waiters
  let s := { s with ldx := { s.ldx with phase := .idle, rdvalid := false, err := true, fetched := 0, waiters := [] } }
  let s := (s.bump 0x26000C).fault 770 0x20 1 0
  match ws with
  | [] => s
  | _ => (ws.foldl (fun (s : State) w => (s.emit (.answer w stOk (leBytes 0 4))).ldxAdvance) s).ldxFetch

/-- LDX_TIMEOUT: no answer within 10 µs (R55). -/
def ldxTimeout (s : State) : State :=
  if s.ldxBusy then (s.advanceTo (s.ldx.since + 10 * ticksPerUs)).ldxFail else s

/-- A read of LDX.DATA once no access runs: the word, then the next fetch (R52). -/
def State.ldxTake (s : State) : Word × State :=
  (if s.ldx.rdvalid then s.ldx.fetched.setWidth 32 else 0, (s.ldxAdvance).ldxFetch)

/-- LDX_DATA_READ: the read is answered, or waits for the access that runs (R52). -/
def ldxDataRead (src : Src) (s : State) : State :=
  if s.ldxBusy then { s with ldx := { s.ldx with waiters := s.ldx.waiters ++ [src] } }
  else
    let (v, s) := s.ldxTake
    s.emit (.answer src stOk (leBytes v.toNat 4))

/-- The access that runs ends, while the read of a word of several waits for it; what the die measures is open. -/
def State.ldxEnd (s : State) : State :=
  let m := (Config.measured (ldOff s.ldx.d s.ldx.addr.toNat) s.now).truncate 16
  if !s.ldxBusy then s
  else if !s.dieUp s.ldx.d then ldxTimeout s
  else if s.ldx.phase = .writing then ldxWriteConfirmed s
  else ldxFetchDone m s

/-- A read of LDX.DATA that is part of a wider or local access: it waits out what runs, a posted write and the fetch
that follows it among them (R52). -/
def State.ldxReadThrough (s : State) : Word × State := (s.ldxEnd.ldxEnd).ldxTake

/-- LDX_CLAIM: a tag is taken while the window is free, and 0 releases it (R57). -/
def ldxClaim (src : Src) (data : Word) (s : State) : State :=
  let _ := src
  let v := maskedWrite (s.rg 0x260010) 0xFF data
  if s.rv 0x260010 = 0 ∨ v = 0 then s.setReg 0x260010 v else s

end Sys2Proof.Machine
end

