-- ==== Sys2Proof/Machine/Access.lean ====
section
/-! DEFINITION. A write to the register window (R9, R10, R12, R29, R30, R34 to R36, R49): the checks of its access code, the
commands that write-only registers take, and what a write to a register sets going. -/

namespace Sys2Proof.Machine

/-! ### Write-only registers (R34) -/

/-- A write to the command register of a link (04). -/
def linkCmd (src : Src) (l : Link) (v : Nat) (s : State) : State :=
  match v % 16 with
  | 1 => linkRetrain l s
  | 2 => linkRateup l s
  | _ => s.ignored src (linkBase l + 0x10) 1

/-- The commands of a frond's block (11, 12). -/
def State.frondCommand (s : State) (src : Src) (nn o v : Nat) : State :=
  let n := BitVec.ofNat 4 nn
  let e := BitVec.ofNat 2 ((o - 0x1000) / 0x100)
  if o = 0x90 then lcmdUnlatch n (BitVec.ofNat 16 v) s
  else if o = 0x20C then encoderCmd src n v s
  else if o = 0x110 ∨ o = 0x150 then utxWrite (BitVec.ofNat 5 (2 * nn + (o - 0x110) / 0x40)) (BitVec.ofNat 10 v) s
  else if o = 0x1804 then engPflagSet n (BitVec.ofNat 4 v) s
  else if o % 0x100 = 0x18 then engQueueCmd (v % 16) src n e s
  else if o % 0x100 = 0x20 then engTxStage src n e (BitVec.ofNat 16 v) s
  else engTxAppend src n e (BitVec.ofNat 16 v) s

/-- A write to a write-only register: its command is the whole of [15:0] (R34). -/
def State.commandWrite (s : State) (src : Src) (off : Nat) (data : Word) : State :=
  let v := data.toNat % 65536
  match off / 0x10000 with
  | 0x01 =>
    if off = 0x010000 then funcCmd src (BitVec.ofNat 8 v) (v / 256 % 8) s
    else if off = 0x010008 then updateStrobe src (BitVec.ofNat 8 v) s
    else groupStrobe src (BitVec.ofNat 16 v) s
  | 0x02 => linkCmd src .w v s
  | 0x03 => linkCmd src .e v s
  | 0x04 => if off = 0x041010 then pairCmd src (v % 16) s else linkCmd src .t v s
  | 0x07 => xactSefree (BitVec.ofNat 16 v) s
  | 0x08 => timeCmd src v s
  | 0x0A => actCmd src v s
  | 0x0B => brgCmd src v s
  | 0x0C =>
    let k := BitVec.ofNat 3 (off / 0x2000)
    if off % 0x2000 = 0x8C then canTxCmd src k v s else canCmd src k v s
  | 0x0D => usbCmd src v s
  | 0x0E =>
    let p : Pair := if off < 0x0E1000 then .a else .b
    if off % 0x1000 = 0xC then ncpKick p (BitVec.ofNat 16 v) s else ncpEoi p s
  | 0x21 => fltAckWrite v s
  | 0x22 => pccmd src v s
  | 0x23 => rprCmd src (v % 16) s
  | 0x25 => keyUnlock src data s
  | k => s.frondCommand src (k - 0x10) (off % 0x10000) v

/-! ### Commands of the peat store (R82, R83) -/

/-- A write to PEAT.CMD. -/
def State.peatCmd (s : State) (src : Src) (op : Nat) : State :=
  if s.peat.job.isSome then s.ignored src 0x240000 2
  else if op = 0 ∨ 13 < op then s.ignored src 0x240000 1
  else if peatGuarded op then
    let (ok, s) := s.keyPass src 0x240000
    if ok then s.peatTake op else s
  else s.peatTake op

/-! ### Registers that hold a value -/

/-- Reserved codes that depend on other registers: MIRCONS (R167) and a second queue bound to USB (R444). -/
def State.liveOk (s : State) (off v : Nat) : Bool :=
  if off = 0x050C18 then decide (v < 2 ^ (s.rf 0x050C0C 15 13 + 4))
  else if 0x0F3000 ≤ off ∧ off < 0x0F3200 ∧ off % 0x20 = 0 then
    v / 0x4000 != 2 || (List.range 16).all (fun q => 0x0F3000 + 0x20 * q == off || s.rf (0x0F3000 + 0x20 * q) 15 14 != 2)
  else true

/-- The value that a write would give a register (R12, R30). -/
def State.wouldHold (s : State) (off : Nat) (h : RegHit) (v : Word) : Word :=
  if h.row.full then v &&& BitVec.ofNat 32 h.row.mask
  else match h.row.wide with
    | .stage => maskedWrite ((s.stagedAt off).getD (s.rg off)) h.row.mask v
    | _ => maskedWrite (s.rg off) h.row.mask v

/-- The value taken: staged, applied with what is staged below, or set (R30). -/
def State.take (s : State) (off : Nat) (h : RegHit) (v : Word) : State :=
  match h.row.wide with
  | .stage => s.stage off h.row.mask v
  | .apply k => s.applyWide off h.row.mask k v
  | _ => s.setReg off (s.wouldHold off h v)

/-- An accepted write to ENGk.CFG, WIN or SIDE sets DIRTY; one that changes TXD empties both queues (R315, R320). -/
def State.engineStored (s : State) (off : Nat) (old : Word) : State :=
  let nn := off / 0x10000 - 0x10
  let o := off % 0x10000 - 0x1000
  let e := o / 0x100
  let i := 5 * nn + e
  if o % 0x100 = 0 ∨ o % 0x100 = 4 ∨ o % 0x100 = 0xC then
    let s := s.setFunc (128 + i) { s.func (128 + i) with dirty := true }
    if o % 0x100 = 0 ∧ s.rf off 15 12 ≠ nbits old.toNat 15 12 then s.txdChanged i else s
  else s

/-- What a stored value sets going. -/
def State.afterStore (s : State) (off : Nat) (old : Word) : State :=
  if off = 0x0D0010 ∧ !s.rb off 0 then s.usbDetach
  else if 0x204000 ≤ off ∧ off < 0x204400 then s.flushMsix
  else if 0x100000 ≤ off ∧ off < 0x200000 ∧ 0x1000 ≤ off % 0x10000 ∧ off % 0x10000 < 0x1400 then s.engineStored off old
  else s

/-- The value that a write would give a register holds no reserved code (R9). -/
def State.accepts (s : State) (off : Nat) (h : RegHit) (v : Word) : Bool :=
  let new := (s.wouldHold off h v).toNat
  h.row.ok new && s.liveOk off new

/-- A register takes a value that holds no reserved code (R9). -/
def State.put (s : State) (src : Src) (off : Nat) (h : RegHit) (v : Word) : State :=
  if s.accepts off h v then (s.take off h v).afterStore off (s.rg off) else s.ignored src off 1

/-- Plain registers whose write is a command of its own (R57, R272, R277, R320, R362, R451, R453, R461). -/
def State.rwWrite (s : State) (src : Src) (off : Nat) (h : RegHit) (v : Word) : State :=
  let o := off % 0x10000
  if off = 0x260010 then ldxClaim src v s
  else if off = 0x0A0030 then actAidx v s
  else if off = 0x0B0014 then brgAidx v s
  else if 0x200400 ≤ off ∧ off < 0x201400 ∧ off % 0x40 = 0 then hqctlWrite src (BitVec.ofNat 6 ((off - 0x200400) / 0x40)) v s
  else if 0x200400 ≤ off ∧ off < 0x201400 ∧ off % 0x40 = 0x28 then
    hqconsWrite src (BitVec.ofNat 6 ((off - 0x200400) / 0x40)) v s
  else if 0x202000 ≤ off ∧ off < 0x202200 ∧ off % 0x40 = 0 then dctlWrite src (BitVec.ofNat 3 ((off - 0x202000) / 0x40)) v s
  else if 0x202000 ≤ off ∧ off < 0x202200 ∧ off % 0x40 = 0x14 then dtailWrite (BitVec.ofNat 3 ((off - 0x202000) / 0x40)) v s
  else if 0x100000 ≤ off ∧ off < 0x200000 ∧ o = 0x80 then loutWrite (BitVec.ofNat 4 (off / 0x10000)) v s
  else if 0x100000 ≤ off ∧ off < 0x200000 ∧ 0x2000 ≤ o then
    let nn := BitVec.ofNat 4 (off / 0x10000)
    let w := BitVec.ofNat 6 ((o - 0x2000) / 8)
    if o % 8 = 0 then progStage src nn w v s else progWrite src nn w v s
  else s.put src off h v

/-- Key-guarded registers, the guard having let the write through (R486, R523, R593). -/
def State.rwkWrite (s : State) (src : Src) (off : Nat) (h : RegHit) (v : Word) : State :=
  if off = 0x000024 then { s with boot := { s.boot with request := BitVec.ofNat 2 (maskedWrite 0 3 v).toNat } }
  else if off = 0x21000C then if nbit (maskedWrite 0 1 v).toNat 0 then safeExit s else s
  else if off = 0x220000 then domainRequest v s
  else s.put src off h v

/-- Registers posted to a slow domain (R50, R51, R82, R108). -/
def State.rwpWrite (s : State) (src : Src) (off : Nat) (h : RegHit) (v : Word) : State :=
  if off = 0x260000 then ldxAddrWrite src v s
  else if off = 0x240000 then s.peatCmd src (v.toNat % 16)
  else
    let l : Link := if off < 0x030000 then .w else .e
    if off % 0x10000 = 0x60 then linkMmctl src l v s
    else if (s.link l).mmBusy then s.ignored src off 2
    else s.put src off h v

/-- An aligned 32-bit write to a mapped register (R10, R29, R35, R45, R49, R59). -/
def State.wordWrite (s : State) (src : Src) (off : Nat) (h : RegHit) (v : Word) : State :=
  match h.row.acc with
  | .ro | .pop => s.ignored src off 5
  | .wo => s.commandWrite src off v
  | .rw => s.rwWrite src off h v
  | .rwp => s.rwpWrite src off h v
  | .rwpPop => ldxDataWrite src v s
  | .rwk =>
    let (ok, s) := s.keyPass src off
    if ok then s.rwkWrite src off h v else s
  | .rws =>
    match h.owner? with
    | some f =>
      if (s.func f).st = .absent then s.ignored src off 6
      else
        let waits : Bool := s.accepts off h v && h.row.wide != .stage
        let s := s.put src off h v
        if waits then s.setFunc f { s.func f with pend := true } else s
    | none => s.put src off h v
  | .rwx =>
    match h.owner? with
    | some f =>
      if (s.func f).st = .absent then s.ignored src off 6
      else if (s.func f).st ≠ .stopped then s.ignored src off 0
      else s.put src off h v
    | none => s.put src off h v

/-- The fault injection registers of factory test mode, which the manual does not describe (R487). -/
def State.testWindow (s : State) (off : Nat) : Bool := s.ident.straps.testen && decide (0x217000 ≤ off ∧ off < 0x218000)

/-- A write to the register window (R28, R29). -/
def regWrite (src : Src) (off : Nat) (size : Width) (v : Word) (s : State) : State :=
  if size ≠ .word ∨ off % 4 ≠ 0 then s.ignored src off 3
  else match regHit off with
    | some h => s.wordWrite src off h v
    | none =>
      if s.testWindow off then s
      else match (appliedOf? off).bind regHit with
        | some h => s.ignored src off (if h.row.acc = .rws then 5 else 4)
        | none => s.ignored src off 4

/-- The status and DETAIL of a write: IGNORED with the reason, when the write raised an ignored write or a key violation
(R181). -/
def writeStatus (before after : State) : Nat × Nat :=
  let news := after.raised.drop before.raised.length
  match news.find? (fun r => match r with
    | .fault 770 k _ _ _ => k == 0x0B || k == 0x0A
    | _ => false) with
  | some (.fault _ k _ d _) => (stIgnored, if k = 0x0A then 0x0A else d)
  | _ => (stOk, 0)

/-- A read of the aligned word at an offset by an initiator, LDX.DATA and the test window included (R29, R52, R487). -/
def State.wordRead (s : State) (port off : Nat) (ecc : EccResult := .clean) : Word × State :=
  if off = 0x260004 then s.ldxReadThrough
  else if s.testWindow off then (Config.measured off s.now, s)
  else s.regRead port off ecc

/-- WIDE_VALUE_WRITE: the write of one register of a wide control value (R30). -/
def wideWrite (src : Src) (off : BitVec 24) (v : Word) (s : State) : State := regWrite src off.toNat .word v s

/-- WIDE_VALUE_READ: the read of one register of a wide status value, answered (R31). -/
def wideRead (src : Src) (off : BitVec 24) (s : State) : State :=
  let (v, s) := s.wordRead src.port.toNat (off.toNat / 4 * 4)
  s.emit (.answer src stOk (leBytes v.toNat 4))

end Sys2Proof.Machine
end

