-- ==== Sys2Proof/Machine/LocalMap.lean ====
section
/-! DEFINITION. The local map of a hub (R169 to R172): which region an address lies in, and what a read or a write of it
does, with its status. -/

namespace Sys2Proof.Machine

/-! ### Regions -/

/-- First byte and size of the regions 0 to 5 (R169). -/
def regionRange : Nat → Nat × Nat
  | 0 => (0, 0x1000000)
  | 1 => (0x10000000, 0x200000)
  | 2 => (0x20000000, 0x100000)
  | 3 => (0x30000000, 0x40000)
  | 4 => (0x40000000, 0x40000)
  | _ => (0x100000000, 0x400000)

/-- An address lies in a region. -/
def inRegion (r a : Nat) : Bool := decide ((regionRange r).1 ≤ a ∧ a < (regionRange r).1 + (regionRange r).2)

/-- The region of an address. -/
def regionOf (a : Nat) : Option Nat := (List.range 6).find? (fun r => inRegion r a)

/-- The region nearest below an address (R181). -/
def regionBelow (a : Nat) : Nat :=
  (List.range 6).foldl (fun m r => if (regionRange r).1 ≤ a then r else m) 0xFF

/-- The one region that holds k bytes from an address, or the region nearest below the first byte outside. -/
def spanRegion (a k : Nat) : Nat ⊕ Nat :=
  match regionOf a with
  | none => .inr (regionBelow a)
  | some r => if inRegion r (a + k - 1) then .inl r else .inr r

/-! ### Side-effect pages (R170, R180) -/

/-- The word at an aligned local address is a POP location. -/
def isPopWord (a : Nat) : Bool :=
  if a < 0x1000000 then isPop a else decide (0x30021000 ≤ a ∧ a < 0x30021100) && a % 16 == 0

/-- A 4 KiB page of the local map holds a POP location. -/
def sidePage (page : Nat) : Bool := (List.range 1024).any (fun i => isPopWord (page * 4096 + 4 * i))

/-- A read of n words from an aligned address touches a side-effect page. -/
def touchesSidePage (a n : Nat) : Bool := sidePage (a / 4096) || sidePage ((a + 4 * n - 1) / 4096)

/-- The POP mask of n words from an aligned address. -/
def popMask (a n : Nat) : Nat :=
  (List.range n).foldl (fun m i => if isPopWord (a + 4 * i) then m + 2 ^ i else m) 0

/-! ### Reads -/

/-- What a local access comes to: status, DETAIL and data of R181. -/
structure LocalResult where
  status : Nat := 0
  detail : Nat := 0
  data : List Byte := []
deriving DecidableEq, Repr

/-- A read of a protected memory: error correction counts against the row, and a word found uncorrectable fails the read
(R171, R558 to R560). -/
def State.memoryRead (s : State) (mid : Nat) (m : List Host.Cell) (o k : Nat) (ecc : EccResult) : LocalResult × State :=
  let s := s.rowResult mid (o / 512) ecc
  if ecc = .uncorrectable then ({ status := stUncorr }, s) else ({ data := memReadN m o k }, s)

/-- One word of the capture queue page: the head of a queue, the high word of the entry last popped, the number of entries
held, or 0 (R264). -/
def State.captureWord (s : State) (o : Nat) (ecc : EccResult) : Nat × State :=
  let q := o / 16
  match o % 16 with
  | 0 =>
    let (v, s) := s.capturePop q ecc
    (v.toNat % 2 ^ 32, s)
  | 4 => ((s.capQ q).last.toNat / 2 ^ 32, s)
  | 8 => ((s.capQ q).entries.length, s)
  | _ => (0, s)

/-- The word of the capture queue page at an offset of the region (R264). -/
def State.captureAt (s : State) (ecc : EccResult) (a : Nat) : Nat × State := s.captureWord (a % 0x100) ecc

/-- The words that k bytes from an address touch, read one after the other by a reader of words. -/
def State.readWords (s : State) (word : State → Nat → Nat × State) (a k : Nat) : List Byte × State :=
  let first := a / 4 * 4
  let n := (a + k - first + 3) / 4
  let (bytes, s) := (List.range n).foldl (fun (r : List Byte × State) i =>
    let (v, s) := word r.2 (first + 4 * i)
    (r.1 ++ leBytes v 4, s)) ([], s)
  (slice bytes (a - first) k, s)

/-- A read of the action banks' region (10, R264): the shadow bank, the append page, which reads 0, and the capture queue
page. -/
def State.actionRead (s : State) (o k : Nat) (ecc : EccResult) : LocalResult × State :=
  if o + k ≤ 0x20000 then s.memoryRead (if s.act.active then 0x26 else 0x27) s.act.shadow o k ecc
  else if 0x20000 ≤ o ∧ o + k ≤ 0x20100 then ({ data := List.replicate k 0 }, s)
  else if 0x21000 ≤ o ∧ o + k ≤ 0x21100 then
    let (d, s) := s.readWords (fun s a => s.captureAt ecc a) o k
    ({ data := d }, s)
  else ({ status := stAddr, detail := 3 }, s)

/-- A read of the bulk buffer window: 64 bytes to a cell, after correction (R172). Whether one or two bytes were corrected
is a free value. -/
def State.bufferRead (s : State) (o k : Nat) (ecc : EccResult) : LocalResult × State :=
  let cell := BitVec.ofNat 16 (o / 64)
  let s := match ecc with
    | .clean => s
    | .corrected => s.lineReport (if (Config.measured 0x060094 s.now).toNat % 2 = 0 then .one cell else .two cell)
    | .uncorrectable => s.lineReport (.bad cell)
  if ecc = .uncorrectable then ({ status := stUncorr }, s)
  else
    ({ data := (List.range k).map (fun i =>
        if (o + i) / 64 < s.capCells then Config.bufferByte s.now ((o + i) / 64) ((o + i) % 64) else 0) }, s)

/-- A read of k bytes of the local map by an initiator (R169); `ecc` is what error correction finds on the way. -/
def State.localRead (s : State) (src : Src) (a k : Nat) (ecc : EccResult) : LocalResult × State :=
  match spanRegion a k with
  | .inr r => ({ status := stAddr, detail := r }, s)
  | .inl r =>
    let o := a - (regionRange r).1
    match r with
    | 0 =>
      let (d, s) := s.readWords (fun s w =>
        let (v, s) := s.wordRead src.port.toNat w ecc
        (v.toNat, s)) o k
      ({ data := d }, s)
    | 1 => s.memoryRead 0x24 s.shared o k ecc
    | 2 => s.memoryRead 0x1F s.image o k ecc
    | 3 => s.actionRead o k ecc
    | 4 =>
      if o + k ≤ 0x10000 then s.memoryRead (if s.brg.active then 0x28 else 0x29) s.brg.shadow o k ecc
      else ({ status := stAddr, detail := 4 }, s)
    | _ => s.bufferRead o k ecc

/-! ### Writes -/

/-- The bytes of a write that are enabled, as runs of adjacent bytes with their addresses. -/
def writeRuns : List (Option Byte) → Nat → List (Nat × List Byte)
  | [], _ => []
  | none :: r, a => writeRuns r (a + 1)
  | some b :: r, a =>
    match writeRuns r (a + 1) with
    | (x, bs) :: rest => if x = a + 1 then (a, b :: bs) :: rest else (a, [b]) :: (x, bs) :: rest
    | [] => [(a, [b])]

/-- The first failure of two results. -/
def firstFailure (x y : Nat × Nat) : Nat × Nat := if x.1 = stOk then y else x

/-- The enabled bytes of a write into the register window, word by word: a whole aligned word is one write, a part of one
a narrow write (R29, R457). -/
def State.registerBytes (s : State) (src : Src) (o : Nat) (bytes : List (Option Byte)) : (Nat × Nat) × State :=
  let first := o / 4 * 4
  let n := (o + bytes.length - first + 3) / 4
  let all := List.replicate (o - first) none ++ bytes
  (List.range n).foldl (fun (r : (Nat × Nat) × State) i =>
    let word := slice all (4 * i) 4
    let vals := word.filterMap id
    match (List.range 4).find? (fun j => (word.getD j none).isSome) with
    | none => r
    | some j =>
      let size : Width := if vals.length = 4 then .word else .byte
      let t := regWrite src (first + 4 * i + j) size (BitVec.ofNat 32 (leNat vals)) r.2
      (firstFailure r.1 (writeStatus r.2 t), t)) ((stOk, 0), s)

/-- A write to the action banks' region (R253, R256, R264). -/
def State.actionWrite (s : State) (runs : List (Nat × List Byte)) : (Nat × Nat) × State :=
  let within (lo hi : Nat) : Bool := runs.all (fun r => decide (lo ≤ r.1 ∧ r.1 + r.2.length ≤ hi))
  if within 0 0x20000 then
    ((stOk, 0), runs.foldl (fun (s : State) r => actShadowWrite (BitVec.ofNat 17 r.1) r.2 s) s)
  else if runs.any (fun r => decide (0x20100 < r.1 + r.2.length)) then ((stAddr, 3), s)
  else match runs with
    | [(o, bs)] =>
      if o < 0x20000 then ((stFormat, 0), s)
      else match s.appendWrite (o - 0x20000) bs with
        | some s => ((stOk, 0), s)
        | none => ((stFormat, 0), s)
    | _ => ((stFormat, 0), s)

/-- A write of the enabled bytes among those from an address of the local map (R169 to R172, R189). -/
def State.localWrite (s : State) (src : Src) (a : Nat) (bytes : List (Option Byte)) : (Nat × Nat) × State :=
  match writeRuns bytes a with
  | [] => ((stOk, 0), s)
  | (lo, b0) :: rest =>
    let runs := (lo, b0) :: rest
    let hi := runs.foldl (fun m r => max m (r.1 + r.2.length)) lo
    match spanRegion lo (hi - lo) with
    | .inr r => ((stAddr, r), s)
    | .inl r =>
      let base := (regionRange r).1
      let at0 := runs.map (fun e => (e.1 - base, e.2))
      match r with
      | 0 => s.registerBytes src a bytes
      | 1 => ((stOk, 0), { s with shared := at0.foldl (fun m e => memWriteN m e.1 e.2) s.shared })
      | 2 => ((stOk, 0), { s with image := at0.foldl (fun m e => memWriteN m e.1 e.2) s.image })
      | 3 => s.actionWrite at0
      | 4 =>
        if hi - base ≤ 0x10000 then
          ((stOk, 0), at0.foldl (fun (s : State) e => brgShadowWrite (BitVec.ofNat 16 e.1) e.2 s) s)
        else ((stAddr, 4), s)
      | _ => ((stAddr, 5), s)

end Sys2Proof.Machine
end

