-- ==== Sys2Proof/Machine/XactOps.lean ====
section
/-! DEFINITION. Fabric transactions (07): accesses through the aperture and its windows, and the target side that performs
reads and writes for other hubs. -/

namespace Sys2Proof.Machine

/-! ### Windows (R173, R174) -/

/-- The applied settings of a window. -/
structure Window where
  en : Bool
  pw : Bool
  pref : Bool
  mc : Bool
  hop : Bool
  hpath : Bool
  dom : Nat
  size : Nat
  ports : Nat
  base : Nat
  node : Nat
  tsel : Nat

/-- Window k as function 5 applies it. -/
def State.window (s : State) (k : Nat) : Window :=
  let b := 0x070100 + 0x20 * k
  let c := s.ap b
  let size := 4096 * 2 ^ nbits c 5 2
  let raw := s.ap (b + 8) * 2 ^ 12 + s.ap (b + 12) * 2 ^ 28 + s.af (b + 16) 3 0 * 2 ^ 44
  { en := nbit c 15, pw := nbit c 14, pref := nbit c 13, mc := nbit c 12, hop := nbit c 11, hpath := nbit c 10
    dom := nbits c 9 6, size := size, ports := s.af (b + 4) 3 0, base := raw / size * size
    node := s.af (b + 20) 15 4, tsel := s.af (b + 20) 3 2 }

/-- The number that names the target of a window in a prefetch block. -/
def Window.target (w : Window) : Nat := w.node + w.tsel * 2 ^ 12 + bitAt w.hop 14 + bitAt w.hpath 15

/-- The source that a completion names as its initiator (FUNC.IGNSRC). -/
def State.whoSrc (s : State) (w : Who) : Src :=
  let own (p : BitVec 3) : Src := { port := p, slot := s.slot, node := 0xFFF }
  match w with
  | .plain src => src
  | .ncp .a => own 0
  | .ncp .b => own 1
  | .pcie | .dma _ _ => own 2
  | .block _ => own 3

/-- The pair whose access it is (R393). -/
def Who.owner : Who → Option Pair
  | .ncp p => some p
  | _ => none

/-! ### Splitting and frames (R176, R179, R180) -/

/-- The parts of an access, split at 512-byte boundaries of the target's local address: offset in the access, length. -/
def splitParts : Nat → Nat → Nat → Nat → List (Nat × Nat)
  | 0, _, _, _ => []
  | k + 1, addr, i, len =>
    if len = 0 then []
    else
      let n := min len (512 - (addr + i) % 512)
      (i, n) :: splitParts k addr (i + n) (len - n)

/-- The byte enables of the word at `w` for the bytes from a to e. -/
def byteEnables (w a e : Nat) : Nat := (List.range 4).foldl (fun m i => if a ≤ w + i ∧ w + i < e then m + 2 ^ i else m) 0

/-- The payload of a write of some bytes at an address: enables, then the words that hold them. -/
def writePayload (a : Nat) (data : List Byte) : List Byte :=
  let e := a + data.length
  let first := a / 4 * 4
  let words := (e - first + 3) / 4
  let fbe := byteEnables first a e
  let lbe := if words = 1 then 0 else byteEnables (first + 4 * (words - 1)) a e
  beBytes (fbe + lbe * 16) 4 ++ List.replicate (a - first) 0 ++ data ++ List.replicate (first + 4 * words - e) 0

/-! ### Accesses (R173 to R178, R186, R191) -/

/-- The address that an access reaches, and the way its transactions take. -/
structure Reach where
  win : Window
  dest : Nat
  route : Route
  dom : Nat

/-- A window's access refused at the initiator: a posted write is logged and completes, any other completes with the
status (R186, R187). -/
def State.refuseAccess (s : State) (who : Who) (write posted : Bool) (len dom addr status detail : Nat) : State :=
  if posted then
    (s.pelLog status dom (tabGet 0 s.xact.counts dom) detail 0xFFF 0 addr).completeTo who write len stOk 0 len []
  else s.completeTo who write len status detail 0 []

/-- The transactions of an access issued in ascending order (R176). -/
def State.issueAccess (s : State) (who : Who) (r : Reach) (write posted : Bool) (addr len : Nat) (data : List Byte) :
    State :=
  let parts := splitParts (len / 512 + 2) addr 0 len
  let id := s.xact.nextAccess
  let acc : Access := { who := who, write := write, lens := parts.map Prod.snd }
  let s := { s with xact := { s.xact with nextAccess := id + 1, accesses := tabSet none s.xact.accesses id (some acc) } }
  let h : Hdr := { dest := BitVec.ofNat 12 r.dest, hop := r.win.hop, mc := r.win.mc
                   tsel := if r.win.mc ∨ r.win.hop then 0 else BitVec.ofNat 2 r.win.tsel }
  (List.range parts.length).foldl (fun (s : State) i =>
    let (o, n) := parts.getD i (0, 0)
    let a := addr + o
    let q : Request :=
      if write then
        { hdr := { h with typ := if posted then 3 else 4, addr := BitVec.ofNat 48 (a / 4 * 4) }
          payload := writePayload a (slice data o n), route := r.route, dom := r.dom, posted := posted, access := id
          part := i, len := n, owner := who.owner }
      else
        { hdr := { h with typ := 5, addr := BitVec.ofNat 48 a }, payload := beBytes n 4, route := r.route, dom := r.dom
          posted := false, access := id, part := i, len := n, owner := who.owner }
    s.sendRequest q) s

/-- A prefetch line that has reached XACT.PFAGE (R191). -/
def State.lineAged (s : State) (l : PfLine) : Bool := decide (l.since + s.af 0x07000C 15 0 * ticksPerUs ≤ s.now)

/-- A read through a window with PREF: from the line that holds its block, or through a fetch of the whole block
(R191). -/
def State.prefetchRead (s : State) (who : Who) (r : Reach) (k addr len : Nat) : State :=
  let key : PfKey := { win := k, target := r.win.target, block := addr / 256 * 256 }
  let s := s.discardWhere s.lineAged
  match s.xact.lines.find? (fun l => l.key == key) with
  | some l =>
    let (d, s) := s.serveLine l (addr % 256) len
    s.completeTo who false len stOk 0 len d
  | none =>
    let id := s.xact.nextAccess
    let acc : Access := { who := who, write := false, lens := [len] }
    let s := { s with xact := { s.xact with nextAccess := id + 1, accesses := tabSet none s.xact.accesses id (some acc) } }
    let h : Hdr := { dest := BitVec.ofNat 12 r.dest, hop := r.win.hop, tsel := if r.win.hop then 0 else BitVec.ofNat 2 r.win.tsel
                     typ := 5, addr := BitVec.ofNat 48 key.block }
    s.sendRequest { hdr := h, payload := beBytes 256 4, route := r.route, dom := r.dom, posted := false, access := id
                    part := 0, len := len, fetch := some (key, addr % 256), owner := who.owner }

/-- A prefetch line that a write of k bytes through a window overlaps (R191). -/
def overlaps (w : Window) (addr k : Nat) (l : PfLine) : Bool :=
  l.key.target == w.target && decide (addr < l.key.block + 256 ∧ l.key.block < addr + k)

/-- An access performed locally, without the ring and without a permit check; a posted write completes as sent (R177). -/
def State.localAccess (s : State) (who : Who) (write posted : Bool) (addr len : Nat) (data : List Byte) (ecc : EccResult) :
    State :=
  let src := s.whoSrc who
  if write then
    let ((st, det), s) := s.localWrite src addr (data.map some)
    if posted then s.completeTo who true len stOk 0 len []
    else s.completeTo who true len st det (if st = stOk then len else 0) []
  else
    let (r, s) := s.localRead src addr len ecc
    s.completeTo who false len r.status r.detail (if r.status = stOk then len else 0) r.data

/-- An access of an initiator at an aperture offset (R173, R177, R178, R186, R191, R194). -/
def State.aperture (s : State) (who : Who) (a : Nat) (write : Bool) (len : Nat) (data : List Byte) (ecc : EccResult) :
    State :=
  let k := a / 2 ^ 24 % 64
  let o := a % 2 ^ 24
  let w := s.window k
  let posted := write && w.pw && !w.hop
  let addr := w.base + o
  let own : Bool := s.isOwn w.node && !w.hop && !w.mc
  let refuse (st det : Nat) : State := s.refuseAccess who write posted len w.dom addr st det
  if !w.en ∨ !nbit w.ports (s.whoSrc who).port.toNat ∨ w.size < o + len ∨ (w.mc ∧ !posted) then refuse stWindow k
  else if !s.running 5 then refuse stNotRun 0
  else if own && ((w.tsel == 0 && s.ident.lead) || w.tsel == s.slot.toNat + 1) then
    s.localAccess who write posted addr len data ecc
  else if own && !s.linkIsUp .t then refuse stTwinDown 0
  else if !own && !w.hop && s.ident.number == 0xFFF then refuse stNoNode 0
  else
    let r : Reach := { win := w, dest := if own then s.ident.number.toNat else w.node, dom := w.dom
                       route := if own then .twin else if w.hop then .path (!w.hpath) else .ring }
    if write then
      let s := s.discardWhere (overlaps w addr len)
      s.issueAccess who r true posted addr len data
    else if w.pref ∧ len ≤ 256 ∧ addr / 256 = (addr + len - 1) / 256 then s.prefetchRead who r k addr len
    else s.issueAccess who r false false addr len []

/-- APERTURE_ACCESS by an initiator port, by the host through BAR2 (R457), or by a DMA channel for the descriptor it
processes (R463). A write carries as many bytes as its length. -/
def apertureAccess (i : Initiator) (a : BitVec 30) (write : Bool) (len : BitVec 13) (data : List Byte) (ecc : EccResult)
    (s : State) : State :=
  let n := len.toNat
  if n = 0 ∨ (write ∧ data.length ≠ n) then s
  else match i with
    | .port src => s.aperture (.plain src) a.toNat write n data ecc
    | .bar2 => if s.running 11 ∧ s.pcie.linkUp ∧ n ≤ 4096 then s.aperture .pcie a.toNat write n data ecc else s
    | .dma c =>
      if s.dmaDue c.toNat ∧ (s.dmac c.toNat).reading.isSome then s.aperture (.dma c.toNat a.toNat) a.toNat write n data ecc
      else s

/-! ### The target side (R179 to R194) -/

/-- Whether this hub serves a request now: function 5 RUNNING, a hop-addressed request in every state, and over the twin
port a bare hub (R194, R589). -/
def State.serves (s : State) (d : Delivered) : Bool :=
  s.running 5 || d.h.hop || (d.port == .t && s.waitsForImage)

/-- What a request comes to at its initiator: a response, an error message for a failed posted write, nothing for a
multicast write, and nothing towards a node that has no number on the ring (R182 to R184, R194). -/
def State.answerRequest (s : State) (d : Delivered) (status detail : Nat) (data : List Byte := []) (mask : Option Nat := none) :
    State :=
  let h := d.h
  let posted := h.typ == 3
  if h.mc || (posted && (status == stOk || status == stIgnored)) || (h.src == 0xFFF && !h.hop && d.port != .t) then s
  else
    let word := status + detail * 256 + bitAt posted 31
    let m := match mask with
      | some m => beBytes m 16
      | none => []
    s.respond h (status != stOk) mask.isSome (beBytes word 4 ++ m ++ data) d.port

/-- A payload of whole words, and how many. -/
def payloadWords (p : List Byte) : Nat := p.length / 4

/-- A write request is laid out as R180 says. -/
def writeOk (d : Delivered) : Bool :=
  let w0 := beNat (d.payload.take 4)
  let n := payloadWords d.payload - 1
  decide (4 ≤ d.payload.length) && decide (w0 < 256) && decide (1 ≤ n ∧ n ≤ 128) && d.h.addr.toNat % 4 == 0 &&
    (n != 1 || nbits w0 7 4 == 0)

/-- The enabled bytes of a write request (R180). -/
def writeBytes (d : Delivered) : List (Option Byte) :=
  let w0 := beNat (d.payload.take 4)
  let n := payloadWords d.payload - 1
  let data := slice d.payload 4 (4 * n)
  (List.range (4 * n)).map (fun i =>
    let e := if i / 4 = 0 then nbits w0 3 0 else if i / 4 = n - 1 then nbits w0 7 4 else 15
    if nbit e (i % 4) then data[i]? else none)

/-- A source may write into a region (R192). -/
def State.permitted (s : State) (node slot region : Nat) : Bool :=
  (List.range 16).any (fun k =>
    let b := 0x070E00 + 0x10 * k
    s.rb (b + 8) 15 && decide (s.rf b 11 0 ≤ node ∧ node ≤ s.rf (b + 8) 11 0) && s.rb (b + 8) (13 + slot) &&
      s.rb (b + 4) region)

/-- The region that the enabled bytes of a write touch, or the region nearest below one that lies outside (R169, R172). -/
def writeRegion (a : Nat) (bytes : List (Option Byte)) : Option (Nat ⊕ Nat) :=
  match writeRuns bytes a with
  | [] => none
  | (lo, b) :: rest =>
    let hi := rest.foldl (fun m r => max m (r.1 + r.2.length)) (lo + b.length)
    match spanRegion lo (hi - lo) with
    | .inl 5 => some (.inr 5)
    | r => some r

/-- A write for another hub: checked, performed whole, and answered (R180, R182, R183, R188, R192, R194). -/
def State.serveWrite (s : State) (d : Delivered) : State :=
  if d.late then s.answerRequest d stLate 0
  else if !s.serves d then s.answerRequest d stNotRun 0
  else if !writeOk d then s.answerRequest d stFormat 0
  else
    let bytes := writeBytes d
    let a := d.h.addr.toNat
    match writeRegion a bytes with
    | none => s.answerRequest d stOk 0
    | some (.inr r) => s.answerRequest d stAddr r
    | some (.inl r) =>
      if s.permitted d.h.src.toNat d.h.sslot.toNat r then
        let ((st, det), s) := s.localWrite { port := 4, slot := d.h.sslot, node := d.h.src } a bytes
        s.answerRequest d st det
      else ((s.bump 0x070A84).faultMs 578 0x63 0 (d.h.src.toNat % 2048)).answerRequest d stPermit r

/-- A read for another hub: the words that hold the bytes, with RSE and a POP mask on a side-effect page (R170, R180,
R188, R194). -/
def State.serveRead (s : State) (d : Delivered) (ecc : EccResult) : State :=
  let n := beNat (d.payload.take 4)
  if d.late then s.answerRequest d stLate 0
  else if !s.serves d then s.answerRequest d stNotRun 0
  else if d.payload.length ≠ 4 ∨ n = 0 ∨ 512 < n then s.answerRequest d stFormat 0
  else
    let first := d.h.addr.toNat / 4 * 4
    let words := (d.h.addr.toNat + n - first + 3) / 4
    let (r, s) := s.localRead { port := 4, slot := d.h.sslot, node := d.h.src } first (4 * words) ecc
    if r.status = stOk then
      s.answerRequest d stOk 0 r.data (if touchesSidePage first words then some (popMask first words) else none)
    else s.answerRequest d r.status r.detail

/-- The requests of one stream are performed in sequence order (R189). -/
def transactions : List Sink := [.write, .nonPosted, .read]

/-- POSTED_WRITE_RECEIVED. -/
def xactPosted (s : State) : State :=
  match s.takeTurn .write transactions with
  | none => s
  | some (d, s) => s.serveWrite d

/-- NON_POSTED_WRITE_RECEIVED. -/
def xactNonPosted (s : State) : State :=
  match s.takeTurn .nonPosted transactions with
  | none => s
  | some (d, s) => s.serveWrite d

/-- READ_REQUEST_RECEIVED; `ecc` is what error correction finds at the read. -/
def xactRead (ecc : EccResult) (s : State) : State :=
  match s.takeTurn .read transactions with
  | none => s
  | some (d, s) => s.serveRead d ecc

/-! ### BAR0 and BAR4 (R457) -/

/-- A BAR request can reach the hub: function 11 runs and its link is up. -/
def State.barOpen (s : State) : Bool := s.running 11 && s.pcie.linkUp

/-- The source of a PCIe access. -/
def State.pcieSrc (s : State) : Src := { port := 2, slot := s.slot, node := 0xFFF }

/-- BAR0_ACCESS: at most 16 DW of the register window, each with its byte enables; a read has every byte enabled that it
wants and answers with whole DWs (R29, R457). -/
def bar0Access (off : BitVec 24) (write : Bool) (data : List (Option Byte)) (s : State) : State :=
  let o := off.toNat
  if !s.barOpen ∨ o % 4 ≠ 0 ∨ data = [] ∨ data.length % 4 ≠ 0 ∨ 64 < data.length ∨ 2 ^ 24 < o + data.length then s
  else if write then (s.localWrite s.pcieSrc o data).2
  else
    let (r, s) := s.localRead s.pcieSrc o data.length .clean
    s.emit (.completion 0 r.data)

/-- The local address of a BAR4 offset. -/
def bar4Local (o : Nat) : Option Nat :=
  if o < 0x200000 then some (0x10000000 + o)
  else if o < 0x300000 then some (0x20000000 + (o - 0x200000))
  else if o < 0x340000 then some (0x30000000 + (o - 0x300000))
  else if o < 0x380000 then some (0x40000000 + (o - 0x340000))
  else if o < 0x400000 then none
  else some (0x100000000 + (o - 0x400000))

/-- BAR4_ACCESS: regions 1 to 5 as local accesses; outside them Unsupported Request (R177, R457). -/
def bar4Access (off : BitVec 23) (write : Bool) (len : BitVec 13) (data : List (Option Byte)) (ecc : EccResult) (s : State) :
    State :=
  let o := off.toNat
  let n := len.toNat
  if !s.barOpen ∨ n = 0 ∨ 4096 < n ∨ (write ∧ data.length ≠ n) ∨ 2 ^ 23 < o + n then s
  else match bar4Local o, bar4Local (o + n - 1) with
    | some a, some e =>
      if e ≠ a + n - 1 then if write then s else s.emit (.completion 1 [])
      else if write then (s.localWrite s.pcieSrc a data).2
      else
        let (r, s) := s.localRead s.pcieSrc a n ecc
        s.pcieComplete r.status false n r.data
    | _, _ => if write then s else s.emit (.completion 1 [])

end Sys2Proof.Machine
end

