-- ==== Sys2Proof/Machine/Image.lean ====
section
/-! DEFINITION. Thallus images and the default overlay as byte strings (03): header, sections, records and trailer, what
each section may address, and authentication. -/

namespace Sys2Proof.Machine

/-! ### Records (R67) -/

/-- A record of a section: a register write, into the window or into a line die, or a memory load. -/
inductive ImgRec where
  | reg (off : Nat) (mask value : Nat)
  | ld (die word : Nat) (mask value : Nat)
  | mem (addr : Nat) (data : List Byte)
deriving DecidableEq, Repr

/-- The first record of some bytes, and how long it is. -/
def parseRec (b : List Byte) : Option (ImgRec × Nat) :=
  let w := leNat (b.take 4)
  match nbits w 31 30 with
  | 1 =>
    if b.length < 8 then none
    else
      let mask := leNat (slice b 4 2)
      let value := leNat (slice b 6 2)
      let off := nbits w 23 0
      some (if nbit w 29 then .ld (nbits w 28 28) off mask value else .reg off mask value, 8)
  | 2 =>
    let n := nbits w 23 0
    let a := leNat (slice b 4 8)
    if b.length < 12 + n ∨ n % 4 ≠ 0 ∨ 2 ^ 48 ≤ a then none else some (.mem a (slice b 12 n), 12 + n)
  | _ => none

/-- The records that fill some bytes; none when they do not parse. -/
def parseRecs : Nat → List Byte → Option (List ImgRec)
  | 0, b => if b = [] then some [] else none
  | k + 1, b =>
    if b = [] then some []
    else match parseRec b with
      | none => none
      | some (r, n) => (parseRecs k (b.drop n)).map (r :: ·)

/-! ### What a section may address (R68, R411) -/

/-- A local range lies within another. -/
def within (a n lo size : Nat) : Bool := decide (lo ≤ a ∧ a + n ≤ lo + size)

/-- Offsets in the block of a frond. -/
def inFrond (off lo hi : Nat) : Bool :=
  decide (0x100000 ≤ off ∧ off < 0x200000) && decide (lo ≤ off % 0x10000 ∧ off % 0x10000 < hi)

/-- A control register of the window. -/
def isControl (off : Nat) : Bool :=
  match regHit off with
  | some h => match h.row.acc with
    | .ro | .pop | .wo => false
    | _ => true
  | none => false

/-- A section of a type may hold a record (R68). -/
def mayHold (typ : Nat) (r : ImgRec) : Bool :=
  match r with
  | .reg off _ _ =>
    let k := off / 0x10000
    match typ with
    | 1 => k == 0x01 || decide (0x220000 ≤ off ∧ off < 0x220100)
    | 2 => k == 2 || k == 3 || decide (0x040000 ≤ off ∧ off < 0x041000) || k == 5 || k == 6
    | 3 => k == 8
    | 4 => k == 9 || inFrond off 0x200 0x300
    | 5 => decide (0x10 ≤ k ∧ k < 0x20)
    | 6 => decide (0x220100 ≤ off ∧ off < 0x230000)
    | 7 => inFrond off 0x1000 0x3000
    | 8 => inFrond off 0x100 0x200 || k == 0x0C || k == 0x0B
    | 9 => k == 0x0A
    | 10 => k == 7
    | 11 => k == 0x0F || k == 0x20 || k == 0x0D
    | 12 => k == 0x21
    | 13 => decide (0x041000 ≤ off ∧ off < 0x050000)
    | 14 => k == 0x0E
    | _ => isControl off && !([0x00, 0x01, 0x23, 0x24, 0x25].contains k)
  | .ld _ word _ _ =>
    decide (word < 0x4000) &&
    match typ with
    | 5 => decide (0x100 ≤ word ∧ word < 0x800)
    | 6 => decide (0x1000 ≤ word ∧ word < 0x1100)
    | 15 => true
    | _ => false
  | .mem a d =>
    match typ with
    | 8 => within a d.length 0x40000000 0x10000
    | 9 => within a d.length 0x30000000 0x20000
    | 14 => within a d.length 0x101B0000 0x50000 || [0x18000000, 0x18040000, 0x18080000, 0x180C0000].any (fun lo =>
        within a d.length lo 0x40000)
    | _ => false

/-! ### Header and sections (R65, R66) -/

/-- An entry of the section table. -/
structure Section where
  typ : Nat
  critical : Bool
  off : Nat
  len : Nat
deriving DecidableEq, Repr

/-- The section table of an image. -/
def sectionTable (b : List Byte) : List Section :=
  (List.range (leNat (slice b 10 2))).map (fun i =>
    let e := slice b (64 + 16 * i) 16
    { typ := leNat (slice e 0 2), critical := nbit (leNat (slice e 2 2)) 0, off := leNat (slice e 4 4), len := leNat (slice e 8 4) })

/-- A section type that R68 lists, besides NOTE, which is never applied. -/
def boundType (t : Nat) : Bool := decide (1 ≤ t ∧ t ≤ 15)

/-- The records of a section; none when it does not parse or holds a record outside its range. -/
def sectionRecs (b : List Byte) (e : Section) : Option (List ImgRec) :=
  match parseRecs (e.len / 8 + 1) (slice b e.off e.len) with
  | some rs => if rs.all (mayHold e.typ) then some rs else none
  | none => none

/-- The entries of the table are laid out as R66 says in an image of n bytes. -/
def tableOk (b : List Byte) (n : Nat) : Bool :=
  let t := sectionTable b
  let first := 64 + 16 * t.length
  (List.range t.length).all (fun i => leNat (slice b (64 + 16 * i + 12) 4) == 0) &&
    t.all (fun e => e.off % 4 == 0 && decide (first ≤ e.off ∧ e.off + e.len + 128 ≤ n) &&
      (boundType e.typ || e.typ == 0x7F || !e.critical)) &&
    decide (t.Pairwise (fun x y => x.off + x.len ≤ y.off ∨ y.off + y.len ≤ x.off ∨ x.len = 0 ∨ y.len = 0))

/-- The length that an image header names. -/
def imageLength (b : List Byte) : Nat := leNat (slice b 12 4)

/-- The first check of R70: header, section table and record ranges; 0 when they pass, else the result code of R88. -/
def imageFormat (svn : Nat) (b : List Byte) : Nat :=
  let n := imageLength b
  if b.length < 64 ∨ leNat (slice b 0 4) ≠ 0x4C414854 ∨ leNat (slice b 4 2) ≠ 1 then 1
  else if leNat (slice b 6 2) ≠ 0x7416 ∨ 0x10 < (b.getD 8 0).toNat then 4
  else if 63 < (b.getD 9 0).toNat then 1
  else if (b.getD 9 0).toNat < svn then 0xB
  else if leNat (slice b 10 2) = 0 ∨ 64 < leNat (slice b 10 2) ∨ n % 64 ≠ 0 ∨ 1769472 < n ∨ b.length < n ∨
      0x4000 ≤ leNat (slice b 24 2) ∨ leNat (slice b 26 2) ≠ 0 ∨ leNat (slice b 36 28) ≠ 0 ∨
      n < 192 + 16 * leNat (slice b 10 2) then 1
  else if !tableOk b n then 1
  else if ((sectionTable b).filter (fun e => boundType e.typ)).all (fun e => (sectionRecs b e).isSome) then 0
  else 1

/-! ### Authentication (R69 to R71) -/

/-- A trusted key: the digest of a programmed slot that is not revoked (R70). -/
def State.trusted (s : State) (digest : List Byte) : Bool :=
  (List.range 4).any (fun k => tabGet [] s.peat.keys k == digest && !nbit s.peat.revoked.toNat k)

/-- Authentication of an image: 0, or the result code of the first check that fails (R70, R71). -/
def State.authenticate (s : State) (b : List Byte) : Nat :=
  let f := imageFormat s.peat.svn.toNat b
  if f ≠ 0 then f
  else
    let n := imageLength b
    let key := slice b (n - 128) 64
    if !s.openHub && !s.trusted (sha256 key) then 3
    else if ecdsaVerify (beNat (key.take 32)) (beNat (key.drop 32)) (beNat (slice b (n - 64) 32))
        (beNat (slice b (n - 32) 32)) (sha256 (b.take (n - 64))) then 0
    else 2

/-- Generation of an image. -/
def imageGen (b : List Byte) : Nat := leNat (slice b 16 4)
/-- Ring id of an image. -/
def imageRing (b : List Byte) : Nat := leNat (slice b 20 4)
/-- Node field of an image. -/
def imageNode (b : List Byte) : Nat := nbits (leNat (slice b 24 2)) 11 0
/-- Security version of an image. -/
def imageSvn (b : List Byte) : Nat := (b.getD 9 0).toNat

/-- The slot binding of an image fits a strap (R77). -/
def bindingOk (b : List Byte) (slot : BitVec 1) : Bool :=
  let v := leNat (slice b 24 2)
  !nbit v 12 || nbits v 13 13 == slot.toNat

/-- The records of an image in the order of R68: by section type, and in image order within one type. -/
def imageRecs (b : List Byte) : List (Nat × ImgRec) :=
  (List.range 15).flatMap (fun i =>
    ((sectionTable b).filter (fun e => e.typ == i + 1)).flatMap (fun e =>
      ((sectionRecs b e).getD []).map (fun r => (i + 1, r))))

/-- The bytes of the STRUCT sections. -/
def structBytes (b : List Byte) : List Byte :=
  ((sectionTable b).filter (fun e => e.typ == 1)).flatMap (fun e => slice b e.off e.len)

/-- The PD4 bit as the records of STRUCT leave it: set by them, or not (R24, R68). -/
def structPd4 (b : List Byte) : Bool :=
  (imageRecs b).foldl (fun on e => match e with
    | (1, .reg 0x220000 mask value) => if nbit mask 4 then nbit value 4 else on
    | _ => on) false

/-- A function that an image makes present (R37, R68, R78): what STRUCT marks, without those that are always ABSENT, and
function 11 only with PD4. -/
def imagePresent (b : List Byte) (id : Nat) : Bool :=
  Config.structPresent (structBytes b) id && !alwaysAbsent id && (id != 11 || structPd4 b)

/-! ### The default overlay (R76) -/

/-- The number of records of an overlay. -/
def overlayCount (b : List Byte) : Nat := leNat (slice b 8 2)

/-- Its generation. -/
def overlayGen (b : List Byte) : Nat := leNat (slice b 4 4)

/-- The bytes of an overlay: header, records and digest. -/
def overlaySize (b : List Byte) : Nat := 16 + 8 * overlayCount b + 32

/-- An overlay that passes its check. -/
def overlayOk (b : List Byte) : Bool :=
  let n := overlaySize b
  leNat (b.take 4) == 0x594C564F && decide (overlayCount b ≤ 8000) && decide (n ≤ b.length) &&
    sha256 (b.take (n - 32)) == slice b (n - 32) 32

/-- The overlay that counts: the copy that passes, of the higher generation, copy 1 on a tie (R63). -/
def State.overlayChoice (s : State) : Option (List Byte) :=
  let b1 := s.peat.ovl1.bytes
  let b2 := s.peat.ovl2.bytes
  let ok1 := s.dieUp 0 && overlayOk b1
  let ok2 := s.dieUp 1 && overlayOk b2
  if ok1 && (!ok2 || decide (overlayGen b2 ≤ overlayGen b1)) then some b1 else if ok2 then some b2 else none

end Sys2Proof.Machine
end

