-- ==== Sys2Proof/Machine/Boot.lean ====
section
/-! DEFINITION. The boot ROM (R73 to R81, R409 to R412, R526, R587 to R591): applying the default overlay and an image, the start
list, the bare hub, RELOAD, and the commands of the peat store that need an image. -/

namespace Sys2Proof.Machine

/-! ### Writes of the boot ROM (R75) -/

/-- The source of a write of the boot ROM (R409). -/
def State.bootSrc (s : State) : Src := { port := 5, slot := s.slot, node := 0xFFF }

/-- A mask and a value as the word of a masked write (R12). -/
def recWord (mask value : Nat) : Word := BitVec.ofNat 32 (mask % 65536 * 65536 + value % 65536)

/-- A write to PWR.DCTL from an image: a cleared bit 9 is applied last (R410, R526). -/
def State.bootDomains (s : State) (v : Word) : State :=
  let off := nbit v.toNat 25 && !nbit v.toNat 9
  let s := if nbit v.toNat 25 then { s with boot := { s.boot with pd9Off := off } } else s
  domainRequest (if off then BitVec.ofNat 32 (v.toNat - 2 ^ 25) else v) s

/-- A register write of the boot ROM: no key guard, whatever the state of the owning function (R75). -/
def State.bootWrite (s : State) (off : Nat) (v : Word) : State :=
  let src := s.bootSrc
  match regHit off with
  | none => s.ignored src off 4
  | some h =>
    match h.row.acc with
    | .ro | .pop => s.ignored src off 5
    | .wo => s.commandWrite src off v
    | .rw => s.rwWrite src off h v
    | .rwp => s.rwpWrite src off h v
    | .rwpPop => ldxDataWrite src v s
    | .rwk => if off = 0x220000 then s.bootDomains v else s.rwkWrite src off h v
    | .rwx => s.put src off h v
    | .rws =>
      let waits : Bool := s.accepts off h v && h.row.wide != .stage
      let s := s.put src off h v
      match h.owner? with
      | some f => if waits then s.setFunc f { s.func f with pend := true } else s
      | none => s

/-- A line-die register takes a record (R75, R302). -/
def State.bootLd (s : State) (off : Nat) (v : Word) : State :=
  match regHit off with
  | none => s.ignored s.bootSrc 0x260004 4
  | some h =>
    if h.row.acc = .ro then s.ignored s.bootSrc 0x260004 5
    else
      let w := maskedWrite (s.rg off) h.row.mask v
      if h.row.ok w.toNat then s.setReg off w else s.ignored s.bootSrc 0x260004 1

/-- A line-die record, once the link of its die is up (R75). -/
def State.bootLdRecord (s : State) (d word : Nat) (v : Word) : State :=
  if (s.die d).linkUp then s.bootLd (ldOff d word) v
  else { s with boot := { s.boot with ldWait := s.boot.ldWait ++ [(ldOff d word, v)] } }

/-- LINE_DIE_LINK_UP: the link is up again, and the records that waited for it are applied (R75, R481). -/
def dieLinkUp (die : Die) (s : State) : State :=
  let d := dieIndex die
  let s := dieUpAgain die s
  let mine (e : Nat × Word) : Bool := (e.1 - 0x1000000) / 0x10000 == d
  let due := s.boot.ldWait.filter mine
  let s := { s with boot := { s.boot with ldWait := s.boot.ldWait.filter (fun e => !mine e) } }
  due.foldl (fun s e => s.bootLd e.1 e.2) s

/-- A memory load of an image, loader ranges included (R68, R411). -/
def State.bootLoad (s : State) (a : Nat) (d : List Byte) : State :=
  if a < 0x18000000 then { s with shared := memWriteN s.shared (a - 0x10000000) d }
  else if a < 0x18040000 then { s with ncpA := { s.ncpA with code := memWriteN s.ncpA.code (a - 0x18000000) d } }
  else if a < 0x18080000 then { s with ncpA := { s.ncpA with data := memWriteN s.ncpA.data (a - 0x18040000) d } }
  else if a < 0x180C0000 then { s with ncpB := { s.ncpB with code := memWriteN s.ncpB.code (a - 0x18080000) d } }
  else if a < 0x18100000 then { s with ncpB := { s.ncpB with data := memWriteN s.ncpB.data (a - 0x180C0000) d } }
  else if a < 0x40000000 then actShadowWrite (BitVec.ofNat 17 (a - 0x30000000)) d s
  else brgShadowWrite (BitVec.ofNat 16 (a - 0x40000000)) d s

/-- A record applied. -/
def State.applyRec (s : State) : ImgRec → State
  | .reg off mask value => s.bootWrite off (recWord mask value)
  | .ld d word mask value => s.bootLdRecord d word (recWord mask value)
  | .mem a d => s.bootLoad a d

/-! ### The overlay (R76) -/

/-- The default overlay applied, records for SYS, FUNC, KEY, PEAT and RPR skipped and counted (R75, R76). -/
def State.applyOverlay (s : State) : State :=
  match s.overlayChoice with
  | none => s
  | some b =>
    let s := { s with boot := { s.boot with overlay := true }, peat := { s.peat with ovlApplied := 0, ovlSkipped := 0 } }
    let skip (s : State) : State := { s with peat := { s.peat with ovlSkipped := s.peat.ovlSkipped + 1 } }
    (List.range (overlayCount b)).foldl (fun (s : State) i =>
      match parseRec (slice b (16 + 8 * i) 8) with
      | some (.reg off mask value, _) =>
        if [0x00, 0x01, 0x23, 0x24, 0x25].contains (off / 0x10000) then skip s
        else State.applyRec { s with peat := { s.peat with ovlApplied := s.peat.ovlApplied + 1 } } (.reg off mask value)
      | some (.ld d word mask value, _) =>
        State.applyRec { s with peat := { s.peat with ovlApplied := s.peat.ovlApplied + 1 } } (.ld d word mask value)
      | _ => skip s) s

/-! ### The start list (R79, R410, R526) -/

/-- Every requested domain is ON or FAILED (R526). -/
def State.domainsReady (s : State) : Bool :=
  (List.range 15).all (fun d => !s.rb 0x220000 d || s.domOn d || (s.dom d).st == .failed)

/-- A ring port that the start list does not start loses its link. -/
def State.dropIdlePort (s : State) (l : Link) : State :=
  let id := if l = .w then 0 else 1
  if (s.func id).st = .stopped ∨ (s.func id).st = .absent then
    if (s.link l).st = .disabled then s else (s.linkDown l 8).portStopped l
  else s

/-- STARTs for the functions of the start list but function 14 (R79). -/
def State.issueStarts (s : State) : State :=
  let s := { s with boot := { s.boot with listDue := false, phase := 4 } }
  let s := (s.startList.filter (· != 14)).foldl (fun (s : State) id => s.funcCommand id 1) s
  (s.dropIdlePort .w).dropIdlePort .e

/-- Pair B leaves the boot ROM: function 14 is started last, when the list names it (R79, R410). -/
def State.leaveRom (start : Bool) (s : State) : State :=
  let s := { s with ncpB := { s.ncpB with bootrom := false } }
  if start then s.funcCommand 14 1 else s

/-- Domain 9 is switched off when the image says so or has made function 14 ABSENT (R78, R410). -/
def State.pairBOff (s : State) : State :=
  if s.boot.pd9Off || (s.func 14).st == .absent then domainRequest (BitVec.ofNat 32 (2 ^ 25)) s else s

/-- The start list is issued: function 14 last, with which pair B leaves the boot ROM; without it pair B stops, and is
powered down when the image has made it ABSENT (R78, R79, R410). -/
def State.issueList (s : State) : State :=
  let s := (State.leaveRom (s.startList.contains 14) s.issueStarts).pairBOff
  { s with boot := { s.boot with pd9Off := false, phase := 5, valid := true, waiting := false } }

/-- The start list, once nothing keeps it waiting (R526). -/
def State.listWatch (s : State) : State := if s.boot.listDue && s.domainsReady then s.issueList else s

/-! ### Applying an image (R75, R77, R78, R81, R591) -/

/-- A function is STOPPED for an image, ring ports keeping their links as they are (R78, R591). -/
def State.forceStop (s : State) (id : Nat) : State :=
  if id < 2 then s
  else if s.active id then ((s.stopOne id false).setFunc id {}).onStopped id else s

/-- RATE, MEDIUM and LOOP of a ring port. -/
def State.portShape (s : State) (l : Link) : Nat := s.rv (linkBase l) % 32

/-- An image that has passed its checks is applied; its start list follows once the domains are ready (R68, R77, R78,
R526, R591). `slot` is 1 or 2, or 0 for the staging area. -/
def State.applyImage (s : State) (b : List Byte) (slot : Nat) : State :=
  let shapes := [Link.w, Link.e].map s.portShape
  let s := (List.range 256).foldl State.forceStop s
  let s := { s with boot := { s.boot with phase := 3, pd9Off := false } }
  let node := if imageNode b = 0xFFF then if slot = 0 then 0xFFF else s.peat.assigned.toNat else imageNode b
  let s := (imageRecs b).foldl (fun s e => s.applyRec e.2) s
  let s := (List.range 256).foldl (fun (s : State) id =>
    s.setFunc id { s.func id with st := if imagePresent b id then .stopped else .absent, presv := false, dirty := false }) s
  let s := { s with
    ident := { s.ident with number := BitVec.ofNat 12 node }
    boot := { s.boot with slot := BitVec.ofNat 2 slot, listDue := true }
    peat := { s.peat with appGen := BitVec.ofNat 32 (imageGen b), appRing := BitVec.ofNat 32 (imageRing b)
                          appNode := BitVec.ofNat 12 (imageNode b), appSvn := BitVec.ofNat 6 (imageSvn b), mixed := false } }
  let s := [Link.w, Link.e].foldl (fun (s : State) l =>
    if (s.link l).st = .up ∧ s.portShape l ≠ shapes.getD (if l = .w then 0 else 1) 0 then linkRetrain l s else s) s
  s.listWatch

/-- The bytes of a slot's image. -/
def State.slotBytes (s : State) (b : Bool) : List Byte := memReadN (s.slotOf b).image 0 (s.slotOf b).len

/-- The bytes of the staging area (R81). -/
def State.stagedBytes (s : State) : List Byte := memReadN s.shared 0 1769472

/-- The staged image as far as its header says it goes. -/
def State.stagedImage (s : State) : List Byte := memReadN s.shared 0 (min 1769472 (max 64 (leNat (memReadN s.shared 12 4))))

/-- The hub waits for an image as a bare hub: it is unnumbered, and it runs the ports, the target side of transactions and
what its straps need (R73, R74, R80, R526, R589). -/
def State.toBare (s : State) : State :=
  let way := s.ident.straps.boot
  let on (d : Nat) (s : State) : State := domainRequest (recWord (2 ^ d) (2 ^ d)) s
  let s := { s with
    ident := { s.ident with number := 0xFFF }
    boot := { s.boot with waiting := true, valid := false, slot := 0
                          phase := if s.rpr.pbFail then 0xE else if way = 2 then 9 else if way = 3 then 0xA else 8 } }
  let s := if way = 2 then on 5 s else if way = 3 then on 4 s else s
  let ids := [0, 1, 2, 5] ++ (if way = 2 then [9, 10] else if way = 3 then [11] else [])
  ids.foldl (fun (s : State) id => if (s.func id).st = .stopped then s.funcCommand id 1 else s) s

/-- The candidates of R73 in their order: a slot in TRIAL, then the GOOD slots by descending generation. -/
def State.candidates (s : State) : List Bool :=
  let st (b : Bool) : Nat := if s.slotReadable b then BitVec.toNat (s.slotOf b).st else 7
  let good := [false, true].filter (fun b => st b == 4)
  let good := if good.length = 2 ∧ s.peat.slotA.gen < s.peat.slotB.gen then good.reverse else good
  [false, true].filter (fun b => st b == 2) ++ good

/-- A slot image authenticated and bound to this hub's slot (R70, R77). -/
def State.judge (s : State) (b : List Byte) : Nat :=
  let r := s.authenticate b
  if r ≠ 0 then r else if bindingOk b s.slot then 0 else 5

/-- Each candidate in turn: one that fails becomes BAD; a TRIAL slot becomes TRYING before it is applied (R73). -/
def State.tryCandidates (s : State) : List Bool → Bool × State
  | [] => (false, s)
  | c :: rest =>
    let b := s.slotBytes c
    let r := s.judge b
    let s := { s with peat := { s.peat with result := BitVec.ofNat 4 r } }
    if r = 0 then
      let x : Slot := s.slotOf c
      let s := if x.st = 2#3 then s.setSlot c { x with st := 3 } else s
      (true, s.applyImage b (if c then 2 else 1))
    else (s.setSlot c { s.slotOf c with st := 5 }).tryCandidates rest

/-- The selection of R73: TRYING slots become BAD, then the candidates are tried. -/
def State.selectImage (s : State) : Bool × State :=
  let s := { s with boot := { s.boot with phase := 2 } }
  let s := [false, true].foldl (fun (s : State) b =>
    if s.slotReadable b ∧ (s.slotOf b).st = 3 then s.setSlot b { s.slotOf b with st := 5 } else s) s
  s.tryCandidates s.candidates

/-- BOOT_IMAGE: the boot ROM after BISTDONE: overlay, slot selection and application, or the bare hub (R73 to R75, R78,
R410, R553, R587). -/
def bootImage (s : State) : State :=
  if !s.rpr.done || !s.boot.released || s.boot.valid || s.boot.waiting || s.boot.listDue then s
  else if s.rpr.pbFail then s.toBare
  else
    let s := State.applyOverlay { s with boot := { s.boot with phase := 1 } }
    if s.ident.straps.boot = 0 then
      let (ok, s) := s.selectImage
      if ok then s else s.toBare
    else s.toBare

/-- SYS.RESET kind 0b11: every function stops, and the image and its start list are applied again: the slot that R73 selects,
or the staged image when the applied one came from the staging area (R79, R82). -/
def State.reloadAll (s : State) : State :=
  if !s.boot.valid ∧ !s.boot.waiting then s
  else
    let staged : Bool := s.boot.valid && s.boot.slot == 0
    let s := (List.range 256).foldl State.forceStop s
    let s := [0, 1].foldl (fun (s : State) id => s.setFunc id { s.func id with st := if (s.func id).st = .absent then .absent else .stopped }) s
    let s := (State.aliveCheck { s with boot := { s.boot with valid := false, waiting := false, listDue := false }
                                        ncpB := { s.ncpB with bootrom := true } })
    let (ok, s) := if s.ident.straps.boot = 0 then s.selectImage else (false, s)
    if ok then s
    else if staged ∧ s.judge s.stagedImage = 0 then s.applyImage s.stagedImage 0
    else s.toBare

/-! ### APPLYSTAGE and RELOAD (R81, R85 to R87, R412, R590) -/

/-- APPLYSTAGE: a result, and the staged image applied when it is 0x0. -/
def State.applyStage (s : State) : Nat × State :=
  if !s.waitsForImage ∨ s.rpr.pbFail then (6, s)
  else
    let b := s.stagedImage
    let r := s.judge b
    if r ≠ 0 then (r, s) else (0, s.applyImage b 0)

/-- The function to which the address of a record belongs (R27, R85, R301, R412). -/
def recOwner : ImgRec → Option Nat
  | .ld d word _ _ => (regHit (ldOff d word)).bind RegHit.owner?
  | .mem a _ =>
    if 0x18000000 ≤ a ∧ a < 0x18080000 then some 13
    else if 0x18080000 ≤ a ∧ a < 0x18100000 then some 14
    else if 0x30000000 ≤ a ∧ a < 0x30040000 then some 7
    else if 0x40000000 ≤ a ∧ a < 0x40040000 then some 8
    else none
  | .reg off _ _ =>
    let k := off / 0x10000
    if [0x00, 0x01, 0x23, 0x24, 0x25, 0x26].contains k then none
    else match (regHit off).bind RegHit.owner? with
      | some f => some f
      | none => match k with
        | 2 => some 0
        | 3 => some 1
        | 4 => some 2
        | 5 => some 3
        | 6 => some 4
        | 7 => some 5
        | 8 => some 6
        | 9 => some (64 + off % 0x10000 / 0x40)
        | 0x0A => some 7
        | 0x0B => some 8
        | 0x0C => some (32 + off / 0x2000 % 8)
        | 0x0D => some (if off < 0x0D4000 then 9 else 10)
        | 0x0E => some (if off < 0x0E1000 then 13 else 14)
        | 0x0F => some 12
        | 0x20 => some 11
        | 0x21 => some 15
        | 0x22 => none
        | _ =>
          let nn := k - 0x10
          let o := off % 0x10000
          if k < 0x10 ∨ 0x20 ≤ k then none
          else if 0x200 ≤ o ∧ o < 0x300 then some (240 + nn)
          else if 0x100 ≤ o ∧ o < 0x200 then some (208 + 2 * nn + (o - 0x100) / 0x40)
          else some (16 + nn)

/-- RELOAD: a result, and the records of one function and its children applied when it is 0x0. -/
def State.reload (s : State) (c : Bool) (fid : Nat) : Nat × State :=
  let b := s.slotBytes c
  let family := fid :: childrenOf fid
  let r := s.authenticate b
  if !s.slotReadable c then (7, s)
  else if !s.boot.valid then (6, s)
  else if r ≠ 0 then (r, s)
  else if imageRing b ≠ s.peat.appRing.toNat ∨ imageNode b ≠ s.peat.appNode.toNat then (5, s)
  else if (s.func fid).st ≠ .stopped ∨ family.any (fun f => (s.func f).st != .stopped && (s.func f).st != .absent) ∨
      family.any (fun f => imagePresent b f != ((s.func f).st != .absent)) ∨ (fid = 14 ∧ s.ncpB.bootrom) then (0xA, s)
  else
    let recs := (imageRecs b).filter (fun e => match recOwner e.2 with
      | some f => family.contains f
      | none => false)
    let s := recs.foldl (fun s e => s.applyRec e.2) s
    (0, if imageGen b ≠ s.peat.appGen.toNat then { s with peat := { s.peat with mixed := true } } else s)

/-! ### The other commands of the peat store (R82 to R84) -/

/-- PROGRAM: the staged bytes copied into an EMPTY, erased slot; a flash failure leaves what it left (R82, R84, R88). -/
def State.peatProgram (s : State) (c : Bool) (units : Nat) (failed : Bool) : Nat × State :=
  if !s.slotReadable c then (7, s)
  else if s.slotProtected c then (9, s)
  else if (s.slotOf c).st ≠ 0 ∨ !(s.slotOf c).erased then (6, s)
  else if units = 0 ∨ 27648 < units then (1, s)
  else
    let n := 64 * units
    let k := if c then 1 else 0
    let x := s.slotOf c
    if failed then
      (8, s.setSlot c { x with erased := false, len := n
                               image := memWriteN [] 0 ((List.range n).map (fun i => Config.flashResidue k s.now i)) })
    else (0, s.setSlot c { x with erased := false, len := n, image := memWriteN [] 0 (memReadN s.shared 0 n) })

/-- VERIFY: an EMPTY slot whose image authenticates becomes WRITTEN (R82). -/
def State.peatVerify (s : State) (c : Bool) : Nat × State :=
  if !s.slotReadable c then (7, s)
  else
    let b := s.slotBytes c
    let r := s.authenticate b
    let x := s.slotOf c
    if r ≠ 0 then (r, s)
    else if x.st = 0 then
      (0, s.setSlot c { x with st := 1, gen := BitVec.ofNat 32 (imageGen b), svn := BitVec.ofNat 6 (imageSvn b) })
    else (0, s)

/-- OVLWRITE: the staged overlay written to both copies (R82). -/
def State.ovlWrite (s : State) (failed : Bool) : Nat × State :=
  let b := s.stagedBytes
  let bad (k : Nat) : List Byte := (List.range 64).map (fun i => Config.flashResidue k s.now i)
  if !(s.dieUp 0 && s.dieUp 1) then (7, s)
  else if !overlayOk b then (1, s)
  else
    let s := s.countBoth 27
    let c (x : List Byte) : Overlay := { bytes := x }
    if failed then (8, { s with peat := { s.peat with ovl1 := c (bad 2), ovl2 := c (bad 3) } })
    else
      let x := b.take (overlaySize b)
      (0, { s with peat := { s.peat with ovl1 := c x, ovl2 := c x } })

/-- OVLERASE: both copies erased (R82). -/
def State.ovlErase (s : State) (failed : Bool) : Nat × State :=
  if !(s.dieUp 0 && s.dieUp 1) then (7, s)
  else
    let s := s.countBoth 27
    if failed then (8, s) else (0, { s with peat := { s.peat with ovl1 := {}, ovl2 := {} } })

/-- The effect and the result of a command at its end; `bad` says that flash failed. -/
def State.peatRun (s : State) (j : PeatJob) (bad : Bool) : Nat × State :=
  match j.op with
  | 1 => s.peatErase j.slot bad
  | 2 => s.peatProgram j.slot j.len bad
  | 3 => s.peatVerify j.slot
  | 4 => s.peatArm j.slot
  | 5 => s.peatConfirm
  | 6 => s.applyStage
  | 7 => s.reload j.slot j.fid
  | 8 => s.ovlWrite bad
  | 9 => s.ovlErase bad
  | 10 => s.nodeAssign j.node
  | 11 => s.keyProg j.kslot (memReadN s.shared 0 32)
  | 12 => s.keyRevoke j.kslot
  | 13 => s.svnAdvance
  | 14 => s.endSector (if j.slot then 1 else 0) j.len bad
  | _ => s.writeMap bad

/-- A failing sector is marked for retirement (R562). -/
def State.markSector (s : State) (failed : Option (Die × BitVec 5)) : State :=
  match failed with
  | some (die, sec) => s.markRow (sectorMid (dieIndex die)) sec.toNat
  | none => s

/-- PEAT_COMMAND_DONE: the running command ends; `failed` names a sector whose erase or program failed (R83, R88, R562). -/
def peatDone (failed : Option (Die × BitVec 5)) (s : State) : State :=
  match s.peat.job with
  | none => s
  | some j =>
    let (r, s) := s.peatRun j failed.isSome
    (if r = 8 then s.markSector failed else s).peatEnd r

/-- The dies a command works on. -/
def PeatJob.dies (j : PeatJob) : List Nat :=
  if j.op ≤ 4 ∨ j.op = 7 ∨ j.op = 14 then [slotDie j.slot] else if j.op = 8 ∨ j.op = 9 ∨ j.op = 10 ∨ j.op = 15 then [0, 1] else []

/-- PEAT_LINE_DIE_LOST: the command ends with result 0x7; a slot being erased or programmed is left EMPTY (R84). -/
def peatLost (s : State) : State :=
  match s.peat.job with
  | none => s
  | some j =>
    if j.dies.all s.dieUp then s
    else
      let s := if j.op = 1 ∨ j.op = 2 then s.setSlot j.slot { s.slotOf j.slot with st := 0, erased := false } else s
      let s := if j.op = 15 then s.fault 774 0xE6 1 1 else s
      s.peatEnd 7

/-- A PEAT command as its row names it (R82, R83). -/
def peatCommand (op : Nat) (src : Src) (s : State) : State := s.peatCmd src op

end Sys2Proof.Machine
end

