-- ==== Sys2Proof/Machine/ResetOps.lean ====
section
/-! DEFINITION. Resets (R82, R127, R144, R472, R520, R521, R551, R580, R593): power-on, supply reset, RESET_N, the kinds of
SYS.RESET, and the release of the internal reset. -/

namespace Sys2Proof.Machine

/-! ### What outlives a reset -/

/-- The peat store keeps its flash and its fuses; what its controller was doing is gone (R63). -/
def Peat.kept (p : Peat) : Peat :=
  { slotA := p.slotA, slotB := p.slotB, ovl1 := p.ovl1, ovl2 := p.ovl2, map1 := p.map1, map2 := p.map2
    assigned := p.assigned, keys := p.keys, revoked := p.revoked, svn := p.svn }

/-- USB keeps what its pins show: VBUS, the attached devices and the over-current inputs. -/
def Usb.pins (u : Usb) : Usb :=
  { vbus := u.vbus, vbusOk := u.vbusOk, vbusSince := u.vbusSince
    ports := u.ports.map (fun e => (e.1, ({ attached := e.2.attached, speed := e.2.speed, ocPin := e.2.ocPin } : UsbPort))) }

/-- The always-on part of a line die keeps its measurements and its buck (R519). -/
def LineDie.alwaysOn (d : LineDie) : LineDie :=
  { regstat := d.regstat, temp := d.temp, vin := d.vin, warn := d.warn, crit := d.crit, buckOn := d.buckOn, buckOff := d.buckOff }

/-- The erase counts of the flash sectors and the spare sectors in use. -/
def Repair.flash (r : Repair) : Repair :=
  { secA := r.secA, secB := r.secB, eraseA := r.eraseA, eraseB := r.eraseB, erases := r.erases }

/-- The process-wide marks that are no hardware: the clock of the model, its free values, and what waits for it. -/
def State.modelOf (s : State) : State :=
  { pending := s.pending, out := s.out, now := s.now, fresh := s.fresh
    flt := { peerAlive := s.flt.peerAlive, tick0 := s.now }, time := { tick0 := s.now }
    linkW := s.linkW.pins, linkE := s.linkE.pins, linkT := s.linkT.pins, usb := s.usb.pins
    dieA := s.dieA.alwaysOn, dieB := s.dieB.alwaysOn, rpr := s.rpr.flash, peat := s.peat.kept
    pair := { lowSince := s.now }
    power := { vin := s.power.vin, rstat := s.power.rstat, temp := s.power.temp, warn := s.power.warn, crit := s.power.crit
               doms := [(0, { st := .on, since := s.now }), (1, { st := .ramping, since := s.now })] } }

/-- A full reset of H and of the switched parts of both dies, for a cause of SYS.RSTCAUSE (R8, R472, R522, R526, R580). -/
def State.freshHub (cause : BitVec 5) (s : State) : State :=
  { s.modelOf with boot := { cause := cause }, ident := { straps := s.ident.straps } }

/-- The epoch after a reset that is neither power-on nor supply reset: risen by 1, POWERON = 0 (R127). -/
def State.keepEpoch (old : State) (s : State) : State :=
  { s with fwd := { s.fwd with epoch := old.fwd.epoch + 1, poweron := false } }

/-- Retention SRAM keeps the checkpoint copy (R551). -/
def State.keepCopy (old : State) (s : State) : State := { s with pair := { s.pair with copy := old.pair.copy } }

/-- The pins that a reset drives low (R579, R580). -/
def State.lowPins (old : State) (s : State) : State :=
  let s := if old.flt.aliveLevel then s.emit (.alive false) else s
  if old.leadPin then s.emit (.lead false) else s

/-- A reset of the hub that clears PD0 too. -/
def State.coldStart (cause : BitVec 5) (s : State) : State :=
  State.lowPins s (s.redrive (State.freshHub cause))

/-- RESET_N or SYS.RESET kind 0b10: the epoch and the checkpoint copy survive (R127, R551). -/
def State.fullReset (cause : BitVec 5) (s : State) : State :=
  State.lowPins s (s.redrive (fun s => State.keepCopy s (State.keepEpoch s (State.freshHub cause s))))

/-! ### The warm reset -/

/-- The domains of the boot set stay on, the others go off (R526). -/
def State.warmDomains (s : State) : State :=
  let s := s.setNat 0x220000 0x32CF
  (List.range 15).foldl (fun (s : State) d =>
    if d = 0 ∨ (nbit 0x32CF d && s.domOn d) then s else s.setDom d { since := s.now }) s

/-- Every domain but PD0 loses what it held; registers keep their control values (R24, R524). -/
def State.warmLoss (s : State) : State :=
  let w := s.linkW.spares
  let e := s.linkE.spares
  let t := s.linkT.spares
  let s := [8, 9, 10, 11, 14, 4, 7, 6].foldl (fun (s : State) d => s.loseDomain d) s
  let s := (List.range 15).foldl (fun (s : State) d => if d = 0 ∨ d = 12 ∨ d = 13 then s else s.loseStatus d) s
  { s with linkW := { s.linkW.pins with spares := w }, linkE := { s.linkE.pins with spares := e }
           linkT := { s.linkT.pins with spares := t }, usb := s.usb.pins, latches := [], shared := [] }

/-- PD0 after a warm reset: function states, boot and pair logic begin again; the collector, the key guard, the repair maps
and the peat store are kept (R409, R472, R489, R551). -/
def State.warmCore (s : State) : State :=
  { s with funcs := s.funcs.map (fun e => (e.1, ({} : Func)))
           boot := { cause := 4 }, ident := { straps := s.ident.straps }
           rpr := { s.rpr with done := false, pbFail := false, mems := [], scrubbing := false }
           flt := { s.flt with aliveOn := false, aliveLevel := false }
           pair := { copy := s.pair.copy, lowSince := s.now }
           peat := { s.peat with job := none, mixed := false, appGen := 0, appRing := 0, appNode := 0xFFF, appSvn := 0 } }

/-- The functions of a table without those that stand as they stand by default. -/
def State.trimFuncs (s : State) : State := { s with funcs := s.funcs.filter (fun e => e.2 != ({} : Func)) }

/-- SYS.RESET kind 0b01: H resets but for PD0 and retention SRAM; the line dies lose its link (R127, R144, R481). -/
def State.warmReset (s : State) : State :=
  let old := s
  let s := [Die.la, Die.lb].foldl (fun (s : State) d => if (s.die (dieIndex d)).linkUp then dieLost d s else s) s
  let s := s.redrive (fun s => (s.warmLoss.warmCore.trimFuncs).warmDomains)
  (State.lowPins old (State.keepEpoch old s)).seqStep

/-! ### SYS.RESET -/

/-- SYS.RESET kind 0b11: the epoch rises, and the image is applied again (R79, R82, R127). -/
def State.reloadReset (s : State) : State :=
  let s := { s with fwd := { s.fwd with epoch := s.fwd.epoch + 1, poweron := false, started := false, seqs := [] } }
  s.reloadAll

/-- The reset that a write of this command has asked for, once the write is answered (R593). -/
def State.serveReset (s : State) : State :=
  let k := s.boot.request.toNat
  let s := { s with boot := { s.boot with request := 0 } }
  match k with
  | 1 => s.warmReset
  | 2 => s.fullReset 8
  | 3 => s.reloadReset
  | _ => s

/-- The whole effect of a command that may write SYS.RESET: its own effect, then the reset (R593). -/
def actReset (f : State → State) (s : State) : Host.Outcome State Fault Refusal :=
  let t := settle (f s.begun)
  .next { (if t.boot.request = 0 then t else settle t.serveReset) with pending := s.pending }

/-! ### Pins and supplies -/

/-- POWER_ON: VIN rises through the start threshold; nothing survives but flash and fuses (R519, R520). -/
def powerOn (s : State) : State :=
  let s := s.coldStart 1
  { s with power := { s.power with vin := true, rstat := 0x3F }, dieA := { s.dieA with buckOn := true, buckOff := none }
           dieB := { s.dieB with buckOn := true, buckOff := none } }

/-- RESET_PIN: RESET_N low for 10 µs, and its rising edge, which samples the straps (R580). -/
def resetPin (straps : Straps) (s : State) : State :=
  let s := (s.advanceTo (s.now + 10 * ticksPerUs)).fullReset 2
  { s with ident := { s.ident with straps := straps } }

/-- SUPPLY_RESET: held until the rails have recovered (R521). -/
def supplyReset (s : State) : State :=
  let s := s.coldStart 16
  { s with boot := { s.boot with held := true } }

/-- INTERNAL_RESET_RELEASE: the boot set is up; pair B runs the boot ROM unless its memories failed (R409, R520, R521, R553,
R580). -/
def resetRelease (s : State) : State :=
  if s.boot.released ∨ !s.bootSetOn then s
  else
    let s := { s with boot := { s.boot with released := true, held := false } }
    if s.rpr.pbFail then { s with boot := { s.boot with phase := 0xE } }
    else { s with ncpB := { s.ncpB with bootrom := true, sys := true, pc := 0 } }

end Sys2Proof.Machine
end

