-- ==== Sys2Proof/Machine/NcpOps.lean ====
section
/-! DEFINITION. The HRK32 instructions that reach beyond the general registers (R391 to R401, R415 to R435): loads and
stores, CAS and SWP, system registers, branches that write registers, traps, events, and the hub's own instructions. -/

namespace Sys2Proof.Machine

/-! ### The pair's view of memory (R391) -/

/-- What an address of a pair reaches. -/
inductive Place where
  | rom (o : Nat)
  | code (o : Nat)
  | data (o : Nat)
  | local_ (a : Nat)
  | aperture (o : Nat)
  | nothing
deriving DecidableEq, Repr

/-- The address map of a pair (R391). -/
def placeOf (w : Word) : Place :=
  let a := w.toNat
  let within (lo n : Nat) : Bool := decide (lo ≤ a) && decide (a < lo + n)
  if within 0 0x10000 then .rom a
  else if within 0x10000000 0x40000 then .code (a - 0x10000000)
  else if within 0x20000000 0x40000 then .data (a - 0x20000000)
  else if within 0x30000000 0x200000 then .local_ (0x10000000 + (a - 0x30000000))
  else if within 0x40000000 0x1000000 then .local_ (a - 0x40000000)
  else if within 0x50000000 0x100000 then .local_ (0x20000000 + (a - 0x50000000))
  else if within 0x60000000 0x40000 then .local_ (0x30000000 + (a - 0x60000000))
  else if within 0x68000000 0x40000 then .local_ (0x40000000 + (a - 0x68000000))
  else if within 0x70000000 0x400000 then .local_ (0x100000000 + (a - 0x70000000))
  else if within 0x80000000 0x40000000 then .aperture (a - 0x80000000)
  else .nothing

/-- The memory number of a pair's code SRAM; its data SRAM is the next (21). -/
def codeMid : Pair → Nat
  | .a => 0x20
  | .b => 0x22

/-- Under which source a pair writes registers: its port, or the boot ROM's (R392, R409). -/
def State.pairSource (s : State) (p : Pair) : Src := if (s.ncp p).bootrom then s.bootSrc else s.whoSrc (.ncp p)

/-- A read of k bytes of the boot ROM, of a pair's SRAM or of the local map. -/
def State.pairRead (s : State) (p : Pair) (w : Word) (k : Nat) (ecc : EccResult) : LocalResult × State :=
  match placeOf w with
  | .rom o => ({ data := (List.range k).map (fun i => Config.bootRom (o + i)) }, s)
  | .code o => s.memoryRead (codeMid p) (s.ncp p).code o k ecc
  | .data o => s.memoryRead (codeMid p + 1) (s.ncp p).data o k ecc
  | .local_ a => s.localRead (s.pairSource p) a k ecc
  | _ => ({ status := 0xFF }, s)

/-- A write of bytes to a pair's SRAM or to the local map: its status. An ignored register write is as good as performed
(R392); a write to the boot ROM has no status in the spec, so that status is free. -/
def State.pairWrite (s : State) (p : Pair) (w : Word) (b : List Byte) : Nat × State :=
  match placeOf w with
  | .rom _ => (256 + (Config.measured w.toNat s.now).toNat % 256, s)
  | .code o => (stOk, s.setNcp p { s.ncp p with code := memWriteN (s.ncp p).code o b })
  | .data o => (stOk, s.setNcp p { s.ncp p with data := memWriteN (s.ncp p).data o b })
  | .local_ a =>
    let ((st, _), t) := s.localWrite (s.pairSource p) a (b.map some)
    (if st = stIgnored then stOk else st, t)
  | _ => (0xFF, s)

/-- Bytes of a load. -/
def LoadKind.size : LoadKind → Nat
  | .lb | .lbu => 1
  | .lh | .lhu => 2
  | .lw => 4
  | .ld => 8

/-! ### Loads and stores (R422) -/

/-- The address of an access, and the base register it changes afterwards. -/
def Ncp.address (x : Ncp) (a : BitVec 4) (post : Bool) (i : BitVec 14) : Word × Option (BitVec 4 × Word) :=
  if post then (x.reg a, some (a, x.reg a + sx i)) else (x.reg a + sx i, none)

/-- The checks of a load or store: a reserved code, alignment, then protection (R396, R415, R422). -/
def State.guarded (s : State) (p : Pair) (reserved : Bool) (size : Nat) (k : AccessKind) (w : Word) (f : State → State) :
    State :=
  if reserved then s.trapHere p 1
  else if w.toNat % size ≠ 0 then s.trapHere p 3 w
  else if !(s.ncp p).allowed k w then s.protTrap p w
  else f s

/-- A load (R422). -/
def ncpLoad (k : LoadKind) (p : Pair) (d a : BitVec 4) (post : Bool) (i : BitVec 14) (ecc : EccResult) (s : State) : State :=
  s.issue p (fun s =>
    let (w, base) := (s.ncp p).address a post i
    let reserved : Bool := (post && (a == 0 || d == a)) || (k == .ld && !pairOk d)
    s.guarded p reserved k.size .read w (fun s =>
      match placeOf w with
      | .aperture o =>
        (s.setNcp p { s.ncp p with wait := some { load := some (k, d), addr := w, base := base } }).aperture
          (.ncp p) o false k.size [] ecc
      | _ =>
        let (r, s) := s.pairRead p w k.size ecc
        if r.status = stOk then s.setNcp p ((s.ncp p).loadDone k d r.data base) else s.trapHere p 5 w r.status))

/-- What a store writes: the low bytes of d, or d and d + 1. -/
def Ncp.storeBytes (x : Ncp) (size : Nat) (d : BitVec 4) : List Byte :=
  if size = 8 then leBytes (x.reg d).toNat 4 ++ leBytes (x.reg (d + 1)).toNat 4 else leBytes (x.reg d).toNat size

/-- A store of 1, 2, 4 or 8 bytes (R422). -/
def ncpStore (size : Nat) (p : Pair) (d a : BitVec 4) (post : Bool) (i : BitVec 14) (s : State) : State :=
  s.issue p (fun s =>
    let (w, base) := (s.ncp p).address a post i
    let reserved : Bool := (post && a == 0) || (size == 8 && !pairOk d)
    let b := (s.ncp p).storeBytes size d
    s.guarded p reserved size .write w (fun s =>
      match placeOf w with
      | .aperture o =>
        (s.setNcp p { s.ncp p with wait := some { load := none, addr := w, base := base } }).aperture
          (.ncp p) o true size b .clean
      | _ =>
        let (st, s) := s.pairWrite p w b
        if st = stOk then s.setNcp p ((s.ncp p).storeDone base) else s.trapHere p 5 w (st % 256)))

/-! ### CAS, SWP and FIRE (R423, R429) -/

/-- The places that CAS, SWP and FIRE reach: the pair's data SRAM and the shared memory. -/
def sharedPlace (w : Word) : Bool :=
  match placeOf w with
  | .data _ => true
  | .local_ a => decide (0x10000000 ≤ a) && decide (a < 0x10200000)
  | _ => false

/-- CAS and SWP: `store` says from the word read whether b is stored (R423). -/
def State.atomic (s : State) (p : Pair) (d a b : BitVec 4) (ecc : EccResult) (cas : Bool) : State :=
  s.issue p (fun s =>
    let x := s.ncp p
    let w := x.reg a
    s.guarded p false 4 .read w (fun s =>
      if !x.allowed .write w then s.protTrap p w
      else if !sharedPlace w then s.trapHere p 5 w 0xFE
      else
        let (r, s) := s.pairRead p w 4 ecc
        if r.status ≠ stOk then s.trapHere p 5 w r.status
        else
          let t := BitVec.ofNat 32 (leNat r.data)
          let hit : Bool := !cas || t == x.reg d
          let s := if hit then (s.pairWrite p w (leBytes (x.reg b).toNat 4)).2 else s
          let y := (s.ncp p).setReg d t
          s.setNcp p { y with flags := if cas then { y.flags with z := hit } else y.flags, pc := y.pc + 4 }))

/-- CAS (R420, R423). -/
def ncpCas (p : Pair) (d a b : BitVec 4) (ecc : EccResult) (s : State) : State := s.atomic p d a b ecc true

/-- SWP (R423). -/
def ncpSwp (p : Pair) (d a b : BitVec 4) (ecc : EccResult) (s : State) : State := s.atomic p d a b ecc false

/-- FIRE: 32 bytes pushed into the append queue; Z says whether there was room (R429). -/
def ncpFire (p : Pair) (a : BitVec 4) (ecc : EccResult) (s : State) : State :=
  s.issue p (fun s =>
    let w := (s.ncp p).reg a
    s.guarded p false 32 .read w (fun s =>
      if !sharedPlace w then s.trapHere p 5 w 0xFE
      else
        let (r, s) := s.pairRead p w 32 ecc
        if r.status ≠ stOk then s.trapHere p 5 w r.status
        else
          let present : Bool := (s.func 7).st != .absent
          let room : Bool := present && decide (s.act.appq.length < 256)
          let s := if present then (s.appendWrite 0 r.data).getD s else s
          s.setNcp p { s.ncp p with flags := { (s.ncp p).flags with z := room }, pc := (s.ncp p).pc + 4 }))

/-! ### Jumps, TRAP, RETT (R424, R432, R435) -/

/-- JAL (R424). -/
def ncpJal (p : Pair) (d : BitVec 4) (i : BitVec 22) (s : State) : State :=
  s.issue p (fun s =>
    let x := s.ncp p
    s.setNcp p { x.setReg d (x.pc + 4) with pc := x.pc + 4 * sx i })

/-- JALR: the target comes from a before d is written; a misaligned one traps (R424). -/
def ncpJalr (p : Pair) (d a : BitVec 4) (i : BitVec 14) (s : State) : State :=
  s.issue p (fun s =>
    let x := s.ncp p
    let t := x.reg a + sx i
    if t.toNat % 4 ≠ 0 then s.trapHere p 3 t else s.setNcp p { x.setReg d (x.pc + 4) with pc := t })

/-- TRAP: trap 0x7 with its immediate; EPC is the next instruction (R432). -/
def ncpTrap (p : Pair) (i : BitVec 14) (s : State) : State :=
  s.issue p (fun s => s.syncTrap p 7 ((s.ncp p).pc + 4) 0 0 i.toNat)

/-- RETT (R435). -/
def ncpRett (p : Pair) (s : State) : State :=
  s.issue p (fun s => if (s.ncp p).sys then s.setNcp p (s.ncp p).returnTrap else s.trapHere p 2)

/-- ILLEGAL_INSTRUCTION: a word that is no instruction takes trap 0x1 (R415). -/
def ncpIllegal (p : Pair) (w : Word) (s : State) : State :=
  s.issue p (fun s => if legalWord w then s else s.trapHere p 1)

/-! ### System registers (R431) -/

/-- Core ticks since fresh state. -/
def State.cycles (s : State) (p : Pair) : Nat := s.now - (s.ncp p).cycle0

/-- A system register as MFS reads it, and what the read leaves behind. -/
def State.sysRead (s : State) (p : Pair) (n : Nat) : Word × Ncp :=
  let x := s.ncp p
  let of (v : Nat) : Word := BitVec.ofNat 32 v
  match n with
  | 0 => (of x.flags.code, x)
  | 1 => (of x.status, x)
  | 2 => (x.epc, x)
  | 3 => (x.cause, x)
  | 4 => (x.badaddr, x)
  | 5 => (x.tvec, x)
  | 6 => (of x.eflags.code, x)
  | 7 => (x.scratch, x)
  | 8 => (of (s.cycles p), { x with cyclehLatch := some (of (s.cycles p / 2 ^ 32)) })
  | 9 => (x.cyclehLatch.getD (of (s.cycles p / 2 ^ 32)), { x with cyclehLatch := none })
  | 0xA => (of (match p with | .a => 0 | .b => 1), x)
  | n => if n < 0x20 then (tabGet 0 x.mpuBase (n - 0x10), x) else (tabGet 0 x.mpuCfg (n - 0x20), x)

/-- A system register written by MTS; read-only registers and fields ignore it. -/
def Ncp.sysWrite (x : Ncp) (n : Nat) (v : Word) : Ncp :=
  match n with
  | 0 => { x with flags := flagsOf v.toNat }
  | 1 =>
    let ie := v.getLsbD 0
    { x with ie := ie, pie := v.getLsbD 2, pmode := v.getLsbD 3, intrap := v.getLsbD 4 && !ie }
  | 2 => { x with epc := v &&& 0xFFFFFFFC }
  | 3 => { x with cause := v &&& 0x3FFFFF0F }
  | 4 => { x with badaddr := v }
  | 5 => { x with tvec := v &&& 0xFFFFFF00 }
  | 6 => { x with eflags := flagsOf v.toNat }
  | 7 => { x with scratch := v }
  | 8 | 9 | 0xA => x
  | n =>
    if n < 0x20 then { x with mpuBase := tabSet 0 x.mpuBase (n - 0x10) (v &&& 0xFFFFFFC0) }
    else if 26 < nbits v.toNat 12 8 then x
    else { x with mpuCfg := tabSet 0 x.mpuCfg (n - 0x20) (v &&& 0x00001F1F) }

/-- MFS (R431). -/
def ncpMfs (p : Pair) (d : BitVec 4) (n : BitVec 12) (s : State) : State :=
  s.issue p (fun s =>
    let k := n.toNat
    if !sysRegListed k then s.trapHere p 1
    else if !(s.ncp p).sys && !(k == 0 || k == 8 || k == 9 || k == 0xA) then s.trapHere p 2
    else
      let (v, x) := s.sysRead p k
      s.setNcp p (x.setReg d v).advance)

/-- MTS (R431). -/
def ncpMts (p : Pair) (a : BitVec 4) (n : BitVec 12) (s : State) : State :=
  s.issue p (fun s =>
    let k := n.toNat
    if !sysRegListed k then s.trapHere p 1
    else if !(s.ncp p).sys && k != 0 then s.trapHere p 2
    else s.setNcp p ((s.ncp p).sysWrite k ((s.ncp p).reg a)).advance)

/-! ### FENCE, WFE, SPORE, AXR, TIM (R425 to R430) -/

/-- Posted aperture writes of a pair that have not been admitted (R393). -/
def State.unadmitted (s : State) (p : Pair) : Bool :=
  s.fwd.held.any (fun o => o.owner == some p) || s.fwd.class0.any (fun o => o.owner == some p) ||
  s.xact.waiting.any (fun r => r.owner == some p)

/-- FENCE: completes once every earlier access has completed; until then it waits (R430). -/
def ncpFence (p : Pair) (s : State) : State :=
  s.issue p (fun s => if s.unadmitted p then s else s.setNcp p (s.ncp p).advance)

/-- WFE: writes the highest pending level once one at or above its operand is pending; until then it waits (R400, R425). -/
def ncpWfe (p : Pair) (d i : BitVec 4) (s : State) : State :=
  s.issue p (fun s =>
    let x := s.ncp p
    match s.topLevel p with
    | some l =>
      if i.toNat ≤ l then s.setNcp p ({ x with wfe := false }.setReg d (BitVec.ofNat 32 l)).advance
      else s.setNcp p { x with wfe := true }
    | none => s.setNcp p { x with wfe := true }) true

/-- EVENT_TRAP: the pair takes the event trap and serves the highest pending level (R398, R425, R433). -/
def ncpEventTrap (p : Pair) (s : State) : State :=
  match s.eventDue p with
  | some l =>
    let x := s.ncp p
    s.setNcp p { x.takeTrap 8 x.pc 0 0 0 with serving := l :: x.serving }
  | none => s

/-- The software sources of a pair (R401). -/
def softSource (p : Pair) (n : Nat) : Bool :=
  match p with
  | .a => decide (832 ≤ n) && decide (n < 928)
  | .b => decide (928 ≤ n) && decide (n < 1024)

/-- SPORE: one event, or trap 0x6 (R426). -/
def ncpSpore (p : Pair) (a b c : BitVec 4) (s : State) : State :=
  s.issue p (fun s =>
    let x := s.ncp p
    let w := (x.reg a).toNat
    if nbits w 15 10 ≠ 0 ∨ !softSource p (w % 1024) then s.trapHere p 6
    else
      let s := s.setNcp p x.advance
      s.event (w % 1024) (w / 65536)
        { axis := some (0, 0, false, false), payload := BitVec.ofNat 64 ((x.reg b).toNat + (x.reg c).toNat * 2 ^ 32) })

/-- AXR: an axis evaluated at this tick (R427). -/
def ncpAxr (p : Pair) (d a : BitVec 4) (i : BitVec 14) (s : State) : State :=
  s.issue p (fun s =>
    if !pairOk d then s.trapHere p 1
    else
      let x := s.ncp p
      let y := s.axis ((x.reg a + sx i).toNat % 64)
      let pos := (y.eval s.ft).toNat
      let v := y.st.valid
      let lo : Nat := if v then pos / 65536 else 0
      let hi := (if v then pos % 65536 * 65536 else 0) + bitAt y.st.isStale 4 + bitAt v 3 + y.st.code
      s.setNcp p (x.setPair d (BitVec.ofNat 32 lo) (BitVec.ofNat 32 hi)).advance)

/-- TIM: a pair of words read from the time unit (R428). -/
def State.tim (s : State) (p : Pair) (d : BitVec 4) (lo hi : Nat) : State :=
  s.issue p (fun s =>
    if !pairOk d then s.trapHere p 1
    else s.setNcp p ((s.ncp p).setPair d (BitVec.ofNat 32 lo) (BitVec.ofNat 32 hi)).advance)

/-- TIM with code 0b00: fabric time in whole ns (R428). -/
def ncpTimTime (p : Pair) (d : BitVec 4) (s : State) : State := s.tim p d s.ns (s.ns / 2 ^ 32)

/-- TIM with code 0b01: the tick count (R197, R428). -/
def ncpTimTick (p : Pair) (d : BitVec 4) (s : State) : State := s.tim p d s.tickCount (s.tickCount / 2 ^ 32)

/-- TIM with code 0b10: fraction, SYNC and whole ns [31:0] (R428). -/
def ncpTimFraction (p : Pair) (d : BitVec 4) (s : State) : State :=
  s.tim p d (s.ft.toNat % 65536 + s.time.sync.code * 65536) s.ns

end Sys2Proof.Machine
end

