-- ==== Sys2Proof/Machine/UsbXact.lean ====
section
/-! DEFINITION. The gateway's accesses (14): command blocks through the aperture and to the local map, and the vendor requests
once their local access is performed (R374 to R377). -/

namespace Sys2Proof.Machine

/-- The source of a gateway access. -/
def State.usbSrc (s : State) : Src := { port := 3, slot := s.slot, node := 0xFFF }

/-- A local access of the gateway (R375): status, DETAIL, bytes completed, data. Region 0 takes whole aligned words, one
after the other; an ignored write does not keep the rest from being performed. -/
def State.usbLocalAccess (s : State) (write : Bool) (a len : Nat) (data : List Byte) (ecc : EccResult) :
    (Nat × Nat × Nat × List Byte) × State :=
  if !s.rb 0x0D4004 0 then ((stWindow, 0xFF, 0, []), s)
  else if a < 0x1000000 ∧ (a % 4 ≠ 0 ∨ len % 4 ≠ 0) then ((stFormat, 0, 0, []), s)
  else if !write then
    let (r, s) := s.localRead s.usbSrc a len ecc
    ((r.status, r.detail, if r.status = stOk then len else 0, r.data), s)
  else match spanRegion a len with
    | .inl 0 =>
      let (r, s) := (List.range (len / 4)).foldl (fun (p : (Nat × Nat × Nat) × State) i =>
        let ((st, det), t) := p.2.localWrite p.2.usbSrc (a + 4 * i) ((slice data (4 * i) 4).map some)
        (if p.1.1 = stOk then if st = stOk then (stOk, 0, p.1.2.2 + 4) else (st, det, p.1.2.2) else p.1, t))
        ((stOk, 0, 0), s)
      ((r.1, r.2.1, r.2.2, []), s)
    | _ =>
      let ((st, det), s) := s.localWrite s.usbSrc a (data.map some)
      ((st, det, if st = stOk then len else 0, []), s)

/-- USB_LOCAL_ACCESS_DONE: the latched access is performed and its stage answered with data, status or STALL (R375, R379,
R387). -/
def usbLocalDone (ecc : EccResult) (s : State) : State :=
  match s.usb.ctl with
  | none => s
  | some c =>
    let s := s.usbSet { s.usb with ctl := none }
    let ((st, det, done, data), s) := s.usbLocalAccess c.write c.addr.toNat c.len c.data ecc
    let s := s.usbResultIs st det done
    if !c.answer then s
    else if st = stOk then s.usbAnswer .vendor 0 4 (if c.write then [] else data)
    else s.usbStall .vendor

/-- USB_INFO (R374). -/
def usbInfo (s : State) : State :=
  if !s.running 10 ∨ !s.usb.pullup then s
  else if !s.usb.fn.config then s.usbStall .vendor
  else s.usbAnswer .vendor 0 4
    ([0x000000, 0x00001C, 0x000018, 0x240010].flatMap (fun o => leBytes (s.regValue o).toNat 4))

/-- The OP codes of command blocks (R376). -/
def blockOps : List Byte := [0x01, 0x02, 0x11, 0x12]

/-- A transfer on endpoint 0x01 is a command block of R376. -/
def blockOk (b : List Byte) : Bool :=
  let op := b.getD 0 0
  let len := leNat (slice b 10 2)
  let write : Bool := op == 0x02 || op == 0x12
  let addr := leNat (slice b 4 6)
  decide (16 ≤ b.length) && blockOps.contains op && b.getD 1 0 == 0 && leNat (slice b 12 4) == 0 &&
    decide (1 ≤ len ∧ len ≤ 512) && b.length == (if write then 16 + len else 16) &&
    (op == 0x11 || op == 0x12 || decide (addr < 2 ^ 30))

/-- BLOCK_AREAD, BLOCK_AWRITE, BLOCK_LREAD and BLOCK_LWRITE: a bulk OUT transfer on endpoint 0x01, taken while fewer than
MAXCMD blocks are, and issued in arrival order; a malformed one halts the endpoint (R376, R377). A transfer with the OP of
another command is not this one. -/
def usbBlock (row : Byte) (b : List Byte) (ecc : EccResult) (s : State) : State :=
  let u := s.usb
  let op := b.getD 0 0
  if !s.running 10 ∨ !u.pullup ∨ !u.fn.config ∨ s.epHalted 0 then s
  else if op ≠ row ∧ blockOps.contains op then s
  else if !blockOk b then
    ((s.usbSet { u with halt := u.halt ||| 1 }).bump 0x0D4044).fault 397 0xC2 0 op.toNat
  else if s.rf 0x0D4000 3 0 ≤ u.blocks.length then s
  else
    let len := leNat (slice b 10 2)
    let a := leNat (slice b 4 6)
    let write : Bool := op == 0x02 || op == 0x12
    let id := u.nextBlock
    let blk : UsbBlock :=
      { id := id, op := op, tag := BitVec.ofNat 16 (leNat (slice b 2 2)), len := len, issued := true, result := none }
    let s := s.usbSet { u with blocks := u.blocks ++ [blk], nextBlock := id + 1 }
    if op = 0x01 ∨ op = 0x02 then s.aperture (.block id) a write len (b.drop 16) ecc
    else
      let ((st, det, done, data), s) := s.usbLocalAccess write a len (b.drop 16) ecc
      s.completeTo (.block id) write len st det done data

end Sys2Proof.Machine
end

