-- ==== Sys2Proof/Machine/Perform.lean ====
section
/-! DEFINITION. What the meanings of several commands share: answers of POP locations, the append page as a command, the
expiry of an order hold by its stage, and the masked words that switch a ring on. -/

namespace Sys2Proof.Machine

/-- A read of a POP location, answered with the low word of what it removes (R10, R31). -/
def popAnswer (src : Src) (pop : State → DWord × State) (s : State) : State :=
  (pop s).2.emit (.answer src stOk (leBytes ((pop s).1.toNat % 2 ^ 32) 4))

/-- A read of NCP.xCLAIM, answered (R399). -/
def claimAnswer (src : Src) (p : Pair) (s : State) : State :=
  (s.ncpClaim p).2.emit (.answer src stOk (leBytes (s.ncpClaim p).1 4))

/-- A write to the append page; one that is no whole number of entries is answered FORMAT (R253). -/
def appendPage (src : Src) (off : BitVec 8) (data : List Byte) (s : State) : State :=
  match s.appendWrite off.toNat data with
  | some t => t
  | none => s.emit (.answer src stFormat [])

/-- ORDER_HOLD_EXPIRY at the stage of the target, of the bridge or of the spore engine (R188, R354, R448). -/
def orderHoldExpiry (stage : OrderStage) (node : BitVec 12) (slot : BitVec 1) (cls : BitVec 3) (s : State) : State :=
  match stage with
  | .target => fwdOrderExpiry node slot cls s
  | .bridge => brgOrderExpiry node slot cls s
  | .spore => sporeOrderExpiry node slot cls s

/-- The masked word that sets EN, VEC and SIZE of a host queue or a DMA channel (R451, R461). -/
def enableWord (vec : BitVec 6) (size : BitVec 4) : Word := BitVec.ofNat 32 (0xFFFF8000 + vec.toNat * 256 + size.toNat)

/-- The frond of channel nn has no power-good, so its line diagnostics are suspended (R274, R281). -/
def State.unsupplied (s : State) (nn : Nat) : Bool := !(s.chan nn).pg

end Sys2Proof.Machine
end

