-- ==== Sys2Proof/Machine/ExecActions.lean ====
section
/-! DEFINITION. The meanings of the commands of actions and captures (10): one definition for each. -/

namespace Sys2Proof.Machine

/-- APPEND_WRITE (R253). A write to the append page pushes whole 32-byte entries into the append queue. -/
def execAppendWrite (src : Src) (off : BitVec 8) (data : List Byte) (s : State) : Host.Outcome State Fault Refusal :=
  act (appendPage src off data) s

/-- APPEND_MERGE (R254). The head entry of the append queue is merged into the lowest free slot of the active bank
and its axis index. -/
def execAppendMerge (s : State) : Host.Outcome State Fault Refusal :=
  act actMerge s

/-- ACTION_COMMIT (R244). An entry is committed when its placement instant comes within 12 µs, or at t_d for kinds
without a line edge. -/
def execActionCommit (slot : BitVec 12) (s : State) : Host.Outcome State Fault Refusal :=
  act (actCommit slot) s

/-- LINE_COMMAND_PLACEMENT (R245). At the placement instant the line die begins the output transition of a committed
command. -/
def execLineCommandPlacement (l : BitVec 8) (s : State) : Host.Outcome State Fault Refusal :=
  act (actPlacement l) s

/-- PULSE_OFF_EDGE_COMMIT (R246). The off edge of a pulse in flight is committed by position or by duration after
its on edge. -/
def execPulseOffEdgeCommit (l : BitVec 8) (s : State) : Host.Outcome State Fault Refusal :=
  act (actOffCommit l) s

/-- SHADOW_BANK_WRITE (R256). A write to the action shadow bank is performed and returns a SORTING or READY bank to
OPEN. -/
def execShadowBankWrite (off : BitVec 17) (data : List Byte) (s : State) : Host.Outcome State Fault Refusal :=
  act (actShadowWrite off data) s

/-- ACT_SEAL (R257). ACT.CMD SEAL takes the OPEN shadow bank to SORTING. -/
def execActSeal (s : State) : Host.Outcome State Fault Refusal :=
  act actSeal s

/-- ACT_CLEARSH (R257). ACT.CMD CLEARSH clears every shadow entry and withdraws any waiting swap request. -/
def execActClearsh (s : State) : Host.Outcome State Fault Refusal :=
  act actClearsh s

/-- ACT_SWAP (R258). ACT.CMD SWAP requests a bank swap at the next boundary, sealing an OPEN bank first. -/
def execActSwap (s : State) : Host.Outcome State Fault Refusal :=
  act actSwap s

/-- ACT_ARMSWAP (R258). ACT.CMD ARMSWAP requests a bank swap at the boundary where an axis reaches SWAPPOS. -/
def execActArmswap (s : State) : Host.Outcome State Fault Refusal :=
  act actArmswap s

/-- ACT_DISARM (R258). ACT.CMD DISARM withdraws the waiting swap request with record 0x0209. -/
def execActDisarm (s : State) : Host.Outcome State Fault Refusal :=
  act actDisarm s

/-- ACT_SORT_DONE (R257). The sort of the shadow bank ends and the bank becomes READY. -/
def execActSortDone (s : State) : Host.Outcome State Fault Refusal :=
  act actSortDone s

/-- ACT_CLEAR_DONE (R257). CLEARSH ends and the shadow bank returns from CLEARING to OPEN. -/
def execActClearDone (s : State) : Host.Outcome State Fault Refusal :=
  act actClearDone s

/-- ACT_SWAP_BOUNDARY (R260). At a 1 µs boundary where a swap is due and the shadow is READY, the banks change
roles. -/
def execActSwapBoundary (s : State) : Host.Outcome State Fault Refusal :=
  act actBoundary s

/-- CAPTURE_QUEUE_POP (R264). A read of a capture queue's POP location returns and removes its head entry. -/
def execCaptureQueuePop (src : Src) (q : BitVec 4) (ecc : EccResult) (s : State) : Host.Outcome State Fault Refusal :=
  act (popAnswer src (fun s => s.capturePop q.toNat ecc)) s

/-- ACT_AIDX_WRITE (R272). A write to ACT.AIDX copies one active-bank entry and its state into AENT0–7 and AINFO. -/
def execActAidxWrite (data : Word) (s : State) : Host.Outcome State Fault Refusal :=
  act (actAidx data) s

end Sys2Proof.Machine
end

