-- ==== Sys2Proof/Machine/ExecAxes.lean ====
section
/-! DEFINITION. The meanings of the commands of axes (09): one definition for each. -/

namespace Sys2Proof.Machine

/-- AXIS_SAMPLE_LATCH (R222). At each publication instant the publishing hub latches the encoder count, sends a
sample frame and applies it locally. -/
def execAxisSampleLatch (a : BitVec 6) (gate : Bool) (s : State) : Host.Outcome State Fault Refusal :=
  act (actAxisLatch a gate) s

/-- AXIS_SAMPLE_RECEIVED (R225). A delivered axis sample is checked for source, axis, anchor and age and then
applied or discarded. -/
def execAxisSampleReceived (s : State) : Host.Outcome State Fault Refusal :=
  act actAxisSample s

/-- AXIS_COASTING (R226). now − t0 exceeding 1.5 × PERIOD in TRACKING takes the axis to COASTING. -/
def execAxisCoasting (a : BitVec 6) (s : State) : Host.Outcome State Fault Refusal :=
  act (axisCoast a) s

/-- AXIS_STALE (R226). now − t0 exceeding the stale limit takes the axis to STALE and raises fault kind 0x78. -/
def execAxisStale (a : BitVec 6) (s : State) : Host.Outcome State Fault Refusal :=
  act (actAxisStale a) s

end Sys2Proof.Machine
end

