-- ==== Sys2Proof/Machine/ExecBridge.lean ====
section
/-! DEFINITION. The meanings of the commands of the bridge (13): one definition for each. -/

namespace Sys2Proof.Machine

/-- BRIDGE_LOOKUP (R350). The ingress unit at the head is looked up in the active route bank and up to four frames
are originated. -/
def execBridgeLookup (s : State) : Host.Outcome State Fault Refusal :=
  act brgLookup s

/-- BRIDGED_FRAME_RECEIVED (R355). A delivered MKIND 1 or 2 frame is checked and queued for its destination port or
refused. -/
def execBridgedFrameReceived (s : State) : Host.Outcome State Fault Refusal :=
  act brgFrameReceived s

/-- BRIDGE_EGRESS_CAN (R356). The head frame of a CAN egress queue is moved into an owned buffer by LOADREQ once one
is EMPTY. -/
def execBridgeEgressCan (k : BitVec 3) (s : State) : Host.Outcome State Fault Refusal :=
  act (brgEgressCan k) s

/-- BRIDGE_EGRESS_UART (R357). A queued message is written into the channel's transmit FIFO while it has room. -/
def execBridgeEgressUart (ch : BitVec 5) (s : State) : Host.Outcome State Fault Refusal :=
  act (brgEgressUart ch) s

/-- ERROR_RETURN_RECEIVED (R359). An error return is counted and raises fault kind 0xBA and event kind 0x0143. -/
def execErrorReturnReceived (s : State) : Host.Outcome State Fault Refusal :=
  act brgErrorReturn s

/-- APPLICATION_MESSAGE_RECEIVED (R360). A delivered MKIND 0 frame is stored in the message queue or dropped. -/
def execApplicationMessageReceived (s : State) : Host.Outcome State Fault Refusal :=
  act brgMessage s

/-- MESSAGE_QUEUE_POP (R360). A read of BRG.MQL pops one entry of the message queue. -/
def execMessageQueuePop (src : Src) (ecc : EccResult) (s : State) : Host.Outcome State Fault Refusal :=
  act (popAnswer src (fun s => s.msgPop ecc)) s

/-- BRG_SEAL (R364). BRG.CMD SEAL takes the OPEN route shadow bank to SORTING. -/
def execBrgSeal (s : State) : Host.Outcome State Fault Refusal :=
  act brgSeal s

/-- BRG_SWAP (R364). BRG.CMD SWAP requests a route bank swap between lookups. -/
def execBrgSwap (s : State) : Host.Outcome State Fault Refusal :=
  act brgSwap s

/-- BRG_DISARM (R364). BRG.CMD DISARM withdraws the waiting route swap request. -/
def execBrgDisarm (s : State) : Host.Outcome State Fault Refusal :=
  act brgDisarm s

/-- BRG_CLEARSH (R364). BRG.CMD CLEARSH clears every route shadow entry. -/
def execBrgClearsh (s : State) : Host.Outcome State Fault Refusal :=
  act brgClearsh s

/-- BRG_SORT_DONE (R364). The sort of the route shadow bank ends and the bank becomes READY. -/
def execBrgSortDone (s : State) : Host.Outcome State Fault Refusal :=
  act brgSortDone s

/-- BRG_SWAP_TAKES_EFFECT (R364). A due route swap takes effect at a lookup boundary and raises event kind 0x0140.
-/
def execBrgSwapTakesEffect (s : State) : Host.Outcome State Fault Refusal :=
  act brgSwapTakes s

/-- BRG_SHADOW_WRITE (R364). A write to the route shadow bank is performed and returns a SORTING or READY bank to
OPEN. -/
def execBrgShadowWrite (off : BitVec 16) (data : List Byte) (s : State) : Host.Outcome State Fault Refusal :=
  act (brgShadowWrite off data) s

/-- BRG_AIDX_WRITE (R362). A write to BRG.AIDX copies one active route entry into AENT0–7. -/
def execBrgAidxWrite (data : Word) (s : State) : Host.Outcome State Fault Refusal :=
  act (brgAidx data) s

end Sys2Proof.Machine
end

