-- ==== Sys2Proof/Machine/ExecCan.lean ====
section
/-! DEFINITION. The meanings of the commands of the CAN controllers (13): one definition for each. -/

namespace Sys2Proof.Machine

/-- CAN_LOAD (R338). TXCMD LOAD copies the staging area into a transmit buffer, making it LOADED. -/
def execCanLoad (src : Src) (k : BitVec 3) (b : BitVec 2) (s : State) : Host.Outcome State Fault Refusal :=
  act (canLoad src k b) s

/-- CAN_REQ (R338). TXCMD REQ makes a LOADED transmit buffer PENDING. -/
def execCanReq (src : Src) (k : BitVec 3) (b : BitVec 2) (s : State) : Host.Outcome State Fault Refusal :=
  act (canReq src k b) s

/-- CAN_LOADREQ (R338). TXCMD LOADREQ copies the staging area into a buffer and makes it PENDING. -/
def execCanLoadreq (src : Src) (k : BitVec 3) (b : BitVec 2) (s : State) : Host.Outcome State Fault Refusal :=
  act (canLoadreq src k b) s

/-- CAN_ABORT (R340). TXCMD ABORT makes a PENDING buffer LOADED, or lets a SENDING frame finish without retry. -/
def execCanAbort (src : Src) (k : BitVec 3) (b : BitVec 2) (s : State) : Host.Outcome State Fault Refusal :=
  act (canAbort src k b) s

/-- RECOVER (R346). CAN command RECOVER starts bus-off recovery when AUTOREC = 0. -/
def execCanRecover (k : BitVec 3) (s : State) : Host.Outcome State Fault Refusal :=
  act (canRecover k) s

/-- CAN_ARBITRATION (R339). At an opportunity to start a frame the controller chooses among its PENDING buffers. -/
def execCanArbitration (k : BitVec 3) (s : State) : Host.Outcome State Fault Refusal :=
  act (canArbitration k) s

/-- CAN_TRANSMIT_DONE (R340). A successful transmission makes the buffer LOADED or EMPTY by KEEP and counts in TXOK.
-/
def execCanTransmitDone (k : BitVec 3) (s : State) : Host.Outcome State Fault Refusal :=
  act (canTransmitDone k) s

/-- CAN_TRANSMIT_FAILED (R339). A frame that loses arbitration or meets an error returns its buffer to PENDING, or
LOADED with SS. -/
def execCanTransmitFailed (k : BitVec 3) (lost : Bool) (s : State) : Host.Outcome State Fault Refusal :=
  act (canTransmitFailed k lost) s

/-- CAN_FRAME_RECEIVED (R343). A frame received without error is filtered to a FIFO, the bridge or discard. -/
def execCanFrameReceived (k : BitVec 3) (frame : CanFrame) (ago : Nat) (s : State) :
    Host.Outcome State Fault Refusal :=
  act (canFrameReceived k frame ago) s

/-- CAN_ERROR_DETECTED (R345). A detected bus error updates TEC or REC and may change the error state. -/
def execCanErrorDetected (k : BitVec 3) (code : BitVec 3) (dataPhase : Bool) (role : CanErrorRole) (miniv : BitVec 16) (s : State) :
    Host.Outcome State Fault Refusal :=
  act (canErrorDetected k code dataPhase role miniv) s

/-- CAN_RECOVERY_DONE (R346). Bus-off recovery completes after 128 occurrences of 11 recessive bits. -/
def execCanRecoveryDone (k : BitVec 3) (s : State) : Host.Outcome State Fault Refusal :=
  act (canRecoveryDone k) s

/-- RATE_CANDIDATE_TIMEOUT (R337). A rate candidate's ADTIME ends without result and the next candidate is taken. -/
def execRateCandidateTimeout (k : BitVec 3) (miniv : BitVec 16) (s : State) : Host.Outcome State Fault Refusal :=
  act (canRateTimeout k miniv) s

/-- CAN_WAKE_UP (R336). A wake-up pattern on a standby transceiver is counted and raises event kind 0x0133. -/
def execCanWakeUp (k : BitVec 3) (s : State) : Host.Outcome State Fault Refusal :=
  act (canWake k) s

/-- TXD_DOMINANT_TIMEOUT (R332). The TXD dominant time-out releases the bus and raises fault kind 0xB5. -/
def execTxdDominantTimeout (k : BitVec 3) (s : State) : Host.Outcome State Fault Refusal :=
  act (canDominant k) s

/-- CAN_PLL_LOCKED (R333). The 80 MHz CAN PLL locks after PD14 powers up. -/
def execCanPllLocked (s : State) : Host.Outcome State Fault Refusal :=
  act canPllLocked s

/-- CAN_RX_POP (R344). A read of CANk.RXLq pops one entry of an RX FIFO. -/
def execCanRxPop (src : Src) (k : BitVec 3) (q : BitVec 1) (ecc : EccResult) (s : State) :
    Host.Outcome State Fault Refusal :=
  act (popAnswer src (fun s => s.canPop k.toNat q.toNat ecc)) s

/-- BUS_INTEGRATION_DONE (R347). A CAN controller that is integrating sees 11 consecutive recessive bits and becomes
error-active, able to receive and send. -/
def execBusIntegrationDone (k : BitVec 3) (s : State) : Host.Outcome State Fault Refusal :=
  act (canIntegrated k) s

/-- PROTOCOL_EXCEPTION (R346). A recessive res bit in an FD frame puts the controller into bus integration, counts
in PXCNT and raises fault kind 0xB3, or with PXD = 1 sends an error frame. -/
def execProtocolException (k : BitVec 3) (s : State) : Host.Outcome State Fault Refusal :=
  act (canProtocolException k) s

end Sys2Proof.Machine
end

