-- ==== Sys2Proof/Machine/ExecEngines.lean ====
section
/-! DEFINITION. The meanings of the commands of the pinna engines (12): one definition for each. -/

namespace Sys2Proof.Machine

/-- WAIT (R306). Engine instruction WAIT completes when its line meets the level or edge condition. -/
def execEngWait (nn : BitVec 4) (e : BitVec 2) (s : State) : Host.Outcome State Fault Refusal :=
  act (engWait nn e) s

/-- WAIT_FLAG (R314). Engine instruction WAIT with FLAG completes when a mark flag is set and clears it. -/
def execEngWaitFlag (nn : BitVec 4) (e : BitVec 2) (s : State) : Host.Outcome State Fault Refusal :=
  act (engWaitFlag nn e) s

/-- AT (R309). Engine instruction AT completes when the axis estimate is at or after X, then may advance X by Y. -/
def execEngAt (nn : BitVec 4) (e : BitVec 2) (s : State) : Host.Outcome State Fault Refusal :=
  act (engAt nn e) s

/-- SHIFT_OUT (R310). Engine instruction SHIFT out moves N bits from SR to lines, X or null. -/
def execEngShiftOut (nn : BitVec 4) (e : BitVec 2) (s : State) : Host.Outcome State Fault Refusal :=
  act (engShiftOut nn e) s

/-- SHIFT_IN (R310). Engine instruction SHIFT in moves N bits from lines, X or null into SR. -/
def execEngShiftIn (nn : BitVec 4) (e : BitVec 2) (s : State) : Host.Outcome State Fault Refusal :=
  act (engShiftIn nn e) s

/-- TAKE (R306). Engine instruction TAKE removes the TX queue head word into X, Y, SR or CNT. -/
def execEngTake (nn : BitVec 4) (e : BitVec 2) (ecc : EccResult) (s : State) : Host.Outcome State Fault Refusal :=
  act (engTake nn e ecc) s

/-- EMIT (R317). Engine instruction EMIT stores X, Y, SR or CNT as an item in the RX queue. -/
def execEngEmit (nn : BitVec 4) (e : BitVec 2) (s : State) : Host.Outcome State Fault Refusal :=
  act (engEmit nn e) s

/-- DRIVE_OFF (R306). Engine instruction DRIVE off sets the pin commands of the masked lines off. -/
def execEngDriveOff (nn : BitVec 4) (e : BitVec 2) (s : State) : Host.Outcome State Fault Refusal :=
  act (engDriveOff nn e) s

/-- DRIVE_ON (R306). Engine instruction DRIVE on sets the pin commands of the masked lines on. -/
def execEngDriveOn (nn : BitVec 4) (e : BitVec 2) (s : State) : Host.Outcome State Fault Refusal :=
  act (engDriveOn nn e) s

/-- DRIVE_TOGGLE (R306). Engine instruction DRIVE toggle inverts the pin commands of the masked lines. -/
def execEngDriveToggle (nn : BitVec 4) (e : BitVec 2) (s : State) : Host.Outcome State Fault Refusal :=
  act (engDriveToggle nn e) s

/-- DRIVE_FROM_X (R306). Engine instruction DRIVE from X sets each masked line's pin command from X. -/
def execEngDriveFromX (nn : BitVec 4) (e : BitVec 2) (s : State) : Host.Outcome State Fault Refusal :=
  act (engDriveFromX nn e) s

/-- COUNT_LOAD (R306). Engine instruction COUNT load sets CNT to its value. -/
def execEngCountLoad (nn : BitVec 4) (e : BitVec 2) (s : State) : Host.Outcome State Fault Refusal :=
  act (engCountLoad nn e) s

/-- COUNT_DECREMENT (R306). Engine instruction COUNT decrement lowers CNT, holding at 0, and jumps while non-zero
with JNZ. -/
def execEngCountDecrement (nn : BitVec 4) (e : BitVec 2) (s : State) : Host.Outcome State Fault Refusal :=
  act (engCountDecrement nn e) s

/-- BRANCH (R313). Engine instruction BRANCH sets PC to its target when its condition holds. -/
def execEngBranch (nn : BitVec 4) (e : BitVec 2) (s : State) : Host.Outcome State Fault Refusal :=
  act (engBranch nn e) s

/-- MARK (R306). Engine instruction MARK raises event kind 0x0120 and/or sets a mark flag. -/
def execEngMark (nn : BitVec 4) (e : BitVec 2) (s : State) : Host.Outcome State Fault Refusal :=
  act (engMark nn e) s

/-- HALT (R321). Engine instruction HALT ends the program, stopping the engine with PRESV = 0. -/
def execEngHalt (nn : BitVec 4) (e : BitVec 2) (s : State) : Host.Outcome State Fault Refusal :=
  act (engHalt nn e) s

/-- ENGINE_STALL_COMPLETE (R307). A stalled engine instruction completes in the first engine cycle in which its
condition holds. -/
def execEngineStallComplete (nn : BitVec 4) (e : BitVec 2) (ecc : EccResult) (s : State) :
    Host.Outcome State Fault Refusal :=
  act (engStallComplete nn e ecc) s

/-- ENGINE_DELAY_END (R307). The DLY steps after an engine instruction end and the next step begins. -/
def execEngineDelayEnd (nn : BitVec 4) (e : BitVec 2) (s : State) : Host.Outcome State Fault Refusal :=
  act (engDelayEnd nn e) s

/-- PIN_COMMAND_DEFERRED (R312). A pin command held back by the 250 ns minimum level time takes effect. -/
def execPinCommandDeferred (l : BitVec 8) (s : State) : Host.Outcome State Fault Refusal :=
  act (enginePinDeferred l) s

/-- ENGINE_TX_STAGE (R316). A write to ENGk.ETXL stages the low half of a TX word for the writing port. -/
def execEngineTxStage (src : Src) (nn : BitVec 4) (e : BitVec 2) (data : BitVec 16) (s : State) :
    Host.Outcome State Fault Refusal :=
  act (engTxStage src nn e data) s

/-- ENGINE_TX_APPEND (R316). A write to ENGk.ETXH appends a word to the TX queue or is refused and counted. -/
def execEngineTxAppend (src : Src) (nn : BitVec 4) (e : BitVec 2) (data : BitVec 16) (s : State) :
    Host.Outcome State Fault Refusal :=
  act (engTxAppend src nn e data) s

/-- ENGINE_RX_POP (R317). A read of ENGk.ERXL pops one entry of the engine's RX queue. -/
def execEngineRxPop (src : Src) (nn : BitVec 4) (e : BitVec 2) (ecc : EccResult) (s : State) :
    Host.Outcome State Fault Refusal :=
  act (popAnswer src (fun s => s.engRxPop (5 * nn.toNat + e.toNat) ecc)) s

/-- EMPTY_TX (R315). Queue command 0x1 empties the engine's TX queue while it is STOPPED. -/
def execEmptyTx (src : Src) (nn : BitVec 4) (e : BitVec 2) (s : State) : Host.Outcome State Fault Refusal :=
  act (engEmptyTx src nn e) s

/-- EMPTY_RX (R315). Queue command 0x2 empties the engine's RX queue while it is STOPPED. -/
def execEmptyRx (src : Src) (nn : BitVec 4) (e : BitVec 2) (s : State) : Host.Outcome State Fault Refusal :=
  act (engEmptyRx src nn e) s

/-- EMPTY_BOTH (R315). Queue command 0x3 empties both engine queues while it is STOPPED. -/
def execEmptyBoth (src : Src) (nn : BitVec 4) (e : BitVec 2) (s : State) : Host.Outcome State Fault Refusal :=
  act (engEmptyBoth src nn e) s

/-- PROGRAM_STORE_STAGE (R320). A write to FRDnn.PSLw stages the low 16 bits of a program word. -/
def execProgramStoreStage (src : Src) (nn : BitVec 4) (w : BitVec 6) (data : Word) (s : State) :
    Host.Outcome State Fault Refusal :=
  act (progStage src nn w data) s

/-- PROGRAM_STORE_WRITE (R320). A write to FRDnn.PSHw applies a program word while every engine is STOPPED and sets
DIRTY. -/
def execProgramStoreWrite (src : Src) (nn : BitVec 4) (w : BitVec 6) (data : Word) (s : State) :
    Host.Outcome State Fault Refusal :=
  act (progWrite src nn w data) s

/-- PFLAGSET (R314). A write to FRDnn.PFLAGSET sets the named mark flags at the end of the next engine cycle. -/
def execPflagset (nn : BitVec 4) (flags : BitVec 4) (s : State) : Host.Outcome State Fault Refusal :=
  act (engPflagSet nn flags) s

/-- ENGINE_SUBSTITUTION (R327). Once the frond is STOPPED, the spare physical engine replaces a failing one. -/
def execEngineSubstitution (nn : BitVec 4) (s : State) : Host.Outcome State Fault Refusal :=
  act (engSubstitute nn) s

/-- SPARE_ENGINE_TEST_FAILED (R326). The continuous test of an unused spare pinna engine fails and ENGMAP.SPAREOK
becomes 0. -/
def execSpareEngineTestFailed (nn : BitVec 4) (s : State) : Host.Outcome State Fault Refusal :=
  act (engSpareFailed nn) s

end Sys2Proof.Machine
end

