-- ==== Sys2Proof/Machine/ExecFaults.lean ====
section
/-! DEFINITION. The meanings of the commands of faults and the safe state (18): one definition for each. -/

namespace Sys2Proof.Machine

/-- FAULT_MESSAGE_PROCESS (R472). The collector takes the next message from its lanes, classifies it and applies the
reaction of its level. -/
def execFaultMessageProcess (s : State) : Host.Outcome State Fault Refusal :=
  act (fun s => pairWatch (faultProcess s)) s

/-- LINE_DIE_LINK_LOST (R481). A line die with no link traffic for 4 µs applies safe outputs itself and the
collector raises kind 0xE3. -/
def execLineDieLinkLost (die : Die) (s : State) : Host.Outcome State Fault Refusal :=
  act (fun s => pairWatch (dieLost die s)) s

/-- ALIVE_TOGGLE (R482). Each half period ALIVE changes level while its conditions hold. -/
def execAliveToggle (s : State) : Host.Outcome State Fault Refusal :=
  act aliveToggle s

/-- PEER_ALIVE_LOST (R483). No ALIVE_PEER edge for 4 × HALF declares the peer's ALIVE lost. -/
def execPeerAliveLost (s : State) : Host.Outcome State Fault Refusal :=
  act peerLost s

/-- PEER_ALIVE_PRESENT (R483). Eight consecutive valid ALIVE_PEER levels declare the peer's ALIVE present. -/
def execPeerAlivePresent (s : State) : Host.Outcome State Fault Refusal :=
  act peerPresent s

/-- FLT_ACK (R485). FLT.ACK with ALL = 0 clears PEND of one entry and acknowledges its node-safe cause. -/
def execFltAck (entry : BitVec 8) (s : State) : Host.Outcome State Fault Refusal :=
  act (fltAck entry) s

/-- FLT_ACK_ALL (R485). FLT.ACK with ALL = 1 clears PEND of every entry and sets SAFEACK. -/
def execFltAckAll (s : State) : Host.Outcome State Fault Refusal :=
  act fltAckAll s

/-- SAFE_EXIT (R486). FLT.SAFEEXIT ends node safe when it is acknowledged and both line dies are up. -/
def execSafeExit (src : Src) (s : State) : Host.Outcome State Fault Refusal :=
  actReset (regWrite src 0x21000C .word 0x00010001) s

/-- LINE_DIE_LINK_UP (R481). A line die's die-to-die link comes up again after a loss, LA_UP or LB_UP returns to 1
and register access resumes. -/
def execLineDieLinkUp (die : Die) (s : State) : Host.Outcome State Fault Refusal :=
  actReset (fun s => pairWatch (dieLinkUp die s)) s

end Sys2Proof.Machine
end

