-- ==== Sys2Proof/Machine/ExecFrames.lean ====
section
/-! DEFINITION. The meanings of the commands of frames, forwarding and buffers (05, 06): one definition for each. -/

namespace Sys2Proof.Machine

/-- FRAME_RECEIVED (R118). A frame arriving on a port has its header checked, HOPS decremented and is admitted,
forwarded or stripped. -/
def execFrameReceived (port : Link) (frame : Frame) (fin : FrameEnd) (s : State) : Host.Outcome State Fault Refusal :=
  act (fwdReceive port frame fin) s

/-- FRAME_DELIVERED (R134). A whole frame whose trailer checks is delivered to the consuming block of the hub. -/
def execFrameDelivered (lines : LineResult) (s : State) : Host.Outcome State Fault Refusal :=
  act (fwdDeliver lines) s

/-- FRAME_SENT (R137). At a frame end the output scheduler picks the next frame by class 0 priority, hold and
deficit round robin. -/
def execFrameSent (port : Link) (preempt : Option Nat) (lines : LineResult) (s : State) :
    Host.Outcome State Fault Refusal :=
  act (fwdSend State.ldly port preempt lines) s

/-- TOKEN_BUCKET_ADMIT (R123). A waiting class 0 frame is admitted when the token bucket holds at least its length.
-/
def execTokenBucketAdmit (s : State) : Host.Outcome State Fault Refusal :=
  act State.tokenAdmit s

/-- ORIGINATION_ADMITTED (R153). A held frame that the hub originates is admitted to every queue it needs in one
core tick. -/
def execOriginationAdmitted (s : State) : Host.Outcome State Fault Refusal :=
  act xactAdmit s

/-- EPOCH_ANNOUNCEMENT_SEND (R127). After a start of forwarding, an epoch announcement is sent, three times 10 µs
apart. -/
def execEpochAnnouncementSend (s : State) : Host.Outcome State Fault Refusal :=
  act fwdAnnounce s

end Sys2Proof.Machine
end

