-- ==== Sys2Proof/Machine/ExecFronds.lean ====
section
/-! DEFINITION. The meanings of the commands of fronds, RS-485 channels and encoders (11): one definition for each. -/

namespace Sys2Proof.Machine

/-- LOUT_WRITE (R277). A write to FRDnn.LOUT is sent to the line die at once and drives lines whose source is the
register. -/
def execLoutWrite (nn : BitVec 4) (data : Word) (s : State) : Host.Outcome State Fault Refusal :=
  act (loutWrite nn data) s

/-- FILTERED_EDGE (R279). A sampled level that has differed from the filtered level for FILT µs becomes a filtered
edge. -/
def execFilteredEdge (l : BitVec 8) (level : Bool) (s : State) : Host.Outcome State Fault Refusal :=
  act (lineEdge l level) s

/-- LINE_DIAGNOSTIC_ENTRY (R281). A line condition that has held for its time is entered, counted and reported with
its fault kind. -/
def execLineDiagnosticEntry (l : BitVec 8) (cond : LineCond) (s : State) : Host.Outcome State Fault Refusal :=
  act (fun s => lineCondEntry (s.unsupplied (l.toNat / 16)) l cond s) s

/-- LINE_DIAGNOSTIC_EXIT (R283). A line condition absent for its time is left and event kind 0x0112 is raised. -/
def execLineDiagnosticExit (l : BitVec 8) (cond : LineCond) (s : State) : Host.Outcome State Fault Refusal :=
  act (fun s => lineCondExit (s.unsupplied (l.toNat / 16)) l cond s) s

/-- LCMD_UNLATCH (R282). A write to FRDnn.LCMD ends the latch of the named lines, which take their source's present
command. -/
def execLcmdUnlatch (nn : BitVec 4) (lines : BitVec 16) (s : State) : Host.Outcome State Fault Refusal :=
  act (lcmdUnlatch nn lines) s

/-- FROND_BUDGET_OVER (R284). The summed frond output current above FBUDGET for 1 ms sets OVER and raises fault kind
0x94. -/
def execFrondBudgetOver (nn : BitVec 4) (s : State) : Host.Outcome State Fault Refusal :=
  act (fun s => frondOver (s.unsupplied nn.toNat) nn s) s

/-- FROND_BUDGET_CUT (R284). The summed current above FBUDGET + 300 mA for 100 µs latches every on output of the
frond. -/
def execFrondBudgetCut (nn : BitVec 4) (s : State) : Host.Outcome State Fault Refusal :=
  act (fun s => frondCut (s.unsupplied nn.toNat) nn s) s

/-- RS485_DRIVER_OFF (R287). An RS-485 driver in current limit for 1 ms or overheated is switched off and raises
fault kind 0x9A. -/
def execRs485DriverOff (ch : BitVec 5) (hot : Bool) (s : State) : Host.Outcome State Fault Refusal :=
  act (rs485Off ch hot) s

/-- UART_CHARACTER_RECEIVED (R289). A received character becomes an item in the channel's receive FIFO, with SOM and
errors flagged. -/
def execUartCharacterReceived (ch : BitVec 5) (data : BitVec 9) (perr : Bool) (ferr : Bool) (brk : Bool) (ago : Nat) (s : State) :
    Host.Outcome State Fault Refusal :=
  act (brgCharacter ch data perr ferr brk ago) s

/-- UART_IDLE_GAP (R290). The line idle for GAP bit-times after a character stores an EOM item. -/
def execUartIdleGap (ch : BitVec 5) (s : State) : Host.Outcome State Fault Refusal :=
  act (brgIdleGap ch) s

/-- UTX_WRITE (R291). A write to UTXc appends a word to the transmit FIFO or is refused and counted. -/
def execUtxWrite (ch : BitVec 5) (data : BitVec 10) (s : State) : Host.Outcome State Fault Refusal :=
  act (utxWrite ch data) s

/-- UART_TRANSMIT_START (R291). After the line has been idle for TURN bit-times, the transmitter enables its driver
and starts the next word. -/
def execUartTransmitStart (ch : BitVec 5) (s : State) : Host.Outcome State Fault Refusal :=
  act (uartTransmitStart ch) s

/-- UART_WORD_SENT (R291). A word has been sent, and after EOM or the last word the driver is released after TURN
bit-times. -/
def execUartWordSent (ch : BitVec 5) (s : State) : Host.Outcome State Fault Refusal :=
  act (uartWordSent ch) s

/-- UART_RX_POP (R289). A read of URXLc pops one entry of the receive FIFO. -/
def execUartRxPop (src : Src) (ch : BitVec 5) (ecc : EccResult) (s : State) : Host.Outcome State Fault Refusal :=
  act (popAnswer src (fun s => s.uartPop ch.toNat ecc)) s

/-- ENCODER_EDGE (R295). A filtered A or B edge changes the encoder count according to the counting mode. -/
def execEncoderEdge (u : BitVec 4) (a : Bool) (b : Bool) (gate : Bool) (s : State) :
    Host.Outcome State Fault Refusal :=
  act (encoderEdge u a b gate) s

/-- ENCODER_Z_EDGE (R296). A rising Z edge counts in EZCNT, latches the count and may load ELOAD. -/
def execEncoderZEdge (u : BitVec 4) (gate : Bool) (s : State) : Host.Outcome State Fault Refusal :=
  act (encoderZ u gate) s

/-- ENCODER_LOAD (R296). Encoder command LOAD sets the count to ELOAD and sets ZSET in the next sample. -/
def execEncoderLoad (u : BitVec 4) (s : State) : Host.Outcome State Fault Refusal :=
  act (encoderLoad u) s

/-- ARMZ (R296). Encoder command ARMZ arms a load of ELOAD on the next Z edge. -/
def execEncoderArmz (u : BitVec 4) (s : State) : Host.Outcome State Fault Refusal :=
  act (encoderArm u) s

/-- ENCODER_SIGNAL_LOSS (R297). An RS-422 pair below 200 mV for 1 µs, or a bad HTL line, enters encoder error cause
1 or 2. -/
def execEncoderSignalLoss (u : BitVec 4) (s : State) : Host.Outcome State Fault Refusal :=
  act (encoderLoss u) s

/-- ENCODER_SIGNAL_RESTORED (R297). Encoder error cause 1 or 2 ends, ESTAT.ENCERR clears and samples stop carrying
ENCERR. -/
def execEncoderSignalRestored (u : BitVec 4) (s : State) : Host.Outcome State Fault Refusal :=
  act (encoderRestored u) s

end Sys2Proof.Machine
end

