-- ==== Sys2Proof/Machine/ExecHost.lean ====
section
/-! DEFINITION. The meanings of the commands of spore records and host attachment (17): one definition for each. -/

namespace Sys2Proof.Machine

/-- LOCAL_GAP_RECORD (R445). Once a local spore queue has room after drops, a GAP record with the drop count is
stored. -/
def execLocalGapRecord (q : BitVec 4) (s : State) : Host.Outcome State Fault Refusal :=
  act (localGap q) s

/-- SPORE_FRAME_SEND (R447). A bound queue sends a spore frame when it holds BATCH records or its oldest has waited
HOLD µs. -/
def execSporeFrameSend (q : BitVec 4) (s : State) : Host.Outcome State Fault Refusal :=
  act (sporeSend q) s

/-- SPORE_FRAME_RECEIVED (R448). A delivered spore frame is ordered, checked and its records delivered to the host
queue. -/
def execSporeFrameReceived (s : State) : Host.Outcome State Fault Refusal :=
  act sporeReceived s

/-- HQCONS_WRITE (R453). A write to HQCONSh returns slots to the host queue. -/
def execHqconsWrite (src : Src) (h : BitVec 6) (data : Word) (s : State) : Host.Outcome State Fault Refusal :=
  act (hqconsWrite src h data) s

/-- HOST_QUEUE_ENABLE (R451). HQCTLh.EN going from 0 to 1 takes the queue settings and resets PROD and CONS. -/
def execHostQueueEnable (src : Src) (h : BitVec 6) (vec : BitVec 6) (size : BitVec 4) (s : State) :
    Host.Outcome State Fault Refusal :=
  act (hqctlWrite src h (enableWord vec size)) s

/-- MSIX_MODERATION_TIMEOUT (R454). HQMOD.TIME after the first unsignalled record, the host queue sends its MSI-X
vector. -/
def execMsixModerationTimeout (h : BitVec 6) (s : State) : Host.Outcome State Fault Refusal :=
  act (msixTimeout h) s

/-- PCIE_LINK_DOWN (R459). The PCIe link going down while function 11 runs is counted and raises fault kind 0xCB. -/
def execPcieLinkDown (s : State) : Host.Outcome State Fault Refusal :=
  act pcieLinkDown s

/-- FUNCTION_LEVEL_RESET (R460). A Function Level Reset resets configuration and MSI-X, disables host queues and DMA
channels. -/
def execFunctionLevelReset (s : State) : Host.Outcome State Fault Refusal :=
  act pcieFlr s

/-- BAR0_ACCESS (R457). A BAR0 request accesses the register window DW by DW. -/
def execBar0Access (off : BitVec 24) (write : Bool) (data : List (Option Byte)) (s : State) :
    Host.Outcome State Fault Refusal :=
  actReset (bar0Access off write data) s

/-- BAR4_ACCESS (R457). A BAR4 request accesses local regions 1–5 as local accesses. -/
def execBar4Access (off : BitVec 23) (write : Bool) (len : BitVec 13) (data : List (Option Byte)) (ecc : EccResult) (s : State) :
    Host.Outcome State Fault Refusal :=
  actReset (bar4Access off write len data ecc) s

/-- DMA_ENABLE (R461). DCTLc.EN going from 0 to 1 takes the ring settings and starts the channel. -/
def execDmaEnable (src : Src) (c : BitVec 3) (vec : BitVec 6) (size : BitVec 4) (s : State) :
    Host.Outcome State Fault Refusal :=
  act (dctlWrite src c (enableWord vec size)) s

/-- DMA_TAIL_WRITE (R461). A write to DTAILc hands descriptors to the channel. -/
def execDmaTailWrite (c : BitVec 3) (data : Word) (s : State) : Host.Outcome State Fault Refusal :=
  act (dtailWrite c data) s

/-- DMA_DESCRIPTOR_COMPLETE (R463). A descriptor completes, STS and DONEB are written, DHEAD advances and the vector
may be sent. -/
def execDmaDescriptorComplete (c : BitVec 3) (desc : List Byte) (s : State) : Host.Outcome State Fault Refusal :=
  act (dmaComplete c desc) s

/-- DMA_HOST_READ_TIMEOUT (R464). A host memory read without completion in 50 ms fails with TIMEOUT. -/
def execDmaHostReadTimeout (c : BitVec 3) (s : State) : Host.Outcome State Fault Refusal :=
  act (dmaTimeout c) s

/-- DMA_DISABLE (R465). Writing EN := 0 stops the channel after the descriptors already started. -/
def execDmaDisable (src : Src) (c : BitVec 3) (s : State) : Host.Outcome State Fault Refusal :=
  act (dctlWrite src c 0x80000000) s

/-- PCIE_LINK_UP (R459). PCIe link training completes and PCIE.STAT.LINKUP becomes 1, so spore records can be
delivered again. -/
def execPcieLinkUp (width : BitVec 3) (speed : BitVec 3) (s : State) : Host.Outcome State Fault Refusal :=
  act (pcieLinkUp width speed) s

/-- PCIE_CONFIGURATION_WRITE (R456). A configuration request from the host changes the header, Bus Master Enable,
MSI-X enable or function mask, or the power state. -/
def execPcieConfigurationWrite (bme : Bool) (msixEn : Bool) (fmask : Bool) (dstate : BitVec 2) (s : State) :
    Host.Outcome State Fault Refusal :=
  act (pcieConfig bme msixEn fmask dstate) s

end Sys2Proof.Machine
end

