-- ==== Sys2Proof/Machine/ExecHrk.lean ====
section
/-! DEFINITION. The meanings of the commands of the HRK32 instructions (16): one definition for each. -/

namespace Sys2Proof.Machine

/-- LUI (R419). LUI loads an 18-bit immediate shifted left by 14. -/
def execHkLui (p : Pair) (d : BitVec 4) (imm : BitVec 18) (s : State) : Host.Outcome State Fault Refusal :=
  act (fun s => s.compute p (fun x => x.setReg d (zx imm <<< 14))) s

/-- ADD (R419). ADD writes a + b and sets Z, N, C, V. -/
def execHkAdd (p : Pair) (d : BitVec 4) (a : BitVec 4) (b : BitVec 4) (s : State) :
    Host.Outcome State Fault Refusal :=
  act (fun s => s.alu p d (fun x => aluAdd x.flags (x.reg a) (x.reg b))) s

/-- ADDI (R419). ADDI writes a plus a sign-extended immediate and sets Z, N, C, V. -/
def execHkAddi (p : Pair) (d : BitVec 4) (a : BitVec 4) (imm : BitVec 14) (s : State) :
    Host.Outcome State Fault Refusal :=
  act (fun s => s.alu p d (fun x => aluAdd x.flags (x.reg a) (sx imm))) s

/-- SUB (R420). SUB writes a − b and sets Z, N, C, V. -/
def execHkSub (p : Pair) (d : BitVec 4) (a : BitVec 4) (b : BitVec 4) (s : State) :
    Host.Outcome State Fault Refusal :=
  act (fun s => s.alu p d (fun x => aluSub x.flags (x.reg a) (x.reg b))) s

/-- AND (R419). AND writes a and b. -/
def execHkAnd (p : Pair) (d : BitVec 4) (a : BitVec 4) (b : BitVec 4) (s : State) :
    Host.Outcome State Fault Refusal :=
  act (fun s => s.alu p d (fun x => aluLogic x.flags (x.reg a &&& x.reg b))) s

/-- ANDI (R419). ANDI writes a and a zero-extended immediate. -/
def execHkAndi (p : Pair) (d : BitVec 4) (a : BitVec 4) (imm : BitVec 14) (s : State) :
    Host.Outcome State Fault Refusal :=
  act (fun s => s.alu p d (fun x => aluLogic x.flags (x.reg a &&& zx imm))) s

/-- OR (R419). OR writes a or b. -/
def execHkOr (p : Pair) (d : BitVec 4) (a : BitVec 4) (b : BitVec 4) (s : State) : Host.Outcome State Fault Refusal :=
  act (fun s => s.alu p d (fun x => aluLogic x.flags (x.reg a ||| x.reg b))) s

/-- ORI (R419). ORI writes a or a zero-extended immediate. -/
def execHkOri (p : Pair) (d : BitVec 4) (a : BitVec 4) (imm : BitVec 14) (s : State) :
    Host.Outcome State Fault Refusal :=
  act (fun s => s.alu p d (fun x => aluLogic x.flags (x.reg a ||| zx imm))) s

/-- XOR (R419). XOR writes a xor b. -/
def execHkXor (p : Pair) (d : BitVec 4) (a : BitVec 4) (b : BitVec 4) (s : State) :
    Host.Outcome State Fault Refusal :=
  act (fun s => s.alu p d (fun x => aluLogic x.flags (x.reg a ^^^ x.reg b))) s

/-- XORI (R419). XORI writes a xor a zero-extended immediate. -/
def execHkXori (p : Pair) (d : BitVec 4) (a : BitVec 4) (imm : BitVec 14) (s : State) :
    Host.Outcome State Fault Refusal :=
  act (fun s => s.alu p d (fun x => aluLogic x.flags (x.reg a ^^^ zx imm))) s

/-- SHL (R419). SHL shifts a left by b[4:0]. -/
def execHkShl (p : Pair) (d : BitVec 4) (a : BitVec 4) (b : BitVec 4) (s : State) :
    Host.Outcome State Fault Refusal :=
  act (fun s => s.alu p d (fun x => aluShl x.flags (x.reg a) ((x.reg b).toNat % 32))) s

/-- SHLI (R419). SHLI shifts a left by an immediate. -/
def execHkShli (p : Pair) (d : BitVec 4) (a : BitVec 4) (imm : BitVec 5) (s : State) :
    Host.Outcome State Fault Refusal :=
  act (fun s => s.alu p d (fun x => aluShl x.flags (x.reg a) imm.toNat)) s

/-- SHR (R419). SHR shifts a right logically by b[4:0]. -/
def execHkShr (p : Pair) (d : BitVec 4) (a : BitVec 4) (b : BitVec 4) (s : State) :
    Host.Outcome State Fault Refusal :=
  act (fun s => s.alu p d (fun x => aluShr x.flags (x.reg a) ((x.reg b).toNat % 32))) s

/-- SHRI (R419). SHRI shifts a right logically by an immediate. -/
def execHkShri (p : Pair) (d : BitVec 4) (a : BitVec 4) (imm : BitVec 5) (s : State) :
    Host.Outcome State Fault Refusal :=
  act (fun s => s.alu p d (fun x => aluShr x.flags (x.reg a) imm.toNat)) s

/-- SRA (R419). SRA shifts a right arithmetically by b[4:0]. -/
def execHkSra (p : Pair) (d : BitVec 4) (a : BitVec 4) (b : BitVec 4) (s : State) :
    Host.Outcome State Fault Refusal :=
  act (fun s => s.alu p d (fun x => aluSra x.flags (x.reg a) ((x.reg b).toNat % 32))) s

/-- SRAI (R419). SRAI shifts a right arithmetically by an immediate. -/
def execHkSrai (p : Pair) (d : BitVec 4) (a : BitVec 4) (imm : BitVec 5) (s : State) :
    Host.Outcome State Fault Refusal :=
  act (fun s => s.alu p d (fun x => aluSra x.flags (x.reg a) imm.toNat)) s

/-- MUL (R419). MUL writes the low 32 bits of a × b. -/
def execHkMul (p : Pair) (d : BitVec 4) (a : BitVec 4) (b : BitVec 4) (s : State) :
    Host.Outcome State Fault Refusal :=
  act (fun s => s.alu p d (fun x => aluMul x.flags (x.reg a) (x.reg b))) s

/-- MULH (R419). MULH writes the high 32 bits of the signed product. -/
def execHkMulh (p : Pair) (d : BitVec 4) (a : BitVec 4) (b : BitVec 4) (s : State) :
    Host.Outcome State Fault Refusal :=
  act (fun s => s.alu p d (fun x => aluMulh x.flags (x.reg a) (x.reg b))) s

/-- DIV (R421). DIV writes the signed quotient truncated toward zero. -/
def execHkDiv (p : Pair) (d : BitVec 4) (a : BitVec 4) (b : BitVec 4) (s : State) :
    Host.Outcome State Fault Refusal :=
  act (fun s => s.alu p d (fun x => aluDiv x.flags (x.reg a) (x.reg b))) s

/-- DIVU (R421). DIVU writes the unsigned quotient. -/
def execHkDivu (p : Pair) (d : BitVec 4) (a : BitVec 4) (b : BitVec 4) (s : State) :
    Host.Outcome State Fault Refusal :=
  act (fun s => s.alu p d (fun x => aluDivu x.flags (x.reg a) (x.reg b))) s

/-- REM (R421). REM writes the signed remainder with the sign of a. -/
def execHkRem (p : Pair) (d : BitVec 4) (a : BitVec 4) (b : BitVec 4) (s : State) :
    Host.Outcome State Fault Refusal :=
  act (fun s => s.alu p d (fun x => aluRem x.flags (x.reg a) (x.reg b))) s

/-- REMU (R421). REMU writes the unsigned remainder. -/
def execHkRemu (p : Pair) (d : BitVec 4) (a : BitVec 4) (b : BitVec 4) (s : State) :
    Host.Outcome State Fault Refusal :=
  act (fun s => s.alu p d (fun x => aluRemu x.flags (x.reg a) (x.reg b))) s

/-- MIN (R419). MIN writes the signed lesser of a and b. -/
def execHkMin (p : Pair) (d : BitVec 4) (a : BitVec 4) (b : BitVec 4) (s : State) :
    Host.Outcome State Fault Refusal :=
  act (fun s => s.alu p d (fun x => aluMin x.flags (x.reg a) (x.reg b))) s

/-- MAX (R419). MAX writes the signed greater of a and b. -/
def execHkMax (p : Pair) (d : BitVec 4) (a : BitVec 4) (b : BitVec 4) (s : State) :
    Host.Outcome State Fault Refusal :=
  act (fun s => s.alu p d (fun x => aluMax x.flags (x.reg a) (x.reg b))) s

/-- CLZ (R419). CLZ writes the number of leading zero bits of a. -/
def execHkClz (p : Pair) (d : BitVec 4) (a : BitVec 4) (s : State) : Host.Outcome State Fault Refusal :=
  act (fun s => s.alu p d (fun x => aluClz x.flags (x.reg a))) s

/-- LB (R422). LB loads a sign-extended byte. -/
def execHkLb (p : Pair) (d : BitVec 4) (a : BitVec 4) (post : Bool) (imm : BitVec 14) (ecc : EccResult) (s : State) :
    Host.Outcome State Fault Refusal :=
  act (ncpLoad .lb p d a post imm ecc) s

/-- LBU (R422). LBU loads a zero-extended byte. -/
def execHkLbu (p : Pair) (d : BitVec 4) (a : BitVec 4) (post : Bool) (imm : BitVec 14) (ecc : EccResult) (s : State) :
    Host.Outcome State Fault Refusal :=
  act (ncpLoad .lbu p d a post imm ecc) s

/-- LH (R422). LH loads a sign-extended half-word. -/
def execHkLh (p : Pair) (d : BitVec 4) (a : BitVec 4) (post : Bool) (imm : BitVec 14) (ecc : EccResult) (s : State) :
    Host.Outcome State Fault Refusal :=
  act (ncpLoad .lh p d a post imm ecc) s

/-- LHU (R422). LHU loads a zero-extended half-word. -/
def execHkLhu (p : Pair) (d : BitVec 4) (a : BitVec 4) (post : Bool) (imm : BitVec 14) (ecc : EccResult) (s : State) :
    Host.Outcome State Fault Refusal :=
  act (ncpLoad .lhu p d a post imm ecc) s

/-- LW (R422). LW loads a word. -/
def execHkLw (p : Pair) (d : BitVec 4) (a : BitVec 4) (post : Bool) (imm : BitVec 14) (ecc : EccResult) (s : State) :
    Host.Outcome State Fault Refusal :=
  act (ncpLoad .lw p d a post imm ecc) s

/-- LD (R422). LD loads two words into a register pair. -/
def execHkLd (p : Pair) (d : BitVec 4) (a : BitVec 4) (post : Bool) (imm : BitVec 14) (ecc : EccResult) (s : State) :
    Host.Outcome State Fault Refusal :=
  act (ncpLoad .ld p d a post imm ecc) s

/-- SB (R422). SB stores a byte. -/
def execHkSb (p : Pair) (d : BitVec 4) (a : BitVec 4) (post : Bool) (imm : BitVec 14) (s : State) :
    Host.Outcome State Fault Refusal :=
  actReset (ncpStore 1 p d a post imm) s

/-- SH (R422). SH stores a half-word. -/
def execHkSh (p : Pair) (d : BitVec 4) (a : BitVec 4) (post : Bool) (imm : BitVec 14) (s : State) :
    Host.Outcome State Fault Refusal :=
  actReset (ncpStore 2 p d a post imm) s

/-- SW (R422). SW stores a word. -/
def execHkSw (p : Pair) (d : BitVec 4) (a : BitVec 4) (post : Bool) (imm : BitVec 14) (s : State) :
    Host.Outcome State Fault Refusal :=
  actReset (ncpStore 4 p d a post imm) s

/-- SD (R422). SD stores a register pair as two words. -/
def execHkSd (p : Pair) (d : BitVec 4) (a : BitVec 4) (post : Bool) (imm : BitVec 14) (s : State) :
    Host.Outcome State Fault Refusal :=
  actReset (ncpStore 8 p d a post imm) s

/-- BEQ (R419). BEQ branches when a = b. -/
def execHkBeq (p : Pair) (a : BitVec 4) (b : BitVec 4) (imm : BitVec 14) (s : State) :
    Host.Outcome State Fault Refusal :=
  act (fun s => s.branchIf p imm (fun x => x.reg a == x.reg b)) s

/-- BNE (R419). BNE branches when a ≠ b. -/
def execHkBne (p : Pair) (a : BitVec 4) (b : BitVec 4) (imm : BitVec 14) (s : State) :
    Host.Outcome State Fault Refusal :=
  act (fun s => s.branchIf p imm (fun x => x.reg a != x.reg b)) s

/-- BLT (R419). BLT branches when a < b, signed. -/
def execHkBlt (p : Pair) (a : BitVec 4) (b : BitVec 4) (imm : BitVec 14) (s : State) :
    Host.Outcome State Fault Refusal :=
  act (fun s => s.branchIf p imm (fun x => (x.reg a).slt (x.reg b))) s

/-- BGE (R419). BGE branches when a ≥ b, signed. -/
def execHkBge (p : Pair) (a : BitVec 4) (b : BitVec 4) (imm : BitVec 14) (s : State) :
    Host.Outcome State Fault Refusal :=
  act (fun s => s.branchIf p imm (fun x => !(x.reg a).slt (x.reg b))) s

/-- BLTU (R419). BLTU branches when a < b, unsigned. -/
def execHkBltu (p : Pair) (a : BitVec 4) (b : BitVec 4) (imm : BitVec 14) (s : State) :
    Host.Outcome State Fault Refusal :=
  act (fun s => s.branchIf p imm (fun x => (x.reg a).ult (x.reg b))) s

/-- BGEU (R419). BGEU branches when a ≥ b, unsigned. -/
def execHkBgeu (p : Pair) (a : BitVec 4) (b : BitVec 4) (imm : BitVec 14) (s : State) :
    Host.Outcome State Fault Refusal :=
  act (fun s => s.branchIf p imm (fun x => !(x.reg a).ult (x.reg b))) s

/-- BFS (R419). BFS branches when the named flag is 1. -/
def execHkBfs (p : Pair) (f : BitVec 2) (imm : BitVec 14) (s : State) : Host.Outcome State Fault Refusal :=
  act (fun s => s.branchIf p imm (fun x => x.flags.pick f)) s

/-- BFC (R419). BFC branches when the named flag is 0. -/
def execHkBfc (p : Pair) (f : BitVec 2) (imm : BitVec 14) (s : State) : Host.Outcome State Fault Refusal :=
  act (fun s => s.branchIf p imm (fun x => !x.flags.pick f)) s

/-- JAL (R424). JAL writes the return address and jumps PC-relative. -/
def execHkJal (p : Pair) (d : BitVec 4) (imm : BitVec 22) (s : State) : Host.Outcome State Fault Refusal :=
  act (ncpJal p d imm) s

/-- JALR (R424). JALR jumps to a + offset and writes the return address. -/
def execHkJalr (p : Pair) (d : BitVec 4) (a : BitVec 4) (imm : BitVec 14) (s : State) :
    Host.Outcome State Fault Refusal :=
  act (ncpJalr p d a imm) s

/-- CAS (R423). CAS indivisibly compares a word with d and stores b when they are equal. -/
def execHkCas (p : Pair) (d : BitVec 4) (a : BitVec 4) (b : BitVec 4) (ecc : EccResult) (s : State) :
    Host.Outcome State Fault Refusal :=
  act (ncpCas p d a b ecc) s

/-- SWP (R423). SWP indivisibly swaps a word with b. -/
def execHkSwp (p : Pair) (d : BitVec 4) (a : BitVec 4) (b : BitVec 4) (ecc : EccResult) (s : State) :
    Host.Outcome State Fault Refusal :=
  act (ncpSwp p d a b ecc) s

/-- MFS (R431). MFS reads a system register. -/
def execHkMfs (p : Pair) (d : BitVec 4) (n : BitVec 12) (s : State) : Host.Outcome State Fault Refusal :=
  act (ncpMfs p d n) s

/-- MTS (R431). MTS writes a system register. -/
def execHkMts (p : Pair) (a : BitVec 4) (n : BitVec 12) (s : State) : Host.Outcome State Fault Refusal :=
  act (ncpMts p a n) s

/-- FENCE (R430). FENCE completes once every earlier access of the pair has completed and discards prefetched
instructions. -/
def execHkFence (p : Pair) (s : State) : Host.Outcome State Fault Refusal :=
  act (ncpFence p) s

/-- TRAP (R432). TRAP takes trap 0x7 with its immediate in CAUSE.IMM. -/
def execHkTrap (p : Pair) (imm : BitVec 14) (s : State) : Host.Outcome State Fault Refusal :=
  act (ncpTrap p imm) s

/-- RETT (R435). RETT restores PC, flags, interrupt enable and mode from the trap state. -/
def execHkRett (p : Pair) (s : State) : Host.Outcome State Fault Refusal :=
  act (ncpRett p) s

/-- WFE (R425). WFE waits until a level at or above its operand is pending and writes the highest pending level. -/
def execHkWfe (p : Pair) (d : BitVec 4) (imm : BitVec 4) (s : State) : Host.Outcome State Fault Refusal :=
  act (ncpWfe p d imm) s

/-- SPORE (R426). SPORE posts one software event from a permitted source with a kind and payload. -/
def execHkSpore (p : Pair) (a : BitVec 4) (b : BitVec 4) (c : BitVec 4) (s : State) :
    Host.Outcome State Fault Refusal :=
  act (ncpSpore p a b c) s

/-- AXR (R427). AXR evaluates an axis estimate and writes its count, fraction and flags. -/
def execHkAxr (p : Pair) (d : BitVec 4) (a : BitVec 4) (imm : BitVec 14) (s : State) :
    Host.Outcome State Fault Refusal :=
  act (ncpAxr p d a imm) s

/-- TIM_TIME (R428). TIM with code 0b00 reads fabric time in whole ns. -/
def execHkTimTime (p : Pair) (d : BitVec 4) (s : State) : Host.Outcome State Fault Refusal :=
  act (ncpTimTime p d) s

/-- TIM_TICK (R428). TIM with code 0b01 reads the tick count. -/
def execHkTimTick (p : Pair) (d : BitVec 4) (s : State) : Host.Outcome State Fault Refusal :=
  act (ncpTimTick p d) s

/-- TIM_FRACTION (R428). TIM with code 0b10 reads the time fraction, SYNC and whole ns [31:0]. -/
def execHkTimFraction (p : Pair) (d : BitVec 4) (s : State) : Host.Outcome State Fault Refusal :=
  act (ncpTimFraction p d) s

/-- FIRE (R429). FIRE pushes 32 bytes from memory into the append queue as one action entry and sets Z. -/
def execHkFire (p : Pair) (a : BitVec 4) (ecc : EccResult) (s : State) : Host.Outcome State Fault Refusal :=
  act (ncpFire p a ecc) s

/-- ILLEGAL_INSTRUCTION (R415). A pair issues a word with an unlisted opcode, a non-zero zero field or a reserved
operand code, and takes the illegal-instruction trap. -/
def execIllegalInstruction (p : Pair) (word : Word) (s : State) : Host.Outcome State Fault Refusal :=
  act (ncpIllegal p word) s

end Sys2Proof.Machine
end

