-- ==== Sys2Proof/Machine/ExecImages.lean ====
section
/-! DEFINITION. The meanings of the commands of images and the peat store (03): one definition for each. -/

namespace Sys2Proof.Machine

/-- SYS_RESET_RELOAD (R79). SYS.RESET kind 0b11 stops every function and applies the image and its start list again.
-/
def execSysResetReload (src : Src) (s : State) : Host.Outcome State Fault Refusal :=
  actReset (regWrite src 0x000024 .word 0x00030003) s

/-- BOOT_IMAGE (R73). Once BISTDONE is set, the boot ROM applies the overlay, selects and authenticates a slot
image, applies it and issues the start list, or waits as a bare hub. -/
def execBootImage (s : State) : Host.Outcome State Fault Refusal :=
  actReset bootImage s

/-- ERASE (R82). PEAT command ERASE sets a slot to EMPTY and erases its 27 sectors. -/
def execPeatErase (src : Src) (s : State) : Host.Outcome State Fault Refusal :=
  act (peatCommand 1 src) s

/-- PROGRAM (R82). PEAT command PROGRAM copies ARG1.LEN × 64 bytes from the staging area into an empty erased slot.
-/
def execPeatProgram (src : Src) (s : State) : Host.Outcome State Fault Refusal :=
  act (peatCommand 2 src) s

/-- VERIFY (R82). PEAT command VERIFY authenticates a slot's image and makes an EMPTY slot WRITTEN on success. -/
def execPeatVerify (src : Src) (s : State) : Host.Outcome State Fault Refusal :=
  act (peatCommand 3 src) s

/-- ARM (R82). PEAT command ARM makes a WRITTEN or GOOD slot TRIAL. -/
def execPeatArm (src : Src) (s : State) : Host.Outcome State Fault Refusal :=
  act (peatCommand 4 src) s

/-- CONFIRM (R82). PEAT command CONFIRM makes the TRYING slot of the applied image GOOD. -/
def execPeatConfirm (src : Src) (s : State) : Host.Outcome State Fault Refusal :=
  act (peatCommand 5 src) s

/-- APPLYSTAGE (R81). PEAT command APPLYSTAGE authenticates and applies the staged image on a hub with no applied
image. -/
def execPeatApplystage (src : Src) (s : State) : Host.Outcome State Fault Refusal :=
  act (peatCommand 6 src) s

/-- RELOAD (R85). PEAT command RELOAD applies from a slot every record that belongs to one stopped function and its
children. -/
def execPeatReload (src : Src) (s : State) : Host.Outcome State Fault Refusal :=
  act (peatCommand 7 src) s

/-- OVLWRITE (R82). PEAT command OVLWRITE writes the staged overlay to both overlay copies. -/
def execPeatOvlwrite (src : Src) (s : State) : Host.Outcome State Fault Refusal :=
  act (peatCommand 8 src) s

/-- OVLERASE (R82). PEAT command OVLERASE erases both overlay copies. -/
def execPeatOvlerase (src : Src) (s : State) : Host.Outcome State Fault Refusal :=
  act (peatCommand 9 src) s

/-- NODEASG (R82). PEAT command NODEASG appends ARG2.NODE as the assigned number to both boot records. -/
def execPeatNodeasg (src : Src) (s : State) : Host.Outcome State Fault Refusal :=
  act (peatCommand 10 src) s

/-- KEYPROG (R82). PEAT command KEYPROG programs a key slot with the digest at staging offset 0. -/
def execPeatKeyprog (src : Src) (s : State) : Host.Outcome State Fault Refusal :=
  act (peatCommand 11 src) s

/-- KEYREVOKE (R82). PEAT command KEYREVOKE revokes a key slot. -/
def execPeatKeyrevoke (src : Src) (s : State) : Host.Outcome State Fault Refusal :=
  act (peatCommand 12 src) s

/-- SVNADV (R72). PEAT command SVNADV raises the security-version fuse count to the applied image's security
version. -/
def execPeatSvnadv (src : Src) (s : State) : Host.Outcome State Fault Refusal :=
  act (peatCommand 13 src) s

/-- PEAT_COMMAND_DONE (R83). A running PEAT command ends, BUSY clears and RESULT is set, with ERR and ERRCNT on
failure. -/
def execPeatCommandDone (failed : Option (Die × BitVec 5)) (s : State) : Host.Outcome State Fault Refusal :=
  actReset (peatDone failed) s

/-- PEAT_LINE_DIE_LOST (R84). A line die losing power or link during a PEAT command ends it with result 0x7. -/
def execPeatLineDieLost (s : State) : Host.Outcome State Fault Refusal :=
  act peatLost s

end Sys2Proof.Machine
end

