-- ==== Sys2Proof/Machine/ExecLinks.lean ====
section
/-! DEFINITION. The meanings of the commands of the links (04): one definition for each. -/

namespace Sys2Proof.Machine

/-- SIGNAL_DETECTED (R97). A differential swing of at least 80 mV is detected and the link enters TRAINING. -/
def execSignalDetected (port : Link) (s : State) : Host.Outcome State Fault Refusal :=
  act (linkSignal port) s

/-- CLOCK_RECOVERY_LOCKED (R97). Clock recovery of a training link locks. -/
def execClockRecoveryLocked (port : Link) (s : State) : Host.Outcome State Fault Refusal :=
  act (linkClock port) s

/-- EQUALISER_ADAPTED (R97). The receiver equaliser of a training link finishes adapting. -/
def execEqualiserAdapted (port : Link) (s : State) : Host.Outcome State Fault Refusal :=
  act (linkEqualiser port) s

/-- BLOCK_LOCK (R97). After 64 consecutive valid sync headers the link has block lock and enters HANDSHAKE. -/
def execBlockLock (port : Link) (s : State) : Host.Outcome State Fault Refusal :=
  act (linkBlockLock port) s

/-- SUPERVISION_BLOCK_RECEIVED (R95). A supervision block is received, its CRC checked and the peer's state, node,
slot and lead recorded. -/
def execSupervisionBlockReceived (port : Link) (block : DWord) (s : State) : Host.Outcome State Fault Refusal :=
  act (fun s => pairWatch (linkSupervision port block s)) s

/-- SUPERVISION_BLOCK_SEND (R94). Every 1 µs the transmitter sends one supervision block at the next block boundary.
-/
def execSupervisionBlockSend (port : Link) (s : State) : Host.Outcome State Fault Refusal :=
  act (linkSupSend port) s

/-- BLOCK_ERROR (R93). A received block with an invalid sync header or an unknown control type is counted. -/
def execBlockError (port : Link) (what : BlockFault) (gap : Nat) (s : State) : Host.Outcome State Fault Refusal :=
  act (fun s => pairWatch (linkBlockError port what gap s)) s

/-- RATE_CYCLE_EXPIRY (R90). Under automatic rate, the training period at one rate ends and the port switches to the
other rate. -/
def execRateCycleExpiry (port : Link) (s : State) : Host.Outcome State Fault Refusal :=
  act (linkRateCycle port) s

/-- HOLD_DOWN_EXPIRY (R99). The 1 ms hold-down of a DOWN link ends and training starts again. -/
def execHoldDownExpiry (port : Link) (s : State) : Host.Outcome State Fault Refusal :=
  act (linkHoldEnd port) s

/-- MODULE_LOS (R101). The module LOS pin asserted takes the link DOWN with cause 0x1. -/
def execModuleLos (port : Link) (s : State) : Host.Outcome State Fault Refusal :=
  act (fun s => pairWatch (linkModuleLos port s)) s

/-- SIGNAL_LOST (R101). The receiver signal falling below 80 mV takes the link DOWN with cause 0x2. -/
def execSignalLost (port : Link) (s : State) : Host.Outcome State Fault Refusal :=
  act (fun s => pairWatch (linkSignalLost port s)) s

/-- SUPERVISION_TIMEOUT (R101). No valid supervision block for 4 µs takes the link DOWN with cause 0x4. -/
def execSupervisionTimeout (port : Link) (s : State) : Host.Outcome State Fault Refusal :=
  act (fun s => pairWatch (linkSupTimeout port s)) s

/-- MODULE_ABSENT (R106). A high MODABS on an SFP28 cage holds the link DOWN with cause 0x6 and raises fault kind
0x43. -/
def execModuleAbsent (port : Link) (s : State) : Host.Outcome State Fault Refusal :=
  act (fun s => pairWatch (linkModuleAbsent port s)) s

/-- RETRAIN (R100). The link command RETRAIN takes a link to DOWN and restarts its hold-down. -/
def execLinkRetrain (port : Link) (s : State) : Host.Outcome State Fault Refusal :=
  act (fun s => pairWatch (linkRetrain port s)) s

/-- RATEUP (R91). The link command RATEUP retrains a ring port under automatic rate at 25.78125 GBd. -/
def execLinkRateup (port : Link) (s : State) : Host.Outcome State Fault Refusal :=
  act (fun s => pairWatch (linkRateup port s)) s

/-- MODULE_TRANSFER (R108). A write to MMCTL starts one byte transfer on the module's two-wire bus. -/
def execModuleTransfer (src : Src) (port : Link) (data : Word) (s : State) : Host.Outcome State Fault Refusal :=
  act (linkMmctl src port data) s

/-- MODULE_TRANSFER_DONE (R108). A module byte transfer ends, with NACK or ERR set when it failed. -/
def execModuleTransferDone (port : Link) (nack : Bool) (removed : Bool) (data : Byte) (s : State) :
    Host.Outcome State Fault Refusal :=
  act (linkMmDone port nack removed data) s

/-- MODULE_TRANSFER_TIMEOUT (R108). A module transfer not ended within 1 ms ends with ERR = 1. -/
def execModuleTransferTimeout (port : Link) (s : State) : Host.Outcome State Fault Refusal :=
  act (linkMmTimeout port) s

/-- SLICE_SHADOW_ROUND (R109). A 1 ms shadow period of a deserializer slice ends and the slice may be marked
failing. -/
def execSliceShadowRound (port : Link) (slice : BitVec 5) (disagreements : Nat) (s : State) :
    Host.Outcome State Fault Refusal :=
  act (linkSliceRound port slice disagreements) s

/-- QUALITY_WINDOW_END (R110). A link quality window ends, WINERR is updated and DEGRADED may change. -/
def execQualityWindowEnd (port : Link) (eyeh : Byte) (eyev : Byte) (s : State) : Host.Outcome State Fault Refusal :=
  act (linkQuality port eyeh eyev) s

end Sys2Proof.Machine
end

