-- ==== Sys2Proof/Machine/ExecNcp.lean ====
section
/-! DEFINITION. The meanings of the commands of the NCP pairs (15): one definition for each. -/

namespace Sys2Proof.Machine

/-- EVENT_TRAP (R398). A pending level above the served level with interrupts enabled makes the pair take the event
trap. -/
def execEventTrap (p : Pair) (s : State) : Host.Outcome State Fault Refusal :=
  act (ncpEventTrap p) s

/-- NCP_CLAIM (R399). A read of NCP.xCLAIM returns and clears the lowest pending source of the served level. -/
def execNcpClaim (src : Src) (p : Pair) (s : State) : Host.Outcome State Fault Refusal :=
  act (claimAnswer src p) s

/-- NCP_EOI (R399). A write to NCP.xEOI ends service of the present level. -/
def execNcpEoi (p : Pair) (s : State) : Host.Outcome State Fault Refusal :=
  act (ncpEoi p) s

/-- LOCKSTEP_MISMATCH (R402). A failed lockstep comparison stops both cores and sends fault kind 0x18 at level 3. -/
def execLockstepMismatch (p : Pair) (pc : Word) (kind : BitVec 2) (s : State) : Host.Outcome State Fault Refusal :=
  act (ncpMismatch p pc kind) s

/-- WATCHDOG_KICK (R407). A write of 0x0C5A to NCP.xKICK restarts the watchdog; any other value counts as expiry. -/
def execWatchdogKick (p : Pair) (value : BitVec 16) (s : State) : Host.Outcome State Fault Refusal :=
  act (ncpKick p value) s

/-- WATCHDOG_EXPIRY (R407). The pair watchdog expires, raises fault kind 0xD1 and restarts. -/
def execWatchdogExpiry (p : Pair) (s : State) : Host.Outcome State Fault Refusal :=
  act (ncpWatchdog p) s

/-- LOCKSTEP_SELF_TEST_DONE (R406). The lockstep self-test after a CLEAR ends, halting the pair with fault kind 0xD0
if it failed. -/
def execLockstepSelfTestDone (p : Pair) (ok : Bool) (s : State) : Host.Outcome State Fault Refusal :=
  act (ncpSelfTest p ok) s

end Sys2Proof.Machine
end

