-- ==== Sys2Proof/Machine/ExecPair.lean ====
section
/-! DEFINITION. The meanings of the commands of the lichen pair (19): one definition for each. -/

namespace Sys2Proof.Machine

/-- PAIR_LOGIC_ENTRY (R495). A hub with a valid image enters the pair logic and decides its role by slot, PEERALIVE
and twin link. -/
def execPairLogicEntry (s : State) : Host.Outcome State Fault Refusal :=
  act pairEntry s

/-- TWIN_WAIT_TIMEOUT (R495). A slot 0 hub that has waited 100 ms without an UP twin link becomes PROBING or
RESTING. -/
def execTwinWaitTimeout (s : State) : Host.Outcome State Fault Refusal :=
  act pairTwinTimeout s

/-- PROBE_RESULT_TIMEOUT (R496). A PROBING hub whose ring ports stay down for 100 ms becomes RESTING and raises kind
0xE9. -/
def execProbeResultTimeout (s : State) : Host.Outcome State Fault Refusal :=
  act pairProbeResult s

/-- PROBE_REPEAT (R496). Every 10 s a resting slot 0 hub that cannot see its peer probes again. -/
def execProbeRepeat (s : State) : Host.Outcome State Fault Refusal :=
  act pairProbeAgain s

/-- BOOTWAIT_EXPIRY (R498). PEERALIVE at 0 for BOOTWAIT ms takes a resting hub to TAKING without a checkpoint. -/
def execBootwaitExpiry (s : State) : Host.Outcome State Fault Refusal :=
  act pairBootwait s

/-- FALLEN_SAFE_END (R500). Two ms after FALLEN the line dies enter rest hold. -/
def execFallenSafeEnd (s : State) : Host.Outcome State Fault Refusal :=
  act pairFallenEnd s

/-- CHECKPOINT_INCREMENT_SEND (R502). Each checkpoint period a leading hub sends an increment, or a base checkpoint
when needed. -/
def execCheckpointIncrementSend (s : State) : Host.Outcome State Fault Refusal :=
  act ckptSend s

/-- CHECKPOINT_PART_RECEIVED (R505). A resting hub stages checkpoint parts and applies a checked in-sequence
increment whole. -/
def execCheckpointPartReceived (seq : Word) (base : Bool) (recs : List CkptRecord) (last : Bool) (ok : Bool) (s : State) :
    Host.Outcome State Fault Refusal :=
  act (ckptPart seq base recs last ok) s

/-- CHECKPOINT_SILENCE (R505). No increment for 3 periods sets SYNC to GAP. -/
def execCheckpointSilence (s : State) : Host.Outcome State Fault Refusal :=
  act ckptSilence s

/-- HEALTH_REPORT_SEND (R513). Every 10 ms a hub sends its health report over the twin link. -/
def execHealthReportSend (s : State) : Host.Outcome State Fault Refusal :=
  act healthSend s

/-- HEALTH_REPORT_RECEIVED (R513). The peer's health report is stored in TWIN.PHLTH0–7. -/
def execHealthReportReceived (s : State) : Host.Outcome State Fault Refusal :=
  act healthReceived s

/-- HANDOVER_MESSAGE_RECEIVED (R511). A handover message between the pair starts or advances a handover. -/
def execHandoverMessageReceived (m : HandoverMsg) (s : State) : Host.Outcome State Fault Refusal :=
  act (handMessage m) s

/-- HANDBACK_HOLDOFF_EXPIRY (R510). A fit resting slot 0 hub requests a hand-back once its conditions have held for
HOLDOFF s. -/
def execHandbackHoldoffExpiry (s : State) : Host.Outcome State Fault Refusal :=
  act pairHoldoff s

/-- HANDBACK (R510). Pair command HANDBACK requests a hand-back at once. -/
def execPairHandback (s : State) : Host.Outcome State Fault Refusal :=
  act pairHandback s

/-- YIELD (R510). Pair command YIELD offers leadership to the peer. -/
def execPairYield (s : State) : Host.Outcome State Fault Refusal :=
  act pairYield s

/-- RESYNC (R502). Pair command RESYNC makes the leader send a base checkpoint. -/
def execPairResync (s : State) : Host.Outcome State Fault Refusal :=
  act pairResync s

/-- HOLD (R510). Pair command HOLD sets HELD, suppressing automatic hand-back. -/
def execPairHold (s : State) : Host.Outcome State Fault Refusal :=
  act pairHold s

/-- RELEASE (R510). Pair command RELEASE clears HELD. -/
def execPairRelease (s : State) : Host.Outcome State Fault Refusal :=
  act pairRelease s

/-- HANDOVER_FREEZE (R511). At T0 the giver freezes its outputs, stops the lead set and sends the final increment.
-/
def execHandoverFreeze (s : State) : Host.Outcome State Fault Refusal :=
  act handFreeze s

/-- HANDOVER_SWITCH (R511). After at least 100 µs of overlap the receiver asserts LEAD and the giver negates it. -/
def execHandoverSwitch (s : State) : Host.Outcome State Fault Refusal :=
  act handSwitch s

/-- HANDOVER_DONE (R511). The receiver starts the lead set, ends the freeze and enters LEADING. -/
def execHandoverDone (s : State) : Host.Outcome State Fault Refusal :=
  act handDone s

/-- RESTING_HUB_SELF_TEST (R513). The resting hub's periodic self-test runs its line-die link check every 1 ms and
its pair A lockstep test every 10 s, and raises fault kind 0xED on failure. -/
def execRestingHubSelfTest (check : BitVec 4) (pass : Bool) (s : State) : Host.Outcome State Fault Refusal :=
  act (pairSelfTest check pass) s

end Sys2Proof.Machine
end

