-- ==== Sys2Proof/Machine/ExecPower.lean ====
section
/-! DEFINITION. The meanings of the commands of power (20): one definition for each. -/

namespace Sys2Proof.Machine

/-- POWER_ON (R520). VIN rising through the start threshold starts the bucks, LDOs, VAON and the domain sequencer
without software. -/
def execPowerOn (s : State) : Host.Outcome State Fault Refusal :=
  act powerOn s

/-- VIN_STOP (R519). VIN falling through 15.5 V stops the line-die bucks. -/
def execVinStop (s : State) : Host.Outcome State Fault Refusal :=
  act vinStop s

/-- SUPPLY_RESET (R521). VCORE, V18 or V5A below its reset level for at least 2 µs causes a supply reset held until
the rails recover. -/
def execSupplyReset (s : State) : Host.Outcome State Fault Refusal :=
  act supplyReset s

/-- RAIL_OUT_OF_WINDOW (R521). A rail or VIN outside its window for at least 10 µs clears its status bit and raises
fault kind 0xF2. -/
def execRailOutOfWindow (rail : BitVec 3) (s : State) : Host.Outcome State Fault Refusal :=
  act (railOut rail) s

/-- LB_SWITCH_OFF (R521). V5B below 4.50 V for at least 2 µs switches off LB's switched part, so its link drops. -/
def execLbSwitchOff (s : State) : Host.Outcome State Fault Refusal :=
  act lbSwitchOff s

/-- DOMAIN_REQUEST (R523). A write to PWR.DCTL requests domains on or off for the sequencer. -/
def execDomainRequest (src : Src) (data : Word) (s : State) : Host.Outcome State Fault Refusal :=
  actReset (fun s => State.listWatch (regWrite src 0x220000 .word data s)) s

/-- DOMAIN_ON (R523). A ramping domain reaches its supply window and becomes ON. -/
def execDomainOn (d : BitVec 4) (s : State) : Host.Outcome State Fault Refusal :=
  actReset (fun s => State.listWatch (domainOn d s)) s

/-- DOMAIN_SWITCH_ON_FAILED (R523). A domain not ON within twice its switch-on time becomes FAILED and raises kind
0xF1. -/
def execDomainSwitchOnFailed (d : BitVec 4) (s : State) : Host.Outcome State Fault Refusal :=
  actReset (fun s => State.listWatch (domainFailed d s)) s

/-- DOMAIN_OFF (R524). A domain is isolated and switched off, losing its working state. -/
def execDomainOff (d : BitVec 4) (s : State) : Host.Outcome State Fault Refusal :=
  actReset (fun s => State.listWatch (domainOff d s)) s

/-- BUCK_HICCUP (R528). After 16 consecutive limited cycles a line-die buck stops switching for 10 ms. -/
def execBuckHiccup (die : Die) (s : State) : Host.Outcome State Fault Refusal :=
  act (buckHiccup die) s

/-- BUCK_RESTART (R528). After 10 ms stopped, a line-die buck soft-starts again. -/
def execBuckRestart (die : Die) (s : State) : Host.Outcome State Fault Refusal :=
  act (buckRestart die) s

/-- TEMPERATURE_MEASUREMENT (R529). Every 100 µs each die's temperature is compared with its warning and critical
thresholds. -/
def execTemperatureMeasurement (die : BitVec 2) (t : BitVec 16) (s : State) : Host.Outcome State Fault Refusal :=
  act (temperature die t) s

/-- CHANNEL_TINS_EXPIRY (R535). The input in window for TINS takes a waiting channel to PRECHARGE, or RAMP under the
hot start. -/
def execChannelTinsExpiry (nn : BitVec 4) (hot : Bool) (s : State) : Host.Outcome State Fault Refusal :=
  act (chanTins nn hot) s

/-- PRECHARGE_DONE (R533). VFnn reaching PVINnn − PREDV takes the channel from PRECHARGE to RAMP. -/
def execPrechargeDone (nn : BitVec 4) (s : State) : Host.Outcome State Fault Refusal :=
  act (chanPrecharged nn) s

/-- GATE_ENHANCED (R536). The main gate enhanced with LIMIT = 0 takes the channel from RAMP to ON. -/
def execGateEnhanced (nn : BitVec 4) (s : State) : Host.Outcome State Fault Refusal :=
  act (chanEnhanced nn) s

/-- CHANNEL_UNDERVOLTAGE (R535). The input below UV for UVDLY returns the channel to WAIT with kind 0xF5. -/
def execChannelUndervoltage (nn : BitVec 4) (s : State) : Host.Outcome State Fault Refusal :=
  act (chanUnder nn) s

/-- CHANNEL_OVERVOLTAGE (R535). The input above OV turns the gates off and returns the channel to WAIT. -/
def execChannelOvervoltage (nn : BitVec 4) (s : State) : Host.Outcome State Fault Refusal :=
  act (chanOver nn) s

/-- PRETMO_EXPIRY (R533). PRETMO elapsing in PRECHARGE trips the channel with kind 0xF6. -/
def execPretmoExpiry (nn : BitVec 4) (s : State) : Host.Outcome State Fault Refusal :=
  act (chanPretmo nn) s

/-- FAULT_TIMER_EXPIRY (R537). The fault timer reaching 100 × FTIM trips the channel. -/
def execFaultTimerExpiry (nn : BitVec 4) (s : State) : Host.Outcome State Fault Refusal :=
  act (chanFaultTimer nn) s

/-- GTMO_EXPIRY (R536). GTMO elapsing in RAMP without enhancement trips the channel with kind 0xFA. -/
def execGtmoExpiry (nn : BitVec 4) (s : State) : Host.Outcome State Fault Refusal :=
  act (chanGtmo nn) s

/-- FAST_TRIP (R538). The shunt voltage reaching FTV turns both FETs off and trips the channel. -/
def execFastTrip (nn : BitVec 4) (s : State) : Host.Outcome State Fault Refusal :=
  act (chanFastTrip nn) s

/-- REVERSE_CURRENT (R539). A negative shunt voltage for 2 ticks turns the gates off and returns the channel to
WAIT. -/
def execReverseCurrent (nn : BitVec 4) (s : State) : Host.Outcome State Fault Refusal :=
  act (chanReverseCurrent nn) s

/-- REVERSED_SUPPLY (R533). PVINnn below −2.0 V for 10 µs takes the channel to REVERSED. -/
def execReversedSupply (nn : BitVec 4) (s : State) : Host.Outcome State Fault Refusal :=
  act (chanReversed nn) s

/-- REVERSED_SUPPLY_CLEARED (R533). PVINnn at or above −1.0 V for 100 ms returns a REVERSED channel to WAIT. -/
def execReversedSupplyCleared (nn : BitVec 4) (s : State) : Host.Outcome State Fault Refusal :=
  act (chanUnreversed nn) s

/-- POWER_GOOD_ASSERTED (R540). The power-good debounce reaching 1,000 × PGDB asserts power-good. -/
def execPowerGoodAsserted (nn : BitVec 4) (s : State) : Host.Outcome State Fault Refusal :=
  act (chanPg nn) s

/-- POWER_GOOD_REMOVED (R541). VFnn below PGTH for 10 ticks, or leaving ON, removes power-good. -/
def execPowerGoodRemoved (nn : BitVec 4) (s : State) : Host.Outcome State Fault Refusal :=
  act (chanPgGone nn) s

/-- CHANNEL_RETRY (R542). RETRYT s after a trip with retries left the channel re-enters WAIT. -/
def execChannelRetry (nn : BitVec 4) (s : State) : Host.Outcome State Fault Refusal :=
  act (chanRetry nn) s

/-- RETRY_COUNT_RESET (R542). Power-good held for 60 s returns the retry count to 0. -/
def execRetryCountReset (nn : BitVec 4) (s : State) : Host.Outcome State Fault Refusal :=
  act (chanRetryReset nn) s

/-- RETRY (R542). PWR.PCCMD RETRY clears the retry count of a latched channel and enters WAIT. -/
def execPowerRetry (nn : BitVec 4) (s : State) : Host.Outcome State Fault Refusal :=
  act (chanRetryCmd nn) s

/-- GATE_RELEASE (R546). With PAIRREL = 1 a line die releases its gate outputs 2 ms after its link was lost. -/
def execGateRelease (die : Die) (s : State) : Host.Outcome State Fault Refusal :=
  act (gateRelease die) s

end Sys2Proof.Machine
end

