-- ==== Sys2Proof/Machine/ExecRegs.lean ====
section
/-! DEFINITION. The meanings of the commands of functions, the line-die window, the key guard and register access (02): one definition for each. -/

namespace Sys2Proof.Machine

/-- REGISTER_WRITE (R29). A write to a register that has no row of its own is checked for size, alignment, mapping
and access code, then applied under its write mask. -/
def execRegisterWrite (src : Src) (off : BitVec 24) (size : Width) (data : Word) (s : State) :
    Host.Outcome State Fault Refusal :=
  actReset (regWrite src off.toNat size data) s

/-- WIDE_VALUE_WRITE (R30). A write to a register of a wide control value either stages its lower half or applies
the staged halves together. -/
def execWideValueWrite (src : Src) (off : BitVec 24) (data : Word) (s : State) : Host.Outcome State Fault Refusal :=
  actReset (wideWrite src off data) s

/-- WIDE_VALUE_READ (R31). A read of the lower register of a wide status value latches the rest of the value for the
same initiator port. -/
def execWideValueRead (src : Src) (off : BitVec 24) (s : State) : Host.Outcome State Fault Refusal :=
  act (wideRead src off) s

/-- FUNC_START (R39). FUNC.CMD START takes a STOPPED function without preserved state to STARTING with fresh state.
-/
def execFuncStart (id : BitVec 8) (s : State) : Host.Outcome State Fault Refusal :=
  act (fun s => s.funcCommand id.toNat 1) s

/-- FUNC_STOP (R39). FUNC.CMD STOP takes a STARTING or RUNNING function to STOPPING. -/
def execFuncStop (id : BitVec 8) (s : State) : Host.Outcome State Fault Refusal :=
  act (fun s => s.funcCommand id.toNat 2) s

/-- FUNC_RESTART (R39). FUNC.CMD RESTART starts a STOPPED function with fresh state, or takes a RUNNING one through
STOPPING to STARTING. -/
def execFuncRestart (id : BitVec 8) (s : State) : Host.Outcome State Fault Refusal :=
  act (fun s => s.funcCommand id.toNat 3) s

/-- FUNC_RESUME (R39). FUNC.CMD RESUME restarts a STOPPED function with PRESV = 1 and DIRTY = 0 from its preserved
state. -/
def execFuncResume (id : BitVec 8) (s : State) : Host.Outcome State Fault Refusal :=
  act (fun s => s.funcCommand id.toNat 4) s

/-- FUNC_CLEAR (R39). FUNC.CMD CLEAR takes a HALTED function to STOPPED and clears PRESV and DIRTY. -/
def execFuncClear (id : BitVec 8) (s : State) : Host.Outcome State Fault Refusal :=
  act (fun s => s.funcCommand id.toNat 5) s

/-- FUNCTION_RUNNING (R42). A STARTING function enters RUNNING once it has initialised and its needs, parent and
domains are RUNNING or ON. -/
def execFunctionRunning (id : BitVec 8) (s : State) : Host.Outcome State Fault Refusal :=
  act (functionRunning id) s

/-- FUNCTION_STOPPED (R42). A STOPPING function enters STOPPED once its work has ended and no child is in STOPPING.
-/
def execFunctionStopped (id : BitVec 8) (s : State) : Host.Outcome State Fault Refusal :=
  act (functionStopped id) s

/-- UPDATE_STROBE (R46). FUNC.UPD applies every pending RWS value of one function in one core tick. -/
def execUpdateStrobe (src : Src) (id : BitVec 8) (s : State) : Host.Outcome State Fault Refusal :=
  act (updateStrobe src id) s

/-- GROUP_STROBE (R47). FUNC.UPDGRP applies the pending RWS values of every member of the selected strobe groups in
one core tick. -/
def execGroupStrobe (src : Src) (groups : BitVec 16) (s : State) : Host.Outcome State Fault Refusal :=
  act (groupStrobe src groups) s

/-- LDX_ADDR_WRITE (R50). A write to LDX.ADDR selects a die and word address and starts a fetch of that line-die
register. -/
def execLdxAddrWrite (src : Src) (data : Word) (s : State) : Host.Outcome State Fault Refusal :=
  act (ldxAddrWrite src data) s

/-- LDX_FETCH_DONE (R52). A line-die fetch completes, the fetched word becomes ready and BUSY clears. -/
def execLdxFetchDone (measured : BitVec 16) (s : State) : Host.Outcome State Fault Refusal :=
  act (ldxFetchDone measured) s

/-- LDX_DATA_WRITE (R51). A write to LDX.DATA posts data and mask to the selected line-die register, sets BUSY and
advances the address. -/
def execLdxDataWrite (src : Src) (data : Word) (s : State) : Host.Outcome State Fault Refusal :=
  act (ldxDataWrite src data) s

/-- LDX_WRITE_CONFIRMED (R54). The line die confirms a posted write and LDX.STAT.BUSY clears. -/
def execLdxWriteConfirmed (s : State) : Host.Outcome State Fault Refusal :=
  act ldxWriteConfirmed s

/-- LDX_DATA_READ (R52). A read of LDX.DATA returns the fetched word, advances the address and starts the next
fetch. -/
def execLdxDataRead (src : Src) (s : State) : Host.Outcome State Fault Refusal :=
  act (ldxDataRead src) s

/-- LDX_TIMEOUT (R55). A line die that does not answer within 10 µs fails the access, sets ERR, counts it and raises
fault kind 0x20. -/
def execLdxTimeout (s : State) : Host.Outcome State Fault Refusal :=
  act ldxTimeout s

/-- LDX_CLAIM (R57). A write to LDX.CLAIM takes the window when it is free, or releases it with a tag of 0. -/
def execLdxClaim (src : Src) (data : Word) (s : State) : Host.Outcome State Fault Refusal :=
  act (ldxClaim src data) s

/-- KEY_UNLOCK (R59). A write to KEY.UNLOCK opens, refreshes or closes the key guard, or counts a busy or bad
attempt. -/
def execKeyUnlock (src : Src) (data : Word) (s : State) : Host.Outcome State Fault Refusal :=
  act (keyUnlock src data) s

/-- KEY_GUARD_TIMEOUT (R59). The key guard closes after 1,024 core ticks without an RWK write by its holder. -/
def execKeyGuardTimeout (s : State) : Host.Outcome State Fault Refusal :=
  act keyTimeout s

/-- TMR_CORRECTION (R13). A disagreement between the copies of a TMR field is corrected on the next core tick and
counted in RPR.TMRFIX. -/
def execTmrCorrection (s : State) : Host.Outcome State Fault Refusal :=
  act tmrFix s

end Sys2Proof.Machine
end

