-- ==== Sys2Proof/Machine/ExecRepair.lean ====
section
/-! DEFINITION. The meanings of the commands of self-repair (21): one definition for each. -/

namespace Sys2Proof.Machine

/-- BIST (R551). After the boot set of domains is ON, the repair controller applies the maps and tests and repairs
the memories, banks and slices. -/
def execBist (finds : BistFinds) (s : State) : Host.Outcome State Fault Refusal :=
  act (runBist finds) s

/-- BIST_DONE (R551). BIST ends, BISTDONE is set and event kind 0x0630 reports the wear figure. -/
def execBistDone (s : State) : Host.Outcome State Fault Refusal :=
  act bistDone s

/-- DOMAIN_TEST_DONE (R552). The first switch-on test of a domain ends and waiting functions may proceed. -/
def execDomainTestDone (d : BitVec 4) (finds : BistFinds) (s : State) : Host.Outcome State Fault Refusal :=
  act (domainTested d finds) s

/-- SCRUB_READ (R558). The background scrub reads a memory row and writes back corrected words. -/
def execScrubRead (mid : BitVec 7) (row : BitVec 12) (ecc : EccResult) (last : Bool) (s : State) :
    Host.Outcome State Fault Refusal :=
  act (scrubRead mid row ecc last) s

/-- ROW_RETIREMENT (R561). A marked row is copied to the lowest free spare row once its memory allows it. -/
def execRowRetirement (mid : BitVec 7) (row : BitVec 12) (s : State) : Host.Outcome State Fault Refusal :=
  act (rowRetire mid row) s

/-- RETIRE (R561). Repair command RETIRE retires rows waiting with AUTO = 0. -/
def execRprRetire (s : State) : Host.Outcome State Fault Refusal :=
  act rprRetire s

/-- MAPWRITE (R557). Repair command MAPWRITE writes the in-service map to both copies. -/
def execRprMapwrite (s : State) : Host.Outcome State Fault Refusal :=
  act State.startMapWrite s

/-- SCRUBNOW (R558). Repair command SCRUBNOW starts a full scrub pass at once. -/
def execRprScrubnow (s : State) : Host.Outcome State Fault Refusal :=
  act rprScrubNow s

/-- IN_SERVICE_MAP_WRITE (R557). With AUTOMAP = 1 the in-service map is written after a repair once PEAT is not
busy. -/
def execInServiceMapWrite (s : State) : Host.Outcome State Fault Refusal :=
  act mapWriteStart s

/-- SECTOR_RETIREMENT (R562). A marked peat sector is copied into a spare sector while PEAT is not busy. -/
def execSectorRetirement (die : Die) (sector : BitVec 5) (s : State) : Host.Outcome State Fault Refusal :=
  act (sectorRetire die sector) s

end Sys2Proof.Machine
end

