-- ==== Sys2Proof/Machine/ExecReset.lean ====
section
/-! DEFINITION. The meanings of the commands of resets (22, 23): one definition for each. -/

namespace Sys2Proof.Machine

/-- SYS_RESET_WARM (R593). SYS.RESET kind 0b01 answers the write and then warm-resets H, keeping PD0 and retention
SRAM. -/
def execSysResetWarm (src : Src) (s : State) : Host.Outcome State Fault Refusal :=
  actReset (regWrite src 0x000024 .word 0x00030001) s

/-- SYS_RESET_FULL (R593). SYS.RESET kind 0b10 answers the write and then resets the hub as RESET_N does. -/
def execSysResetFull (src : Src) (s : State) : Host.Outcome State Fault Refusal :=
  actReset (regWrite src 0x000024 .word 0x00030002) s

/-- RESET_PIN (R580). RESET_N held low for at least 10 µs resets H and the switched parts of both line dies, and its
rising edge samples the straps. -/
def execResetPin (straps : Straps) (s : State) : Host.Outcome State Fault Refusal :=
  act (resetPin straps) s

/-- INTERNAL_RESET_RELEASE (R580). The internal reset is released once RESET_N is high and the rails are in their
windows, and pair B runs the boot ROM. -/
def execInternalResetRelease (s : State) : Host.Outcome State Fault Refusal :=
  act resetRelease s

end Sys2Proof.Machine
end

