-- ==== Sys2Proof/Machine/ExecTime.lean ====
section
/-! DEFINITION. The meanings of the commands of fabric time (08): one definition for each. -/

namespace Sys2Proof.Machine

/-- TIME_FRAME_SEND (R206). A time source sends a time frame every interval with the departures of the previous
frame. -/
def execTimeFrameSend (s : State) : Host.Outcome State Fault Refusal :=
  act timeFrameSend s

/-- TIME_FRAME_RECEIVED (R208). A delivered time frame gives an error e against the source, which the time unit
checks and applies. -/
def execTimeFrameReceived (s : State) : Host.Outcome State Fault Refusal :=
  act timeFrameReceived s

/-- BETTER_SOURCE_TIMEOUT (R203). Three intervals after the last frame from every better source, a source starts
sending. -/
def execBetterSourceTimeout (s : State) : Host.Outcome State Fault Refusal :=
  act timeBetterTimeout s

/-- HOLDOVER_ENTRY (R211). No time frame from any source for 3 intervals takes a synchronised hub into HOLDOVER. -/
def execHoldoverEntry (s : State) : Host.Outcome State Fault Refusal :=
  act timeHoldover s

/-- PPS_EDGE (R204). A PPS_IN edge records fabric time and drives the servo, or loads the seconds/nanoseconds form.
-/
def execPpsEdge (falling : Bool) (s : State) : Host.Outcome State Fault Refusal :=
  act (timePpsEdge falling) s

/-- PPS_TIMEOUT (R204). No PPS_IN edge for 1.1 s clears PPSSEEN and raises fault kind 0x75. -/
def execPpsTimeout (s : State) : Host.Outcome State Fault Refusal :=
  act timePpsTimeout s

/-- ACCEPTSTEP (R213). Time command ACCEPTSTEP adds PEND to OFFSET and enters ACQUIRE with a step. -/
def execTimeAcceptstep (s : State) : Host.Outcome State Fault Refusal :=
  act timeAcceptStep s

/-- SLEW (R213). Time command SLEW enters SLEWING, running at the base rate plus or minus SLEWMAX. -/
def execTimeSlew (s : State) : Host.Outcome State Fault Refusal :=
  act timeSlew s

/-- LOADNOW (R205). Time command LOADNOW sets fabric time at once from TIME.SNLOAD and raises the source generation.
-/
def execTimeLoadnow (src : Src) (s : State) : Host.Outcome State Fault Refusal :=
  act (timeLoadNow src) s

/-- ARMPPS (R205). Time command ARMPPS loads fabric time from TIME.SNLOAD at the next PPS_IN edge. -/
def execTimeArmpps (src : Src) (s : State) : Host.Outcome State Fault Refusal :=
  act (timeArmPps src) s

/-- PROBE_SEND (R215). Every TIME.PROBE ms the hub sends a link delay probe and records its departures. -/
def execProbeSend (s : State) : Host.Outcome State Fault Refusal :=
  act timeProbeSend s

/-- PROBE_RECEIVED (R215). A probe with h = 1 is answered at once and followed by a follow-up with the turnaround.
-/
def execProbeReceived (s : State) : Host.Outcome State Fault Refusal :=
  act timeProbeReceived s

/-- PROBE_ANSWER_RECEIVED (R215). The answer to a probe is received and its arrival recorded. -/
def execProbeAnswerReceived (s : State) : Host.Outcome State Fault Refusal :=
  act timeProbeAnswer s

/-- PROBE_FOLLOW_UP_RECEIVED (R215). A follow-up completes a delay exchange, which is accepted into the link delay
mean or counted as failed. -/
def execProbeFollowUpReceived (s : State) : Host.Outcome State Fault Refusal :=
  act timeProbeFollowUp s

/-- PROBE_EXCHANGE_TIMEOUT (R215). A follow-up not received within 1 ms fails the exchange and raises fault kind
0x74. -/
def execProbeExchangeTimeout (port : Link) (s : State) : Host.Outcome State Fault Refusal :=
  act (timeProbeTimeout port) s

/-- PPS_OUT_RISE (R217). PPS_OUT rises when fabric time passes a whole multiple of 10^9 ns. -/
def execPpsOutRise (s : State) : Host.Outcome State Fault Refusal :=
  act timePpsOutRise s

/-- PPS_OUT_FALL (R217). PPS_OUT falls 100 ms after it rose. -/
def execPpsOutFall (s : State) : Host.Outcome State Fault Refusal :=
  act timePpsOutFall s

/-- SERVO_INTERVAL_END (R210). At the end of the interval that follows an applied error, fabric time leaves the
proportional rate and runs at the base rate again. -/
def execServoIntervalEnd (s : State) : Host.Outcome State Fault Refusal :=
  act timeServoEnd s

end Sys2Proof.Machine
end

