-- ==== Sys2Proof/Machine/ExecUsb.lean ====
section
/-! DEFINITION. The meanings of the commands of USB (14): one definition for each. -/

namespace Sys2Proof.Machine

/-- VBUS_CHANGE (R368). USBU_VBUS crossing its thresholds attaches or removes the upstream pull-up. -/
def execVbusChange (mv : BitVec 16) (s : State) : Host.Outcome State Fault Refusal :=
  act (usbVbus mv) s

/-- PULLUP_ATTACH (R368). Once its conditions have held long enough the upstream pull-up is attached. -/
def execPullupAttach (s : State) : Host.Outcome State Fault Refusal :=
  act usbAttach s

/-- DOWNSTREAM_OVERCURRENT (R370). OC_N low for OCDG ms unpowers and disables the port and raises fault kind 0xC0.
-/
def execDownstreamOvercurrent (k : BitVec 3) (s : State) : Host.Outcome State Fault Refusal :=
  act (usbOvercurrent k) s

/-- HUB_CLASS_REQUEST (R370). A hub class request from the host sets or clears port features such as PORT_POWER. -/
def execHubClassRequest (req : HubRequest) (k : BitVec 3) (s : State) : Host.Outcome State Fault Refusal :=
  act (usbHubRequest req k) s

/-- PORT_CONNECT_REPORT (R373). 100 ms after a port is powered, the hub reports a connection on it. -/
def execPortConnectReport (k : BitVec 3) (s : State) : Host.Outcome State Fault Refusal :=
  act (usbConnectReport k) s

/-- USB_LREAD (R375). Vendor request LREAD reads the local map as a local access. -/
def execUsbLread (addr : BitVec 32) (len : Nat) (s : State) : Host.Outcome State Fault Refusal :=
  act (usbLocal false addr len []) s

/-- USB_LWRITE (R375). Vendor request LWRITE writes the local map as a local access. -/
def execUsbLwrite (addr : BitVec 32) (data : List Byte) (s : State) : Host.Outcome State Fault Refusal :=
  act (usbLocal true addr data.length data) s

/-- USB_RESULT (R374). Vendor request RESULT returns the result of the last LREAD or LWRITE. -/
def execUsbResult (s : State) : Host.Outcome State Fault Refusal :=
  act usbResult s

/-- USB_INFO (R374). Vendor request INFO returns SYS.ID, SYS.NODE, SYS.BOOTSTAT and PEAT.STAT. -/
def execUsbInfo (s : State) : Host.Outcome State Fault Refusal :=
  act usbInfo s

/-- USB_LOCAL_ACCESS_DONE (R375). A vendor local access completes and its NAKed stage is answered with data, status
or STALL. -/
def execUsbLocalAccessDone (ecc : EccResult) (s : State) : Host.Outcome State Fault Refusal :=
  actReset (usbLocalDone ecc) s

/-- BLOCK_AREAD (R376). Command block AREAD reads through the aperture. -/
def execBlockAread (bytes : List Byte) (ecc : EccResult) (s : State) : Host.Outcome State Fault Refusal :=
  actReset (usbBlock 0x01 bytes ecc) s

/-- BLOCK_AWRITE (R376). Command block AWRITE writes through the aperture. -/
def execBlockAwrite (bytes : List Byte) (ecc : EccResult) (s : State) : Host.Outcome State Fault Refusal :=
  actReset (usbBlock 0x02 bytes ecc) s

/-- BLOCK_LREAD (R376). Command block LREAD reads the local map. -/
def execBlockLread (bytes : List Byte) (ecc : EccResult) (s : State) : Host.Outcome State Fault Refusal :=
  actReset (usbBlock 0x11 bytes ecc) s

/-- BLOCK_LWRITE (R376). Command block LWRITE writes the local map. -/
def execBlockLwrite (bytes : List Byte) (ecc : EccResult) (s : State) : Host.Outcome State Fault Refusal :=
  actReset (usbBlock 0x12 bytes ecc) s

/-- COMMAND_BLOCK_RESPONSE (R377). A completed command block returns one response on endpoint 0x82 in arrival order.
-/
def execCommandBlockResponse (s : State) : Host.Outcome State Fault Refusal :=
  act usbBlockResponse s

/-- EVENT_ENDPOINT_IN (R378). An IN transfer on endpoint 0x83 carries one spore record or is NAKed. -/
def execEventEndpointIn (s : State) : Host.Outcome State Fault Refusal :=
  act usbEventIn s

/-- ENDPOINT_HALT (R379). SetFeature(ENDPOINT_HALT) halts an endpoint so that it answers STALL. -/
def execEndpointHalt (ep : Byte) (s : State) : Host.Outcome State Fault Refusal :=
  act (usbHalt ep) s

/-- ENDPOINT_HALT_CLEAR (R379). ClearFeature(ENDPOINT_HALT) clears a halt and resets the data toggle. -/
def execEndpointHaltClear (ep : Byte) (s : State) : Host.Outcome State Fault Refusal :=
  act (usbHaltClear ep) s

/-- STANDARD_REQUEST (R381). A standard request such as SetConfiguration or SetInterface resets data toggles or is
STALLed. -/
def execStandardRequest (dev : UsbDev) (req : Byte) (value : BitVec 16) (length : BitVec 16) (s : State) :
    Host.Outcome State Fault Refusal :=
  act (usbStandard dev req value length) s

/-- OUT_DATA_PACKET (R380). A bulk or control OUT data packet is answered ACK, NYET or NAK. -/
def execOutDataPacket (toggle : Bool) (room : Nat) (s : State) : Host.Outcome State Fault Refusal :=
  act (usbOutData toggle room) s

/-- PING (R380). A PING is answered ACK when a full packet fits and NAK otherwise. -/
def execUsbPing (room : Nat) (s : State) : Host.Outcome State Fault Refusal :=
  act (usbPing room) s

/-- START_SPLIT (R382). A start-split is taken by a translator buffer or answered NAK. -/
def execStartSplit (k : BitVec 3) (periodic : Bool) (uframe : BitVec 14) (id : BitVec 16) (s : State) :
    Host.Outcome State Fault Refusal :=
  act (usbStartSplit k periodic uframe id) s

/-- COMPLETE_SPLIT (R382). A complete-split returns the result or NYET while the transaction has not ended. -/
def execCompleteSplit (k : BitVec 3) (id : BitVec 16) (result : TtResult) (s : State) :
    Host.Outcome State Fault Refusal :=
  act (usbCompleteSplit k id result) s

/-- USB_SUSPEND (R383). After 3 ms of upstream idle the compound device enters Suspended. -/
def execUsbSuspend (s : State) : Host.Outcome State Fault Refusal :=
  act usbSuspend s

/-- USB_RESUME (R383). A resume ending with EOP takes the device out of Suspended. -/
def execUsbResume (s : State) : Host.Outcome State Fault Refusal :=
  act usbResume s

/-- WAKE (R384). USBF.CMD WAKE makes a wake source pending while Suspended. -/
def execUsbWake (s : State) : Host.Outcome State Fault Refusal :=
  act usbWake s

/-- WAKE_SENSE_START (R384). After 5 ms plus RWDLY of idle the wake enters SENSE. -/
def execWakeSenseStart (s : State) : Host.Outcome State Fault Refusal :=
  act usbSense s

/-- WAKE_DRIVE_START (R384). After 20 µs of SENSE the port drives K for DRV ms. -/
def execWakeDriveStart (s : State) : Host.Outcome State Fault Refusal :=
  act usbDrive s

/-- WAKE_DRIVE_END (R384). The K drive of a remote wake ends. -/
def execWakeDriveEnd (s : State) : Host.Outcome State Fault Refusal :=
  act usbDriveEnd s

/-- HOST_K_DURING_WAKE (R385). K from the host in PENDING or SENSE cancels the remote wake, which is reported after
the EOP. -/
def execHostKDuringWake (s : State) : Host.Outcome State Fault Refusal :=
  act usbHostK s

/-- DOWNSTREAM_REMOTE_WAKE (R386). A downstream device's remote wake is absorbed into or propagated as a resume on
its port. -/
def execDownstreamRemoteWake (k : BitVec 3) (s : State) : Host.Outcome State Fault Refusal :=
  act (usbDeviceWake k) s

/-- USB_BUS_RESET (R387). An upstream bus reset resets USB state, discards unissued blocks and reports event kind
0x0154. -/
def execUsbBusReset (high : Bool) (s : State) : Host.Outcome State Fault Refusal :=
  act (usbBusReset high) s

/-- DOWNSTREAM_CONNECT_CHANGE (R373). A device is attached to or detached from a powered downstream port and the
port's connection status changes. -/
def execDownstreamConnectChange (k : BitVec 3) (attached : Bool) (speed : BitVec 2) (s : State) :
    Host.Outcome State Fault Refusal :=
  act (usbConnectChange k attached speed) s

/-- DOWNSTREAM_RESUME_END (R386). A resume that the hub drives on a downstream port ends, and C_PORT_SUSPEND is set
once with event kind 0x0157. -/
def execDownstreamResumeEnd (k : BitVec 3) (s : State) : Host.Outcome State Fault Refusal :=
  act (usbResumeEnd k) s

end Sys2Proof.Machine
end

