-- ==== Sys2Proof/Machine/ExecXact.lean ====
section
/-! DEFINITION. The meanings of the commands of fabric transactions (07): one definition for each. -/

namespace Sys2Proof.Machine

/-- ORDER_HOLD_EXPIRY (R188). A held early frame's order hold expires, the missing sequence numbers are given up and
the hold is counted. -/
def execOrderHoldExpiry (stage : OrderStage) (node : BitVec 12) (slot : BitVec 1) (cls : BitVec 3) (s : State) :
    Host.Outcome State Fault Refusal :=
  act (orderHoldExpiry stage node slot cls) s

/-- APERTURE_ACCESS (R173). An access at an aperture offset selects a window and becomes one or more ring
transactions. -/
def execApertureAccess (init : Initiator) (a : BitVec 30) (write : Bool) (len : BitVec 13) (data : List Byte) (ecc : EccResult) (s : State) :
    Host.Outcome State Fault Refusal :=
  actReset (apertureAccess init a write len data ecc) s

/-- OUTSTANDING_ENTRY_WAIT_END (R187). A read or non-posted write waiting for a free outstanding entry is issued
once one is free. -/
def execOutstandingEntryWaitEnd (s : State) : Host.Outcome State Fault Refusal :=
  act xactWaitEnd s

/-- POSTED_WRITE_RECEIVED (R183). A target performs a posted write or returns an error message for it. -/
def execPostedWriteReceived (s : State) : Host.Outcome State Fault Refusal :=
  actReset xactPosted s

/-- NON_POSTED_WRITE_RECEIVED (R182). A target performs a non-posted write and answers with one response carrying
its status. -/
def execNonPostedWriteReceived (s : State) : Host.Outcome State Fault Refusal :=
  actReset xactNonPosted s

/-- READ_REQUEST_RECEIVED (R170). A target performs a read and answers with the data and, on a side-effect page, RSE
and a POP mask. -/
def execReadRequestReceived (ecc : EccResult) (s : State) : Host.Outcome State Fault Refusal :=
  act (xactRead ecc) s

/-- RESPONSE_RECEIVED (R187). A response matching an outstanding entry completes the access and frees the entry, or
is counted as orphan. -/
def execResponseReceived (s : State) : Host.Outcome State Fault Refusal :=
  act xactResponse s

/-- TRANSACTION_TIMEOUT (R187). XACT.TMO expires for an outstanding entry and the access completes with status
TIMEOUT. -/
def execTransactionTimeout (entry : BitVec 9) (s : State) : Host.Outcome State Fault Refusal :=
  act (xactTimeout entry) s

/-- POSTED_ERROR_MESSAGE_RECEIVED (R185). An error message for a posted write is logged and raises fault kind 0x60.
-/
def execPostedErrorMessageReceived (s : State) : Host.Outcome State Fault Refusal :=
  act xactErrorMessage s

/-- PREFETCH_LINE_AGED (R191). A prefetch line older than XACT.PFAGE is discarded. -/
def execPrefetchLineAged (s : State) : Host.Outcome State Fault Refusal :=
  act xactLineAged s

/-- SEFREE_WRITE (R191). A write to XACT.SEFREE frees the named side-effect save slots. -/
def execSefreeWrite (slots : BitVec 16) (s : State) : Host.Outcome State Fault Refusal :=
  act (xactSefree slots) s

end Sys2Proof.Machine
end

