-- ==== Sys2Proof/Machine/Dispatch.lean ====
section
/-! DEFINITION. The dispatch: one arm for each command of the opcode table, each one direct call of its meaning. -/

namespace Sys2Proof.Machine

/-- The effect of a command on everything but the queue. -/
def exec (i : Instr) (s : State) : Host.Outcome State Fault Refusal :=
  match i with
  | .registerWrite src off size data => Sys2Proof.Machine.execRegisterWrite src off size data s
  | .wideValueWrite src off data => Sys2Proof.Machine.execWideValueWrite src off data s
  | .wideValueRead src off => Sys2Proof.Machine.execWideValueRead src off s
  | .funcStart id => Sys2Proof.Machine.execFuncStart id s
  | .funcStop id => Sys2Proof.Machine.execFuncStop id s
  | .funcRestart id => Sys2Proof.Machine.execFuncRestart id s
  | .funcResume id => Sys2Proof.Machine.execFuncResume id s
  | .funcClear id => Sys2Proof.Machine.execFuncClear id s
  | .functionRunning id => Sys2Proof.Machine.execFunctionRunning id s
  | .functionStopped id => Sys2Proof.Machine.execFunctionStopped id s
  | .updateStrobe src id => Sys2Proof.Machine.execUpdateStrobe src id s
  | .groupStrobe src groups => Sys2Proof.Machine.execGroupStrobe src groups s
  | .ldxAddrWrite src data => Sys2Proof.Machine.execLdxAddrWrite src data s
  | .ldxFetchDone measured => Sys2Proof.Machine.execLdxFetchDone measured s
  | .ldxDataWrite src data => Sys2Proof.Machine.execLdxDataWrite src data s
  | .ldxWriteConfirmed => Sys2Proof.Machine.execLdxWriteConfirmed s
  | .ldxDataRead src => Sys2Proof.Machine.execLdxDataRead src s
  | .ldxTimeout => Sys2Proof.Machine.execLdxTimeout s
  | .ldxClaim src data => Sys2Proof.Machine.execLdxClaim src data s
  | .keyUnlock src data => Sys2Proof.Machine.execKeyUnlock src data s
  | .keyGuardTimeout => Sys2Proof.Machine.execKeyGuardTimeout s
  | .sysResetWarm src => Sys2Proof.Machine.execSysResetWarm src s
  | .sysResetFull src => Sys2Proof.Machine.execSysResetFull src s
  | .sysResetReload src => Sys2Proof.Machine.execSysResetReload src s
  | .resetPin straps => Sys2Proof.Machine.execResetPin straps s
  | .powerOn => Sys2Proof.Machine.execPowerOn s
  | .vinStop => Sys2Proof.Machine.execVinStop s
  | .supplyReset => Sys2Proof.Machine.execSupplyReset s
  | .internalResetRelease => Sys2Proof.Machine.execInternalResetRelease s
  | .railOutOfWindow rail => Sys2Proof.Machine.execRailOutOfWindow rail s
  | .lbSwitchOff => Sys2Proof.Machine.execLbSwitchOff s
  | .bist finds => Sys2Proof.Machine.execBist finds s
  | .bistDone => Sys2Proof.Machine.execBistDone s
  | .bootImage => Sys2Proof.Machine.execBootImage s
  | .peatErase src => Sys2Proof.Machine.execPeatErase src s
  | .peatProgram src => Sys2Proof.Machine.execPeatProgram src s
  | .peatVerify src => Sys2Proof.Machine.execPeatVerify src s
  | .peatArm src => Sys2Proof.Machine.execPeatArm src s
  | .peatConfirm src => Sys2Proof.Machine.execPeatConfirm src s
  | .peatApplystage src => Sys2Proof.Machine.execPeatApplystage src s
  | .peatReload src => Sys2Proof.Machine.execPeatReload src s
  | .peatOvlwrite src => Sys2Proof.Machine.execPeatOvlwrite src s
  | .peatOvlerase src => Sys2Proof.Machine.execPeatOvlerase src s
  | .peatNodeasg src => Sys2Proof.Machine.execPeatNodeasg src s
  | .peatKeyprog src => Sys2Proof.Machine.execPeatKeyprog src s
  | .peatKeyrevoke src => Sys2Proof.Machine.execPeatKeyrevoke src s
  | .peatSvnadv src => Sys2Proof.Machine.execPeatSvnadv src s
  | .peatCommandDone failed => Sys2Proof.Machine.execPeatCommandDone failed s
  | .peatLineDieLost => Sys2Proof.Machine.execPeatLineDieLost s
  | .signalDetected port => Sys2Proof.Machine.execSignalDetected port s
  | .clockRecoveryLocked port => Sys2Proof.Machine.execClockRecoveryLocked port s
  | .equaliserAdapted port => Sys2Proof.Machine.execEqualiserAdapted port s
  | .blockLock port => Sys2Proof.Machine.execBlockLock port s
  | .supervisionBlockReceived port block => Sys2Proof.Machine.execSupervisionBlockReceived port block s
  | .supervisionBlockSend port => Sys2Proof.Machine.execSupervisionBlockSend port s
  | .blockError port what gap => Sys2Proof.Machine.execBlockError port what gap s
  | .rateCycleExpiry port => Sys2Proof.Machine.execRateCycleExpiry port s
  | .holdDownExpiry port => Sys2Proof.Machine.execHoldDownExpiry port s
  | .moduleLos port => Sys2Proof.Machine.execModuleLos port s
  | .signalLost port => Sys2Proof.Machine.execSignalLost port s
  | .supervisionTimeout port => Sys2Proof.Machine.execSupervisionTimeout port s
  | .moduleAbsent port => Sys2Proof.Machine.execModuleAbsent port s
  | .linkRetrain port => Sys2Proof.Machine.execLinkRetrain port s
  | .linkRateup port => Sys2Proof.Machine.execLinkRateup port s
  | .moduleTransfer src port data => Sys2Proof.Machine.execModuleTransfer src port data s
  | .moduleTransferDone port nack removed data => Sys2Proof.Machine.execModuleTransferDone port nack removed data s
  | .moduleTransferTimeout port => Sys2Proof.Machine.execModuleTransferTimeout port s
  | .sliceShadowRound port slice disagreements => Sys2Proof.Machine.execSliceShadowRound port slice disagreements s
  | .qualityWindowEnd port eyeh eyev => Sys2Proof.Machine.execQualityWindowEnd port eyeh eyev s
  | .frameReceived port frame fin => Sys2Proof.Machine.execFrameReceived port frame fin s
  | .frameDelivered lines => Sys2Proof.Machine.execFrameDelivered lines s
  | .frameSent port preempt lines => Sys2Proof.Machine.execFrameSent port preempt lines s
  | .tokenBucketAdmit => Sys2Proof.Machine.execTokenBucketAdmit s
  | .originationAdmitted => Sys2Proof.Machine.execOriginationAdmitted s
  | .epochAnnouncementSend => Sys2Proof.Machine.execEpochAnnouncementSend s
  | .orderHoldExpiry stage node slot cls => Sys2Proof.Machine.execOrderHoldExpiry stage node slot cls s
  | .apertureAccess init a write len data ecc => Sys2Proof.Machine.execApertureAccess init a write len data ecc s
  | .outstandingEntryWaitEnd => Sys2Proof.Machine.execOutstandingEntryWaitEnd s
  | .postedWriteReceived => Sys2Proof.Machine.execPostedWriteReceived s
  | .nonPostedWriteReceived => Sys2Proof.Machine.execNonPostedWriteReceived s
  | .readRequestReceived ecc => Sys2Proof.Machine.execReadRequestReceived ecc s
  | .responseReceived => Sys2Proof.Machine.execResponseReceived s
  | .transactionTimeout entry => Sys2Proof.Machine.execTransactionTimeout entry s
  | .postedErrorMessageReceived => Sys2Proof.Machine.execPostedErrorMessageReceived s
  | .prefetchLineAged => Sys2Proof.Machine.execPrefetchLineAged s
  | .sefreeWrite slots => Sys2Proof.Machine.execSefreeWrite slots s
  | .timeFrameSend => Sys2Proof.Machine.execTimeFrameSend s
  | .timeFrameReceived => Sys2Proof.Machine.execTimeFrameReceived s
  | .betterSourceTimeout => Sys2Proof.Machine.execBetterSourceTimeout s
  | .holdoverEntry => Sys2Proof.Machine.execHoldoverEntry s
  | .ppsEdge falling => Sys2Proof.Machine.execPpsEdge falling s
  | .ppsTimeout => Sys2Proof.Machine.execPpsTimeout s
  | .timeAcceptstep => Sys2Proof.Machine.execTimeAcceptstep s
  | .timeSlew => Sys2Proof.Machine.execTimeSlew s
  | .timeLoadnow src => Sys2Proof.Machine.execTimeLoadnow src s
  | .timeArmpps src => Sys2Proof.Machine.execTimeArmpps src s
  | .probeSend => Sys2Proof.Machine.execProbeSend s
  | .probeReceived => Sys2Proof.Machine.execProbeReceived s
  | .probeAnswerReceived => Sys2Proof.Machine.execProbeAnswerReceived s
  | .probeFollowUpReceived => Sys2Proof.Machine.execProbeFollowUpReceived s
  | .probeExchangeTimeout port => Sys2Proof.Machine.execProbeExchangeTimeout port s
  | .ppsOutRise => Sys2Proof.Machine.execPpsOutRise s
  | .ppsOutFall => Sys2Proof.Machine.execPpsOutFall s
  | .axisSampleLatch a gate => Sys2Proof.Machine.execAxisSampleLatch a gate s
  | .axisSampleReceived => Sys2Proof.Machine.execAxisSampleReceived s
  | .axisCoasting a => Sys2Proof.Machine.execAxisCoasting a s
  | .axisStale a => Sys2Proof.Machine.execAxisStale a s
  | .appendWrite src off data => Sys2Proof.Machine.execAppendWrite src off data s
  | .appendMerge => Sys2Proof.Machine.execAppendMerge s
  | .actionCommit slot => Sys2Proof.Machine.execActionCommit slot s
  | .lineCommandPlacement l => Sys2Proof.Machine.execLineCommandPlacement l s
  | .pulseOffEdgeCommit l => Sys2Proof.Machine.execPulseOffEdgeCommit l s
  | .shadowBankWrite off data => Sys2Proof.Machine.execShadowBankWrite off data s
  | .actSeal => Sys2Proof.Machine.execActSeal s
  | .actClearsh => Sys2Proof.Machine.execActClearsh s
  | .actSwap => Sys2Proof.Machine.execActSwap s
  | .actArmswap => Sys2Proof.Machine.execActArmswap s
  | .actDisarm => Sys2Proof.Machine.execActDisarm s
  | .actSortDone => Sys2Proof.Machine.execActSortDone s
  | .actClearDone => Sys2Proof.Machine.execActClearDone s
  | .actSwapBoundary => Sys2Proof.Machine.execActSwapBoundary s
  | .captureQueuePop src q ecc => Sys2Proof.Machine.execCaptureQueuePop src q ecc s
  | .actAidxWrite data => Sys2Proof.Machine.execActAidxWrite data s
  | .loutWrite nn data => Sys2Proof.Machine.execLoutWrite nn data s
  | .filteredEdge l level => Sys2Proof.Machine.execFilteredEdge l level s
  | .lineDiagnosticEntry l cond => Sys2Proof.Machine.execLineDiagnosticEntry l cond s
  | .lineDiagnosticExit l cond => Sys2Proof.Machine.execLineDiagnosticExit l cond s
  | .lcmdUnlatch nn lines => Sys2Proof.Machine.execLcmdUnlatch nn lines s
  | .frondBudgetOver nn => Sys2Proof.Machine.execFrondBudgetOver nn s
  | .frondBudgetCut nn => Sys2Proof.Machine.execFrondBudgetCut nn s
  | .rs485DriverOff ch hot => Sys2Proof.Machine.execRs485DriverOff ch hot s
  | .uartCharacterReceived ch data perr ferr brk ago => Sys2Proof.Machine.execUartCharacterReceived ch data perr ferr brk ago s
  | .uartIdleGap ch => Sys2Proof.Machine.execUartIdleGap ch s
  | .utxWrite ch data => Sys2Proof.Machine.execUtxWrite ch data s
  | .uartTransmitStart ch => Sys2Proof.Machine.execUartTransmitStart ch s
  | .uartWordSent ch => Sys2Proof.Machine.execUartWordSent ch s
  | .uartRxPop src ch ecc => Sys2Proof.Machine.execUartRxPop src ch ecc s
  | .encoderEdge u a b gate => Sys2Proof.Machine.execEncoderEdge u a b gate s
  | .encoderZEdge u gate => Sys2Proof.Machine.execEncoderZEdge u gate s
  | .encoderLoad u => Sys2Proof.Machine.execEncoderLoad u s
  | .encoderArmz u => Sys2Proof.Machine.execEncoderArmz u s
  | .encoderSignalLoss u => Sys2Proof.Machine.execEncoderSignalLoss u s
  | .engWait nn e => Sys2Proof.Machine.execEngWait nn e s
  | .engWaitFlag nn e => Sys2Proof.Machine.execEngWaitFlag nn e s
  | .engAt nn e => Sys2Proof.Machine.execEngAt nn e s
  | .engShiftOut nn e => Sys2Proof.Machine.execEngShiftOut nn e s
  | .engShiftIn nn e => Sys2Proof.Machine.execEngShiftIn nn e s
  | .engTake nn e ecc => Sys2Proof.Machine.execEngTake nn e ecc s
  | .engEmit nn e => Sys2Proof.Machine.execEngEmit nn e s
  | .engDriveOff nn e => Sys2Proof.Machine.execEngDriveOff nn e s
  | .engDriveOn nn e => Sys2Proof.Machine.execEngDriveOn nn e s
  | .engDriveToggle nn e => Sys2Proof.Machine.execEngDriveToggle nn e s
  | .engDriveFromX nn e => Sys2Proof.Machine.execEngDriveFromX nn e s
  | .engCountLoad nn e => Sys2Proof.Machine.execEngCountLoad nn e s
  | .engCountDecrement nn e => Sys2Proof.Machine.execEngCountDecrement nn e s
  | .engBranch nn e => Sys2Proof.Machine.execEngBranch nn e s
  | .engMark nn e => Sys2Proof.Machine.execEngMark nn e s
  | .engHalt nn e => Sys2Proof.Machine.execEngHalt nn e s
  | .engineStallComplete nn e ecc => Sys2Proof.Machine.execEngineStallComplete nn e ecc s
  | .engineDelayEnd nn e => Sys2Proof.Machine.execEngineDelayEnd nn e s
  | .pinCommandDeferred l => Sys2Proof.Machine.execPinCommandDeferred l s
  | .engineTxStage src nn e data => Sys2Proof.Machine.execEngineTxStage src nn e data s
  | .engineTxAppend src nn e data => Sys2Proof.Machine.execEngineTxAppend src nn e data s
  | .engineRxPop src nn e ecc => Sys2Proof.Machine.execEngineRxPop src nn e ecc s
  | .emptyTx src nn e => Sys2Proof.Machine.execEmptyTx src nn e s
  | .emptyRx src nn e => Sys2Proof.Machine.execEmptyRx src nn e s
  | .emptyBoth src nn e => Sys2Proof.Machine.execEmptyBoth src nn e s
  | .programStoreStage src nn w data => Sys2Proof.Machine.execProgramStoreStage src nn w data s
  | .programStoreWrite src nn w data => Sys2Proof.Machine.execProgramStoreWrite src nn w data s
  | .pflagset nn flags => Sys2Proof.Machine.execPflagset nn flags s
  | .engineSubstitution nn => Sys2Proof.Machine.execEngineSubstitution nn s
  | .canLoad src k b => Sys2Proof.Machine.execCanLoad src k b s
  | .canReq src k b => Sys2Proof.Machine.execCanReq src k b s
  | .canLoadreq src k b => Sys2Proof.Machine.execCanLoadreq src k b s
  | .canAbort src k b => Sys2Proof.Machine.execCanAbort src k b s
  | .canRecover k => Sys2Proof.Machine.execCanRecover k s
  | .canArbitration k => Sys2Proof.Machine.execCanArbitration k s
  | .canTransmitDone k => Sys2Proof.Machine.execCanTransmitDone k s
  | .canTransmitFailed k lost => Sys2Proof.Machine.execCanTransmitFailed k lost s
  | .canFrameReceived k frame ago => Sys2Proof.Machine.execCanFrameReceived k frame ago s
  | .canErrorDetected k code dataPhase role miniv => Sys2Proof.Machine.execCanErrorDetected k code dataPhase role miniv s
  | .canRecoveryDone k => Sys2Proof.Machine.execCanRecoveryDone k s
  | .rateCandidateTimeout k miniv => Sys2Proof.Machine.execRateCandidateTimeout k miniv s
  | .canWakeUp k => Sys2Proof.Machine.execCanWakeUp k s
  | .txdDominantTimeout k => Sys2Proof.Machine.execTxdDominantTimeout k s
  | .canPllLocked => Sys2Proof.Machine.execCanPllLocked s
  | .canRxPop src k q ecc => Sys2Proof.Machine.execCanRxPop src k q ecc s
  | .bridgeLookup => Sys2Proof.Machine.execBridgeLookup s
  | .bridgedFrameReceived => Sys2Proof.Machine.execBridgedFrameReceived s
  | .bridgeEgressCan k => Sys2Proof.Machine.execBridgeEgressCan k s
  | .bridgeEgressUart ch => Sys2Proof.Machine.execBridgeEgressUart ch s
  | .errorReturnReceived => Sys2Proof.Machine.execErrorReturnReceived s
  | .applicationMessageReceived => Sys2Proof.Machine.execApplicationMessageReceived s
  | .messageQueuePop src ecc => Sys2Proof.Machine.execMessageQueuePop src ecc s
  | .brgSeal => Sys2Proof.Machine.execBrgSeal s
  | .brgSwap => Sys2Proof.Machine.execBrgSwap s
  | .brgDisarm => Sys2Proof.Machine.execBrgDisarm s
  | .brgClearsh => Sys2Proof.Machine.execBrgClearsh s
  | .brgSortDone => Sys2Proof.Machine.execBrgSortDone s
  | .brgSwapTakesEffect => Sys2Proof.Machine.execBrgSwapTakesEffect s
  | .brgShadowWrite off data => Sys2Proof.Machine.execBrgShadowWrite off data s
  | .brgAidxWrite data => Sys2Proof.Machine.execBrgAidxWrite data s
  | .vbusChange mv => Sys2Proof.Machine.execVbusChange mv s
  | .pullupAttach => Sys2Proof.Machine.execPullupAttach s
  | .downstreamOvercurrent k => Sys2Proof.Machine.execDownstreamOvercurrent k s
  | .hubClassRequest req k => Sys2Proof.Machine.execHubClassRequest req k s
  | .portConnectReport k => Sys2Proof.Machine.execPortConnectReport k s
  | .usbLread addr len => Sys2Proof.Machine.execUsbLread addr len s
  | .usbLwrite addr data => Sys2Proof.Machine.execUsbLwrite addr data s
  | .usbResult => Sys2Proof.Machine.execUsbResult s
  | .usbInfo => Sys2Proof.Machine.execUsbInfo s
  | .usbLocalAccessDone ecc => Sys2Proof.Machine.execUsbLocalAccessDone ecc s
  | .blockAread bytes ecc => Sys2Proof.Machine.execBlockAread bytes ecc s
  | .blockAwrite bytes ecc => Sys2Proof.Machine.execBlockAwrite bytes ecc s
  | .blockLread bytes ecc => Sys2Proof.Machine.execBlockLread bytes ecc s
  | .blockLwrite bytes ecc => Sys2Proof.Machine.execBlockLwrite bytes ecc s
  | .commandBlockResponse => Sys2Proof.Machine.execCommandBlockResponse s
  | .eventEndpointIn => Sys2Proof.Machine.execEventEndpointIn s
  | .endpointHalt ep => Sys2Proof.Machine.execEndpointHalt ep s
  | .endpointHaltClear ep => Sys2Proof.Machine.execEndpointHaltClear ep s
  | .standardRequest dev req value length => Sys2Proof.Machine.execStandardRequest dev req value length s
  | .outDataPacket toggle room => Sys2Proof.Machine.execOutDataPacket toggle room s
  | .usbPing room => Sys2Proof.Machine.execUsbPing room s
  | .startSplit k periodic uframe id => Sys2Proof.Machine.execStartSplit k periodic uframe id s
  | .completeSplit k id result => Sys2Proof.Machine.execCompleteSplit k id result s
  | .usbSuspend => Sys2Proof.Machine.execUsbSuspend s
  | .usbResume => Sys2Proof.Machine.execUsbResume s
  | .usbWake => Sys2Proof.Machine.execUsbWake s
  | .wakeSenseStart => Sys2Proof.Machine.execWakeSenseStart s
  | .wakeDriveStart => Sys2Proof.Machine.execWakeDriveStart s
  | .wakeDriveEnd => Sys2Proof.Machine.execWakeDriveEnd s
  | .hostKDuringWake => Sys2Proof.Machine.execHostKDuringWake s
  | .downstreamRemoteWake k => Sys2Proof.Machine.execDownstreamRemoteWake k s
  | .usbBusReset high => Sys2Proof.Machine.execUsbBusReset high s
  | .eventTrap p => Sys2Proof.Machine.execEventTrap p s
  | .ncpClaim src p => Sys2Proof.Machine.execNcpClaim src p s
  | .ncpEoi p => Sys2Proof.Machine.execNcpEoi p s
  | .lockstepMismatch p pc kind => Sys2Proof.Machine.execLockstepMismatch p pc kind s
  | .watchdogKick p value => Sys2Proof.Machine.execWatchdogKick p value s
  | .watchdogExpiry p => Sys2Proof.Machine.execWatchdogExpiry p s
  | .lockstepSelfTestDone p ok => Sys2Proof.Machine.execLockstepSelfTestDone p ok s
  | .hkLui p d imm => Sys2Proof.Machine.execHkLui p d imm s
  | .hkAdd p d a b => Sys2Proof.Machine.execHkAdd p d a b s
  | .hkAddi p d a imm => Sys2Proof.Machine.execHkAddi p d a imm s
  | .hkSub p d a b => Sys2Proof.Machine.execHkSub p d a b s
  | .hkAnd p d a b => Sys2Proof.Machine.execHkAnd p d a b s
  | .hkAndi p d a imm => Sys2Proof.Machine.execHkAndi p d a imm s
  | .hkOr p d a b => Sys2Proof.Machine.execHkOr p d a b s
  | .hkOri p d a imm => Sys2Proof.Machine.execHkOri p d a imm s
  | .hkXor p d a b => Sys2Proof.Machine.execHkXor p d a b s
  | .hkXori p d a imm => Sys2Proof.Machine.execHkXori p d a imm s
  | .hkShl p d a b => Sys2Proof.Machine.execHkShl p d a b s
  | .hkShli p d a imm => Sys2Proof.Machine.execHkShli p d a imm s
  | .hkShr p d a b => Sys2Proof.Machine.execHkShr p d a b s
  | .hkShri p d a imm => Sys2Proof.Machine.execHkShri p d a imm s
  | .hkSra p d a b => Sys2Proof.Machine.execHkSra p d a b s
  | .hkSrai p d a imm => Sys2Proof.Machine.execHkSrai p d a imm s
  | .hkMul p d a b => Sys2Proof.Machine.execHkMul p d a b s
  | .hkMulh p d a b => Sys2Proof.Machine.execHkMulh p d a b s
  | .hkDiv p d a b => Sys2Proof.Machine.execHkDiv p d a b s
  | .hkDivu p d a b => Sys2Proof.Machine.execHkDivu p d a b s
  | .hkRem p d a b => Sys2Proof.Machine.execHkRem p d a b s
  | .hkRemu p d a b => Sys2Proof.Machine.execHkRemu p d a b s
  | .hkMin p d a b => Sys2Proof.Machine.execHkMin p d a b s
  | .hkMax p d a b => Sys2Proof.Machine.execHkMax p d a b s
  | .hkClz p d a => Sys2Proof.Machine.execHkClz p d a s
  | .hkLb p d a post imm ecc => Sys2Proof.Machine.execHkLb p d a post imm ecc s
  | .hkLbu p d a post imm ecc => Sys2Proof.Machine.execHkLbu p d a post imm ecc s
  | .hkLh p d a post imm ecc => Sys2Proof.Machine.execHkLh p d a post imm ecc s
  | .hkLhu p d a post imm ecc => Sys2Proof.Machine.execHkLhu p d a post imm ecc s
  | .hkLw p d a post imm ecc => Sys2Proof.Machine.execHkLw p d a post imm ecc s
  | .hkLd p d a post imm ecc => Sys2Proof.Machine.execHkLd p d a post imm ecc s
  | .hkSb p d a post imm => Sys2Proof.Machine.execHkSb p d a post imm s
  | .hkSh p d a post imm => Sys2Proof.Machine.execHkSh p d a post imm s
  | .hkSw p d a post imm => Sys2Proof.Machine.execHkSw p d a post imm s
  | .hkSd p d a post imm => Sys2Proof.Machine.execHkSd p d a post imm s
  | .hkBeq p a b imm => Sys2Proof.Machine.execHkBeq p a b imm s
  | .hkBne p a b imm => Sys2Proof.Machine.execHkBne p a b imm s
  | .hkBlt p a b imm => Sys2Proof.Machine.execHkBlt p a b imm s
  | .hkBge p a b imm => Sys2Proof.Machine.execHkBge p a b imm s
  | .hkBltu p a b imm => Sys2Proof.Machine.execHkBltu p a b imm s
  | .hkBgeu p a b imm => Sys2Proof.Machine.execHkBgeu p a b imm s
  | .hkBfs p f imm => Sys2Proof.Machine.execHkBfs p f imm s
  | .hkBfc p f imm => Sys2Proof.Machine.execHkBfc p f imm s
  | .hkJal p d imm => Sys2Proof.Machine.execHkJal p d imm s
  | .hkJalr p d a imm => Sys2Proof.Machine.execHkJalr p d a imm s
  | .hkCas p d a b ecc => Sys2Proof.Machine.execHkCas p d a b ecc s
  | .hkSwp p d a b ecc => Sys2Proof.Machine.execHkSwp p d a b ecc s
  | .hkMfs p d n => Sys2Proof.Machine.execHkMfs p d n s
  | .hkMts p a n => Sys2Proof.Machine.execHkMts p a n s
  | .hkFence p => Sys2Proof.Machine.execHkFence p s
  | .hkTrap p imm => Sys2Proof.Machine.execHkTrap p imm s
  | .hkRett p => Sys2Proof.Machine.execHkRett p s
  | .hkWfe p d imm => Sys2Proof.Machine.execHkWfe p d imm s
  | .hkSpore p a b c => Sys2Proof.Machine.execHkSpore p a b c s
  | .hkAxr p d a imm => Sys2Proof.Machine.execHkAxr p d a imm s
  | .hkTimTime p d => Sys2Proof.Machine.execHkTimTime p d s
  | .hkTimTick p d => Sys2Proof.Machine.execHkTimTick p d s
  | .hkTimFraction p d => Sys2Proof.Machine.execHkTimFraction p d s
  | .hkFire p a ecc => Sys2Proof.Machine.execHkFire p a ecc s
  | .localGapRecord q => Sys2Proof.Machine.execLocalGapRecord q s
  | .sporeFrameSend q => Sys2Proof.Machine.execSporeFrameSend q s
  | .sporeFrameReceived => Sys2Proof.Machine.execSporeFrameReceived s
  | .hqconsWrite src h data => Sys2Proof.Machine.execHqconsWrite src h data s
  | .hostQueueEnable src h vec size => Sys2Proof.Machine.execHostQueueEnable src h vec size s
  | .msixModerationTimeout h => Sys2Proof.Machine.execMsixModerationTimeout h s
  | .pcieLinkDown => Sys2Proof.Machine.execPcieLinkDown s
  | .functionLevelReset => Sys2Proof.Machine.execFunctionLevelReset s
  | .bar0Access off write data => Sys2Proof.Machine.execBar0Access off write data s
  | .bar4Access off write len data ecc => Sys2Proof.Machine.execBar4Access off write len data ecc s
  | .dmaEnable src c vec size => Sys2Proof.Machine.execDmaEnable src c vec size s
  | .dmaTailWrite c data => Sys2Proof.Machine.execDmaTailWrite c data s
  | .dmaDescriptorComplete c desc => Sys2Proof.Machine.execDmaDescriptorComplete c desc s
  | .dmaHostReadTimeout c => Sys2Proof.Machine.execDmaHostReadTimeout c s
  | .dmaDisable src c => Sys2Proof.Machine.execDmaDisable src c s
  | .faultMessageProcess => Sys2Proof.Machine.execFaultMessageProcess s
  | .lineDieLinkLost die => Sys2Proof.Machine.execLineDieLinkLost die s
  | .aliveToggle => Sys2Proof.Machine.execAliveToggle s
  | .peerAliveLost => Sys2Proof.Machine.execPeerAliveLost s
  | .peerAlivePresent => Sys2Proof.Machine.execPeerAlivePresent s
  | .fltAck entry => Sys2Proof.Machine.execFltAck entry s
  | .fltAckAll => Sys2Proof.Machine.execFltAckAll s
  | .safeExit src => Sys2Proof.Machine.execSafeExit src s
  | .pairLogicEntry => Sys2Proof.Machine.execPairLogicEntry s
  | .twinWaitTimeout => Sys2Proof.Machine.execTwinWaitTimeout s
  | .probeResultTimeout => Sys2Proof.Machine.execProbeResultTimeout s
  | .probeRepeat => Sys2Proof.Machine.execProbeRepeat s
  | .bootwaitExpiry => Sys2Proof.Machine.execBootwaitExpiry s
  | .fallenSafeEnd => Sys2Proof.Machine.execFallenSafeEnd s
  | .checkpointIncrementSend => Sys2Proof.Machine.execCheckpointIncrementSend s
  | .checkpointPartReceived seq base recs last ok => Sys2Proof.Machine.execCheckpointPartReceived seq base recs last ok s
  | .checkpointSilence => Sys2Proof.Machine.execCheckpointSilence s
  | .healthReportSend => Sys2Proof.Machine.execHealthReportSend s
  | .healthReportReceived => Sys2Proof.Machine.execHealthReportReceived s
  | .handoverMessageReceived m => Sys2Proof.Machine.execHandoverMessageReceived m s
  | .handbackHoldoffExpiry => Sys2Proof.Machine.execHandbackHoldoffExpiry s
  | .pairHandback => Sys2Proof.Machine.execPairHandback s
  | .pairYield => Sys2Proof.Machine.execPairYield s
  | .pairResync => Sys2Proof.Machine.execPairResync s
  | .pairHold => Sys2Proof.Machine.execPairHold s
  | .pairRelease => Sys2Proof.Machine.execPairRelease s
  | .handoverFreeze => Sys2Proof.Machine.execHandoverFreeze s
  | .handoverSwitch => Sys2Proof.Machine.execHandoverSwitch s
  | .handoverDone => Sys2Proof.Machine.execHandoverDone s
  | .domainRequest src data => Sys2Proof.Machine.execDomainRequest src data s
  | .domainOn d => Sys2Proof.Machine.execDomainOn d s
  | .domainTestDone d finds => Sys2Proof.Machine.execDomainTestDone d finds s
  | .domainSwitchOnFailed d => Sys2Proof.Machine.execDomainSwitchOnFailed d s
  | .domainOff d => Sys2Proof.Machine.execDomainOff d s
  | .buckHiccup die => Sys2Proof.Machine.execBuckHiccup die s
  | .buckRestart die => Sys2Proof.Machine.execBuckRestart die s
  | .temperatureMeasurement die t => Sys2Proof.Machine.execTemperatureMeasurement die t s
  | .channelTinsExpiry nn hot => Sys2Proof.Machine.execChannelTinsExpiry nn hot s
  | .prechargeDone nn => Sys2Proof.Machine.execPrechargeDone nn s
  | .gateEnhanced nn => Sys2Proof.Machine.execGateEnhanced nn s
  | .channelUndervoltage nn => Sys2Proof.Machine.execChannelUndervoltage nn s
  | .channelOvervoltage nn => Sys2Proof.Machine.execChannelOvervoltage nn s
  | .pretmoExpiry nn => Sys2Proof.Machine.execPretmoExpiry nn s
  | .faultTimerExpiry nn => Sys2Proof.Machine.execFaultTimerExpiry nn s
  | .gtmoExpiry nn => Sys2Proof.Machine.execGtmoExpiry nn s
  | .fastTrip nn => Sys2Proof.Machine.execFastTrip nn s
  | .reverseCurrent nn => Sys2Proof.Machine.execReverseCurrent nn s
  | .reversedSupply nn => Sys2Proof.Machine.execReversedSupply nn s
  | .reversedSupplyCleared nn => Sys2Proof.Machine.execReversedSupplyCleared nn s
  | .powerGoodAsserted nn => Sys2Proof.Machine.execPowerGoodAsserted nn s
  | .powerGoodRemoved nn => Sys2Proof.Machine.execPowerGoodRemoved nn s
  | .channelRetry nn => Sys2Proof.Machine.execChannelRetry nn s
  | .retryCountReset nn => Sys2Proof.Machine.execRetryCountReset nn s
  | .powerRetry nn => Sys2Proof.Machine.execPowerRetry nn s
  | .gateRelease die => Sys2Proof.Machine.execGateRelease die s
  | .scrubRead mid row ecc last => Sys2Proof.Machine.execScrubRead mid row ecc last s
  | .rowRetirement mid row => Sys2Proof.Machine.execRowRetirement mid row s
  | .rprRetire => Sys2Proof.Machine.execRprRetire s
  | .rprMapwrite => Sys2Proof.Machine.execRprMapwrite s
  | .rprScrubnow => Sys2Proof.Machine.execRprScrubnow s
  | .inServiceMapWrite => Sys2Proof.Machine.execInServiceMapWrite s
  | .sectorRetirement die sector => Sys2Proof.Machine.execSectorRetirement die sector s
  | .servoIntervalEnd => Sys2Proof.Machine.execServoIntervalEnd s
  | .encoderSignalRestored u => Sys2Proof.Machine.execEncoderSignalRestored u s
  | .spareEngineTestFailed nn => Sys2Proof.Machine.execSpareEngineTestFailed nn s
  | .busIntegrationDone k => Sys2Proof.Machine.execBusIntegrationDone k s
  | .protocolException k => Sys2Proof.Machine.execProtocolException k s
  | .downstreamConnectChange k attached speed => Sys2Proof.Machine.execDownstreamConnectChange k attached speed s
  | .downstreamResumeEnd k => Sys2Proof.Machine.execDownstreamResumeEnd k s
  | .illegalInstruction p word => Sys2Proof.Machine.execIllegalInstruction p word s
  | .pcieLinkUp width speed => Sys2Proof.Machine.execPcieLinkUp width speed s
  | .pcieConfigurationWrite bme msixEn fmask dstate => Sys2Proof.Machine.execPcieConfigurationWrite bme msixEn fmask dstate s
  | .lineDieLinkUp die => Sys2Proof.Machine.execLineDieLinkUp die s
  | .restingHubSelfTest check pass => Sys2Proof.Machine.execRestingHubSelfTest check pass s
  | .tmrCorrection => Sys2Proof.Machine.execTmrCorrection s

end Sys2Proof.Machine
end

