-- ==== Sys2Proof/WellFormed.lean ====
section
/-! DEFINITION. Which commands are well formed: operands within the ranges that the spec gives them. Every operand that its
bit width already bounds needs no check. -/

namespace Sys2Proof

/-- The operands of a command lie within their ranges. -/
def Instr.WellFormed (i : Instr) : Prop :=
  match i with
  | .registerWrite _ _ size data => data.toNat < 2 ^ (match size with | .byte => 8 | .half => 16 | .word => 32)
  | .wideValueWrite _ off _ => off.toNat % 4 = 0
  | .wideValueRead _ off => off.toNat % 4 = 0
  | .funcStart _ => True
  | .funcStop _ => True
  | .funcRestart _ => True
  | .funcResume _ => True
  | .funcClear _ => True
  | .functionRunning _ => True
  | .functionStopped _ => True
  | .updateStrobe _ _ => True
  | .groupStrobe _ _ => True
  | .ldxAddrWrite _ _ => True
  | .ldxFetchDone _ => True
  | .ldxDataWrite _ _ => True
  | .ldxWriteConfirmed => True
  | .ldxDataRead _ => True
  | .ldxTimeout => True
  | .ldxClaim _ _ => True
  | .keyUnlock _ _ => True
  | .keyGuardTimeout => True
  | .sysResetWarm _ => True
  | .sysResetFull _ => True
  | .sysResetReload _ => True
  | .resetPin _ => True
  | .powerOn => True
  | .vinStop => True
  | .supplyReset => True
  | .internalResetRelease => True
  | .railOutOfWindow rail => rail ≠ 7
  | .lbSwitchOff => True
  | .bist _ => True
  | .bistDone => True
  | .bootImage => True
  | .peatErase _ => True
  | .peatProgram _ => True
  | .peatVerify _ => True
  | .peatArm _ => True
  | .peatConfirm _ => True
  | .peatApplystage _ => True
  | .peatReload _ => True
  | .peatOvlwrite _ => True
  | .peatOvlerase _ => True
  | .peatNodeasg _ => True
  | .peatKeyprog _ => True
  | .peatKeyrevoke _ => True
  | .peatSvnadv _ => True
  | .peatCommandDone _ => True
  | .peatLineDieLost => True
  | .signalDetected _ => True
  | .clockRecoveryLocked _ => True
  | .equaliserAdapted _ => True
  | .blockLock _ => True
  | .supervisionBlockReceived _ _ => True
  | .supervisionBlockSend _ => True
  | .blockError _ _ _ => True
  | .rateCycleExpiry _ => True
  | .holdDownExpiry _ => True
  | .moduleLos _ => True
  | .signalLost _ => True
  | .supervisionTimeout _ => True
  | .moduleAbsent _ => True
  | .linkRetrain _ => True
  | .linkRateup _ => True
  | .moduleTransfer _ port _ => port ≠ .t
  | .moduleTransferDone _ _ _ _ => True
  | .moduleTransferTimeout _ => True
  | .sliceShadowRound _ _ _ => True
  | .qualityWindowEnd _ _ _ => True
  | .frameReceived _ frame _ => frame.header.length = 32
  | .frameDelivered _ => True
  | .frameSent _ _ _ => True
  | .tokenBucketAdmit => True
  | .originationAdmitted => True
  | .epochAnnouncementSend => True
  | .orderHoldExpiry _ _ _ _ => True
  | .apertureAccess _ _ write len data _ => len.toNat ≠ 0 ∧ (write = true → data.length = len.toNat)
  | .outstandingEntryWaitEnd => True
  | .postedWriteReceived => True
  | .nonPostedWriteReceived => True
  | .readRequestReceived _ => True
  | .responseReceived => True
  | .transactionTimeout _ => True
  | .postedErrorMessageReceived => True
  | .prefetchLineAged => True
  | .sefreeWrite _ => True
  | .timeFrameSend => True
  | .timeFrameReceived => True
  | .betterSourceTimeout => True
  | .holdoverEntry => True
  | .ppsEdge _ => True
  | .ppsTimeout => True
  | .timeAcceptstep => True
  | .timeSlew => True
  | .timeLoadnow _ => True
  | .timeArmpps _ => True
  | .probeSend => True
  | .probeReceived => True
  | .probeAnswerReceived => True
  | .probeFollowUpReceived => True
  | .probeExchangeTimeout _ => True
  | .ppsOutRise => True
  | .ppsOutFall => True
  | .axisSampleLatch _ _ => True
  | .axisSampleReceived => True
  | .axisCoasting _ => True
  | .axisStale _ => True
  | .appendWrite _ off data => data ≠ [] ∧ off.toNat + data.length ≤ 256
  | .appendMerge => True
  | .actionCommit _ => True
  | .lineCommandPlacement _ => True
  | .pulseOffEdgeCommit _ => True
  | .shadowBankWrite off data => data ≠ [] ∧ off.toNat + data.length ≤ 0x20000
  | .actSeal => True
  | .actClearsh => True
  | .actSwap => True
  | .actArmswap => True
  | .actDisarm => True
  | .actSortDone => True
  | .actClearDone => True
  | .actSwapBoundary => True
  | .captureQueuePop _ _ _ => True
  | .actAidxWrite _ => True
  | .loutWrite _ _ => True
  | .filteredEdge _ _ => True
  | .lineDiagnosticEntry _ _ => True
  | .lineDiagnosticExit _ _ => True
  | .lcmdUnlatch _ _ => True
  | .frondBudgetOver _ => True
  | .frondBudgetCut _ => True
  | .rs485DriverOff _ _ => True
  | .uartCharacterReceived _ _ _ _ _ _ => True
  | .uartIdleGap _ => True
  | .utxWrite _ _ => True
  | .uartTransmitStart _ => True
  | .uartWordSent _ => True
  | .uartRxPop _ _ _ => True
  | .encoderEdge _ _ _ _ => True
  | .encoderZEdge _ _ => True
  | .encoderLoad _ => True
  | .encoderArmz _ => True
  | .encoderSignalLoss _ => True
  | .engWait _ _ => True
  | .engWaitFlag _ _ => True
  | .engAt _ _ => True
  | .engShiftOut _ _ => True
  | .engShiftIn _ _ => True
  | .engTake _ _ _ => True
  | .engEmit _ _ => True
  | .engDriveOff _ _ => True
  | .engDriveOn _ _ => True
  | .engDriveToggle _ _ => True
  | .engDriveFromX _ _ => True
  | .engCountLoad _ _ => True
  | .engCountDecrement _ _ => True
  | .engBranch _ _ => True
  | .engMark _ _ => True
  | .engHalt _ _ => True
  | .engineStallComplete _ _ _ => True
  | .engineDelayEnd _ _ => True
  | .pinCommandDeferred _ => True
  | .engineTxStage _ _ _ _ => True
  | .engineTxAppend _ _ _ _ => True
  | .engineRxPop _ _ _ _ => True
  | .emptyTx _ _ _ => True
  | .emptyRx _ _ _ => True
  | .emptyBoth _ _ _ => True
  | .programStoreStage _ _ _ _ => True
  | .programStoreWrite _ _ _ _ => True
  | .pflagset _ _ => True
  | .engineSubstitution _ => True
  | .canLoad _ _ b => b ≠ 3
  | .canReq _ _ b => b ≠ 3
  | .canLoadreq _ _ b => b ≠ 3
  | .canAbort _ _ b => b ≠ 3
  | .canRecover _ => True
  | .canArbitration _ => True
  | .canTransmitDone _ => True
  | .canTransmitFailed _ _ => True
  | .canFrameReceived _ frame _ => frame.data.length ≤ 64
  | .canErrorDetected _ _ _ _ _ => True
  | .canRecoveryDone _ => True
  | .rateCandidateTimeout _ _ => True
  | .canWakeUp _ => True
  | .txdDominantTimeout _ => True
  | .canPllLocked => True
  | .canRxPop _ _ _ _ => True
  | .bridgeLookup => True
  | .bridgedFrameReceived => True
  | .bridgeEgressCan _ => True
  | .bridgeEgressUart _ => True
  | .errorReturnReceived => True
  | .applicationMessageReceived => True
  | .messageQueuePop _ _ => True
  | .brgSeal => True
  | .brgSwap => True
  | .brgDisarm => True
  | .brgClearsh => True
  | .brgSortDone => True
  | .brgSwapTakesEffect => True
  | .brgShadowWrite off data => data ≠ [] ∧ off.toNat + data.length ≤ 0x10000
  | .brgAidxWrite _ => True
  | .vbusChange _ => True
  | .pullupAttach => True
  | .downstreamOvercurrent _ => True
  | .hubClassRequest _ k => k.toNat ≤ 7
  | .portConnectReport _ => True
  | .usbLread _ len => len ≤ 65535
  | .usbLwrite _ data => data.length ≤ 65535
  | .usbResult => True
  | .usbInfo => True
  | .usbLocalAccessDone _ => True
  | .blockAread _ _ => True
  | .blockAwrite _ _ => True
  | .blockLread _ _ => True
  | .blockLwrite _ _ => True
  | .commandBlockResponse => True
  | .eventEndpointIn => True
  | .endpointHalt _ => True
  | .endpointHaltClear _ => True
  | .standardRequest _ _ _ _ => True
  | .outDataPacket _ _ => True
  | .usbPing _ => True
  | .startSplit k _ _ _ => k.toNat < 7
  | .completeSplit _ _ _ => True
  | .usbSuspend => True
  | .usbResume => True
  | .usbWake => True
  | .wakeSenseStart => True
  | .wakeDriveStart => True
  | .wakeDriveEnd => True
  | .hostKDuringWake => True
  | .downstreamRemoteWake _ => True
  | .usbBusReset _ => True
  | .eventTrap _ => True
  | .ncpClaim _ _ => True
  | .ncpEoi _ => True
  | .lockstepMismatch _ _ _ => True
  | .watchdogKick _ _ => True
  | .watchdogExpiry _ => True
  | .lockstepSelfTestDone _ _ => True
  | .hkLui _ _ _ => True
  | .hkAdd _ _ _ _ => True
  | .hkAddi _ _ _ _ => True
  | .hkSub _ _ _ _ => True
  | .hkAnd _ _ _ _ => True
  | .hkAndi _ _ _ _ => True
  | .hkOr _ _ _ _ => True
  | .hkOri _ _ _ _ => True
  | .hkXor _ _ _ _ => True
  | .hkXori _ _ _ _ => True
  | .hkShl _ _ _ _ => True
  | .hkShli _ _ _ _ => True
  | .hkShr _ _ _ _ => True
  | .hkShri _ _ _ _ => True
  | .hkSra _ _ _ _ => True
  | .hkSrai _ _ _ _ => True
  | .hkMul _ _ _ _ => True
  | .hkMulh _ _ _ _ => True
  | .hkDiv _ _ _ _ => True
  | .hkDivu _ _ _ _ => True
  | .hkRem _ _ _ _ => True
  | .hkRemu _ _ _ _ => True
  | .hkMin _ _ _ _ => True
  | .hkMax _ _ _ _ => True
  | .hkClz _ _ _ => True
  | .hkLb _ _ _ _ _ _ => True
  | .hkLbu _ _ _ _ _ _ => True
  | .hkLh _ _ _ _ _ _ => True
  | .hkLhu _ _ _ _ _ _ => True
  | .hkLw _ _ _ _ _ _ => True
  | .hkLd _ d _ _ _ _ => d.toNat % 2 = 0 ∧ d.toNat ≤ 12
  | .hkSb _ _ _ _ _ => True
  | .hkSh _ _ _ _ _ => True
  | .hkSw _ _ _ _ _ => True
  | .hkSd _ d _ _ _ => d.toNat % 2 = 0 ∧ d.toNat ≤ 12
  | .hkBeq _ _ _ _ => True
  | .hkBne _ _ _ _ => True
  | .hkBlt _ _ _ _ => True
  | .hkBge _ _ _ _ => True
  | .hkBltu _ _ _ _ => True
  | .hkBgeu _ _ _ _ => True
  | .hkBfs _ _ _ => True
  | .hkBfc _ _ _ => True
  | .hkJal _ _ _ => True
  | .hkJalr _ _ _ _ => True
  | .hkCas _ _ _ _ _ => True
  | .hkSwp _ _ _ _ _ => True
  | .hkMfs _ _ _ => True
  | .hkMts _ _ _ => True
  | .hkFence _ => True
  | .hkTrap _ _ => True
  | .hkRett _ => True
  | .hkWfe _ _ _ => True
  | .hkSpore _ _ _ _ => True
  | .hkAxr _ d _ _ => d.toNat % 2 = 0 ∧ d.toNat ≤ 12
  | .hkTimTime _ d => d.toNat % 2 = 0 ∧ d.toNat ≤ 12
  | .hkTimTick _ d => d.toNat % 2 = 0 ∧ d.toNat ≤ 12
  | .hkTimFraction _ d => d.toNat % 2 = 0 ∧ d.toNat ≤ 12
  | .hkFire _ _ _ => True
  | .localGapRecord _ => True
  | .sporeFrameSend _ => True
  | .sporeFrameReceived => True
  | .hqconsWrite _ _ _ => True
  | .hostQueueEnable _ _ _ size => size.toNat ≤ 11
  | .msixModerationTimeout _ => True
  | .pcieLinkDown => True
  | .functionLevelReset => True
  | .bar0Access off _ data => data ≠ [] ∧ off.toNat + data.length ≤ 0x1000000
  | .bar4Access off write len data _ => len.toNat ≠ 0 ∧ off.toNat + len.toNat ≤ 0x800000 ∧ (write = true → data.length = len.toNat)
  | .dmaEnable _ _ _ size => size.toNat ≤ 8
  | .dmaTailWrite _ _ => True
  | .dmaDescriptorComplete _ desc => desc.length = 32
  | .dmaHostReadTimeout _ => True
  | .dmaDisable _ _ => True
  | .faultMessageProcess => True
  | .lineDieLinkLost _ => True
  | .aliveToggle => True
  | .peerAliveLost => True
  | .peerAlivePresent => True
  | .fltAck _ => True
  | .fltAckAll => True
  | .safeExit _ => True
  | .pairLogicEntry => True
  | .twinWaitTimeout => True
  | .probeResultTimeout => True
  | .probeRepeat => True
  | .bootwaitExpiry => True
  | .fallenSafeEnd => True
  | .checkpointIncrementSend => True
  | .checkpointPartReceived _ _ _ _ _ => True
  | .checkpointSilence => True
  | .healthReportSend => True
  | .healthReportReceived => True
  | .handoverMessageReceived _ => True
  | .handbackHoldoffExpiry => True
  | .pairHandback => True
  | .pairYield => True
  | .pairResync => True
  | .pairHold => True
  | .pairRelease => True
  | .handoverFreeze => True
  | .handoverSwitch => True
  | .handoverDone => True
  | .domainRequest _ _ => True
  | .domainOn d => d ≠ 0 ∧ d ≠ 15
  | .domainTestDone d _ => d = 8 ∨ d = 10 ∨ d = 11
  | .domainSwitchOnFailed d => d ≠ 0 ∧ d ≠ 15
  | .domainOff d => d ≠ 0 ∧ d ≠ 15
  | .buckHiccup _ => True
  | .buckRestart _ => True
  | .temperatureMeasurement die _ => die ≠ 3
  | .channelTinsExpiry _ _ => True
  | .prechargeDone _ => True
  | .gateEnhanced _ => True
  | .channelUndervoltage _ => True
  | .channelOvervoltage _ => True
  | .pretmoExpiry _ => True
  | .faultTimerExpiry _ => True
  | .gtmoExpiry _ => True
  | .fastTrip _ => True
  | .reverseCurrent _ => True
  | .reversedSupply _ => True
  | .reversedSupplyCleared _ => True
  | .powerGoodAsserted _ => True
  | .powerGoodRemoved _ => True
  | .channelRetry _ => True
  | .retryCountReset _ => True
  | .powerRetry _ => True
  | .gateRelease _ => True
  | .scrubRead mid _ _ _ => mid.toNat ≤ 0x29
  | .rowRetirement _ _ => True
  | .rprRetire => True
  | .rprMapwrite => True
  | .rprScrubnow => True
  | .inServiceMapWrite => True
  | .sectorRetirement _ _ => True
  | .servoIntervalEnd => True
  | .encoderSignalRestored _ => True
  | .spareEngineTestFailed _ => True
  | .busIntegrationDone _ => True
  | .protocolException _ => True
  | .downstreamConnectChange _ _ _ => True
  | .downstreamResumeEnd _ => True
  | .illegalInstruction _ _ => True
  | .pcieLinkUp _ _ => True
  | .pcieConfigurationWrite _ _ _ _ => True
  | .lineDieLinkUp _ => True
  | .restingHubSelfTest _ _ => True
  | .tmrCorrection => True

end Sys2Proof
end

