-- ==== Sys2Proof/Safety.lean ====
section
/-! DEFINITION. The terms in which claims speak of runs: the parts of the hub, what a command leaves unchanged, and what
holds between commands. -/

namespace Sys2Proof.Machine

/-- The registers that the delivery of a raise may write: the sequence numbers of the sources, the dropped records of the
local queues and of a spore engine that does not run, the coalesced events of the pairs, the messages that found the
collector full, and what a full priority lane applies and logs (R397, R442, R444, R466, R469, R484). -/
def raiseReg (o : Nat) : Bool :=
  (0x0F2000 ≤ o && o < 0x0F3000) || (0x0F3000 ≤ o && o < 0x0F3200 && o % 0x20 == 0x18) || o == 0x0F3204 ||
    o == 0x0E020C || o == 0x0E120C || o == 0x210060 || o == 0x210054 || o == 0x210020 || o == 0x210064 ||
    (0x211000 ≤ o && o < 0x211800)

/-- A raise whose message goes to the priority lane of the collector (R468). -/
def Raise.urgent : Raise → Bool
  | .event _ _ _ => false
  | .fault _ _ l _ _ => decide (3 ≤ l % 8)

/-- The parts of the state: one for each field, with what a raise may touch taken apart. -/
inductive Part where
  | pending | out | raised | now | fresh | limits | regs | applied | staged | latches | funcs | key | ldx | queues | hostq
  | dma | pcie | flt | ident | time | axes | ncpA | ncpB | linkW | linkE | linkT | fwd | shared | lines | uarts | encoders
  | engines | fronds | act | cans | canPll | brg | usb | power | dieA | dieB | rpr | peat | boot | pair | image | xact
  | counts | pba | lanes | pendA | pendB | urgent
deriving DecidableEq, Repr

/-- A part is the same in two states. -/
def Part.same (s t : State) : Part → Prop
  | .pending => t.pending = s.pending
  | .out => t.out = s.out
  | .raised => t.raised = s.raised
  | .now => t.now = s.now
  | .fresh => t.fresh = s.fresh
  | .limits => t.limits = s.limits
  | .regs => ∀ o, raiseReg o = false → t.rg o = s.rg o
  | .applied => t.applied = s.applied
  | .staged => t.staged = s.staged
  | .latches => t.latches = s.latches
  | .funcs => t.funcs = s.funcs
  | .key => t.key = s.key
  | .ldx => t.ldx = s.ldx
  | .queues => t.queues = s.queues
  | .hostq => t.hostq = s.hostq
  | .dma => t.dma = s.dma
  | .pcie => ({ t.pcie with pba := 0 } : Pcie) = { s.pcie with pba := 0 }
  | .flt => ({ t.flt with prio := [], norm := [], ovf := false } : Faults) = { s.flt with prio := [], norm := [], ovf := false }
  | .ident => t.ident = s.ident
  | .time => t.time = s.time
  | .axes => t.axes = s.axes
  | .ncpA => ({ t.ncpA with pend := [] } : Ncp) = { s.ncpA with pend := [] }
  | .ncpB => ({ t.ncpB with pend := [] } : Ncp) = { s.ncpB with pend := [] }
  | .linkW => t.linkW = s.linkW
  | .linkE => t.linkE = s.linkE
  | .linkT => t.linkT = s.linkT
  | .fwd => t.fwd = s.fwd
  | .shared => t.shared = s.shared
  | .lines => t.lines = s.lines
  | .uarts => t.uarts = s.uarts
  | .encoders => t.encoders = s.encoders
  | .engines => t.engines = s.engines
  | .fronds => t.fronds = s.fronds
  | .act => t.act = s.act
  | .cans => t.cans = s.cans
  | .canPll => t.canPll = s.canPll
  | .brg => t.brg = s.brg
  | .usb => t.usb = s.usb
  | .power => t.power = s.power
  | .dieA => t.dieA = s.dieA
  | .dieB => t.dieB = s.dieB
  | .rpr => t.rpr = s.rpr
  | .peat => t.peat = s.peat
  | .boot => t.boot = s.boot
  | .pair => t.pair = s.pair
  | .image => t.image = s.image
  | .xact => t.xact = s.xact
  | .counts => ∀ o, raiseReg o = true → t.rg o = s.rg o
  | .pba => t.pcie.pba = s.pcie.pba
  | .lanes => t.flt.prio = s.flt.prio ∧ t.flt.norm = s.flt.norm ∧ t.flt.ovf = s.flt.ovf
  | .pendA => t.ncpA.pend = s.ncpA.pend
  | .pendB => t.ncpB.pend = s.ncpB.pend
  | .urgent => t.raised.countP Raise.urgent = s.raised.countP Raise.urgent

/-- Every part outside a list is the same in two states. -/
def Only (ps : List Part) (s t : State) : Prop := ∀ q : Part, q ∉ ps → Part.same s t q

/-- The parts that the delivery of a command's raises may touch while it does not take the hub to node safe: the output,
the once-a-millisecond limits, the registers of `raiseReg`, the local spore queues, the pending bits of MSI-X and of the
pairs, and the lanes of the fault collector (R397, R438, R443, R454, R468). -/
def raiseParts : List Part := [.out, .raised, .limits, .counts, .queues, .pba, .lanes, .pendA, .pendB, .urgent]

/-- A command left everything as it was, apart from the parts named and from what delivering its raises touches. -/
def Leaves (ps : List Part) (s t : State) : Prop := Only (raiseParts ++ ps) s t

/-- The parts, beyond those of a raise, that a command can ever touch. -/
def touches : Instr → List Part
  | .registerWrite .. | .wideValueWrite .. | .sysResetWarm .. | .sysResetFull .. | .sysResetReload .. |
    .bootImage .. | .peatCommandDone .. | .apertureAccess .. | .postedWriteReceived .. |
    .nonPostedWriteReceived .. | .usbLocalAccessDone .. | .blockAread .. | .blockAwrite .. | .blockLread .. |
    .blockLwrite .. | .hkSb .. | .hkSh .. | .hkSw .. | .hkSd .. | .bar0Access .. | .bar4Access .. | .safeExit ..
    | .domainRequest .. | .domainOn .. | .domainSwitchOnFailed .. | .domainOff .. | .lineDieLinkUp .. =>
      [.now, .fresh, .regs, .applied, .staged, .latches, .funcs, .key, .ldx, .hostq, .dma, .pcie, .flt, .ident,
      .time, .axes, .ncpA, .ncpB, .linkW, .linkE, .linkT, .fwd, .shared, .lines, .uarts, .encoders, .engines,
      .fronds, .act, .cans, .canPll, .brg, .usb, .power, .dieA, .dieB, .rpr, .peat, .boot, .pair, .image, .xact]
  | .wideValueRead .. =>
      [.now, .regs, .latches, .ldx, .ncpA, .ncpB, .uarts, .engines, .cans, .brg]
  | .funcStart .. | .funcStop .. | .funcRestart .. | .funcResume .. | .funcClear .. |
    .supervisionBlockReceived .. | .blockError .. | .moduleLos .. | .signalLost .. | .supervisionTimeout .. |
    .moduleAbsent .. | .linkRetrain .. | .linkRateup .. | .appendMerge .. | .actionCommit .. |
    .actSwapBoundary .. | .faultMessageProcess .. | .peerAlivePresent .. | .healthReportReceived .. |
    .handoverMessageReceived .. | .pairRelease .. | .restingHubSelfTest .. =>
      [.now, .regs, .applied, .funcs, .dma, .flt, .ident, .time, .axes, .ncpA, .ncpB, .linkW, .linkE, .linkT,
      .fwd, .lines, .uarts, .encoders, .engines, .fronds, .act, .cans, .brg, .usb, .power, .pair, .xact]
  | .functionRunning .. =>
      [.regs, .funcs, .time, .axes, .linkW, .linkE, .linkT, .lines, .engines, .fronds, .act, .cans, .usb,
      .power]
  | .functionStopped .. =>
      [.now, .regs, .funcs, .dma, .pcie, .flt, .ident, .time, .axes, .ncpA, .ncpB, .linkW, .linkE, .linkT, .fwd,
      .lines, .uarts, .encoders, .engines, .fronds, .act, .cans, .brg, .usb, .power, .pair, .xact]
  | .updateStrobe .. | .groupStrobe .. =>
      [.regs, .applied, .funcs, .power, .xact]
  | .ldxAddrWrite .. | .ldxWriteConfirmed .. =>
      [.regs, .ldx]
  | .ldxFetchDone .. | .ldxDataRead .. =>
      [.ldx]
  | .ldxDataWrite .. =>
      [.regs, .key, .ldx]
  | .ldxTimeout .. =>
      [.now, .regs, .ldx]
  | .ldxClaim .. | .actAidxWrite .. | .brgAidxWrite .. | .usbResult .. | .usbInfo .. | .pairHandback .. |
    .pairYield .. | .tmrCorrection .. =>
      [.regs]
  | .keyUnlock .. =>
      [.regs, .key]
  | .keyGuardTimeout .. =>
      [.now, .key]
  | .resetPin .. | .powerOn .. | .supplyReset .. =>
      [.now, .regs, .applied, .staged, .latches, .funcs, .key, .ldx, .hostq, .dma, .pcie, .flt, .ident, .time,
      .axes, .ncpA, .ncpB, .linkW, .linkE, .linkT, .fwd, .shared, .lines, .uarts, .encoders, .engines, .fronds,
      .act, .cans, .canPll, .brg, .usb, .power, .dieA, .dieB, .rpr, .peat, .boot, .pair, .image, .xact]
  | .vinStop .. | .railOutOfWindow .. | .temperatureMeasurement .. =>
      [.power, .dieA, .dieB]
  | .internalResetRelease .. =>
      [.ncpB, .boot]
  | .lbSwitchOff .. =>
      [.regs, .hostq, .dma, .pcie, .time, .axes, .ncpA, .ncpB, .linkW, .linkE, .linkT, .fwd, .lines, .uarts,
      .encoders, .engines, .act, .cans, .canPll, .brg, .usb, .power, .dieA, .dieB, .image, .xact]
  | .bist .. =>
      [.regs, .ncpB, .linkW, .linkE, .linkT, .fwd, .shared, .fronds, .rpr, .boot, .image]
  | .bistDone .. | .rprRetire .. | .rprScrubnow .. =>
      [.rpr]
  | .peatErase .. | .peatProgram .. | .peatVerify .. | .peatArm .. | .peatConfirm .. | .peatApplystage .. |
    .peatReload .. | .peatOvlwrite .. | .peatOvlerase .. | .peatNodeasg .. | .peatKeyprog .. | .peatKeyrevoke ..
    | .peatSvnadv .. =>
      [.regs, .key, .peat]
  | .peatLineDieLost .. =>
      [.regs, .peat]
  | .signalDetected .. =>
      [.linkW, .linkE, .linkT, .rpr]
  | .clockRecoveryLocked .. | .equaliserAdapted .. | .blockLock .. | .qualityWindowEnd .. =>
      [.linkW, .linkE, .linkT]
  | .supervisionBlockSend .. | .rateCycleExpiry .. | .moduleTransferTimeout .. =>
      [.now, .linkW, .linkE, .linkT]
  | .holdDownExpiry .. =>
      [.now, .linkW, .linkE, .linkT, .rpr]
  | .moduleTransfer .. | .moduleTransferDone .. =>
      [.regs, .linkW, .linkE, .linkT]
  | .sliceShadowRound .. =>
      [.regs, .time, .linkW, .linkE, .linkT, .fwd]
  | .frameReceived .. | .tokenBucketAdmit .. | .postedErrorMessageReceived .. |
    .errorReturnReceived .. | .healthReportSend .. =>
      [.regs, .fwd]
  | .frameDelivered .. =>
      [.regs, .fwd, .shared]
  | .frameSent .. | .probeSend .. | .probeReceived .. =>
      [.regs, .time, .fwd]
  | .epochAnnouncementSend .. =>
      [.now, .fwd]
  | .orderHoldExpiry .. =>
      [.now, .regs, .hostq, .fwd, .uarts, .cans]
  | .originationAdmitted .. | .outstandingEntryWaitEnd .. | .responseReceived .. =>
      [.regs, .funcs, .dma, .ncpA, .ncpB, .fwd, .usb, .xact]
  | .readRequestReceived .. =>
      [.now, .regs, .staged, .latches, .ldx, .ncpA, .ncpB, .fwd, .uarts, .engines, .act, .cans, .brg, .rpr]
  | .transactionTimeout .. =>
      [.now, .regs, .funcs, .dma, .ncpA, .ncpB, .usb, .xact]
  | .prefetchLineAged .. =>
      [.now, .regs, .xact]
  | .sefreeWrite .. =>
      [.xact]
  | .timeFrameSend .. =>
      [.now, .regs, .time, .fwd]
  | .timeFrameReceived .. =>
      [.regs, .time, .axes, .fwd]
  | .betterSourceTimeout .. | .holdoverEntry .. | .ppsTimeout .. | .ppsOutRise .. | .ppsOutFall .. |
    .servoIntervalEnd .. =>
      [.now, .time]
  | .ppsEdge .. | .timeAcceptstep .. | .timeLoadnow .. =>
      [.regs, .time, .axes]
  | .timeSlew .. | .timeArmpps .. =>
      [.regs, .time]
  | .probeAnswerReceived .. | .probeFollowUpReceived .. =>
      [.time, .fwd]
  | .probeExchangeTimeout .. =>
      [.now, .regs, .time]
  | .axisSampleLatch .. =>
      [.now, .regs, .axes, .fwd, .encoders, .act]
  | .axisSampleReceived .. =>
      [.regs, .axes, .fwd, .act]
  | .axisCoasting .. =>
      [.now, .regs, .axes]
  | .axisStale .. =>
      [.now, .regs, .axes, .act]
  | .appendWrite .. | .actSeal .. | .actClearsh .. | .actArmswap .. | .actDisarm .. | .actSortDone .. |
    .captureQueuePop .. =>
      [.regs, .act]
  | .lineCommandPlacement .. =>
      [.now, .regs, .fwd, .lines, .act]
  | .pulseOffEdgeCommit .. =>
      [.now, .act]
  | .shadowBankWrite .. | .actSwap .. | .actClearDone .. =>
      [.act]
  | .loutWrite .. | .lineDiagnosticEntry .. | .lcmdUnlatch .. =>
      [.regs, .lines]
  | .filteredEdge .. =>
      [.regs, .lines, .act]
  | .lineDiagnosticExit .. | .frondBudgetCut .. =>
      [.lines]
  | .frondBudgetOver .. | .usbPing .. | .localGapRecord .. =>
      []
  | .rs485DriverOff .. | .uartTransmitStart .. | .uartWordSent .. | .bridgeEgressUart .. =>
      [.uarts]
  | .uartCharacterReceived .. | .uartIdleGap .. =>
      [.regs, .uarts, .brg]
  | .utxWrite .. | .uartRxPop .. =>
      [.regs, .uarts]
  | .encoderEdge .. | .encoderZEdge .. | .encoderSignalLoss .. =>
      [.regs, .encoders]
  | .encoderLoad .. | .encoderArmz .. | .encoderSignalRestored .. =>
      [.encoders]
  | .engWait .. | .engWaitFlag .. | .engAt .. | .engShiftOut .. | .engShiftIn .. | .engTake .. | .engEmit .. |
    .engDriveOff .. | .engDriveOn .. | .engDriveToggle .. | .engDriveFromX .. | .engCountLoad .. |
    .engCountDecrement .. | .engBranch .. | .engMark .. | .engHalt .. =>
      [.now, .regs, .funcs, .lines, .engines, .fronds]
  | .engineStallComplete .. =>
      [.now, .regs, .funcs, .engines, .fronds]
  | .engineDelayEnd .. =>
      [.now, .engines]
  | .pinCommandDeferred .. =>
      [.now, .regs, .lines]
  | .engineTxStage .. =>
      [.staged]
  | .engineTxAppend .. =>
      [.regs, .staged, .engines]
  | .engineRxPop .. | .emptyTx .. | .emptyRx .. | .emptyBoth .. =>
      [.regs, .engines]
  | .programStoreStage .. =>
      [.regs, .staged]
  | .programStoreWrite .. =>
      [.regs, .staged, .funcs]
  | .pflagset .. =>
      [.fronds]
  | .engineSubstitution .. =>
      [.funcs, .engines, .fronds, .rpr]
  | .canLoad .. | .canReq .. | .canLoadreq .. | .canAbort .. | .canRecover .. | .canWakeUp .. | .canRxPop .. |
    .protocolException .. =>
      [.regs, .cans]
  | .canArbitration .. | .canRecoveryDone .. | .txdDominantTimeout .. | .busIntegrationDone .. =>
      [.cans]
  | .canTransmitDone .. =>
      [.regs, .fwd, .cans, .brg]
  | .canTransmitFailed .. | .canErrorDetected .. | .bridgeEgressCan .. =>
      [.regs, .fwd, .cans]
  | .canFrameReceived .. =>
      [.fresh, .regs, .fwd, .cans, .brg]
  | .rateCandidateTimeout .. =>
      [.now, .cans]
  | .canPllLocked .. =>
      [.canPll]
  | .bridgeLookup .. | .applicationMessageReceived .. =>
      [.regs, .fwd, .brg]
  | .bridgedFrameReceived .. =>
      [.regs, .fwd, .uarts, .cans]
  | .messageQueuePop .. | .brgSeal .. | .brgSwap .. | .brgDisarm .. | .brgSortDone .. | .brgSwapTakesEffect .. =>
      [.regs, .brg]
  | .brgClearsh .. | .brgShadowWrite .. =>
      [.brg]
  | .vbusChange .. | .commandBlockResponse .. | .eventEndpointIn .. | .outDataPacket .. | .startSplit .. |
    .hostKDuringWake .. | .downstreamRemoteWake .. | .downstreamConnectChange .. | .downstreamResumeEnd .. =>
      [.usb]
  | .pullupAttach .. | .portConnectReport .. | .wakeSenseStart .. | .wakeDriveStart .. | .wakeDriveEnd .. =>
      [.now, .usb]
  | .downstreamOvercurrent .. | .hubClassRequest .. | .usbLread .. | .usbLwrite .. | .endpointHalt .. |
    .endpointHaltClear .. | .standardRequest .. | .completeSplit .. | .usbSuspend .. | .usbResume .. |
    .usbWake .. | .usbBusReset .. =>
      [.regs, .usb]
  | .eventTrap .. | .ncpClaim .. | .ncpEoi .. =>
      [.ncpA, .ncpB]
  | .lockstepMismatch .. | .watchdogKick .. =>
      [.regs, .ncpA, .ncpB]
  | .watchdogExpiry .. =>
      [.now, .regs, .ncpA, .ncpB]
  | .fltAck .. | .fltAckAll .. =>
      [.regs, .flt]
  | .lockstepSelfTestDone .. | .aliveToggle .. =>
      [.now, .regs, .funcs, .dma, .flt, .ident, .time, .axes, .ncpA, .ncpB, .linkW, .linkE, .linkT, .fwd,
      .lines, .uarts, .engines, .act, .cans, .brg, .usb, .power, .pair, .xact]
  | .hkLui .. | .hkAdd .. | .hkAddi .. | .hkSub .. | .hkAnd .. | .hkAndi .. | .hkOr .. | .hkOri .. | .hkXor .. |
    .hkXori .. | .hkShl .. | .hkShli .. | .hkShr .. | .hkShri .. | .hkSra .. | .hkSrai .. | .hkMul .. |
    .hkMulh .. | .hkDiv .. | .hkDivu .. | .hkRem .. | .hkRemu .. | .hkMin .. | .hkMax .. | .hkClz .. | .hkBeq ..
    | .hkBne .. | .hkBlt .. | .hkBge .. | .hkBltu .. | .hkBgeu .. | .hkBfs .. | .hkBfc .. | .hkJal .. |
    .hkJalr .. | .hkMfs .. | .hkMts .. | .hkFence .. | .hkTrap .. | .hkRett .. | .hkWfe .. | .hkSpore .. |
    .hkAxr .. | .hkTimTime .. | .hkTimTick .. | .hkTimFraction .. | .illegalInstruction .. =>
      [.regs, .funcs, .ncpA, .ncpB]
  | .hkLb .. | .hkLbu .. | .hkLh .. | .hkLhu .. | .hkLw .. | .hkLd .. | .hkCas .. | .hkSwp .. =>
      [.now, .regs, .applied, .staged, .latches, .funcs, .key, .ldx, .hostq, .dma, .pcie, .flt, .ident, .time,
      .axes, .ncpA, .ncpB, .linkW, .linkE, .linkT, .fwd, .shared, .lines, .uarts, .encoders, .engines, .fronds,
      .act, .cans, .brg, .usb, .power, .rpr, .peat, .boot, .pair, .image, .xact]
  | .hkFire .. =>
      [.now, .regs, .latches, .funcs, .ldx, .ncpA, .ncpB, .uarts, .engines, .act, .cans, .brg, .rpr]
  | .sporeFrameSend .. =>
      [.now, .regs, .hostq, .fwd]
  | .sporeFrameReceived .. =>
      [.regs, .hostq, .fwd]
  | .hqconsWrite .. | .hostQueueEnable .. =>
      [.regs, .hostq]
  | .msixModerationTimeout .. =>
      [.now, .regs, .hostq]
  | .pcieLinkDown .. =>
      [.regs, .pcie, .linkW, .linkE, .linkT]
  | .functionLevelReset .. =>
      [.regs, .dma, .pcie]
  | .dmaEnable .. | .dmaTailWrite .. | .dmaDescriptorComplete .. | .dmaDisable .. =>
      [.regs, .dma]
  | .dmaHostReadTimeout .. =>
      [.now, .regs, .dma]
  | .lineDieLinkLost .. =>
      [.now, .regs, .applied, .funcs, .dma, .flt, .ident, .time, .axes, .ncpA, .ncpB, .linkW, .linkE, .linkT,
      .fwd, .lines, .uarts, .encoders, .engines, .fronds, .act, .cans, .brg, .usb, .power, .dieA, .dieB, .pair,
      .xact]
  | .peerAliveLost .. | .bootwaitExpiry .. | .handoverDone .. =>
      [.now, .regs, .applied, .funcs, .dma, .flt, .ident, .time, .axes, .ncpA, .ncpB, .linkW, .linkE, .linkT,
      .fwd, .shared, .lines, .uarts, .encoders, .engines, .fronds, .act, .cans, .brg, .usb, .power, .pair,
      .xact]
  | .pairLogicEntry .. | .twinWaitTimeout .. | .probeResultTimeout .. | .probeRepeat .. | .handoverSwitch .. =>
      [.now, .regs, .funcs, .dma, .ident, .time, .axes, .ncpA, .ncpB, .linkW, .linkE, .linkT, .fwd, .lines,
      .uarts, .engines, .act, .cans, .brg, .usb, .power, .pair, .xact]
  | .fallenSafeEnd .. =>
      [.now, .uarts, .power, .pair]
  | .checkpointIncrementSend .. | .checkpointSilence .. =>
      [.now, .pair]
  | .checkpointPartReceived .. =>
      [.regs, .time, .axes, .fwd, .lines, .power, .pair]
  | .handbackHoldoffExpiry .. =>
      [.now, .regs, .pair]
  | .pairResync .. | .pairHold .. =>
      [.regs, .pair]
  | .handoverFreeze .. =>
      [.now, .regs, .funcs, .dma, .time, .axes, .ncpA, .ncpB, .linkW, .linkE, .linkT, .fwd, .lines, .engines,
      .act, .cans, .brg, .usb, .power, .pair, .xact]
  | .domainTestDone .. =>
      [.ncpA, .fronds, .power, .rpr, .boot]
  | .buckHiccup .. =>
      [.dieA, .dieB]
  | .buckRestart .. | .gateRelease .. =>
      [.now, .dieA, .dieB]
  | .channelTinsExpiry .. | .pretmoExpiry .. | .gtmoExpiry .. | .channelRetry .. =>
      [.now, .regs, .power]
  | .prechargeDone .. | .gateEnhanced .. | .channelUndervoltage .. | .channelOvervoltage .. |
    .faultTimerExpiry .. | .fastTrip .. | .reverseCurrent .. | .reversedSupply .. | .reversedSupplyCleared .. |
    .powerRetry .. =>
      [.regs, .power]
  | .powerGoodAsserted .. | .retryCountReset .. =>
      [.now, .power]
  | .powerGoodRemoved .. =>
      [.power]
  | .scrubRead .. | .rowRetirement .. =>
      [.regs, .rpr]
  | .rprMapwrite .. | .inServiceMapWrite .. =>
      [.rpr, .peat]
  | .sectorRetirement .. =>
      [.peat]
  | .spareEngineTestFailed .. =>
      [.fronds, .rpr]
  | .pcieLinkUp .. =>
      [.pcie]
  | .pcieConfigurationWrite .. =>
      [.pcie, .linkW, .linkE, .linkT]

/-- What holds between commands: no raise waits for delivery. -/
def Settled (s : State) : Prop := s.raised = []

/-- A command completes from a state, and the state after it is as said. -/
def Answers (c : Instr) (s : State) (P : State → Prop) : Prop := ∃ t : State, exec c s = .next t ∧ P t

/-- The hub entered node safe on the way from one state to another (R478). -/
def EntersSafe (s t : State) : Prop := s.flt.safe = false ∧ t.flt.safe = true

/-- The pair logic does not run, or it stands in a role in which a change of a link starts nothing (R495, R496, R512). -/
def PairSteady (s : State) : Prop :=
  s.pairRuns = false ∨ s.pair.waiting = false ∧ s.pair.role ≠ .probing ∧ s.pair.role ≠ .giving ∧ s.pair.role ≠ .receiving

/-- The priority lane of the collector has room for n more messages (R469). -/
def Roomy (n : Nat) (s : State) : Prop := s.flt.prio.length + n ≤ 16

/-- A pair performs the instruction at its PC: it issues, does not wait in WFE, and the fetch is allowed (R391, R396, R415). -/
def Issuing (p : Pair) (s : State) : Prop :=
  s.issues p = true ∧ (s.ncp p).wfe = false ∧ fetchable (s.ncp p).pc = true ∧ (s.ncp p).allowed .exec (s.ncp p).pc = true

/-- Every memory stands in the canonical form of `Memory.wf`: rising addresses, and no byte listed at its unlisted value. -/
def MemoriesCanonical (s : State) : Prop :=
  ∀ m ∈ [s.shared, s.image, s.ncpA.code, s.ncpA.data, s.ncpB.code, s.ncpB.data, s.act.bank0, s.act.bank1, s.brg.bank0,
    s.brg.bank1], Memory.wf m = true

/-- The lanes of the collector and the local spore queues hold no more than they can (R443, R468). -/
def WithinCapacity (s : State) : Prop :=
  s.flt.prio.length ≤ 16 ∧ s.flt.norm.length ≤ 64 ∧ ∀ q, (s.queue q).recs.length ≤ 256

end Sys2Proof.Machine
end

