-- ==== Sys2Proof/Certificates/Slice0/Obligations.lean ====
section
/-! DEFINITION. The statements about the hub, one for each part of the spec. -/

open Sys2Proof Sys2Proof.Machine

/-- The window to the line dies (R50 to R57): an address selects and fetches, a fetch that completes serves the read
that waits, data is posted, a confirmed write reaches its register and the next fetch starts, a silent die fails the
access, and a tag claims a free window. Commands of an access that does not run are not part of the statement. The key
guard (R59, R60): the code opens it for its sender for 1,024 core ticks, its holder refreshes it, a wrong code closes it
or is counted, another's code is counted busy, the holder's RWK write passes and closes it, and time closes it. Rests on
the model's own choices or readings of notes/assumptions/ 2, 24, 26, 27. -/
def Obligations.LineDieWindowAndKeyGuard : Prop :=
  ((∀ (src : Src) (data : Word) (s : State), s.ldx.phase = .idle →
     ∃ v : Word, v = maskedWrite (BitVec.ofNat 32 (s.ldx.addr.toNat + s.ldx.d * 2 ^ 15)) 0xBFFF data ∧
       exec (.ldxAddrWrite src data) s = .next { s.begun with ldx := { s.ldx with
         die := if nbit v.toNat 15 then .lb else .la, addr := v.truncate 14, phase := .fetching, since := s.now, rdvalid := false } }) ∧
   (∀ (m : BitVec 16) (s : State), s.ldx.phase = .fetching → s.dieUp s.ldx.d = true → s.ldx.waiters = [] →
     exec (.ldxFetchDone m) s = .next { s.begun with ldx := { s.ldx with
       phase := .idle, rdvalid := true, err := false, fetched := s.begun.ldRead s.ldx.d s.ldx.addr.toNat m } }) ∧
   (∀ (m : BitVec 16) (w : Src) (ws : List Src) (s : State), s.ldx.phase = .fetching → s.dieUp s.ldx.d = true →
     s.ldx.waiters = w :: ws →
     ∃ v : BitVec 16, v = s.begun.ldRead s.ldx.d s.ldx.addr.toNat m ∧
     exec (.ldxFetchDone m) s = .next { s.begun with
       out := [.answer w stOk (leBytes v.toNat 4)]
       ldx := { s.ldx with
         addr := s.ldx.addr + 1, phase := .fetching, since := s.now, rdvalid := false, err := false, fetched := v, waiters := ws } }) ∧
   (∀ (src : Src) (data : Word) (s : State), s.ldx.phase = .idle →
     s.ldxGuarded = false →
     exec (.ldxDataWrite src data) s = .next { s.begun with ldx := { s.ldx with
       phase := .writing, since := s.now, wdata := data.truncate 16, wmask := (data >>> 16).truncate 16, wsrc := src } }) ∧
   (∀ (h : RegHit) (f : Nat) (s : State), s.ldx.phase = .writing → s.dieUp s.ldx.d = true →
     regHit (ldOff s.ldx.d s.ldx.addr.toNat) = some h → h.row.acc = .rwx → h.owner? = some f →
      (s.func f).st = .stopped →
     ∀ v : Word, v = maskedWrite (s.rg (ldOff s.ldx.d s.ldx.addr.toNat)) h.row.mask
       (s.ldx.wdata.setWidth 32 ||| s.ldx.wmask.setWidth 32 <<< 16) → h.row.ok v.toNat = true →
     exec .ldxWriteConfirmed s = .next { s.begun.setReg (ldOff s.ldx.d s.ldx.addr.toNat) v with ldx := { s.ldx with
       addr := s.ldx.addr + 1, phase := .fetching, since := s.now, rdvalid := false, err := false } }) ∧
   (∀ (src : Src) (s : State), s.ldx.phase = .idle → s.ldx.rdvalid = true →
     exec (.ldxDataRead src) s = .next { s.begun with
       out := [.answer src stOk (leBytes s.ldx.fetched.toNat 4)]
       ldx := { s.ldx with addr := s.ldx.addr + 1, phase := .fetching, since := s.now, rdvalid := false } }) ∧
   (∀ s : State, s.ldx.phase ≠ .idle → s.ldx.waiters = [] →
     Answers .ldxTimeout s fun t => t.now = max s.now (s.ldx.since + 6250) ∧
       t.ldx = { s.ldx with phase := .idle, rdvalid := false, err := true, fetched := 0 } ∧
       t.rv 0x26000C = min (s.rv 0x26000C + 1) 0xFFFFFFFF) ∧
   (∀ (src : Src) (data : Word) (s : State) (v : Word), v = maskedWrite (s.rg 0x260010) 0xFF data →
     s.rv 0x260010 = 0 ∨ v = 0 → exec (.ldxClaim src data) s = .next (s.begun.setReg 0x260010 v))) ∧
  ((∀ (src : Src) (data : Word) (s : State), s.keyOpen = false → data.toNat % 65536 = 0x5A3C →
     exec (.keyUnlock src data) s = .next { s.begun with
       key := { opened := true, port := src.port, slot := src.slot, node := src.node, since := s.now } }) ∧
   (∀ (src : Src) (data : Word) (s : State), s.keyHeldBy src = true → data.toNat % 65536 = 0x5A3C →
     exec (.keyUnlock src data) s = .next { s.begun with key := { s.key with since := s.now } }) ∧
   (∀ (src : Src) (data : Word) (s : State), s.keyHeldBy src = true → data.toNat % 65536 ≠ 0x5A3C →
     exec (.keyUnlock src data) s = .next ({ s.begun with key := {} }.bump 0x25000C)) ∧
   (∀ (src : Src) (data : Word) (s : State), s.keyOpen = true → s.keyHeldBy src = false →
     exec (.keyUnlock src data) s = .next (s.begun.bump (if data.toNat % 65536 = 0x5A3C then 0x250010 else 0x25000C))) ∧
   (∀ (src : Src) (data : Word) (s : State), s.keyOpen = false → data.toNat % 65536 ≠ 0x5A3C →
     exec (.keyUnlock src data) s = .next (s.begun.bump 0x25000C)) ∧
   (∀ s : State, s.key.opened = true →
     exec .keyGuardTimeout s = .next { s.begun with now := max s.now (s.key.since + 1024), key := {} }) ∧
   (∀ (src : Src) (off : Nat) (s : State), s.keyHeldBy src = true → s.keyPass src off = (true, { s with key := {} })) ∧
   (∀ (src : Src) (off : Nat) (s : State), s.keyHeldBy src = false → (s.keyPass src off).1 = false ∧
     (s.keyPass src off).2.key = s.key ∧ (s.keyPass src off).2.rv 0x250008 = min (s.rv 0x250008 + 1) 0xFFFFFFFF) ∧
   (∀ s : State, exec .tmrCorrection s = .next (s.begun.bump 0x230040)))

/-- A function command takes its function where R39 says, with what FUNC.FSTATn shows of the command (R40, R42, R45):
START, RESTART, RESUME and CLEAR in every state in which they are accepted; STOP and the RESTART of a running function
while ALIVE does not fall with it, for every function but fabric transactions, whose stop also ends what waits. A
function command that R39 does not accept in the state of its function is rejected: nothing about the function moves but
what FUNC.FSTATn shows of the command, FUNC.CSTAT shows it, and FUNC.REJCNT counts it (R40, R41). Rests on the model's
own choices or readings of notes/assumptions/ 36, 37. -/
def Obligations.FunctionCommands : Prop :=
  ((∀ (id : BitVec 8) (s : State) (f : Func), f = s.func id.toNat → f.st = .stopped →
     (f.presv = false → Answers (.funcStart id) s fun t => t.func id.toNat = { f with
       st := .starting, fresh := true, restart := false, keeps := false, presv := false, dirty := false, pend := false
       rej := false, rejState := 0, lastCmd := 1 }) ∧
     (Answers (.funcRestart id) s fun t => t.func id.toNat = { f with
       st := .starting, fresh := true, restart := false, keeps := false, presv := false, dirty := false, pend := false
       rej := false, rejState := 0, lastCmd := 3 }) ∧
     (f.presv = true → f.dirty = false → Answers (.funcResume id) s fun t => t.func id.toNat = { f with
       st := .starting, fresh := resumeIsRestart id.toNat, restart := false, keeps := false, presv := false, dirty := false
       pend := false, rej := false, rejState := 0, lastCmd := 4 })) ∧
   (∀ (id : BitVec 8) (s : State) (f : Func), f = s.func id.toNat → f.st = .halted →
     Answers (.funcClear id) s fun t => t.func id.toNat = { f with
       st := .stopped, presv := false, dirty := false, rej := false, rejState := 0, lastCmd := 5 }) ∧
   (∀ (id : BitVec 8) (s : State) (f : Func), f = s.func id.toNat → id.toNat ≠ 5 →
     s.flt.aliveOn = false ∨ s.aliveMay = true ∧ id.toNat ≠ 15 →
     (f.st = .starting ∨ f.st = .running → Answers (.funcStop id) s fun t => t.func id.toNat = { f with
       st := .stopping, keeps := f.st == .running, restart := false, rej := false, rejState := 0, lastCmd := 2 }) ∧
     (f.st = .running → Answers (.funcRestart id) s fun t => t.func id.toNat = { f with
       st := .stopping, keeps := true, restart := true, pend := false, rej := false, rejState := 0, lastCmd := 3 }))) ∧
  (∀ (id : BitVec 8) (cmd : Nat) (c : Instr) (s : State) (f : Func), f = s.func id.toNat →
     (cmd, c) ∈ [(1, Instr.funcStart id), (2, .funcStop id), (3, .funcRestart id), (4, .funcResume id), (5, .funcClear id)] →
     f.verdict cmd = none →
     Answers c s fun t =>
       t.func id.toNat = { f with rej := true, rejState := BitVec.ofNat 3 f.st.code, lastCmd := BitVec.ofNat 3 cmd } ∧
       (∀ j, j ≠ id.toNat → t.func j = s.func j) ∧
       t.rv 0x01001C = min (s.rv 0x01001C + 1) 0xFFFFFFFF ∧
       t.rf 0x010004 7 0 = id.toNat ∧ t.rf 0x010004 10 8 = cmd ∧ t.rb 0x010004 11 = true ∧ t.rf 0x010004 14 12 = f.st.code ∧
       t.rf 0x010004 31 16 = (s.rf 0x010004 31 16 + 1) % 65536 ∧
       (∀ o, raiseReg o = false → o ≠ 0x01001C → o ≠ 0x010004 → t.rg o = s.rg o))

/-- The transitions of R42 and R43: a function that nothing makes wait enters RUNNING, one that waits stays in STARTING,
and a function whose work has ended enters STOPPED with PRESV as it stopped, or starts again. -/
def Obligations.FunctionTransitions : Prop :=
  (∀ (id : BitVec 8) (s : State), (s.func id.toNat).st = .starting → s.waits id.toNat = false →
    Answers (.functionRunning id) s fun t => (t.func id.toNat).st = .running) ∧
  (∀ (id : BitVec 8) (s : State), s.waits id.toNat = true → exec (.functionRunning id) s = .next s.begun) ∧
  (∀ (id : BitVec 8) (s : State) (f : Func), f = s.func id.toNat → f.st = .stopping → s.stillWorks id.toNat = false →
    (f.restart = false → Answers (.functionStopped id) s fun t => t.func id.toNat = { f with
      st := .stopped, presv := f.keeps, keeps := false }) ∧
    (f.restart = true → Answers (.functionStopped id) s fun t => t.func id.toNat = { f with
      st := .starting, fresh := true, restart := false, keeps := false, presv := false, dirty := false })) ∧
  (∀ (id : BitVec 8) (s : State), s.stillWorks id.toNat = true → exec (.functionStopped id) s = .next s.begun)

/-- The strobes (R45 to R47): FUNC.UPD makes every pending value of its function the applied one, FUNC.UPDGRP clears
PEND of each member of a selected group and of no other function, and a strobe of an ABSENT function is ignored with
reason 6. Values that span registers (R30, R31): a write to a lower register of a control value is staged under its
mask, the write of the highest applies what is staged, a read of the lowest register of a status value latches the rest
for its port, and the next read of a latched part gives it once. Rests on the model's own choices or readings of
notes/assumptions/ 21, 31. -/
def Obligations.StrobesAndWideValues : Prop :=
  ((∀ (src : Src) (id : BitVec 8) (s : State), (s.func id.toNat).st ≠ .absent →
     Answers (.updateStrobe src id) s fun t =>
       t.func id.toNat = { s.func id.toNat with pend := false } ∧
       ∀ (off : Nat) (h : RegHit), regHit off = some h → h.row.acc = .rws → h.owner? = some id.toNat → t.ap off = s.rv off) ∧
   (∀ (src : Src) (id : BitVec 8) (s : State), (s.func id.toNat).st = .absent →
     Answers (.updateStrobe src id) s fun t =>
       t.rv 0x010010 = min (s.rv 0x010010 + 1) 0xFFFFFFFF ∧ t.rv 0x010014 = 0x06010008 ∧ t.rv 0x010018 = srcCode src) ∧
   (∀ (src : Src) (groups : BitVec 16) (s : State),
     Answers (.groupStrobe src groups) s fun t => ∀ n : Nat, n < 256 →
       t.func n = if s.rb (0x010800 + 4 * n) 4 ∧ groups.getLsbD (s.rf (0x010800 + 4 * n) 3 0) ∧ (s.func n).st ≠ .absent
         then { s.func n with pend := false } else s.func n)) ∧
  ((∀ (src : Src) (off : BitVec 24) (data : Word) (h : RegHit) (f : Nat) (s : State), s.boot.request = 0 → off.toNat % 4 = 0 →
     off.toNat < 0x0D0000 → regHit off.toNat = some h → h.row.acc = .rwx → h.row.full = false →
     h.owner? = some f → (s.func f).st = .stopped → s.accepts off.toNat h data = true →
     (h.row.wide = .stage → exec (.wideValueWrite src off data) s = .next (s.begun.stage off.toNat h.row.mask data)) ∧
     (∀ k, h.row.wide = .apply k →
       exec (.wideValueWrite src off data) s = .next (s.begun.applyWide off.toNat h.row.mask k data))) ∧
   (∀ (src : Src) (off : BitVec 24) (h : RegHit) (k : Nat) (s : State), off.toNat % 4 = 0 → off.toNat ≠ 0x260004 →
     s.testWindow off.toNat = false → s.popReg off.toNat .clean = none → s.latchAt src.port.toNat off.toNat = none →
     regHit off.toNat = some h → h.row.wide = .latch k →
     exec (.wideValueRead src off) s = .next { s.begun.latchUpper src.port.toNat off.toNat k with
       out := [.answer src stOk (leBytes (s.begun.regValue off.toNat).toNat 4)] }) ∧
   (∀ (src : Src) (off : BitVec 24) (w : Word) (s : State), off.toNat % 4 = 0 → off.toNat ≠ 0x260004 →
     s.testWindow off.toNat = false → s.popReg off.toNat .clean = none → s.latchAt src.port.toNat off.toNat = some w →
     exec (.wideValueRead src off) s = .next { s.begun with
       out := [.answer src stOk (leBytes w.toNat 4)]
       latches := s.latches.filter (fun e => e.1 != (src.port.toNat, off.toNat)) }))

/-- A write to a register (R29, R35, R49, R60): the wrong size or an unaligned offset, an unmapped offset, a read-only
register, an RWX register of a function that is ABSENT or not STOPPED, and an RWK register without the guard change
nothing and are counted with their reason; an RWX register of a STOPPED function takes an accepted value under the write
mask. Rests on the model's own choices or readings of notes/assumptions/ 29. -/
def Obligations.RegisterWritesChecked : Prop :=
  (∀ (src : Src) (off : BitVec 24) (size : Width) (data : Word) (s : State) (reason : Nat), s.boot.request = 0 →
    (reason = 3 ∧ (size ≠ .word ∨ off.toNat % 4 ≠ 0)) ∨
    (size = .word ∧ off.toNat % 4 = 0 ∧
      ((reason = 4 ∧ regHit off.toNat = none ∧ appliedOf? off.toNat = none ∧ s.testWindow off.toNat = false) ∨
       (∃ h, regHit off.toNat = some h ∧
        ((reason = 5 ∧ h.row.acc = .ro) ∨
         (reason = 6 ∧ h.row.acc = .rwx ∧ ∃ f, h.owner? = some f ∧ (s.func f).st = .absent) ∨
         (reason = 0 ∧ h.row.acc = .rwx ∧ ∃ f, h.owner? = some f ∧ (s.func f).st ≠ .absent ∧ (s.func f).st ≠ .stopped))))) →
    Answers (.registerWrite src off size data) s fun t =>
      t.rv 0x010010 = min (s.rv 0x010010 + 1) 0xFFFFFFFF ∧ t.rv 0x010014 = reason * 2 ^ 24 + off.toNat ∧
      t.rv 0x010018 = srcCode src ∧
      ∀ o, raiseReg o = false → o ≠ 0x010010 → o ≠ 0x010014 → o ≠ 0x010018 → t.rg o = s.rg o) ∧
  (∀ (src : Src) (off : BitVec 24) (data : Word) (h : RegHit) (s : State), s.boot.request = 0 → off.toNat % 4 = 0 →
    regHit off.toNat = some h → h.row.acc = .rwk → s.keyHeldBy src = false →
    Answers (.registerWrite src off .word data) s fun t =>
      t.rv 0x250008 = min (s.rv 0x250008 + 1) 0xFFFFFFFF ∧ t.key = s.key ∧
      ∀ o, raiseReg o = false → o ≠ 0x250008 → t.rg o = s.rg o) ∧
  (∀ (src : Src) (off : BitVec 24) (data : Word) (h : RegHit) (f : Nat) (s : State), s.boot.request = 0 → off.toNat % 4 = 0 →
    off.toNat < 0x0D0000 → regHit off.toNat = some h → h.row.acc = .rwx → h.row.wide = .no → h.row.full = false →
    h.owner? = some f → (s.func f).st = .stopped → s.accepts off.toNat h data = true →
    exec (.registerWrite src off .word data) s =
      .next (s.begun.setReg off.toNat (maskedWrite (s.rg off.toNat) h.row.mask data)))

/-- Resets (R127, R520, R521, R551, R580, R593): power-on and a supply reset leave every register, function and table as
after reset, a pin reset and SYS.RESET keep the epoch, raised by one, and full resets keep the checkpoint copy; each
names its cause, and the release of the internal reset starts pair B in its boot ROM. Rests on the model's own choices
or readings of notes/assumptions/ 9, 10, 129, 130, 131. -/
def Obligations.ResetsLeave : Prop :=
  (∀ s : State, Answers .powerOn s fun t =>
    t.regs = [] ∧ t.applied = [] ∧ t.staged = [] ∧ t.funcs = [] ∧ t.key = {} ∧ t.shared = [] ∧ t.fwd = {} ∧
    t.boot = { cause := 1 } ∧ t.ident = { straps := s.ident.straps } ∧ t.peat = s.peat.kept ∧ t.now = s.now ∧
    t.power.vin = true ∧ t.power.rstat = 0x3F ∧ t.dieA.buckOn = true ∧ t.dieB.buckOn = true) ∧
  (∀ s : State, Answers .supplyReset s fun t =>
    t.regs = [] ∧ t.applied = [] ∧ t.funcs = [] ∧ t.key = {} ∧ t.shared = [] ∧ t.fwd = {} ∧ t.now = s.now ∧
    t.boot = { cause := 16, held := true } ∧ t.peat = s.peat.kept) ∧
  (∀ (straps : Straps) (s : State), Answers (.resetPin straps) s fun t =>
    t.regs = [] ∧ t.applied = [] ∧ t.funcs = [] ∧ t.key = {} ∧ t.boot = { cause := 2 } ∧ t.ident = { straps := straps } ∧
    t.now = s.now + 6250 ∧ t.fwd = { epoch := s.fwd.epoch + 1, poweron := false } ∧ t.pair.copy = s.pair.copy ∧
    t.peat = s.peat.kept) ∧
  (∀ (src : Src) (s : State), s.boot.request = 0 → s.keyHeldBy src = true →
    (Answers (.sysResetFull src) s fun t =>
      t.regs = [] ∧ t.applied = [] ∧ t.funcs = [] ∧ t.key = {} ∧ t.boot = { cause := 8 } ∧
      t.fwd = { epoch := s.fwd.epoch + 1, poweron := false } ∧ t.pair.copy = s.pair.copy ∧ t.peat = s.peat.kept) ∧
    (Answers (.sysResetWarm src) s fun t => t.boot = { cause := 4 } ∧ t.key = {} ∧ t.shared = [] ∧ t.latches = []) ∧
    (s.boot.valid = false → s.boot.waiting = false → Answers (.sysResetReload src) s fun t =>
      t.fwd.epoch = s.fwd.epoch + 1 ∧ t.fwd.poweron = false ∧ t.key = {} ∧ t.boot = { s.boot with request := 0 })) ∧
  (∀ s : State, s.boot.released = false → s.bootSetOn = true → s.rpr.pbFail = false →
    exec .internalResetRelease s = .next { s.begun with
      boot := { s.boot with released := true, held := false }, ncpB := { s.ncpB with bootrom := true, sys := true, pc := 0 } })

/-- The built-in test and the boot ROM (R73, R80, R551, R552, R553): BIST of a hub whose boot set is ON empties the
memories it tests, BIST ends once, a domain's first test ends, and a hub that finds no image to select, or whose pair B
cannot run, waits as a bare hub. The repair controller at work (R557 to R563): a scrub read counts what correction
finds, a marked row takes the lowest free spare and its mark goes, RETIRE releases every mark, map writes and sector
retirements start as PEAT commands while none runs, and a spare engine that fails its test is no longer a working spare.
Rests on the model's own choices or readings of notes/assumptions/ 134, 136, 137, 141. -/
def Obligations.SelfTestAndRepair : Prop :=
  ((∀ (f : BistFinds) (s : State), s.rpr.done = false → s.boot.bist = false → s.bootSetOn = true →
     Answers (.bist f) s fun t => t.boot.bist = true ∧ t.shared = [] ∧ t.image = [] ∧ t.ncpB.code = [] ∧ t.ncpB.data = []) ∧
   (∀ s : State, s.boot.bist = true → s.rpr.done = false →
     Answers .bistDone s fun t => t.rpr = { s.rpr with done := true }) ∧
   (∀ (d : BitVec 4) (f : BistFinds) (s : State), testedDomain d.toNat = true → s.domOn d.toNat = true →
     (s.dom d.toNat).tested = false → Answers (.domainTestDone d f) s fun t =>
       t.dom d.toNat = { s.dom d.toNat with tested := true } ∧ (d = 8 → t.ncpA.code = [] ∧ t.ncpA.data = [])) ∧
   (∀ s : State, s.boot.request = 0 → s.rpr.done = true → s.boot.released = true → s.boot.valid = false →
     s.boot.waiting = false → s.boot.listDue = false →
     (s.rpr.pbFail = true ∨ s.overlayChoice = none ∧ s.ident.straps.boot = 1) →
     Answers .bootImage s fun t => t.boot.waiting = true ∧ t.boot.valid = false ∧ t.boot.slot = 0 ∧
       t.boot.phase = if s.rpr.pbFail then 0xE else 8)) ∧
  ((∀ (mid : BitVec 7) (row : BitVec 12) (last : Bool) (s : State), row.toNat < memRows mid.toNat →
     (exec (.scrubRead mid row .clean last) s = .next { s.begun with rpr := { s.rpr with scrubbing := !last } }) ∧
     (Answers (.scrubRead mid row .corrected last) s fun t =>
       t.rpr.scrubbing = !last ∧ t.rv 0x230044 = min (s.rv 0x230044 + 1) 0xFFFFFFFF) ∧
     (Answers (.scrubRead mid row .uncorrectable last) s fun t =>
       t.rpr.scrubbing = !last ∧ t.rv 0x230048 = min (s.rv 0x230048 + 1) 0xFFFFFFFF ∧
       t.rpr.marks.any (fun m => m.mid == mid.toNat && m.row == row.toNat) = true)) ∧
   (∀ (mid : BitVec 7) (row : BitVec 12) (k : Nat) (s : State), s.retireDue mid.toNat row.toNat = true →
     s.mayRetire mid.toNat = true → mid.toNat < 0x60 → lowestFree (memSpares mid.toNat) (s.mem mid.toNat).rows = some k →
     Answers (.rowRetirement mid row) s fun t =>
       (t.mem mid.toNat).rows = (s.mem mid.toNat).rows + 2 ^ k ∧ t.rv 0x23004C = min (s.rv 0x23004C + 1) 0xFFFFFFFF ∧
       t.rpr.marks.any (fun m => m.mid == mid.toNat && m.row == row.toNat) = false) ∧
   (∀ s : State, exec .rprRetire s = .next { s.begun with
     rpr := { s.rpr with marks := s.rpr.marks.map (fun m => { m with go := true }) } }) ∧
   (∀ s : State, exec .rprScrubnow s = .next { s.begun with rpr := { s.rpr with scrubbing := true } }) ∧
   (∀ s : State, s.peat.job = none → Answers .rprMapwrite s fun t =>
     t.rpr.mapPend = false ∧ t.peat.lastOp = 15 ∧ ∃ j, t.peat.job = some j ∧ j.op = 15) ∧
   (∀ s : State, s.peat.job.isSome = true →
     exec .rprMapwrite s = .next { s.begun with rpr := { s.rpr with mapPend := true } }) ∧
   (∀ s : State, s.peat.job = none → s.rpr.mapPend = true → Answers .inServiceMapWrite s fun t =>
     t.rpr.mapPend = false ∧ t.peat.lastOp = 15 ∧ ∃ j, t.peat.job = some j ∧ j.op = 15) ∧
   (∀ (die : Die) (sec : BitVec 5) (s : State), s.retireDue (sectorMid (dieIndex die)) sec.toNat = true → s.peat.job = none →
     s.dieUp (dieIndex die) = true → Answers (.sectorRetirement die sec) s fun t => t.peat.lastOp = 14 ∧
       ∃ j, t.peat.job = some j ∧ j.op = 14 ∧ j.slot = (dieIndex die == 1) ∧ j.len = sec.toNat) ∧
   (∀ (nn : BitVec 4) (s : State), (s.frond nn.toNat).spare ≠ 7 → Answers (.spareEngineTestFailed nn) s fun t =>
     t.frond nn.toNat = { s.frond nn.toNat with spareOk := false, pending := false }))

/-- Every PEAT command is taken while none runs (R82, R83): the guarded ones with the key, which closes; the job holds
the arguments as they stand, and BUSY refuses the next one with reason 2. What a PEAT command has done when it ends
(R72, R82 to R84), by its result: 0x0 with the effect of its row, or the reason for which the command left its slot, its
copies or its fuses as they were; ERRCNT counts every failure. Rests on the model's own choices or readings of
notes/assumptions/ 40, 137, 138, 143. -/
def Obligations.PeatCommands : Prop :=
  (∀ (src : Src) (op : Nat) (c : Instr) (s : State),
     (op, c) ∈ [(1, Instr.peatErase src), (2, .peatProgram src), (3, .peatVerify src), (4, .peatArm src), (5, .peatConfirm src),
       (6, .peatApplystage src), (7, .peatReload src), (8, .peatOvlwrite src), (9, .peatOvlerase src), (10, .peatNodeasg src),
       (11, .peatKeyprog src), (12, .peatKeyrevoke src), (13, .peatSvnadv src)] →
     (s.peat.job = none → (peatGuarded op = true → s.keyHeldBy src = true) →
       Answers c s fun t => t.peat.lastOp = BitVec.ofNat 4 op ∧ t.key = (if peatGuarded op then {} else s.key) ∧
         t.peat.job = some { op := op, slot := s.rb 0x240004 0, kslot := s.rf 0x240004 7 6, fid := s.rf 0x240004 15 8
                             len := s.rf 0x240008 15 0, node := BitVec.ofNat 12 (s.rf 0x24000C 11 0) }) ∧
     (s.peat.job.isSome = true → Answers c s fun t =>
       t.peat = s.peat ∧ t.key = s.key ∧ t.rv 0x010010 = min (s.rv 0x010010 + 1) 0xFFFFFFFF ∧ t.rv 0x010014 = 0x02240000)) ∧
  ((∀ (s : State) (j : PeatJob), s.boot.request = 0 → s.peat.job = some j →
     (j.op = 1 → s.slotReadable j.slot = true → s.slotProtected j.slot = false → Answers (.peatCommandDone none) s fun t =>
       t.peat.job = none ∧ t.peat.result = 0 ∧ t.peat.err = false ∧ t.slotOf j.slot = {} ∧ t.slotOf (!j.slot) = s.slotOf (!j.slot)) ∧
     (j.op = 2 → s.slotReadable j.slot = true → s.slotProtected j.slot = false → (s.slotOf j.slot).st = 0 →
       (s.slotOf j.slot).erased = true → 0 < j.len → j.len ≤ 27648 → Answers (.peatCommandDone none) s fun t =>
       t.peat.job = none ∧ t.peat.result = 0 ∧ (t.slotOf j.slot).len = 64 * j.len ∧ (t.slotOf j.slot).erased = false ∧
       (t.slotOf j.slot).image = memWriteN [] 0 (memReadN s.shared 0 (64 * j.len))) ∧
     (j.op = 4 → s.slotReadable j.slot = true → Answers (.peatCommandDone none) s fun t => t.peat.job = none ∧
       if (s.slotOf j.slot).st = 1 ∨ (s.slotOf j.slot).st = 4
         then t.peat.result = 0 ∧ t.slotOf j.slot = { s.slotOf j.slot with st := 2 }
         else t.peat.result = 6 ∧ t.slotOf j.slot = s.slotOf j.slot) ∧
     (j.op = 5 → s.boot.valid = true → s.boot.slot = 1 → s.slotReadable false = true → s.peat.slotA.st = 3 →
       Answers (.peatCommandDone none) s fun t => t.peat.job = none ∧ t.peat.result = 0 ∧
         t.peat.slotA = { s.peat.slotA with st := 4 } ∧ t.peat.slotB = s.peat.slotB) ∧
     (j.op = 9 → s.dieUp 0 = true → s.dieUp 1 = true → Answers (.peatCommandDone none) s fun t =>
       t.peat.job = none ∧ t.peat.result = 0 ∧ t.peat.ovl1 = {} ∧ t.peat.ovl2 = {}) ∧
     (j.op = 10 → s.dieUp 0 = true → s.dieUp 1 = true → Answers (.peatCommandDone none) s fun t =>
       t.peat = { s.peat with job := none, result := 0, err := false, assigned := j.node }) ∧
     (j.op = 12 → nbit s.keysProgrammed j.kslot = true → nbit s.peat.revoked.toNat j.kslot = false →
       Answers (.peatCommandDone none) s fun t => t.peat = { s.peat with
         job := none, result := 0, err := false, revoked := s.peat.revoked ||| BitVec.ofNat 4 (2 ^ j.kslot) }) ∧
     (j.op = 13 → s.boot.valid = true → Answers (.peatCommandDone none) s fun t => t.peat = { s.peat with
       job := none, result := 0, err := false, svn := if s.peat.svn < s.peat.appSvn then s.peat.appSvn else s.peat.svn }) ∧
     (j.op = 1 ∨ j.op = 2 → s.slotReadable j.slot = true → s.slotProtected j.slot = true →
       Answers (.peatCommandDone none) s fun t => t.peat.job = none ∧ t.peat.result = 9 ∧ t.peat.err = true ∧
         t.rv 0x240034 = min (s.rv 0x240034 + 1) 0xFFFFFFFF ∧ t.slotOf j.slot = s.slotOf j.slot)) ∧
   (∀ (s : State) (j : PeatJob), s.peat.job = some j → j.dies.all s.dieUp = false →
     Answers .peatLineDieLost s fun t => t.peat.job = none ∧ t.peat.result = 7 ∧ t.peat.err = true ∧
       t.rv 0x240034 = min (s.rv 0x240034 + 1) 0xFFFFFFFF ∧
       (j.op = 1 ∨ j.op = 2 → (t.slotOf j.slot).st = 0 ∧ (t.slotOf j.slot).erased = false)))

/-- Supplies and domains (R519, R521, R523, R524, R528, R529, R546): bucks, rails and temperatures as they are measured,
a request for a domain taken or refused by the work in it, and each domain through its states. Rests on the model's own
choices or readings of notes/assumptions/ 134, 144, 145, 146. -/
def Obligations.SuppliesAndDomains : Prop :=
  (∀ s : State, exec .vinStop s = .next { s.begun with
    power := { s.power with vin := false }, dieA := { s.dieA with buckOn := false }, dieB := { s.dieB with buckOn := false } }) ∧
  (∀ (rail : BitVec 3) (s : State), rail.toNat ≤ 4 → Answers (.railOutOfWindow rail) s fun t =>
    t.power = { s.power with rstat := s.power.rstat &&& ~~~BitVec.ofNat 10 (2 ^ rail.toNat) }) ∧
  (∀ s : State, (Answers (.railOutOfWindow 5) s fun t => t.dieA = { s.dieA with regstat := s.dieA.regstat &&& 0xF }) ∧
    (Answers (.railOutOfWindow 6) s fun t => t.dieB = { s.dieB with regstat := s.dieB.regstat &&& 0xF })) ∧
  (∀ s : State, Answers .lbSwitchOff s fun t => t.dieB.linkUp = false ∧ (∀ l, 128 ≤ l → l < 256 → t.line l = {}) ∧
    (∀ nn, 8 ≤ nn → nn < 16 → t.chan nn = {}) ∧ (∀ l, l < 128 → t.line l = s.line l)) ∧
  (∀ (die : Die) (s : State), (s.die (dieIndex die)).buckOn = true → (s.die (dieIndex die)).buckOff = none →
    exec (.buckHiccup die) s = .next (s.begun.setDie (dieIndex die) { s.die (dieIndex die) with
      buckOff := some s.now, regstat := (s.die (dieIndex die)).regstat ||| 8 })) ∧
  (∀ (die : Die) (at0 : Nat) (s : State), (s.die (dieIndex die)).buckOff = some at0 →
    exec (.buckRestart die) s = .next ({ s.begun with now := max s.now (at0 + 6250000) }.setDie (dieIndex die)
      { s.die (dieIndex die) with buckOff := none, regstat := (s.die (dieIndex die)).regstat &&& 0x17 })) ∧
  (∀ (x : BitVec 16) (s : State), Roomy 1 s → Answers (.temperatureMeasurement 0 x) s fun t => t.power = { s.power with
    temp := x, warn := hotter s.power.warn x.toInt (2 * (s.rv 0x220010 : Nat)), crit := hotter s.power.crit x.toInt 250 }) ∧
  (∀ (die : Die) (x : BitVec 16) (s : State), Roomy 1 s →
    Answers (.temperatureMeasurement (BitVec.ofNat 2 (dieIndex die + 1)) x) s fun t =>
      t.die (dieIndex die) = { s.die (dieIndex die) with
        temp := x, warn := hotter (s.die (dieIndex die)).warn x.toInt 280, crit := hotter (s.die (dieIndex die)).crit x.toInt 300 }) ∧
  (∀ (src : Src) (d : Nat) (s : State), s.boot.request = 0 → s.boot.listDue = false → s.keyHeldBy src = true →
    (d ∈ [4, 5, 8, 10, 11, 14] → s.rv 0x220000 = 0x32CF →
      Answers (.domainRequest src (BitVec.ofNat 32 (2 ^ d + 2 ^ (16 + d)))) s fun t => t.rv 0x220000 = 0x32CF + 2 ^ d ∧ t.key = {}) ∧
    (d ∈ [4, 5, 8, 10, 11, 14] → s.rv 0x220000 = 0x32CF + 2 ^ d → (functionsIn d).any s.active = false →
      Answers (.domainRequest src (BitVec.ofNat 32 (2 ^ (16 + d)))) s fun t => t.rv 0x220000 = 0x32CF) ∧
    (∀ id, d ∈ [4, 5, 8, 10, 11, 14] → s.rv 0x220000 = 0x32CF + 2 ^ d → (functionsIn d).find? s.active = some id →
      Answers (.domainRequest src (BitVec.ofNat 32 (2 ^ (16 + d)))) s fun t => t.rv 0x220000 = 0x32CF + 2 ^ d ∧
        t.power.dref = BitVec.ofNat 13 (0x1000 + d * 256 + id) ∧ t.rv 0x220040 = min (s.rv 0x220040 + 1) 0xFFFFFFFF)) ∧
  (∀ (d : BitVec 4) (s : State), s.boot.request = 0 → s.boot.listDue = false → (s.dom d.toNat).st = .ramping →
    (Answers (.domainOn d) s fun t => (t.dom d.toNat).st = .on ∧ (t.dom d.toNat).since = s.now ∧
      (d = 12 → t.dieA.linkUp = true ∧ t.dieA.lost = false) ∧ (d = 13 → t.dieB.linkUp = true ∧ t.dieB.lost = false)) ∧
    (Answers (.domainSwitchOnFailed d) s fun t => (t.dom d.toNat).st = .failed ∧
      t.now = max s.now ((s.dom d.toNat).since + switchOnLimit d.toNat))) ∧
  (∀ (d : BitVec 4) (s : State), s.boot.request = 0 → s.boot.listDue = false → s.seqAt = some d.toNat →
    (s.dom d.toNat).st = .on → Answers (.domainOff d) s fun t => (t.dom d.toNat).st = .off ∧
      (∀ id ∈ functionsIn d.toNat, (t.func id).presv = false ∧ (t.func id).dirty = false)) ∧
  (∀ (die : Die) (s : State), (s.die (dieIndex die)).lost = true → s.rb (ldOff (dieIndex die) 0x2000) 0 = true →
    (s.die (dieIndex die)).gatesFree = false → Answers (.gateRelease die) s fun t =>
      t.now = max s.now ((s.die (dieIndex die)).lostAt + 1250000) ∧
      t.die (dieIndex die) = { s.die (dieIndex die) with gatesFree := true })

/-- The field power channels (R531 to R543), each event in the states in which it acts: how a channel comes on, what
takes it back to WAIT, what trips and latches it, reversed supply, power-good, and retries. Rests on the model's own
choices or readings of notes/assumptions/ 2, 147. -/
def Obligations.PowerChannels : Prop :=
  (∀ (nn : BitVec 4) (s : State) (x : PowerChan), x = s.chan nn.toNat →
    (∀ hot, x.st = .wait → Answers (.channelTinsExpiry nn hot) s fun t => (t.chan nn.toNat).inwin = true ∧
      (t.chan nn.toNat).st = if hot && x.freshWait then .ramp else .precharge) ∧
    (x.st = .precharge → Answers (.prechargeDone nn) s fun t => (t.chan nn.toNat).st = .ramp ∧ (t.chan nn.toNat).since = s.now) ∧
    (x.st = .ramp → Answers (.gateEnhanced nn) s fun t => (t.chan nn.toNat).st = .on ∧ (t.chan nn.toNat).since = s.now) ∧
    (x.charging = true →
      (Answers (.channelUndervoltage nn) s fun t => (t.chan nn.toNat).st = .wait ∧ (t.chan nn.toNat).inwin = false ∧
        (t.chan nn.toNat).pg = (x.pg && x.st != .on)) ∧
      (Answers (.channelOvervoltage nn) s fun t => (t.chan nn.toNat).st = .wait ∧ (t.chan nn.toNat).inwin = false ∧
        (t.chan nn.toNat).pg = (x.pg && x.st != .on)) ∧
      (Answers (.faultTimerExpiry nn) s fun t => (t.chan nn.toNat).st = .tripped ∧
        (s.pcWord nn.toNat 5 / 4096 ≤ x.retry → (t.chan nn.toNat).latched = true)) ∧
      (Answers (.fastTrip nn) s fun t => (t.chan nn.toNat).st = .tripped ∧ (t.chan nn.toNat).hold = false ∧
        (s.pcWord nn.toNat 5 / 4096 ≤ x.retry → (t.chan nn.toNat).latched = true))) ∧
    (x.st = .precharge → Answers (.pretmoExpiry nn) s fun t => (t.chan nn.toNat).st = .tripped ∧
      t.now = max s.now (x.since + s.pcWord nn.toNat 1 % 256 * 625000)) ∧
    (x.st = .ramp → Answers (.gtmoExpiry nn) s fun t => (t.chan nn.toNat).st = .tripped ∧
      t.now = max s.now (x.since + 5 * 2 ^ (s.pcWord nn.toNat 5 % 8) * 625000)) ∧
    (x.st = .ramp ∨ x.st = .on → Answers (.reverseCurrent nn) s fun t =>
      (t.chan nn.toNat).st = .wait ∧ (t.chan nn.toNat).hold = false) ∧
    (x.st ≠ .off → x.st ≠ .safeoff → x.st ≠ .reversed → Answers (.reversedSupply nn) s fun t =>
      (t.chan nn.toNat).st = .reversed ∧ (t.chan nn.toNat).revin = true) ∧
    (x.st = .reversed → Answers (.reversedSupplyCleared nn) s fun t =>
      (t.chan nn.toNat).st = .wait ∧ (t.chan nn.toNat).revin = false) ∧
    (x.st = .on → x.pg = false → Answers (.powerGoodAsserted nn) s fun t => (t.chan nn.toNat).pg = true ∧
      (t.chan nn.toNat).startup = false ∧ t.now = max s.now (x.since + s.pcWord nn.toNat 2 % 16 * 625000)) ∧
    (Answers (.powerGoodRemoved nn) s fun t => (t.chan nn.toNat).pg = false ∧ (t.chan nn.toNat).st = x.st) ∧
    (x.st = .tripped → x.latched = false → Answers (.channelRetry nn) s fun t => (t.chan nn.toNat).st = .wait ∧
      (t.chan nn.toNat).retry = x.retry + 1 ∧ t.now = max s.now (x.since + s.pcWord nn.toNat 5 / 64 % 64 * 625000000)) ∧
    (x.pg = true → Answers (.retryCountReset nn) s fun t => t.chan nn.toNat = { x with retry := 0 } ∧
      t.now = max s.now (x.pgSince + 37500000000)) ∧
    (x.st = .tripped → x.latched = true → Answers (.powerRetry nn) s fun t => (t.chan nn.toNat).st = .wait ∧
      (t.chan nn.toNat).retry = 0 ∧ (t.chan nn.toNat).latched = false))

/-- Link training (R90, R94, R95, R97 to R99): signal, clock recovery, equaliser and block lock in turn, the supervision
blocks that bring a link UP, the block that is sent, the rate cycle and the end of the hold-down. Link loss (R93, R100
to R103, R106): each cause takes a link that is not DISABLED to DOWN with its code and starts the hold-down, a second
cause in the same tick makes no second transition, and an error is counted whether or not it takes the link down. Rests
on the model's own choices or readings of notes/assumptions/ 2, 46, 47, 167. -/
def Obligations.LinkStates : Prop :=
  ((∀ (l : Link) (s : State) (x : LinkPort), x = s.link l →
     (x.st = .down → x.hold = true → exec (.signalDetected l) s =
       .next (s.begun.setLink l { x with sigdet := true, modlos := false, modabs := false })) ∧
     (x.st = .down → x.hold = false → Answers (.signalDetected l) s fun t => (t.link l).st = .training ∧
       (t.link l).rate = (if x.rate = 0 then s.firstRate l else x.rate) ∧ (t.link l).clk = false ∧ (t.link l).eq = false) ∧
     (x.st = .training → exec (.clockRecoveryLocked l) s = .next (s.begun.setLink l { x with clk := true })) ∧
     (x.st = .training → x.clk = true → exec (.equaliserAdapted l) s = .next (s.begun.setLink l { x with eq := true })) ∧
     (x.st = .training → x.eq = true → exec (.blockLock l) s = .next (s.begun.setLink l { x with
       st := .handshake, blklock := true, goodSup := 0, epoch := x.epoch + 1, lastSup := s.now })) ∧
     (x.st ≠ .disabled → (l = .t ∨ s.rb (linkBase l + 0x6C) 0 = false) → exec (.supervisionBlockSend l) s =
       .next { ({ s.begun with now := max s.now (x.lastSend + 625) }.setLink l { x with
         lastSend := max s.now (x.lastSend + 625), seq := x.seq + 1, goingDown := x.goingDown - 1 }) with
         out := [.supervision l (s.supBlock l)] }) ∧
     (s.autoRate l = true → x.st ≠ .up → x.st ≠ .disabled → x.hold = false → Answers (.rateCycleExpiry l) s fun t =>
       (t.link l).rate = (if x.rate = 2 then 1 else 2) ∧ (t.link l).st = (if x.st = .down then .down else .training) ∧
       t.now = max s.now (x.cycleStart + if x.rate = 2 then 187500000 else 62500000)) ∧
     (x.st = .down → x.hold = true → Answers (.holdDownExpiry l) s fun t => (t.link l).hold = false ∧
       t.now = max s.now (x.downSince + 625000) ∧
       (t.link l).st = if x.sigdet && !x.modabs then .training else .down)) ∧
   (∀ (l : Link) (b : DWord) (s : State) (x : LinkPort), x = s.link l → PairSteady s →
     (x.st = .handshake ∨ x.st = .up →
       b.toNat % 256 ≠ 0x4B ∨ crc8 (b.toNat / 256 % 2 ^ 48) ≠ BitVec.ofNat 8 (nbits (b.toNat / 256) 55 48) →
       Answers (.supervisionBlockReceived l b) s fun t => t.link l = { x with goodSup := 0 } ∧
         t.rv (linkBase l + 0x40) = min (s.rv (linkBase l + 0x40) + 1) 0xFFFFFFFF) ∧
     (b.toNat % 256 = 0x4B → crc8 (b.toNat / 256 % 2 ^ 48) = BitVec.ofNat 8 (nbits (b.toNat / 256) 55 48) →
       (x.st = .handshake → 2 ≤ x.goodSup → nbits (b.toNat / 256) 18 16 = 3 ∨ nbits (b.toNat / 256) 18 16 = 4 →
         nbit (nbits (b.toNat / 256) 15 14) (if x.rate = 1 then 1 else 0) = true →
         (l ≠ .t ∨ BitVec.ofNat 1 (nbits (b.toNat / 256) 12 12) ≠ s.slot) →
         Answers (.supervisionBlockReceived l b) s fun t => (t.link l).st = .up ∧ (t.link l).lastSup = s.now ∧
           (t.link l).peerNode = BitVec.ofNat 12 (nbits (b.toNat / 256) 11 0)) ∧
       (x.st = .up → nbits (b.toNat / 256) 18 16 = 5 ∨ nbit (b.toNat / 256) 19 = true →
         Answers (.supervisionBlockReceived l b) s fun t => (t.link l).st = .down ∧ (t.link l).cause = 5) ∧
       (x.st = .up → nbits (b.toNat / 256) 18 16 ≠ 5 → nbit (b.toNat / 256) 19 = false →
         Answers (.supervisionBlockReceived l b) s fun t => (t.link l).st = .up ∧ (t.link l).lastSup = s.now)))) ∧
  (∀ (l : Link) (s : State) (x : LinkPort), x = s.link l → PairSteady s → x.st ≠ .disabled →
     (s.hasCage l = true → x.st ≠ .down → Answers (.moduleLos l) s fun t => (t.link l).st = .down ∧ (t.link l).cause = 1 ∧
       (t.link l).hold = true ∧ (t.link l).downSince = s.now ∧ (t.link l).modlos = true) ∧
     (x.st ≠ .down → Answers (.signalLost l) s fun t => (t.link l).st = .down ∧ (t.link l).cause = 2 ∧
       (t.link l).hold = true ∧ (t.link l).downSince = s.now ∧ (t.link l).sigdet = false) ∧
     (x.st = .up → Answers (.supervisionTimeout l) s fun t => (t.link l).st = .down ∧ (t.link l).cause = 4 ∧
       (t.link l).hold = true ∧ t.now = max s.now (x.lastSup + 2500)) ∧
     (s.hasCage l = true → x.st ≠ .down → Answers (.moduleAbsent l) s fun t => (t.link l).st = .down ∧ (t.link l).cause = 6 ∧
       (t.link l).modabs = true ∧ (t.link l).mmBusy = false) ∧
     (s.downNow l = true → Answers (.signalLost l) s fun t => (t.link l).st = .down ∧
       (t.link l).cause = BitVec.ofNat 4 (min x.cause.toNat 2) ∧ (t.link l).downSince = x.downSince ∧
       t.rv (linkBase l + 0x3C) = s.rv (linkBase l + 0x3C)) ∧
     (s.downNow l = false → Answers (.linkRetrain l) s fun t => (t.link l).st = .down ∧ (t.link l).cause = 7 ∧ (t.link l).hold = true ∧
       (t.link l).downSince = s.now) ∧
     (s.autoRate l = true → s.downNow l = false → Answers (.linkRateup l) s fun t => (t.link l).st = .down ∧ (t.link l).cause = 7 ∧
       (t.link l).rate = 0) ∧
     (∀ gap, x.st ≠ .down → Answers (.blockError l .controlType gap) s fun t => t.link l = { x with blockPos := x.blockPos + gap + 1 } ∧
       t.rv (linkBase l + 0x34) = min (s.rv (linkBase l + 0x34) + 1) 0xFFFFFFFF) ∧
     (∀ gap, x.st ≠ .down → x.st ≠ .up → Answers (.blockError l .syncHeader gap) s fun t => (t.link l).winCount = x.winCount + 1 ∧
       t.rv (linkBase l + 0x30) = min (s.rv (linkBase l + 0x30) + 1) 0xFFFFFFFF) ∧
     (∀ gap, x.st = .up → 15 ≤ (x.badHeaders.filter (fun p => decide (x.blockPos + gap + 1 < p + 64))).length →
       Answers (.blockError l .syncHeader gap) s fun t => (t.link l).st = .down ∧ (t.link l).cause = 3))

/-- Module transfers, slices and link quality (R108 to R110): a transfer starts, ends or fails after 1 ms, a third
failing round marks its slice, and a window's end sets WINERR, DEGRADED and the eye. Rests on the model's own choices or
readings of notes/assumptions/ 2, 48. -/
def Obligations.LinkCare : Prop :=
  ∀ (l : Link) (s : State) (x : LinkPort), x = s.link l →
    (∀ (src : Src) (v : Word), l ≠ .t → x.mmBusy = false → exec (.moduleTransfer src l v) s = .next
      ((s.begun.setReg (linkBase l + 0x60) ((s.rg (linkBase l + 0x60) &&& ~~~(v >>> 16)) ||| (v &&& (v >>> 16)))).setLink l
        { x with mmBusy := true, mmSince := s.now, mmErr := false, mmNack := false })) ∧
    (∀ (nack removed : Bool) (d : Byte), x.mmBusy = true → Answers (.moduleTransferDone l nack removed d) s fun t =>
      t.link l = { x with mmBusy := false, mmNack := nack && !removed, mmErr := removed } ∧
      t.rv (linkBase l + 0x64) = (if !nack && !removed && !s.rb (linkBase l + 0x60) 15 then d.toNat
        else s.rv (linkBase l + 0x64))) ∧
    (x.mmBusy = true → exec (.moduleTransferTimeout l) s = .next
      ({ s.begun with now := max s.now (x.mmSince + 625000) }.setLink l { x with mmBusy := false, mmErr := true })) ∧
    (∀ (i : BitVec 5) (n : Nat), n < 4 → exec (.sliceShadowRound l i n) s = .next
      (s.begun.setLink l { x with rounds := tabSet 0 x.rounds i.toNat 0 })) ∧
    (∀ (i : BitVec 5) (n : Nat), 4 ≤ n → tabGet 0 x.rounds i.toNat = 2 → Answers (.sliceShadowRound l i n) s fun t =>
      nbit (t.link l).marked.toNat i.toNat = true ∧ tabGet 0 (t.link l).rounds i.toNat = 3) ∧
    (∀ eh ev : Byte, Answers (.qualityWindowEnd l eh ev) s fun t => t.link l = { x with
      winCount := 0, winerr := BitVec.ofNat 16 (min x.winCount 0xFFFF)
      degraded := decide (s.ap (linkBase l + 0xC) < min x.winCount 0xFFFF)
      eyeh := if x.st = .up then eh else 0, eyev := if x.st = .up then ev else 0 })

/-- Frames (R118, R119, R123, R127, R134 to R137, R153, R188): a header that fails its check is counted and goes no
further, a frame passes a hub in repeat mode with HOPS lowered, a delivered frame goes to its block and an uncorrectable
one nowhere, the output sends class 0 first, and originations are admitted in their order. Rests on the model's own
choices or readings of notes/assumptions/ 51, 53, 54, 58, 166. -/
def Obligations.FramesMove : Prop :=
  (∀ (l : Link) (f : Frame) (fin : FrameEnd) (s : State), s.linkIsUp l = true →
    f.header.length ≠ 32 ∨ hcrcOk f.header = false →
    exec (.frameReceived l f fin) s = .next (s.begun.bump (linkBase l + 0x38))) ∧
  (∀ (l : Link) (f : Frame) (s : State) (h : Hdr), h = parseHdr f.header → l ≠ .t → s.linkIsUp l = true →
    s.linkIsUp (oppositePort l) = true → s.repeatMode = true → f.header.length = 32 → hcrcOk f.header = true → h.pf = false →
    s.openAt l = none → s.ap (0x050C00 + 4 * linkFn l) = 0 → f.trailer = crc32 f.payload → 1 < h.hops.toNat →
    (h.ver ≠ 0 ∨ illegalFrame h = false) →
    Answers (.frameReceived l f .term) s fun t =>
      (∃ cm, t.bufQ (8 * linkFn (oppositePort l) + h.cls.toNat) =
        s.bufQ (8 * linkFn (oppositePort l) + h.cls.toNat) ++ [(s.fwd.nextId, cm)]) ∧
      ∃ p, t.packet s.fwd.nextId = some p ∧ p.payload = f.payload ∧ p.h = { h with hops := h.hops - 1, frag := 0 }) ∧
  (∀ (c id : Nat) (cm : Bool) (rest : List (Nat × Bool)) (p : Packet) (s : State),
    (List.range 8).find? (fun c => !(s.bufQ (localQ c)).isEmpty) = some c → s.bufQ (localQ c) = (id, cm) :: rest →
    s.packet id = some p →
    (p.dead = false → p.mirror = false → sinkOf p.h p.payload ≠ .other → p.h.typ ≠ 7 → ¬(p.h.typ = 0 ∧ p.payload.headD 0 = 1) →
      Answers (.frameDelivered .clean) s fun t => (∀ e ∈ t.bufQ (localQ c), e.1 ≠ id) ∧
        ∃ d, t.fwd.inbox = s.fwd.inbox ++ [d] ∧ d.sink = sinkOf p.h p.payload ∧ d.h = { p.h with cm := p.h.cm || cm } ∧
          d.payload = p.payload ∧ d.port = p.inPort.getD .t) ∧
    (p.dead = true → ∀ lines, Answers (.frameDelivered lines) s fun t => t.fwd.inbox = s.fwd.inbox ∧
      (∀ e ∈ t.bufQ (localQ c), e.1 ≠ id)) ∧
    (∀ cell, Answers (.frameDelivered (.bad cell)) s fun t => t.fwd.inbox = s.fwd.inbox ∧
      (∀ e ∈ t.bufQ (localQ c), e.1 ≠ id))) ∧
  (∀ (l : Link) (id : Nat) (cm : Bool) (p : Packet) (s : State), s.linkIsUp l = true →
    s.class0Head (8 * linkFn l) = some (id, cm) → s.packet id = some p → p.dead = false → p.inPort.isSome = true → p.h.typ ≠ 1 →
    Answers (.frameSent l none .clean) s fun t => (∀ e ∈ t.bufQ (8 * linkFn l), e.1 ≠ id) ∧
      t.out = [.frame l (wireFrame { p.h with cm := p.h.cm || cm, pf := false, frag := 0 } p.payload p.stomp) .term]) ∧
  (∀ (o : Orig) (rest : List Orig) (s : State), s.fwd.class0 = o :: rest → s.repeatMode = false →
    frameBytes o.h.len.toNat * 500 ≤ s.bucketNow → (s.fwd.annLeft = 0 ∨ o.announce = true) → s.originationFits o = true →
    Answers .tokenBucketAdmit s fun t => t.fwd.class0 = rest ∧ t.fwd.bucketAt = s.now ∧
      t.fwd.bucket = s.bucketNow - frameBytes o.h.len.toNat * 500) ∧
  (∀ (o : Orig) (rest : List Orig) (s : State), firstFitting s s.fwd.held [] [] = some (o, rest) →
    Answers .originationAdmitted s fun t => t.fwd.held = rest ∧
      tabGet 0 t.fwd.seqs (seqKey o.h) = tabGet 0 s.fwd.seqs (seqKey o.h) + if noSeq o.h then 0 else 1) ∧
  (∀ s : State, s.fwd.annLeft ≠ 0 → s.repeatMode = false → Answers .epochAnnouncementSend s fun t =>
    t.fwd.annLeft = s.fwd.annLeft - 1 ∧ t.fwd.annAt = t.now ∧
    t.now = (if s.fwd.annLeft < 3 then max s.now (s.fwd.annAt + 6250) else s.now) ∧
    ∃ o, t.fwd.class0 = o :: s.fwd.class0 ∧ o.announce = true ∧ o.h.typ = 0 ∧ o.h.mc = true ∧ o.h.dest = 0xFFF ∧
      o.payload.head? = some 1) ∧
  (∀ (node : BitVec 12) (slot : BitVec 1) (cls : BitVec 3) (e : Delivered × Nat) (es : List (Delivered × Nat)) (s : State),
    (tabGet ({} : Stream) s.fwd.streams ((node.toNat * 2 + slot.toNat) * 8 + cls.toNat)).held = e :: es →
    Answers (.orderHoldExpiry .target node slot cls) s fun t => t.now = max s.now (e.2 + s.ap 0x070008 * 625) ∧
      t.rv 0x070A8C = min (s.rv 0x070A8C + 1) 0xFFFFFFFF)

/-- A duplicate window delivers a number once (R126): the same number, met again in the same epoch, is never delivered.
-/
def Obligations.WindowDeliversOnce : Prop :=
  ∀ (w w' : DupWin) (e : BitVec 3) (q : BitVec 16), w.step e q = (.deliver, w') →
    (w'.step e q).1 ≠ .deliver ∧ (w'.step e q).2 = w'

/-- The 32 header bytes carry every field of a header, and pass the header check (R113, R116, R118). A record's 32 bytes
spell the record (R440). Rests on the model's own choices or readings of notes/assumptions/ 50. -/
def Obligations.BytesCarryHeadersAndRecords : Prop :=
  (∀ h : Hdr, h.bytes.length = 32 ∧ parseHdr h.bytes = h ∧ hcrcOk h.bytes = true) ∧
  (∀ r : Record, r.bytes.length = 32 ∧ parseRecord r.bytes = r)

/-- Accesses through the aperture (R173, R176, R177, R179, R186, R187, R194): what a window, a stopped function 5, a
twin port that is not UP or a missing node number refuses at the initiator, what is performed locally without the ring,
and how a read of another hub takes a free outstanding entry and goes to origination. Rests on the model's own choices
or readings of notes/assumptions/ 62, 63, 65. -/
def Obligations.ApertureAccesses : Prop :=
  ∀ (src : Src) (a : BitVec 30) (len : BitVec 13) (data : List Byte) (ecc : EccResult) (s : State) (w : Window) (n o : Nat),
    w = s.window (a.toNat / 2 ^ 24) → n = len.toNat → o = a.toNat % 2 ^ 24 → s.boot.request = 0 → n ≠ 0 →
    (w.en = false ∨ nbit w.ports src.port.toNat = false ∨ w.size < o + n ∨ w.mc = true →
      exec (.apertureAccess (.port src) a false len data ecc) s = .next { s.begun with out := [.answer src stWindow []] }) ∧
    (w.en = true → nbit w.ports src.port.toNat = true → o + n ≤ w.size → w.mc = false →
      (s.running 5 = false →
        exec (.apertureAccess (.port src) a false len data ecc) s = .next { s.begun with out := [.answer src stNotRun []] }) ∧
      (s.running 5 = true → s.isOwn w.node = true → w.hop = false → w.tsel = s.slot.toNat + 1 →
        spanRegion (w.base + o) n = .inl 1 →
        exec (.apertureAccess (.port src) a false len data .clean) s = .next { s.begun with
          out := [.answer src stOk (memReadN s.shared (w.base + o - 0x10000000) n)] } ∧
        (data.length = n → exec (.apertureAccess (.port src) a true len data ecc) s = .next { s.begun with
          out := [.answer src stOk []]
          shared := memWriteN s.shared (w.base + o - 0x10000000) data })) ∧
      (s.running 5 = true → s.isOwn w.node = true → w.hop = false → w.tsel ≠ 0 → w.tsel ≠ s.slot.toNat + 1 →
        s.linkIsUp .t = false →
        exec (.apertureAccess (.port src) a false len data ecc) s = .next { s.begun with out := [.answer src stTwinDown []] }) ∧
      (s.running 5 = true → s.isOwn w.node = false → w.hop = false → s.ident.number = 0xFFF →
        exec (.apertureAccess (.port src) a false len data ecc) s = .next { s.begun with out := [.answer src stNoNode []] }) ∧
      (∀ e, s.running 5 = true → s.isOwn w.node = false → w.hop = false → s.ident.number ≠ 0xFFF → s.ringLeads = true →
        w.pref = false → (w.base + o) % 512 + n ≤ 512 → s.xact.waiting = [] → s.entryFree w.dom = true →
        s.af (0x070040 + 4 * w.dom) 2 0 ≠ 0 →
        (List.range 512).find? (fun e => (tabGet none s.xact.entries e).isNone) = some e →
        Answers (.apertureAccess (.port src) a false len data ecc) s fun t =>
          (∃ r, tabGet none t.xact.entries e = some { req := r, since := s.now } ∧ r.hdr.typ = 5 ∧ r.posted = false ∧
            r.hdr.addr = BitVec.ofNat 48 (w.base + o) ∧ r.dom = w.dom ∧ r.len = n) ∧
          ∃ q, t.fwd.held = s.fwd.held ++ [q] ∧ q.h.typ = 5 ∧ q.h.dest = BitVec.ofNat 12 w.node ∧ q.payload = beBytes n 4 ∧
            q.h.tag = BitVec.ofNat 16 (tabGet 0 s.xact.gens e * 512 + e)))

/-- The target side (R170, R180, R182 to R184, R192, R194): a permitted write is performed whole, a posted one without
an answer; one that is not permitted is counted; a hub whose function 5 does not run answers NOTRUN; a read returns
whole words. Rests on the model's own choices or readings of notes/assumptions/ 64, 70, 71. -/
def Obligations.TargetServes : Prop :=
  (∀ (d : Delivered) (s : State), s.boot.request = 0 → s.fwd.inbox.find? (fun d => d.sink == .write) = some d → s.inTurn d transactions = true → d.late = false →
    s.serves d = true → d.h.typ = 3 → writeOk d = true → writeRegion d.h.addr.toNat (writeBytes d) = some (.inl 1) →
    (s.permitted d.h.src.toNat d.h.sslot.toNat 1 = true → exec .postedWriteReceived s = .next { s.begun with
      fwd := { s.fwd with inbox := s.fwd.inbox.erase d }
      shared := (writeRuns (writeBytes d) d.h.addr.toNat).foldl
        (fun m e => memWriteN m (e.1 - 0x10000000) e.2) s.shared }) ∧
    (s.permitted d.h.src.toNat d.h.sslot.toNat 1 = false → Answers .postedWriteReceived s fun t =>
      t.fwd.inbox = s.fwd.inbox.erase d ∧ t.shared = s.shared ∧ t.rv 0x070A84 = min (s.rv 0x070A84 + 1) 0xFFFFFFFF)) ∧
  (∀ (d : Delivered) (s : State), s.boot.request = 0 → s.fwd.inbox.find? (fun d => d.sink == .nonPosted) = some d → s.inTurn d transactions = true →
    d.late = false → d.h.typ = 4 → d.h.mc = false → d.h.src ≠ 0xFFF → d.h.cls ≠ 0 →
    (s.serves d = false → Answers .nonPostedWriteReceived s fun t => t.shared = s.shared ∧
      ∃ q, t.fwd = { s.fwd with inbox := s.fwd.inbox.erase d, held := s.fwd.held ++ [q] } ∧ q.h.typ = 6 ∧ q.h.rerr = true ∧
        q.h.tag = d.h.tag ∧ q.payload = beBytes stNotRun 4) ∧
    (s.serves d = true → writeOk d = true → writeRegion d.h.addr.toNat (writeBytes d) = some (.inl 1) →
      s.permitted d.h.src.toNat d.h.sslot.toNat 1 = true → Answers .nonPostedWriteReceived s fun t =>
        t.shared = (writeRuns (writeBytes d) d.h.addr.toNat).foldl
          (fun m e => memWriteN m (e.1 - 0x10000000) e.2) s.shared ∧
        ∃ q, t.fwd = { s.fwd with inbox := s.fwd.inbox.erase d, held := s.fwd.held ++ [q] } ∧ q.h.typ = 6 ∧ q.h.rerr = false ∧
          q.h.tag = d.h.tag ∧ q.payload = beBytes stOk 4)) ∧
  (∀ (d : Delivered) (s : State) (n first words : Nat), s.fwd.inbox.find? (fun d => d.sink == .read) = some d → s.inTurn d transactions = true →
    n = beNat (d.payload.take 4) → first = d.h.addr.toNat / 4 * 4 → words = (d.h.addr.toNat + n - first + 3) / 4 →
    d.late = false → s.serves d = true → d.h.typ = 5 → d.h.mc = false → d.h.src ≠ 0xFFF → d.h.cls ≠ 0 → d.payload.length = 4 →
    1 ≤ n → n ≤ 512 → spanRegion first (4 * words) = .inl 1 →
    Answers (.readRequestReceived .clean) s fun t => t.shared = s.shared ∧
      ∃ q, t.fwd = { s.fwd with inbox := s.fwd.inbox.erase d, held := s.fwd.held ++ [q] } ∧ q.h.typ = 6 ∧ q.h.tag = d.h.tag ∧
        q.h.rse = touchesSidePage first words ∧
        q.payload = beBytes stOk 4 ++ (if touchesSidePage first words then beBytes (popMask first words) 16 else []) ++
          memReadN s.shared (first - 0x10000000) (4 * words))

/-- Outstanding entries and what ends them (R179, R185, R187, R191): a waiting request takes a free entry, a response
that matches completes its access, one that matches nothing is an orphan, XACT.TMO ends an entry and its generation
rises, an error message is logged or counted, the oldest prefetch line ages out, and save slots are freed. Rests on the
model's own choices or readings of notes/assumptions/ 2, 67, 68, 69. -/
def Obligations.EntriesEnd : Prop :=
  (∀ (r : Request) (e : Nat) (s : State), s.running 5 = true → nextWaiting s s.xact.waiting [] = some r → r.posted = false →
    (List.range 512).find? (fun e => (tabGet none s.xact.entries e).isNone) = some e →
    Answers .outstandingEntryWaitEnd s fun t => t.xact = { s.xact with
      waiting := s.xact.waiting.erase r, entries := tabSet none s.xact.entries e (some { req := r, since := s.now }) }) ∧
  (∀ (d : Delivered) (e : Nat) (s : State), s.fwd.inbox.find? (fun d => d.sink == .response) = some d → s.inTurn d [.errorMsg] = true →
    e = d.h.tag.toNat % 512 →
    (∀ (o : Outst) (acc : Access) (src : Src), tabGet none s.xact.entries e = some o →
      tabGet 0 s.xact.gens e = d.h.tag.toNat / 512 → o.req.fetch = none → o.req.hdr.typ = 5 → d.h.rse = false →
      tabGet none s.xact.accesses o.req.access = some acc → acc.who = .plain src → acc.lens = [o.req.len] → o.req.part = 0 →
      Answers .responseReceived s fun t => tabGet none t.xact.entries e = none ∧
        tabGet 0 t.xact.gens e = (tabGet 0 s.xact.gens e + 1) % 128 ∧ t.fwd.inbox = s.fwd.inbox.erase d ∧
        tabGet none t.xact.accesses o.req.access = none ∧
        t.out = [.answer src (beNat (slice d.payload 0 4) % 256) (if beNat (slice d.payload 0 4) % 256 = 0
          then slice d.payload (4 + o.req.hdr.addr.toNat % 4) o.req.len else [])]) ∧
    (tabGet none s.xact.entries e = none → Answers .responseReceived s fun t =>
      t.rv 0x070A88 = min (s.rv 0x070A88 + 1) 0xFFFFFFFF ∧ t.xact = s.xact ∧ t.fwd.inbox = s.fwd.inbox.erase d)) ∧
  (∀ (e : BitVec 9) (o : Outst) (s : State), tabGet none s.xact.entries e.toNat = some o →
    Answers (.transactionTimeout e) s fun t => EntersSafe s t ∨
      t.now = max s.now (o.since + s.af 0x070004 15 0 * 62500) ∧ tabGet none t.xact.entries e.toNat = none ∧
        tabGet 0 t.xact.gens e.toNat = (tabGet 0 s.xact.gens e.toNat + 1) % 128) ∧
  (∀ (d : Delivered) (s : State), s.fwd.inbox.find? (fun d => d.sink == .errorMsg) = some d →
    Answers .postedErrorMessageReceived s fun t => t.fwd.inbox = s.fwd.inbox.erase d ∧
      if (s.rf 0x070A00 4 0 + 32 - s.rf 0x070A04 4 0) % 32 = 16
        then t.rv 0x070A80 = min (s.rv 0x070A80 + 1) 0xFFFFFFFF ∧ t.rv 0x070A00 = s.rv 0x070A00
        else t.rv 0x070A00 = (s.rf 0x070A00 4 0 + 1) % 32 ∧ t.rv 0x070A80 = s.rv 0x070A80) ∧
  (∀ s : State, s.xact.lines ≠ [] → Answers .prefetchLineAged s fun t =>
    ∃ o ∈ s.xact.lines, (∀ x ∈ s.xact.lines, o.since ≤ x.since) ∧ t.xact.lines = s.xact.lines.erase o ∧
      t.now = max s.now (o.since + s.af 0x07000C 15 0 * 625)) ∧
  (∀ (v : BitVec 16) (s : State), exec (.sefreeWrite v) s = .next { s.begun with
    xact := { s.xact with seUsed := s.xact.seUsed &&& ~~~ (v.truncate 4) } })

/-- Time frames (R203, R206, R208, R211): a sending source sends one every interval with the last departures, a frame
heard makes its source known and a better one stops this hub from sending, silence of the better sources starts it, and
silence of all takes a synchronised hub into HOLDOVER at the base rate. The measurement of link delay (R215): a probe
opens an exchange on each ring port that is UP, a probe that came one hop is answered, the answer's arrival is recorded,
a follow-up within 1 ms gives a delay, and one that is missing fails it. Rests on the model's own choices or readings of
notes/assumptions/ 73, 75, 76, 77. -/
def Obligations.TimeFramesAndProbes : Prop :=
  ((∀ s : State, s.running 6 = true → s.time.sending = true → s.timeForm = false → s.ringLeads = true →
     s.fwd.class0.length < 16 → Answers .timeFrameSend s fun t => t.now = max s.now s.time.sendAt ∧
       t.time = { s.time with sendSeq := s.time.sendSeq + 1, sendAt := t.now + 78125 * 2 ^ s.ap 0x080008, depW := 0, depE := 0 } ∧
       ∃ q, t.fwd = { s.fwd with class0 := s.fwd.class0 ++ [q] } ∧ q.h.typ = 1 ∧ q.h.mc = true ∧ q.h.dest = 0xFFF ∧
         q.h.cls = 0 ∧ q.payload.length = 32 ∧ q.payload.take 2 = beBytes s.time.sendSeq.toNat 2 ∧
         slice q.payload 8 10 = beBytes s.time.depE.toNat 10 ∧ slice q.payload 18 10 = beBytes s.time.depW.toNat 10) ∧
   (∀ (d : Delivered) (s : State) (h : Heard), s.fwd.inbox.find? (fun d => d.sink == .time) = some d →
     h = { prio := byteAt d.payload 2, node := d.h.src, slot := d.h.sslot, gen := BitVec.ofNat 16 (beNat (slice d.payload 4 2))
           last := s.now, ival := 78125 * 2 ^ ((byteAt d.payload 3).toNat % 8) } →
     (s.running 6 = false ∨ s.timeRole = 3 ∨ s.timeForm = true ∨ d.payload.length ≠ 32 →
       exec .timeFrameReceived s = .next { s.begun with fwd := { s.fwd with inbox := s.fwd.inbox.erase d } }) ∧
     (s.running 6 = true → s.timeRole ≠ 3 → s.timeForm = false → d.payload.length = 32 →
       Answers .timeFrameReceived s fun t => t.fwd.inbox = s.fwd.inbox.erase d ∧ h ∈ t.time.heard ∧
         (h.rank < s.ownRank → t.time.sending = false)) ∧
     (s.running 6 = true → s.timeRole ≠ 3 → s.timeForm = false → d.payload.length = 32 → s.time.heard = [] →
       s.time.sending = false → s.time.current = none → Answers .timeFrameReceived s fun t => t.time.current = some h ∧
         t.time.lastSeq = some (BitVec.ofNat 16 (beNat (slice d.payload 0 2))) ∧ t.time.lastFrame = s.now)) ∧
   (∀ s : State, s.running 6 = true → s.timeForm = false → s.time.sending = false → s.timeRole = 1 ∨ s.timeRole = 2 →
     Answers .betterSourceTimeout s fun t => t.time.sending = true ∧ t.time.sendAt = t.now ∧ s.now ≤ t.now ∧
       (∀ h ∈ s.time.heard, h.rank < s.ownRank → h.last + 3 * h.ival ≤ t.now) ∧
       t.time.sync = if s.timeRole = 2 then .acquire else .free) ∧
   (∀ s : State, s.running 6 = true → s.timeRole ≠ 3 → s.timeForm = false → s.time.sending = false →
     s.time.appliedOnce = true → s.time.sync ≠ .holdover → s.time.sync ≠ .free → s.pair.role ≠ .resting →
     Answers .holdoverEntry s fun t => t.time.sync = .holdover ∧ t.time.rate = s.time.base ∧ t.time.base = s.time.base ∧
       t.now = max s.now (s.time.lastFrame + 3 * match s.time.current with
         | some c => c.ival
         | none => 78125 * 2 ^ s.ap 0x080008))) ∧
  ((∀ s : State, s.ap 0x080014 ≠ 0 → s.linkIsUp .w = true ∨ s.linkIsUp .e = true → s.fwd.class0.length < 16 →
     Answers .probeSend s fun t => t.time.probeSeq = s.time.probeSeq + 1 ∧
       (∀ l : Link, l ≠ .t → (t.probe l).since = (if s.linkIsUp l then some s.now else (s.probe l).since)) ∧
       ∃ q, t.fwd = { s.fwd with class0 := s.fwd.class0 ++ [q] } ∧ q.h.typ = 0 ∧
         q.payload.take 2 = [2, s.time.probeSeq + 1]) ∧
   (∀ (d : Delivered) (s : State),
     s.fwd.inbox.find? (fun d => d.sink == .probe && (d.payload.headD 0).toNat == 2) = some d →
     (s.hopsTravelled d = 1 → Answers .probeReceived s fun t =>
       t.time.answers = s.time.answers ++ [(byteAt d.payload 1, d.port, d.arrival)] ∧ t.fwd.inbox = s.fwd.inbox.erase d) ∧
     (s.hopsTravelled d ≠ 1 → exec .probeReceived s = .next { s.begun with
       fwd := { s.fwd with inbox := s.fwd.inbox.erase d } })) ∧
   (∀ (d : Delivered) (s : State),
     s.fwd.inbox.find? (fun d => d.sink == .probe && (d.payload.headD 0).toNat == 3) = some d → s.probeMatches d = true →
     Answers .probeAnswerReceived s fun t => t.fwd.inbox = s.fwd.inbox.erase d ∧
       (d.port ≠ .t → t.probe d.port = { s.probe d.port with t4 := some d.arrival })) ∧
   (∀ (d : Delivered) (since : Nat) (t1 t4 : BitVec 80) (s : State),
     s.fwd.inbox.find? (fun d => d.sink == .probe && (d.payload.headD 0).toNat == 4) = some d → s.probeMatches d = true →
     (s.probe d.port).since = some since → (s.probe d.port).t1 = some t1 → (s.probe d.port).t4 = some t4 → d.port ≠ .t →
     s.now ≤ since + 625000 → Answers .probeFollowUpReceived s fun t => t.fwd.inbox = s.fwd.inbox.erase d ∧
       t.probe d.port = { s.probe d.port with
         since := none
         accepted := (truncDiv (tdiff t4 t1 - toSigned 64 (beNat (slice d.payload 4 8))) 2 :: (s.probe d.port).accepted).take 16 }) ∧
   (∀ (l : Link) (since : Nat) (s : State), (s.probe l).since = some since → Answers (.probeExchangeTimeout l) s fun t =>
     t.now = max s.now (since + 625000) ∧ t.probe l = { s.probe l with since := none } ∧
     t.rv 0x0800CC = min (s.rv 0x0800CC + 1) 0xFFFFFFFF))

/-- Fabric time and its steps (R198, R205, R211 to R213, R217, R233): LOADNOW sets it, ACCEPTSTEP adds what was refused
and moves every anchor with it, SLEW runs beside the base rate, the end of an interval returns to the base rate without
a jump, and a command given in the wrong state is counted. The edges of PPS_IN and the servo (R204, R205, R211, R212):
an edge of the other direction does nothing, the first error of an acquisition with a step is taken whole, an error
beyond STEPTHR is refused, and 1.1 s without an edge clears PPSSEEN. Rests on the model's own choices or readings of
notes/assumptions/ 74, 75, 78. -/
def Obligations.FabricTimeKeeps : Prop :=
  ((∀ (src : Src) (s : State),
     (s.timeRole ≠ 0 → exec (.timeArmpps src) s = .next { s.begun with time := { s.time with ppsArmed := true } }) ∧
     (s.timeRole ≠ 0 → Answers (.timeLoadnow src) s fun t => t.ft = s.snLoad ∧ t.time.gen = s.time.gen + 1 ∧
       t.axes = shiftAnchors (s.snLoad - s.ft) s.axes) ∧
     (s.timeRole = 0 → (Answers (.timeLoadnow src) s fun t => t.time = s.time ∧ t.axes = s.axes ∧
       t.rv 0x010010 = min (s.rv 0x010010 + 1) 0xFFFFFFFF) ∧
       Answers (.timeArmpps src) s fun t => t.time = s.time ∧ t.rv 0x010010 = min (s.rv 0x010010 + 1) 0xFFFFFFFF)) ∧
   (∀ s : State, s.syncShown = .refusing →
     (Answers .timeAcceptstep s fun t => t.ft = s.ft + BitVec.ofInt 80 s.time.pend ∧
       t.axes = shiftAnchors (BitVec.ofInt 80 s.time.pend) s.axes ∧ t.time.sync = .acquire ∧ t.time.stepFirst = true) ∧
     (Answers .timeSlew s fun t => t.time.sync = .slewing ∧ t.time.base = s.time.base ∧ t.ft = s.ft ∧
       t.time.rate = BitVec.ofNat 48 (if 0 ≤ s.time.pend
         then s.time.base.toNat + s.time.base.toNat * s.ap 0x080018 / 1000000
         else s.time.base.toNat - s.time.base.toNat * s.ap 0x080018 / 1000000))) ∧
   (∀ s : State, s.syncShown ≠ .refusing → exec .timeAcceptstep s = .next (s.begun.bump 0x0800D0) ∧
     exec .timeSlew s = .next (s.begun.bump 0x0800D0)) ∧
   (∀ s : State, s.syncShown ≠ .slewing → s.time.rate ≠ s.time.base → Answers .servoIntervalEnd s fun t =>
     t.now = max s.now s.time.servoEnd ∧ t.time.rate = s.time.base ∧ t.time.base = s.time.base ∧
     t.ft = { s with now := max s.now s.time.servoEnd }.ft) ∧
   (∀ s : State, s.rb 0x080000 1 = true → s.time.ppsOut = false → Answers .ppsOutRise s fun t =>
     t.out = [.ppsOut true] ∧ t.time = { s.time with ppsOut := true, ppsRise := t.now } ∧ s.now ≤ t.now) ∧
   (∀ s : State, s.time.ppsOut = true → exec .ppsOutFall s = .next { s.begun with
     out := [.ppsOut false], now := max s.now (s.time.ppsRise + 62500000), time := { s.time with ppsOut := false } })) ∧
  ((∀ (falling : Bool) (s : State), falling ≠ s.rb 0x080000 4 ∨ s.running 6 = false →
     exec (.ppsEdge falling) s = .next s.begun) ∧
   (∀ (falling : Bool) (s : State), falling = s.rb 0x080000 4 → s.running 6 = true → s.time.ppsArmed = true → s.timeRole = 1 →
     Answers (.ppsEdge falling) s fun t => t.ft = s.snLoad ∧ t.time.gen = s.time.gen + 1 ∧ t.time.ppsArmed = false) ∧
   (∀ (falling : Bool) (s : State) (e : Int), falling = s.rb 0x080000 4 → s.running 6 = true → s.time.ppsArmed = false →
     s.timeRole = 2 → e = toWholeSecond s.ft →
     (s.timeForm = true → Answers (.ppsEdge falling) s fun t => t.ft = s.ft + BitVec.ofInt 80 e ∧ t.time.ppsSeen = true ∧
       t.time.ppsLast = s.now ∧ t.axes = s.axes) ∧
     (s.timeForm = false → s.time.sending = true → s.time.sync = .acquire → s.time.stepFirst = true →
       Answers (.ppsEdge falling) s fun t => t.ft = s.ft + BitVec.ofInt 80 e ∧ t.axes = shiftAnchors (BitVec.ofInt 80 e) s.axes ∧
         t.time.ppsSeen = true ∧ t.time.stepFirst = false ∧ t.time.err = e) ∧
     (s.timeForm = false → s.time.sending = true → s.time.stepFirst = false → s.time.sync = .acquire ∨ s.time.sync = .locked →
       s.stepThr < (e.natAbs : Int) → Answers (.ppsEdge falling) s fun t => t.time.sync = .refusing ∧ t.time.pend = e ∧
         t.time.rate = s.time.base ∧ t.ft = s.ft ∧ t.rv 0x0800C0 = min (s.rv 0x0800C0 + 1) 0xFFFFFFFF) ∧
     (s.timeForm = false → s.time.sending = false → exec (.ppsEdge falling) s = .next { s.begun with
       time := { s.time with ppsSeen := true, ppsLast := s.now, ppsTime := BitVec.ofNat 64 s.ns } })) ∧
   (∀ s : State, s.running 6 = true → s.timeRole = 2 → s.time.ppsSeen = true → Answers .ppsTimeout s fun t =>
     t.time.ppsSeen = false ∧ t.now = max s.now (s.time.ppsLast + 687500000) ∧
     (s.time.sending = true → t.time.rate = s.time.base)))

/-- Axes (R222 to R231, R249): a sample outside its age window is counted and changes no estimate, a first sample
initialises, a sample within the jump limit updates a TRACKING estimate, one beyond it is rejected and counted, HOLD
applies nothing, the source latches and publishes its count, and silence makes an axis COASTING and then STALE. Rests on
the model's own choices or readings of notes/assumptions/ 2, 79, 80. -/
def Obligations.AxesTrack : Prop :=
  (∀ (d : Delivered) (s : State) (a b : Nat) (x : Axis) (p : Sample), s.fwd.inbox.find? (fun d => d.sink == .axis) = some d →
    a = d.h.tag.toNat % 64 → b = 0x090000 + 0x40 * a → x = s.axis a → p = sampleOf d.payload d.h.sslot →
    s.running (64 + a) = true → d.h.src.toNat = s.rf b 11 0 ∨ s.rf b 11 0 = 0xFFF ∧ d.h.src = s.ident.number → 20 ≤ d.payload.length → (byteAt d.payload 3).toNat = a →
    (tdiff s.ft p.t < -262144000 ∨ (65536000 * s.ap (b + 0x14) : Nat) < tdiff s.ft p.t →
      Answers .axisSampleReceived s fun t => t.axes = s.axes ∧
        t.rv (b + 0x2038) = min (s.rv (b + 0x2038) + 1) 0xFFFFFFFF ∧ t.fwd.inbox = s.fwd.inbox.erase d) ∧
    (-262144000 ≤ tdiff s.ft p.t → tdiff s.ft p.t ≤ (65536000 * s.ap (b + 0x14) : Nat) → p.encerr = false →
      (x.st = .none → p.hold = false → Answers .axisSampleReceived s fun t =>
        t.axis a = { x with
          st := .acquiring, p0 := countPos p.z, v := 0, acc := 0, t0 := p.t, acq := 1, rejRun := 0, slot := p.slot
          armed := true, encerr := false } ∧ t.rv (b + 0x202C) = min (s.rv (b + 0x202C) + 1) 0xFFFFFFFF) ∧
      (x.st = .tracking ∨ x.st = .coasting → 0 < tdiff p.t x.t0 → p.hold = false → p.zset = false → p.slot = x.slot →
        (pdiff (countPos p.z) (x.eval p.t)).natAbs ≤ s.ap (b + 0x24) * 65536 → Answers .axisSampleReceived s fun t =>
        t.axis a = { ({ x with encerr := false } : Axis).update p (s.ap (b + 0x18)) (s.ap (b + 0x1C)) (s.ap (b + 0x20)) with
          st := .tracking } ∧ t.rv (b + 0x202C) = min (s.rv (b + 0x202C) + 1) 0xFFFFFFFF) ∧
      (x.st = .tracking ∨ x.st = .coasting → 0 < tdiff p.t x.t0 → p.hold = false → p.zset = false → p.slot = x.slot →
        s.ap (b + 0x24) * 65536 < (pdiff (countPos p.z) (x.eval p.t)).natAbs → x.rejRun < 2 →
        Answers .axisSampleReceived s fun t =>
          t.axis a = { x with encerr := false, rejRun := x.rejRun + 1, res := pdiff (countPos p.z) (x.eval p.t) } ∧
          t.rv (b + 0x2034) = min (s.rv (b + 0x2034) + 1) 0xFFFFFFFF) ∧
      (x.st = .tracking → 0 < tdiff p.t x.t0 → p.hold = true → Answers .axisSampleReceived s fun t =>
        t.axis a = { x with encerr := false }))) ∧
  (∀ (a : BitVec 6) (gate : Bool) (s : State) (u : Nat), s.publishing a.toNat = true →
    u = s.rf (0x090000 + 0x40 * a.toNat) 15 12 → Answers (.axisSampleLatch a gate) s fun t => s.now ≤ t.now ∧
      (t.axis a.toNat).sseq = (s.axis a.toNat).sseq + 1 ∧
      t.encoder u = { s.encoder u with gate := gate, errPend := false, zset := false } ∧
      t.rv (0x093000 + 4 * a.toNat) = min (s.rv (0x093000 + 4 * a.toNat) + 1) 0xFFFFFFFF) ∧
  (∀ (a : BitVec 6) (s : State), (s.axis a.toNat).st = .tracking → Answers (.axisCoasting a) s fun t => s.now ≤ t.now ∧
    t.axis a.toNat = { s.axis a.toNat with st := .coasting } ∧
    t.rv (0x092030 + 0x40 * a.toNat) = min (s.rv (0x092030 + 0x40 * a.toNat) + 1) 0xFFFFFFFF) ∧
  (∀ (a : BitVec 6) (s : State), (s.axis a.toNat).st = .acquiring ∨ (s.axis a.toNat).st = .tracking ∨
    (s.axis a.toNat).st = .coasting → Answers (.axisStale a) s fun t => s.now ≤ t.now ∧
      t.axis a.toNat = { s.axis a.toNat with st := .stale })

/-- Action entries from append to edge (R244 to R247, R253 to R255): whole entries join the append queue, a malformed
one is refused at its merge, a CANCEL frees what it names, an entry that cannot be converted stays, a line command is
committed and its slot freed, its placement drives the line or is discarded, and a pulse's off edge is committed. Rests
on the model's own choices or readings of notes/assumptions/ 11, 83, 84, 87, 162. -/
def Obligations.ActionsRun : Prop :=
  (∀ (src : Src) (off : BitVec 8) (data : List Byte) (s : State),
    (data ≠ [] → data.length % 32 = 0 → off.toNat % 32 = 0 → off.toNat + data.length ≤ 256 →
      s.act.appq.length + data.length / 32 ≤ 256 → ∃ q : List (List Byte), q.flatten = data ∧ q.length = data.length / 32 ∧
        exec (.appendWrite src off data) s = .next { s.begun with act := { s.act with appq := s.act.appq ++ q } }) ∧
    (data = [] ∨ data.length % 32 ≠ 0 ∨ off.toNat % 32 ≠ 0 ∨ 256 < off.toNat + data.length →
      exec (.appendWrite src off data) s = .next { s.begun with out := [.answer src stFormat []] })) ∧
  (∀ (one : List Byte) (rest : List (List Byte)) (s : State), s.running 7 = true → s.act.appq = one :: rest →
    ((parseEntry one).malformed true = true → Answers .appendMerge s fun t => t.act = { s.act with appq := rest } ∧
      t.rv 0x0A0098 = min (s.rv 0x0A0098 + 1) 0xFFFFFFFF) ∧
    ((parseEntry one).malformed true = false → (parseEntry one).kind = 15 → nbit (parseEntry one).arg0 0 = false →
      (∀ i ∈ validSlots s.act.bank, (bankEntry s.act.bank i).axis ≠ (parseEntry one).axis ∨
        (bankEntry s.act.bank i).tag ≠ (parseEntry one).tag) →
      Answers .appendMerge s fun t => t.act = { s.act with appq := rest }) ∧
    ((parseEntry one).malformed true = false → (parseEntry one).kind ≠ 15 → s.freeActSlot = none →
      Answers .appendMerge s fun t => t.act = { s.act with appq := rest } ∧
        t.rv 0x0A0094 = min (s.rv 0x0A0094 + 1) 0xFFFFFFFF) ∧
    (∀ i m, (parseEntry one).malformed true = false → (parseEntry one).kind ≠ 15 → s.freeActSlot = some i →
      m = memWriteN s.act.bank (32 * i) one → (∀ j ∈ validSlots m, (bankEntry m j).stalepol ≠ 2) →
      s.mayCommit (bankEntry m i) = false ∨ s.latenessAt (bankEntry m i) s.ft < 0 →
      exec .appendMerge s = .next { s.begun with act := ({ s.act with appq := rest } : Act).setBank m })) ∧
  (∀ (slot : BitVec 12) (s : State) (e : ActEntry), e = bankEntry s.act.bank slot.toNat →
    (s.mayCommit e = false ∨ s.dueIn e.axis e.pos = none → exec (.actionCommit slot) s = .next s.begun) ∧
    (∀ d lead, s.mayCommit e = true → s.dueIn e.axis e.pos = some d → e.kind = 1 ∨ e.kind = 2 →
      lead = s.leadTicks e.target (e.kind == 1) → lead + 7500 ≤ d → d ≠ 0 → s.lineTargetOk e.target = true →
      Answers (.actionCommit slot) s fun t => t.now = s.now + d - lead - 7500 ∧
        t.act.bank = clearValid s.act.bank slot.toNat ∧ t.act.shadow = s.act.shadow ∧
        t.act.cmds = s.act.cmds ++ [{ line := e.target, on := e.kind == 1, place := s.now + d - lead, edge := s.now + d
                                      entry := some { e.info slot.toNat with stale := (s.axis e.axis).st.isStale } }])) ∧
  (∀ (l : BitVec 8) (c : LineCmd) (s : State), s.nextCmd l.toNat = some c →
    (s.frondRuns l.toNat = true → (s.line l.toNat).isOutput l.toNat = true → (s.line l.toNat).osrc = 1 →
      Answers (.lineCommandPlacement l) s fun t => t.now = max s.now c.place ∧ t.act.cmds = s.act.cmds.erase c ∧
        (t.line l.toNat).sched = c.on ∧ (s.pair.frozen = false → s.flt.safe = false → (s.line l.toNat).safed = false →
          (s.die (l.toNat / 128)).lost = false → (t.line l.toNat).cmd = c.on) ∧
        (c.entry.isSome = true → t.rv 0x0A0080 = min (s.rv 0x0A0080 + 1) 0xFFFFFFFF)) ∧
    (s.frondRuns l.toNat = false ∨ (s.line l.toNat).isOutput l.toNat = false ∨ (s.line l.toNat).osrc ≠ 1 →
      Answers (.lineCommandPlacement l) s fun t => t.now = max s.now c.place ∧ t.act.cmds = s.act.cmds.erase c ∧
        t.line l.toNat = { s.line l.toNat with sched := (s.line l.toNat).sched && c.on })) ∧
  (∀ (l : BitVec 8) (p : Pulse) (e lead E : Nat) (s : State), s.pulseOn l.toNat = some p → p.off = none →
    s.offInstant p = some e → lead = s.leadTicks p.line false →
    E = max (max e (max s.now (e - lead - 7500) + 2500 + lead)) (p.onEdge + 625) →
    Answers (.pulseOffEdgeCommit l) s fun t => t.now = max s.now (e - lead - 7500) ∧
      t.act.cmds = s.act.cmds ++ [{ line := p.line, on := false, place := E - lead, edge := E, entry := none }] ∧
      t.pulseOn p.line = some { p with off := some E })

/-- The shadow bank, its commands and the capture queues (R256 to R260, R264, R269, R272): what each command does in
each state of the bank, that a swap exchanges the banks at the next multiple of 625 ticks, and what POP and AIDX return.
Rests on the model's own choices or readings of notes/assumptions/ 11, 85, 86. -/
def Obligations.BanksSwap : Prop :=
  (∀ (off : BitVec 17) (data : List Byte) (s : State),
    (s.act.sh = .clearing → exec (.shadowBankWrite off data) s = .next s.begun) ∧
    (s.act.sh = .opened → exec (.shadowBankWrite off data) s = .next { s.begun with
      act := s.act.setShadow (memWriteN s.act.shadow off.toNat data) }) ∧
    (s.act.sh = .sorting ∨ s.act.sh = .ready → Answers (.shadowBankWrite off data) s fun t => t.act.sh = .opened ∧
      t.act.req = .none ∧ t.act.shadow = memWriteN s.act.shadow off.toNat data ∧ t.act.bank = s.act.bank)) ∧
  (∀ s : State,
    (s.act.sh = .opened → exec .actSeal s = .next { s.begun with act := { s.act with sh := .sorting } }) ∧
    (s.act.sh ≠ .opened → exec .actSeal s = .next (s.begun.bump 0x0A00AC)) ∧
    (s.act.sh = .clearing → exec .actClearsh s = .next (s.begun.bump 0x0A00AC)) ∧
    (s.act.sh ≠ .clearing → Answers .actClearsh s fun t => t.act.sh = .clearing ∧ t.act.req = .none ∧
      t.act.shadow = (validSlots s.act.shadow).foldl clearValid s.act.shadow ∧ t.act.bank = s.act.bank) ∧
    (s.act.sh = .clearing → exec .actClearDone s = .next { s.begun with act := { s.act with sh := .opened } }) ∧
    (exec .actSwap s = .next { s.begun with act := { s.act with
      req := .swap, waitSort := false, sh := if s.act.sh = .opened then .sorting else s.act.sh } }) ∧
    ((s.func 7).st = .starting ∨ (s.func 7).st = .running → exec .actArmswap s = .next { s.begun with act := { s.act with
      req := .armswap, waitSort := false, sh := if s.act.sh = .opened then .sorting else s.act.sh
      swapAx := BitVec.ofNat 6 (s.rv 0x0A0008), swapPos := BitVec.ofNat 32 (s.rv 0x0A000C + s.rv 0x0A0010 * 65536) } }) ∧
    ((s.func 7).st ≠ .starting → (s.func 7).st ≠ .running → exec .actArmswap s = .next (s.begun.bump 0x0A00AC)) ∧
    (s.act.req = .none → exec .actDisarm s = .next (s.begun.bump 0x0A00AC)) ∧
    (s.act.req ≠ .none → Answers .actDisarm s fun t => t.act = { s.act with req := .none, waitSort := false }) ∧
    (s.act.sh = .sorting → Answers .actSortDone s fun t => t.act = { s.act with
      sh := .ready, waitSort := s.act.waitSort || (s.act.req == .swap && (s.func 7).st != .starting) }) ∧
    (∀ n, n = s.now + (if s.tickCount % 625 = 0 then 0 else 625 - s.tickCount % 625) → (s.func 7).st ≠ .starting →
      (s.act.req = .none → exec .actSwapBoundary s = .next { s.begun with now := n }) ∧
      (s.act.req = .swap → s.act.sh = .sorting → exec .actSwapBoundary s = .next { s.begun with
        now := n, act := { s.act with waitSort := true } }) ∧
      (s.act.req = .swap → s.act.sh = .ready →
        (∀ i ∈ validSlots s.act.bank, (bankEntry s.act.bank i).carry = false) →
        s.running 7 = false ∨ validSlots s.act.shadow = [] → Answers .actSwapBoundary s fun t => t.now = n ∧
          t.act = { s.act with active := !s.act.active, sh := .opened, req := .none, waitSort := false } ∧
          t.rv 0x0A009C = min (s.rv 0x0A009C + 1) 0xFFFFFFFF))) ∧
  (∀ (src : Src) (q : BitVec 4) (s : State),
    (∀ e es, (s.capQ q.toNat).entries = e :: es → Answers (.captureQueuePop src q .clean) s fun t =>
      t.out = [.answer src stOk (leBytes (e.toNat % 2 ^ 32) 4)] ∧ (t.capQ q.toNat).entries = es ∧
      (t.capQ q.toNat).last = e) ∧
    ((s.capQ q.toNat).entries = [] → Answers (.captureQueuePop src q .clean) s fun t =>
      t.out = [.answer src stOk (leBytes ((s.capQ q.toNat).last.toNat % 2 ^ 32) 4)] ∧ (t.capQ q.toNat).entries = [] ∧
      (t.capQ q.toNat).under = true ∧
      t.rv (0x0A0140 + 4 * q.toNat) = min (s.rv (0x0A0140 + 4 * q.toNat) + 1) 0xFFFFFFFF)) ∧
  (∀ (v : Word) (s : State) (i : Nat), i = (maskedWrite (s.rg 0x0A0030) 0xFFF v).toNat →
    Answers (.actAidxWrite v) s fun t => t.rv 0x0A0030 = i ∧
      t.rv 0x0A0034 = s.actInfo i ∧ ∀ w < 8, t.rv (0x0A0040 + 4 * w) = bankWord s.act.bank i w)

/-- Lines (R275 to R284, R289): LOUT holds the value and drives nothing while its frond does not run, an edge reaches
the filtered level unless the line bypasses the filter, a condition that holds is shown, counted and latched where it
reacts, its end and UNLATCH clear it, and a frond over its budget latches every output that is on. Rests on the model's
own choices or readings of notes/assumptions/ 89, 90, 91, 93. -/
def Obligations.LinesAct : Prop :=
  (∀ (nn : BitVec 4) (v : Word) (s : State) (w : Word),
    w = ((s.rg (0x100080 + 0x10000 * nn.toNat) &&& ~~~(v >>> 16)) ||| (v &&& (v >>> 16))) &&& 0xFFFF →
    ((s.func (16 + nn.toNat)).st ≠ .running → (s.func (16 + nn.toNat)).st ≠ .starting →
      exec (.loutWrite nn v) s = .next (s.begun.setReg (0x100080 + 0x10000 * nn.toNat) w)) ∧
    (s.running (16 + nn.toNat) = true → s.pair.frozen = false → s.flt.safe = false → (s.die (nn.toNat / 8)).lost = false →
      Answers (.loutWrite nn v) s fun t => t.rg (0x100080 + 0x10000 * nn.toNat) = w ∧
        ∀ l < 256, l / 16 = nn.toNat → (s.line l).safed = false → t.line l =
          if (s.line l).osrc = 0 ∧ (s.line l).isOutput l = true then { s.line l with cmd := nbit w.toNat (l % 16) }
          else s.line l)) ∧
  (∀ (l : BitVec 8) (level : Bool) (s : State), (s.func (16 + l.toNat / 16)).st ≠ .absent → (s.line l.toNat).mode ≠ 5 →
    Answers (.filteredEdge l level) s fun t => t.line l.toNat = { s.line l.toNat with
      raw := level
      filt := ({ s.line l.toNat with raw := level } : Line).comparator && !s.dieDark (l.toNat / 128) }) ∧
  (∀ (l : BitVec 8) (level : Bool) (s : State), (s.func (16 + l.toNat / 16)).st = .absent ∨ (s.line l.toNat).mode = 5 →
    exec (.filteredEdge l level) s = .next (s.begun.setLine l.toNat { s.line l.toNat with raw := level })) ∧
  (∀ (l : BitVec 8) (c : LineCond) (s : State),
    (s.lineChecked l.toNat c (s.unsupplied (l.toNat / 16)) = false →
      exec (.lineDiagnosticEntry l c) s = .next s.begun) ∧
    (s.lineChecked l.toNat c (s.unsupplied (l.toNat / 16)) = true → (s.line l.toNat).conds.contains c = false →
      Answers (.lineDiagnosticEntry l c) s fun t => (t.line l.toNat).conds = c :: (s.line l.toNat).conds ∧
        (t.line l.toNat).latched = ((s.line l.toNat).latched || (condReacts c && s.rb (lineWord l.toNat) 12)) ∧
        t.rv (lineWord l.toNat + 7) = min (s.rv (lineWord l.toNat + 7) + 1) 0xFFFF) ∧
    ((s.line l.toNat).conds.contains c = true → Answers (.lineDiagnosticExit l c) s fun t =>
      t.line l.toNat = { s.line l.toNat with conds := (s.line l.toNat).conds.filter (· != c) }) ∧
    ((s.line l.toNat).conds.contains c = false → exec (.lineDiagnosticExit l c) s = .next s.begun)) ∧
  (∀ (nn : BitVec 4) (m : BitVec 16) (s : State), Answers (.lcmdUnlatch nn m) s fun t =>
    ∀ l < 256, l / 16 = nn.toNat → (t.line l).latched = ((s.line l).latched && !nbit m.toNat (l % 16)) ∧
      (t.line l).conds = (s.line l).conds) ∧
  (∀ (nn : BitVec 4) (s : State),
    (Answers (.frondBudgetOver nn) s fun t => t.lines = s.lines ∧ t.fronds = s.fronds) ∧
    (s.unsupplied nn.toNat = true → exec (.frondBudgetOver nn) s = .next s.begun ∧ exec (.frondBudgetCut nn) s = .next s.begun) ∧
    (s.unsupplied nn.toNat = false → Answers (.frondBudgetCut nn) s fun t => ∀ l < 256, l / 16 = nn.toNat →
      (s.lineOut l (s.line l) = true → (s.line l).mode = 2 ∨ (s.line l).mode = 3 →
        (t.line l).latched = true ∧ (t.line l).cut = true ∧ t.lineOut l (t.line l) = false)))

/-- RS-485 channels (R287 to R293): a character received is stored with what was wrong with it, an idle gap ends a
message, the transmit FIFO takes words and the driver sends them in order and is released after the last, a driver in
current limit is switched off, and POP returns the oldest item. Rests on the model's own choices or readings of
notes/assumptions/ 94. -/
def Obligations.ChannelsCarryWords : Prop :=
  ∀ (ch : BitVec 5) (s : State) (n : Nat) (x : Uart), n = ch.toNat → x = s.uart n →
    (∀ (d : BitVec 9) (perr ferr brk : Bool) (ago : Nat), s.running (208 + n) = true → s.xmode n = 1 → s.uartFrame n = 0 →
      s.uartBridged n = false → x.rx.entries.length < 64 → Answers (.uartCharacterReceived ch d perr ferr brk ago) s fun t =>
        (t.uart n).rx.entries = x.rx.entries ++ [uartItem ((s.ft - BitVec.ofNat 80 (s.time.rate.toNat * ago / 2 ^ 30)).toNat / 65536)
          false false brk ferr perr (if brk then 0 else d.toNat)] ∧ (t.uart n).idle = false ∧ (t.uart n).tx = x.tx ∧
        t.rv (uartBase n + 0x24) = if perr then min (s.rv (uartBase n + 0x24) + 1) 0xFFFFFFFF else s.rv (uartBase n + 0x24)) ∧
    (∀ (d : BitVec 9) (perr ferr brk : Bool) (ago : Nat), s.running (208 + n) = true → s.xmode n = 1 → s.uartFrame n = 0 →
      s.uartBridged n = false → x.rx.entries.length = 64 → Answers (.uartCharacterReceived ch d perr ferr brk ago) s fun t =>
        (t.uart n).rx.entries = addLost x.rx.entries ∧
        t.rv (uartBase n + 0x30) = min (s.rv (uartBase n + 0x30) + 1) 0xFFFFFFFF) ∧
    (s.running (208 + n) = true → s.uartFrame n = 1 → x.idle = false → s.uartBridged n = false → x.rx.entries.length < 64 →
      Answers (.uartIdleGap ch) s fun t => (t.uart n).idle = true ∧
        (t.uart n).rx.entries = x.rx.entries ++ [uartItem s.ns true false false false false 0]) ∧
    (∀ w : BitVec 10, s.uartBridged n = false → x.tx.length < 64 → exec (.utxWrite ch w) s =
      .next (s.begun.setUart n { x with tx := x.tx ++ [w] })) ∧
    (∀ w : BitVec 10, s.uartBridged n = true ∨ 64 ≤ x.tx.length → exec (.utxWrite ch w) s =
      .next (s.begun.bump (uartBase n + 0x3C))) ∧
    (∀ w r, s.running (208 + n) = true → s.xmode n ≠ 1 → x.sending = none → x.tx = w :: r → x.offAt = none →
      exec (.uartTransmitStart ch) s = .next (s.begun.setUart n { x with tx := r, sending := some w, driver := true })) ∧
    (∀ w, x.sending = some w → x.driver = true → s.xmode n ≠ 2 → s.xmode n ≠ 3 → exec (.uartWordSent ch) s =
      .next { s.begun.setUart n { x with
        sending := none
        driver := s.running (208 + n) && !x.tx.isEmpty && !nbit w.toNat 9 } with out := [.uart n w] }) ∧
    (∀ hot : Bool, x.driver = true → Answers (.rs485DriverOff ch hot) s fun t =>
      t.uart n = { x with driver := false, offAt := some s.now }) ∧
    (∀ (src : Src) e es, x.rx.entries = e :: es → Answers (.uartRxPop src ch .clean) s fun t =>
      t.out = [.answer src stOk (leBytes (e.toNat % 2 ^ 32) 4)] ∧ (t.uart n).rx.entries = es ∧ (t.uart n).tx = x.tx)

/-- Encoder units (R295 to R297): an edge counts by the mode's step unless it is gated off, two levels at once are an
error, a Z edge latches the count, LOAD and ARMZ act at once, and a lost signal is marked until it is restored. Rests on
the model's own choices or readings of notes/assumptions/ 81, 82. -/
def Obligations.EncodersCount : Prop :=
  ∀ (u : BitVec 4) (s : State) (n : Nat) (x : Encoder), n = u.toNat → x = s.encoder n →
    (∀ a b gate : Bool, s.running (240 + n) = true → s.gatedOff n gate = false → s.ecfg n 4 4 = 0 → a = x.a ∨ b = x.b →
      Answers (.encoderEdge u a b gate) s fun t =>
        (t.encoder n).count = x.count + BitVec.ofInt 32 (encoderStep (s.ecfg n 2 0) x.a x.b a b) ∧
        (t.encoder n).a = a ∧ (t.encoder n).b = b ∧ (t.encoder n).errPend = x.errPend) ∧
    (∀ a b gate : Bool, s.running (240 + n) = true → s.ecfg n 2 0 ≤ 2 → a ≠ x.a → b ≠ x.b →
      Answers (.encoderEdge u a b gate) s fun t => (t.encoder n).count = x.count ∧ (t.encoder n).errPend = true ∧
        t.rv (0x100220 + 0x10000 * n) = min (s.rv (0x100220 + 0x10000 * n) + 1) 0xFFFFFFFF) ∧
    (∀ gate : Bool, s.running (240 + n) = true → s.ecfg n 6 5 ≠ 0 → s.ecfg n 11 11 = 0 → s.ecfg n 8 7 = 1 →
      Answers (.encoderZEdge u gate) s fun t => (t.encoder n).zlatch = x.count ∧ (t.encoder n).count = s.eload n ∧
        (t.encoder n).zset = true ∧
        t.rv (0x100224 + 0x10000 * n) = min (s.rv (0x100224 + 0x10000 * n) + 1) 0xFFFFFFFF) ∧
    (exec (.encoderLoad u) s = .next (s.begun.setEncoder n { x with count := s.eload n, zset := true })) ∧
    (exec (.encoderArmz u) s = .next (s.begun.setEncoder n { x with armz := true })) ∧
    (s.running (240 + n) = true → s.ecfg n 3 3 = 1 → x.cause1 = false → Answers (.encoderSignalLoss u) s fun t =>
      t.encoder n = { x with cause1 := true, errPend := true }) ∧
    (s.running (240 + n) = false → exec (.encoderSignalLoss u) s = .next s.begun) ∧
    (s.ecfg n 3 3 = 1 → exec (.encoderSignalRestored u) s = .next (s.begun.setEncoder n { x with cause1 := false }))

/-- The engine instructions (R304 to R317, R321): each on an engine that runs, neither stalled nor delayed, whose word
at PC holds that instruction, no side-set and no reserved operand, with the next word inside the window. `next` is the
engine at the next instruction, with its delay. A reserved operation is engine error 0 whatever instruction was expected
(R305, R321): the engine is STOPPED with PRESV, its PC stays at the word, and the error is counted. Rests on the model's
own choices or readings of notes/assumptions/ 95. -/
def Obligations.EnginesRun : Prop :=
  (∀ (nn : BitVec 4) (e : BitVec 2) (s : State) (i : Nat) (x : Engine) (w T : Nat) (next : Engine → Engine),
     i = 5 * nn.toNat + e.toNat → x = s.engine i → w = s.engWord i → T = max s.now x.nextAt →
     (∀ y, next y = { y with
       pc := x.pc + 1, stalled := false, delay := nbits w 19 17, nextAt := T + (1 + nbits w 19 17) * s.stepTicks i }) →
     s.running (128 + i) = true → x.stalled = false → x.delay = 0 → operandOk w = true → nbit w 16 = false →
     x.pc.toNat + 1 < s.winSize i →
     (opOf w = 0 → nbit w 11 = false → nbits w 13 12 < 2 → Answers (.engWait nn e) s fun t => t.now = T ∧
       t.engine i = (if s.engLevel i (nbits w 3 0) = decide (nbits w 13 12 = 1)
         then next { x with ref := s.engLevel i (nbits w 3 0) } else { x with ref := s.engLevel i (nbits w 3 0), stalled := true })) ∧
     (opOf w = 0 → nbit w 11 = true → Answers (.engWaitFlag nn e) s fun t => t.now = T ∧
       t.engine i = (if s.markFlag i (nbits w 1 0) then next x else { x with stalled := true }) ∧
       (t.frond nn.toNat).flags = (s.frond nn.toNat).flags &&& ~~~(BitVec.ofNat 4 (2 ^ nbits w 1 0))) ∧
     (opOf w = 1 → Answers (.engAt nn e) s fun t => t.now = T ∧
       t.engine i = if ({ s with now := T } : State).atMet i w
         then next (if nbit w 7 then { x with x := x.x + x.y } else x) else { x with stalled := true }) ∧
     (opOf w = 2 → nbit w 13 = false → nbits w 12 11 = 1 → Answers (.engShiftOut nn e) s fun t => t.now = T ∧
       t.engine i = next { x with
         sr := if s.shdir i then x.sr <<< (nbits w 10 6 + 1) else x.sr >>> (nbits w 10 6 + 1)
         bc := x.bc - (nbits w 10 6 + 1)
         x := BitVec.ofNat 32 (if s.shdir i then x.sr.toNat / 2 ^ (32 - (nbits w 10 6 + 1))
           else x.sr.toNat % 2 ^ (nbits w 10 6 + 1)) }) ∧
     (opOf w = 2 → nbit w 13 = true → nbits w 12 11 = 1 → Answers (.engShiftIn nn e) s fun t => t.now = T ∧
       t.engine i = next { x with
         sr := if s.shdir i then (x.sr <<< (nbits w 10 6 + 1)) ||| BitVec.ofNat 32 (x.x.toNat % 2 ^ (nbits w 10 6 + 1))
           else (x.sr >>> (nbits w 10 6 + 1)) |||
             BitVec.ofNat 32 (x.x.toNat % 2 ^ (nbits w 10 6 + 1) * 2 ^ (32 - (nbits w 10 6 + 1)))
         bc := min 32 (x.bc + (nbits w 10 6 + 1)) }) ∧
     (opOf w = 3 → s.txd i ≠ 0 →
       (∀ v r, x.tx = v :: r → Answers (.engTake nn e .clean) s fun t => t.now = T ∧
         t.engine i = next { x.take (nbits w 13 12) v with tx := r, qe := false }) ∧
       (x.tx = [] → Answers (.engTake nn e .clean) s fun t => t.now = T ∧
         t.engine i = if nbit w 11 then next { x with qe := true } else { x with stalled := true })) ∧
     (opOf w = 4 → s.txd i ≠ 8 → s.rxFull i = false → Answers (.engEmit nn e) s fun t => t.now = T ∧
       (t.engine i).rx.entries = x.rx.entries ++ [x.item (nbits w 13 12)] ∧ (t.engine i).pc = x.pc + 1 ∧
       (t.engine i).sr = (if nbit w 10 ∧ nbits w 13 12 = 2 then 0 else x.sr) ∧ (t.engine i).x = x.x) ∧
     (opOf w = 4 → s.txd i ≠ 8 → s.rxFull i = true → nbit w 11 = false → Answers (.engEmit nn e) s fun t =>
       t.now = T ∧ t.engine i = { x with stalled := true }) ∧
     (∀ (c : Instr) (f : Nat → Bool), (nbits w 13 12, c, f) ∈ [(0, Instr.engDriveOff nn e, fun _ => false),
         (1, .engDriveOn nn e, fun _ => true), (2, .engDriveToggle nn e, fun j => !nbit x.pins.toNat j),
         (3, .engDriveFromX nn e, fun j => nbit x.x.toNat (j - s.dbase i))] → opOf w = 5 →
       Answers c s fun t => t.now = T ∧ (t.engine i).pc = x.pc + 1 ∧ ∀ j < 16, nbit (t.engine i).pins.toNat j =
         if s.dbase i ≤ j ∧ j < s.dbase i + 12 ∧ nbit w (j - s.dbase i) then f j else nbit x.pins.toNat j) ∧
     (opOf w = 6 → nbit w 13 = false → Answers (.engCountLoad nn e) s fun t => t.now = T ∧
       t.engine i = next { x with cnt := BitVec.ofNat 16 (nbits w 12 0) }) ∧
     (opOf w = 6 → nbit w 13 = true →
       (nbit w 6 = false ∨ x.cnt.toNat ≤ 1 → Answers (.engCountDecrement nn e) s fun t => t.now = T ∧
         t.engine i = next { x with cnt := if x.cnt = 0 then 0 else x.cnt - 1 }) ∧
       (nbit w 6 = true → 2 ≤ x.cnt.toNat → nbits w 5 0 < s.winSize i → Answers (.engCountDecrement nn e) s fun t =>
         t.now = T ∧ t.engine i = { next x with cnt := x.cnt - 1, pc := BitVec.ofNat 6 (nbits w 5 0) })) ∧
     (opOf w = 7 → Answers (.engBranch nn e) s fun t => t.now = T ∧
       (s.branchMet i w = false → t.engine i = next x) ∧
       (s.branchMet i w = true → nbits w 5 0 < s.winSize i →
         t.engine i = { next x with pc := BitVec.ofNat 6 (nbits w 5 0) })) ∧
     (opOf w = 8 → Answers (.engMark nn e) s fun t => t.now = T ∧ t.engine i = next x ∧
       (t.frond nn.toNat).flags = if nbit w 12 then (s.frond nn.toNat).flags ||| BitVec.ofNat 4 (2 ^ nbits w 1 0)
         else (s.frond nn.toNat).flags) ∧
     (opOf w = 9 → Answers (.engHalt nn e) s fun t => t.now = T ∧ t.engine i = x ∧
       t.func (128 + i) = { s.func (128 + i) with st := .stopped, presv := false })) ∧
  (∀ (nn : BitVec 4) (e : BitVec 2) (s : State) (i : Nat) (c : Instr), i = 5 * nn.toNat + e.toNat →
     c ∈ [Instr.engWait nn e, .engWaitFlag nn e, .engAt nn e, .engShiftOut nn e, .engShiftIn nn e, .engTake nn e .clean,
       .engEmit nn e, .engDriveOff nn e, .engDriveOn nn e, .engDriveToggle nn e, .engDriveFromX nn e, .engCountLoad nn e,
       .engCountDecrement nn e, .engBranch nn e, .engMark nn e, .engHalt nn e] →
     s.running (128 + i) = true → (s.engine i).stalled = false → (s.engine i).delay = 0 → 10 ≤ opOf (s.engWord i) →
     Answers c s fun t => (t.func (128 + i)).st = .stopped ∧ (t.func (128 + i)).presv = true ∧
       (t.engine i).pc = (s.engine i).pc ∧ (t.engine i).err = some ((s.engine i).pc, 0) ∧
       t.rv (engBase i + 0x70) = min (s.rv (engBase i + 0x70) + 1) 0xFFFFFFFF)

/-- What goes on around the engines (R307, R312, R314 to R317, R319, R320, R326, R327): a stall that ends, a delay that
has run, a deferred pin command, the queues with their ports, the program store, the flags and the spare engine. Rests
on the model's own choices or readings of notes/assumptions/ 95, 160. -/
def Obligations.EnginesServed : Prop :=
  (∀ (nn : BitVec 4) (e : BitVec 2) (s : State) (i : Nat) (x : Engine) (w : Nat), i = 5 * nn.toNat + e.toNat →
    x = s.engine i → w = s.engWord i →
    (s.running (128 + i) = true → x.stalled = true → opOf w = 0 → nbit w 11 = true → s.markFlag i (nbits w 1 0) = true →
      x.pc.toNat + 1 < s.winSize i → Answers (.engineStallComplete nn e .clean) s fun t =>
        t.engine i = { x with
          pc := x.pc + 1, stalled := false, delay := nbits w 19 17
          nextAt := s.now + 5 + nbits w 19 17 * s.stepTicks i } ∧
        (t.frond nn.toNat).flags = (s.frond nn.toNat).flags &&& ~~~(BitVec.ofNat 4 (2 ^ nbits w 1 0))) ∧
    (x.stalled = false → exec (.engineStallComplete nn e .clean) s = .next s.begun) ∧
    (s.running (128 + i) = true → x.delay ≠ 0 → exec (.engineDelayEnd nn e) s =
      .next ({ s.begun with now := max s.now x.nextAt }.setEngine i { x with delay := 0 })) ∧
    (∀ (src : Src) (v : BitVec 16), exec (.engineTxStage src nn e v) s = .next { s.begun with
      staged := tabSet 0 s.staged (txStageKey src i) (BitVec.ofNat 32 (v.toNat + 0x10000)) }) ∧
    (∀ (src : Src) (v : BitVec 16), x.tx.length < s.txd i → (s.func (128 + i)).st ≠ .absent →
      exec (.engineTxAppend src nn e v) s = .next ({ s.begun with staged := tabSet 0 s.staged (txStageKey src i) 0 }.setEngine i
        { x with tx := x.tx ++ [BitVec.ofNat 32 (v.toNat * 65536 +
          (tabGet (0 : Word) s.staged (txStageKey src i)).toNat % 65536)] })) ∧
    (∀ (src : Src) (v : BitVec 16), s.txd i ≤ x.tx.length → Answers (.engineTxAppend src nn e v) s fun t =>
      t.engines = s.engines ∧ t.rv (engBase i + 0x6C) = min (s.rv (engBase i + 0x6C) + 1) 0xFFFFFFFF) ∧
    (∀ (src : Src) d ds, x.rx.entries = d :: ds → Answers (.engineRxPop src nn e .clean) s fun t =>
      t.out = [.answer src stOk (leBytes (d.toNat % 2 ^ 32) 4)] ∧ (t.engine i).rx.entries = ds) ∧
    (∀ src : Src, (s.func (128 + i)).st = .stopped →
      (Answers (.emptyTx src nn e) s fun t => t.engine i = { x with tx := [] }) ∧
      (Answers (.emptyRx src nn e) s fun t => (t.engine i).rx.entries = [] ∧ (t.engine i).tx = x.tx) ∧
      (Answers (.emptyBoth src nn e) s fun t => (t.engine i).rx.entries = [] ∧ (t.engine i).tx = [])) ∧
    (∀ src : Src, (s.func (128 + i)).st ≠ .stopped →
      ∀ c ∈ [Instr.emptyTx src nn e, .emptyRx src nn e, .emptyBoth src nn e], Answers c s fun t =>
        t.engines = s.engines ∧ t.rv 0x010010 = min (s.rv 0x010010 + 1) 0xFFFFFFFF)) ∧
  (∀ (l : BitVec 8) (v : Bool) (s : State), (s.line l.toNat).deferred = some v → Answers (.pinCommandDeferred l) s fun t =>
    t.now = max s.now ((s.line l.toNat).engAt + 157) ∧ (t.line l.toNat).deferred = none ∧
    (s.frondRuns l.toNat = false → (t.line l.toNat).cmd = (s.line l.toNat).cmd)) ∧
  (∀ (src : Src) (nn : BitVec 4) (k : BitVec 6) (v : Word) (s : State),
    (s.storeOpen nn.toNat = true →
      (exec (.programStoreStage src nn k v) s = .next (s.begun.stage (0x102000 + 0x10000 * nn.toNat + 8 * k.toNat) 0xFFFF v)) ∧
      (Answers (.programStoreWrite src nn k v) s fun t =>
        t.rg (0x102004 + 0x10000 * nn.toNat + 8 * k.toNat) =
          maskedWrite (s.rg (0x102004 + 0x10000 * nn.toNat + 8 * k.toNat)) 0xFF v ∧
        (∀ p, s.stagedAt (0x102000 + 0x10000 * nn.toNat + 8 * k.toNat) = some p →
          t.rg (0x102000 + 0x10000 * nn.toNat + 8 * k.toNat) = p) ∧
        ∀ e < 4, (t.func (128 + 5 * nn.toNat + e)).dirty = ((s.func (128 + 5 * nn.toNat + e)).dirty ||
          (s.func (128 + 5 * nn.toNat + e)).st == .stopped))) ∧
    (s.storeOpen nn.toNat = false → ∀ c ∈ [Instr.programStoreStage src nn k v, .programStoreWrite src nn k v],
      Answers c s fun t => t.staged = s.staged ∧ t.funcs = s.funcs ∧
        t.rv 0x010010 = min (s.rv 0x010010 + 1) 0xFFFFFFFF)) ∧
  (∀ (nn f : BitVec 4) (s : State), exec (.pflagset nn f) s = .next (s.begun.setFrond nn.toNat
    { s.frond nn.toNat with flags := (s.frond nn.toNat).flags ||| f })) ∧
  (∀ (nn : BitVec 4) (s : State) (x : Frond), x = s.frond nn.toNat →
    (∀ e, [0, 1, 2, 3].find? (fun e => nbit x.failing.toNat (nbits x.map.toNat (3 * e + 2) (3 * e))) = some e →
      (s.func (16 + nn.toNat)).st = .stopped → x.pending = true → x.spareWorks = true →
      Answers (.engineSubstitution nn) s fun t => (t.frond nn.toNat).spare = 7 ∧ (t.frond nn.toNat).pending = false ∧
        nbits (t.frond nn.toNat).map.toNat (3 * e + 2) (3 * e) = x.spare.toNat ∧
        (t.engine (5 * nn.toNat + e)).tx = [] ∧ (t.func (128 + 5 * nn.toNat + e)).presv = false) ∧
    ((s.func (16 + nn.toNat)).st ≠ .stopped → exec (.engineSubstitution nn) s = .next s.begun))

/-- The transmit side of a CAN controller (R336 to R340, R348): each command in the states of its buffer, its refusal
while the controller does not run, the choice of the next frame, and what success, a lost arbitration or a single shot
leaves. The receive side and error confinement of a CAN controller (R332, R333, R336, R337, R343 to R347): a frame goes
where its filter says, errors move the counters and at 256 take the controller bus-off, recovery ends it, and the events
of the bus and of the transceiver are noted. Rests on the model's own choices or readings of notes/assumptions/ 98, 99,
100, 101, 103. -/
def Obligations.CanControllers : Prop :=
  (∀ (k : BitVec 3) (s : State) (n : Nat) (x : Can), n = k.toNat → x = s.can n →
     (∀ (src : Src) (b : BitVec 2), b ≠ 3 →
       (∀ c ∈ [Instr.canLoad src k b, .canReq src k b, .canLoadreq src k b, .canAbort src k b], s.running (32 + n) = false →
         Answers c s fun t => t.can n = { x with result := 3 } ∧
           t.rv (canBase n + 0x32C) = min (s.rv (canBase n + 0x32C) + 1) 0xFFFFFFFF) ∧
       (s.running (32 + n) = true → s.bufOwned n b.toNat = false →
         ((x.buf b.toNat).st = .empty ∨ (x.buf b.toNat).st = .loaded → frameMalformed (s.staging n) = false →
           (Answers (.canLoad src k b) s fun t =>
             t.can n = ({ x with result := 0 } : Can).setBuf b.toNat (s.loadedBuf n .loaded)) ∧
           (Answers (.canLoadreq src k b) s fun t =>
             t.can n = ({ x with result := 0 } : Can).setBuf b.toNat (s.loadedBuf n .pending))) ∧
         ((x.buf b.toNat).st = .loaded → Answers (.canReq src k b) s fun t => t.can n =
           ({ x with result := 0 } : Can).setBuf b.toNat { x.buf b.toNat with st := .pending, abort := false }) ∧
         ((x.buf b.toNat).st = .pending → Answers (.canAbort src k b) s fun t => t.can n =
           ({ x with result := 0 } : Can).setBuf b.toNat { x.buf b.toNat with st := .loaded } ∧
           t.rv (canBase n + 0x328) = min (s.rv (canBase n + 0x328) + 1) 0xFFFFFFFF) ∧
         ((x.buf b.toNat).st = .sending → Answers (.canAbort src k b) s fun t => t.can n =
           ({ x with result := 0 } : Can).setBuf b.toNat { x.buf b.toNat with abort := true }))) ∧
     (∀ b, s.canMaySend n = true → s.canChoose n = some b → exec (.canArbitration k) s =
       .next { s.begun.setCan n (x.setBuf b { x.buf b with st := .sending }) with out := [.can n (x.buf b).frame] }) ∧
     (s.canMaySend n = false ∨ s.canChoose n = none → exec (.canArbitration k) s = .next s.begun) ∧
     (∀ b, x.sending = some b → x.tec < 256 → s.canMode n ≠ 3 → Answers (.canTransmitDone k) s fun t =>
       (t.can n).buf b = (if (x.buf b).keep then { x.buf b with st := .loaded, abort := false } else {}) ∧
       (t.can n).tec = x.tec - 1 ∧ t.rv (canBase n + 0x304) = min (s.rv (canBase n + 0x304) + 1) 0xFFFFFFFF) ∧
     (∀ b, x.sending = some b → (x.buf b).bridged = none → x.conf ≠ .busOff → s.running (32 + n) = true →
       (x.buf b).abort = false →
       ((x.buf b).ss = false → Answers (.canTransmitFailed k true) s fun t =>
         (t.can n).buf b = { x.buf b with st := .pending } ∧
         t.rv (canBase n + 0x308) = min (s.rv (canBase n + 0x308) + 1) 0xFFFFFFFF) ∧
       ((x.buf b).ss = true → Answers (.canTransmitFailed k false) s fun t =>
         (t.can n).buf b = { x.buf b with st := .loaded, abort := false } ∧
         t.rv (canBase n + 0x328) = min (s.rv (canBase n + 0x328) + 1) 0xFFFFFFFF))) ∧
  (∀ (k : BitVec 3) (s : State) (n : Nat) (x : Can), n = k.toNat → x = s.can n →
     (∀ (f : CanFrame) (ago i : Nat), s.running (32 + n) = true → s.canMode n = 0 → f.fdf = false → x.integrating = false →
       x.conf ≠ .busOff → x.tec < 256 → s.canFilter n f = some i → s.af (canBase n + 0x110 + 0x20 * i) 1 0 = 1 →
       x.rx0.entries.length + (f.data.length + 3) / 4 + 2 ≤ 256 → Answers (.canFrameReceived k f ago) s fun t =>
         (t.can n).rx0.entries = x.rx0.entries ++
           canItem f i ((s.ft - BitVec.ofNat 80 (s.time.rate.toNat * ago / 2 ^ 30)).toNat / 65536) ∧
         (x.rec_ ≤ 127 → (t.can n).rec_ = x.rec_ - 1) ∧ (127 < x.rec_ → 119 ≤ (t.can n).rec_ ∧ (t.can n).rec_ ≤ 127) ∧
         t.rv (canBase n + 0x300) = min (s.rv (canBase n + 0x300) + 1) 0xFFFFFFFF) ∧
     (∀ (code : BitVec 3) (miniv : BitVec 16), s.running (32 + n) = true → s.canMode n = 0 → x.conf ≠ .busOff → x.tec < 256 →
       (Answers (.canErrorDetected k code false .receiver miniv) s fun t => (t.can n).lec = code ∧
         (t.can n).rec_ = x.rec_ + 1 ∧ (t.can n).tec = x.tec ∧ (t.can n).conf ≠ .busOff ∧
         t.rv (canBase n + 0x30C) = min (s.rv (canBase n + 0x30C) + 1) 0xFFFFFFFF) ∧
       (248 ≤ x.tec → Answers (.canErrorDetected k code true .transmitter miniv) s fun t => (t.can n).dlec = code ∧
         (t.can n).conf = .busOff ∧ (t.can n).recovering = s.rb (canBase n) 6 ∧
         t.rv (canBase n + 0x310) = min (s.rv (canBase n + 0x310) + 1) 0xFFFFFFFF)) ∧
     (x.conf = .busOff → x.recovering = true → Answers (.canRecoveryDone k) s fun t => t.can n = { x with
       tec := 0, rec_ := 0, conf := .active, recovering := false, ewarn := false }) ∧
     (s.running (32 + n) = true → x.conf = .busOff → s.rb (canBase n) 6 = false → x.recovering = false →
       exec (.canRecover k) s = .next (s.begun.setCan n { x with recovering := true })) ∧
     (x.conf ≠ .busOff → exec (.canRecover k) s = .next (s.begun.bump (canBase n + 0x338))) ∧
     (s.running (32 + n) = true → exec (.busIntegrationDone k) s =
       .next (s.begun.setCan n { x with integrating := false })) ∧
     (s.running (32 + n) = true → s.rb (canBase n) 10 = false → Answers (.protocolException k) s fun t =>
       t.can n = { x with integrating := true } ∧
       t.rv (canBase n + 0x330) = min (s.rv (canBase n + 0x330) + 1) 0xFFFFFFFF) ∧
     (s.running (32 + n) = false → s.rb (canxWord n) 0 = true → Answers (.canWakeUp k) s fun t =>
       t.can n = { x with wakeSeen := true } ∧ t.rv (canBase n + 0x334) = min (s.rv (canBase n + 0x334) + 1) 0xFFFFFFFF) ∧
     (Answers (.txdDominantTimeout k) s fun t => t.can n = { x with domTimeout := true }) ∧
     (exec .canPllLocked s = .next { s.begun with canPll := true }) ∧
     (∀ miniv : BitVec 16, s.detecting n = true → Answers (.rateCandidateTimeout k miniv) s fun t =>
       t.now = max s.now (x.candSince + s.rf (canBase n + 0x14) 11 4 * 625000) ∧ (t.can n).candSince = t.now ∧
       (t.can n).okRun = 0) ∧
     (∀ (src : Src) (q : BitVec 1) e es, (x.rx q.toNat).entries = e :: es → Answers (.canRxPop src k q .clean) s fun t =>
       t.out = [.answer src stOk (leBytes (e.toNat % 2 ^ 32) 4)] ∧ ((t.can n).rx q.toNat).entries = es))

/-- Bridged traffic (R349 to R360): a unit without a route is counted, one with a route becomes a frame, a bridged frame
is queued for its port or refused, what is queued moves into a CAN buffer or a transmit FIFO, error returns are counted,
and application messages are stored whole. The route banks (R256 to R258, R362 to R365): what each command does in each
state of the shadow bank, that a swap exchanges the banks, and that AIDX copies an entry of the active bank. Rests on
the model's own choices or readings of notes/assumptions/ 11, 104, 105, 106. -/
def Obligations.BridgeServes : Prop :=
  ((∀ (u : BrgUnit) (r : List BrgUnit) (s : State), s.running 8 = true → s.brg.ingress = u :: r →
     (s.routeMatches u = [] → Answers .bridgeLookup s fun t => t.brg = { s.brg with ingress := r } ∧ t.fwd = s.fwd ∧
       t.rv 0x0B0100 = min (s.rv 0x0B0100 + 1) 0xFFFFFFFF) ∧
     (∀ i, s.routeMatches u = [i] → s.ringLeads = true → nbits (bankWord s.brg.bank i 0) 25 23 ≠ 0 →
       Answers .bridgeLookup s fun t => t.brg = { s.brg with ingress := r } ∧
         ∃ q, t.fwd = { s.fwd with held := s.fwd.held ++ [q] } ∧ q.h.typ = 7 ∧
           q.h.cls = BitVec.ofNat 3 (nbits (bankWord s.brg.bank i 0) 25 23) ∧
           q.h.dest = BitVec.ofNat 12 (nbits (bankWord s.brg.bank i 1) 31 20) ∧
           q.h.mc = nbit (bankWord s.brg.bank i 0) 28 ∧ q.h.stream = BitVec.ofNat 16 (bitAt s.brg.active 11 + i) ∧
           slice q.payload 4 8 = beBytes u.ns 8 ∧ slice q.payload 12 u.data.length = u.data)) ∧
   (∀ (d : Delivered) (p : Nat) (s : State), s.fwd.inbox.find? (fun d => d.sink == .bridged) = some d →
     d.ordered = true ∨ d.h.mc = true → p = nbits d.h.addr.toNat 39 32 →
     (d.late = true → exec .bridgedFrameReceived s = .next ({ s.begun with
       fwd := { s.fwd with inbox := s.fwd.inbox.erase d } }.bump 0x0B0134)) ∧
     (d.late = false → s.running 8 = false → Answers .bridgedFrameReceived s fun t => t.cans = s.cans ∧ t.uarts = s.uarts ∧
       t.fwd.inbox = s.fwd.inbox.erase d ∧ t.rv 0x0B0108 = min (s.rv 0x0B0108 + 1) 0xFFFFFFFF) ∧
     (d.late = false → s.running 8 = true → s.bridgePort p = true → p < 8 → s.canMode p = 0 →
       s.bridgeFormat p d.h (slice d.payload 12 (beNat (slice d.payload 0 4) % 2048)) (nbit (beNat (slice d.payload 0 4)) 11)
         (decide ((slice d.payload 12 (beNat (slice d.payload 0 4) % 2048)).length < beNat (slice d.payload 0 4) % 2048)) = false →
       (s.can p).egress.length < 32 → Answers .bridgedFrameReceived s fun t => t.fwd.inbox = s.fwd.inbox.erase d ∧
         t.can p = { s.can p with egress := (s.can p).egress ++ [{
           h := d.h, data := slice d.payload 12 (beNat (slice d.payload 0 4) % 2048)
           w9 := nbit (beNat (slice d.payload 0 4)) 11 }] })) ∧
   (∀ (k : BitVec 3) (e : Egress) (r : List Egress) (b : Nat) (s : State), (s.can k.toNat).egress = e :: r →
     (s.can k.toNat).conf ≠ .busOff → s.running (32 + k.toNat) = true →
     [0, 1, 2].find? (fun b => s.bufOwned k.toNat b && ((s.can k.toNat).buf b).st == .empty) = some b →
     exec (.bridgeEgressCan k) s = .next (s.begun.setCan k.toNat (Can.setBuf { s.can k.toNat with egress := r } b
       { st := .pending, frame := bridgedCan e.h e.data, bridged := some e }))) ∧
   (∀ (ch : BitVec 5) (e : Egress) (r : List Egress) (s : State), (s.uart ch.toNat).egress = e :: r →
     s.running (208 + ch.toNat) = true → exec (.bridgeEgressUart ch) s = .next (s.begun.setUart ch.toNat { s.uart ch.toNat with
       tx := (s.uart ch.toNat).tx ++ e.words.take (64 - (s.uart ch.toNat).tx.length)
       egress := if (e.words.drop (64 - (s.uart ch.toNat).tx.length)).isEmpty then r
         else { e with words := e.words.drop (64 - (s.uart ch.toNat).tx.length) } :: r })) ∧
   (∀ (d : Delivered) (s : State), s.fwd.inbox.find? (fun d => d.sink == .errorReturn) = some d →
     Answers .errorReturnReceived s fun t => t.fwd.inbox = s.fwd.inbox.erase d ∧
       t.rv 0x0B010C = min (s.rv 0x0B010C + 1) 0xFFFFFFFF) ∧
   (∀ (d : Delivered) (n : Nat) (s : State), s.fwd.inbox.find? (fun d => d.sink == .appMsg) = some d → n = d.h.len.toNat →
     (n = 0 ∨ 16 < n → Answers .applicationMessageReceived s fun t => t.brg = s.brg ∧ t.fwd.inbox = s.fwd.inbox.erase d ∧
       t.rv 0x0B0118 = min (s.rv 0x0B0118 + 1) 0xFFFFFFFF) ∧
     (1 ≤ n → n ≤ 16 → s.brg.msgq.entries.length + n + 2 ≤ 256 → Answers .applicationMessageReceived s fun t =>
       t.fwd.inbox = s.fwd.inbox.erase d ∧ ∃ hd : DWord, nbits hd.toNat 61 50 = d.h.src.toNat ∧
         t.brg.msgq.entries = s.brg.msgq.entries ++ hd :: BitVec.ofNat 64 (s.ns % 2 ^ 62) ::
           (List.range n).map (fun i => BitVec.ofNat 64 (beNat (slice d.payload (4 * i) 4))))) ∧
   (∀ (src : Src) (e : DWord) (es : List DWord) (s : State), s.brg.msgq.entries = e :: es →
     Answers (.messageQueuePop src .clean) s fun t => t.out = [.answer src stOk (leBytes (e.toNat % 2 ^ 32) 4)] ∧
       t.brg.msgq.entries = es ∧ t.brg.msgq.last = e)) ∧
  ((∀ s : State,
     (s.brg.sh = .opened → exec .brgSeal s = .next { s.begun with brg := { s.brg with sh := .sorting } }) ∧
     (s.brg.sh ≠ .opened → exec .brgSeal s = .next (s.begun.bump 0x0B0130)) ∧
     ((s.func 8).st ≠ .stopped → exec .brgSwap s = .next { s.begun with brg := { s.brg with
       req := true, waitSort := s.brg.sh == .sorting, sh := if s.brg.sh = .opened then .sorting else s.brg.sh } }) ∧
     (s.brg.req = false → exec .brgDisarm s = .next (s.begun.bump 0x0B0130)) ∧
     (s.brg.req = true → Answers .brgDisarm s fun t => t.brg = { s.brg with req := false, waitSort := false }) ∧
     (Answers .brgClearsh s fun t => t.brg.sh = .opened ∧ t.brg.req = false ∧ t.brg.bank = s.brg.bank ∧
       t.brg.shadow = (validSlots s.brg.shadow).foldl clearValid s.brg.shadow) ∧
     (s.brg.sh = .sorting → (s.func 8).st ≠ .stopped → Answers .brgSortDone s fun t => t.brg = { s.brg with sh := .ready }) ∧
     (s.brg.req = true → s.brg.sh = .ready → Answers .brgSwapTakesEffect s fun t => t.brg = { s.brg with
       active := !s.brg.active, sh := .opened, req := false, waitSort := false } ∧
       t.rv 0x0B0120 = min (s.rv 0x0B0120 + 1) 0xFFFFFFFF) ∧
     (s.brg.req = false ∨ s.brg.sh ≠ .ready → exec .brgSwapTakesEffect s = .next s.begun) ∧
     ((s.func 8).st = .stopped → s.brg.sh = .ready → Answers .brgSwap s fun t => t.brg = { s.brg with
       active := !s.brg.active, sh := .opened, req := false, waitSort := false })) ∧
   (∀ (off : BitVec 16) (data : List Byte) (s : State),
     (s.brg.sh = .opened → exec (.brgShadowWrite off data) s = .next { s.begun with
       brg := s.brg.setShadow (memWriteN s.brg.shadow off.toNat data) }) ∧
     (s.brg.sh = .sorting ∨ s.brg.sh = .ready → Answers (.brgShadowWrite off data) s fun t => t.brg.sh = .opened ∧
       t.brg.req = false ∧ t.brg.bank = s.brg.bank ∧ t.brg.shadow = memWriteN s.brg.shadow off.toNat data)) ∧
   (∀ (v : Word) (s : State) (i : Nat), i = (maskedWrite (s.rg 0x0B0014) 0x7FF v).toNat →
     Answers (.brgAidxWrite v) s fun t => t.rv 0x0B0014 = i ∧
       ∀ w < 8, t.rv (0x0B0040 + 4 * w) = bankWord s.brg.bank i w))

/-- The upstream connection of the USB devices (R368, R383 to R385, R387): VBUS and the pull-up, suspend and resume, the
phases of a remote wake and what a host's K or a bus reset does to them. Rests on the model's own choices or readings of
notes/assumptions/ 2, 109. -/
def Obligations.UsbConnects : Prop :=
  (∀ (mv : BitVec 16) (s : State),
    (4000 ≤ mv.toNat → exec (.vbusChange mv) s = .next { s.begun with usb := { s.usb with
      vbus := true, vbusSince := if s.usb.vbusOk then s.usb.vbusSince else s.now, vbusOk := true } }) ∧
    (3500 ≤ mv.toNat → mv.toNat < 4000 → exec (.vbusChange mv) s = .next { s.begun with usb := { s.usb with
      vbus := false, vbusOk := s.usb.vbusOk && s.usb.pullup } }) ∧
    (mv.toNat < 3500 → Answers (.vbusChange mv) s fun t => t.usb.vbus = false ∧ t.usb.vbusOk = false ∧ t.usb.pullup = false ∧
      (s.usb.pullup = true → t.usb.offAt = some s.now ∧ t.usb.hub = {} ∧ t.usb.fn = {}))) ∧
  (∀ s : State,
    (s.running 9 = true → s.rb 0x0D0010 0 = true → s.usb.vbusOk = true → s.usb.pullup = false →
      exec .pullupAttach s = .next { s.begun with
        now := max s.now (max (s.usb.vbusSince + 6250000) (match s.usb.offAt with
          | some t => t + 6250000
          | none => 0))
        usb := { s.usb with pullup := true } }) ∧
    (s.running 9 = false ∨ s.usb.vbusOk = false ∨ s.usb.pullup = true → exec .pullupAttach s = .next s.begun) ∧
    (s.usb.pullup = true → s.usb.suspended = false → Answers .usbSuspend s fun t => t.usb = { s.usb with
      suspended := true, idleSince := s.now - 1875000, wake := .none, drove := false, cancelled := false } ∧
      t.rv 0x0D0044 = min (s.rv 0x0D0044 + 1) 0xFFFFFFFF) ∧
    (s.usb.suspended = true → Answers .usbResume s fun t => t.usb = { s.usb with
      suspended := false, wake := .none, drove := false, cancelled := false } ∧
      t.rv 0x0D0048 = if s.usb.drove || s.usb.wake == .drive then min (s.rv 0x0D0048 + 1) 0xFFFFFFFF else s.rv 0x0D0048) ∧
    (s.usb.suspended = false → exec .usbWake s = .next (s.begun.bump 0x0D4050)) ∧
    (s.usb.suspended = true → s.usb.fn.rwake = true → s.usb.cancelled = false → s.usb.wake = .none → s.usb.drove = false →
      exec .usbWake s = .next { s.begun with usb := { s.usb with wake := .pending, wakeSrc := 1 } }) ∧
    (s.usb.wake = .pending → Answers .wakeSenseStart s fun t =>
      t.now = max s.now (s.usb.idleSince + (5 + s.af 0x0D0014 15 8) * 625000) ∧
      t.usb = { s.usb with wake := .sense, senseAt := t.now }) ∧
    (s.usb.wake = .sense → Answers .wakeDriveStart s fun t => t.now = max s.now (s.usb.senseAt + 12500) ∧
      t.usb = { s.usb with wake := .drive, driveAt := t.now }) ∧
    (s.usb.wake = .drive → Answers .wakeDriveEnd s fun t =>
      t.now = max s.now (s.usb.driveAt + s.af 0x0D0014 3 0 * 625000) ∧ t.usb = { s.usb with wake := .none, drove := true }) ∧
    (s.usb.wake = .pending ∨ s.usb.wake = .sense → exec .hostKDuringWake s = .next { s.begun with
      usb := { s.usb with wake := .none, cancelled := true, wakeSrc := s.usb.wakeSrc ||| 0x8000 } }) ∧
    (s.usb.wake = .none ∨ s.usb.wake = .drive → exec .hostKDuringWake s = .next s.begun) ∧
    (∀ high : Bool, s.usb.pullup = true → Answers (.usbBusReset high) s fun t => t.usb.default_ = true ∧
      t.usb.high = (high && !s.rb 0x0D0000 4) ∧ t.usb.blocks = [] ∧ t.usb.hub = {} ∧ t.usb.fn = {} ∧ t.usb.halt = 0 ∧
      t.usb.toggles = 0 ∧ t.usb.suspended = false ∧ t.rv 0x0D0040 = min (s.rv 0x0D0040 + 1) 0xFFFFFFFF))

/-- The hub's ports and translators (R367, R370, R373, R382, R384, R386): over-current, connections, resumes, class
requests and split transactions. Rests on the model's own choices or readings of notes/assumptions/ 108. -/
def Obligations.UsbHubServes : Prop :=
  (∀ (k : BitVec 3) (s : State) (n : Nat) (p : UsbPort), n = k.toNat → p = s.usbPort n → 1 ≤ n → n ≤ 4 →
    (p.power = true → Answers (.downstreamOvercurrent k) s fun t => t.usbPort n = { p with
      power := false, enable := false, connect := false, susp := false, overcur := true, cOvercur := true, ocPin := true
      resuming := false } ∧ t.rv 0x0D004C = min (s.rv 0x0D004C + 1) 0xFFFFFFFF) ∧
    (p.power = true → p.attached = true → p.connect = false → Answers (.portConnectReport k) s fun t =>
      t.now = max s.now (p.powerAt + 62500000) ∧ t.usbPort n = { p with connect := true, cConnect := true }) ∧
    (∀ speed : BitVec 2, p.power = false →
      exec (.downstreamConnectChange k true speed) s = .next { s.begun with
        usb := { s.usb with ports := tabSet {} s.usb.ports n { p with attached := true, speed := speed } } }) ∧
    (∀ speed : BitVec 2, p.connect = true → Answers (.downstreamConnectChange k false speed) s fun t => t.usbPort n = { p with
      attached := false, connect := false, enable := false, susp := false, resuming := false, cConnect := true }) ∧
    (s.usb.suspended = false → p.susp = true → p.resuming = false → Answers (.downstreamRemoteWake k) s fun t =>
      t.usbPort n = { p with resuming := true }) ∧
    (p.resuming = true → Answers (.downstreamResumeEnd k) s fun t =>
      t.usbPort n = { p with resuming := false, susp := false, cSusp := true }) ∧
    (s.usb.pullup = true → s.usb.hub.config = true →
      (Answers (.hubClassRequest (.setPort .power) k) s fun t => p.power = false → s.rb 0x0D0000 (n - 1) = true →
        t.usbPort n = { p with power := true, powerAt := s.now, overcur := false, ocPin := false }) ∧
      (Answers (.hubClassRequest (.setPort .suspend) k) s fun t => p.enable = true → t.usbPort n = { p with susp := true }) ∧
      (Answers (.hubClassRequest (.clearPort .suspend) k) s fun t => p.susp = true → t.usbPort n = { p with resuming := true }) ∧
      (exec (.hubClassRequest .getPortStatus k) s = .next { s.begun with out := [.usb .hub 0 4 p.status] }) ∧
      (exec (.hubClassRequest .getHubStatus k) s = .next { s.begun with out := [.usb .hub 0 4 [0, 0, 0, 0]] }) ∧
      (Answers (.hubClassRequest .stopTT k) s fun t => t.out = [.usb .hub 0 3 []] ∧
        t.rv 0x0D0054 = min (s.rv 0x0D0054 + 1) 0xFFFFFFFF))) ∧
  (∀ (k : BitVec 3) (f : BitVec 14) (id : BitVec 16) (s : State) (x : Translator), x = s.tt (s.ttOf k.toNat) →
    s.usb.hub.config = true →
    (x.bufs.length < 2 → Answers (.startSplit k false f id) s fun t => t.out = [.usb .hub 0 0 []] ∧
      t.tt (s.ttOf k.toNat) = { x with bufs := x.bufs ++ [id] }) ∧
    (2 ≤ x.bufs.length → exec (.startSplit k false f id) s = .next { s.begun with out := [.usb .hub 0 2 []] }) ∧
    (x.uframe ≠ f.toNat → Answers (.startSplit k true f id) s fun t =>
      t.tt (s.ttOf k.toNat) = { x with uframe := f.toNat, count := 1, periodic := x.periodic ++ [id] })) ∧
  (∀ (k : BitVec 3) (id : BitVec 16) (s : State) (x : Translator), x = s.tt (s.ttOf k.toNat) → x.bufs.contains id = true →
    (exec (.completeSplit k id .waiting) s = .next { s.begun with out := [.usb .hub 0 1 []] }) ∧
    (∀ d, Answers (.completeSplit k id (.done d)) s fun t => t.out = [.usb .hub 0 4 d] ∧
      t.tt (s.ttOf k.toNat) = { x with bufs := x.bufs.erase id, periodic := x.periodic.erase id }) ∧
    (Answers (.completeSplit k id .failed) s fun t => t.rv 0x0D0050 = min (s.rv 0x0D0050 + 1) 0xFFFFFFFF ∧
      t.tt (s.ttOf k.toNat) = { x with bufs := x.bufs.erase id, periodic := x.periodic.erase id }))

/-- The requests and endpoints of the vendor function (R371 to R381): standard requests, halts, OUT packets and PING,
vendor requests and their latched access, command blocks in their order, their responses, and the events' endpoint.
Rests on the model's own choices or readings of notes/assumptions/ 108, 110. -/
def Obligations.UsbFunctionServes : Prop :=
  (∀ (v l : BitVec 16) (d : UsbDev) (s : State), s.usb.pullup = true → s.running 10 = true →
    (exec (.standardRequest d 5 v l) s = .next { s.begun with
      out := [.usb d 0 0 []], usb := s.usb.setDev d { s.usb.dev d with addr := BitVec.ofNat 7 v.toNat } }) ∧
    (v.toNat / 256 = 1 → exec (.standardRequest d 6 v l) s = .next { s.begun with
      out := [.usb d 0 4 ((s.deviceDescriptor d).take l.toNat)] }) ∧
    (v = 1 → exec (.standardRequest d 3 v l) s = .next { s.begun with
      out := [.usb d 0 0 []], usb := s.usb.setDev d { s.usb.dev d with rwake := true } })) ∧
  (∀ (ep : Byte) (i : Nat) (s : State), epIndex ep = some i → s.usb.fn.config = true →
    (exec (.endpointHalt ep) s = .next { s.begun with
      out := [.usb .vendor 0 0 []], usb := { s.usb with halt := s.usb.halt ||| BitVec.ofNat 3 (2 ^ i) } }) ∧
    (exec (.endpointHaltClear ep) s = .next { s.begun with
      out := [.usb .vendor 0 0 []]
      usb := { s.usb with
        halt := s.usb.halt &&& ~~~ BitVec.ofNat 3 (2 ^ i), toggles := s.usb.toggles &&& ~~~ BitVec.ofNat 4 (2 ^ i) } })) ∧
  (∀ (toggle : Bool) (room : Nat) (s : State), s.usb.fn.config = true →
    (s.epHalted 0 = true → exec (.outDataPacket toggle room) s = .next { s.begun with out := [.usb .vendor 1 3 []] } ∧
      exec (.usbPing room) s = .next { s.begun with out := [.usb .vendor 1 3 []] }) ∧
    (s.epHalted 0 = false →
      exec (.usbPing room) s = .next { s.begun with out := [.usb .vendor 1 (if room = 0 then 2 else 0) []] } ∧
      (toggle ≠ nbit s.usb.toggles.toNat 0 →
        exec (.outDataPacket toggle room) s = .next { s.begun with out := [.usb .vendor 1 0 []] }) ∧
      (toggle = nbit s.usb.toggles.toNat 0 → room ≠ 0 → exec (.outDataPacket toggle room) s = .next { s.begun with
        out := [.usb .vendor 1 (if room = 1 ∧ s.usb.high then 1 else 0) []]
        usb := { s.usb with toggles := s.usb.toggles ^^^ 1 } }))) ∧
  (∀ (a : BitVec 32) (len : Nat) (data : List Byte) (s : State), s.running 10 = true → s.usb.pullup = true →
    s.usb.fn.config = true → s.usb.ctl = none → s.rb 0x0D4004 0 = true → 0x1000000 ≤ a.toNat →
    (1 ≤ len → len ≤ 4096 → exec (.usbLread a len) s = .next { s.begun with usb := { s.usb with
      resSeq := s.usb.resSeq + 1, ctl := some { write := false, addr := a, len := len, data := [] } } }) ∧
    (1 ≤ data.length → data.length ≤ 4096 → exec (.usbLwrite a data) s = .next { s.begun with usb := { s.usb with
      resSeq := s.usb.resSeq + 1, ctl := some { write := true, addr := a, len := data.length, data := data } } })) ∧
  (∀ s : State, s.running 10 = true → s.usb.pullup = true → s.usb.fn.config = true →
    (exec .usbResult s = .next { s.begun with
      out := [.usb .vendor 0 4 ([s.usb.resSeq, s.usb.resStatus, s.usb.resDetail, 0] ++ leBytes s.usb.resDone 4)] }) ∧
    (exec .usbInfo s = .next { s.begun with out := [.usb .vendor 0 4
      ([0x000000, 0x00001C, 0x000018, 0x240010].flatMap (fun o => leBytes (s.regValue o).toNat 4))] })) ∧
  (∀ (c : UsbCtl) (s : State), s.boot.request = 0 → s.usb.ctl = some c → c.answer = true → s.rb 0x0D4004 0 = true →
    spanRegion c.addr.toNat c.len = .inl 1 →
    (c.write = false → Answers (.usbLocalAccessDone .clean) s fun t => t.usb.ctl = none ∧ t.usb.resStatus = 0 ∧
      t.usb.resDone = c.len ∧ t.shared = s.shared ∧
      t.out = [.usb .vendor 0 4 (memReadN s.shared (c.addr.toNat - 0x10000000) c.len)]) ∧
    (c.write = true → c.data ≠ [] → c.data.length = c.len → Answers (.usbLocalAccessDone .clean) s fun t =>
      t.usb.ctl = none ∧ t.usb.resStatus = 0 ∧ t.usb.resDone = c.len ∧ t.out = [.usb .vendor 0 4 []] ∧
      t.shared = memWriteN s.shared (c.addr.toNat - 0x10000000) c.data)) ∧
  (∀ (b : List Byte) (ecc : EccResult) (s : State), s.boot.request = 0 → s.running 10 = true → s.usb.pullup = true →
    s.usb.fn.config = true → s.epHalted 0 = false →
    (∀ c ∈ [Instr.blockAread b ecc, .blockAwrite b ecc, .blockLread b ecc, .blockLwrite b ecc],
      blockOps.contains (b.getD 0 0) = false → Answers c s fun t => t.usb = { s.usb with halt := s.usb.halt ||| 1 } ∧
        t.rv 0x0D4044 = min (s.rv 0x0D4044 + 1) 0xFFFFFFFF) ∧
    (∀ (op : Byte) (c : Instr), (op, c) ∈ [((0x01 : Byte), Instr.blockAread b ecc), (0x02, .blockAwrite b ecc)] →
      b.getD 0 0 = op → blockOk b = true → s.usb.blocks.length < s.rf 0x0D4000 3 0 → s.running 5 = false →
      (s.window (leNat (slice b 4 6) / 2 ^ 24)).pw = false → (∀ k ∈ s.usb.blocks, k.id ≠ s.usb.nextBlock) → Answers c s fun t => ∃ k : UsbBlock,
        t.usb.blocks = s.usb.blocks ++ [k] ∧ k.op = op ∧ k.tag = BitVec.ofNat 16 (leNat (slice b 2 2)) ∧
        ∃ st det, (st = stNotRun ∨ st = stWindow) ∧ k.result = some (st, det, 0, [])) ∧
    (b.getD 0 0 = 0x11 → blockOk b = true → s.usb.blocks.length < s.rf 0x0D4000 3 0 → s.rb 0x0D4004 0 = true →
      spanRegion (leNat (slice b 4 6)) (leNat (slice b 10 2)) = .inl 1 →
      (∀ k ∈ s.usb.blocks, k.id ≠ s.usb.nextBlock) → Answers (.blockLread b .clean) s fun t =>
        t.usb.nextBlock = s.usb.nextBlock + 1 ∧ t.usb.blocks = s.usb.blocks ++ [{
          id := s.usb.nextBlock, op := 0x11, tag := BitVec.ofNat 16 (leNat (slice b 2 2)), len := leNat (slice b 10 2)
          issued := true
          result := some (0, 0, leNat (slice b 10 2),
            memReadN s.shared (leNat (slice b 4 6) - 0x10000000) (leNat (slice b 10 2))) }]) ∧
    (b.getD 0 0 = 0x12 → blockOk b = true → s.usb.blocks.length < s.rf 0x0D4000 3 0 → s.rb 0x0D4004 0 = true →
      spanRegion (leNat (slice b 4 6)) (leNat (slice b 10 2)) = .inl 1 →
      Answers (.blockLwrite b ecc) s fun t =>
        t.shared = memWriteN s.shared (leNat (slice b 4 6) - 0x10000000) (b.drop 16))) ∧
  (∀ (k : UsbBlock) (rest : List UsbBlock) (s : State), s.usb.blocks = k :: rest →
    (s.epHalted 1 = false → ∀ st det done data, k.result = some (st, det, done, data) →
      exec .commandBlockResponse s = .next { s.begun with
        out := [.usb .vendor 0x82 4 ([k.op, BitVec.ofNat 8 st] ++ leBytes k.tag.toNat 2 ++ leBytes det 1 ++ [0, 0, 0] ++
          leBytes done 2 ++ List.replicate 6 0 ++
          if k.op == 0x01 || k.op == 0x11 then data ++ List.replicate (k.len - data.length) 0 else [])]
        usb := { s.usb with blocks := rest, toggles := s.usb.toggles ^^^ 2 } }) ∧
    (s.epHalted 1 = false → k.result = none →
      exec .commandBlockResponse s = .next { s.begun with out := [.usb .vendor 0x82 2 []] }) ∧
    (s.epHalted 1 = true → exec .commandBlockResponse s = .next { s.begun with out := [.usb .vendor 0x82 3 []] })) ∧
  (∀ s : State, s.usb.fn.config = true → s.usb.suspended = false →
    (s.epHalted 2 = true → exec .eventEndpointIn s = .next { s.begun with out := [.usb .vendor 0x83 3 []] }) ∧
    (s.epHalted 2 = false → s.usbQueue = none → exec .eventEndpointIn s = .next { s.begun with out := [.usb .vendor 0x83 2 []] }))

/-- The instructions that compute (R415 to R417, R419, R420): each writes d, which g0 discards, sets the flags named for
it, and goes on with the next instruction; LUI sets none. Rests on the model's own choices or readings of
notes/assumptions/ 111. -/
def Obligations.HrkComputes : Prop :=
  ∀ (p : Pair) (d a b : BitVec 4) (i : BitVec 14) (k : BitVec 5) (u : BitVec 18) (s : State) (x : Ncp) (A B X Z : Word)
    (n : Nat), x = s.ncp p → A = x.reg a → B = x.reg b → X = i.signExtend 32 → Z = i.zeroExtend 32 → n = B.toNat % 32 →
    Issuing p s →
    (∀ (c : Instr) (r : Word) (C V : Bool), (c, r, C, V) ∈ [
        (Instr.hkAdd p d a b, A + B, decide (2 ^ 32 ≤ A.toNat + B.toNat),
          decide (A.toInt + B.toInt < -2 ^ 31 ∨ 2 ^ 31 ≤ A.toInt + B.toInt)),
        (.hkAddi p d a i, A + X, decide (2 ^ 32 ≤ A.toNat + X.toNat),
          decide (A.toInt + X.toInt < -2 ^ 31 ∨ 2 ^ 31 ≤ A.toInt + X.toInt)),
        (.hkSub p d a b, A - B, decide (A.toNat < B.toNat),
          decide (A.toInt - B.toInt < -2 ^ 31 ∨ 2 ^ 31 ≤ A.toInt - B.toInt)),
        (.hkAnd p d a b, A &&& B, x.flags.c, x.flags.v), (.hkAndi p d a i, A &&& Z, x.flags.c, x.flags.v),
        (.hkOr p d a b, A ||| B, x.flags.c, x.flags.v), (.hkOri p d a i, A ||| Z, x.flags.c, x.flags.v),
        (.hkXor p d a b, A ^^^ B, x.flags.c, x.flags.v), (.hkXori p d a i, A ^^^ Z, x.flags.c, x.flags.v),
        (.hkShl p d a b, BitVec.ofNat 32 (A.toNat * 2 ^ n), n != 0 && A.getLsbD (32 - n), x.flags.v),
        (.hkShli p d a k, BitVec.ofNat 32 (A.toNat * 2 ^ k.toNat), k != 0 && A.getLsbD (32 - k.toNat), x.flags.v),
        (.hkShr p d a b, BitVec.ofNat 32 (A.toNat / 2 ^ n), n != 0 && A.getLsbD (n - 1), x.flags.v),
        (.hkShri p d a k, BitVec.ofNat 32 (A.toNat / 2 ^ k.toNat), k != 0 && A.getLsbD (k.toNat - 1), x.flags.v),
        (.hkSra p d a b, BitVec.ofInt 32 (A.toInt / 2 ^ n), n != 0 && A.getLsbD (n - 1), x.flags.v),
        (.hkSrai p d a k, BitVec.ofInt 32 (A.toInt / 2 ^ k.toNat), k != 0 && A.getLsbD (k.toNat - 1), x.flags.v),
        (.hkMul p d a b, A * B, x.flags.c, decide (A.toInt * B.toInt < -2 ^ 31 ∨ 2 ^ 31 ≤ A.toInt * B.toInt)),
        (.hkMulh p d a b, BitVec.ofInt 32 (A.toInt * B.toInt / 2 ^ 32), x.flags.c, x.flags.v),
        (.hkMin p d a b, if A.toInt ≤ B.toInt then A else B, x.flags.c, x.flags.v),
        (.hkMax p d a b, if A.toInt ≤ B.toInt then B else A, x.flags.c, x.flags.v),
        (.hkClz p d a, if A = 0 then 32 else BitVec.ofNat 32 (31 - A.toNat.log2), x.flags.c, x.flags.v)] →
      exec c s = .next (s.begun.setNcp p { x.setReg d r with
        flags := { z := r == 0, n := r.msb, c := C, v := V }, pc := x.pc + 4 })) ∧
    exec (.hkLui p d u) s = .next (s.begun.setNcp p { x.setReg d (u.zeroExtend 32 <<< 14) with pc := x.pc + 4 }) ∧
    x.reg 0 = 0 ∧ ∀ v, x.setReg 0 v = x

/-- Division has its two special cases and never traps (R421): V says whether one held. -/
def Obligations.HrkDivides : Prop :=
  ∀ (p : Pair) (d a b : BitVec 4) (s : State) (x : Ncp) (A B : Word), x = s.ncp p → A = x.reg a → B = x.reg b → Issuing p s →
    ∀ (c : Instr) (r : Word) (V : Bool), (c, r, V) ∈ [
        (Instr.hkDiv p d a b, if B = 0 then 0xFFFFFFFF else if A = 0x80000000 ∧ B = 0xFFFFFFFF then 0x80000000
          else BitVec.ofInt 32 (A.toInt.tdiv B.toInt), decide (B = 0 ∨ A = 0x80000000 ∧ B = 0xFFFFFFFF)),
        (.hkDivu p d a b, if B = 0 then 0xFFFFFFFF else BitVec.ofNat 32 (A.toNat / B.toNat), decide (B = 0)),
        (.hkRem p d a b, if B = 0 then A else if A = 0x80000000 ∧ B = 0xFFFFFFFF then 0
          else BitVec.ofInt 32 (A.toInt.tmod B.toInt), decide (B = 0 ∨ A = 0x80000000 ∧ B = 0xFFFFFFFF)),
        (.hkRemu p d a b, if B = 0 then A else BitVec.ofNat 32 (A.toNat % B.toNat), decide (B = 0))] →
      exec c s = .next (s.begun.setNcp p { x.setReg d r with
        flags := { z := r == 0, n := r.msb, c := x.flags.c, v := V }, pc := x.pc + 4 })

/-- Branches and jumps (R419, R424): the target counts from the instruction's own address, JALR takes it from a before d
is written, a misaligned one traps with d unwritten, and a fetch from outside the boot ROM and code SRAM takes the bus
error trap. Rests on the model's own choices or readings of notes/assumptions/ 111, 112. -/
def Obligations.HrkJumps : Prop :=
  ∀ (p : Pair) (d a b : BitVec 4) (i : BitVec 14) (j : BitVec 22) (f : BitVec 2) (s : State) (x : Ncp) (A B : Word),
    x = s.ncp p → A = x.reg a → B = x.reg b →
    (Issuing p s →
      (∀ (c : Instr) (met : Bool), (c, met) ∈ [(Instr.hkBeq p a b i, decide (A = B)), (.hkBne p a b i, decide (A ≠ B)),
          (.hkBlt p a b i, decide (A.toInt < B.toInt)), (.hkBge p a b i, decide (B.toInt ≤ A.toInt)),
          (.hkBltu p a b i, decide (A.toNat < B.toNat)), (.hkBgeu p a b i, decide (B.toNat ≤ A.toNat)),
          (.hkBfs p f i, [x.flags.z, x.flags.n, x.flags.c, x.flags.v].getD f.toNat false),
          (.hkBfc p f i, !([x.flags.z, x.flags.n, x.flags.c, x.flags.v].getD f.toNat false))] →
        exec c s = .next (s.begun.setNcp p { x with pc := if met then x.pc + 4 * i.signExtend 32 else x.pc + 4 })) ∧
      exec (.hkJal p d j) s = .next (s.begun.setNcp p
        { x.setReg d (x.pc + 4) with pc := x.pc + 4 * j.signExtend 32 }) ∧
      ((A + i.signExtend 32).toNat % 4 = 0 → exec (.hkJalr p d a i) s = .next (s.begun.setNcp p
        { x.setReg d (x.pc + 4) with pc := A + i.signExtend 32 })) ∧
      ((A + i.signExtend 32).toNat % 4 ≠ 0 → x.intrap = false → exec (.hkJalr p d a i) s = .next (s.begun.setNcp p
        (x.takeTrap 3 x.pc (A + i.signExtend 32) 0 0)))) ∧
    (s.issues p = true → x.wfe = false → fetchable x.pc = false → x.intrap = false →
      ∀ c ∈ [Instr.hkAdd p d a b, .hkBeq p a b i, .hkJal p d j, .hkLw p d a false i .clean, .hkRett p, .hkFence p],
        exec c s = .next (s.begun.setNcp p (x.takeTrap 5 x.pc x.pc 0xFF 0)))

/-- Traps (R396, R415, R422, R423, R426, R431 to R433): what each saves, where it goes, and that it leaves every general
register, flag and memory. Rests on the model's own choices or readings of notes/assumptions/ 112, 113, 117. -/
def Obligations.HrkTraps : Prop :=
  ∀ (p : Pair) (d a b : BitVec 4) (i : BitVec 14) (n : BitVec 12) (w A : Word) (s : State) (x : Ncp)
    (T : Nat → Word → Word → Nat → Nat → Ncp), x = s.ncp p → A = x.reg a + i.signExtend 32 →
    (∀ code epc bad st imm, T code epc bad st imm = { x with
      epc := epc, cause := BitVec.ofNat 32 (code + st * 2 ^ 8 + imm * 2 ^ 16), badaddr := bad
      eflags := x.flags, pie := x.ie, pmode := x.sys, ie := false, sys := true, intrap := true
      pc := x.tvec + BitVec.ofNat 32 (0x10 * code), wfe := false, wait := none }) →
    Issuing p s → x.intrap = false →
    (legalWord w = false → exec (.illegalInstruction p w) s = .next (s.begun.setNcp p (T 1 x.pc 0 0 0))) ∧
    (sysRegListed n.toNat = false → ∀ c ∈ [Instr.hkMfs p d n, .hkMts p a n],
      exec c s = .next (s.begun.setNcp p (T 1 x.pc 0 0 0))) ∧
    (d.toNat % 2 = 1 ∨ d = 14 → ∀ c ∈ [Instr.hkAxr p d a i, .hkTimTime p d, .hkTimTick p d, .hkTimFraction p d,
      .hkLd p d a false i .clean], exec c s = .next (s.begun.setNcp p (T 1 x.pc 0 0 0))) ∧
    (x.sys = false → exec (.hkRett p) s = .next (s.begun.setNcp p (T 2 x.pc 0 0 0)) ∧
      (sysRegListed n.toNat = true → n ≠ 0 → exec (.hkMts p a n) s = .next (s.begun.setNcp p (T 2 x.pc 0 0 0)) ∧
        (n.toNat ∉ [8, 9, 10] → exec (.hkMfs p d n) s = .next (s.begun.setNcp p (T 2 x.pc 0 0 0))))) ∧
    (∀ (k : Nat) (c : Instr), (k, c) ∈ [(2, Instr.hkLh p d a false i .clean), (2, .hkLhu p d a false i .clean),
        (4, .hkLw p d a false i .clean)] →
      (A.toNat % k ≠ 0 → exec c s = .next (s.begun.setNcp p (T 3 x.pc A 0 0))) ∧
      (A.toNat % k = 0 → x.allowed .read A = false →
        exec c s = .next ((s.begun.bump (ncpBase p + 0x208)).setNcp p (T 4 x.pc A 0 0))) ∧
      (A.toNat % k = 0 → x.allowed .read A = true → placeOf A = .nothing →
        exec c s = .next (s.begun.setNcp p (T 5 x.pc A 0xFF 0)))) ∧
    (∀ (k : Nat) (c : Instr), s.boot.request = 0 → (k, c) ∈ [(1, Instr.hkSb p d a false i), (2, .hkSh p d a false i),
        (4, .hkSw p d a false i)] →
      (A.toNat % k ≠ 0 → exec c s = .next (s.begun.setNcp p (T 3 x.pc A 0 0))) ∧
      (A.toNat % k = 0 → x.allowed .write A = false →
        exec c s = .next ((s.begun.bump (ncpBase p + 0x208)).setNcp p (T 4 x.pc A 0 0))) ∧
      (A.toNat % k = 0 → x.allowed .write A = true → placeOf A = .nothing →
        exec c s = .next (s.begun.setNcp p (T 5 x.pc A 0xFF 0)))) ∧
    (∀ c ∈ [Instr.hkCas p d a b .clean, .hkSwp p d a b .clean],
      ((x.reg a).toNat % 4 ≠ 0 → exec c s = .next (s.begun.setNcp p (T 3 x.pc (x.reg a) 0 0))) ∧
      ((x.reg a).toNat % 4 = 0 → x.allowed .read (x.reg a) = true → x.allowed .write (x.reg a) = true →
        sharedPlace (x.reg a) = false → exec c s = .next (s.begun.setNcp p (T 5 x.pc (x.reg a) 0xFE 0)))) ∧
    ((nbits (x.reg a).toNat 15 10 ≠ 0 ∨ softSource p ((x.reg a).toNat % 1024) = false) →
      exec (.hkSpore p a b d) s = .next (s.begun.setNcp p (T 6 x.pc 0 0 0))) ∧
    exec (.hkTrap p i) s = .next (s.begun.setNcp p (T 7 (x.pc + 4) 0 0 i.toNat))

/-- A synchronous trap of any cause 0x1 to 0x7 while INTRAP = 1 is a double trap (R434): the pair enters HALTED with its
EPC, CAUSE and BADADDR unchanged, and kind 0xD3 with the new code goes to the collector. -/
def Obligations.HrkDoubleTrap : Prop :=
  ∀ (p : Pair) (d a b : BitVec 4) (i : BitVec 14) (w A : Word) (s : State) (x : Ncp), x = s.ncp p →
    A = x.reg a + i.signExtend 32 → Issuing p s → x.intrap = true → Roomy 1 s → x.bootrom = false →
    ∀ (code : Nat) (c : Instr),
      (code = 1 ∧ c = .illegalInstruction p w ∧ legalWord w = false) ∨ (code = 2 ∧ c = .hkRett p ∧ x.sys = false) ∨
      (c = .hkLw p d a false i .clean ∧
        (code = 3 ∧ A.toNat % 4 ≠ 0 ∨ A.toNat % 4 = 0 ∧
          (code = 4 ∧ x.allowed .read A = false ∨ code = 5 ∧ x.allowed .read A = true ∧ placeOf A = .nothing))) ∨
      (code = 6 ∧ c = .hkSpore p a b d ∧ nbits (x.reg a).toNat 15 10 ≠ 0) ∨ (code = 7 ∧ c = .hkTrap p i) →
      Answers c s fun t =>
        t.func (pairFn p) = { s.func (pairFn p) with st := .halted, restart := false } ∧
        (t.ncp p).epc = x.epc ∧ (t.ncp p).cause = x.cause ∧ (t.ncp p).badaddr = x.badaddr ∧ (t.ncp p).g = x.g ∧
        (t.ncp p).flags = x.flags ∧ (t.ncp p).stopped = true ∧
        t.flt.prio = s.flt.prio ++ [faultMsg (pairSrc p) 0xD3 3 code 0]

/-- Loads and stores in a pair's data SRAM and in the shared memory (R417, R422): the value a load brings, the bytes a
store leaves, every other byte as it was, and the base that P = 1 moves afterwards. CAS, SWP and FIRE in a pair's data
SRAM (R420, R423, R429), and FENCE (R430). Rests on the model's own choices or readings of notes/assumptions/ 10, 113,
114, 115, 119. -/
def Obligations.HrkMemoryAccesses : Prop :=
  (∀ (p : Pair) (d a : BitVec 4) (post : Bool) (i : BitVec 14) (s : State) (x : Ncp) (A : Word) (o : Nat) (next : Ncp → Ncp),
     x = s.ncp p → Issuing p s → A = (if post then x.reg a else x.reg a + i.signExtend 32) →
     (∀ y, next y = { (if post then y.setReg a (x.reg a + i.signExtend 32) else y) with pc := x.pc + 4 }) →
     (post = true → a ≠ 0) →
     (∀ m : List Host.Cell, placeOf A = .data o ∧ m = x.data ∨ placeOf A = .local_ (0x10000000 + o) ∧ o < 0x200000 ∧ m = s.shared →
       x.allowed .read A = true →
       (∀ (c : Instr) (k : Nat) (v : Word), (c, k, v) ∈ [
           (Instr.hkLb p d a post i .clean, 1, (memRead m o).signExtend 32),
           (.hkLbu p d a post i .clean, 1, (memRead m o).zeroExtend 32),
           (.hkLh p d a post i .clean, 2, (memRead m (o + 1) ++ memRead m o).signExtend 32),
           (.hkLhu p d a post i .clean, 2, (memRead m (o + 1) ++ memRead m o).zeroExtend 32),
           (.hkLw p d a post i .clean, 4, memRead m (o + 3) ++ memRead m (o + 2) ++ memRead m (o + 1) ++ memRead m o)] →
         A.toNat % k = 0 → (post = true → d ≠ a) →
         exec c s = .next (s.begun.setNcp p (next (x.setReg d v)))) ∧
       (A.toNat % 8 = 0 → d.toNat % 2 = 0 → d.toNat ≤ 12 → (post = true → d ≠ a) →
         exec (.hkLd p d a post i .clean) s = .next (s.begun.setNcp p (next
           ((x.setReg d (memRead m (o + 3) ++ memRead m (o + 2) ++ memRead m (o + 1) ++ memRead m o)).setReg (d + 1)
             (memRead m (o + 7) ++ memRead m (o + 6) ++ memRead m (o + 5) ++ memRead m (o + 4))))))) ∧
     (s.boot.request = 0 → x.allowed .write A = true →
       ∀ (c : Instr) (bytes : List Byte), (c, bytes) ∈ [(Instr.hkSb p d a post i, leBytes (x.reg d).toNat 1),
           (.hkSh p d a post i, leBytes (x.reg d).toNat 2), (.hkSw p d a post i, leBytes (x.reg d).toNat 4),
           (.hkSd p d a post i, leBytes (x.reg d).toNat 4 ++ leBytes (x.reg (d + 1)).toNat 4)] →
         A.toNat % bytes.length = 0 → (bytes.length = 8 → d.toNat % 2 = 0 ∧ d.toNat ≤ 12) →
         (placeOf A = .data o → exec c s = .next (s.begun.setNcp p (next { x with data := memWriteN x.data o bytes }))) ∧
         (placeOf A = .local_ (0x10000000 + o) → o < 0x200000 →
           exec c s = .next ({ s.begun with shared := memWriteN s.shared o bytes }.setNcp p (next x))) ∧
         ∀ (m : List Host.Cell) (q : Nat), (q < o ∨ o + bytes.length ≤ q → memRead (memWriteN m o bytes) q = memRead m q) ∧
           (o ≤ q → q < o + bytes.length → memRead (memWriteN m o bytes) q = bytes.getD (q - o) 0))) ∧
  (∀ (p : Pair) (d a b : BitVec 4) (s : State) (x : Ncp) (o : Nat) (v : Word), x = s.ncp p → Issuing p s →
     placeOf (x.reg a) = .data o → x.allowed .read (x.reg a) = true →
     v = memRead x.data (o + 3) ++ memRead x.data (o + 2) ++ memRead x.data (o + 1) ++ memRead x.data o →
     (o % 4 = 0 → x.allowed .write (x.reg a) = true →
       (exec (.hkCas p d a b .clean) s = .next (s.begun.setNcp p (if v = x.reg d
         then { ({ x with data := memWriteN x.data o (leBytes (x.reg b).toNat 4) }).setReg d v with
           flags := { x.flags with z := true }, pc := x.pc + 4 }
         else { x.setReg d v with flags := { x.flags with z := false }, pc := x.pc + 4 }))) ∧
       exec (.hkSwp p d a b .clean) s = .next (s.begun.setNcp p
         { ({ x with data := memWriteN x.data o (leBytes (x.reg b).toNat 4) }).setReg d v with pc := x.pc + 4 })) ∧
     (o % 32 = 0 →
       ((s.func 7).st ≠ .absent → s.act.appq.length < 256 → exec (.hkFire p a .clean) s = .next
         ({ s.begun with act := { s.act with
           appq := s.act.appq ++ [memReadN x.data o 32] } }.setNcp p
           { x with flags := { x.flags with z := true }, pc := x.pc + 4 })) ∧
       ((s.func 7).st ≠ .absent → 256 ≤ s.act.appq.length → Answers (.hkFire p a .clean) s fun t =>
         ({ t.ncp p with pend := [] } : Ncp) = { x with flags := { x.flags with z := false }, pc := x.pc + 4, pend := [] } ∧
         t.act.appq = s.act.appq) ∧
       ((s.func 7).st = .absent → exec (.hkFire p a .clean) s = .next (s.begun.setNcp p
           { x with flags := { x.flags with z := false }, pc := x.pc + 4 }))) ∧
     (s.unadmitted p = false → exec (.hkFence p) s = .next (s.begun.setNcp p { x with pc := x.pc + 4 })) ∧
     (s.unadmitted p = true → exec (.hkFence p) s = .next s.begun))

/-- The system registers as MFS reads them and MTS writes them (R431). Rests on the model's own choices or readings of
notes/assumptions/ 116. -/
def Obligations.HrkSystemRegisters : Prop :=
  ∀ (p : Pair) (d a : BitVec 4) (s : State) (x : Ncp) (v : Word) (r cyc : Nat), x = s.ncp p → Issuing p s → v = x.reg a →
    r < 16 → cyc = s.now - x.cycle0 →
    (∀ (n : Nat) (r : Word), (n, r) ∈ [(0x000, BitVec.ofNat 32 (bitAt x.flags.z 0 + bitAt x.flags.n 1 + bitAt x.flags.c 2 +
        bitAt x.flags.v 3)), (0x009, x.cyclehLatch.getD (BitVec.ofNat 32 (cyc / 2 ^ 32))),
        (0x00A, if p = .a then 0 else 1)] →
      exec (.hkMfs p d (BitVec.ofNat 12 n)) s = .next (s.begun.setNcp p
        { (if n = 9 then { x with cyclehLatch := none } else x).setReg d r with pc := x.pc + 4 })) ∧
    (exec (.hkMfs p d 8) s = .next (s.begun.setNcp p
      { ({ x with cyclehLatch := some (BitVec.ofNat 32 (cyc / 2 ^ 32)) }).setReg d (BitVec.ofNat 32 cyc) with pc := x.pc + 4 })) ∧
    (exec (.hkMts p a 0) s = .next (s.begun.setNcp p { x with
      flags := { z := v.getLsbD 0, n := v.getLsbD 1, c := v.getLsbD 2, v := v.getLsbD 3 }, pc := x.pc + 4 })) ∧
    (x.sys = true →
      (∀ (n : Nat) (y : Word), (n, y) ∈ [(0x001, BitVec.ofNat 32 (bitAt x.ie 0 + 2 + bitAt x.pie 2 + bitAt x.pmode 3 +
          bitAt x.intrap 4)), (0x002, x.epc), (0x003, x.cause), (0x004, x.badaddr), (0x005, x.tvec),
          (0x006, BitVec.ofNat 32 (bitAt x.eflags.z 0 + bitAt x.eflags.n 1 + bitAt x.eflags.c 2 + bitAt x.eflags.v 3)),
          (0x007, x.scratch), (0x010 + r, tabGet 0 x.mpuBase r), (0x020 + r, tabGet 0 x.mpuCfg r)] →
        exec (.hkMfs p d (BitVec.ofNat 12 n)) s = .next (s.begun.setNcp p { x.setReg d y with pc := x.pc + 4 })) ∧
      (∀ (n : Nat) (y : Ncp), (n, y) ∈ ([
          (0x001, { x with ie := v.getLsbD 0, pie := v.getLsbD 2, pmode := v.getLsbD 3
                           intrap := v.getLsbD 4 && !v.getLsbD 0 }),
          (0x002, { x with epc := v &&& 0xFFFFFFFC }), (0x003, { x with cause := v &&& 0x3FFFFF0F }),
          (0x004, { x with badaddr := v }), (0x005, { x with tvec := v &&& 0xFFFFFF00 }),
          (0x006, { x with eflags := { z := v.getLsbD 0, n := v.getLsbD 1, c := v.getLsbD 2, v := v.getLsbD 3 } }),
          (0x007, { x with scratch := v }), (0x008, x), (0x009, x), (0x00A, x),
          (0x010 + r, { x with mpuBase := tabSet 0 x.mpuBase r (v &&& 0xFFFFFFC0) })] : List (Nat × Ncp)) →
        exec (.hkMts p a (BitVec.ofNat 12 n)) s = .next (s.begun.setNcp p { y with pc := x.pc + 4 })) ∧
      (nbits v.toNat 12 8 ≤ 26 → exec (.hkMts p a (BitVec.ofNat 12 (0x020 + r))) s = .next (s.begun.setNcp p
        { x with mpuCfg := tabSet 0 x.mpuCfg r (v &&& 0x1F1F), pc := x.pc + 4 })))

/-- WFE, SPORE, AXR and TIM (R400, R401, R425 to R428). Rests on the model's own choices or readings of
notes/assumptions/ 115, 119. -/
def Obligations.HrkHub : Prop :=
  ∀ (p : Pair) (d a b c : BitVec 4) (i : BitVec 14) (s : State) (x : Ncp), x = s.ncp p →
    (∀ (k : BitVec 4) (l : Nat), s.issues p = true → fetchable x.pc = true → x.allowed .exec x.pc = true →
      (s.topLevel p = some l → k.toNat ≤ l → exec (.hkWfe p d k) s = .next (s.begun.setNcp p
        { ({ x with wfe := false }).setReg d (BitVec.ofNat 32 l) with pc := x.pc + 4 })) ∧
      (s.topLevel p = none ∨ s.topLevel p = some l ∧ l < k.toNat → exec (.hkWfe p d k) s = .next (s.begun.setNcp p
        { x with wfe := true }))) ∧
    (∀ n : Nat, Issuing p s → (x.reg a).toNat % 65536 = n → (match p with
        | .a => 832 ≤ n ∧ n < 928
        | .b => 928 ≤ n ∧ n < 1024) →
      (Answers (.hkSpore p a b c) s fun t =>
        ({ t.ncp p with pend := [] } : Ncp) = { x with pc := x.pc + 4, pend := [] } ∧
        ∀ q, nbit (s.ap (0x0F0000 + 4 * n)) 15 = true → q = nbits (s.ap (0x0F0000 + 4 * n)) 14 11 →
          s.running 12 = true → s.rf (qBase q) 15 14 ≠ 0 → (s.queue q).gapPend = false →
          (s.queue q).recs.length < s.af (qBase q + 0xC) 8 0 → (s.queue q).recs.length < 256 →
          (t.queue q).recs = (s.queue q).recs ++ [({
            source := BitVec.ofNat 10 n, typ := 0, node := s.ident.number, slot := s.slot, gap := false, late := false
            seq := BitVec.ofNat 16 (s.rv (0x0F2000 + 4 * n)), kind := BitVec.ofNat 16 ((x.reg a).toNat / 65536)
            time := BitVec.ofNat 64 s.ns, pos := 0, axis := 0, avalid := false, astale := false
            payload := x.reg c ++ x.reg b }, s.now)] ∧
          t.rv (0x0F2000 + 4 * n) = (s.rv (0x0F2000 + 4 * n) + 1) % 65536)) ∧
    (Issuing p s → d.toNat % 2 = 0 → d.toNat ≤ 12 →
      (∀ y, y = s.axis ((x.reg a + i.signExtend 32).toNat % 64) → exec (.hkAxr p d a i) s = .next (s.begun.setNcp p
        { (x.setReg d (if y.st.valid then BitVec.ofNat 32 ((y.eval s.ft).toNat / 65536) else 0)).setReg (d + 1)
          (BitVec.ofNat 32 ((if y.st.valid then (y.eval s.ft).toNat % 65536 * 65536 else 0) + bitAt y.st.isStale 4 +
            bitAt y.st.valid 3 + y.st.code)) with pc := x.pc + 4 })) ∧
      (∀ (k : Instr) (lo hi : Nat), (k, lo, hi) ∈ [(Instr.hkTimTime p d, s.ns, s.ns / 2 ^ 32),
          (.hkTimTick p d, s.tickCount, s.tickCount / 2 ^ 32),
          (.hkTimFraction p d, s.ft.toNat % 65536 + s.time.sync.code * 65536, s.ns)] →
        exec k s = .next (s.begun.setNcp p
          { (x.setReg d (BitVec.ofNat 32 lo)).setReg (d + 1) (BitVec.ofNat 32 hi) with pc := x.pc + 4 })))

/-- The event controller, lockstep and the watchdog of a pair (R397 to R399, R402, R404, R406, R407, R425, R433). Rests
on the model's own choices or readings of notes/assumptions/ 15, 117, 118. -/
def Obligations.NcpServes : Prop :=
  ∀ (p : Pair) (s : State) (x : Ncp), x = s.ncp p →
    (∀ l, s.topLevel p = some l ↔ (∃ n ∈ x.pend, s.levelOf p n = some l) ∧ s.levelOn p l = true ∧
      ∀ n ∈ x.pend, ∀ k, s.levelOf p n = some k → s.levelOn p k = true → k ≤ l) ∧
    (∀ l, s.topLevel p = some l → x.serving.headD 0 < l ∨ x.serving = [] → x.ie = true → s.running (pairFn p) = true →
      x.stopped = false → x.wait = none → exec (.eventTrap p) s = .next (s.begun.setNcp p { x with
        epc := x.pc, cause := 8, badaddr := 0, eflags := x.flags, pie := true, pmode := x.sys, ie := false, sys := true
        intrap := true, pc := x.tvec + 0x80, wfe := false, serving := l :: x.serving })) ∧
    (s.topLevel p = none ∨ x.ie = false → exec (.eventTrap p) s = .next s.begun) ∧
    (∀ src : Src,
      (x.serving = [] → exec (.ncpClaim src p) s = .next { s.begun with out := [.answer src stOk (leBytes 0 4)] }) ∧
      (∀ l r n, x.serving = l :: r → x.pend.find? (fun n => s.levelOf p n == some l) = some n → n ≠ pairSrc (otherPair p) →
        exec (.ncpClaim src p) s = .next ({ s.begun with
          out := [.answer src stOk (leBytes (2 ^ 31 + l * 2 ^ 16 + n) 4)] }.setNcp p { x with pend := x.pend.filter (· != n) }))) ∧
    exec (.ncpEoi p) s = .next (s.begun.setNcp p { x with serving := x.serving.tail }) ∧
    (∀ (pc : Word) (kind : BitVec 2), s.issues p = true ∨ s.running (pairFn p) = true → Roomy 1 s →
      Answers (.lockstepMismatch p pc kind) s fun t => (t.ncp p).stopped = true ∧
        t.rv (ncpBase p + 0x20) = pc.toNat / 4 * 4 + kind.toNat ∧
        t.rv (ncpBase p + 0x200) = min (s.rv (ncpBase p + 0x200) + 1) 0xFFFFFFFF ∧
        t.flt.prio = s.flt.prio ++ [faultMsg (pairSrc p) 0x18 3 0 0]) ∧
    (s.af (ncpBase p + 8) 15 0 ≠ 0 → exec (.watchdogKick p 0x0C5A) s = .next (s.begun.setNcp p { x with kick := some s.now })) ∧
    (∀ v : BitVec 16, s.af (ncpBase p + 8) 15 0 ≠ 0 → v ≠ 0x0C5A → Roomy 1 s → Answers (.watchdogKick p v) s fun t =>
      (t.ncp p).kick = some s.now ∧ t.rv (ncpBase p + 0x204) = min (s.rv (ncpBase p + 0x204) + 1) 0xFFFFFFFF ∧
      t.flt.prio = s.flt.prio ++ [faultMsg (pairSrc p) 0xD1 3 0 0]) ∧
    (∀ k, s.af (ncpBase p + 8) 15 0 ≠ 0 → x.kick = some k → s.running (pairFn p) = true → Roomy 1 s →
      Answers (.watchdogExpiry p) s fun t => t.now = max s.now (k + s.af (ncpBase p + 8) 15 0 * 625) ∧
        (t.ncp p).kick = some t.now ∧ t.rv (ncpBase p + 0x204) = min (s.rv (ncpBase p + 0x204) + 1) 0xFFFFFFFF ∧
        t.flt.prio = s.flt.prio ++ [faultMsg (pairSrc p) 0xD1 3 0 0]) ∧
    (x.testing = true →
      exec (.lockstepSelfTestDone p true) s = .next (s.begun.setNcp p { x with testing := false }) ∧
      (Roomy 1 s → (s.flt.aliveOn = true → s.aliveMay = true) → (s.func (pairFn p)).st = .running →
        Answers (.lockstepSelfTestDone p false) s fun t =>
        (t.func (pairFn p)).st = .halted ∧ (t.ncp p).stopped = true ∧
        t.flt.prio = s.flt.prio ++ [faultMsg (pairSrc p) 0xD0 3 0 0]))

/-- RETT restores what a trap saved, is privileged, and is the only command that takes a pair into task mode (R435). -/
def Obligations.HrkReturns : Prop :=
  ∀ p : Pair,
    (∀ (s : State) (x : Ncp), x = s.ncp p → Issuing p s →
      (x.sys = true → exec (.hkRett p) s = .next (s.begun.setNcp p { x with
        pc := x.epc, flags := x.eflags, ie := x.pie, sys := x.pmode, intrap := false })) ∧
      (x.sys = false → x.intrap = false →
        exec (.hkRett p) s = .next (s.begun.setNcp p (x.takeTrap 2 x.pc 0 0 0)))) ∧
    (∀ (i : Instr) (s t : State), exec i s = .next t → (s.ncp p).sys = true → (t.ncp p).sys = false → i = .hkRett p)

/-- Local spore queues and spore frames (R443, R445, R447 to R449): a GAP record once there is room, the frame that a
bound queue sends, delivery to a host queue of this hub without the ring, and what a received frame brings. Rests on the
model's own choices or readings of notes/assumptions/ 59, 120. -/
def Obligations.SporeQueuesServed : Prop :=
  (∀ (q : BitVec 4) (s : State) (x : LocalQueue), x = s.queue q.toNat → s.running 12 = true →
    (x.gapPend = false → exec (.localGapRecord q) s = .next s.begun) ∧
    (x.gapPend = true → x.recs.length < s.af (qBase q.toNat + 0xC) 8 0 → x.recs.length < 256 →
      Answers (.localGapRecord q) s fun t => (t.queue q.toNat).gapPend = false ∧ (t.queue q.toNat).gapCount = 0 ∧
        ∃ r, (t.queue q.toNat).recs = x.recs ++ [(r, s.now)] ∧ r.source = BitVec.ofNat 10 (512 + q.toNat) ∧ r.typ = 2 ∧
          r.gap = true ∧ r.kind = 0x0500 ∧ r.payload = BitVec.ofNat 64 (min x.gapCount 0xFFFFFFFF) ∧
          r.seq = BitVec.ofNat 16 (s.rv (0x0F2000 + 4 * (512 + q.toNat))))) ∧
  (∀ (q : BitVec 4) (s : State) (x : LocalQueue) (b k : Nat), x = s.queue q.toNat → b = qBase q.toNat →
    k = min x.recs.length 16 → s.running 12 = true → s.rf b 15 14 = 1 → x.recs ≠ [] → s.af (b + 8) 4 0 ≤ x.recs.length →
    x.gapPend = false → s.isOwn (s.rf (b + 4) 15 4) = false → s.running 3 = true → s.ringLeads = true →
    Answers (.sporeFrameSend q) s fun t => (t.queue q.toNat).recs = x.recs.drop k ∧
      t.rv (b + 0x1C) = min (s.rv (b + 0x1C) + k) 0xFFFFFFFF ∧
      ∃ o, t.fwd.held = s.fwd.held ++ [o] ∧ o.h.cls = 5 ∧ o.h.typ = 7 ∧ o.h.dest = BitVec.ofNat 12 (s.rf (b + 4) 15 4) ∧
        o.h.addr = BitVec.ofNat 48 (4 * 2 ^ 44 + s.rf b 13 8 * 2 ^ 32) ∧ o.h.stream = BitVec.ofNat 16 q.toNat ∧
        o.payload = beBytes k 4 ++ ((x.recs.take k).map (·.1)).flatMap Record.bytes) ∧
  (∀ (d : Delivered) (s : State) (n h : Nat) (x : HostQueue),
    s.fwd.inbox.find? (fun d => d.sink == .spore) = some d → d.h.mc = true ∨ d.ordered = true →
    n = beNat (slice d.payload 0 4) → h = d.h.addr.toNat / 2 ^ 32 % 256 → x = s.hq h →
    (n = 0 ∨ 16 < n ∨ d.h.len.toNat ≠ 1 + 8 * n ∨ 64 ≤ h → Answers .sporeFrameReceived s fun t =>
      t.fwd.inbox = s.fwd.inbox.erase d ∧ t.hostq = s.hostq ∧ t.rv 0x0F3210 = min (s.rv 0x0F3210 + 1) 0xFFFFFFFF) ∧
    (1 ≤ n → n ≤ 16 → d.h.len.toNat = 1 + 8 * n → h < 64 → s.hqReady h = false → Answers .sporeFrameReceived s fun t =>
      t.fwd.inbox = s.fwd.inbox.erase d ∧ t.hostq = s.hostq ∧ t.rv 0x0F320C = min (s.rv 0x0F320C + n) 0xFFFFFFFF) ∧
    (n = 1 → d.h.len.toNat = 9 → h < 64 → s.hqReady h = true → s.hqFull h = false → x.gapPend = false → x.wb = 0 →
      s.rf (hqReg h + 0x24) 7 0 = 0 → exec .sporeFrameReceived s = .next ({ s.begun with
        fwd := { s.fwd with inbox := s.fwd.inbox.erase d }
        out := [.hostWrite (x.base + 32 * (x.prod.toNat % 2 ^ (x.size + 4))) (parseRecord (slice d.payload 4 32)).bytes]
        }.setHq h { x with
          prod := x.prod + 1, unsig := x.unsig + 1, firstUnsig := if x.unsig = 0 then s.now else x.firstUnsig })))

/-- Host queues and MSI-X (R451 to R454): the enable, slots returned, the GAP record that takes the first of them, a
return of more slots than the queue has, and the moderated message. Rests on the model's own choices or readings of
notes/assumptions/ 121, 122, 123. -/
def Obligations.HostQueuesServed : Prop :=
  ∀ (src : Src) (h : BitVec 6) (v : Word) (s : State) (x : HostQueue) (b : Nat) (new : Word), x = s.hq h.toNat →
    b = hqReg h.toNat → new = maskedWrite (s.rg (b + 0x28)) 0xFFFF v →
    (∀ (vec : BitVec 6) (size : BitVec 4),
      (size.toNat < 12 → s.rb b 15 = false → Answers (.hostQueueEnable src h vec size) s fun t =>
        t.hq h.toNat = { base := s.wideAddr (b + 4), size := size.toNat, wb := s.wideAddr (b + 0x14) } ∧
        t.rv (b + 0x28) = 0 ∧ t.rf b 13 8 = vec.toNat ∧ t.rb b 15 = true) ∧
      (12 ≤ size.toNat → Answers (.hostQueueEnable src h vec size) s fun t =>
        t.hostq = s.hostq ∧ t.rv 0x010010 = min (s.rv 0x010010 + 1) 0xFFFFFFFF)) ∧
    (2 ^ (x.size + 4) < (x.prod - new.truncate 16).toNat → Answers (.hqconsWrite src h v) s fun t =>
      t.hostq = s.hostq ∧ t.rv (b + 0x28) = s.rv (b + 0x28) ∧ t.rv 0x010010 = min (s.rv 0x010010 + 1) 0xFFFFFFFF) ∧
    ((x.prod - new.truncate 16).toNat ≤ 2 ^ (x.size + 4) → x.gapPend = false →
      exec (.hqconsWrite src h v) s = .next (s.begun.setReg (b + 0x28) new)) ∧
    ((x.prod - new.truncate 16).toNat < 2 ^ (x.size + 4) → x.gapPend = true → s.rb b 15 = true →
      Answers (.hqconsWrite src h v) s fun t => (t.hq h.toNat).gapPend = false ∧ (t.hq h.toNat).prod = x.prod + 1 ∧
        t.rv (b + 0x28) = new.toNat ∧ ∃ r : Record, t.out.head? = some (.hostWrite (x.base + 32 * (x.prod.toNat % 2 ^ (x.size + 4)))
          r.bytes) ∧ r.typ = 2 ∧ r.kind = 0x0501 ∧ r.source = 537 ∧
          r.payload = BitVec.ofNat 64 (min x.gapCount 0xFFFFFFFF + h.toNat * 2 ^ 32)) ∧
    (x.unsig ≠ 0 → s.rf (b + 0x24) 15 8 ≠ 0 → s.rb b 15 = true → Answers (.msixModerationTimeout h) s fun t =>
      t.now = max s.now (x.firstUnsig + s.rf (b + 0x24) 15 8 * 6250) ∧ t.hq h.toNat = { x with unsig := 0 } ∧
      t.rv (b + 0x38) = min (s.rv (b + 0x38) + 1) 0xFFFFFFFF ∧
      (∀ m, m = 0x204000 + 0x10 * s.rf b 13 8 → s.pcie.msixEn = true → s.pcie.fmask = false → s.pcie.bme = true →
        s.rb (m + 0xC) 0 = false → t.out = [.msix (s.rf b 13 8) (BitVec.ofNat 64 (s.rv m + s.rv (m + 4) * 2 ^ 32))
          (s.rg (m + 8))])) ∧
    (x.unsig = 0 → exec (.msixModerationTimeout h) s = .next s.begun)

/-- The PCIe endpoint (R456, R457, R459, R460): its link, what the host configures, pending vectors that an unmasking
sends, a Function Level Reset, and BAR requests. Rests on the model's own choices or readings of notes/assumptions/ 122,
123, 125. -/
def Obligations.PcieServes : Prop :=
  (∀ (width speed : BitVec 3) (s : State), s.running 11 = true → exec (.pcieLinkUp width speed) s = .next { s.begun with
    pcie := { s.pcie with linkUp := true, width := width, speed := speed } }) ∧
  (∀ s : State, s.running 11 = true → s.pcie.linkUp = true → Answers .pcieLinkDown s fun t => t.pcie.linkUp = false ∧
    t.pcie.width = 0 ∧ t.pcie.speed = 0 ∧ t.pcie.bme = s.pcie.bme ∧ t.rv 0x200010 = min (s.rv 0x200010 + 1) 0xFFFFFFFF) ∧
  (∀ (bme en fmask : Bool) (d : BitVec 2) (s : State), s.running 11 = true → s.pcie.linkUp = true →
    Answers (.pcieConfigurationWrite bme en fmask d) s fun t =>
      ({ t.pcie with pba := 0 } : Pcie) = { s.pcie with bme := bme, msixEn := en, fmask := fmask, dstate := d, pba := 0 } ∧
      ∀ v < 64, nbit t.pcie.pba.toNat v =
        (nbit s.pcie.pba.toNat v && !(en && !fmask && bme && !s.rb (0x204000 + 0x10 * v + 0xC) 0))) ∧
  (∀ s : State, s.running 11 = true → Answers .functionLevelReset s fun t =>
    t.pcie.bme = false ∧ t.pcie.msixEn = false ∧ t.pcie.fmask = false ∧ t.pcie.dstate = 0 ∧ t.pcie.linkUp = s.pcie.linkUp ∧
    (∀ h < 64, t.rb (hqReg h) 15 = false) ∧ (∀ c < 8, t.rb (dmaReg c) 15 = false ∧ (t.dmac c).st = .idle) ∧
    (∀ v < 64, ∀ o ∈ [0, 4, 8, 12], t.rg (0x204000 + 0x10 * v + o) = factoryAt (0x204000 + 0x10 * v + o)) ∧
    t.rv 0x200014 = min (s.rv 0x200014 + 1) 0xFFFFFFFF) ∧
  (∀ (off : BitVec 24) (s : State), s.boot.request = 0 →
    (s.barOpen = false → ∀ write data, exec (.bar0Access off write data) s = .next s.begun) ∧
    (s.barOpen = true → off = 0x000008 →
      exec (.bar0Access off false [some 0, some 0, some 0, some 0]) s =
        .next { s.begun with out := [.completion 0 (leBytes (s.regValue 0x000008).toNat 4)] }) ∧
    (s.barOpen = true → off.toNat % 4 = 0 → ∀ v : Word, exec (.bar0Access off true ((leBytes v.toNat 4).map some)) s =
      exec (.registerWrite { port := 2, slot := s.slot, node := 0xFFF } off .word v) s)) ∧
  (∀ (off : BitVec 23) (len : BitVec 13) (data : List (Option Byte)) (bytes : List Byte) (ecc : EccResult) (s : State),
    s.boot.request = 0 → s.barOpen = true → 1 ≤ len.toNat → len.toNat ≤ 4096 →
    (off.toNat + len.toNat ≤ 0x200000 →
      exec (.bar4Access off false len data .clean) s = .next { s.begun with
        out := [.completion 0 (memReadN s.shared off.toNat len.toNat)] } ∧
      (bytes.length = len.toNat → exec (.bar4Access off true len (bytes.map some) ecc) s = .next { s.begun with
        shared := memWriteN s.shared off.toNat bytes })) ∧
    (0x380000 ≤ off.toNat → off.toNat + len.toNat ≤ 0x400000 →
      exec (.bar4Access off false len data ecc) s = .next { s.begun with out := [.completion 1 []] }))

/-- DMA channels (R461 to R465): the enable and the disable, descriptors handed over, how a descriptor ends, and a host
read that never completes. Rests on the model's own choices or readings of notes/assumptions/ 123, 124. -/
def Obligations.DmaChannelsServed : Prop :=
  ∀ (src : Src) (c : BitVec 3) (v : Word) (desc : List Byte) (s : State) (x : Dma) (n b haddr aper len ctl : Nat), n = c.toNat →
    b = dmaReg n → x = s.dmac n → haddr = leNat (slice desc 0 8) → aper = leNat (slice desc 8 4) →
    len = leNat (slice desc 12 4) → ctl = leNat (slice desc 16 4) →
    (∀ (vec : BitVec 6) (size : BitVec 4),
      (size.toNat ≤ 8 → s.rb b 15 = false → Answers (.dmaEnable src c vec size) s fun t =>
        t.dmac n = { st := .running, base := s.wideAddr (b + 4), size := size.toNat } ∧ t.rv (b + 0x14) = 0) ∧
      (9 ≤ size.toNat → Answers (.dmaEnable src c vec size) s fun t =>
        t.dma = s.dma ∧ t.rv 0x010010 = min (s.rv 0x010010 + 1) 0xFFFFFFFF)) ∧
    (s.rf b 3 0 ≤ 8 → s.rb b 15 = true → x.st = .running →
      (x.reading = none → Answers (.dmaDisable src c) s fun t => (t.dmac n).st = .idle ∧ t.rb b 15 = false) ∧
      (∀ k, x.reading = some k → Answers (.dmaDisable src c) s fun t =>
        t.dmac n = { x with st := .stopping, stopAt := x.head + 1 } ∧ t.rb b 15 = false)) ∧
    (x.st = .running → x.reading = none → maskedWrite (s.rg (b + 0x14)) 0xFFFF v ≠ x.head.zeroExtend 32 →
      Answers (.dmaTailWrite c v) s fun t => t.dmac n = { x with reading := some s.now } ∧
        t.rg (b + 0x14) = maskedWrite (s.rg (b + 0x14)) 0xFFFF v) ∧
    (s.dmaDue n = false ∨ x.reading = none → exec (.dmaDescriptorComplete c desc) s = .next s.begun) ∧
    (s.dmaDue n = true → x.reading.isSome = true → desc.length = 32 →
      (haddr % 4 ≠ 0 ∨ 2 ^ 30 ≤ aper ∨ len = 0 ∨ 1048576 < len ∨ len % 4 ≠ 0 ∨ 8 ≤ ctl ∨ leNat (slice desc 28 4) ≠ 0 →
        Answers (.dmaDescriptorComplete c desc) s fun t =>
          t.dmac n = { x with st := .error, head := x.head + 1, lastStatus := BitVec.ofNat 8 stFormat, reading := none, parts := [] } ∧
          t.rv (b + 0x24) = min (s.rv (b + 0x24) + 1) 0xFFFFFFFF) ∧
      (∀ d, haddr % 4 = 0 → aper < 2 ^ 30 → 1 ≤ len → len ≤ 1048576 → len % 4 = 0 → ctl < 2 → leNat (slice desc 28 4) = 0 →
        x.parts = [(aper, len, stOk, d)] → Answers (.dmaDescriptorComplete c desc) s fun t =>
          t.out = (if ctl = 1 then [.hostWrite haddr d] else []) ++
            [.hostWrite (x.base + 32 * (x.head.toNat % 2 ^ (x.size + 4)) + 20) (leBytes 1 4 ++ leBytes len 4)] ∧
          (t.dmac n).head = x.head + 1 ∧ (t.dmac n).lastStatus = 0 ∧ (t.dmac n).parts = [] ∧
          t.rv (b + 0x20) = min (s.rv (b + 0x20) + 1) 0xFFFFFFFF) ∧
      (∀ st d, haddr % 4 = 0 → aper < 2 ^ 30 → 1 ≤ len → len ≤ 1048576 → len % 4 = 0 → ctl < 8 → leNat (slice desc 28 4) = 0 →
        st ≠ stOk → x.parts = [(aper, len, st, d)] → Answers (.dmaDescriptorComplete c desc) s fun t =>
          (t.dmac n).st = .error ∧ (t.dmac n).head = x.head + 1 ∧ (t.dmac n).lastStatus = BitVec.ofNat 8 st)) ∧
    (∀ k, x.reading = some k → s.dmaDue n = true → Answers (.dmaHostReadTimeout c) s fun t =>
      t.now = max s.now (k + 31250000) ∧ (t.dmac n).st = .error ∧ (t.dmac n).head = x.head + 1 ∧
      (t.dmac n).lastStatus = BitVec.ofNat 8 stTimeout ∧ t.rv 0x200018 = min (s.rv 0x200018 + 1) 0xFFFFFFFF)

/-- The lowest-numbered entry that matches classifies a message, and entry 255 one that no other matches (R471); the
VALID bit of entry 255 reads 1. -/
def Obligations.LowestEntryClassifies : Prop :=
  ∀ (s : State) (m : DWord), (∃ e : Nat, s.classify m = e) ∧
    (∀ e : Nat, s.classify m = e ↔ e ≤ 255 ∧ (∀ k < e, ¬ (nbit (s.rv (0x212000 + 0x20 * k)) 15 = true ∧
        nbits (s.rv (0x212000 + 0x20 * k)) 9 0 ≤ nbits m.toNat 63 54 ∧
        nbits m.toNat 63 54 ≤ nbits (s.rv (0x212004 + 0x20 * k)) 9 0 ∧
        (nbits m.toNat 53 46 ^^^ nbits (s.rv (0x212008 + 0x20 * k)) 7 0) &&& nbits (s.rv (0x212008 + 0x20 * k)) 15 8 = 0)) ∧
      (e < 255 → nbit (s.rv (0x212000 + 0x20 * e)) 15 = true ∧
        nbits (s.rv (0x212000 + 0x20 * e)) 9 0 ≤ nbits m.toNat 63 54 ∧
        nbits m.toNat 63 54 ≤ nbits (s.rv (0x212004 + 0x20 * e)) 9 0 ∧
        (nbits m.toNat 53 46 ^^^ nbits (s.rv (0x212008 + 0x20 * e)) 7 0) &&& nbits (s.rv (0x212008 + 0x20 * e)) 15 8 = 0)) ∧
    nbit (s.regValue 0x213FE0).toNat 15 = true

/-- A message classified and applied below level 3 (R468, R472, R474, R475): its entry's count, window and PEND, what is
counted, and that nothing halts; while function 15 does not run it is applied at its proposed level, under no entry.
Rests on the model's own choices or readings of notes/assumptions/ 128. -/
def Obligations.MessagesClassified : Prop :=
  ∀ (m : DWord) (s : State), s.takeMsg.map (·.1) = some m → PairSteady s →
    (∀ (e n c l0 l : Nat) (x : FltEntry) (old severe : Bool), s.running 15 = true → e = s.classify m → x = s.fltEntry e →
      old = decide (x.c = 0 ∨ 6250000 * 2 ^ s.rf (0x21200C + 0x20 * e) 11 8 ≤ (s.fltTick + 2 ^ 64 - x.w) % 2 ^ 64) →
      c = (if old then 0 else x.c) + 1 → n = s.rf (0x21200C + 0x20 * e) 15 12 → severe = decide (n ≠ 0 ∧ n ≤ c) →
      l0 = (if severe then s.rf (0x21200C + 0x20 * e) 7 5
        else if s.rf (0x212004 + 0x20 * e) 15 13 = 7 then nbits m.toNat 45 43 else s.rf (0x212004 + 0x20 * e) 15 13) →
      l = (if s.rb (0x212000 + 0x20 * e) 14 = true ∧ x.pend = true then min (l0 + 1) 4 else l0) →
      nbits m.toNat 53 46 ≠ 0x18 → l ≤ 2 → Answers .faultMessageProcess s fun t =>
        t.fltEntry e = { c := if severe then 0 else c, w := if old then s.fltTick else x.w
                         pend := x.pend || decide (1 ≤ l), last := l } ∧
        t.rv 0x210040 = min (s.rv 0x210040 + 1) 0xFFFFFFFF ∧ t.rv (0x210044 + 4 * l) = min (s.rv (0x210044 + 4 * l) + 1) 0xFFFFFFFF ∧
        t.rv (0x214400 + 4 * e) = min (s.rv (0x214400 + 4 * e) + 1) 0xFFFFFFFF ∧ t.funcs = s.funcs ∧ t.flt.safe = s.flt.safe ∧
        t.flt.cause = s.flt.cause) ∧
    (s.running 15 = false → nbits m.toNat 45 43 ≤ 2 → Answers .faultMessageProcess s fun t =>
      t.flt.entries = s.flt.entries ∧ t.rv 0x210040 = min (s.rv 0x210040 + 1) 0xFFFFFFFF ∧
      t.rv (0x210044 + 4 * nbits m.toNat 45 43) = min (s.rv (0x210044 + 4 * nbits m.toNat 45 43) + 1) 0xFFFFFFFF ∧
      t.funcs = s.funcs ∧ t.flt.safe = s.flt.safe)

/-- The reactions of levels 3 and 4 (R42, R43, R402, R473, R475, R476, R478): a message that carries its level halts the
target with its children, and at level 4 the hub enters node safe, with the cause and the field set HALTED. -/
def Obligations.ReactionsHalt : Prop :=
  (∀ (m : DWord) (r : List DWord) (id : Nat) (s : State), s.flt.prio = m :: r → s.running 15 = false →
    nbits m.toNat 45 43 = 3 → sourceOwner (nbits m.toNat 63 54) = some id → 5 ∉ id :: childrenOf id → nbits m.toNat 53 46 ≠ 0x18 →
    (s.flt.aliveOn = true → s.aliveMay = true) → PairSteady s → Answers .faultMessageProcess s fun t =>
      (∀ c, c = id ∨ c ∈ childrenOf id → s.active c = true → (t.func c).st = .halted) ∧ t.flt.prio = r ∧
      t.flt.safe = s.flt.safe ∧ t.flt.cause = s.flt.cause) ∧
  (∀ (m : DWord) (r : List DWord) (s : State), s.flt.prio = m :: r → s.running 15 = false → nbits m.toNat 45 43 = 4 →
    sourceOwner (nbits m.toNat 63 54) = none → s.flt.safe = false → PairSteady s → Answers .faultMessageProcess s fun t =>
      t.flt.safe = true ∧ t.flt.safeAck = false ∧ t.flt.cause = m ∧ t.flt.causeEntry = none ∧ t.flt.aliveOn = false ∧
      (∀ id < 256, s.fieldSet id = true → s.active id = true → (t.func id).st = .halted) ∧
      t.rv 0x210068 = min (s.rv 0x210068 + 1) 0xFFFFFFFF) ∧
  (∀ (p : Pair) (v : BitVec 16) (s : State), s.af (ncpBase p + 8) 15 0 ≠ 0 → v ≠ 0x0C5A → s.flt.prio.length = 16 →
    s.flt.safe = false → Answers (.watchdogKick p v) s fun t => t.flt.safe = true ∧ t.flt.safeAck = false ∧
      t.flt.cause = faultMsg 768 0xE1 4 0 0 ∧ t.flt.causeEntry = none ∧ t.flt.prio = s.flt.prio)

/-- Acknowledgement and the exit from node safe (R485, R486). The line dies and the ALIVE line (R479, R481 to R483): a
die whose link is silent puts its lines to SAFE, releases its RS-485 drivers and raises kind 0xE3; its link returns;
ALIVE toggles while its conditions hold, and stops. Rests on the model's own choices or readings of notes/assumptions/
92, 129. -/
def Obligations.NodeSafeEndsAndDies : Prop :=
  ((∀ (entry : BitVec 8) (s : State) (x : FltEntry), x = s.fltEntry entry.toNat →
     (s.flt.safe = true → s.flt.causeEntry = some entry.toNat →
       Answers (.fltAck entry) s fun t => t.flt.safeAck = true ∧ t.flt.safe = true ∧
         t.fltEntry entry.toNat = { x with pend := false }) ∧
     (x.pend = true → s.flt.causeEntry ≠ some entry.toNat →
       exec (.fltAck entry) s = .next (s.begun.setFltEntry entry.toNat { x with pend := false })) ∧
     (x.pend = false → s.flt.safe = false →
       exec (.fltAck entry) s = .next (s.begun.bump 0x21006C))) ∧
   (∀ s : State,
     (s.flt.entries.any (fun e => e.2.pend) = true ∨ s.flt.safeAck = false → Answers .fltAckAll s fun t =>
       t.flt.safeAck = true ∧ t.flt.safe = s.flt.safe ∧ (∀ e, t.fltEntry e = { s.fltEntry e with pend := false }) ∧
       t.rv 0x21006C = s.rv 0x21006C) ∧
     (s.flt.entries.any (fun e => e.2.pend) = false → s.flt.safeAck = true →
       exec .fltAckAll s = .next (s.begun.bump 0x21006C))) ∧
   (∀ (src : Src) (s : State), s.boot.request = 0 → s.keyHeldBy src = true →
     (s.flt.safe = true → s.flt.safeAck = true → s.dieUp 0 = true → s.dieUp 1 = true → Answers (.safeExit src) s fun t =>
       t.flt.safe = false ∧ t.flt.exitRef = false ∧ t.funcs = s.funcs ∧ t.lines = s.lines ∧ t.key = {}) ∧
     (s.flt.safe = false ∨ s.flt.safeAck = false ∨ s.dieUp 0 = false ∨ s.dieUp 1 = false → Answers (.safeExit src) s fun t =>
       t.flt.safe = s.flt.safe ∧ t.flt.safeAck = s.flt.safeAck ∧ t.flt.exitRef = true ∧ t.funcs = s.funcs ∧
       t.rv 0x21006C = min (s.rv 0x21006C + 1) 0xFFFFFFFF))) ∧
  ((∀ (die : Die) (s : State) (d : Nat), d = (match die with
       | .la => 0
       | .lb => 1) → Roomy 1 s → PairSteady s → s.boot.request = 0 →
     (Answers (.lineDieLinkLost die) s fun t => (t.die d).linkUp = false ∧ (t.die d).lost = true ∧ (t.die d).lostAt = s.now ∧
       t.flt.prio = s.flt.prio ++ [faultMsg 769 0xE3 4 d 0] ∧
       (∀ l, l / 128 = d → (s.lines.map Prod.fst).contains l = true → (t.line l).safed = true ∧
         (t.line l).cmd = s.safeLevel l (s.line l).cmd ∧ (t.line l).deferred = none) ∧
       (∀ l, l / 128 ≠ d → t.line l = s.line l) ∧
       (∀ k, k / 16 = d → (t.uart k).driver = false ∧ (t.uart k).sending = none) ∧
       (∀ k < 8, s.pccut (8 * d + k) = true → (t.chan (8 * d + k)).st = .safeoff)) ∧
     (s.boot.ldWait = [] → Answers (.lineDieLinkUp die) s fun t => (t.die d).linkUp = true ∧ (t.die d).lost = false ∧
       t.lines = s.lines ∧ t.funcs = s.funcs)) ∧
   (∀ s : State,
     (s.aliveMay = true → s.flt.aliveOn = true → exec .aliveToggle s = .next { s.begun with
       now := max s.now (s.flt.aliveSince + s.rf 0x210000 3 0 * 625), out := [.alive (!s.flt.aliveLevel)]
       flt := { s.flt with
         aliveLevel := !s.flt.aliveLevel, aliveSince := max s.now (s.flt.aliveSince + s.rf 0x210000 3 0 * 625) } }) ∧
     (s.aliveMay = true → s.flt.aliveOn = false → s.pair.role ≠ .fallen → exec .aliveToggle s = .next { s.begun with
       out := [.alive true], flt := { s.flt with aliveOn := true, aliveLevel := true, aliveSince := s.now } }) ∧
     (s.aliveMay = false → s.flt.aliveOn = false → exec .aliveToggle s = .next s.begun) ∧
     (s.aliveMay = false → s.flt.aliveOn = true → s.pair.role ≠ .leading → s.pair.role ≠ .taking → s.pair.role ≠ .giving →
       exec .aliveToggle s = .next { s.begun with
         out := [.alive false], flt := { s.flt with aliveOn := false, aliveLevel := false } })))

/-- Who leads (R489, R491, R492, R494 to R500): the decision of a hub that enters the pair logic, the wait and the probe
of slot 0, the take-over, and a hub that falls and rests again. Rests on the model's own choices or readings of
notes/assumptions/ 148, 149, 150, 151, 159. -/
def Obligations.PairDecides : Prop :=
  (∀ s : State, s.boot.valid = true → s.ident.straps.testen = false → s.pair.entered = none → s.pair.role = .none →
    (s.slot = 1 → Answers .pairLogicEntry s fun t => EntersSafe s t ∨
      t.pair.role = .resting ∧ t.pair.rest = true ∧ t.ident.lead = false ∧ t.pair.entered = some s.now) ∧
    (s.slot = 0 → s.flt.peerAlive = false ∨ s.twinUp = true ∧ s.peerLead = false → Answers .pairLogicEntry s fun t =>
      t.pair.role = .leading ∧ t.pair.rest = false ∧ t.ident.lead = true ∧ t.pair.waiting = false ∧ t.pair.baseDue = true) ∧
    (s.slot = 0 → s.flt.peerAlive = true → s.twinUp = true → s.peerLead = true → Answers .pairLogicEntry s fun t =>
      EntersSafe s t ∨ t.pair.role = .resting ∧ t.ident.lead = false) ∧
    (s.slot = 0 → s.flt.peerAlive = true → s.twinUp = false → exec .pairLogicEntry s = .next { s.begun with
      pair := { s.pair with entered := some s.now, lowSince := s.now, waiting := true } })) ∧
  (∀ s : State, s.boot.valid = false ∨ s.ident.straps.testen = true → exec .pairLogicEntry s = .next s.begun) ∧
  (∀ (e : Nat) (s : State), s.pair.waiting = true → s.pair.entered = some e → s.flt.peerAlive = true → s.twinUp = false →
    Answers .twinWaitTimeout s fun t => EntersSafe s t ∨ (e + 62500000 ≤ t.now ∧ s.now ≤ t.now ∧ t.pair.waiting = false ∧
      (s.pair.role = .none → t.pair.role = if s.rb 0x041000 6 then .probing else .resting))) ∧
  (∀ s : State, s.pair.role = .probing →
    (s.ringAnswers = true → Answers .probeResultTimeout s fun t => t.pair.role = .leading ∧ t.ident.lead = true) ∧
    (s.ringAnswers = false → Answers .probeResultTimeout s fun t => EntersSafe s t ∨
      (s.pair.probeAt + 62500000 ≤ t.now ∧ s.now ≤ t.now ∧ t.pair.role = .resting ∧ t.rv 0x041094 = min (s.rv 0x041094 + 1) 0xFFFFFFFF))) ∧
  (∀ s : State, s.pair.role = .resting → s.slot = 0 → s.pair.probeAt ≠ 0 → s.flt.peerAlive = true → s.twinUp = false →
    Answers .probeRepeat s fun t => EntersSafe s t ∨
      (s.pair.probeAt + 6250000000 ≤ t.now ∧ s.now ≤ t.now ∧ t.pair.role = .probing ∧ t.pair.probeAt = t.now)) ∧
  (∀ (e : Nat) (s : State), s.pair.role = .resting → s.flt.peerAlive = false → s.pair.fromFallen = false →
    s.pair.entered = some e → s.slot = 1 → s.pair.seenAlive = false → Answers .bootwaitExpiry s fun t =>
      EntersSafe s t ∨ (e + s.af 0x041008 15 0 * 625000 ≤ t.now ∧ s.now ≤ t.now ∧ t.pair.role = .leading ∧ t.ident.lead = true ∧
        t.pair.cold = true ∧ t.rv 0x041080 = min (s.rv 0x041080 + 1) 0xFFFFFFFF)) ∧
  (∀ s : State, s.flt.peerAlive = true → s.pairRuns = true → s.pair.role = .resting → s.rb 0x041000 5 = true →
    s.linkT.lastSup = 0 → Answers .peerAliveLost s fun t => EntersSafe s t ∨ (t.flt.peerAlive = false ∧ t.pair.role = .leading ∧
      t.ident.lead = true ∧ t.pair.cold = (s.pair.sync != .insync) ∧
      t.rv 0x041080 = min (s.rv 0x041080 + 1) 0xFFFFFFFF)) ∧
  (∀ s : State, s.flt.peerAlive = true → s.pairRuns = true → s.pair.role = .leading → Answers .peerAliveLost s fun t =>
    t.flt.peerAlive = false ∧ t.pair.role = .leading ∧ t.ident = s.ident) ∧
  (∀ s : State, PairSteady s → Answers .peerAlivePresent s fun t => t.flt.peerAlive = true ∧ t.pair.seenAlive = true ∧
    t.pair.fromFallen = false ∧ t.pair.role = s.pair.role) ∧
  (∀ s : State, s.aliveMay = false → s.flt.aliveOn = true → s.pair.role = .leading → Answers .aliveToggle s fun t =>
    EntersSafe s t ∨ (t.flt.aliveOn = false ∧ t.pair.role = .fallen ∧ t.ident.lead = false ∧ t.pair.fallenAt = s.now ∧
      t.pair.rest = false)) ∧
  (∀ s : State, s.pair.role = .fallen → s.pair.rest = false → Answers .fallenSafeEnd s fun t =>
    t.now = max s.now (s.pair.fallenAt + 1250000) ∧ t.pair = { s.pair with rest := true } ∧
    ∀ k < 32, (t.uart k).driver = false) ∧
  (∀ s : State, s.aliveMay = true → s.flt.aliveOn = false → s.pair.role = .fallen → Answers .aliveToggle s fun t =>
    EntersSafe s t ∨ t.flt.aliveOn = true ∧ t.flt.aliveLevel = true ∧ t.pair.role = .resting ∧
      t.pair.fromFallen = !s.flt.peerAlive ∧ t.pair.lowSince = t.now)

/-- Checkpoints (R502, R503, R505): what a leading hub sends, what a resting one takes into its copy, what it discards,
and the silence that ends INSYNC. Health reports and the resting hub's self-test (R513, R514). Rests on the model's own
choices or readings of notes/assumptions/ 153, 154, 155, 156. -/
def Obligations.CheckpointsAndHealth : Prop :=
  ((∀ s : State, s.pairTalks = true → s.pair.role = .leading → Answers .checkpointIncrementSend s fun t =>
     t.now = max s.now (s.pair.ckAt + 156250 * 2 ^ s.rf 0x041000 11 9) ∧ t.pair.ckSeq = s.pair.ckSeq + 1 ∧ t.pair.ckAt = t.now ∧
     t.pair.baseDue = false ∧ ∃ recs, t.out = [.checkpoint (s.pair.ckSeq + 1) s.pair.baseDue recs] ∧
       (∃ ft, CkptRecord.time ft s.time.base ∈ recs) ∧
       ∀ i, (validSlots s.act.bank).contains i = true → s.pair.baseDue = true → ∃ b, CkptRecord.action i b (s.actInfo i) ∈ recs) ∧
   (∀ s : State, s.pairTalks = false → exec .checkpointIncrementSend s = .next s.begun) ∧
   (∀ (seq : Word) (recs : List CkptRecord) (s : State), s.pairTalks = true → s.pair.role = .resting → s.ckptForeign = false →
     s.pair.t0 = none →
     (s.pair.sync ≠ .loading → Answers (.checkpointPartReceived seq true recs true true) s fun t =>
       t.pair.copy = ckptMerge [] recs ∧ t.pair.sync = .insync ∧ t.pair.ckSeq = seq ∧ t.pair.ckAt = s.now ∧ t.pair.staged = [] ∧
       t.rv 0x041090 = min (s.rv 0x041090 + 1) 0xFFFFFFFF) ∧
     (s.pair.sync ≠ .loading → ∀ ok, Answers (.checkpointPartReceived seq true recs false ok) s fun t =>
       t.pair.copy = s.pair.copy ∧ t.pair.sync = .loading ∧ t.pair.staged = recs) ∧
     (s.pair.sync = .insync → seq = s.pair.ckSeq + 1 → Answers (.checkpointPartReceived seq false recs true true) s fun t =>
       t.pair.copy = ckptMerge s.pair.copy (s.pair.staged ++ recs) ∧ t.pair.sync = .insync ∧ t.pair.ckSeq = seq) ∧
     (∀ ok, ok = false ∨ seq ≠ s.pair.ckSeq + 1 → Answers (.checkpointPartReceived seq false recs true ok) s fun t =>
       t.pair.copy = s.pair.copy ∧ t.pair.sync = .gap ∧ t.pair.ckSeq = s.pair.ckSeq ∧
       t.rv 0x04108C = min (s.rv 0x04108C + 1) 0xFFFFFFFF)) ∧
   (∀ (copy recs : List CkptRecord) (off : Nat) (v : Word),
     (CkptRecord.register off v ∈ recs → CkptRecord.register off v ∈ ckptMerge copy recs) ∧
     (CkptRecord.register off v ∈ copy → (∀ w, CkptRecord.register off w ∉ recs) → CkptRecord.register off v ∈ ckptMerge copy recs)) ∧
   (∀ s : State, s.pair.role = .resting → s.pair.sync = .insync → exec .checkpointSilence s = .next { s.begun with
     now := max s.now (s.pair.ckAt + 3 * (156250 * 2 ^ s.rf 0x041000 11 9)), pair := { s.pair with sync := .gap } })) ∧
  ((∀ s : State, s.pairTalks = true → Answers .healthReportSend s fun t => ∃ o, t.fwd.held = s.fwd.held ++ [o] ∧
     o.h.cls = 3 ∧ o.h.typ = 7 ∧ o.h.mc = true ∧ o.h.dest = 0xFFE ∧ o.h.addr = 0x800000000000 ∧ o.payload =
       beBytes 0x01000000 4 ++ (List.range 8).flatMap (fun w => beBytes (s.healthWord w) 4)) ∧
   (∀ s : State, s.pairTalks = false → exec .healthReportSend s = .next s.begun) ∧
   (∀ (d : Delivered) (s : State),
     s.fwd.inbox.find? (fun d => d.sink == .pairMsg && (d.payload.headD 0).toNat == 1) = some d → PairSteady s →
     (d.payload.length = 36 → s.pair.role ≠ .resting → Answers .healthReportReceived s fun t =>
       t.fwd.inbox = s.fwd.inbox.erase d ∧
       ∀ w < 8, tabGet (0 : Word) t.pair.peerHealth w = BitVec.ofNat 32 (beNat (slice d.payload (4 + 4 * w) 4))) ∧
     (d.payload.length ≠ 36 → exec .healthReportReceived s = .next { s.begun with
       fwd := { s.fwd with inbox := s.fwd.inbox.erase d } })) ∧
   (∀ (check : BitVec 4) (s : State), s.pair.role = .resting → s.pair.waiting = false →
     ((s.mem 0x25).failed = false → Answers (.restingHubSelfTest check true) s fun t => t.pair.selfTest = true ∧
       t.pair.rounds = min (s.pair.rounds + 1) 0xFFFF) ∧
     (Answers (.restingHubSelfTest check false) s fun t => t.pair.selfTest = false ∧ t.pair.rounds = s.pair.rounds)))

/-- Handovers (R510 to R512): requests and who refuses them, the grant, the freeze, the switch and the end, an abort,
and the commands of TWIN.PCMD. Rests on the model's own choices or readings of notes/assumptions/ 155, 157, 158. -/
def Obligations.HandoversRun : Prop :=
  (∀ s : State, s.pairRuns = true →
    (s.pair.role = .leading → s.pairTalks = true → s.peerFit = true → ∀ p, p = 156250 * 2 ^ s.rf 0x041000 11 9 →
      Answers (.handoverMessageReceived .request) s fun t => t.pair.role = .giving ∧ t.ident.lead = true ∧ t.pair.froze = false ∧
        t.pair.t0 = some (if s.now < s.pair.ckAt + p then s.pair.ckAt + p else s.now + p)) ∧
    (s.pair.role ≠ .leading ∨ s.peerFit = false → Answers (.handoverMessageReceived .request) s fun t =>
      t.pair = s.pair ∧ t.rv 0x041088 = min (s.rv 0x041088 + 1) 0xFFFFFFFF) ∧
    (s.mayReceive = true → ∀ k, Answers (.handoverMessageReceived (.grant k)) s fun t =>
      t.pair.role = .receiving ∧ t.pair.t0 = some (s.now + k) ∧ t.pair.finalIn = none ∧ t.pair.switched = false ∧
      t.ident.lead = false) ∧
    (s.mayReceive = true → s.fwd.inbox = [] → exec (.handoverMessageReceived .offer) s =
      .next { s.begun with out := [.handover .request] }) ∧
    (s.pair.role = .giving → s.pair.froze = false → ∀ c, Answers (.handoverMessageReceived (.abort c)) s fun t =>
      t.pair.role = .leading ∧ t.pair.t0 = none ∧ t.pair.frozen = false ∧ t.ident.lead = true ∧
      t.rv 0x041088 = min (s.rv 0x041088 + 1) 0xFFFFFFFF) ∧
    (s.pair.role = .leading → s.fwd.inbox = [] → exec (.handoverMessageReceived .baseRequest) s = .next { s.begun with
      pair := { s.pair with baseDue := true } })) ∧
  (∀ (k : Nat) (s : State), s.pair.role = .giving → s.pair.t0 = some k → s.pair.froze = false →
    Answers .handoverFreeze s fun t => EntersSafe s t ∨ (k ≤ t.now ∧ s.now ≤ t.now ∧ t.pair.froze = true ∧ t.pair.frozen = true ∧
      t.pair.ckSeq = s.pair.ckSeq + 1 ∧ t.pair.ckAt = t.now ∧
      ∀ id < 256, s.leadSet id = true → (t.func id).st ≠ .running)) ∧
  (∀ (k : Nat) (s : State), s.pair.role = .receiving → s.pair.finalIn = some k → s.pair.switched = false →
    exec .handoverSwitch s = .next { s.begun with
      now := max s.now (k + 62500), out := [.lead true], pair := { s.pair with switched := true }
      ident := { s.ident with lead := true } }) ∧
  (∀ s : State, s.pair.role = .giving → s.pair.froze = true → Answers .handoverSwitch s fun t => EntersSafe s t ∨
    t.pair.role = .resting ∧ t.pair.rest = true ∧ t.ident.lead = false ∧ t.pair.t0 = none ∧
    t.rv 0x041084 = min (s.rv 0x041084 + 1) 0xFFFFFFFF) ∧
  (∀ s : State, s.pair.role = .receiving → s.pair.switched = true → Answers .handoverDone s fun t => EntersSafe s t ∨
    t.pair.role = .leading ∧ t.ident.lead = true ∧ t.pair.frozen = false ∧ t.pair.t0 = none ∧ t.pair.baseDue = true ∧
    t.rv 0x041084 = min (s.rv 0x041084 + 1) 0xFFFFFFFF) ∧
  (∀ s : State,
    (s.mayReceive = true → s.slot = 0 → exec .pairHandback s = .next { s.begun with out := [.handover .request] }) ∧
    (s.handing = true ∨ s.slot ≠ 0 ∨ s.pair.role ≠ .resting → exec .pairHandback s = .next (s.begun.bump 0x041098)) ∧
    (s.pair.role = .leading → s.pairTalks = true → s.peerFit = true →
      exec .pairYield s = .next { s.begun with out := [.handover .offer] }) ∧
    (s.pair.role ≠ .leading → exec .pairYield s = .next (s.begun.bump 0x041098)) ∧
    (s.pair.role = .leading → exec .pairResync s = .next { s.begun with pair := { s.pair with baseDue := true } }) ∧
    (s.pair.role = .resting → s.pairTalks = true → exec .pairResync s = .next { s.begun with
      out := [.handover .baseRequest] }) ∧
    (s.pair.held = false → exec .pairHold s = .next { s.begun with
      pair := { s.pair with held := true, holdSince := none } }) ∧
    (s.pair.held = true → exec .pairHold s = .next (s.begun.bump 0x041098)) ∧
    (s.pair.held = true → PairSteady s → Answers .pairRelease s fun t => t.pair.held = false ∧ t.pair.role = s.pair.role) ∧
    (s.pair.held = false → exec .pairRelease s = .next (s.begun.bump 0x041098)) ∧
    (∀ k, s.pair.holdSince = some k → s.holdoffRuns = true → s.mayReceive = true → exec .handbackHoldoffExpiry s =
      .next { s.begun with
        now := max s.now (k + s.af 0x041004 15 0 * 625000000), out := [.handover .request]
        pair := { s.pair with holdSince := some (max s.now (k + s.af 0x041004 15 0 * 625000000)) } }))

/-- A step takes the command at the front of the queue and runs it on the state with the queue's rest; on an empty queue
one core tick passes with nothing put out, which is the model's choice. Rests on the model's own choices or readings of
notes/assumptions/ 1, 3. -/
def Obligations.StepRunsFront : Prop :=
  (∀ (c : Instr) (rest : List Instr) (s : State), step { s with pending := c :: rest } = exec c { s with pending := rest }) ∧
  (∀ s : State, s.pending = [] → step s = .next { s with now := s.now + 1, out := [], raised := [] })

/-- The machine right after reset (R20, R38, R73, R397, R431, R468, R478, R489, R551, R582): no command waits, every
function is STOPPED or ABSENT, no image is applied, the pair logic has not been entered, the collector is empty,
memories are empty, the pairs have their fresh system registers, and what the invariants below say holds. Rests on the
model's own choices or readings of notes/assumptions/ 3, 9, 10. -/
def Obligations.ResetState : Prop :=
  State.reset.pending = [] ∧ Settled State.reset ∧ MemoriesCanonical State.reset ∧ WithinCapacity State.reset ∧
  (∀ id < 256, (State.reset.func id).st = .stopped ∨ (State.reset.func id).st = .absent) ∧
  State.reset.boot.valid = false ∧ State.reset.ident.number = 0xFFF ∧ State.reset.ident.lead = false ∧
  State.reset.pair.role = .none ∧ State.reset.pair.sync = .none ∧ State.reset.flt.safe = false ∧ State.reset.flt.aliveOn = false ∧
  State.reset.flt.prio = [] ∧ State.reset.flt.norm = [] ∧ State.reset.shared = [] ∧ State.reset.keyOpen = false ∧
  (∀ p : Pair, (State.reset.ncp p).sys = true ∧ (State.reset.ncp p).ie = false ∧ (State.reset.ncp p).tvec = 0x10000000 ∧
    (State.reset.ncp p).epc = 0 ∧ (State.reset.ncp p).cause = 0 ∧ (∀ r, (State.reset.ncp p).reg r = 0)) ∧
  (∀ h < 64, State.reset.rb (hqReg h) 15 = false) ∧ (∀ c < 8, (State.reset.dmac c).st = .idle)

/-- Every command leaves everything but the parts named for it, and what delivering its raises touches, unless the hub
enters node safe (R478): registers, memories, function states, accumulators of every unit, and the queue of commands.
Rests on the model's own choices or readings of notes/assumptions/ 6, 126. -/
def Obligations.EveryCommandLeaves : Prop :=
  ∀ (i : Instr) (s t : State), exec i s = .next t → (t.flt.safe = true → s.flt.safe = true) → Leaves (touches i) s t

/-- Every command completes, leaves the queue alone, and leaves no raise undelivered (R437, R438); so a step keeps that
no raise waits. Rests on the model's own choices or readings of notes/assumptions/ 6, 13, 126. -/
def Obligations.CommandsSettle : Prop :=
  (∀ (i : Instr) (s : State), ∃ t, exec i s = .next t ∧ Settled t ∧ t.pending = s.pending) ∧
  (∀ s t : State, Settled s → step s = .next t → Settled t)

/-- Every step keeps the lanes of the collector and the local spore queues within what they hold: 16 and 64 messages,
and 256 records (R443, R468). -/
def Obligations.StepsKeepCapacity : Prop :=
  ∀ s t : State, WithinCapacity s → step s = .next t → WithinCapacity t

/-- Every step keeps the canonical form of every memory: shared memory, process image, the pairs' SRAMs, and the banks
of actions and routes. The form is the model's own. Rests on the model's own choices or readings of notes/assumptions/
11. -/
def Obligations.StepsKeepMemories : Prop :=
  ∀ s t : State, MemoriesCanonical s → step s = .next t → MemoriesCanonical t
end

