-- ==== Sys2Proof/Laws/Tab.lean ====
section
/-! SUPPORT. Sparse tables and memories: a read after a write, at the same key and at another, and the canonical form. -/

namespace Sys2Proof.Machine

variable {α : Type}

theorem tabGet_cons (d : α) (e : Nat × α) (r : Tab α) (k : Nat) :
    tabGet d (e :: r) k = if e.1 = k then e.2 else tabGet d r k := rfl

theorem tabGet_erase_self (d : α) (t : Tab α) (k : Nat) : tabGet d (tabErase t k) k = d := by
  induction t with
  | nil => rfl
  | cons e r ih =>
    by_cases h : e.1 = k
    · simpa [tabErase, h] using ih
    · have : tabErase (e :: r) k = e :: tabErase r k := by simp [tabErase, h]
      rw [this, tabGet_cons, if_neg h, ih]

theorem tabGet_erase_other (d : α) (t : Tab α) {j k : Nat} (h : j ≠ k) : tabGet d (tabErase t k) j = tabGet d t j := by
  induction t with
  | nil => rfl
  | cons e r ih =>
    by_cases hk : e.1 = k
    · have hj : ¬ e.1 = j := fun hj => h (hj.symm.trans hk)
      have : tabErase (e :: r) k = tabErase r k := by simp [tabErase, hk]
      rw [this, ih, tabGet_cons, if_neg hj]
    · have : tabErase (e :: r) k = e :: tabErase r k := by simp [tabErase, hk]
      rw [this, tabGet_cons, tabGet_cons, ih]

theorem tabGet_insert_self (d : α) (t : Tab α) (k : Nat) (v : α) (h : ∀ e ∈ t, e.1 ≠ k) : tabGet d (tabInsert t k v) k = v := by
  induction t with
  | nil => simp [tabInsert, tabGet]
  | cons e r ih =>
    obtain ⟨j, w⟩ := e
    have hj : j ≠ k := h (j, w) (by simp)
    have hr := ih (fun e he => h e (List.mem_cons_of_mem _ he))
    by_cases hk : k < j
    · simp [tabInsert, hk, tabGet]
    · simp [tabInsert, hk, tabGet, hj, hr]

theorem tabGet_insert_other (d : α) (t : Tab α) {j k : Nat} (v : α) (h : j ≠ k) :
    tabGet d (tabInsert t k v) j = tabGet d t j := by
  induction t with
  | nil => simp [tabInsert, tabGet, Ne.symm h]
  | cons e r ih =>
    obtain ⟨i, w⟩ := e
    by_cases hk : k < i
    · simp [tabInsert, hk, tabGet, Ne.symm h]
    · simp [tabInsert, hk, tabGet, ih]

/-- A table read where it was written. -/
@[simp] theorem tabGet_set_self [DecidableEq α] (d : α) (t : Tab α) (k : Nat) (v : α) : tabGet d (tabSet d t k v) k = v := by
  unfold tabSet
  split
  · rename_i h; rw [tabGet_erase_self, h]
  · exact tabGet_insert_self d _ k v (fun e he => by simpa [tabErase] using (List.mem_filter.mp he).2)

/-- A table read elsewhere. -/
theorem tabGet_set_other [DecidableEq α] (d d' : α) (t : Tab α) {j k : Nat} (v : α) (h : j ≠ k) :
    tabGet d' (tabSet d t k v) j = tabGet d' t j := by
  unfold tabSet
  split
  · exact tabGet_erase_other d' t h
  · rw [tabGet_insert_other d' _ v h, tabGet_erase_other d' t h]

/-! ### Memories -/

/-- A byte read where it was written. -/
@[simp] theorem memRead_write_self (m : List Host.Cell) (a : Nat) (b : Byte) : memRead (memWrite m a b) a = b :=
  tabGet_set_self memDefault m a b

/-- A byte read elsewhere. -/
theorem memRead_write_other (m : List Host.Cell) {a c : Nat} (b : Byte) (h : c ≠ a) :
    memRead (memWrite m a b) c = memRead m c := tabGet_set_other memDefault memDefault m b h

/-- A byte below the written ones reads as before. -/
theorem memRead_writeN_below (l : List Byte) : ∀ (m : List Host.Cell) {a c : Nat}, c < a → memRead (memWriteN m a l) c = memRead m c := by
  induction l with
  | nil => intros; rfl
  | cons b r ih =>
    intro m a c h
    rw [memWriteN, ih _ (by omega), memRead_write_other _ _ (by omega)]

/-- A byte above the written ones reads as before. -/
theorem memRead_writeN_above (l : List Byte) : ∀ (m : List Host.Cell) {a c : Nat}, a + l.length ≤ c → memRead (memWriteN m a l) c = memRead m c := by
  induction l with
  | nil => intros; rfl
  | cons b r ih =>
    intro m a c h
    simp only [List.length_cons] at h
    rw [memWriteN, ih _ (by omega), memRead_write_other _ _ (by omega)]

/-- A written byte reads as written. -/
theorem memRead_writeN_self (l : List Byte) : ∀ (m : List Host.Cell) (a i : Nat) (h : i < l.length),
    memRead (memWriteN m a l) (a + i) = l[i] := by
  induction l with
  | nil => intro m a i h; simp at h
  | cons b r ih =>
    intro m a i h
    rw [memWriteN]
    cases i with
    | zero => rw [memRead_writeN_below _ _ (by omega)]; simp
    | succ n =>
      have := ih (memWrite m a b) (a + 1) n (by simpa using h)
      rw [show a + (n + 1) = a + 1 + n by omega, this]; simp

/-! ### The canonical form -/

/-- The form, entry by entry. -/
theorem wf_cons (c : Host.Cell) (m : List Host.Cell) :
    Memory.wf (c :: m) = true ↔ c.2 ≠ memDefault ∧ (∀ d ∈ m.head?, c.1 < d.1) ∧ Memory.wf m = true := by
  cases m with
  | nil => simp [Memory.wf]
  | cons d r => simp [Memory.wf, and_assoc]

/-- Every address of a canonical memory lies above one that lies below its head. -/
theorem wf_above (m : List Host.Cell) : ∀ (c : Host.Cell), Memory.wf (c :: m) = true → ∀ d ∈ m, c.1 < d.1 := by
  induction m with
  | nil => intro c _ d hd; simp at hd
  | cons e r ih =>
    intro c h d hd
    obtain ⟨_, h1, h2⟩ := (wf_cons c (e :: r)).mp h
    have he : c.1 < e.1 := h1 e (by simp)
    rcases List.mem_cons.mp hd with rfl | hd
    · exact he
    · exact Nat.lt_trans he (ih e h2 d hd)

theorem wf_of_above (c : Host.Cell) (m : List Host.Cell) (h0 : c.2 ≠ memDefault) (h1 : ∀ d ∈ m, c.1 < d.1)
    (h2 : Memory.wf m = true) : Memory.wf (c :: m) = true :=
  (wf_cons c m).mpr ⟨h0, fun d hd => h1 d (List.mem_of_mem_head? hd), h2⟩

theorem wf_tail {c : Host.Cell} {m : List Host.Cell} (h : Memory.wf (c :: m) = true) : Memory.wf m = true :=
  ((wf_cons c m).mp h).2.2

theorem wf_erase (m : List Host.Cell) (a : Nat) (h : Memory.wf m = true) : Memory.wf (tabErase m a) = true := by
  induction m with
  | nil => rfl
  | cons c r ih =>
    by_cases hc : c.1 = a
    · have : tabErase (c :: r) a = tabErase r a := by simp [tabErase, hc]
      rw [this]; exact ih (wf_tail h)
    · have : tabErase (c :: r) a = c :: tabErase r a := by simp [tabErase, hc]
      rw [this]
      refine wf_of_above c _ ((wf_cons c r).mp h).1 (fun d hd => ?_) (ih (wf_tail h))
      exact wf_above r c h d (List.mem_filter.mp hd).1

theorem mem_insert {m : List Host.Cell} {a : Nat} {b : Byte} {d : Host.Cell} (h : d ∈ tabInsert m a b) : d = (a, b) ∨ d ∈ m := by
  induction m with
  | nil => simpa [tabInsert] using h
  | cons c r ih =>
    unfold tabInsert at h
    split at h
    · simpa using h
    · rcases List.mem_cons.mp h with rfl | h
      · simp
      · rcases ih h with h | h <;> simp [h]

theorem wf_insert (m : List Host.Cell) (a : Nat) (b : Byte) (hb : b ≠ memDefault) (h : Memory.wf m = true)
    (hm : ∀ e ∈ m, e.1 ≠ a) : Memory.wf (tabInsert m a b) = true := by
  induction m with
  | nil => simpa [tabInsert, Memory.wf] using hb
  | cons c r ih =>
    unfold tabInsert
    have hca : c.1 ≠ a := hm c (by simp)
    split
    · rename_i hlt
      refine wf_of_above (a, b) _ hb (fun d hd => ?_) h
      rcases List.mem_cons.mp hd with rfl | hd
      · exact hlt
      · exact Nat.lt_trans hlt (wf_above r c h d hd)
    · rename_i hlt
      refine wf_of_above c _ ((wf_cons c r).mp h).1 (fun d hd => ?_)
        (ih (wf_tail h) (fun e he => hm e (List.mem_cons_of_mem _ he)))
      rcases mem_insert hd with rfl | hd
      · show c.1 < a
        have : ¬ a < c.1 := hlt
        omega
      · exact wf_above r c h d hd

/-- A write of one byte keeps the canonical form. -/
theorem memWrite_wf (m : List Host.Cell) (a : Nat) (b : Byte) (h : Memory.wf m = true) : Memory.wf (memWrite m a b) = true := by
  unfold memWrite tabSet
  split
  · exact wf_erase m a h
  · rename_i hb
    exact wf_insert _ a b hb (wf_erase m a h) (fun e he => by simpa [tabErase] using (List.mem_filter.mp he).2)

/-- A write of bytes keeps the canonical form. -/
theorem memWriteN_wf (l : List Byte) : ∀ (m : List Host.Cell) (a : Nat), Memory.wf m = true → Memory.wf (memWriteN m a l) = true := by
  induction l with
  | nil => intro m a h; exact h
  | cons b r ih => intro m a h; exact ih _ _ (memWrite_wf m a b h)

end Sys2Proof.Machine
end

