-- ==== Sys2Proof/Laws/State.lean ====
section
/-! SUPPORT. What each update of the state changes: one lemma for each update and each field, and reads after writes. -/

namespace Sys2Proof.Machine

variable (s : State)

/-! ### begun -/

@[simp] theorem begun_pending : (s.begun).pending = s.pending := rfl
@[simp] theorem begun_now : (s.begun).now = s.now := rfl
@[simp] theorem begun_fresh : (s.begun).fresh = s.fresh := rfl
@[simp] theorem begun_limits : (s.begun).limits = s.limits := rfl
@[simp] theorem begun_regs : (s.begun).regs = s.regs := rfl
@[simp] theorem begun_applied : (s.begun).applied = s.applied := rfl
@[simp] theorem begun_staged : (s.begun).staged = s.staged := rfl
@[simp] theorem begun_latches : (s.begun).latches = s.latches := rfl
@[simp] theorem begun_funcs : (s.begun).funcs = s.funcs := rfl
@[simp] theorem begun_key : (s.begun).key = s.key := rfl
@[simp] theorem begun_ldx : (s.begun).ldx = s.ldx := rfl
@[simp] theorem begun_queues : (s.begun).queues = s.queues := rfl
@[simp] theorem begun_hostq : (s.begun).hostq = s.hostq := rfl
@[simp] theorem begun_dma : (s.begun).dma = s.dma := rfl
@[simp] theorem begun_pcie : (s.begun).pcie = s.pcie := rfl
@[simp] theorem begun_flt : (s.begun).flt = s.flt := rfl
@[simp] theorem begun_ident : (s.begun).ident = s.ident := rfl
@[simp] theorem begun_time : (s.begun).time = s.time := rfl
@[simp] theorem begun_axes : (s.begun).axes = s.axes := rfl
@[simp] theorem begun_ncpA : (s.begun).ncpA = s.ncpA := rfl
@[simp] theorem begun_ncpB : (s.begun).ncpB = s.ncpB := rfl
@[simp] theorem begun_linkW : (s.begun).linkW = s.linkW := rfl
@[simp] theorem begun_linkE : (s.begun).linkE = s.linkE := rfl
@[simp] theorem begun_linkT : (s.begun).linkT = s.linkT := rfl
@[simp] theorem begun_fwd : (s.begun).fwd = s.fwd := rfl
@[simp] theorem begun_shared : (s.begun).shared = s.shared := rfl
@[simp] theorem begun_lines : (s.begun).lines = s.lines := rfl
@[simp] theorem begun_uarts : (s.begun).uarts = s.uarts := rfl
@[simp] theorem begun_encoders : (s.begun).encoders = s.encoders := rfl
@[simp] theorem begun_engines : (s.begun).engines = s.engines := rfl
@[simp] theorem begun_fronds : (s.begun).fronds = s.fronds := rfl
@[simp] theorem begun_act : (s.begun).act = s.act := rfl
@[simp] theorem begun_cans : (s.begun).cans = s.cans := rfl
@[simp] theorem begun_canPll : (s.begun).canPll = s.canPll := rfl
@[simp] theorem begun_brg : (s.begun).brg = s.brg := rfl
@[simp] theorem begun_usb : (s.begun).usb = s.usb := rfl
@[simp] theorem begun_power : (s.begun).power = s.power := rfl
@[simp] theorem begun_dieA : (s.begun).dieA = s.dieA := rfl
@[simp] theorem begun_dieB : (s.begun).dieB = s.dieB := rfl
@[simp] theorem begun_rpr : (s.begun).rpr = s.rpr := rfl
@[simp] theorem begun_peat : (s.begun).peat = s.peat := rfl
@[simp] theorem begun_boot : (s.begun).boot = s.boot := rfl
@[simp] theorem begun_pair : (s.begun).pair = s.pair := rfl
@[simp] theorem begun_image : (s.begun).image = s.image := rfl
@[simp] theorem begun_xact : (s.begun).xact = s.xact := rfl

/-! ### setReg -/

@[simp] theorem setReg_pending (o : Nat) (v : Word) : (s.setReg o v).pending = s.pending := rfl
@[simp] theorem setReg_out (o : Nat) (v : Word) : (s.setReg o v).out = s.out := rfl
@[simp] theorem setReg_raised (o : Nat) (v : Word) : (s.setReg o v).raised = s.raised := rfl
@[simp] theorem setReg_now (o : Nat) (v : Word) : (s.setReg o v).now = s.now := rfl
@[simp] theorem setReg_fresh (o : Nat) (v : Word) : (s.setReg o v).fresh = s.fresh := rfl
@[simp] theorem setReg_limits (o : Nat) (v : Word) : (s.setReg o v).limits = s.limits := rfl
@[simp] theorem setReg_applied (o : Nat) (v : Word) : (s.setReg o v).applied = s.applied := rfl
@[simp] theorem setReg_staged (o : Nat) (v : Word) : (s.setReg o v).staged = s.staged := rfl
@[simp] theorem setReg_latches (o : Nat) (v : Word) : (s.setReg o v).latches = s.latches := rfl
@[simp] theorem setReg_funcs (o : Nat) (v : Word) : (s.setReg o v).funcs = s.funcs := rfl
@[simp] theorem setReg_key (o : Nat) (v : Word) : (s.setReg o v).key = s.key := rfl
@[simp] theorem setReg_ldx (o : Nat) (v : Word) : (s.setReg o v).ldx = s.ldx := rfl
@[simp] theorem setReg_queues (o : Nat) (v : Word) : (s.setReg o v).queues = s.queues := rfl
@[simp] theorem setReg_hostq (o : Nat) (v : Word) : (s.setReg o v).hostq = s.hostq := rfl
@[simp] theorem setReg_dma (o : Nat) (v : Word) : (s.setReg o v).dma = s.dma := rfl
@[simp] theorem setReg_pcie (o : Nat) (v : Word) : (s.setReg o v).pcie = s.pcie := rfl
@[simp] theorem setReg_flt (o : Nat) (v : Word) : (s.setReg o v).flt = s.flt := rfl
@[simp] theorem setReg_ident (o : Nat) (v : Word) : (s.setReg o v).ident = s.ident := rfl
@[simp] theorem setReg_time (o : Nat) (v : Word) : (s.setReg o v).time = s.time := rfl
@[simp] theorem setReg_axes (o : Nat) (v : Word) : (s.setReg o v).axes = s.axes := rfl
@[simp] theorem setReg_ncpA (o : Nat) (v : Word) : (s.setReg o v).ncpA = s.ncpA := rfl
@[simp] theorem setReg_ncpB (o : Nat) (v : Word) : (s.setReg o v).ncpB = s.ncpB := rfl
@[simp] theorem setReg_linkW (o : Nat) (v : Word) : (s.setReg o v).linkW = s.linkW := rfl
@[simp] theorem setReg_linkE (o : Nat) (v : Word) : (s.setReg o v).linkE = s.linkE := rfl
@[simp] theorem setReg_linkT (o : Nat) (v : Word) : (s.setReg o v).linkT = s.linkT := rfl
@[simp] theorem setReg_fwd (o : Nat) (v : Word) : (s.setReg o v).fwd = s.fwd := rfl
@[simp] theorem setReg_shared (o : Nat) (v : Word) : (s.setReg o v).shared = s.shared := rfl
@[simp] theorem setReg_lines (o : Nat) (v : Word) : (s.setReg o v).lines = s.lines := rfl
@[simp] theorem setReg_uarts (o : Nat) (v : Word) : (s.setReg o v).uarts = s.uarts := rfl
@[simp] theorem setReg_encoders (o : Nat) (v : Word) : (s.setReg o v).encoders = s.encoders := rfl
@[simp] theorem setReg_engines (o : Nat) (v : Word) : (s.setReg o v).engines = s.engines := rfl
@[simp] theorem setReg_fronds (o : Nat) (v : Word) : (s.setReg o v).fronds = s.fronds := rfl
@[simp] theorem setReg_act (o : Nat) (v : Word) : (s.setReg o v).act = s.act := rfl
@[simp] theorem setReg_cans (o : Nat) (v : Word) : (s.setReg o v).cans = s.cans := rfl
@[simp] theorem setReg_canPll (o : Nat) (v : Word) : (s.setReg o v).canPll = s.canPll := rfl
@[simp] theorem setReg_brg (o : Nat) (v : Word) : (s.setReg o v).brg = s.brg := rfl
@[simp] theorem setReg_usb (o : Nat) (v : Word) : (s.setReg o v).usb = s.usb := rfl
@[simp] theorem setReg_power (o : Nat) (v : Word) : (s.setReg o v).power = s.power := rfl
@[simp] theorem setReg_dieA (o : Nat) (v : Word) : (s.setReg o v).dieA = s.dieA := rfl
@[simp] theorem setReg_dieB (o : Nat) (v : Word) : (s.setReg o v).dieB = s.dieB := rfl
@[simp] theorem setReg_rpr (o : Nat) (v : Word) : (s.setReg o v).rpr = s.rpr := rfl
@[simp] theorem setReg_peat (o : Nat) (v : Word) : (s.setReg o v).peat = s.peat := rfl
@[simp] theorem setReg_boot (o : Nat) (v : Word) : (s.setReg o v).boot = s.boot := rfl
@[simp] theorem setReg_pair (o : Nat) (v : Word) : (s.setReg o v).pair = s.pair := rfl
@[simp] theorem setReg_image (o : Nat) (v : Word) : (s.setReg o v).image = s.image := rfl
@[simp] theorem setReg_xact (o : Nat) (v : Word) : (s.setReg o v).xact = s.xact := rfl

/-! ### setNat -/

@[simp] theorem setNat_pending (o v : Nat) : (s.setNat o v).pending = s.pending := rfl
@[simp] theorem setNat_out (o v : Nat) : (s.setNat o v).out = s.out := rfl
@[simp] theorem setNat_raised (o v : Nat) : (s.setNat o v).raised = s.raised := rfl
@[simp] theorem setNat_now (o v : Nat) : (s.setNat o v).now = s.now := rfl
@[simp] theorem setNat_fresh (o v : Nat) : (s.setNat o v).fresh = s.fresh := rfl
@[simp] theorem setNat_limits (o v : Nat) : (s.setNat o v).limits = s.limits := rfl
@[simp] theorem setNat_applied (o v : Nat) : (s.setNat o v).applied = s.applied := rfl
@[simp] theorem setNat_staged (o v : Nat) : (s.setNat o v).staged = s.staged := rfl
@[simp] theorem setNat_latches (o v : Nat) : (s.setNat o v).latches = s.latches := rfl
@[simp] theorem setNat_funcs (o v : Nat) : (s.setNat o v).funcs = s.funcs := rfl
@[simp] theorem setNat_key (o v : Nat) : (s.setNat o v).key = s.key := rfl
@[simp] theorem setNat_ldx (o v : Nat) : (s.setNat o v).ldx = s.ldx := rfl
@[simp] theorem setNat_queues (o v : Nat) : (s.setNat o v).queues = s.queues := rfl
@[simp] theorem setNat_hostq (o v : Nat) : (s.setNat o v).hostq = s.hostq := rfl
@[simp] theorem setNat_dma (o v : Nat) : (s.setNat o v).dma = s.dma := rfl
@[simp] theorem setNat_pcie (o v : Nat) : (s.setNat o v).pcie = s.pcie := rfl
@[simp] theorem setNat_flt (o v : Nat) : (s.setNat o v).flt = s.flt := rfl
@[simp] theorem setNat_ident (o v : Nat) : (s.setNat o v).ident = s.ident := rfl
@[simp] theorem setNat_time (o v : Nat) : (s.setNat o v).time = s.time := rfl
@[simp] theorem setNat_axes (o v : Nat) : (s.setNat o v).axes = s.axes := rfl
@[simp] theorem setNat_ncpA (o v : Nat) : (s.setNat o v).ncpA = s.ncpA := rfl
@[simp] theorem setNat_ncpB (o v : Nat) : (s.setNat o v).ncpB = s.ncpB := rfl
@[simp] theorem setNat_linkW (o v : Nat) : (s.setNat o v).linkW = s.linkW := rfl
@[simp] theorem setNat_linkE (o v : Nat) : (s.setNat o v).linkE = s.linkE := rfl
@[simp] theorem setNat_linkT (o v : Nat) : (s.setNat o v).linkT = s.linkT := rfl
@[simp] theorem setNat_fwd (o v : Nat) : (s.setNat o v).fwd = s.fwd := rfl
@[simp] theorem setNat_shared (o v : Nat) : (s.setNat o v).shared = s.shared := rfl
@[simp] theorem setNat_lines (o v : Nat) : (s.setNat o v).lines = s.lines := rfl
@[simp] theorem setNat_uarts (o v : Nat) : (s.setNat o v).uarts = s.uarts := rfl
@[simp] theorem setNat_encoders (o v : Nat) : (s.setNat o v).encoders = s.encoders := rfl
@[simp] theorem setNat_engines (o v : Nat) : (s.setNat o v).engines = s.engines := rfl
@[simp] theorem setNat_fronds (o v : Nat) : (s.setNat o v).fronds = s.fronds := rfl
@[simp] theorem setNat_act (o v : Nat) : (s.setNat o v).act = s.act := rfl
@[simp] theorem setNat_cans (o v : Nat) : (s.setNat o v).cans = s.cans := rfl
@[simp] theorem setNat_canPll (o v : Nat) : (s.setNat o v).canPll = s.canPll := rfl
@[simp] theorem setNat_brg (o v : Nat) : (s.setNat o v).brg = s.brg := rfl
@[simp] theorem setNat_usb (o v : Nat) : (s.setNat o v).usb = s.usb := rfl
@[simp] theorem setNat_power (o v : Nat) : (s.setNat o v).power = s.power := rfl
@[simp] theorem setNat_dieA (o v : Nat) : (s.setNat o v).dieA = s.dieA := rfl
@[simp] theorem setNat_dieB (o v : Nat) : (s.setNat o v).dieB = s.dieB := rfl
@[simp] theorem setNat_rpr (o v : Nat) : (s.setNat o v).rpr = s.rpr := rfl
@[simp] theorem setNat_peat (o v : Nat) : (s.setNat o v).peat = s.peat := rfl
@[simp] theorem setNat_boot (o v : Nat) : (s.setNat o v).boot = s.boot := rfl
@[simp] theorem setNat_pair (o v : Nat) : (s.setNat o v).pair = s.pair := rfl
@[simp] theorem setNat_image (o v : Nat) : (s.setNat o v).image = s.image := rfl
@[simp] theorem setNat_xact (o v : Nat) : (s.setNat o v).xact = s.xact := rfl

/-! ### setApplied -/

@[simp] theorem setApplied_pending (o : Nat) (v : Word) : (s.setApplied o v).pending = s.pending := rfl
@[simp] theorem setApplied_out (o : Nat) (v : Word) : (s.setApplied o v).out = s.out := rfl
@[simp] theorem setApplied_raised (o : Nat) (v : Word) : (s.setApplied o v).raised = s.raised := rfl
@[simp] theorem setApplied_now (o : Nat) (v : Word) : (s.setApplied o v).now = s.now := rfl
@[simp] theorem setApplied_fresh (o : Nat) (v : Word) : (s.setApplied o v).fresh = s.fresh := rfl
@[simp] theorem setApplied_limits (o : Nat) (v : Word) : (s.setApplied o v).limits = s.limits := rfl
@[simp] theorem setApplied_regs (o : Nat) (v : Word) : (s.setApplied o v).regs = s.regs := rfl
@[simp] theorem setApplied_staged (o : Nat) (v : Word) : (s.setApplied o v).staged = s.staged := rfl
@[simp] theorem setApplied_latches (o : Nat) (v : Word) : (s.setApplied o v).latches = s.latches := rfl
@[simp] theorem setApplied_funcs (o : Nat) (v : Word) : (s.setApplied o v).funcs = s.funcs := rfl
@[simp] theorem setApplied_key (o : Nat) (v : Word) : (s.setApplied o v).key = s.key := rfl
@[simp] theorem setApplied_ldx (o : Nat) (v : Word) : (s.setApplied o v).ldx = s.ldx := rfl
@[simp] theorem setApplied_queues (o : Nat) (v : Word) : (s.setApplied o v).queues = s.queues := rfl
@[simp] theorem setApplied_hostq (o : Nat) (v : Word) : (s.setApplied o v).hostq = s.hostq := rfl
@[simp] theorem setApplied_dma (o : Nat) (v : Word) : (s.setApplied o v).dma = s.dma := rfl
@[simp] theorem setApplied_pcie (o : Nat) (v : Word) : (s.setApplied o v).pcie = s.pcie := rfl
@[simp] theorem setApplied_flt (o : Nat) (v : Word) : (s.setApplied o v).flt = s.flt := rfl
@[simp] theorem setApplied_ident (o : Nat) (v : Word) : (s.setApplied o v).ident = s.ident := rfl
@[simp] theorem setApplied_time (o : Nat) (v : Word) : (s.setApplied o v).time = s.time := rfl
@[simp] theorem setApplied_axes (o : Nat) (v : Word) : (s.setApplied o v).axes = s.axes := rfl
@[simp] theorem setApplied_ncpA (o : Nat) (v : Word) : (s.setApplied o v).ncpA = s.ncpA := rfl
@[simp] theorem setApplied_ncpB (o : Nat) (v : Word) : (s.setApplied o v).ncpB = s.ncpB := rfl
@[simp] theorem setApplied_linkW (o : Nat) (v : Word) : (s.setApplied o v).linkW = s.linkW := rfl
@[simp] theorem setApplied_linkE (o : Nat) (v : Word) : (s.setApplied o v).linkE = s.linkE := rfl
@[simp] theorem setApplied_linkT (o : Nat) (v : Word) : (s.setApplied o v).linkT = s.linkT := rfl
@[simp] theorem setApplied_fwd (o : Nat) (v : Word) : (s.setApplied o v).fwd = s.fwd := rfl
@[simp] theorem setApplied_shared (o : Nat) (v : Word) : (s.setApplied o v).shared = s.shared := rfl
@[simp] theorem setApplied_lines (o : Nat) (v : Word) : (s.setApplied o v).lines = s.lines := rfl
@[simp] theorem setApplied_uarts (o : Nat) (v : Word) : (s.setApplied o v).uarts = s.uarts := rfl
@[simp] theorem setApplied_encoders (o : Nat) (v : Word) : (s.setApplied o v).encoders = s.encoders := rfl
@[simp] theorem setApplied_engines (o : Nat) (v : Word) : (s.setApplied o v).engines = s.engines := rfl
@[simp] theorem setApplied_fronds (o : Nat) (v : Word) : (s.setApplied o v).fronds = s.fronds := rfl
@[simp] theorem setApplied_act (o : Nat) (v : Word) : (s.setApplied o v).act = s.act := rfl
@[simp] theorem setApplied_cans (o : Nat) (v : Word) : (s.setApplied o v).cans = s.cans := rfl
@[simp] theorem setApplied_canPll (o : Nat) (v : Word) : (s.setApplied o v).canPll = s.canPll := rfl
@[simp] theorem setApplied_brg (o : Nat) (v : Word) : (s.setApplied o v).brg = s.brg := rfl
@[simp] theorem setApplied_usb (o : Nat) (v : Word) : (s.setApplied o v).usb = s.usb := rfl
@[simp] theorem setApplied_power (o : Nat) (v : Word) : (s.setApplied o v).power = s.power := rfl
@[simp] theorem setApplied_dieA (o : Nat) (v : Word) : (s.setApplied o v).dieA = s.dieA := rfl
@[simp] theorem setApplied_dieB (o : Nat) (v : Word) : (s.setApplied o v).dieB = s.dieB := rfl
@[simp] theorem setApplied_rpr (o : Nat) (v : Word) : (s.setApplied o v).rpr = s.rpr := rfl
@[simp] theorem setApplied_peat (o : Nat) (v : Word) : (s.setApplied o v).peat = s.peat := rfl
@[simp] theorem setApplied_boot (o : Nat) (v : Word) : (s.setApplied o v).boot = s.boot := rfl
@[simp] theorem setApplied_pair (o : Nat) (v : Word) : (s.setApplied o v).pair = s.pair := rfl
@[simp] theorem setApplied_image (o : Nat) (v : Word) : (s.setApplied o v).image = s.image := rfl
@[simp] theorem setApplied_xact (o : Nat) (v : Word) : (s.setApplied o v).xact = s.xact := rfl

/-! ### bumpBy -/

@[simp] theorem bumpBy_pending (o k : Nat) : (s.bumpBy o k).pending = s.pending := rfl
@[simp] theorem bumpBy_out (o k : Nat) : (s.bumpBy o k).out = s.out := rfl
@[simp] theorem bumpBy_raised (o k : Nat) : (s.bumpBy o k).raised = s.raised := rfl
@[simp] theorem bumpBy_now (o k : Nat) : (s.bumpBy o k).now = s.now := rfl
@[simp] theorem bumpBy_fresh (o k : Nat) : (s.bumpBy o k).fresh = s.fresh := rfl
@[simp] theorem bumpBy_limits (o k : Nat) : (s.bumpBy o k).limits = s.limits := rfl
@[simp] theorem bumpBy_applied (o k : Nat) : (s.bumpBy o k).applied = s.applied := rfl
@[simp] theorem bumpBy_staged (o k : Nat) : (s.bumpBy o k).staged = s.staged := rfl
@[simp] theorem bumpBy_latches (o k : Nat) : (s.bumpBy o k).latches = s.latches := rfl
@[simp] theorem bumpBy_funcs (o k : Nat) : (s.bumpBy o k).funcs = s.funcs := rfl
@[simp] theorem bumpBy_key (o k : Nat) : (s.bumpBy o k).key = s.key := rfl
@[simp] theorem bumpBy_ldx (o k : Nat) : (s.bumpBy o k).ldx = s.ldx := rfl
@[simp] theorem bumpBy_queues (o k : Nat) : (s.bumpBy o k).queues = s.queues := rfl
@[simp] theorem bumpBy_hostq (o k : Nat) : (s.bumpBy o k).hostq = s.hostq := rfl
@[simp] theorem bumpBy_dma (o k : Nat) : (s.bumpBy o k).dma = s.dma := rfl
@[simp] theorem bumpBy_pcie (o k : Nat) : (s.bumpBy o k).pcie = s.pcie := rfl
@[simp] theorem bumpBy_flt (o k : Nat) : (s.bumpBy o k).flt = s.flt := rfl
@[simp] theorem bumpBy_ident (o k : Nat) : (s.bumpBy o k).ident = s.ident := rfl
@[simp] theorem bumpBy_time (o k : Nat) : (s.bumpBy o k).time = s.time := rfl
@[simp] theorem bumpBy_axes (o k : Nat) : (s.bumpBy o k).axes = s.axes := rfl
@[simp] theorem bumpBy_ncpA (o k : Nat) : (s.bumpBy o k).ncpA = s.ncpA := rfl
@[simp] theorem bumpBy_ncpB (o k : Nat) : (s.bumpBy o k).ncpB = s.ncpB := rfl
@[simp] theorem bumpBy_linkW (o k : Nat) : (s.bumpBy o k).linkW = s.linkW := rfl
@[simp] theorem bumpBy_linkE (o k : Nat) : (s.bumpBy o k).linkE = s.linkE := rfl
@[simp] theorem bumpBy_linkT (o k : Nat) : (s.bumpBy o k).linkT = s.linkT := rfl
@[simp] theorem bumpBy_fwd (o k : Nat) : (s.bumpBy o k).fwd = s.fwd := rfl
@[simp] theorem bumpBy_shared (o k : Nat) : (s.bumpBy o k).shared = s.shared := rfl
@[simp] theorem bumpBy_lines (o k : Nat) : (s.bumpBy o k).lines = s.lines := rfl
@[simp] theorem bumpBy_uarts (o k : Nat) : (s.bumpBy o k).uarts = s.uarts := rfl
@[simp] theorem bumpBy_encoders (o k : Nat) : (s.bumpBy o k).encoders = s.encoders := rfl
@[simp] theorem bumpBy_engines (o k : Nat) : (s.bumpBy o k).engines = s.engines := rfl
@[simp] theorem bumpBy_fronds (o k : Nat) : (s.bumpBy o k).fronds = s.fronds := rfl
@[simp] theorem bumpBy_act (o k : Nat) : (s.bumpBy o k).act = s.act := rfl
@[simp] theorem bumpBy_cans (o k : Nat) : (s.bumpBy o k).cans = s.cans := rfl
@[simp] theorem bumpBy_canPll (o k : Nat) : (s.bumpBy o k).canPll = s.canPll := rfl
@[simp] theorem bumpBy_brg (o k : Nat) : (s.bumpBy o k).brg = s.brg := rfl
@[simp] theorem bumpBy_usb (o k : Nat) : (s.bumpBy o k).usb = s.usb := rfl
@[simp] theorem bumpBy_power (o k : Nat) : (s.bumpBy o k).power = s.power := rfl
@[simp] theorem bumpBy_dieA (o k : Nat) : (s.bumpBy o k).dieA = s.dieA := rfl
@[simp] theorem bumpBy_dieB (o k : Nat) : (s.bumpBy o k).dieB = s.dieB := rfl
@[simp] theorem bumpBy_rpr (o k : Nat) : (s.bumpBy o k).rpr = s.rpr := rfl
@[simp] theorem bumpBy_peat (o k : Nat) : (s.bumpBy o k).peat = s.peat := rfl
@[simp] theorem bumpBy_boot (o k : Nat) : (s.bumpBy o k).boot = s.boot := rfl
@[simp] theorem bumpBy_pair (o k : Nat) : (s.bumpBy o k).pair = s.pair := rfl
@[simp] theorem bumpBy_image (o k : Nat) : (s.bumpBy o k).image = s.image := rfl
@[simp] theorem bumpBy_xact (o k : Nat) : (s.bumpBy o k).xact = s.xact := rfl

/-! ### bump -/

@[simp] theorem bump_pending (o : Nat) : (s.bump o).pending = s.pending := rfl
@[simp] theorem bump_out (o : Nat) : (s.bump o).out = s.out := rfl
@[simp] theorem bump_raised (o : Nat) : (s.bump o).raised = s.raised := rfl
@[simp] theorem bump_now (o : Nat) : (s.bump o).now = s.now := rfl
@[simp] theorem bump_fresh (o : Nat) : (s.bump o).fresh = s.fresh := rfl
@[simp] theorem bump_limits (o : Nat) : (s.bump o).limits = s.limits := rfl
@[simp] theorem bump_applied (o : Nat) : (s.bump o).applied = s.applied := rfl
@[simp] theorem bump_staged (o : Nat) : (s.bump o).staged = s.staged := rfl
@[simp] theorem bump_latches (o : Nat) : (s.bump o).latches = s.latches := rfl
@[simp] theorem bump_funcs (o : Nat) : (s.bump o).funcs = s.funcs := rfl
@[simp] theorem bump_key (o : Nat) : (s.bump o).key = s.key := rfl
@[simp] theorem bump_ldx (o : Nat) : (s.bump o).ldx = s.ldx := rfl
@[simp] theorem bump_queues (o : Nat) : (s.bump o).queues = s.queues := rfl
@[simp] theorem bump_hostq (o : Nat) : (s.bump o).hostq = s.hostq := rfl
@[simp] theorem bump_dma (o : Nat) : (s.bump o).dma = s.dma := rfl
@[simp] theorem bump_pcie (o : Nat) : (s.bump o).pcie = s.pcie := rfl
@[simp] theorem bump_flt (o : Nat) : (s.bump o).flt = s.flt := rfl
@[simp] theorem bump_ident (o : Nat) : (s.bump o).ident = s.ident := rfl
@[simp] theorem bump_time (o : Nat) : (s.bump o).time = s.time := rfl
@[simp] theorem bump_axes (o : Nat) : (s.bump o).axes = s.axes := rfl
@[simp] theorem bump_ncpA (o : Nat) : (s.bump o).ncpA = s.ncpA := rfl
@[simp] theorem bump_ncpB (o : Nat) : (s.bump o).ncpB = s.ncpB := rfl
@[simp] theorem bump_linkW (o : Nat) : (s.bump o).linkW = s.linkW := rfl
@[simp] theorem bump_linkE (o : Nat) : (s.bump o).linkE = s.linkE := rfl
@[simp] theorem bump_linkT (o : Nat) : (s.bump o).linkT = s.linkT := rfl
@[simp] theorem bump_fwd (o : Nat) : (s.bump o).fwd = s.fwd := rfl
@[simp] theorem bump_shared (o : Nat) : (s.bump o).shared = s.shared := rfl
@[simp] theorem bump_lines (o : Nat) : (s.bump o).lines = s.lines := rfl
@[simp] theorem bump_uarts (o : Nat) : (s.bump o).uarts = s.uarts := rfl
@[simp] theorem bump_encoders (o : Nat) : (s.bump o).encoders = s.encoders := rfl
@[simp] theorem bump_engines (o : Nat) : (s.bump o).engines = s.engines := rfl
@[simp] theorem bump_fronds (o : Nat) : (s.bump o).fronds = s.fronds := rfl
@[simp] theorem bump_act (o : Nat) : (s.bump o).act = s.act := rfl
@[simp] theorem bump_cans (o : Nat) : (s.bump o).cans = s.cans := rfl
@[simp] theorem bump_canPll (o : Nat) : (s.bump o).canPll = s.canPll := rfl
@[simp] theorem bump_brg (o : Nat) : (s.bump o).brg = s.brg := rfl
@[simp] theorem bump_usb (o : Nat) : (s.bump o).usb = s.usb := rfl
@[simp] theorem bump_power (o : Nat) : (s.bump o).power = s.power := rfl
@[simp] theorem bump_dieA (o : Nat) : (s.bump o).dieA = s.dieA := rfl
@[simp] theorem bump_dieB (o : Nat) : (s.bump o).dieB = s.dieB := rfl
@[simp] theorem bump_rpr (o : Nat) : (s.bump o).rpr = s.rpr := rfl
@[simp] theorem bump_peat (o : Nat) : (s.bump o).peat = s.peat := rfl
@[simp] theorem bump_boot (o : Nat) : (s.bump o).boot = s.boot := rfl
@[simp] theorem bump_pair (o : Nat) : (s.bump o).pair = s.pair := rfl
@[simp] theorem bump_image (o : Nat) : (s.bump o).image = s.image := rfl
@[simp] theorem bump_xact (o : Nat) : (s.bump o).xact = s.xact := rfl

/-! ### bump16 -/

@[simp] theorem bump16_pending (o : Nat) : (s.bump16 o).pending = s.pending := rfl
@[simp] theorem bump16_out (o : Nat) : (s.bump16 o).out = s.out := rfl
@[simp] theorem bump16_raised (o : Nat) : (s.bump16 o).raised = s.raised := rfl
@[simp] theorem bump16_now (o : Nat) : (s.bump16 o).now = s.now := rfl
@[simp] theorem bump16_fresh (o : Nat) : (s.bump16 o).fresh = s.fresh := rfl
@[simp] theorem bump16_limits (o : Nat) : (s.bump16 o).limits = s.limits := rfl
@[simp] theorem bump16_applied (o : Nat) : (s.bump16 o).applied = s.applied := rfl
@[simp] theorem bump16_staged (o : Nat) : (s.bump16 o).staged = s.staged := rfl
@[simp] theorem bump16_latches (o : Nat) : (s.bump16 o).latches = s.latches := rfl
@[simp] theorem bump16_funcs (o : Nat) : (s.bump16 o).funcs = s.funcs := rfl
@[simp] theorem bump16_key (o : Nat) : (s.bump16 o).key = s.key := rfl
@[simp] theorem bump16_ldx (o : Nat) : (s.bump16 o).ldx = s.ldx := rfl
@[simp] theorem bump16_queues (o : Nat) : (s.bump16 o).queues = s.queues := rfl
@[simp] theorem bump16_hostq (o : Nat) : (s.bump16 o).hostq = s.hostq := rfl
@[simp] theorem bump16_dma (o : Nat) : (s.bump16 o).dma = s.dma := rfl
@[simp] theorem bump16_pcie (o : Nat) : (s.bump16 o).pcie = s.pcie := rfl
@[simp] theorem bump16_flt (o : Nat) : (s.bump16 o).flt = s.flt := rfl
@[simp] theorem bump16_ident (o : Nat) : (s.bump16 o).ident = s.ident := rfl
@[simp] theorem bump16_time (o : Nat) : (s.bump16 o).time = s.time := rfl
@[simp] theorem bump16_axes (o : Nat) : (s.bump16 o).axes = s.axes := rfl
@[simp] theorem bump16_ncpA (o : Nat) : (s.bump16 o).ncpA = s.ncpA := rfl
@[simp] theorem bump16_ncpB (o : Nat) : (s.bump16 o).ncpB = s.ncpB := rfl
@[simp] theorem bump16_linkW (o : Nat) : (s.bump16 o).linkW = s.linkW := rfl
@[simp] theorem bump16_linkE (o : Nat) : (s.bump16 o).linkE = s.linkE := rfl
@[simp] theorem bump16_linkT (o : Nat) : (s.bump16 o).linkT = s.linkT := rfl
@[simp] theorem bump16_fwd (o : Nat) : (s.bump16 o).fwd = s.fwd := rfl
@[simp] theorem bump16_shared (o : Nat) : (s.bump16 o).shared = s.shared := rfl
@[simp] theorem bump16_lines (o : Nat) : (s.bump16 o).lines = s.lines := rfl
@[simp] theorem bump16_uarts (o : Nat) : (s.bump16 o).uarts = s.uarts := rfl
@[simp] theorem bump16_encoders (o : Nat) : (s.bump16 o).encoders = s.encoders := rfl
@[simp] theorem bump16_engines (o : Nat) : (s.bump16 o).engines = s.engines := rfl
@[simp] theorem bump16_fronds (o : Nat) : (s.bump16 o).fronds = s.fronds := rfl
@[simp] theorem bump16_act (o : Nat) : (s.bump16 o).act = s.act := rfl
@[simp] theorem bump16_cans (o : Nat) : (s.bump16 o).cans = s.cans := rfl
@[simp] theorem bump16_canPll (o : Nat) : (s.bump16 o).canPll = s.canPll := rfl
@[simp] theorem bump16_brg (o : Nat) : (s.bump16 o).brg = s.brg := rfl
@[simp] theorem bump16_usb (o : Nat) : (s.bump16 o).usb = s.usb := rfl
@[simp] theorem bump16_power (o : Nat) : (s.bump16 o).power = s.power := rfl
@[simp] theorem bump16_dieA (o : Nat) : (s.bump16 o).dieA = s.dieA := rfl
@[simp] theorem bump16_dieB (o : Nat) : (s.bump16 o).dieB = s.dieB := rfl
@[simp] theorem bump16_rpr (o : Nat) : (s.bump16 o).rpr = s.rpr := rfl
@[simp] theorem bump16_peat (o : Nat) : (s.bump16 o).peat = s.peat := rfl
@[simp] theorem bump16_boot (o : Nat) : (s.bump16 o).boot = s.boot := rfl
@[simp] theorem bump16_pair (o : Nat) : (s.bump16 o).pair = s.pair := rfl
@[simp] theorem bump16_image (o : Nat) : (s.bump16 o).image = s.image := rfl
@[simp] theorem bump16_xact (o : Nat) : (s.bump16 o).xact = s.xact := rfl

/-! ### emit -/

@[simp] theorem emit_pending (o : Output) : (s.emit o).pending = s.pending := rfl
@[simp] theorem emit_raised (o : Output) : (s.emit o).raised = s.raised := rfl
@[simp] theorem emit_now (o : Output) : (s.emit o).now = s.now := rfl
@[simp] theorem emit_fresh (o : Output) : (s.emit o).fresh = s.fresh := rfl
@[simp] theorem emit_limits (o : Output) : (s.emit o).limits = s.limits := rfl
@[simp] theorem emit_regs (o : Output) : (s.emit o).regs = s.regs := rfl
@[simp] theorem emit_applied (o : Output) : (s.emit o).applied = s.applied := rfl
@[simp] theorem emit_staged (o : Output) : (s.emit o).staged = s.staged := rfl
@[simp] theorem emit_latches (o : Output) : (s.emit o).latches = s.latches := rfl
@[simp] theorem emit_funcs (o : Output) : (s.emit o).funcs = s.funcs := rfl
@[simp] theorem emit_key (o : Output) : (s.emit o).key = s.key := rfl
@[simp] theorem emit_ldx (o : Output) : (s.emit o).ldx = s.ldx := rfl
@[simp] theorem emit_queues (o : Output) : (s.emit o).queues = s.queues := rfl
@[simp] theorem emit_hostq (o : Output) : (s.emit o).hostq = s.hostq := rfl
@[simp] theorem emit_dma (o : Output) : (s.emit o).dma = s.dma := rfl
@[simp] theorem emit_pcie (o : Output) : (s.emit o).pcie = s.pcie := rfl
@[simp] theorem emit_flt (o : Output) : (s.emit o).flt = s.flt := rfl
@[simp] theorem emit_ident (o : Output) : (s.emit o).ident = s.ident := rfl
@[simp] theorem emit_time (o : Output) : (s.emit o).time = s.time := rfl
@[simp] theorem emit_axes (o : Output) : (s.emit o).axes = s.axes := rfl
@[simp] theorem emit_ncpA (o : Output) : (s.emit o).ncpA = s.ncpA := rfl
@[simp] theorem emit_ncpB (o : Output) : (s.emit o).ncpB = s.ncpB := rfl
@[simp] theorem emit_linkW (o : Output) : (s.emit o).linkW = s.linkW := rfl
@[simp] theorem emit_linkE (o : Output) : (s.emit o).linkE = s.linkE := rfl
@[simp] theorem emit_linkT (o : Output) : (s.emit o).linkT = s.linkT := rfl
@[simp] theorem emit_fwd (o : Output) : (s.emit o).fwd = s.fwd := rfl
@[simp] theorem emit_shared (o : Output) : (s.emit o).shared = s.shared := rfl
@[simp] theorem emit_lines (o : Output) : (s.emit o).lines = s.lines := rfl
@[simp] theorem emit_uarts (o : Output) : (s.emit o).uarts = s.uarts := rfl
@[simp] theorem emit_encoders (o : Output) : (s.emit o).encoders = s.encoders := rfl
@[simp] theorem emit_engines (o : Output) : (s.emit o).engines = s.engines := rfl
@[simp] theorem emit_fronds (o : Output) : (s.emit o).fronds = s.fronds := rfl
@[simp] theorem emit_act (o : Output) : (s.emit o).act = s.act := rfl
@[simp] theorem emit_cans (o : Output) : (s.emit o).cans = s.cans := rfl
@[simp] theorem emit_canPll (o : Output) : (s.emit o).canPll = s.canPll := rfl
@[simp] theorem emit_brg (o : Output) : (s.emit o).brg = s.brg := rfl
@[simp] theorem emit_usb (o : Output) : (s.emit o).usb = s.usb := rfl
@[simp] theorem emit_power (o : Output) : (s.emit o).power = s.power := rfl
@[simp] theorem emit_dieA (o : Output) : (s.emit o).dieA = s.dieA := rfl
@[simp] theorem emit_dieB (o : Output) : (s.emit o).dieB = s.dieB := rfl
@[simp] theorem emit_rpr (o : Output) : (s.emit o).rpr = s.rpr := rfl
@[simp] theorem emit_peat (o : Output) : (s.emit o).peat = s.peat := rfl
@[simp] theorem emit_boot (o : Output) : (s.emit o).boot = s.boot := rfl
@[simp] theorem emit_pair (o : Output) : (s.emit o).pair = s.pair := rfl
@[simp] theorem emit_image (o : Output) : (s.emit o).image = s.image := rfl
@[simp] theorem emit_xact (o : Output) : (s.emit o).xact = s.xact := rfl

/-! ### event -/

@[simp] theorem event_pending (n k : Nat) (b : EventBody) : (s.event n k b).pending = s.pending := rfl
@[simp] theorem event_out (n k : Nat) (b : EventBody) : (s.event n k b).out = s.out := rfl
@[simp] theorem event_now (n k : Nat) (b : EventBody) : (s.event n k b).now = s.now := rfl
@[simp] theorem event_fresh (n k : Nat) (b : EventBody) : (s.event n k b).fresh = s.fresh := rfl
@[simp] theorem event_limits (n k : Nat) (b : EventBody) : (s.event n k b).limits = s.limits := rfl
@[simp] theorem event_regs (n k : Nat) (b : EventBody) : (s.event n k b).regs = s.regs := rfl
@[simp] theorem event_applied (n k : Nat) (b : EventBody) : (s.event n k b).applied = s.applied := rfl
@[simp] theorem event_staged (n k : Nat) (b : EventBody) : (s.event n k b).staged = s.staged := rfl
@[simp] theorem event_latches (n k : Nat) (b : EventBody) : (s.event n k b).latches = s.latches := rfl
@[simp] theorem event_funcs (n k : Nat) (b : EventBody) : (s.event n k b).funcs = s.funcs := rfl
@[simp] theorem event_key (n k : Nat) (b : EventBody) : (s.event n k b).key = s.key := rfl
@[simp] theorem event_ldx (n k : Nat) (b : EventBody) : (s.event n k b).ldx = s.ldx := rfl
@[simp] theorem event_queues (n k : Nat) (b : EventBody) : (s.event n k b).queues = s.queues := rfl
@[simp] theorem event_hostq (n k : Nat) (b : EventBody) : (s.event n k b).hostq = s.hostq := rfl
@[simp] theorem event_dma (n k : Nat) (b : EventBody) : (s.event n k b).dma = s.dma := rfl
@[simp] theorem event_pcie (n k : Nat) (b : EventBody) : (s.event n k b).pcie = s.pcie := rfl
@[simp] theorem event_flt (n k : Nat) (b : EventBody) : (s.event n k b).flt = s.flt := rfl
@[simp] theorem event_ident (n k : Nat) (b : EventBody) : (s.event n k b).ident = s.ident := rfl
@[simp] theorem event_time (n k : Nat) (b : EventBody) : (s.event n k b).time = s.time := rfl
@[simp] theorem event_axes (n k : Nat) (b : EventBody) : (s.event n k b).axes = s.axes := rfl
@[simp] theorem event_ncpA (n k : Nat) (b : EventBody) : (s.event n k b).ncpA = s.ncpA := rfl
@[simp] theorem event_ncpB (n k : Nat) (b : EventBody) : (s.event n k b).ncpB = s.ncpB := rfl
@[simp] theorem event_linkW (n k : Nat) (b : EventBody) : (s.event n k b).linkW = s.linkW := rfl
@[simp] theorem event_linkE (n k : Nat) (b : EventBody) : (s.event n k b).linkE = s.linkE := rfl
@[simp] theorem event_linkT (n k : Nat) (b : EventBody) : (s.event n k b).linkT = s.linkT := rfl
@[simp] theorem event_fwd (n k : Nat) (b : EventBody) : (s.event n k b).fwd = s.fwd := rfl
@[simp] theorem event_shared (n k : Nat) (b : EventBody) : (s.event n k b).shared = s.shared := rfl
@[simp] theorem event_lines (n k : Nat) (b : EventBody) : (s.event n k b).lines = s.lines := rfl
@[simp] theorem event_uarts (n k : Nat) (b : EventBody) : (s.event n k b).uarts = s.uarts := rfl
@[simp] theorem event_encoders (n k : Nat) (b : EventBody) : (s.event n k b).encoders = s.encoders := rfl
@[simp] theorem event_engines (n k : Nat) (b : EventBody) : (s.event n k b).engines = s.engines := rfl
@[simp] theorem event_fronds (n k : Nat) (b : EventBody) : (s.event n k b).fronds = s.fronds := rfl
@[simp] theorem event_act (n k : Nat) (b : EventBody) : (s.event n k b).act = s.act := rfl
@[simp] theorem event_cans (n k : Nat) (b : EventBody) : (s.event n k b).cans = s.cans := rfl
@[simp] theorem event_canPll (n k : Nat) (b : EventBody) : (s.event n k b).canPll = s.canPll := rfl
@[simp] theorem event_brg (n k : Nat) (b : EventBody) : (s.event n k b).brg = s.brg := rfl
@[simp] theorem event_usb (n k : Nat) (b : EventBody) : (s.event n k b).usb = s.usb := rfl
@[simp] theorem event_power (n k : Nat) (b : EventBody) : (s.event n k b).power = s.power := rfl
@[simp] theorem event_dieA (n k : Nat) (b : EventBody) : (s.event n k b).dieA = s.dieA := rfl
@[simp] theorem event_dieB (n k : Nat) (b : EventBody) : (s.event n k b).dieB = s.dieB := rfl
@[simp] theorem event_rpr (n k : Nat) (b : EventBody) : (s.event n k b).rpr = s.rpr := rfl
@[simp] theorem event_peat (n k : Nat) (b : EventBody) : (s.event n k b).peat = s.peat := rfl
@[simp] theorem event_boot (n k : Nat) (b : EventBody) : (s.event n k b).boot = s.boot := rfl
@[simp] theorem event_pair (n k : Nat) (b : EventBody) : (s.event n k b).pair = s.pair := rfl
@[simp] theorem event_image (n k : Nat) (b : EventBody) : (s.event n k b).image = s.image := rfl
@[simp] theorem event_xact (n k : Nat) (b : EventBody) : (s.event n k b).xact = s.xact := rfl

/-! ### eventP -/

@[simp] theorem eventP_pending (n k p : Nat) : (s.eventP n k p).pending = s.pending := rfl
@[simp] theorem eventP_out (n k p : Nat) : (s.eventP n k p).out = s.out := rfl
@[simp] theorem eventP_now (n k p : Nat) : (s.eventP n k p).now = s.now := rfl
@[simp] theorem eventP_fresh (n k p : Nat) : (s.eventP n k p).fresh = s.fresh := rfl
@[simp] theorem eventP_limits (n k p : Nat) : (s.eventP n k p).limits = s.limits := rfl
@[simp] theorem eventP_regs (n k p : Nat) : (s.eventP n k p).regs = s.regs := rfl
@[simp] theorem eventP_applied (n k p : Nat) : (s.eventP n k p).applied = s.applied := rfl
@[simp] theorem eventP_staged (n k p : Nat) : (s.eventP n k p).staged = s.staged := rfl
@[simp] theorem eventP_latches (n k p : Nat) : (s.eventP n k p).latches = s.latches := rfl
@[simp] theorem eventP_funcs (n k p : Nat) : (s.eventP n k p).funcs = s.funcs := rfl
@[simp] theorem eventP_key (n k p : Nat) : (s.eventP n k p).key = s.key := rfl
@[simp] theorem eventP_ldx (n k p : Nat) : (s.eventP n k p).ldx = s.ldx := rfl
@[simp] theorem eventP_queues (n k p : Nat) : (s.eventP n k p).queues = s.queues := rfl
@[simp] theorem eventP_hostq (n k p : Nat) : (s.eventP n k p).hostq = s.hostq := rfl
@[simp] theorem eventP_dma (n k p : Nat) : (s.eventP n k p).dma = s.dma := rfl
@[simp] theorem eventP_pcie (n k p : Nat) : (s.eventP n k p).pcie = s.pcie := rfl
@[simp] theorem eventP_flt (n k p : Nat) : (s.eventP n k p).flt = s.flt := rfl
@[simp] theorem eventP_ident (n k p : Nat) : (s.eventP n k p).ident = s.ident := rfl
@[simp] theorem eventP_time (n k p : Nat) : (s.eventP n k p).time = s.time := rfl
@[simp] theorem eventP_axes (n k p : Nat) : (s.eventP n k p).axes = s.axes := rfl
@[simp] theorem eventP_ncpA (n k p : Nat) : (s.eventP n k p).ncpA = s.ncpA := rfl
@[simp] theorem eventP_ncpB (n k p : Nat) : (s.eventP n k p).ncpB = s.ncpB := rfl
@[simp] theorem eventP_linkW (n k p : Nat) : (s.eventP n k p).linkW = s.linkW := rfl
@[simp] theorem eventP_linkE (n k p : Nat) : (s.eventP n k p).linkE = s.linkE := rfl
@[simp] theorem eventP_linkT (n k p : Nat) : (s.eventP n k p).linkT = s.linkT := rfl
@[simp] theorem eventP_fwd (n k p : Nat) : (s.eventP n k p).fwd = s.fwd := rfl
@[simp] theorem eventP_shared (n k p : Nat) : (s.eventP n k p).shared = s.shared := rfl
@[simp] theorem eventP_lines (n k p : Nat) : (s.eventP n k p).lines = s.lines := rfl
@[simp] theorem eventP_uarts (n k p : Nat) : (s.eventP n k p).uarts = s.uarts := rfl
@[simp] theorem eventP_encoders (n k p : Nat) : (s.eventP n k p).encoders = s.encoders := rfl
@[simp] theorem eventP_engines (n k p : Nat) : (s.eventP n k p).engines = s.engines := rfl
@[simp] theorem eventP_fronds (n k p : Nat) : (s.eventP n k p).fronds = s.fronds := rfl
@[simp] theorem eventP_act (n k p : Nat) : (s.eventP n k p).act = s.act := rfl
@[simp] theorem eventP_cans (n k p : Nat) : (s.eventP n k p).cans = s.cans := rfl
@[simp] theorem eventP_canPll (n k p : Nat) : (s.eventP n k p).canPll = s.canPll := rfl
@[simp] theorem eventP_brg (n k p : Nat) : (s.eventP n k p).brg = s.brg := rfl
@[simp] theorem eventP_usb (n k p : Nat) : (s.eventP n k p).usb = s.usb := rfl
@[simp] theorem eventP_power (n k p : Nat) : (s.eventP n k p).power = s.power := rfl
@[simp] theorem eventP_dieA (n k p : Nat) : (s.eventP n k p).dieA = s.dieA := rfl
@[simp] theorem eventP_dieB (n k p : Nat) : (s.eventP n k p).dieB = s.dieB := rfl
@[simp] theorem eventP_rpr (n k p : Nat) : (s.eventP n k p).rpr = s.rpr := rfl
@[simp] theorem eventP_peat (n k p : Nat) : (s.eventP n k p).peat = s.peat := rfl
@[simp] theorem eventP_boot (n k p : Nat) : (s.eventP n k p).boot = s.boot := rfl
@[simp] theorem eventP_pair (n k p : Nat) : (s.eventP n k p).pair = s.pair := rfl
@[simp] theorem eventP_image (n k p : Nat) : (s.eventP n k p).image = s.image := rfl
@[simp] theorem eventP_xact (n k p : Nat) : (s.eventP n k p).xact = s.xact := rfl

/-! ### fault -/

@[simp] theorem fault_pending (n k l d a : Nat) : (s.fault n k l d a).pending = s.pending := rfl
@[simp] theorem fault_out (n k l d a : Nat) : (s.fault n k l d a).out = s.out := rfl
@[simp] theorem fault_now (n k l d a : Nat) : (s.fault n k l d a).now = s.now := rfl
@[simp] theorem fault_fresh (n k l d a : Nat) : (s.fault n k l d a).fresh = s.fresh := rfl
@[simp] theorem fault_limits (n k l d a : Nat) : (s.fault n k l d a).limits = s.limits := rfl
@[simp] theorem fault_regs (n k l d a : Nat) : (s.fault n k l d a).regs = s.regs := rfl
@[simp] theorem fault_applied (n k l d a : Nat) : (s.fault n k l d a).applied = s.applied := rfl
@[simp] theorem fault_staged (n k l d a : Nat) : (s.fault n k l d a).staged = s.staged := rfl
@[simp] theorem fault_latches (n k l d a : Nat) : (s.fault n k l d a).latches = s.latches := rfl
@[simp] theorem fault_funcs (n k l d a : Nat) : (s.fault n k l d a).funcs = s.funcs := rfl
@[simp] theorem fault_key (n k l d a : Nat) : (s.fault n k l d a).key = s.key := rfl
@[simp] theorem fault_ldx (n k l d a : Nat) : (s.fault n k l d a).ldx = s.ldx := rfl
@[simp] theorem fault_queues (n k l d a : Nat) : (s.fault n k l d a).queues = s.queues := rfl
@[simp] theorem fault_hostq (n k l d a : Nat) : (s.fault n k l d a).hostq = s.hostq := rfl
@[simp] theorem fault_dma (n k l d a : Nat) : (s.fault n k l d a).dma = s.dma := rfl
@[simp] theorem fault_pcie (n k l d a : Nat) : (s.fault n k l d a).pcie = s.pcie := rfl
@[simp] theorem fault_flt (n k l d a : Nat) : (s.fault n k l d a).flt = s.flt := rfl
@[simp] theorem fault_ident (n k l d a : Nat) : (s.fault n k l d a).ident = s.ident := rfl
@[simp] theorem fault_time (n k l d a : Nat) : (s.fault n k l d a).time = s.time := rfl
@[simp] theorem fault_axes (n k l d a : Nat) : (s.fault n k l d a).axes = s.axes := rfl
@[simp] theorem fault_ncpA (n k l d a : Nat) : (s.fault n k l d a).ncpA = s.ncpA := rfl
@[simp] theorem fault_ncpB (n k l d a : Nat) : (s.fault n k l d a).ncpB = s.ncpB := rfl
@[simp] theorem fault_linkW (n k l d a : Nat) : (s.fault n k l d a).linkW = s.linkW := rfl
@[simp] theorem fault_linkE (n k l d a : Nat) : (s.fault n k l d a).linkE = s.linkE := rfl
@[simp] theorem fault_linkT (n k l d a : Nat) : (s.fault n k l d a).linkT = s.linkT := rfl
@[simp] theorem fault_fwd (n k l d a : Nat) : (s.fault n k l d a).fwd = s.fwd := rfl
@[simp] theorem fault_shared (n k l d a : Nat) : (s.fault n k l d a).shared = s.shared := rfl
@[simp] theorem fault_lines (n k l d a : Nat) : (s.fault n k l d a).lines = s.lines := rfl
@[simp] theorem fault_uarts (n k l d a : Nat) : (s.fault n k l d a).uarts = s.uarts := rfl
@[simp] theorem fault_encoders (n k l d a : Nat) : (s.fault n k l d a).encoders = s.encoders := rfl
@[simp] theorem fault_engines (n k l d a : Nat) : (s.fault n k l d a).engines = s.engines := rfl
@[simp] theorem fault_fronds (n k l d a : Nat) : (s.fault n k l d a).fronds = s.fronds := rfl
@[simp] theorem fault_act (n k l d a : Nat) : (s.fault n k l d a).act = s.act := rfl
@[simp] theorem fault_cans (n k l d a : Nat) : (s.fault n k l d a).cans = s.cans := rfl
@[simp] theorem fault_canPll (n k l d a : Nat) : (s.fault n k l d a).canPll = s.canPll := rfl
@[simp] theorem fault_brg (n k l d a : Nat) : (s.fault n k l d a).brg = s.brg := rfl
@[simp] theorem fault_usb (n k l d a : Nat) : (s.fault n k l d a).usb = s.usb := rfl
@[simp] theorem fault_power (n k l d a : Nat) : (s.fault n k l d a).power = s.power := rfl
@[simp] theorem fault_dieA (n k l d a : Nat) : (s.fault n k l d a).dieA = s.dieA := rfl
@[simp] theorem fault_dieB (n k l d a : Nat) : (s.fault n k l d a).dieB = s.dieB := rfl
@[simp] theorem fault_rpr (n k l d a : Nat) : (s.fault n k l d a).rpr = s.rpr := rfl
@[simp] theorem fault_peat (n k l d a : Nat) : (s.fault n k l d a).peat = s.peat := rfl
@[simp] theorem fault_boot (n k l d a : Nat) : (s.fault n k l d a).boot = s.boot := rfl
@[simp] theorem fault_pair (n k l d a : Nat) : (s.fault n k l d a).pair = s.pair := rfl
@[simp] theorem fault_image (n k l d a : Nat) : (s.fault n k l d a).image = s.image := rfl
@[simp] theorem fault_xact (n k l d a : Nat) : (s.fault n k l d a).xact = s.xact := rfl

/-! ### advanceTo -/

@[simp] theorem advanceTo_pending (x : Nat) : (s.advanceTo x).pending = s.pending := rfl
@[simp] theorem advanceTo_out (x : Nat) : (s.advanceTo x).out = s.out := rfl
@[simp] theorem advanceTo_raised (x : Nat) : (s.advanceTo x).raised = s.raised := rfl
@[simp] theorem advanceTo_fresh (x : Nat) : (s.advanceTo x).fresh = s.fresh := rfl
@[simp] theorem advanceTo_limits (x : Nat) : (s.advanceTo x).limits = s.limits := rfl
@[simp] theorem advanceTo_regs (x : Nat) : (s.advanceTo x).regs = s.regs := rfl
@[simp] theorem advanceTo_applied (x : Nat) : (s.advanceTo x).applied = s.applied := rfl
@[simp] theorem advanceTo_staged (x : Nat) : (s.advanceTo x).staged = s.staged := rfl
@[simp] theorem advanceTo_latches (x : Nat) : (s.advanceTo x).latches = s.latches := rfl
@[simp] theorem advanceTo_funcs (x : Nat) : (s.advanceTo x).funcs = s.funcs := rfl
@[simp] theorem advanceTo_key (x : Nat) : (s.advanceTo x).key = s.key := rfl
@[simp] theorem advanceTo_ldx (x : Nat) : (s.advanceTo x).ldx = s.ldx := rfl
@[simp] theorem advanceTo_queues (x : Nat) : (s.advanceTo x).queues = s.queues := rfl
@[simp] theorem advanceTo_hostq (x : Nat) : (s.advanceTo x).hostq = s.hostq := rfl
@[simp] theorem advanceTo_dma (x : Nat) : (s.advanceTo x).dma = s.dma := rfl
@[simp] theorem advanceTo_pcie (x : Nat) : (s.advanceTo x).pcie = s.pcie := rfl
@[simp] theorem advanceTo_flt (x : Nat) : (s.advanceTo x).flt = s.flt := rfl
@[simp] theorem advanceTo_ident (x : Nat) : (s.advanceTo x).ident = s.ident := rfl
@[simp] theorem advanceTo_time (x : Nat) : (s.advanceTo x).time = s.time := rfl
@[simp] theorem advanceTo_axes (x : Nat) : (s.advanceTo x).axes = s.axes := rfl
@[simp] theorem advanceTo_ncpA (x : Nat) : (s.advanceTo x).ncpA = s.ncpA := rfl
@[simp] theorem advanceTo_ncpB (x : Nat) : (s.advanceTo x).ncpB = s.ncpB := rfl
@[simp] theorem advanceTo_linkW (x : Nat) : (s.advanceTo x).linkW = s.linkW := rfl
@[simp] theorem advanceTo_linkE (x : Nat) : (s.advanceTo x).linkE = s.linkE := rfl
@[simp] theorem advanceTo_linkT (x : Nat) : (s.advanceTo x).linkT = s.linkT := rfl
@[simp] theorem advanceTo_fwd (x : Nat) : (s.advanceTo x).fwd = s.fwd := rfl
@[simp] theorem advanceTo_shared (x : Nat) : (s.advanceTo x).shared = s.shared := rfl
@[simp] theorem advanceTo_lines (x : Nat) : (s.advanceTo x).lines = s.lines := rfl
@[simp] theorem advanceTo_uarts (x : Nat) : (s.advanceTo x).uarts = s.uarts := rfl
@[simp] theorem advanceTo_encoders (x : Nat) : (s.advanceTo x).encoders = s.encoders := rfl
@[simp] theorem advanceTo_engines (x : Nat) : (s.advanceTo x).engines = s.engines := rfl
@[simp] theorem advanceTo_fronds (x : Nat) : (s.advanceTo x).fronds = s.fronds := rfl
@[simp] theorem advanceTo_act (x : Nat) : (s.advanceTo x).act = s.act := rfl
@[simp] theorem advanceTo_cans (x : Nat) : (s.advanceTo x).cans = s.cans := rfl
@[simp] theorem advanceTo_canPll (x : Nat) : (s.advanceTo x).canPll = s.canPll := rfl
@[simp] theorem advanceTo_brg (x : Nat) : (s.advanceTo x).brg = s.brg := rfl
@[simp] theorem advanceTo_usb (x : Nat) : (s.advanceTo x).usb = s.usb := rfl
@[simp] theorem advanceTo_power (x : Nat) : (s.advanceTo x).power = s.power := rfl
@[simp] theorem advanceTo_dieA (x : Nat) : (s.advanceTo x).dieA = s.dieA := rfl
@[simp] theorem advanceTo_dieB (x : Nat) : (s.advanceTo x).dieB = s.dieB := rfl
@[simp] theorem advanceTo_rpr (x : Nat) : (s.advanceTo x).rpr = s.rpr := rfl
@[simp] theorem advanceTo_peat (x : Nat) : (s.advanceTo x).peat = s.peat := rfl
@[simp] theorem advanceTo_boot (x : Nat) : (s.advanceTo x).boot = s.boot := rfl
@[simp] theorem advanceTo_pair (x : Nat) : (s.advanceTo x).pair = s.pair := rfl
@[simp] theorem advanceTo_image (x : Nat) : (s.advanceTo x).image = s.image := rfl
@[simp] theorem advanceTo_xact (x : Nat) : (s.advanceTo x).xact = s.xact := rfl

/-! ### setFunc -/

@[simp] theorem setFunc_pending (id : Nat) (f : Func) : (s.setFunc id f).pending = s.pending := rfl
@[simp] theorem setFunc_out (id : Nat) (f : Func) : (s.setFunc id f).out = s.out := rfl
@[simp] theorem setFunc_raised (id : Nat) (f : Func) : (s.setFunc id f).raised = s.raised := rfl
@[simp] theorem setFunc_now (id : Nat) (f : Func) : (s.setFunc id f).now = s.now := rfl
@[simp] theorem setFunc_fresh (id : Nat) (f : Func) : (s.setFunc id f).fresh = s.fresh := rfl
@[simp] theorem setFunc_limits (id : Nat) (f : Func) : (s.setFunc id f).limits = s.limits := rfl
@[simp] theorem setFunc_regs (id : Nat) (f : Func) : (s.setFunc id f).regs = s.regs := rfl
@[simp] theorem setFunc_applied (id : Nat) (f : Func) : (s.setFunc id f).applied = s.applied := rfl
@[simp] theorem setFunc_staged (id : Nat) (f : Func) : (s.setFunc id f).staged = s.staged := rfl
@[simp] theorem setFunc_latches (id : Nat) (f : Func) : (s.setFunc id f).latches = s.latches := rfl
@[simp] theorem setFunc_key (id : Nat) (f : Func) : (s.setFunc id f).key = s.key := rfl
@[simp] theorem setFunc_ldx (id : Nat) (f : Func) : (s.setFunc id f).ldx = s.ldx := rfl
@[simp] theorem setFunc_queues (id : Nat) (f : Func) : (s.setFunc id f).queues = s.queues := rfl
@[simp] theorem setFunc_hostq (id : Nat) (f : Func) : (s.setFunc id f).hostq = s.hostq := rfl
@[simp] theorem setFunc_dma (id : Nat) (f : Func) : (s.setFunc id f).dma = s.dma := rfl
@[simp] theorem setFunc_pcie (id : Nat) (f : Func) : (s.setFunc id f).pcie = s.pcie := rfl
@[simp] theorem setFunc_flt (id : Nat) (f : Func) : (s.setFunc id f).flt = s.flt := rfl
@[simp] theorem setFunc_ident (id : Nat) (f : Func) : (s.setFunc id f).ident = s.ident := rfl
@[simp] theorem setFunc_time (id : Nat) (f : Func) : (s.setFunc id f).time = s.time := rfl
@[simp] theorem setFunc_axes (id : Nat) (f : Func) : (s.setFunc id f).axes = s.axes := rfl
@[simp] theorem setFunc_ncpA (id : Nat) (f : Func) : (s.setFunc id f).ncpA = s.ncpA := rfl
@[simp] theorem setFunc_ncpB (id : Nat) (f : Func) : (s.setFunc id f).ncpB = s.ncpB := rfl
@[simp] theorem setFunc_linkW (id : Nat) (f : Func) : (s.setFunc id f).linkW = s.linkW := rfl
@[simp] theorem setFunc_linkE (id : Nat) (f : Func) : (s.setFunc id f).linkE = s.linkE := rfl
@[simp] theorem setFunc_linkT (id : Nat) (f : Func) : (s.setFunc id f).linkT = s.linkT := rfl
@[simp] theorem setFunc_fwd (id : Nat) (f : Func) : (s.setFunc id f).fwd = s.fwd := rfl
@[simp] theorem setFunc_shared (id : Nat) (f : Func) : (s.setFunc id f).shared = s.shared := rfl
@[simp] theorem setFunc_lines (id : Nat) (f : Func) : (s.setFunc id f).lines = s.lines := rfl
@[simp] theorem setFunc_uarts (id : Nat) (f : Func) : (s.setFunc id f).uarts = s.uarts := rfl
@[simp] theorem setFunc_encoders (id : Nat) (f : Func) : (s.setFunc id f).encoders = s.encoders := rfl
@[simp] theorem setFunc_engines (id : Nat) (f : Func) : (s.setFunc id f).engines = s.engines := rfl
@[simp] theorem setFunc_fronds (id : Nat) (f : Func) : (s.setFunc id f).fronds = s.fronds := rfl
@[simp] theorem setFunc_act (id : Nat) (f : Func) : (s.setFunc id f).act = s.act := rfl
@[simp] theorem setFunc_cans (id : Nat) (f : Func) : (s.setFunc id f).cans = s.cans := rfl
@[simp] theorem setFunc_canPll (id : Nat) (f : Func) : (s.setFunc id f).canPll = s.canPll := rfl
@[simp] theorem setFunc_brg (id : Nat) (f : Func) : (s.setFunc id f).brg = s.brg := rfl
@[simp] theorem setFunc_usb (id : Nat) (f : Func) : (s.setFunc id f).usb = s.usb := rfl
@[simp] theorem setFunc_power (id : Nat) (f : Func) : (s.setFunc id f).power = s.power := rfl
@[simp] theorem setFunc_dieA (id : Nat) (f : Func) : (s.setFunc id f).dieA = s.dieA := rfl
@[simp] theorem setFunc_dieB (id : Nat) (f : Func) : (s.setFunc id f).dieB = s.dieB := rfl
@[simp] theorem setFunc_rpr (id : Nat) (f : Func) : (s.setFunc id f).rpr = s.rpr := rfl
@[simp] theorem setFunc_peat (id : Nat) (f : Func) : (s.setFunc id f).peat = s.peat := rfl
@[simp] theorem setFunc_boot (id : Nat) (f : Func) : (s.setFunc id f).boot = s.boot := rfl
@[simp] theorem setFunc_pair (id : Nat) (f : Func) : (s.setFunc id f).pair = s.pair := rfl
@[simp] theorem setFunc_image (id : Nat) (f : Func) : (s.setFunc id f).image = s.image := rfl
@[simp] theorem setFunc_xact (id : Nat) (f : Func) : (s.setFunc id f).xact = s.xact := rfl

/-! ### setDom -/

@[simp] theorem setDom_pending (d : Nat) (x : Domain) : (s.setDom d x).pending = s.pending := rfl
@[simp] theorem setDom_out (d : Nat) (x : Domain) : (s.setDom d x).out = s.out := rfl
@[simp] theorem setDom_raised (d : Nat) (x : Domain) : (s.setDom d x).raised = s.raised := rfl
@[simp] theorem setDom_now (d : Nat) (x : Domain) : (s.setDom d x).now = s.now := rfl
@[simp] theorem setDom_fresh (d : Nat) (x : Domain) : (s.setDom d x).fresh = s.fresh := rfl
@[simp] theorem setDom_limits (d : Nat) (x : Domain) : (s.setDom d x).limits = s.limits := rfl
@[simp] theorem setDom_regs (d : Nat) (x : Domain) : (s.setDom d x).regs = s.regs := rfl
@[simp] theorem setDom_applied (d : Nat) (x : Domain) : (s.setDom d x).applied = s.applied := rfl
@[simp] theorem setDom_staged (d : Nat) (x : Domain) : (s.setDom d x).staged = s.staged := rfl
@[simp] theorem setDom_latches (d : Nat) (x : Domain) : (s.setDom d x).latches = s.latches := rfl
@[simp] theorem setDom_funcs (d : Nat) (x : Domain) : (s.setDom d x).funcs = s.funcs := rfl
@[simp] theorem setDom_key (d : Nat) (x : Domain) : (s.setDom d x).key = s.key := rfl
@[simp] theorem setDom_ldx (d : Nat) (x : Domain) : (s.setDom d x).ldx = s.ldx := rfl
@[simp] theorem setDom_queues (d : Nat) (x : Domain) : (s.setDom d x).queues = s.queues := rfl
@[simp] theorem setDom_hostq (d : Nat) (x : Domain) : (s.setDom d x).hostq = s.hostq := rfl
@[simp] theorem setDom_dma (d : Nat) (x : Domain) : (s.setDom d x).dma = s.dma := rfl
@[simp] theorem setDom_pcie (d : Nat) (x : Domain) : (s.setDom d x).pcie = s.pcie := rfl
@[simp] theorem setDom_flt (d : Nat) (x : Domain) : (s.setDom d x).flt = s.flt := rfl
@[simp] theorem setDom_ident (d : Nat) (x : Domain) : (s.setDom d x).ident = s.ident := rfl
@[simp] theorem setDom_time (d : Nat) (x : Domain) : (s.setDom d x).time = s.time := rfl
@[simp] theorem setDom_axes (d : Nat) (x : Domain) : (s.setDom d x).axes = s.axes := rfl
@[simp] theorem setDom_ncpA (d : Nat) (x : Domain) : (s.setDom d x).ncpA = s.ncpA := rfl
@[simp] theorem setDom_ncpB (d : Nat) (x : Domain) : (s.setDom d x).ncpB = s.ncpB := rfl
@[simp] theorem setDom_linkW (d : Nat) (x : Domain) : (s.setDom d x).linkW = s.linkW := rfl
@[simp] theorem setDom_linkE (d : Nat) (x : Domain) : (s.setDom d x).linkE = s.linkE := rfl
@[simp] theorem setDom_linkT (d : Nat) (x : Domain) : (s.setDom d x).linkT = s.linkT := rfl
@[simp] theorem setDom_fwd (d : Nat) (x : Domain) : (s.setDom d x).fwd = s.fwd := rfl
@[simp] theorem setDom_shared (d : Nat) (x : Domain) : (s.setDom d x).shared = s.shared := rfl
@[simp] theorem setDom_lines (d : Nat) (x : Domain) : (s.setDom d x).lines = s.lines := rfl
@[simp] theorem setDom_uarts (d : Nat) (x : Domain) : (s.setDom d x).uarts = s.uarts := rfl
@[simp] theorem setDom_encoders (d : Nat) (x : Domain) : (s.setDom d x).encoders = s.encoders := rfl
@[simp] theorem setDom_engines (d : Nat) (x : Domain) : (s.setDom d x).engines = s.engines := rfl
@[simp] theorem setDom_fronds (d : Nat) (x : Domain) : (s.setDom d x).fronds = s.fronds := rfl
@[simp] theorem setDom_act (d : Nat) (x : Domain) : (s.setDom d x).act = s.act := rfl
@[simp] theorem setDom_cans (d : Nat) (x : Domain) : (s.setDom d x).cans = s.cans := rfl
@[simp] theorem setDom_canPll (d : Nat) (x : Domain) : (s.setDom d x).canPll = s.canPll := rfl
@[simp] theorem setDom_brg (d : Nat) (x : Domain) : (s.setDom d x).brg = s.brg := rfl
@[simp] theorem setDom_usb (d : Nat) (x : Domain) : (s.setDom d x).usb = s.usb := rfl
@[simp] theorem setDom_dieA (d : Nat) (x : Domain) : (s.setDom d x).dieA = s.dieA := rfl
@[simp] theorem setDom_dieB (d : Nat) (x : Domain) : (s.setDom d x).dieB = s.dieB := rfl
@[simp] theorem setDom_rpr (d : Nat) (x : Domain) : (s.setDom d x).rpr = s.rpr := rfl
@[simp] theorem setDom_peat (d : Nat) (x : Domain) : (s.setDom d x).peat = s.peat := rfl
@[simp] theorem setDom_boot (d : Nat) (x : Domain) : (s.setDom d x).boot = s.boot := rfl
@[simp] theorem setDom_pair (d : Nat) (x : Domain) : (s.setDom d x).pair = s.pair := rfl
@[simp] theorem setDom_image (d : Nat) (x : Domain) : (s.setDom d x).image = s.image := rfl
@[simp] theorem setDom_xact (d : Nat) (x : Domain) : (s.setDom d x).xact = s.xact := rfl

/-! ### setDie -/

@[simp] theorem setDie_pending (d : Nat) (x : LineDie) : (s.setDie d x).pending = s.pending := by unfold State.setDie; split <;> rfl
@[simp] theorem setDie_out (d : Nat) (x : LineDie) : (s.setDie d x).out = s.out := by unfold State.setDie; split <;> rfl
@[simp] theorem setDie_raised (d : Nat) (x : LineDie) : (s.setDie d x).raised = s.raised := by unfold State.setDie; split <;> rfl
@[simp] theorem setDie_now (d : Nat) (x : LineDie) : (s.setDie d x).now = s.now := by unfold State.setDie; split <;> rfl
@[simp] theorem setDie_fresh (d : Nat) (x : LineDie) : (s.setDie d x).fresh = s.fresh := by unfold State.setDie; split <;> rfl
@[simp] theorem setDie_limits (d : Nat) (x : LineDie) : (s.setDie d x).limits = s.limits := by unfold State.setDie; split <;> rfl
@[simp] theorem setDie_regs (d : Nat) (x : LineDie) : (s.setDie d x).regs = s.regs := by unfold State.setDie; split <;> rfl
@[simp] theorem setDie_applied (d : Nat) (x : LineDie) : (s.setDie d x).applied = s.applied := by unfold State.setDie; split <;> rfl
@[simp] theorem setDie_staged (d : Nat) (x : LineDie) : (s.setDie d x).staged = s.staged := by unfold State.setDie; split <;> rfl
@[simp] theorem setDie_latches (d : Nat) (x : LineDie) : (s.setDie d x).latches = s.latches := by unfold State.setDie; split <;> rfl
@[simp] theorem setDie_funcs (d : Nat) (x : LineDie) : (s.setDie d x).funcs = s.funcs := by unfold State.setDie; split <;> rfl
@[simp] theorem setDie_key (d : Nat) (x : LineDie) : (s.setDie d x).key = s.key := by unfold State.setDie; split <;> rfl
@[simp] theorem setDie_ldx (d : Nat) (x : LineDie) : (s.setDie d x).ldx = s.ldx := by unfold State.setDie; split <;> rfl
@[simp] theorem setDie_queues (d : Nat) (x : LineDie) : (s.setDie d x).queues = s.queues := by unfold State.setDie; split <;> rfl
@[simp] theorem setDie_hostq (d : Nat) (x : LineDie) : (s.setDie d x).hostq = s.hostq := by unfold State.setDie; split <;> rfl
@[simp] theorem setDie_dma (d : Nat) (x : LineDie) : (s.setDie d x).dma = s.dma := by unfold State.setDie; split <;> rfl
@[simp] theorem setDie_pcie (d : Nat) (x : LineDie) : (s.setDie d x).pcie = s.pcie := by unfold State.setDie; split <;> rfl
@[simp] theorem setDie_flt (d : Nat) (x : LineDie) : (s.setDie d x).flt = s.flt := by unfold State.setDie; split <;> rfl
@[simp] theorem setDie_ident (d : Nat) (x : LineDie) : (s.setDie d x).ident = s.ident := by unfold State.setDie; split <;> rfl
@[simp] theorem setDie_time (d : Nat) (x : LineDie) : (s.setDie d x).time = s.time := by unfold State.setDie; split <;> rfl
@[simp] theorem setDie_axes (d : Nat) (x : LineDie) : (s.setDie d x).axes = s.axes := by unfold State.setDie; split <;> rfl
@[simp] theorem setDie_ncpA (d : Nat) (x : LineDie) : (s.setDie d x).ncpA = s.ncpA := by unfold State.setDie; split <;> rfl
@[simp] theorem setDie_ncpB (d : Nat) (x : LineDie) : (s.setDie d x).ncpB = s.ncpB := by unfold State.setDie; split <;> rfl
@[simp] theorem setDie_linkW (d : Nat) (x : LineDie) : (s.setDie d x).linkW = s.linkW := by unfold State.setDie; split <;> rfl
@[simp] theorem setDie_linkE (d : Nat) (x : LineDie) : (s.setDie d x).linkE = s.linkE := by unfold State.setDie; split <;> rfl
@[simp] theorem setDie_linkT (d : Nat) (x : LineDie) : (s.setDie d x).linkT = s.linkT := by unfold State.setDie; split <;> rfl
@[simp] theorem setDie_fwd (d : Nat) (x : LineDie) : (s.setDie d x).fwd = s.fwd := by unfold State.setDie; split <;> rfl
@[simp] theorem setDie_shared (d : Nat) (x : LineDie) : (s.setDie d x).shared = s.shared := by unfold State.setDie; split <;> rfl
@[simp] theorem setDie_lines (d : Nat) (x : LineDie) : (s.setDie d x).lines = s.lines := by unfold State.setDie; split <;> rfl
@[simp] theorem setDie_uarts (d : Nat) (x : LineDie) : (s.setDie d x).uarts = s.uarts := by unfold State.setDie; split <;> rfl
@[simp] theorem setDie_encoders (d : Nat) (x : LineDie) : (s.setDie d x).encoders = s.encoders := by unfold State.setDie; split <;> rfl
@[simp] theorem setDie_engines (d : Nat) (x : LineDie) : (s.setDie d x).engines = s.engines := by unfold State.setDie; split <;> rfl
@[simp] theorem setDie_fronds (d : Nat) (x : LineDie) : (s.setDie d x).fronds = s.fronds := by unfold State.setDie; split <;> rfl
@[simp] theorem setDie_act (d : Nat) (x : LineDie) : (s.setDie d x).act = s.act := by unfold State.setDie; split <;> rfl
@[simp] theorem setDie_cans (d : Nat) (x : LineDie) : (s.setDie d x).cans = s.cans := by unfold State.setDie; split <;> rfl
@[simp] theorem setDie_canPll (d : Nat) (x : LineDie) : (s.setDie d x).canPll = s.canPll := by unfold State.setDie; split <;> rfl
@[simp] theorem setDie_brg (d : Nat) (x : LineDie) : (s.setDie d x).brg = s.brg := by unfold State.setDie; split <;> rfl
@[simp] theorem setDie_usb (d : Nat) (x : LineDie) : (s.setDie d x).usb = s.usb := by unfold State.setDie; split <;> rfl
@[simp] theorem setDie_power (d : Nat) (x : LineDie) : (s.setDie d x).power = s.power := by unfold State.setDie; split <;> rfl
@[simp] theorem setDie_rpr (d : Nat) (x : LineDie) : (s.setDie d x).rpr = s.rpr := by unfold State.setDie; split <;> rfl
@[simp] theorem setDie_peat (d : Nat) (x : LineDie) : (s.setDie d x).peat = s.peat := by unfold State.setDie; split <;> rfl
@[simp] theorem setDie_boot (d : Nat) (x : LineDie) : (s.setDie d x).boot = s.boot := by unfold State.setDie; split <;> rfl
@[simp] theorem setDie_pair (d : Nat) (x : LineDie) : (s.setDie d x).pair = s.pair := by unfold State.setDie; split <;> rfl
@[simp] theorem setDie_image (d : Nat) (x : LineDie) : (s.setDie d x).image = s.image := by unfold State.setDie; split <;> rfl
@[simp] theorem setDie_xact (d : Nat) (x : LineDie) : (s.setDie d x).xact = s.xact := by unfold State.setDie; split <;> rfl

/-! ### setAxis -/

@[simp] theorem setAxis_pending (a : Nat) (x : Axis) : (s.setAxis a x).pending = s.pending := rfl
@[simp] theorem setAxis_out (a : Nat) (x : Axis) : (s.setAxis a x).out = s.out := rfl
@[simp] theorem setAxis_raised (a : Nat) (x : Axis) : (s.setAxis a x).raised = s.raised := rfl
@[simp] theorem setAxis_now (a : Nat) (x : Axis) : (s.setAxis a x).now = s.now := rfl
@[simp] theorem setAxis_fresh (a : Nat) (x : Axis) : (s.setAxis a x).fresh = s.fresh := rfl
@[simp] theorem setAxis_limits (a : Nat) (x : Axis) : (s.setAxis a x).limits = s.limits := rfl
@[simp] theorem setAxis_regs (a : Nat) (x : Axis) : (s.setAxis a x).regs = s.regs := rfl
@[simp] theorem setAxis_applied (a : Nat) (x : Axis) : (s.setAxis a x).applied = s.applied := rfl
@[simp] theorem setAxis_staged (a : Nat) (x : Axis) : (s.setAxis a x).staged = s.staged := rfl
@[simp] theorem setAxis_latches (a : Nat) (x : Axis) : (s.setAxis a x).latches = s.latches := rfl
@[simp] theorem setAxis_funcs (a : Nat) (x : Axis) : (s.setAxis a x).funcs = s.funcs := rfl
@[simp] theorem setAxis_key (a : Nat) (x : Axis) : (s.setAxis a x).key = s.key := rfl
@[simp] theorem setAxis_ldx (a : Nat) (x : Axis) : (s.setAxis a x).ldx = s.ldx := rfl
@[simp] theorem setAxis_queues (a : Nat) (x : Axis) : (s.setAxis a x).queues = s.queues := rfl
@[simp] theorem setAxis_hostq (a : Nat) (x : Axis) : (s.setAxis a x).hostq = s.hostq := rfl
@[simp] theorem setAxis_dma (a : Nat) (x : Axis) : (s.setAxis a x).dma = s.dma := rfl
@[simp] theorem setAxis_pcie (a : Nat) (x : Axis) : (s.setAxis a x).pcie = s.pcie := rfl
@[simp] theorem setAxis_flt (a : Nat) (x : Axis) : (s.setAxis a x).flt = s.flt := rfl
@[simp] theorem setAxis_ident (a : Nat) (x : Axis) : (s.setAxis a x).ident = s.ident := rfl
@[simp] theorem setAxis_time (a : Nat) (x : Axis) : (s.setAxis a x).time = s.time := rfl
@[simp] theorem setAxis_ncpA (a : Nat) (x : Axis) : (s.setAxis a x).ncpA = s.ncpA := rfl
@[simp] theorem setAxis_ncpB (a : Nat) (x : Axis) : (s.setAxis a x).ncpB = s.ncpB := rfl
@[simp] theorem setAxis_linkW (a : Nat) (x : Axis) : (s.setAxis a x).linkW = s.linkW := rfl
@[simp] theorem setAxis_linkE (a : Nat) (x : Axis) : (s.setAxis a x).linkE = s.linkE := rfl
@[simp] theorem setAxis_linkT (a : Nat) (x : Axis) : (s.setAxis a x).linkT = s.linkT := rfl
@[simp] theorem setAxis_fwd (a : Nat) (x : Axis) : (s.setAxis a x).fwd = s.fwd := rfl
@[simp] theorem setAxis_shared (a : Nat) (x : Axis) : (s.setAxis a x).shared = s.shared := rfl
@[simp] theorem setAxis_lines (a : Nat) (x : Axis) : (s.setAxis a x).lines = s.lines := rfl
@[simp] theorem setAxis_uarts (a : Nat) (x : Axis) : (s.setAxis a x).uarts = s.uarts := rfl
@[simp] theorem setAxis_encoders (a : Nat) (x : Axis) : (s.setAxis a x).encoders = s.encoders := rfl
@[simp] theorem setAxis_engines (a : Nat) (x : Axis) : (s.setAxis a x).engines = s.engines := rfl
@[simp] theorem setAxis_fronds (a : Nat) (x : Axis) : (s.setAxis a x).fronds = s.fronds := rfl
@[simp] theorem setAxis_act (a : Nat) (x : Axis) : (s.setAxis a x).act = s.act := rfl
@[simp] theorem setAxis_cans (a : Nat) (x : Axis) : (s.setAxis a x).cans = s.cans := rfl
@[simp] theorem setAxis_canPll (a : Nat) (x : Axis) : (s.setAxis a x).canPll = s.canPll := rfl
@[simp] theorem setAxis_brg (a : Nat) (x : Axis) : (s.setAxis a x).brg = s.brg := rfl
@[simp] theorem setAxis_usb (a : Nat) (x : Axis) : (s.setAxis a x).usb = s.usb := rfl
@[simp] theorem setAxis_power (a : Nat) (x : Axis) : (s.setAxis a x).power = s.power := rfl
@[simp] theorem setAxis_dieA (a : Nat) (x : Axis) : (s.setAxis a x).dieA = s.dieA := rfl
@[simp] theorem setAxis_dieB (a : Nat) (x : Axis) : (s.setAxis a x).dieB = s.dieB := rfl
@[simp] theorem setAxis_rpr (a : Nat) (x : Axis) : (s.setAxis a x).rpr = s.rpr := rfl
@[simp] theorem setAxis_peat (a : Nat) (x : Axis) : (s.setAxis a x).peat = s.peat := rfl
@[simp] theorem setAxis_boot (a : Nat) (x : Axis) : (s.setAxis a x).boot = s.boot := rfl
@[simp] theorem setAxis_pair (a : Nat) (x : Axis) : (s.setAxis a x).pair = s.pair := rfl
@[simp] theorem setAxis_image (a : Nat) (x : Axis) : (s.setAxis a x).image = s.image := rfl
@[simp] theorem setAxis_xact (a : Nat) (x : Axis) : (s.setAxis a x).xact = s.xact := rfl

/-! ### setNcp -/

@[simp] theorem setNcp_pending (p : Pair) (x : Ncp) : (s.setNcp p x).pending = s.pending := by cases p <;> rfl
@[simp] theorem setNcp_out (p : Pair) (x : Ncp) : (s.setNcp p x).out = s.out := by cases p <;> rfl
@[simp] theorem setNcp_raised (p : Pair) (x : Ncp) : (s.setNcp p x).raised = s.raised := by cases p <;> rfl
@[simp] theorem setNcp_now (p : Pair) (x : Ncp) : (s.setNcp p x).now = s.now := by cases p <;> rfl
@[simp] theorem setNcp_fresh (p : Pair) (x : Ncp) : (s.setNcp p x).fresh = s.fresh := by cases p <;> rfl
@[simp] theorem setNcp_limits (p : Pair) (x : Ncp) : (s.setNcp p x).limits = s.limits := by cases p <;> rfl
@[simp] theorem setNcp_regs (p : Pair) (x : Ncp) : (s.setNcp p x).regs = s.regs := by cases p <;> rfl
@[simp] theorem setNcp_applied (p : Pair) (x : Ncp) : (s.setNcp p x).applied = s.applied := by cases p <;> rfl
@[simp] theorem setNcp_staged (p : Pair) (x : Ncp) : (s.setNcp p x).staged = s.staged := by cases p <;> rfl
@[simp] theorem setNcp_latches (p : Pair) (x : Ncp) : (s.setNcp p x).latches = s.latches := by cases p <;> rfl
@[simp] theorem setNcp_funcs (p : Pair) (x : Ncp) : (s.setNcp p x).funcs = s.funcs := by cases p <;> rfl
@[simp] theorem setNcp_key (p : Pair) (x : Ncp) : (s.setNcp p x).key = s.key := by cases p <;> rfl
@[simp] theorem setNcp_ldx (p : Pair) (x : Ncp) : (s.setNcp p x).ldx = s.ldx := by cases p <;> rfl
@[simp] theorem setNcp_queues (p : Pair) (x : Ncp) : (s.setNcp p x).queues = s.queues := by cases p <;> rfl
@[simp] theorem setNcp_hostq (p : Pair) (x : Ncp) : (s.setNcp p x).hostq = s.hostq := by cases p <;> rfl
@[simp] theorem setNcp_dma (p : Pair) (x : Ncp) : (s.setNcp p x).dma = s.dma := by cases p <;> rfl
@[simp] theorem setNcp_pcie (p : Pair) (x : Ncp) : (s.setNcp p x).pcie = s.pcie := by cases p <;> rfl
@[simp] theorem setNcp_flt (p : Pair) (x : Ncp) : (s.setNcp p x).flt = s.flt := by cases p <;> rfl
@[simp] theorem setNcp_ident (p : Pair) (x : Ncp) : (s.setNcp p x).ident = s.ident := by cases p <;> rfl
@[simp] theorem setNcp_time (p : Pair) (x : Ncp) : (s.setNcp p x).time = s.time := by cases p <;> rfl
@[simp] theorem setNcp_axes (p : Pair) (x : Ncp) : (s.setNcp p x).axes = s.axes := by cases p <;> rfl
@[simp] theorem setNcp_linkW (p : Pair) (x : Ncp) : (s.setNcp p x).linkW = s.linkW := by cases p <;> rfl
@[simp] theorem setNcp_linkE (p : Pair) (x : Ncp) : (s.setNcp p x).linkE = s.linkE := by cases p <;> rfl
@[simp] theorem setNcp_linkT (p : Pair) (x : Ncp) : (s.setNcp p x).linkT = s.linkT := by cases p <;> rfl
@[simp] theorem setNcp_fwd (p : Pair) (x : Ncp) : (s.setNcp p x).fwd = s.fwd := by cases p <;> rfl
@[simp] theorem setNcp_shared (p : Pair) (x : Ncp) : (s.setNcp p x).shared = s.shared := by cases p <;> rfl
@[simp] theorem setNcp_lines (p : Pair) (x : Ncp) : (s.setNcp p x).lines = s.lines := by cases p <;> rfl
@[simp] theorem setNcp_uarts (p : Pair) (x : Ncp) : (s.setNcp p x).uarts = s.uarts := by cases p <;> rfl
@[simp] theorem setNcp_encoders (p : Pair) (x : Ncp) : (s.setNcp p x).encoders = s.encoders := by cases p <;> rfl
@[simp] theorem setNcp_engines (p : Pair) (x : Ncp) : (s.setNcp p x).engines = s.engines := by cases p <;> rfl
@[simp] theorem setNcp_fronds (p : Pair) (x : Ncp) : (s.setNcp p x).fronds = s.fronds := by cases p <;> rfl
@[simp] theorem setNcp_act (p : Pair) (x : Ncp) : (s.setNcp p x).act = s.act := by cases p <;> rfl
@[simp] theorem setNcp_cans (p : Pair) (x : Ncp) : (s.setNcp p x).cans = s.cans := by cases p <;> rfl
@[simp] theorem setNcp_canPll (p : Pair) (x : Ncp) : (s.setNcp p x).canPll = s.canPll := by cases p <;> rfl
@[simp] theorem setNcp_brg (p : Pair) (x : Ncp) : (s.setNcp p x).brg = s.brg := by cases p <;> rfl
@[simp] theorem setNcp_usb (p : Pair) (x : Ncp) : (s.setNcp p x).usb = s.usb := by cases p <;> rfl
@[simp] theorem setNcp_power (p : Pair) (x : Ncp) : (s.setNcp p x).power = s.power := by cases p <;> rfl
@[simp] theorem setNcp_dieA (p : Pair) (x : Ncp) : (s.setNcp p x).dieA = s.dieA := by cases p <;> rfl
@[simp] theorem setNcp_dieB (p : Pair) (x : Ncp) : (s.setNcp p x).dieB = s.dieB := by cases p <;> rfl
@[simp] theorem setNcp_rpr (p : Pair) (x : Ncp) : (s.setNcp p x).rpr = s.rpr := by cases p <;> rfl
@[simp] theorem setNcp_peat (p : Pair) (x : Ncp) : (s.setNcp p x).peat = s.peat := by cases p <;> rfl
@[simp] theorem setNcp_boot (p : Pair) (x : Ncp) : (s.setNcp p x).boot = s.boot := by cases p <;> rfl
@[simp] theorem setNcp_pair (p : Pair) (x : Ncp) : (s.setNcp p x).pair = s.pair := by cases p <;> rfl
@[simp] theorem setNcp_image (p : Pair) (x : Ncp) : (s.setNcp p x).image = s.image := by cases p <;> rfl
@[simp] theorem setNcp_xact (p : Pair) (x : Ncp) : (s.setNcp p x).xact = s.xact := by cases p <;> rfl

/-! ### setQueue -/

@[simp] theorem setQueue_pending (q : Nat) (x : LocalQueue) : (s.setQueue q x).pending = s.pending := rfl
@[simp] theorem setQueue_out (q : Nat) (x : LocalQueue) : (s.setQueue q x).out = s.out := rfl
@[simp] theorem setQueue_raised (q : Nat) (x : LocalQueue) : (s.setQueue q x).raised = s.raised := rfl
@[simp] theorem setQueue_now (q : Nat) (x : LocalQueue) : (s.setQueue q x).now = s.now := rfl
@[simp] theorem setQueue_fresh (q : Nat) (x : LocalQueue) : (s.setQueue q x).fresh = s.fresh := rfl
@[simp] theorem setQueue_limits (q : Nat) (x : LocalQueue) : (s.setQueue q x).limits = s.limits := rfl
@[simp] theorem setQueue_regs (q : Nat) (x : LocalQueue) : (s.setQueue q x).regs = s.regs := rfl
@[simp] theorem setQueue_applied (q : Nat) (x : LocalQueue) : (s.setQueue q x).applied = s.applied := rfl
@[simp] theorem setQueue_staged (q : Nat) (x : LocalQueue) : (s.setQueue q x).staged = s.staged := rfl
@[simp] theorem setQueue_latches (q : Nat) (x : LocalQueue) : (s.setQueue q x).latches = s.latches := rfl
@[simp] theorem setQueue_funcs (q : Nat) (x : LocalQueue) : (s.setQueue q x).funcs = s.funcs := rfl
@[simp] theorem setQueue_key (q : Nat) (x : LocalQueue) : (s.setQueue q x).key = s.key := rfl
@[simp] theorem setQueue_ldx (q : Nat) (x : LocalQueue) : (s.setQueue q x).ldx = s.ldx := rfl
@[simp] theorem setQueue_hostq (q : Nat) (x : LocalQueue) : (s.setQueue q x).hostq = s.hostq := rfl
@[simp] theorem setQueue_dma (q : Nat) (x : LocalQueue) : (s.setQueue q x).dma = s.dma := rfl
@[simp] theorem setQueue_pcie (q : Nat) (x : LocalQueue) : (s.setQueue q x).pcie = s.pcie := rfl
@[simp] theorem setQueue_flt (q : Nat) (x : LocalQueue) : (s.setQueue q x).flt = s.flt := rfl
@[simp] theorem setQueue_ident (q : Nat) (x : LocalQueue) : (s.setQueue q x).ident = s.ident := rfl
@[simp] theorem setQueue_time (q : Nat) (x : LocalQueue) : (s.setQueue q x).time = s.time := rfl
@[simp] theorem setQueue_axes (q : Nat) (x : LocalQueue) : (s.setQueue q x).axes = s.axes := rfl
@[simp] theorem setQueue_ncpA (q : Nat) (x : LocalQueue) : (s.setQueue q x).ncpA = s.ncpA := rfl
@[simp] theorem setQueue_ncpB (q : Nat) (x : LocalQueue) : (s.setQueue q x).ncpB = s.ncpB := rfl
@[simp] theorem setQueue_linkW (q : Nat) (x : LocalQueue) : (s.setQueue q x).linkW = s.linkW := rfl
@[simp] theorem setQueue_linkE (q : Nat) (x : LocalQueue) : (s.setQueue q x).linkE = s.linkE := rfl
@[simp] theorem setQueue_linkT (q : Nat) (x : LocalQueue) : (s.setQueue q x).linkT = s.linkT := rfl
@[simp] theorem setQueue_fwd (q : Nat) (x : LocalQueue) : (s.setQueue q x).fwd = s.fwd := rfl
@[simp] theorem setQueue_shared (q : Nat) (x : LocalQueue) : (s.setQueue q x).shared = s.shared := rfl
@[simp] theorem setQueue_lines (q : Nat) (x : LocalQueue) : (s.setQueue q x).lines = s.lines := rfl
@[simp] theorem setQueue_uarts (q : Nat) (x : LocalQueue) : (s.setQueue q x).uarts = s.uarts := rfl
@[simp] theorem setQueue_encoders (q : Nat) (x : LocalQueue) : (s.setQueue q x).encoders = s.encoders := rfl
@[simp] theorem setQueue_engines (q : Nat) (x : LocalQueue) : (s.setQueue q x).engines = s.engines := rfl
@[simp] theorem setQueue_fronds (q : Nat) (x : LocalQueue) : (s.setQueue q x).fronds = s.fronds := rfl
@[simp] theorem setQueue_act (q : Nat) (x : LocalQueue) : (s.setQueue q x).act = s.act := rfl
@[simp] theorem setQueue_cans (q : Nat) (x : LocalQueue) : (s.setQueue q x).cans = s.cans := rfl
@[simp] theorem setQueue_canPll (q : Nat) (x : LocalQueue) : (s.setQueue q x).canPll = s.canPll := rfl
@[simp] theorem setQueue_brg (q : Nat) (x : LocalQueue) : (s.setQueue q x).brg = s.brg := rfl
@[simp] theorem setQueue_usb (q : Nat) (x : LocalQueue) : (s.setQueue q x).usb = s.usb := rfl
@[simp] theorem setQueue_power (q : Nat) (x : LocalQueue) : (s.setQueue q x).power = s.power := rfl
@[simp] theorem setQueue_dieA (q : Nat) (x : LocalQueue) : (s.setQueue q x).dieA = s.dieA := rfl
@[simp] theorem setQueue_dieB (q : Nat) (x : LocalQueue) : (s.setQueue q x).dieB = s.dieB := rfl
@[simp] theorem setQueue_rpr (q : Nat) (x : LocalQueue) : (s.setQueue q x).rpr = s.rpr := rfl
@[simp] theorem setQueue_peat (q : Nat) (x : LocalQueue) : (s.setQueue q x).peat = s.peat := rfl
@[simp] theorem setQueue_boot (q : Nat) (x : LocalQueue) : (s.setQueue q x).boot = s.boot := rfl
@[simp] theorem setQueue_pair (q : Nat) (x : LocalQueue) : (s.setQueue q x).pair = s.pair := rfl
@[simp] theorem setQueue_image (q : Nat) (x : LocalQueue) : (s.setQueue q x).image = s.image := rfl
@[simp] theorem setQueue_xact (q : Nat) (x : LocalQueue) : (s.setQueue q x).xact = s.xact := rfl

/-! ### setHq -/

@[simp] theorem setHq_pending (h : Nat) (x : HostQueue) : (s.setHq h x).pending = s.pending := rfl
@[simp] theorem setHq_out (h : Nat) (x : HostQueue) : (s.setHq h x).out = s.out := rfl
@[simp] theorem setHq_raised (h : Nat) (x : HostQueue) : (s.setHq h x).raised = s.raised := rfl
@[simp] theorem setHq_now (h : Nat) (x : HostQueue) : (s.setHq h x).now = s.now := rfl
@[simp] theorem setHq_fresh (h : Nat) (x : HostQueue) : (s.setHq h x).fresh = s.fresh := rfl
@[simp] theorem setHq_limits (h : Nat) (x : HostQueue) : (s.setHq h x).limits = s.limits := rfl
@[simp] theorem setHq_regs (h : Nat) (x : HostQueue) : (s.setHq h x).regs = s.regs := rfl
@[simp] theorem setHq_applied (h : Nat) (x : HostQueue) : (s.setHq h x).applied = s.applied := rfl
@[simp] theorem setHq_staged (h : Nat) (x : HostQueue) : (s.setHq h x).staged = s.staged := rfl
@[simp] theorem setHq_latches (h : Nat) (x : HostQueue) : (s.setHq h x).latches = s.latches := rfl
@[simp] theorem setHq_funcs (h : Nat) (x : HostQueue) : (s.setHq h x).funcs = s.funcs := rfl
@[simp] theorem setHq_key (h : Nat) (x : HostQueue) : (s.setHq h x).key = s.key := rfl
@[simp] theorem setHq_ldx (h : Nat) (x : HostQueue) : (s.setHq h x).ldx = s.ldx := rfl
@[simp] theorem setHq_queues (h : Nat) (x : HostQueue) : (s.setHq h x).queues = s.queues := rfl
@[simp] theorem setHq_dma (h : Nat) (x : HostQueue) : (s.setHq h x).dma = s.dma := rfl
@[simp] theorem setHq_pcie (h : Nat) (x : HostQueue) : (s.setHq h x).pcie = s.pcie := rfl
@[simp] theorem setHq_flt (h : Nat) (x : HostQueue) : (s.setHq h x).flt = s.flt := rfl
@[simp] theorem setHq_ident (h : Nat) (x : HostQueue) : (s.setHq h x).ident = s.ident := rfl
@[simp] theorem setHq_time (h : Nat) (x : HostQueue) : (s.setHq h x).time = s.time := rfl
@[simp] theorem setHq_axes (h : Nat) (x : HostQueue) : (s.setHq h x).axes = s.axes := rfl
@[simp] theorem setHq_ncpA (h : Nat) (x : HostQueue) : (s.setHq h x).ncpA = s.ncpA := rfl
@[simp] theorem setHq_ncpB (h : Nat) (x : HostQueue) : (s.setHq h x).ncpB = s.ncpB := rfl
@[simp] theorem setHq_linkW (h : Nat) (x : HostQueue) : (s.setHq h x).linkW = s.linkW := rfl
@[simp] theorem setHq_linkE (h : Nat) (x : HostQueue) : (s.setHq h x).linkE = s.linkE := rfl
@[simp] theorem setHq_linkT (h : Nat) (x : HostQueue) : (s.setHq h x).linkT = s.linkT := rfl
@[simp] theorem setHq_fwd (h : Nat) (x : HostQueue) : (s.setHq h x).fwd = s.fwd := rfl
@[simp] theorem setHq_shared (h : Nat) (x : HostQueue) : (s.setHq h x).shared = s.shared := rfl
@[simp] theorem setHq_lines (h : Nat) (x : HostQueue) : (s.setHq h x).lines = s.lines := rfl
@[simp] theorem setHq_uarts (h : Nat) (x : HostQueue) : (s.setHq h x).uarts = s.uarts := rfl
@[simp] theorem setHq_encoders (h : Nat) (x : HostQueue) : (s.setHq h x).encoders = s.encoders := rfl
@[simp] theorem setHq_engines (h : Nat) (x : HostQueue) : (s.setHq h x).engines = s.engines := rfl
@[simp] theorem setHq_fronds (h : Nat) (x : HostQueue) : (s.setHq h x).fronds = s.fronds := rfl
@[simp] theorem setHq_act (h : Nat) (x : HostQueue) : (s.setHq h x).act = s.act := rfl
@[simp] theorem setHq_cans (h : Nat) (x : HostQueue) : (s.setHq h x).cans = s.cans := rfl
@[simp] theorem setHq_canPll (h : Nat) (x : HostQueue) : (s.setHq h x).canPll = s.canPll := rfl
@[simp] theorem setHq_brg (h : Nat) (x : HostQueue) : (s.setHq h x).brg = s.brg := rfl
@[simp] theorem setHq_usb (h : Nat) (x : HostQueue) : (s.setHq h x).usb = s.usb := rfl
@[simp] theorem setHq_power (h : Nat) (x : HostQueue) : (s.setHq h x).power = s.power := rfl
@[simp] theorem setHq_dieA (h : Nat) (x : HostQueue) : (s.setHq h x).dieA = s.dieA := rfl
@[simp] theorem setHq_dieB (h : Nat) (x : HostQueue) : (s.setHq h x).dieB = s.dieB := rfl
@[simp] theorem setHq_rpr (h : Nat) (x : HostQueue) : (s.setHq h x).rpr = s.rpr := rfl
@[simp] theorem setHq_peat (h : Nat) (x : HostQueue) : (s.setHq h x).peat = s.peat := rfl
@[simp] theorem setHq_boot (h : Nat) (x : HostQueue) : (s.setHq h x).boot = s.boot := rfl
@[simp] theorem setHq_pair (h : Nat) (x : HostQueue) : (s.setHq h x).pair = s.pair := rfl
@[simp] theorem setHq_image (h : Nat) (x : HostQueue) : (s.setHq h x).image = s.image := rfl
@[simp] theorem setHq_xact (h : Nat) (x : HostQueue) : (s.setHq h x).xact = s.xact := rfl

/-! ### setDma -/

@[simp] theorem setDma_pending (c : Nat) (x : Dma) : (s.setDma c x).pending = s.pending := rfl
@[simp] theorem setDma_out (c : Nat) (x : Dma) : (s.setDma c x).out = s.out := rfl
@[simp] theorem setDma_raised (c : Nat) (x : Dma) : (s.setDma c x).raised = s.raised := rfl
@[simp] theorem setDma_now (c : Nat) (x : Dma) : (s.setDma c x).now = s.now := rfl
@[simp] theorem setDma_fresh (c : Nat) (x : Dma) : (s.setDma c x).fresh = s.fresh := rfl
@[simp] theorem setDma_limits (c : Nat) (x : Dma) : (s.setDma c x).limits = s.limits := rfl
@[simp] theorem setDma_regs (c : Nat) (x : Dma) : (s.setDma c x).regs = s.regs := rfl
@[simp] theorem setDma_applied (c : Nat) (x : Dma) : (s.setDma c x).applied = s.applied := rfl
@[simp] theorem setDma_staged (c : Nat) (x : Dma) : (s.setDma c x).staged = s.staged := rfl
@[simp] theorem setDma_latches (c : Nat) (x : Dma) : (s.setDma c x).latches = s.latches := rfl
@[simp] theorem setDma_funcs (c : Nat) (x : Dma) : (s.setDma c x).funcs = s.funcs := rfl
@[simp] theorem setDma_key (c : Nat) (x : Dma) : (s.setDma c x).key = s.key := rfl
@[simp] theorem setDma_ldx (c : Nat) (x : Dma) : (s.setDma c x).ldx = s.ldx := rfl
@[simp] theorem setDma_queues (c : Nat) (x : Dma) : (s.setDma c x).queues = s.queues := rfl
@[simp] theorem setDma_hostq (c : Nat) (x : Dma) : (s.setDma c x).hostq = s.hostq := rfl
@[simp] theorem setDma_pcie (c : Nat) (x : Dma) : (s.setDma c x).pcie = s.pcie := rfl
@[simp] theorem setDma_flt (c : Nat) (x : Dma) : (s.setDma c x).flt = s.flt := rfl
@[simp] theorem setDma_ident (c : Nat) (x : Dma) : (s.setDma c x).ident = s.ident := rfl
@[simp] theorem setDma_time (c : Nat) (x : Dma) : (s.setDma c x).time = s.time := rfl
@[simp] theorem setDma_axes (c : Nat) (x : Dma) : (s.setDma c x).axes = s.axes := rfl
@[simp] theorem setDma_ncpA (c : Nat) (x : Dma) : (s.setDma c x).ncpA = s.ncpA := rfl
@[simp] theorem setDma_ncpB (c : Nat) (x : Dma) : (s.setDma c x).ncpB = s.ncpB := rfl
@[simp] theorem setDma_linkW (c : Nat) (x : Dma) : (s.setDma c x).linkW = s.linkW := rfl
@[simp] theorem setDma_linkE (c : Nat) (x : Dma) : (s.setDma c x).linkE = s.linkE := rfl
@[simp] theorem setDma_linkT (c : Nat) (x : Dma) : (s.setDma c x).linkT = s.linkT := rfl
@[simp] theorem setDma_fwd (c : Nat) (x : Dma) : (s.setDma c x).fwd = s.fwd := rfl
@[simp] theorem setDma_shared (c : Nat) (x : Dma) : (s.setDma c x).shared = s.shared := rfl
@[simp] theorem setDma_lines (c : Nat) (x : Dma) : (s.setDma c x).lines = s.lines := rfl
@[simp] theorem setDma_uarts (c : Nat) (x : Dma) : (s.setDma c x).uarts = s.uarts := rfl
@[simp] theorem setDma_encoders (c : Nat) (x : Dma) : (s.setDma c x).encoders = s.encoders := rfl
@[simp] theorem setDma_engines (c : Nat) (x : Dma) : (s.setDma c x).engines = s.engines := rfl
@[simp] theorem setDma_fronds (c : Nat) (x : Dma) : (s.setDma c x).fronds = s.fronds := rfl
@[simp] theorem setDma_act (c : Nat) (x : Dma) : (s.setDma c x).act = s.act := rfl
@[simp] theorem setDma_cans (c : Nat) (x : Dma) : (s.setDma c x).cans = s.cans := rfl
@[simp] theorem setDma_canPll (c : Nat) (x : Dma) : (s.setDma c x).canPll = s.canPll := rfl
@[simp] theorem setDma_brg (c : Nat) (x : Dma) : (s.setDma c x).brg = s.brg := rfl
@[simp] theorem setDma_usb (c : Nat) (x : Dma) : (s.setDma c x).usb = s.usb := rfl
@[simp] theorem setDma_power (c : Nat) (x : Dma) : (s.setDma c x).power = s.power := rfl
@[simp] theorem setDma_dieA (c : Nat) (x : Dma) : (s.setDma c x).dieA = s.dieA := rfl
@[simp] theorem setDma_dieB (c : Nat) (x : Dma) : (s.setDma c x).dieB = s.dieB := rfl
@[simp] theorem setDma_rpr (c : Nat) (x : Dma) : (s.setDma c x).rpr = s.rpr := rfl
@[simp] theorem setDma_peat (c : Nat) (x : Dma) : (s.setDma c x).peat = s.peat := rfl
@[simp] theorem setDma_boot (c : Nat) (x : Dma) : (s.setDma c x).boot = s.boot := rfl
@[simp] theorem setDma_pair (c : Nat) (x : Dma) : (s.setDma c x).pair = s.pair := rfl
@[simp] theorem setDma_image (c : Nat) (x : Dma) : (s.setDma c x).image = s.image := rfl
@[simp] theorem setDma_xact (c : Nat) (x : Dma) : (s.setDma c x).xact = s.xact := rfl

/-! ### setFltEntry -/

@[simp] theorem setFltEntry_pending (e : Nat) (x : FltEntry) : (s.setFltEntry e x).pending = s.pending := rfl
@[simp] theorem setFltEntry_out (e : Nat) (x : FltEntry) : (s.setFltEntry e x).out = s.out := rfl
@[simp] theorem setFltEntry_raised (e : Nat) (x : FltEntry) : (s.setFltEntry e x).raised = s.raised := rfl
@[simp] theorem setFltEntry_now (e : Nat) (x : FltEntry) : (s.setFltEntry e x).now = s.now := rfl
@[simp] theorem setFltEntry_fresh (e : Nat) (x : FltEntry) : (s.setFltEntry e x).fresh = s.fresh := rfl
@[simp] theorem setFltEntry_limits (e : Nat) (x : FltEntry) : (s.setFltEntry e x).limits = s.limits := rfl
@[simp] theorem setFltEntry_regs (e : Nat) (x : FltEntry) : (s.setFltEntry e x).regs = s.regs := rfl
@[simp] theorem setFltEntry_applied (e : Nat) (x : FltEntry) : (s.setFltEntry e x).applied = s.applied := rfl
@[simp] theorem setFltEntry_staged (e : Nat) (x : FltEntry) : (s.setFltEntry e x).staged = s.staged := rfl
@[simp] theorem setFltEntry_latches (e : Nat) (x : FltEntry) : (s.setFltEntry e x).latches = s.latches := rfl
@[simp] theorem setFltEntry_funcs (e : Nat) (x : FltEntry) : (s.setFltEntry e x).funcs = s.funcs := rfl
@[simp] theorem setFltEntry_key (e : Nat) (x : FltEntry) : (s.setFltEntry e x).key = s.key := rfl
@[simp] theorem setFltEntry_ldx (e : Nat) (x : FltEntry) : (s.setFltEntry e x).ldx = s.ldx := rfl
@[simp] theorem setFltEntry_queues (e : Nat) (x : FltEntry) : (s.setFltEntry e x).queues = s.queues := rfl
@[simp] theorem setFltEntry_hostq (e : Nat) (x : FltEntry) : (s.setFltEntry e x).hostq = s.hostq := rfl
@[simp] theorem setFltEntry_dma (e : Nat) (x : FltEntry) : (s.setFltEntry e x).dma = s.dma := rfl
@[simp] theorem setFltEntry_pcie (e : Nat) (x : FltEntry) : (s.setFltEntry e x).pcie = s.pcie := rfl
@[simp] theorem setFltEntry_ident (e : Nat) (x : FltEntry) : (s.setFltEntry e x).ident = s.ident := rfl
@[simp] theorem setFltEntry_time (e : Nat) (x : FltEntry) : (s.setFltEntry e x).time = s.time := rfl
@[simp] theorem setFltEntry_axes (e : Nat) (x : FltEntry) : (s.setFltEntry e x).axes = s.axes := rfl
@[simp] theorem setFltEntry_ncpA (e : Nat) (x : FltEntry) : (s.setFltEntry e x).ncpA = s.ncpA := rfl
@[simp] theorem setFltEntry_ncpB (e : Nat) (x : FltEntry) : (s.setFltEntry e x).ncpB = s.ncpB := rfl
@[simp] theorem setFltEntry_linkW (e : Nat) (x : FltEntry) : (s.setFltEntry e x).linkW = s.linkW := rfl
@[simp] theorem setFltEntry_linkE (e : Nat) (x : FltEntry) : (s.setFltEntry e x).linkE = s.linkE := rfl
@[simp] theorem setFltEntry_linkT (e : Nat) (x : FltEntry) : (s.setFltEntry e x).linkT = s.linkT := rfl
@[simp] theorem setFltEntry_fwd (e : Nat) (x : FltEntry) : (s.setFltEntry e x).fwd = s.fwd := rfl
@[simp] theorem setFltEntry_shared (e : Nat) (x : FltEntry) : (s.setFltEntry e x).shared = s.shared := rfl
@[simp] theorem setFltEntry_lines (e : Nat) (x : FltEntry) : (s.setFltEntry e x).lines = s.lines := rfl
@[simp] theorem setFltEntry_uarts (e : Nat) (x : FltEntry) : (s.setFltEntry e x).uarts = s.uarts := rfl
@[simp] theorem setFltEntry_encoders (e : Nat) (x : FltEntry) : (s.setFltEntry e x).encoders = s.encoders := rfl
@[simp] theorem setFltEntry_engines (e : Nat) (x : FltEntry) : (s.setFltEntry e x).engines = s.engines := rfl
@[simp] theorem setFltEntry_fronds (e : Nat) (x : FltEntry) : (s.setFltEntry e x).fronds = s.fronds := rfl
@[simp] theorem setFltEntry_act (e : Nat) (x : FltEntry) : (s.setFltEntry e x).act = s.act := rfl
@[simp] theorem setFltEntry_cans (e : Nat) (x : FltEntry) : (s.setFltEntry e x).cans = s.cans := rfl
@[simp] theorem setFltEntry_canPll (e : Nat) (x : FltEntry) : (s.setFltEntry e x).canPll = s.canPll := rfl
@[simp] theorem setFltEntry_brg (e : Nat) (x : FltEntry) : (s.setFltEntry e x).brg = s.brg := rfl
@[simp] theorem setFltEntry_usb (e : Nat) (x : FltEntry) : (s.setFltEntry e x).usb = s.usb := rfl
@[simp] theorem setFltEntry_power (e : Nat) (x : FltEntry) : (s.setFltEntry e x).power = s.power := rfl
@[simp] theorem setFltEntry_dieA (e : Nat) (x : FltEntry) : (s.setFltEntry e x).dieA = s.dieA := rfl
@[simp] theorem setFltEntry_dieB (e : Nat) (x : FltEntry) : (s.setFltEntry e x).dieB = s.dieB := rfl
@[simp] theorem setFltEntry_rpr (e : Nat) (x : FltEntry) : (s.setFltEntry e x).rpr = s.rpr := rfl
@[simp] theorem setFltEntry_peat (e : Nat) (x : FltEntry) : (s.setFltEntry e x).peat = s.peat := rfl
@[simp] theorem setFltEntry_boot (e : Nat) (x : FltEntry) : (s.setFltEntry e x).boot = s.boot := rfl
@[simp] theorem setFltEntry_pair (e : Nat) (x : FltEntry) : (s.setFltEntry e x).pair = s.pair := rfl
@[simp] theorem setFltEntry_image (e : Nat) (x : FltEntry) : (s.setFltEntry e x).image = s.image := rfl
@[simp] theorem setFltEntry_xact (e : Nat) (x : FltEntry) : (s.setFltEntry e x).xact = s.xact := rfl

/-! ### setLink -/

@[simp] theorem setLink_pending (l : Link) (x : LinkPort) : (s.setLink l x).pending = s.pending := by cases l <;> rfl
@[simp] theorem setLink_out (l : Link) (x : LinkPort) : (s.setLink l x).out = s.out := by cases l <;> rfl
@[simp] theorem setLink_raised (l : Link) (x : LinkPort) : (s.setLink l x).raised = s.raised := by cases l <;> rfl
@[simp] theorem setLink_now (l : Link) (x : LinkPort) : (s.setLink l x).now = s.now := by cases l <;> rfl
@[simp] theorem setLink_fresh (l : Link) (x : LinkPort) : (s.setLink l x).fresh = s.fresh := by cases l <;> rfl
@[simp] theorem setLink_limits (l : Link) (x : LinkPort) : (s.setLink l x).limits = s.limits := by cases l <;> rfl
@[simp] theorem setLink_regs (l : Link) (x : LinkPort) : (s.setLink l x).regs = s.regs := by cases l <;> rfl
@[simp] theorem setLink_applied (l : Link) (x : LinkPort) : (s.setLink l x).applied = s.applied := by cases l <;> rfl
@[simp] theorem setLink_staged (l : Link) (x : LinkPort) : (s.setLink l x).staged = s.staged := by cases l <;> rfl
@[simp] theorem setLink_latches (l : Link) (x : LinkPort) : (s.setLink l x).latches = s.latches := by cases l <;> rfl
@[simp] theorem setLink_funcs (l : Link) (x : LinkPort) : (s.setLink l x).funcs = s.funcs := by cases l <;> rfl
@[simp] theorem setLink_key (l : Link) (x : LinkPort) : (s.setLink l x).key = s.key := by cases l <;> rfl
@[simp] theorem setLink_ldx (l : Link) (x : LinkPort) : (s.setLink l x).ldx = s.ldx := by cases l <;> rfl
@[simp] theorem setLink_queues (l : Link) (x : LinkPort) : (s.setLink l x).queues = s.queues := by cases l <;> rfl
@[simp] theorem setLink_hostq (l : Link) (x : LinkPort) : (s.setLink l x).hostq = s.hostq := by cases l <;> rfl
@[simp] theorem setLink_dma (l : Link) (x : LinkPort) : (s.setLink l x).dma = s.dma := by cases l <;> rfl
@[simp] theorem setLink_pcie (l : Link) (x : LinkPort) : (s.setLink l x).pcie = s.pcie := by cases l <;> rfl
@[simp] theorem setLink_flt (l : Link) (x : LinkPort) : (s.setLink l x).flt = s.flt := by cases l <;> rfl
@[simp] theorem setLink_ident (l : Link) (x : LinkPort) : (s.setLink l x).ident = s.ident := by cases l <;> rfl
@[simp] theorem setLink_time (l : Link) (x : LinkPort) : (s.setLink l x).time = s.time := by cases l <;> rfl
@[simp] theorem setLink_axes (l : Link) (x : LinkPort) : (s.setLink l x).axes = s.axes := by cases l <;> rfl
@[simp] theorem setLink_ncpA (l : Link) (x : LinkPort) : (s.setLink l x).ncpA = s.ncpA := by cases l <;> rfl
@[simp] theorem setLink_ncpB (l : Link) (x : LinkPort) : (s.setLink l x).ncpB = s.ncpB := by cases l <;> rfl
@[simp] theorem setLink_fwd (l : Link) (x : LinkPort) : (s.setLink l x).fwd = s.fwd := by cases l <;> rfl
@[simp] theorem setLink_shared (l : Link) (x : LinkPort) : (s.setLink l x).shared = s.shared := by cases l <;> rfl
@[simp] theorem setLink_lines (l : Link) (x : LinkPort) : (s.setLink l x).lines = s.lines := by cases l <;> rfl
@[simp] theorem setLink_uarts (l : Link) (x : LinkPort) : (s.setLink l x).uarts = s.uarts := by cases l <;> rfl
@[simp] theorem setLink_encoders (l : Link) (x : LinkPort) : (s.setLink l x).encoders = s.encoders := by cases l <;> rfl
@[simp] theorem setLink_engines (l : Link) (x : LinkPort) : (s.setLink l x).engines = s.engines := by cases l <;> rfl
@[simp] theorem setLink_fronds (l : Link) (x : LinkPort) : (s.setLink l x).fronds = s.fronds := by cases l <;> rfl
@[simp] theorem setLink_act (l : Link) (x : LinkPort) : (s.setLink l x).act = s.act := by cases l <;> rfl
@[simp] theorem setLink_cans (l : Link) (x : LinkPort) : (s.setLink l x).cans = s.cans := by cases l <;> rfl
@[simp] theorem setLink_canPll (l : Link) (x : LinkPort) : (s.setLink l x).canPll = s.canPll := by cases l <;> rfl
@[simp] theorem setLink_brg (l : Link) (x : LinkPort) : (s.setLink l x).brg = s.brg := by cases l <;> rfl
@[simp] theorem setLink_usb (l : Link) (x : LinkPort) : (s.setLink l x).usb = s.usb := by cases l <;> rfl
@[simp] theorem setLink_power (l : Link) (x : LinkPort) : (s.setLink l x).power = s.power := by cases l <;> rfl
@[simp] theorem setLink_dieA (l : Link) (x : LinkPort) : (s.setLink l x).dieA = s.dieA := by cases l <;> rfl
@[simp] theorem setLink_dieB (l : Link) (x : LinkPort) : (s.setLink l x).dieB = s.dieB := by cases l <;> rfl
@[simp] theorem setLink_rpr (l : Link) (x : LinkPort) : (s.setLink l x).rpr = s.rpr := by cases l <;> rfl
@[simp] theorem setLink_peat (l : Link) (x : LinkPort) : (s.setLink l x).peat = s.peat := by cases l <;> rfl
@[simp] theorem setLink_boot (l : Link) (x : LinkPort) : (s.setLink l x).boot = s.boot := by cases l <;> rfl
@[simp] theorem setLink_pair (l : Link) (x : LinkPort) : (s.setLink l x).pair = s.pair := by cases l <;> rfl
@[simp] theorem setLink_image (l : Link) (x : LinkPort) : (s.setLink l x).image = s.image := by cases l <;> rfl
@[simp] theorem setLink_xact (l : Link) (x : LinkPort) : (s.setLink l x).xact = s.xact := by cases l <;> rfl

/-! ### setSched -/

@[simp] theorem setSched_pending (l : Link) (x : OutSched) : (s.setSched l x).pending = s.pending := by cases l <;> rfl
@[simp] theorem setSched_out (l : Link) (x : OutSched) : (s.setSched l x).out = s.out := by cases l <;> rfl
@[simp] theorem setSched_raised (l : Link) (x : OutSched) : (s.setSched l x).raised = s.raised := by cases l <;> rfl
@[simp] theorem setSched_now (l : Link) (x : OutSched) : (s.setSched l x).now = s.now := by cases l <;> rfl
@[simp] theorem setSched_fresh (l : Link) (x : OutSched) : (s.setSched l x).fresh = s.fresh := by cases l <;> rfl
@[simp] theorem setSched_limits (l : Link) (x : OutSched) : (s.setSched l x).limits = s.limits := by cases l <;> rfl
@[simp] theorem setSched_regs (l : Link) (x : OutSched) : (s.setSched l x).regs = s.regs := by cases l <;> rfl
@[simp] theorem setSched_applied (l : Link) (x : OutSched) : (s.setSched l x).applied = s.applied := by cases l <;> rfl
@[simp] theorem setSched_staged (l : Link) (x : OutSched) : (s.setSched l x).staged = s.staged := by cases l <;> rfl
@[simp] theorem setSched_latches (l : Link) (x : OutSched) : (s.setSched l x).latches = s.latches := by cases l <;> rfl
@[simp] theorem setSched_funcs (l : Link) (x : OutSched) : (s.setSched l x).funcs = s.funcs := by cases l <;> rfl
@[simp] theorem setSched_key (l : Link) (x : OutSched) : (s.setSched l x).key = s.key := by cases l <;> rfl
@[simp] theorem setSched_ldx (l : Link) (x : OutSched) : (s.setSched l x).ldx = s.ldx := by cases l <;> rfl
@[simp] theorem setSched_queues (l : Link) (x : OutSched) : (s.setSched l x).queues = s.queues := by cases l <;> rfl
@[simp] theorem setSched_hostq (l : Link) (x : OutSched) : (s.setSched l x).hostq = s.hostq := by cases l <;> rfl
@[simp] theorem setSched_dma (l : Link) (x : OutSched) : (s.setSched l x).dma = s.dma := by cases l <;> rfl
@[simp] theorem setSched_pcie (l : Link) (x : OutSched) : (s.setSched l x).pcie = s.pcie := by cases l <;> rfl
@[simp] theorem setSched_flt (l : Link) (x : OutSched) : (s.setSched l x).flt = s.flt := by cases l <;> rfl
@[simp] theorem setSched_ident (l : Link) (x : OutSched) : (s.setSched l x).ident = s.ident := by cases l <;> rfl
@[simp] theorem setSched_time (l : Link) (x : OutSched) : (s.setSched l x).time = s.time := by cases l <;> rfl
@[simp] theorem setSched_axes (l : Link) (x : OutSched) : (s.setSched l x).axes = s.axes := by cases l <;> rfl
@[simp] theorem setSched_ncpA (l : Link) (x : OutSched) : (s.setSched l x).ncpA = s.ncpA := by cases l <;> rfl
@[simp] theorem setSched_ncpB (l : Link) (x : OutSched) : (s.setSched l x).ncpB = s.ncpB := by cases l <;> rfl
@[simp] theorem setSched_linkW (l : Link) (x : OutSched) : (s.setSched l x).linkW = s.linkW := by cases l <;> rfl
@[simp] theorem setSched_linkE (l : Link) (x : OutSched) : (s.setSched l x).linkE = s.linkE := by cases l <;> rfl
@[simp] theorem setSched_linkT (l : Link) (x : OutSched) : (s.setSched l x).linkT = s.linkT := by cases l <;> rfl
@[simp] theorem setSched_shared (l : Link) (x : OutSched) : (s.setSched l x).shared = s.shared := by cases l <;> rfl
@[simp] theorem setSched_lines (l : Link) (x : OutSched) : (s.setSched l x).lines = s.lines := by cases l <;> rfl
@[simp] theorem setSched_uarts (l : Link) (x : OutSched) : (s.setSched l x).uarts = s.uarts := by cases l <;> rfl
@[simp] theorem setSched_encoders (l : Link) (x : OutSched) : (s.setSched l x).encoders = s.encoders := by cases l <;> rfl
@[simp] theorem setSched_engines (l : Link) (x : OutSched) : (s.setSched l x).engines = s.engines := by cases l <;> rfl
@[simp] theorem setSched_fronds (l : Link) (x : OutSched) : (s.setSched l x).fronds = s.fronds := by cases l <;> rfl
@[simp] theorem setSched_act (l : Link) (x : OutSched) : (s.setSched l x).act = s.act := by cases l <;> rfl
@[simp] theorem setSched_cans (l : Link) (x : OutSched) : (s.setSched l x).cans = s.cans := by cases l <;> rfl
@[simp] theorem setSched_canPll (l : Link) (x : OutSched) : (s.setSched l x).canPll = s.canPll := by cases l <;> rfl
@[simp] theorem setSched_brg (l : Link) (x : OutSched) : (s.setSched l x).brg = s.brg := by cases l <;> rfl
@[simp] theorem setSched_usb (l : Link) (x : OutSched) : (s.setSched l x).usb = s.usb := by cases l <;> rfl
@[simp] theorem setSched_power (l : Link) (x : OutSched) : (s.setSched l x).power = s.power := by cases l <;> rfl
@[simp] theorem setSched_dieA (l : Link) (x : OutSched) : (s.setSched l x).dieA = s.dieA := by cases l <;> rfl
@[simp] theorem setSched_dieB (l : Link) (x : OutSched) : (s.setSched l x).dieB = s.dieB := by cases l <;> rfl
@[simp] theorem setSched_rpr (l : Link) (x : OutSched) : (s.setSched l x).rpr = s.rpr := by cases l <;> rfl
@[simp] theorem setSched_peat (l : Link) (x : OutSched) : (s.setSched l x).peat = s.peat := by cases l <;> rfl
@[simp] theorem setSched_boot (l : Link) (x : OutSched) : (s.setSched l x).boot = s.boot := by cases l <;> rfl
@[simp] theorem setSched_pair (l : Link) (x : OutSched) : (s.setSched l x).pair = s.pair := by cases l <;> rfl
@[simp] theorem setSched_image (l : Link) (x : OutSched) : (s.setSched l x).image = s.image := by cases l <;> rfl
@[simp] theorem setSched_xact (l : Link) (x : OutSched) : (s.setSched l x).xact = s.xact := by cases l <;> rfl

/-! ### setOpen -/

@[simp] theorem setOpen_pending (l : Link) (x : Option OpenIn) : (s.setOpen l x).pending = s.pending := by cases l <;> rfl
@[simp] theorem setOpen_out (l : Link) (x : Option OpenIn) : (s.setOpen l x).out = s.out := by cases l <;> rfl
@[simp] theorem setOpen_raised (l : Link) (x : Option OpenIn) : (s.setOpen l x).raised = s.raised := by cases l <;> rfl
@[simp] theorem setOpen_now (l : Link) (x : Option OpenIn) : (s.setOpen l x).now = s.now := by cases l <;> rfl
@[simp] theorem setOpen_fresh (l : Link) (x : Option OpenIn) : (s.setOpen l x).fresh = s.fresh := by cases l <;> rfl
@[simp] theorem setOpen_limits (l : Link) (x : Option OpenIn) : (s.setOpen l x).limits = s.limits := by cases l <;> rfl
@[simp] theorem setOpen_regs (l : Link) (x : Option OpenIn) : (s.setOpen l x).regs = s.regs := by cases l <;> rfl
@[simp] theorem setOpen_applied (l : Link) (x : Option OpenIn) : (s.setOpen l x).applied = s.applied := by cases l <;> rfl
@[simp] theorem setOpen_staged (l : Link) (x : Option OpenIn) : (s.setOpen l x).staged = s.staged := by cases l <;> rfl
@[simp] theorem setOpen_latches (l : Link) (x : Option OpenIn) : (s.setOpen l x).latches = s.latches := by cases l <;> rfl
@[simp] theorem setOpen_funcs (l : Link) (x : Option OpenIn) : (s.setOpen l x).funcs = s.funcs := by cases l <;> rfl
@[simp] theorem setOpen_key (l : Link) (x : Option OpenIn) : (s.setOpen l x).key = s.key := by cases l <;> rfl
@[simp] theorem setOpen_ldx (l : Link) (x : Option OpenIn) : (s.setOpen l x).ldx = s.ldx := by cases l <;> rfl
@[simp] theorem setOpen_queues (l : Link) (x : Option OpenIn) : (s.setOpen l x).queues = s.queues := by cases l <;> rfl
@[simp] theorem setOpen_hostq (l : Link) (x : Option OpenIn) : (s.setOpen l x).hostq = s.hostq := by cases l <;> rfl
@[simp] theorem setOpen_dma (l : Link) (x : Option OpenIn) : (s.setOpen l x).dma = s.dma := by cases l <;> rfl
@[simp] theorem setOpen_pcie (l : Link) (x : Option OpenIn) : (s.setOpen l x).pcie = s.pcie := by cases l <;> rfl
@[simp] theorem setOpen_flt (l : Link) (x : Option OpenIn) : (s.setOpen l x).flt = s.flt := by cases l <;> rfl
@[simp] theorem setOpen_ident (l : Link) (x : Option OpenIn) : (s.setOpen l x).ident = s.ident := by cases l <;> rfl
@[simp] theorem setOpen_time (l : Link) (x : Option OpenIn) : (s.setOpen l x).time = s.time := by cases l <;> rfl
@[simp] theorem setOpen_axes (l : Link) (x : Option OpenIn) : (s.setOpen l x).axes = s.axes := by cases l <;> rfl
@[simp] theorem setOpen_ncpA (l : Link) (x : Option OpenIn) : (s.setOpen l x).ncpA = s.ncpA := by cases l <;> rfl
@[simp] theorem setOpen_ncpB (l : Link) (x : Option OpenIn) : (s.setOpen l x).ncpB = s.ncpB := by cases l <;> rfl
@[simp] theorem setOpen_linkW (l : Link) (x : Option OpenIn) : (s.setOpen l x).linkW = s.linkW := by cases l <;> rfl
@[simp] theorem setOpen_linkE (l : Link) (x : Option OpenIn) : (s.setOpen l x).linkE = s.linkE := by cases l <;> rfl
@[simp] theorem setOpen_linkT (l : Link) (x : Option OpenIn) : (s.setOpen l x).linkT = s.linkT := by cases l <;> rfl
@[simp] theorem setOpen_shared (l : Link) (x : Option OpenIn) : (s.setOpen l x).shared = s.shared := by cases l <;> rfl
@[simp] theorem setOpen_lines (l : Link) (x : Option OpenIn) : (s.setOpen l x).lines = s.lines := by cases l <;> rfl
@[simp] theorem setOpen_uarts (l : Link) (x : Option OpenIn) : (s.setOpen l x).uarts = s.uarts := by cases l <;> rfl
@[simp] theorem setOpen_encoders (l : Link) (x : Option OpenIn) : (s.setOpen l x).encoders = s.encoders := by cases l <;> rfl
@[simp] theorem setOpen_engines (l : Link) (x : Option OpenIn) : (s.setOpen l x).engines = s.engines := by cases l <;> rfl
@[simp] theorem setOpen_fronds (l : Link) (x : Option OpenIn) : (s.setOpen l x).fronds = s.fronds := by cases l <;> rfl
@[simp] theorem setOpen_act (l : Link) (x : Option OpenIn) : (s.setOpen l x).act = s.act := by cases l <;> rfl
@[simp] theorem setOpen_cans (l : Link) (x : Option OpenIn) : (s.setOpen l x).cans = s.cans := by cases l <;> rfl
@[simp] theorem setOpen_canPll (l : Link) (x : Option OpenIn) : (s.setOpen l x).canPll = s.canPll := by cases l <;> rfl
@[simp] theorem setOpen_brg (l : Link) (x : Option OpenIn) : (s.setOpen l x).brg = s.brg := by cases l <;> rfl
@[simp] theorem setOpen_usb (l : Link) (x : Option OpenIn) : (s.setOpen l x).usb = s.usb := by cases l <;> rfl
@[simp] theorem setOpen_power (l : Link) (x : Option OpenIn) : (s.setOpen l x).power = s.power := by cases l <;> rfl
@[simp] theorem setOpen_dieA (l : Link) (x : Option OpenIn) : (s.setOpen l x).dieA = s.dieA := by cases l <;> rfl
@[simp] theorem setOpen_dieB (l : Link) (x : Option OpenIn) : (s.setOpen l x).dieB = s.dieB := by cases l <;> rfl
@[simp] theorem setOpen_rpr (l : Link) (x : Option OpenIn) : (s.setOpen l x).rpr = s.rpr := by cases l <;> rfl
@[simp] theorem setOpen_peat (l : Link) (x : Option OpenIn) : (s.setOpen l x).peat = s.peat := by cases l <;> rfl
@[simp] theorem setOpen_boot (l : Link) (x : Option OpenIn) : (s.setOpen l x).boot = s.boot := by cases l <;> rfl
@[simp] theorem setOpen_pair (l : Link) (x : Option OpenIn) : (s.setOpen l x).pair = s.pair := by cases l <;> rfl
@[simp] theorem setOpen_image (l : Link) (x : Option OpenIn) : (s.setOpen l x).image = s.image := by cases l <;> rfl
@[simp] theorem setOpen_xact (l : Link) (x : Option OpenIn) : (s.setOpen l x).xact = s.xact := by cases l <;> rfl

/-! ### setProbe -/

@[simp] theorem setProbe_pending (l : Link) (x : Probe) : (s.setProbe l x).pending = s.pending := by cases l <;> rfl
@[simp] theorem setProbe_out (l : Link) (x : Probe) : (s.setProbe l x).out = s.out := by cases l <;> rfl
@[simp] theorem setProbe_raised (l : Link) (x : Probe) : (s.setProbe l x).raised = s.raised := by cases l <;> rfl
@[simp] theorem setProbe_now (l : Link) (x : Probe) : (s.setProbe l x).now = s.now := by cases l <;> rfl
@[simp] theorem setProbe_fresh (l : Link) (x : Probe) : (s.setProbe l x).fresh = s.fresh := by cases l <;> rfl
@[simp] theorem setProbe_limits (l : Link) (x : Probe) : (s.setProbe l x).limits = s.limits := by cases l <;> rfl
@[simp] theorem setProbe_regs (l : Link) (x : Probe) : (s.setProbe l x).regs = s.regs := by cases l <;> rfl
@[simp] theorem setProbe_applied (l : Link) (x : Probe) : (s.setProbe l x).applied = s.applied := by cases l <;> rfl
@[simp] theorem setProbe_staged (l : Link) (x : Probe) : (s.setProbe l x).staged = s.staged := by cases l <;> rfl
@[simp] theorem setProbe_latches (l : Link) (x : Probe) : (s.setProbe l x).latches = s.latches := by cases l <;> rfl
@[simp] theorem setProbe_funcs (l : Link) (x : Probe) : (s.setProbe l x).funcs = s.funcs := by cases l <;> rfl
@[simp] theorem setProbe_key (l : Link) (x : Probe) : (s.setProbe l x).key = s.key := by cases l <;> rfl
@[simp] theorem setProbe_ldx (l : Link) (x : Probe) : (s.setProbe l x).ldx = s.ldx := by cases l <;> rfl
@[simp] theorem setProbe_queues (l : Link) (x : Probe) : (s.setProbe l x).queues = s.queues := by cases l <;> rfl
@[simp] theorem setProbe_hostq (l : Link) (x : Probe) : (s.setProbe l x).hostq = s.hostq := by cases l <;> rfl
@[simp] theorem setProbe_dma (l : Link) (x : Probe) : (s.setProbe l x).dma = s.dma := by cases l <;> rfl
@[simp] theorem setProbe_pcie (l : Link) (x : Probe) : (s.setProbe l x).pcie = s.pcie := by cases l <;> rfl
@[simp] theorem setProbe_flt (l : Link) (x : Probe) : (s.setProbe l x).flt = s.flt := by cases l <;> rfl
@[simp] theorem setProbe_ident (l : Link) (x : Probe) : (s.setProbe l x).ident = s.ident := by cases l <;> rfl
@[simp] theorem setProbe_axes (l : Link) (x : Probe) : (s.setProbe l x).axes = s.axes := by cases l <;> rfl
@[simp] theorem setProbe_ncpA (l : Link) (x : Probe) : (s.setProbe l x).ncpA = s.ncpA := by cases l <;> rfl
@[simp] theorem setProbe_ncpB (l : Link) (x : Probe) : (s.setProbe l x).ncpB = s.ncpB := by cases l <;> rfl
@[simp] theorem setProbe_linkW (l : Link) (x : Probe) : (s.setProbe l x).linkW = s.linkW := by cases l <;> rfl
@[simp] theorem setProbe_linkE (l : Link) (x : Probe) : (s.setProbe l x).linkE = s.linkE := by cases l <;> rfl
@[simp] theorem setProbe_linkT (l : Link) (x : Probe) : (s.setProbe l x).linkT = s.linkT := by cases l <;> rfl
@[simp] theorem setProbe_fwd (l : Link) (x : Probe) : (s.setProbe l x).fwd = s.fwd := by cases l <;> rfl
@[simp] theorem setProbe_shared (l : Link) (x : Probe) : (s.setProbe l x).shared = s.shared := by cases l <;> rfl
@[simp] theorem setProbe_lines (l : Link) (x : Probe) : (s.setProbe l x).lines = s.lines := by cases l <;> rfl
@[simp] theorem setProbe_uarts (l : Link) (x : Probe) : (s.setProbe l x).uarts = s.uarts := by cases l <;> rfl
@[simp] theorem setProbe_encoders (l : Link) (x : Probe) : (s.setProbe l x).encoders = s.encoders := by cases l <;> rfl
@[simp] theorem setProbe_engines (l : Link) (x : Probe) : (s.setProbe l x).engines = s.engines := by cases l <;> rfl
@[simp] theorem setProbe_fronds (l : Link) (x : Probe) : (s.setProbe l x).fronds = s.fronds := by cases l <;> rfl
@[simp] theorem setProbe_act (l : Link) (x : Probe) : (s.setProbe l x).act = s.act := by cases l <;> rfl
@[simp] theorem setProbe_cans (l : Link) (x : Probe) : (s.setProbe l x).cans = s.cans := by cases l <;> rfl
@[simp] theorem setProbe_canPll (l : Link) (x : Probe) : (s.setProbe l x).canPll = s.canPll := by cases l <;> rfl
@[simp] theorem setProbe_brg (l : Link) (x : Probe) : (s.setProbe l x).brg = s.brg := by cases l <;> rfl
@[simp] theorem setProbe_usb (l : Link) (x : Probe) : (s.setProbe l x).usb = s.usb := by cases l <;> rfl
@[simp] theorem setProbe_power (l : Link) (x : Probe) : (s.setProbe l x).power = s.power := by cases l <;> rfl
@[simp] theorem setProbe_dieA (l : Link) (x : Probe) : (s.setProbe l x).dieA = s.dieA := by cases l <;> rfl
@[simp] theorem setProbe_dieB (l : Link) (x : Probe) : (s.setProbe l x).dieB = s.dieB := by cases l <;> rfl
@[simp] theorem setProbe_rpr (l : Link) (x : Probe) : (s.setProbe l x).rpr = s.rpr := by cases l <;> rfl
@[simp] theorem setProbe_peat (l : Link) (x : Probe) : (s.setProbe l x).peat = s.peat := by cases l <;> rfl
@[simp] theorem setProbe_boot (l : Link) (x : Probe) : (s.setProbe l x).boot = s.boot := by cases l <;> rfl
@[simp] theorem setProbe_pair (l : Link) (x : Probe) : (s.setProbe l x).pair = s.pair := by cases l <;> rfl
@[simp] theorem setProbe_image (l : Link) (x : Probe) : (s.setProbe l x).image = s.image := by cases l <;> rfl
@[simp] theorem setProbe_xact (l : Link) (x : Probe) : (s.setProbe l x).xact = s.xact := by cases l <;> rfl

/-! ### setCan -/

@[simp] theorem setCan_pending (k : Nat) (x : Can) : (s.setCan k x).pending = s.pending := rfl
@[simp] theorem setCan_out (k : Nat) (x : Can) : (s.setCan k x).out = s.out := rfl
@[simp] theorem setCan_raised (k : Nat) (x : Can) : (s.setCan k x).raised = s.raised := rfl
@[simp] theorem setCan_now (k : Nat) (x : Can) : (s.setCan k x).now = s.now := rfl
@[simp] theorem setCan_fresh (k : Nat) (x : Can) : (s.setCan k x).fresh = s.fresh := rfl
@[simp] theorem setCan_limits (k : Nat) (x : Can) : (s.setCan k x).limits = s.limits := rfl
@[simp] theorem setCan_regs (k : Nat) (x : Can) : (s.setCan k x).regs = s.regs := rfl
@[simp] theorem setCan_applied (k : Nat) (x : Can) : (s.setCan k x).applied = s.applied := rfl
@[simp] theorem setCan_staged (k : Nat) (x : Can) : (s.setCan k x).staged = s.staged := rfl
@[simp] theorem setCan_latches (k : Nat) (x : Can) : (s.setCan k x).latches = s.latches := rfl
@[simp] theorem setCan_funcs (k : Nat) (x : Can) : (s.setCan k x).funcs = s.funcs := rfl
@[simp] theorem setCan_key (k : Nat) (x : Can) : (s.setCan k x).key = s.key := rfl
@[simp] theorem setCan_ldx (k : Nat) (x : Can) : (s.setCan k x).ldx = s.ldx := rfl
@[simp] theorem setCan_queues (k : Nat) (x : Can) : (s.setCan k x).queues = s.queues := rfl
@[simp] theorem setCan_hostq (k : Nat) (x : Can) : (s.setCan k x).hostq = s.hostq := rfl
@[simp] theorem setCan_dma (k : Nat) (x : Can) : (s.setCan k x).dma = s.dma := rfl
@[simp] theorem setCan_pcie (k : Nat) (x : Can) : (s.setCan k x).pcie = s.pcie := rfl
@[simp] theorem setCan_flt (k : Nat) (x : Can) : (s.setCan k x).flt = s.flt := rfl
@[simp] theorem setCan_ident (k : Nat) (x : Can) : (s.setCan k x).ident = s.ident := rfl
@[simp] theorem setCan_time (k : Nat) (x : Can) : (s.setCan k x).time = s.time := rfl
@[simp] theorem setCan_axes (k : Nat) (x : Can) : (s.setCan k x).axes = s.axes := rfl
@[simp] theorem setCan_ncpA (k : Nat) (x : Can) : (s.setCan k x).ncpA = s.ncpA := rfl
@[simp] theorem setCan_ncpB (k : Nat) (x : Can) : (s.setCan k x).ncpB = s.ncpB := rfl
@[simp] theorem setCan_linkW (k : Nat) (x : Can) : (s.setCan k x).linkW = s.linkW := rfl
@[simp] theorem setCan_linkE (k : Nat) (x : Can) : (s.setCan k x).linkE = s.linkE := rfl
@[simp] theorem setCan_linkT (k : Nat) (x : Can) : (s.setCan k x).linkT = s.linkT := rfl
@[simp] theorem setCan_fwd (k : Nat) (x : Can) : (s.setCan k x).fwd = s.fwd := rfl
@[simp] theorem setCan_shared (k : Nat) (x : Can) : (s.setCan k x).shared = s.shared := rfl
@[simp] theorem setCan_lines (k : Nat) (x : Can) : (s.setCan k x).lines = s.lines := rfl
@[simp] theorem setCan_uarts (k : Nat) (x : Can) : (s.setCan k x).uarts = s.uarts := rfl
@[simp] theorem setCan_encoders (k : Nat) (x : Can) : (s.setCan k x).encoders = s.encoders := rfl
@[simp] theorem setCan_engines (k : Nat) (x : Can) : (s.setCan k x).engines = s.engines := rfl
@[simp] theorem setCan_fronds (k : Nat) (x : Can) : (s.setCan k x).fronds = s.fronds := rfl
@[simp] theorem setCan_act (k : Nat) (x : Can) : (s.setCan k x).act = s.act := rfl
@[simp] theorem setCan_canPll (k : Nat) (x : Can) : (s.setCan k x).canPll = s.canPll := rfl
@[simp] theorem setCan_brg (k : Nat) (x : Can) : (s.setCan k x).brg = s.brg := rfl
@[simp] theorem setCan_usb (k : Nat) (x : Can) : (s.setCan k x).usb = s.usb := rfl
@[simp] theorem setCan_power (k : Nat) (x : Can) : (s.setCan k x).power = s.power := rfl
@[simp] theorem setCan_dieA (k : Nat) (x : Can) : (s.setCan k x).dieA = s.dieA := rfl
@[simp] theorem setCan_dieB (k : Nat) (x : Can) : (s.setCan k x).dieB = s.dieB := rfl
@[simp] theorem setCan_rpr (k : Nat) (x : Can) : (s.setCan k x).rpr = s.rpr := rfl
@[simp] theorem setCan_peat (k : Nat) (x : Can) : (s.setCan k x).peat = s.peat := rfl
@[simp] theorem setCan_boot (k : Nat) (x : Can) : (s.setCan k x).boot = s.boot := rfl
@[simp] theorem setCan_pair (k : Nat) (x : Can) : (s.setCan k x).pair = s.pair := rfl
@[simp] theorem setCan_image (k : Nat) (x : Can) : (s.setCan k x).image = s.image := rfl
@[simp] theorem setCan_xact (k : Nat) (x : Can) : (s.setCan k x).xact = s.xact := rfl

/-! ### setEngine -/

@[simp] theorem setEngine_pending (i : Nat) (x : Engine) : (s.setEngine i x).pending = s.pending := rfl
@[simp] theorem setEngine_out (i : Nat) (x : Engine) : (s.setEngine i x).out = s.out := rfl
@[simp] theorem setEngine_raised (i : Nat) (x : Engine) : (s.setEngine i x).raised = s.raised := rfl
@[simp] theorem setEngine_now (i : Nat) (x : Engine) : (s.setEngine i x).now = s.now := rfl
@[simp] theorem setEngine_fresh (i : Nat) (x : Engine) : (s.setEngine i x).fresh = s.fresh := rfl
@[simp] theorem setEngine_limits (i : Nat) (x : Engine) : (s.setEngine i x).limits = s.limits := rfl
@[simp] theorem setEngine_regs (i : Nat) (x : Engine) : (s.setEngine i x).regs = s.regs := rfl
@[simp] theorem setEngine_applied (i : Nat) (x : Engine) : (s.setEngine i x).applied = s.applied := rfl
@[simp] theorem setEngine_staged (i : Nat) (x : Engine) : (s.setEngine i x).staged = s.staged := rfl
@[simp] theorem setEngine_latches (i : Nat) (x : Engine) : (s.setEngine i x).latches = s.latches := rfl
@[simp] theorem setEngine_funcs (i : Nat) (x : Engine) : (s.setEngine i x).funcs = s.funcs := rfl
@[simp] theorem setEngine_key (i : Nat) (x : Engine) : (s.setEngine i x).key = s.key := rfl
@[simp] theorem setEngine_ldx (i : Nat) (x : Engine) : (s.setEngine i x).ldx = s.ldx := rfl
@[simp] theorem setEngine_queues (i : Nat) (x : Engine) : (s.setEngine i x).queues = s.queues := rfl
@[simp] theorem setEngine_hostq (i : Nat) (x : Engine) : (s.setEngine i x).hostq = s.hostq := rfl
@[simp] theorem setEngine_dma (i : Nat) (x : Engine) : (s.setEngine i x).dma = s.dma := rfl
@[simp] theorem setEngine_pcie (i : Nat) (x : Engine) : (s.setEngine i x).pcie = s.pcie := rfl
@[simp] theorem setEngine_flt (i : Nat) (x : Engine) : (s.setEngine i x).flt = s.flt := rfl
@[simp] theorem setEngine_ident (i : Nat) (x : Engine) : (s.setEngine i x).ident = s.ident := rfl
@[simp] theorem setEngine_time (i : Nat) (x : Engine) : (s.setEngine i x).time = s.time := rfl
@[simp] theorem setEngine_axes (i : Nat) (x : Engine) : (s.setEngine i x).axes = s.axes := rfl
@[simp] theorem setEngine_ncpA (i : Nat) (x : Engine) : (s.setEngine i x).ncpA = s.ncpA := rfl
@[simp] theorem setEngine_ncpB (i : Nat) (x : Engine) : (s.setEngine i x).ncpB = s.ncpB := rfl
@[simp] theorem setEngine_linkW (i : Nat) (x : Engine) : (s.setEngine i x).linkW = s.linkW := rfl
@[simp] theorem setEngine_linkE (i : Nat) (x : Engine) : (s.setEngine i x).linkE = s.linkE := rfl
@[simp] theorem setEngine_linkT (i : Nat) (x : Engine) : (s.setEngine i x).linkT = s.linkT := rfl
@[simp] theorem setEngine_fwd (i : Nat) (x : Engine) : (s.setEngine i x).fwd = s.fwd := rfl
@[simp] theorem setEngine_shared (i : Nat) (x : Engine) : (s.setEngine i x).shared = s.shared := rfl
@[simp] theorem setEngine_lines (i : Nat) (x : Engine) : (s.setEngine i x).lines = s.lines := rfl
@[simp] theorem setEngine_uarts (i : Nat) (x : Engine) : (s.setEngine i x).uarts = s.uarts := rfl
@[simp] theorem setEngine_encoders (i : Nat) (x : Engine) : (s.setEngine i x).encoders = s.encoders := rfl
@[simp] theorem setEngine_fronds (i : Nat) (x : Engine) : (s.setEngine i x).fronds = s.fronds := rfl
@[simp] theorem setEngine_act (i : Nat) (x : Engine) : (s.setEngine i x).act = s.act := rfl
@[simp] theorem setEngine_cans (i : Nat) (x : Engine) : (s.setEngine i x).cans = s.cans := rfl
@[simp] theorem setEngine_canPll (i : Nat) (x : Engine) : (s.setEngine i x).canPll = s.canPll := rfl
@[simp] theorem setEngine_brg (i : Nat) (x : Engine) : (s.setEngine i x).brg = s.brg := rfl
@[simp] theorem setEngine_usb (i : Nat) (x : Engine) : (s.setEngine i x).usb = s.usb := rfl
@[simp] theorem setEngine_power (i : Nat) (x : Engine) : (s.setEngine i x).power = s.power := rfl
@[simp] theorem setEngine_dieA (i : Nat) (x : Engine) : (s.setEngine i x).dieA = s.dieA := rfl
@[simp] theorem setEngine_dieB (i : Nat) (x : Engine) : (s.setEngine i x).dieB = s.dieB := rfl
@[simp] theorem setEngine_rpr (i : Nat) (x : Engine) : (s.setEngine i x).rpr = s.rpr := rfl
@[simp] theorem setEngine_peat (i : Nat) (x : Engine) : (s.setEngine i x).peat = s.peat := rfl
@[simp] theorem setEngine_boot (i : Nat) (x : Engine) : (s.setEngine i x).boot = s.boot := rfl
@[simp] theorem setEngine_pair (i : Nat) (x : Engine) : (s.setEngine i x).pair = s.pair := rfl
@[simp] theorem setEngine_image (i : Nat) (x : Engine) : (s.setEngine i x).image = s.image := rfl
@[simp] theorem setEngine_xact (i : Nat) (x : Engine) : (s.setEngine i x).xact = s.xact := rfl

/-! ### setLine -/

@[simp] theorem setLine_pending (l : Nat) (x : Line) : (s.setLine l x).pending = s.pending := rfl
@[simp] theorem setLine_out (l : Nat) (x : Line) : (s.setLine l x).out = s.out := rfl
@[simp] theorem setLine_raised (l : Nat) (x : Line) : (s.setLine l x).raised = s.raised := rfl
@[simp] theorem setLine_now (l : Nat) (x : Line) : (s.setLine l x).now = s.now := rfl
@[simp] theorem setLine_fresh (l : Nat) (x : Line) : (s.setLine l x).fresh = s.fresh := rfl
@[simp] theorem setLine_limits (l : Nat) (x : Line) : (s.setLine l x).limits = s.limits := rfl
@[simp] theorem setLine_regs (l : Nat) (x : Line) : (s.setLine l x).regs = s.regs := rfl
@[simp] theorem setLine_applied (l : Nat) (x : Line) : (s.setLine l x).applied = s.applied := rfl
@[simp] theorem setLine_staged (l : Nat) (x : Line) : (s.setLine l x).staged = s.staged := rfl
@[simp] theorem setLine_latches (l : Nat) (x : Line) : (s.setLine l x).latches = s.latches := rfl
@[simp] theorem setLine_funcs (l : Nat) (x : Line) : (s.setLine l x).funcs = s.funcs := rfl
@[simp] theorem setLine_key (l : Nat) (x : Line) : (s.setLine l x).key = s.key := rfl
@[simp] theorem setLine_ldx (l : Nat) (x : Line) : (s.setLine l x).ldx = s.ldx := rfl
@[simp] theorem setLine_queues (l : Nat) (x : Line) : (s.setLine l x).queues = s.queues := rfl
@[simp] theorem setLine_hostq (l : Nat) (x : Line) : (s.setLine l x).hostq = s.hostq := rfl
@[simp] theorem setLine_dma (l : Nat) (x : Line) : (s.setLine l x).dma = s.dma := rfl
@[simp] theorem setLine_pcie (l : Nat) (x : Line) : (s.setLine l x).pcie = s.pcie := rfl
@[simp] theorem setLine_flt (l : Nat) (x : Line) : (s.setLine l x).flt = s.flt := rfl
@[simp] theorem setLine_ident (l : Nat) (x : Line) : (s.setLine l x).ident = s.ident := rfl
@[simp] theorem setLine_time (l : Nat) (x : Line) : (s.setLine l x).time = s.time := rfl
@[simp] theorem setLine_axes (l : Nat) (x : Line) : (s.setLine l x).axes = s.axes := rfl
@[simp] theorem setLine_ncpA (l : Nat) (x : Line) : (s.setLine l x).ncpA = s.ncpA := rfl
@[simp] theorem setLine_ncpB (l : Nat) (x : Line) : (s.setLine l x).ncpB = s.ncpB := rfl
@[simp] theorem setLine_linkW (l : Nat) (x : Line) : (s.setLine l x).linkW = s.linkW := rfl
@[simp] theorem setLine_linkE (l : Nat) (x : Line) : (s.setLine l x).linkE = s.linkE := rfl
@[simp] theorem setLine_linkT (l : Nat) (x : Line) : (s.setLine l x).linkT = s.linkT := rfl
@[simp] theorem setLine_fwd (l : Nat) (x : Line) : (s.setLine l x).fwd = s.fwd := rfl
@[simp] theorem setLine_shared (l : Nat) (x : Line) : (s.setLine l x).shared = s.shared := rfl
@[simp] theorem setLine_uarts (l : Nat) (x : Line) : (s.setLine l x).uarts = s.uarts := rfl
@[simp] theorem setLine_encoders (l : Nat) (x : Line) : (s.setLine l x).encoders = s.encoders := rfl
@[simp] theorem setLine_engines (l : Nat) (x : Line) : (s.setLine l x).engines = s.engines := rfl
@[simp] theorem setLine_fronds (l : Nat) (x : Line) : (s.setLine l x).fronds = s.fronds := rfl
@[simp] theorem setLine_act (l : Nat) (x : Line) : (s.setLine l x).act = s.act := rfl
@[simp] theorem setLine_cans (l : Nat) (x : Line) : (s.setLine l x).cans = s.cans := rfl
@[simp] theorem setLine_canPll (l : Nat) (x : Line) : (s.setLine l x).canPll = s.canPll := rfl
@[simp] theorem setLine_brg (l : Nat) (x : Line) : (s.setLine l x).brg = s.brg := rfl
@[simp] theorem setLine_usb (l : Nat) (x : Line) : (s.setLine l x).usb = s.usb := rfl
@[simp] theorem setLine_power (l : Nat) (x : Line) : (s.setLine l x).power = s.power := rfl
@[simp] theorem setLine_dieA (l : Nat) (x : Line) : (s.setLine l x).dieA = s.dieA := rfl
@[simp] theorem setLine_dieB (l : Nat) (x : Line) : (s.setLine l x).dieB = s.dieB := rfl
@[simp] theorem setLine_rpr (l : Nat) (x : Line) : (s.setLine l x).rpr = s.rpr := rfl
@[simp] theorem setLine_peat (l : Nat) (x : Line) : (s.setLine l x).peat = s.peat := rfl
@[simp] theorem setLine_boot (l : Nat) (x : Line) : (s.setLine l x).boot = s.boot := rfl
@[simp] theorem setLine_pair (l : Nat) (x : Line) : (s.setLine l x).pair = s.pair := rfl
@[simp] theorem setLine_image (l : Nat) (x : Line) : (s.setLine l x).image = s.image := rfl
@[simp] theorem setLine_xact (l : Nat) (x : Line) : (s.setLine l x).xact = s.xact := rfl

/-! ### setFrond -/

@[simp] theorem setFrond_pending (n : Nat) (x : Frond) : (s.setFrond n x).pending = s.pending := rfl
@[simp] theorem setFrond_out (n : Nat) (x : Frond) : (s.setFrond n x).out = s.out := rfl
@[simp] theorem setFrond_raised (n : Nat) (x : Frond) : (s.setFrond n x).raised = s.raised := rfl
@[simp] theorem setFrond_now (n : Nat) (x : Frond) : (s.setFrond n x).now = s.now := rfl
@[simp] theorem setFrond_fresh (n : Nat) (x : Frond) : (s.setFrond n x).fresh = s.fresh := rfl
@[simp] theorem setFrond_limits (n : Nat) (x : Frond) : (s.setFrond n x).limits = s.limits := rfl
@[simp] theorem setFrond_regs (n : Nat) (x : Frond) : (s.setFrond n x).regs = s.regs := rfl
@[simp] theorem setFrond_applied (n : Nat) (x : Frond) : (s.setFrond n x).applied = s.applied := rfl
@[simp] theorem setFrond_staged (n : Nat) (x : Frond) : (s.setFrond n x).staged = s.staged := rfl
@[simp] theorem setFrond_latches (n : Nat) (x : Frond) : (s.setFrond n x).latches = s.latches := rfl
@[simp] theorem setFrond_funcs (n : Nat) (x : Frond) : (s.setFrond n x).funcs = s.funcs := rfl
@[simp] theorem setFrond_key (n : Nat) (x : Frond) : (s.setFrond n x).key = s.key := rfl
@[simp] theorem setFrond_ldx (n : Nat) (x : Frond) : (s.setFrond n x).ldx = s.ldx := rfl
@[simp] theorem setFrond_queues (n : Nat) (x : Frond) : (s.setFrond n x).queues = s.queues := rfl
@[simp] theorem setFrond_hostq (n : Nat) (x : Frond) : (s.setFrond n x).hostq = s.hostq := rfl
@[simp] theorem setFrond_dma (n : Nat) (x : Frond) : (s.setFrond n x).dma = s.dma := rfl
@[simp] theorem setFrond_pcie (n : Nat) (x : Frond) : (s.setFrond n x).pcie = s.pcie := rfl
@[simp] theorem setFrond_flt (n : Nat) (x : Frond) : (s.setFrond n x).flt = s.flt := rfl
@[simp] theorem setFrond_ident (n : Nat) (x : Frond) : (s.setFrond n x).ident = s.ident := rfl
@[simp] theorem setFrond_time (n : Nat) (x : Frond) : (s.setFrond n x).time = s.time := rfl
@[simp] theorem setFrond_axes (n : Nat) (x : Frond) : (s.setFrond n x).axes = s.axes := rfl
@[simp] theorem setFrond_ncpA (n : Nat) (x : Frond) : (s.setFrond n x).ncpA = s.ncpA := rfl
@[simp] theorem setFrond_ncpB (n : Nat) (x : Frond) : (s.setFrond n x).ncpB = s.ncpB := rfl
@[simp] theorem setFrond_linkW (n : Nat) (x : Frond) : (s.setFrond n x).linkW = s.linkW := rfl
@[simp] theorem setFrond_linkE (n : Nat) (x : Frond) : (s.setFrond n x).linkE = s.linkE := rfl
@[simp] theorem setFrond_linkT (n : Nat) (x : Frond) : (s.setFrond n x).linkT = s.linkT := rfl
@[simp] theorem setFrond_fwd (n : Nat) (x : Frond) : (s.setFrond n x).fwd = s.fwd := rfl
@[simp] theorem setFrond_shared (n : Nat) (x : Frond) : (s.setFrond n x).shared = s.shared := rfl
@[simp] theorem setFrond_lines (n : Nat) (x : Frond) : (s.setFrond n x).lines = s.lines := rfl
@[simp] theorem setFrond_uarts (n : Nat) (x : Frond) : (s.setFrond n x).uarts = s.uarts := rfl
@[simp] theorem setFrond_encoders (n : Nat) (x : Frond) : (s.setFrond n x).encoders = s.encoders := rfl
@[simp] theorem setFrond_engines (n : Nat) (x : Frond) : (s.setFrond n x).engines = s.engines := rfl
@[simp] theorem setFrond_act (n : Nat) (x : Frond) : (s.setFrond n x).act = s.act := rfl
@[simp] theorem setFrond_cans (n : Nat) (x : Frond) : (s.setFrond n x).cans = s.cans := rfl
@[simp] theorem setFrond_canPll (n : Nat) (x : Frond) : (s.setFrond n x).canPll = s.canPll := rfl
@[simp] theorem setFrond_brg (n : Nat) (x : Frond) : (s.setFrond n x).brg = s.brg := rfl
@[simp] theorem setFrond_usb (n : Nat) (x : Frond) : (s.setFrond n x).usb = s.usb := rfl
@[simp] theorem setFrond_power (n : Nat) (x : Frond) : (s.setFrond n x).power = s.power := rfl
@[simp] theorem setFrond_dieA (n : Nat) (x : Frond) : (s.setFrond n x).dieA = s.dieA := rfl
@[simp] theorem setFrond_dieB (n : Nat) (x : Frond) : (s.setFrond n x).dieB = s.dieB := rfl
@[simp] theorem setFrond_rpr (n : Nat) (x : Frond) : (s.setFrond n x).rpr = s.rpr := rfl
@[simp] theorem setFrond_peat (n : Nat) (x : Frond) : (s.setFrond n x).peat = s.peat := rfl
@[simp] theorem setFrond_boot (n : Nat) (x : Frond) : (s.setFrond n x).boot = s.boot := rfl
@[simp] theorem setFrond_pair (n : Nat) (x : Frond) : (s.setFrond n x).pair = s.pair := rfl
@[simp] theorem setFrond_image (n : Nat) (x : Frond) : (s.setFrond n x).image = s.image := rfl
@[simp] theorem setFrond_xact (n : Nat) (x : Frond) : (s.setFrond n x).xact = s.xact := rfl

/-! ### setUart -/

@[simp] theorem setUart_pending (c : Nat) (x : Uart) : (s.setUart c x).pending = s.pending := rfl
@[simp] theorem setUart_out (c : Nat) (x : Uart) : (s.setUart c x).out = s.out := rfl
@[simp] theorem setUart_raised (c : Nat) (x : Uart) : (s.setUart c x).raised = s.raised := rfl
@[simp] theorem setUart_now (c : Nat) (x : Uart) : (s.setUart c x).now = s.now := rfl
@[simp] theorem setUart_fresh (c : Nat) (x : Uart) : (s.setUart c x).fresh = s.fresh := rfl
@[simp] theorem setUart_limits (c : Nat) (x : Uart) : (s.setUart c x).limits = s.limits := rfl
@[simp] theorem setUart_regs (c : Nat) (x : Uart) : (s.setUart c x).regs = s.regs := rfl
@[simp] theorem setUart_applied (c : Nat) (x : Uart) : (s.setUart c x).applied = s.applied := rfl
@[simp] theorem setUart_staged (c : Nat) (x : Uart) : (s.setUart c x).staged = s.staged := rfl
@[simp] theorem setUart_latches (c : Nat) (x : Uart) : (s.setUart c x).latches = s.latches := rfl
@[simp] theorem setUart_funcs (c : Nat) (x : Uart) : (s.setUart c x).funcs = s.funcs := rfl
@[simp] theorem setUart_key (c : Nat) (x : Uart) : (s.setUart c x).key = s.key := rfl
@[simp] theorem setUart_ldx (c : Nat) (x : Uart) : (s.setUart c x).ldx = s.ldx := rfl
@[simp] theorem setUart_queues (c : Nat) (x : Uart) : (s.setUart c x).queues = s.queues := rfl
@[simp] theorem setUart_hostq (c : Nat) (x : Uart) : (s.setUart c x).hostq = s.hostq := rfl
@[simp] theorem setUart_dma (c : Nat) (x : Uart) : (s.setUart c x).dma = s.dma := rfl
@[simp] theorem setUart_pcie (c : Nat) (x : Uart) : (s.setUart c x).pcie = s.pcie := rfl
@[simp] theorem setUart_flt (c : Nat) (x : Uart) : (s.setUart c x).flt = s.flt := rfl
@[simp] theorem setUart_ident (c : Nat) (x : Uart) : (s.setUart c x).ident = s.ident := rfl
@[simp] theorem setUart_time (c : Nat) (x : Uart) : (s.setUart c x).time = s.time := rfl
@[simp] theorem setUart_axes (c : Nat) (x : Uart) : (s.setUart c x).axes = s.axes := rfl
@[simp] theorem setUart_ncpA (c : Nat) (x : Uart) : (s.setUart c x).ncpA = s.ncpA := rfl
@[simp] theorem setUart_ncpB (c : Nat) (x : Uart) : (s.setUart c x).ncpB = s.ncpB := rfl
@[simp] theorem setUart_linkW (c : Nat) (x : Uart) : (s.setUart c x).linkW = s.linkW := rfl
@[simp] theorem setUart_linkE (c : Nat) (x : Uart) : (s.setUart c x).linkE = s.linkE := rfl
@[simp] theorem setUart_linkT (c : Nat) (x : Uart) : (s.setUart c x).linkT = s.linkT := rfl
@[simp] theorem setUart_fwd (c : Nat) (x : Uart) : (s.setUart c x).fwd = s.fwd := rfl
@[simp] theorem setUart_shared (c : Nat) (x : Uart) : (s.setUart c x).shared = s.shared := rfl
@[simp] theorem setUart_lines (c : Nat) (x : Uart) : (s.setUart c x).lines = s.lines := rfl
@[simp] theorem setUart_encoders (c : Nat) (x : Uart) : (s.setUart c x).encoders = s.encoders := rfl
@[simp] theorem setUart_engines (c : Nat) (x : Uart) : (s.setUart c x).engines = s.engines := rfl
@[simp] theorem setUart_fronds (c : Nat) (x : Uart) : (s.setUart c x).fronds = s.fronds := rfl
@[simp] theorem setUart_act (c : Nat) (x : Uart) : (s.setUart c x).act = s.act := rfl
@[simp] theorem setUart_cans (c : Nat) (x : Uart) : (s.setUart c x).cans = s.cans := rfl
@[simp] theorem setUart_canPll (c : Nat) (x : Uart) : (s.setUart c x).canPll = s.canPll := rfl
@[simp] theorem setUart_brg (c : Nat) (x : Uart) : (s.setUart c x).brg = s.brg := rfl
@[simp] theorem setUart_usb (c : Nat) (x : Uart) : (s.setUart c x).usb = s.usb := rfl
@[simp] theorem setUart_power (c : Nat) (x : Uart) : (s.setUart c x).power = s.power := rfl
@[simp] theorem setUart_dieA (c : Nat) (x : Uart) : (s.setUart c x).dieA = s.dieA := rfl
@[simp] theorem setUart_dieB (c : Nat) (x : Uart) : (s.setUart c x).dieB = s.dieB := rfl
@[simp] theorem setUart_rpr (c : Nat) (x : Uart) : (s.setUart c x).rpr = s.rpr := rfl
@[simp] theorem setUart_peat (c : Nat) (x : Uart) : (s.setUart c x).peat = s.peat := rfl
@[simp] theorem setUart_boot (c : Nat) (x : Uart) : (s.setUart c x).boot = s.boot := rfl
@[simp] theorem setUart_pair (c : Nat) (x : Uart) : (s.setUart c x).pair = s.pair := rfl
@[simp] theorem setUart_image (c : Nat) (x : Uart) : (s.setUart c x).image = s.image := rfl
@[simp] theorem setUart_xact (c : Nat) (x : Uart) : (s.setUart c x).xact = s.xact := rfl

/-! ### setEncoder -/

@[simp] theorem setEncoder_pending (u : Nat) (x : Encoder) : (s.setEncoder u x).pending = s.pending := rfl
@[simp] theorem setEncoder_out (u : Nat) (x : Encoder) : (s.setEncoder u x).out = s.out := rfl
@[simp] theorem setEncoder_raised (u : Nat) (x : Encoder) : (s.setEncoder u x).raised = s.raised := rfl
@[simp] theorem setEncoder_now (u : Nat) (x : Encoder) : (s.setEncoder u x).now = s.now := rfl
@[simp] theorem setEncoder_fresh (u : Nat) (x : Encoder) : (s.setEncoder u x).fresh = s.fresh := rfl
@[simp] theorem setEncoder_limits (u : Nat) (x : Encoder) : (s.setEncoder u x).limits = s.limits := rfl
@[simp] theorem setEncoder_regs (u : Nat) (x : Encoder) : (s.setEncoder u x).regs = s.regs := rfl
@[simp] theorem setEncoder_applied (u : Nat) (x : Encoder) : (s.setEncoder u x).applied = s.applied := rfl
@[simp] theorem setEncoder_staged (u : Nat) (x : Encoder) : (s.setEncoder u x).staged = s.staged := rfl
@[simp] theorem setEncoder_latches (u : Nat) (x : Encoder) : (s.setEncoder u x).latches = s.latches := rfl
@[simp] theorem setEncoder_funcs (u : Nat) (x : Encoder) : (s.setEncoder u x).funcs = s.funcs := rfl
@[simp] theorem setEncoder_key (u : Nat) (x : Encoder) : (s.setEncoder u x).key = s.key := rfl
@[simp] theorem setEncoder_ldx (u : Nat) (x : Encoder) : (s.setEncoder u x).ldx = s.ldx := rfl
@[simp] theorem setEncoder_queues (u : Nat) (x : Encoder) : (s.setEncoder u x).queues = s.queues := rfl
@[simp] theorem setEncoder_hostq (u : Nat) (x : Encoder) : (s.setEncoder u x).hostq = s.hostq := rfl
@[simp] theorem setEncoder_dma (u : Nat) (x : Encoder) : (s.setEncoder u x).dma = s.dma := rfl
@[simp] theorem setEncoder_pcie (u : Nat) (x : Encoder) : (s.setEncoder u x).pcie = s.pcie := rfl
@[simp] theorem setEncoder_flt (u : Nat) (x : Encoder) : (s.setEncoder u x).flt = s.flt := rfl
@[simp] theorem setEncoder_ident (u : Nat) (x : Encoder) : (s.setEncoder u x).ident = s.ident := rfl
@[simp] theorem setEncoder_time (u : Nat) (x : Encoder) : (s.setEncoder u x).time = s.time := rfl
@[simp] theorem setEncoder_axes (u : Nat) (x : Encoder) : (s.setEncoder u x).axes = s.axes := rfl
@[simp] theorem setEncoder_ncpA (u : Nat) (x : Encoder) : (s.setEncoder u x).ncpA = s.ncpA := rfl
@[simp] theorem setEncoder_ncpB (u : Nat) (x : Encoder) : (s.setEncoder u x).ncpB = s.ncpB := rfl
@[simp] theorem setEncoder_linkW (u : Nat) (x : Encoder) : (s.setEncoder u x).linkW = s.linkW := rfl
@[simp] theorem setEncoder_linkE (u : Nat) (x : Encoder) : (s.setEncoder u x).linkE = s.linkE := rfl
@[simp] theorem setEncoder_linkT (u : Nat) (x : Encoder) : (s.setEncoder u x).linkT = s.linkT := rfl
@[simp] theorem setEncoder_fwd (u : Nat) (x : Encoder) : (s.setEncoder u x).fwd = s.fwd := rfl
@[simp] theorem setEncoder_shared (u : Nat) (x : Encoder) : (s.setEncoder u x).shared = s.shared := rfl
@[simp] theorem setEncoder_lines (u : Nat) (x : Encoder) : (s.setEncoder u x).lines = s.lines := rfl
@[simp] theorem setEncoder_uarts (u : Nat) (x : Encoder) : (s.setEncoder u x).uarts = s.uarts := rfl
@[simp] theorem setEncoder_engines (u : Nat) (x : Encoder) : (s.setEncoder u x).engines = s.engines := rfl
@[simp] theorem setEncoder_fronds (u : Nat) (x : Encoder) : (s.setEncoder u x).fronds = s.fronds := rfl
@[simp] theorem setEncoder_act (u : Nat) (x : Encoder) : (s.setEncoder u x).act = s.act := rfl
@[simp] theorem setEncoder_cans (u : Nat) (x : Encoder) : (s.setEncoder u x).cans = s.cans := rfl
@[simp] theorem setEncoder_canPll (u : Nat) (x : Encoder) : (s.setEncoder u x).canPll = s.canPll := rfl
@[simp] theorem setEncoder_brg (u : Nat) (x : Encoder) : (s.setEncoder u x).brg = s.brg := rfl
@[simp] theorem setEncoder_usb (u : Nat) (x : Encoder) : (s.setEncoder u x).usb = s.usb := rfl
@[simp] theorem setEncoder_power (u : Nat) (x : Encoder) : (s.setEncoder u x).power = s.power := rfl
@[simp] theorem setEncoder_dieA (u : Nat) (x : Encoder) : (s.setEncoder u x).dieA = s.dieA := rfl
@[simp] theorem setEncoder_dieB (u : Nat) (x : Encoder) : (s.setEncoder u x).dieB = s.dieB := rfl
@[simp] theorem setEncoder_rpr (u : Nat) (x : Encoder) : (s.setEncoder u x).rpr = s.rpr := rfl
@[simp] theorem setEncoder_peat (u : Nat) (x : Encoder) : (s.setEncoder u x).peat = s.peat := rfl
@[simp] theorem setEncoder_boot (u : Nat) (x : Encoder) : (s.setEncoder u x).boot = s.boot := rfl
@[simp] theorem setEncoder_pair (u : Nat) (x : Encoder) : (s.setEncoder u x).pair = s.pair := rfl
@[simp] theorem setEncoder_image (u : Nat) (x : Encoder) : (s.setEncoder u x).image = s.image := rfl
@[simp] theorem setEncoder_xact (u : Nat) (x : Encoder) : (s.setEncoder u x).xact = s.xact := rfl

/-! ### usbSet -/

@[simp] theorem usbSet_pending (u : Usb) : (s.usbSet u).pending = s.pending := rfl
@[simp] theorem usbSet_out (u : Usb) : (s.usbSet u).out = s.out := rfl
@[simp] theorem usbSet_raised (u : Usb) : (s.usbSet u).raised = s.raised := rfl
@[simp] theorem usbSet_now (u : Usb) : (s.usbSet u).now = s.now := rfl
@[simp] theorem usbSet_fresh (u : Usb) : (s.usbSet u).fresh = s.fresh := rfl
@[simp] theorem usbSet_limits (u : Usb) : (s.usbSet u).limits = s.limits := rfl
@[simp] theorem usbSet_regs (u : Usb) : (s.usbSet u).regs = s.regs := rfl
@[simp] theorem usbSet_applied (u : Usb) : (s.usbSet u).applied = s.applied := rfl
@[simp] theorem usbSet_staged (u : Usb) : (s.usbSet u).staged = s.staged := rfl
@[simp] theorem usbSet_latches (u : Usb) : (s.usbSet u).latches = s.latches := rfl
@[simp] theorem usbSet_funcs (u : Usb) : (s.usbSet u).funcs = s.funcs := rfl
@[simp] theorem usbSet_key (u : Usb) : (s.usbSet u).key = s.key := rfl
@[simp] theorem usbSet_ldx (u : Usb) : (s.usbSet u).ldx = s.ldx := rfl
@[simp] theorem usbSet_queues (u : Usb) : (s.usbSet u).queues = s.queues := rfl
@[simp] theorem usbSet_hostq (u : Usb) : (s.usbSet u).hostq = s.hostq := rfl
@[simp] theorem usbSet_dma (u : Usb) : (s.usbSet u).dma = s.dma := rfl
@[simp] theorem usbSet_pcie (u : Usb) : (s.usbSet u).pcie = s.pcie := rfl
@[simp] theorem usbSet_flt (u : Usb) : (s.usbSet u).flt = s.flt := rfl
@[simp] theorem usbSet_ident (u : Usb) : (s.usbSet u).ident = s.ident := rfl
@[simp] theorem usbSet_time (u : Usb) : (s.usbSet u).time = s.time := rfl
@[simp] theorem usbSet_axes (u : Usb) : (s.usbSet u).axes = s.axes := rfl
@[simp] theorem usbSet_ncpA (u : Usb) : (s.usbSet u).ncpA = s.ncpA := rfl
@[simp] theorem usbSet_ncpB (u : Usb) : (s.usbSet u).ncpB = s.ncpB := rfl
@[simp] theorem usbSet_linkW (u : Usb) : (s.usbSet u).linkW = s.linkW := rfl
@[simp] theorem usbSet_linkE (u : Usb) : (s.usbSet u).linkE = s.linkE := rfl
@[simp] theorem usbSet_linkT (u : Usb) : (s.usbSet u).linkT = s.linkT := rfl
@[simp] theorem usbSet_fwd (u : Usb) : (s.usbSet u).fwd = s.fwd := rfl
@[simp] theorem usbSet_shared (u : Usb) : (s.usbSet u).shared = s.shared := rfl
@[simp] theorem usbSet_lines (u : Usb) : (s.usbSet u).lines = s.lines := rfl
@[simp] theorem usbSet_uarts (u : Usb) : (s.usbSet u).uarts = s.uarts := rfl
@[simp] theorem usbSet_encoders (u : Usb) : (s.usbSet u).encoders = s.encoders := rfl
@[simp] theorem usbSet_engines (u : Usb) : (s.usbSet u).engines = s.engines := rfl
@[simp] theorem usbSet_fronds (u : Usb) : (s.usbSet u).fronds = s.fronds := rfl
@[simp] theorem usbSet_act (u : Usb) : (s.usbSet u).act = s.act := rfl
@[simp] theorem usbSet_cans (u : Usb) : (s.usbSet u).cans = s.cans := rfl
@[simp] theorem usbSet_canPll (u : Usb) : (s.usbSet u).canPll = s.canPll := rfl
@[simp] theorem usbSet_brg (u : Usb) : (s.usbSet u).brg = s.brg := rfl
@[simp] theorem usbSet_power (u : Usb) : (s.usbSet u).power = s.power := rfl
@[simp] theorem usbSet_dieA (u : Usb) : (s.usbSet u).dieA = s.dieA := rfl
@[simp] theorem usbSet_dieB (u : Usb) : (s.usbSet u).dieB = s.dieB := rfl
@[simp] theorem usbSet_rpr (u : Usb) : (s.usbSet u).rpr = s.rpr := rfl
@[simp] theorem usbSet_peat (u : Usb) : (s.usbSet u).peat = s.peat := rfl
@[simp] theorem usbSet_boot (u : Usb) : (s.usbSet u).boot = s.boot := rfl
@[simp] theorem usbSet_pair (u : Usb) : (s.usbSet u).pair = s.pair := rfl
@[simp] theorem usbSet_image (u : Usb) : (s.usbSet u).image = s.image := rfl
@[simp] theorem usbSet_xact (u : Usb) : (s.usbSet u).xact = s.xact := rfl

/-! ### setSlot -/

@[simp] theorem setSlot_pending (b : Bool) (x : Slot) : (s.setSlot b x).pending = s.pending := by cases b <;> rfl
@[simp] theorem setSlot_out (b : Bool) (x : Slot) : (s.setSlot b x).out = s.out := by cases b <;> rfl
@[simp] theorem setSlot_raised (b : Bool) (x : Slot) : (s.setSlot b x).raised = s.raised := by cases b <;> rfl
@[simp] theorem setSlot_now (b : Bool) (x : Slot) : (s.setSlot b x).now = s.now := by cases b <;> rfl
@[simp] theorem setSlot_fresh (b : Bool) (x : Slot) : (s.setSlot b x).fresh = s.fresh := by cases b <;> rfl
@[simp] theorem setSlot_limits (b : Bool) (x : Slot) : (s.setSlot b x).limits = s.limits := by cases b <;> rfl
@[simp] theorem setSlot_regs (b : Bool) (x : Slot) : (s.setSlot b x).regs = s.regs := by cases b <;> rfl
@[simp] theorem setSlot_applied (b : Bool) (x : Slot) : (s.setSlot b x).applied = s.applied := by cases b <;> rfl
@[simp] theorem setSlot_staged (b : Bool) (x : Slot) : (s.setSlot b x).staged = s.staged := by cases b <;> rfl
@[simp] theorem setSlot_latches (b : Bool) (x : Slot) : (s.setSlot b x).latches = s.latches := by cases b <;> rfl
@[simp] theorem setSlot_funcs (b : Bool) (x : Slot) : (s.setSlot b x).funcs = s.funcs := by cases b <;> rfl
@[simp] theorem setSlot_key (b : Bool) (x : Slot) : (s.setSlot b x).key = s.key := by cases b <;> rfl
@[simp] theorem setSlot_ldx (b : Bool) (x : Slot) : (s.setSlot b x).ldx = s.ldx := by cases b <;> rfl
@[simp] theorem setSlot_queues (b : Bool) (x : Slot) : (s.setSlot b x).queues = s.queues := by cases b <;> rfl
@[simp] theorem setSlot_hostq (b : Bool) (x : Slot) : (s.setSlot b x).hostq = s.hostq := by cases b <;> rfl
@[simp] theorem setSlot_dma (b : Bool) (x : Slot) : (s.setSlot b x).dma = s.dma := by cases b <;> rfl
@[simp] theorem setSlot_pcie (b : Bool) (x : Slot) : (s.setSlot b x).pcie = s.pcie := by cases b <;> rfl
@[simp] theorem setSlot_flt (b : Bool) (x : Slot) : (s.setSlot b x).flt = s.flt := by cases b <;> rfl
@[simp] theorem setSlot_ident (b : Bool) (x : Slot) : (s.setSlot b x).ident = s.ident := by cases b <;> rfl
@[simp] theorem setSlot_time (b : Bool) (x : Slot) : (s.setSlot b x).time = s.time := by cases b <;> rfl
@[simp] theorem setSlot_axes (b : Bool) (x : Slot) : (s.setSlot b x).axes = s.axes := by cases b <;> rfl
@[simp] theorem setSlot_ncpA (b : Bool) (x : Slot) : (s.setSlot b x).ncpA = s.ncpA := by cases b <;> rfl
@[simp] theorem setSlot_ncpB (b : Bool) (x : Slot) : (s.setSlot b x).ncpB = s.ncpB := by cases b <;> rfl
@[simp] theorem setSlot_linkW (b : Bool) (x : Slot) : (s.setSlot b x).linkW = s.linkW := by cases b <;> rfl
@[simp] theorem setSlot_linkE (b : Bool) (x : Slot) : (s.setSlot b x).linkE = s.linkE := by cases b <;> rfl
@[simp] theorem setSlot_linkT (b : Bool) (x : Slot) : (s.setSlot b x).linkT = s.linkT := by cases b <;> rfl
@[simp] theorem setSlot_fwd (b : Bool) (x : Slot) : (s.setSlot b x).fwd = s.fwd := by cases b <;> rfl
@[simp] theorem setSlot_shared (b : Bool) (x : Slot) : (s.setSlot b x).shared = s.shared := by cases b <;> rfl
@[simp] theorem setSlot_lines (b : Bool) (x : Slot) : (s.setSlot b x).lines = s.lines := by cases b <;> rfl
@[simp] theorem setSlot_uarts (b : Bool) (x : Slot) : (s.setSlot b x).uarts = s.uarts := by cases b <;> rfl
@[simp] theorem setSlot_encoders (b : Bool) (x : Slot) : (s.setSlot b x).encoders = s.encoders := by cases b <;> rfl
@[simp] theorem setSlot_engines (b : Bool) (x : Slot) : (s.setSlot b x).engines = s.engines := by cases b <;> rfl
@[simp] theorem setSlot_fronds (b : Bool) (x : Slot) : (s.setSlot b x).fronds = s.fronds := by cases b <;> rfl
@[simp] theorem setSlot_act (b : Bool) (x : Slot) : (s.setSlot b x).act = s.act := by cases b <;> rfl
@[simp] theorem setSlot_cans (b : Bool) (x : Slot) : (s.setSlot b x).cans = s.cans := by cases b <;> rfl
@[simp] theorem setSlot_canPll (b : Bool) (x : Slot) : (s.setSlot b x).canPll = s.canPll := by cases b <;> rfl
@[simp] theorem setSlot_brg (b : Bool) (x : Slot) : (s.setSlot b x).brg = s.brg := by cases b <;> rfl
@[simp] theorem setSlot_usb (b : Bool) (x : Slot) : (s.setSlot b x).usb = s.usb := by cases b <;> rfl
@[simp] theorem setSlot_power (b : Bool) (x : Slot) : (s.setSlot b x).power = s.power := by cases b <;> rfl
@[simp] theorem setSlot_dieA (b : Bool) (x : Slot) : (s.setSlot b x).dieA = s.dieA := by cases b <;> rfl
@[simp] theorem setSlot_dieB (b : Bool) (x : Slot) : (s.setSlot b x).dieB = s.dieB := by cases b <;> rfl
@[simp] theorem setSlot_rpr (b : Bool) (x : Slot) : (s.setSlot b x).rpr = s.rpr := by cases b <;> rfl
@[simp] theorem setSlot_boot (b : Bool) (x : Slot) : (s.setSlot b x).boot = s.boot := by cases b <;> rfl
@[simp] theorem setSlot_pair (b : Bool) (x : Slot) : (s.setSlot b x).pair = s.pair := by cases b <;> rfl
@[simp] theorem setSlot_image (b : Bool) (x : Slot) : (s.setSlot b x).image = s.image := by cases b <;> rfl
@[simp] theorem setSlot_xact (b : Bool) (x : Slot) : (s.setSlot b x).xact = s.xact := by cases b <;> rfl

/-! ### setMem -/

@[simp] theorem setMem_pending (m : Nat) (x : RepMem) : (s.setMem m x).pending = s.pending := rfl
@[simp] theorem setMem_out (m : Nat) (x : RepMem) : (s.setMem m x).out = s.out := rfl
@[simp] theorem setMem_raised (m : Nat) (x : RepMem) : (s.setMem m x).raised = s.raised := rfl
@[simp] theorem setMem_now (m : Nat) (x : RepMem) : (s.setMem m x).now = s.now := rfl
@[simp] theorem setMem_fresh (m : Nat) (x : RepMem) : (s.setMem m x).fresh = s.fresh := rfl
@[simp] theorem setMem_limits (m : Nat) (x : RepMem) : (s.setMem m x).limits = s.limits := rfl
@[simp] theorem setMem_regs (m : Nat) (x : RepMem) : (s.setMem m x).regs = s.regs := rfl
@[simp] theorem setMem_applied (m : Nat) (x : RepMem) : (s.setMem m x).applied = s.applied := rfl
@[simp] theorem setMem_staged (m : Nat) (x : RepMem) : (s.setMem m x).staged = s.staged := rfl
@[simp] theorem setMem_latches (m : Nat) (x : RepMem) : (s.setMem m x).latches = s.latches := rfl
@[simp] theorem setMem_funcs (m : Nat) (x : RepMem) : (s.setMem m x).funcs = s.funcs := rfl
@[simp] theorem setMem_key (m : Nat) (x : RepMem) : (s.setMem m x).key = s.key := rfl
@[simp] theorem setMem_ldx (m : Nat) (x : RepMem) : (s.setMem m x).ldx = s.ldx := rfl
@[simp] theorem setMem_queues (m : Nat) (x : RepMem) : (s.setMem m x).queues = s.queues := rfl
@[simp] theorem setMem_hostq (m : Nat) (x : RepMem) : (s.setMem m x).hostq = s.hostq := rfl
@[simp] theorem setMem_dma (m : Nat) (x : RepMem) : (s.setMem m x).dma = s.dma := rfl
@[simp] theorem setMem_pcie (m : Nat) (x : RepMem) : (s.setMem m x).pcie = s.pcie := rfl
@[simp] theorem setMem_flt (m : Nat) (x : RepMem) : (s.setMem m x).flt = s.flt := rfl
@[simp] theorem setMem_ident (m : Nat) (x : RepMem) : (s.setMem m x).ident = s.ident := rfl
@[simp] theorem setMem_time (m : Nat) (x : RepMem) : (s.setMem m x).time = s.time := rfl
@[simp] theorem setMem_axes (m : Nat) (x : RepMem) : (s.setMem m x).axes = s.axes := rfl
@[simp] theorem setMem_ncpA (m : Nat) (x : RepMem) : (s.setMem m x).ncpA = s.ncpA := rfl
@[simp] theorem setMem_ncpB (m : Nat) (x : RepMem) : (s.setMem m x).ncpB = s.ncpB := rfl
@[simp] theorem setMem_linkW (m : Nat) (x : RepMem) : (s.setMem m x).linkW = s.linkW := rfl
@[simp] theorem setMem_linkE (m : Nat) (x : RepMem) : (s.setMem m x).linkE = s.linkE := rfl
@[simp] theorem setMem_linkT (m : Nat) (x : RepMem) : (s.setMem m x).linkT = s.linkT := rfl
@[simp] theorem setMem_fwd (m : Nat) (x : RepMem) : (s.setMem m x).fwd = s.fwd := rfl
@[simp] theorem setMem_shared (m : Nat) (x : RepMem) : (s.setMem m x).shared = s.shared := rfl
@[simp] theorem setMem_lines (m : Nat) (x : RepMem) : (s.setMem m x).lines = s.lines := rfl
@[simp] theorem setMem_uarts (m : Nat) (x : RepMem) : (s.setMem m x).uarts = s.uarts := rfl
@[simp] theorem setMem_encoders (m : Nat) (x : RepMem) : (s.setMem m x).encoders = s.encoders := rfl
@[simp] theorem setMem_engines (m : Nat) (x : RepMem) : (s.setMem m x).engines = s.engines := rfl
@[simp] theorem setMem_fronds (m : Nat) (x : RepMem) : (s.setMem m x).fronds = s.fronds := rfl
@[simp] theorem setMem_act (m : Nat) (x : RepMem) : (s.setMem m x).act = s.act := rfl
@[simp] theorem setMem_cans (m : Nat) (x : RepMem) : (s.setMem m x).cans = s.cans := rfl
@[simp] theorem setMem_canPll (m : Nat) (x : RepMem) : (s.setMem m x).canPll = s.canPll := rfl
@[simp] theorem setMem_brg (m : Nat) (x : RepMem) : (s.setMem m x).brg = s.brg := rfl
@[simp] theorem setMem_usb (m : Nat) (x : RepMem) : (s.setMem m x).usb = s.usb := rfl
@[simp] theorem setMem_power (m : Nat) (x : RepMem) : (s.setMem m x).power = s.power := rfl
@[simp] theorem setMem_dieA (m : Nat) (x : RepMem) : (s.setMem m x).dieA = s.dieA := rfl
@[simp] theorem setMem_dieB (m : Nat) (x : RepMem) : (s.setMem m x).dieB = s.dieB := rfl
@[simp] theorem setMem_peat (m : Nat) (x : RepMem) : (s.setMem m x).peat = s.peat := rfl
@[simp] theorem setMem_boot (m : Nat) (x : RepMem) : (s.setMem m x).boot = s.boot := rfl
@[simp] theorem setMem_pair (m : Nat) (x : RepMem) : (s.setMem m x).pair = s.pair := rfl
@[simp] theorem setMem_image (m : Nat) (x : RepMem) : (s.setMem m x).image = s.image := rfl
@[simp] theorem setMem_xact (m : Nat) (x : RepMem) : (s.setMem m x).xact = s.xact := rfl

/-! ### addCmd -/

@[simp] theorem addCmd_pending (c : LineCmd) : (s.addCmd c).pending = s.pending := rfl
@[simp] theorem addCmd_out (c : LineCmd) : (s.addCmd c).out = s.out := rfl
@[simp] theorem addCmd_raised (c : LineCmd) : (s.addCmd c).raised = s.raised := rfl
@[simp] theorem addCmd_now (c : LineCmd) : (s.addCmd c).now = s.now := rfl
@[simp] theorem addCmd_fresh (c : LineCmd) : (s.addCmd c).fresh = s.fresh := rfl
@[simp] theorem addCmd_limits (c : LineCmd) : (s.addCmd c).limits = s.limits := rfl
@[simp] theorem addCmd_regs (c : LineCmd) : (s.addCmd c).regs = s.regs := rfl
@[simp] theorem addCmd_applied (c : LineCmd) : (s.addCmd c).applied = s.applied := rfl
@[simp] theorem addCmd_staged (c : LineCmd) : (s.addCmd c).staged = s.staged := rfl
@[simp] theorem addCmd_latches (c : LineCmd) : (s.addCmd c).latches = s.latches := rfl
@[simp] theorem addCmd_funcs (c : LineCmd) : (s.addCmd c).funcs = s.funcs := rfl
@[simp] theorem addCmd_key (c : LineCmd) : (s.addCmd c).key = s.key := rfl
@[simp] theorem addCmd_ldx (c : LineCmd) : (s.addCmd c).ldx = s.ldx := rfl
@[simp] theorem addCmd_queues (c : LineCmd) : (s.addCmd c).queues = s.queues := rfl
@[simp] theorem addCmd_hostq (c : LineCmd) : (s.addCmd c).hostq = s.hostq := rfl
@[simp] theorem addCmd_dma (c : LineCmd) : (s.addCmd c).dma = s.dma := rfl
@[simp] theorem addCmd_pcie (c : LineCmd) : (s.addCmd c).pcie = s.pcie := rfl
@[simp] theorem addCmd_flt (c : LineCmd) : (s.addCmd c).flt = s.flt := rfl
@[simp] theorem addCmd_ident (c : LineCmd) : (s.addCmd c).ident = s.ident := rfl
@[simp] theorem addCmd_time (c : LineCmd) : (s.addCmd c).time = s.time := rfl
@[simp] theorem addCmd_axes (c : LineCmd) : (s.addCmd c).axes = s.axes := rfl
@[simp] theorem addCmd_ncpA (c : LineCmd) : (s.addCmd c).ncpA = s.ncpA := rfl
@[simp] theorem addCmd_ncpB (c : LineCmd) : (s.addCmd c).ncpB = s.ncpB := rfl
@[simp] theorem addCmd_linkW (c : LineCmd) : (s.addCmd c).linkW = s.linkW := rfl
@[simp] theorem addCmd_linkE (c : LineCmd) : (s.addCmd c).linkE = s.linkE := rfl
@[simp] theorem addCmd_linkT (c : LineCmd) : (s.addCmd c).linkT = s.linkT := rfl
@[simp] theorem addCmd_fwd (c : LineCmd) : (s.addCmd c).fwd = s.fwd := rfl
@[simp] theorem addCmd_shared (c : LineCmd) : (s.addCmd c).shared = s.shared := rfl
@[simp] theorem addCmd_lines (c : LineCmd) : (s.addCmd c).lines = s.lines := rfl
@[simp] theorem addCmd_uarts (c : LineCmd) : (s.addCmd c).uarts = s.uarts := rfl
@[simp] theorem addCmd_encoders (c : LineCmd) : (s.addCmd c).encoders = s.encoders := rfl
@[simp] theorem addCmd_engines (c : LineCmd) : (s.addCmd c).engines = s.engines := rfl
@[simp] theorem addCmd_fronds (c : LineCmd) : (s.addCmd c).fronds = s.fronds := rfl
@[simp] theorem addCmd_cans (c : LineCmd) : (s.addCmd c).cans = s.cans := rfl
@[simp] theorem addCmd_canPll (c : LineCmd) : (s.addCmd c).canPll = s.canPll := rfl
@[simp] theorem addCmd_brg (c : LineCmd) : (s.addCmd c).brg = s.brg := rfl
@[simp] theorem addCmd_usb (c : LineCmd) : (s.addCmd c).usb = s.usb := rfl
@[simp] theorem addCmd_power (c : LineCmd) : (s.addCmd c).power = s.power := rfl
@[simp] theorem addCmd_dieA (c : LineCmd) : (s.addCmd c).dieA = s.dieA := rfl
@[simp] theorem addCmd_dieB (c : LineCmd) : (s.addCmd c).dieB = s.dieB := rfl
@[simp] theorem addCmd_rpr (c : LineCmd) : (s.addCmd c).rpr = s.rpr := rfl
@[simp] theorem addCmd_peat (c : LineCmd) : (s.addCmd c).peat = s.peat := rfl
@[simp] theorem addCmd_boot (c : LineCmd) : (s.addCmd c).boot = s.boot := rfl
@[simp] theorem addCmd_pair (c : LineCmd) : (s.addCmd c).pair = s.pair := rfl
@[simp] theorem addCmd_image (c : LineCmd) : (s.addCmd c).image = s.image := rfl
@[simp] theorem addCmd_xact (c : LineCmd) : (s.addCmd c).xact = s.xact := rfl

/-! ### setPulse -/

@[simp] theorem setPulse_pending (l : Nat) (p : Option Pulse) : (s.setPulse l p).pending = s.pending := rfl
@[simp] theorem setPulse_out (l : Nat) (p : Option Pulse) : (s.setPulse l p).out = s.out := rfl
@[simp] theorem setPulse_raised (l : Nat) (p : Option Pulse) : (s.setPulse l p).raised = s.raised := rfl
@[simp] theorem setPulse_now (l : Nat) (p : Option Pulse) : (s.setPulse l p).now = s.now := rfl
@[simp] theorem setPulse_fresh (l : Nat) (p : Option Pulse) : (s.setPulse l p).fresh = s.fresh := rfl
@[simp] theorem setPulse_limits (l : Nat) (p : Option Pulse) : (s.setPulse l p).limits = s.limits := rfl
@[simp] theorem setPulse_regs (l : Nat) (p : Option Pulse) : (s.setPulse l p).regs = s.regs := rfl
@[simp] theorem setPulse_applied (l : Nat) (p : Option Pulse) : (s.setPulse l p).applied = s.applied := rfl
@[simp] theorem setPulse_staged (l : Nat) (p : Option Pulse) : (s.setPulse l p).staged = s.staged := rfl
@[simp] theorem setPulse_latches (l : Nat) (p : Option Pulse) : (s.setPulse l p).latches = s.latches := rfl
@[simp] theorem setPulse_funcs (l : Nat) (p : Option Pulse) : (s.setPulse l p).funcs = s.funcs := rfl
@[simp] theorem setPulse_key (l : Nat) (p : Option Pulse) : (s.setPulse l p).key = s.key := rfl
@[simp] theorem setPulse_ldx (l : Nat) (p : Option Pulse) : (s.setPulse l p).ldx = s.ldx := rfl
@[simp] theorem setPulse_queues (l : Nat) (p : Option Pulse) : (s.setPulse l p).queues = s.queues := rfl
@[simp] theorem setPulse_hostq (l : Nat) (p : Option Pulse) : (s.setPulse l p).hostq = s.hostq := rfl
@[simp] theorem setPulse_dma (l : Nat) (p : Option Pulse) : (s.setPulse l p).dma = s.dma := rfl
@[simp] theorem setPulse_pcie (l : Nat) (p : Option Pulse) : (s.setPulse l p).pcie = s.pcie := rfl
@[simp] theorem setPulse_flt (l : Nat) (p : Option Pulse) : (s.setPulse l p).flt = s.flt := rfl
@[simp] theorem setPulse_ident (l : Nat) (p : Option Pulse) : (s.setPulse l p).ident = s.ident := rfl
@[simp] theorem setPulse_time (l : Nat) (p : Option Pulse) : (s.setPulse l p).time = s.time := rfl
@[simp] theorem setPulse_axes (l : Nat) (p : Option Pulse) : (s.setPulse l p).axes = s.axes := rfl
@[simp] theorem setPulse_ncpA (l : Nat) (p : Option Pulse) : (s.setPulse l p).ncpA = s.ncpA := rfl
@[simp] theorem setPulse_ncpB (l : Nat) (p : Option Pulse) : (s.setPulse l p).ncpB = s.ncpB := rfl
@[simp] theorem setPulse_linkW (l : Nat) (p : Option Pulse) : (s.setPulse l p).linkW = s.linkW := rfl
@[simp] theorem setPulse_linkE (l : Nat) (p : Option Pulse) : (s.setPulse l p).linkE = s.linkE := rfl
@[simp] theorem setPulse_linkT (l : Nat) (p : Option Pulse) : (s.setPulse l p).linkT = s.linkT := rfl
@[simp] theorem setPulse_fwd (l : Nat) (p : Option Pulse) : (s.setPulse l p).fwd = s.fwd := rfl
@[simp] theorem setPulse_shared (l : Nat) (p : Option Pulse) : (s.setPulse l p).shared = s.shared := rfl
@[simp] theorem setPulse_lines (l : Nat) (p : Option Pulse) : (s.setPulse l p).lines = s.lines := rfl
@[simp] theorem setPulse_uarts (l : Nat) (p : Option Pulse) : (s.setPulse l p).uarts = s.uarts := rfl
@[simp] theorem setPulse_encoders (l : Nat) (p : Option Pulse) : (s.setPulse l p).encoders = s.encoders := rfl
@[simp] theorem setPulse_engines (l : Nat) (p : Option Pulse) : (s.setPulse l p).engines = s.engines := rfl
@[simp] theorem setPulse_fronds (l : Nat) (p : Option Pulse) : (s.setPulse l p).fronds = s.fronds := rfl
@[simp] theorem setPulse_cans (l : Nat) (p : Option Pulse) : (s.setPulse l p).cans = s.cans := rfl
@[simp] theorem setPulse_canPll (l : Nat) (p : Option Pulse) : (s.setPulse l p).canPll = s.canPll := rfl
@[simp] theorem setPulse_brg (l : Nat) (p : Option Pulse) : (s.setPulse l p).brg = s.brg := rfl
@[simp] theorem setPulse_usb (l : Nat) (p : Option Pulse) : (s.setPulse l p).usb = s.usb := rfl
@[simp] theorem setPulse_power (l : Nat) (p : Option Pulse) : (s.setPulse l p).power = s.power := rfl
@[simp] theorem setPulse_dieA (l : Nat) (p : Option Pulse) : (s.setPulse l p).dieA = s.dieA := rfl
@[simp] theorem setPulse_dieB (l : Nat) (p : Option Pulse) : (s.setPulse l p).dieB = s.dieB := rfl
@[simp] theorem setPulse_rpr (l : Nat) (p : Option Pulse) : (s.setPulse l p).rpr = s.rpr := rfl
@[simp] theorem setPulse_peat (l : Nat) (p : Option Pulse) : (s.setPulse l p).peat = s.peat := rfl
@[simp] theorem setPulse_boot (l : Nat) (p : Option Pulse) : (s.setPulse l p).boot = s.boot := rfl
@[simp] theorem setPulse_pair (l : Nat) (p : Option Pulse) : (s.setPulse l p).pair = s.pair := rfl
@[simp] theorem setPulse_image (l : Nat) (p : Option Pulse) : (s.setPulse l p).image = s.image := rfl
@[simp] theorem setPulse_xact (l : Nat) (p : Option Pulse) : (s.setPulse l p).xact = s.xact := rfl

/-! ### ignored -/

@[simp] theorem ignored_pending (p : Src) (o r : Nat) : (s.ignored p o r).pending = s.pending := by rw [State.ignored, fault_pending, setNat_pending, setNat_pending, bump_pending]
@[simp] theorem ignored_out (p : Src) (o r : Nat) : (s.ignored p o r).out = s.out := by rw [State.ignored, fault_out, setNat_out, setNat_out, bump_out]
@[simp] theorem ignored_now (p : Src) (o r : Nat) : (s.ignored p o r).now = s.now := by rw [State.ignored, fault_now, setNat_now, setNat_now, bump_now]
@[simp] theorem ignored_fresh (p : Src) (o r : Nat) : (s.ignored p o r).fresh = s.fresh := by rw [State.ignored, fault_fresh, setNat_fresh, setNat_fresh, bump_fresh]
@[simp] theorem ignored_limits (p : Src) (o r : Nat) : (s.ignored p o r).limits = s.limits := by rw [State.ignored, fault_limits, setNat_limits, setNat_limits, bump_limits]
@[simp] theorem ignored_applied (p : Src) (o r : Nat) : (s.ignored p o r).applied = s.applied := by rw [State.ignored, fault_applied, setNat_applied, setNat_applied, bump_applied]
@[simp] theorem ignored_staged (p : Src) (o r : Nat) : (s.ignored p o r).staged = s.staged := by rw [State.ignored, fault_staged, setNat_staged, setNat_staged, bump_staged]
@[simp] theorem ignored_latches (p : Src) (o r : Nat) : (s.ignored p o r).latches = s.latches := by rw [State.ignored, fault_latches, setNat_latches, setNat_latches, bump_latches]
@[simp] theorem ignored_funcs (p : Src) (o r : Nat) : (s.ignored p o r).funcs = s.funcs := by rw [State.ignored, fault_funcs, setNat_funcs, setNat_funcs, bump_funcs]
@[simp] theorem ignored_key (p : Src) (o r : Nat) : (s.ignored p o r).key = s.key := by rw [State.ignored, fault_key, setNat_key, setNat_key, bump_key]
@[simp] theorem ignored_ldx (p : Src) (o r : Nat) : (s.ignored p o r).ldx = s.ldx := by rw [State.ignored, fault_ldx, setNat_ldx, setNat_ldx, bump_ldx]
@[simp] theorem ignored_queues (p : Src) (o r : Nat) : (s.ignored p o r).queues = s.queues := by rw [State.ignored, fault_queues, setNat_queues, setNat_queues, bump_queues]
@[simp] theorem ignored_hostq (p : Src) (o r : Nat) : (s.ignored p o r).hostq = s.hostq := by rw [State.ignored, fault_hostq, setNat_hostq, setNat_hostq, bump_hostq]
@[simp] theorem ignored_dma (p : Src) (o r : Nat) : (s.ignored p o r).dma = s.dma := by rw [State.ignored, fault_dma, setNat_dma, setNat_dma, bump_dma]
@[simp] theorem ignored_pcie (p : Src) (o r : Nat) : (s.ignored p o r).pcie = s.pcie := by rw [State.ignored, fault_pcie, setNat_pcie, setNat_pcie, bump_pcie]
@[simp] theorem ignored_flt (p : Src) (o r : Nat) : (s.ignored p o r).flt = s.flt := by rw [State.ignored, fault_flt, setNat_flt, setNat_flt, bump_flt]
@[simp] theorem ignored_ident (p : Src) (o r : Nat) : (s.ignored p o r).ident = s.ident := by rw [State.ignored, fault_ident, setNat_ident, setNat_ident, bump_ident]
@[simp] theorem ignored_time (p : Src) (o r : Nat) : (s.ignored p o r).time = s.time := by rw [State.ignored, fault_time, setNat_time, setNat_time, bump_time]
@[simp] theorem ignored_axes (p : Src) (o r : Nat) : (s.ignored p o r).axes = s.axes := by rw [State.ignored, fault_axes, setNat_axes, setNat_axes, bump_axes]
@[simp] theorem ignored_ncpA (p : Src) (o r : Nat) : (s.ignored p o r).ncpA = s.ncpA := by rw [State.ignored, fault_ncpA, setNat_ncpA, setNat_ncpA, bump_ncpA]
@[simp] theorem ignored_ncpB (p : Src) (o r : Nat) : (s.ignored p o r).ncpB = s.ncpB := by rw [State.ignored, fault_ncpB, setNat_ncpB, setNat_ncpB, bump_ncpB]
@[simp] theorem ignored_linkW (p : Src) (o r : Nat) : (s.ignored p o r).linkW = s.linkW := by rw [State.ignored, fault_linkW, setNat_linkW, setNat_linkW, bump_linkW]
@[simp] theorem ignored_linkE (p : Src) (o r : Nat) : (s.ignored p o r).linkE = s.linkE := by rw [State.ignored, fault_linkE, setNat_linkE, setNat_linkE, bump_linkE]
@[simp] theorem ignored_linkT (p : Src) (o r : Nat) : (s.ignored p o r).linkT = s.linkT := by rw [State.ignored, fault_linkT, setNat_linkT, setNat_linkT, bump_linkT]
@[simp] theorem ignored_fwd (p : Src) (o r : Nat) : (s.ignored p o r).fwd = s.fwd := by rw [State.ignored, fault_fwd, setNat_fwd, setNat_fwd, bump_fwd]
@[simp] theorem ignored_shared (p : Src) (o r : Nat) : (s.ignored p o r).shared = s.shared := by rw [State.ignored, fault_shared, setNat_shared, setNat_shared, bump_shared]
@[simp] theorem ignored_lines (p : Src) (o r : Nat) : (s.ignored p o r).lines = s.lines := by rw [State.ignored, fault_lines, setNat_lines, setNat_lines, bump_lines]
@[simp] theorem ignored_uarts (p : Src) (o r : Nat) : (s.ignored p o r).uarts = s.uarts := by rw [State.ignored, fault_uarts, setNat_uarts, setNat_uarts, bump_uarts]
@[simp] theorem ignored_encoders (p : Src) (o r : Nat) : (s.ignored p o r).encoders = s.encoders := by rw [State.ignored, fault_encoders, setNat_encoders, setNat_encoders, bump_encoders]
@[simp] theorem ignored_engines (p : Src) (o r : Nat) : (s.ignored p o r).engines = s.engines := by rw [State.ignored, fault_engines, setNat_engines, setNat_engines, bump_engines]
@[simp] theorem ignored_fronds (p : Src) (o r : Nat) : (s.ignored p o r).fronds = s.fronds := by rw [State.ignored, fault_fronds, setNat_fronds, setNat_fronds, bump_fronds]
@[simp] theorem ignored_act (p : Src) (o r : Nat) : (s.ignored p o r).act = s.act := by rw [State.ignored, fault_act, setNat_act, setNat_act, bump_act]
@[simp] theorem ignored_cans (p : Src) (o r : Nat) : (s.ignored p o r).cans = s.cans := by rw [State.ignored, fault_cans, setNat_cans, setNat_cans, bump_cans]
@[simp] theorem ignored_canPll (p : Src) (o r : Nat) : (s.ignored p o r).canPll = s.canPll := by rw [State.ignored, fault_canPll, setNat_canPll, setNat_canPll, bump_canPll]
@[simp] theorem ignored_brg (p : Src) (o r : Nat) : (s.ignored p o r).brg = s.brg := by rw [State.ignored, fault_brg, setNat_brg, setNat_brg, bump_brg]
@[simp] theorem ignored_usb (p : Src) (o r : Nat) : (s.ignored p o r).usb = s.usb := by rw [State.ignored, fault_usb, setNat_usb, setNat_usb, bump_usb]
@[simp] theorem ignored_power (p : Src) (o r : Nat) : (s.ignored p o r).power = s.power := by rw [State.ignored, fault_power, setNat_power, setNat_power, bump_power]
@[simp] theorem ignored_dieA (p : Src) (o r : Nat) : (s.ignored p o r).dieA = s.dieA := by rw [State.ignored, fault_dieA, setNat_dieA, setNat_dieA, bump_dieA]
@[simp] theorem ignored_dieB (p : Src) (o r : Nat) : (s.ignored p o r).dieB = s.dieB := by rw [State.ignored, fault_dieB, setNat_dieB, setNat_dieB, bump_dieB]
@[simp] theorem ignored_rpr (p : Src) (o r : Nat) : (s.ignored p o r).rpr = s.rpr := by rw [State.ignored, fault_rpr, setNat_rpr, setNat_rpr, bump_rpr]
@[simp] theorem ignored_peat (p : Src) (o r : Nat) : (s.ignored p o r).peat = s.peat := by rw [State.ignored, fault_peat, setNat_peat, setNat_peat, bump_peat]
@[simp] theorem ignored_boot (p : Src) (o r : Nat) : (s.ignored p o r).boot = s.boot := by rw [State.ignored, fault_boot, setNat_boot, setNat_boot, bump_boot]
@[simp] theorem ignored_pair (p : Src) (o r : Nat) : (s.ignored p o r).pair = s.pair := by rw [State.ignored, fault_pair, setNat_pair, setNat_pair, bump_pair]
@[simp] theorem ignored_image (p : Src) (o r : Nat) : (s.ignored p o r).image = s.image := by rw [State.ignored, fault_image, setNat_image, setNat_image, bump_image]
@[simp] theorem ignored_xact (p : Src) (o r : Nat) : (s.ignored p o r).xact = s.xact := by rw [State.ignored, fault_xact, setNat_xact, setNat_xact, bump_xact]

/-! ### What the update itself changes -/

@[simp] theorem begun_out : s.begun.out = [] := rfl
@[simp] theorem begun_raised : s.begun.raised = [] := rfl
@[simp] theorem emit_out (o : Output) : (s.emit o).out = s.out ++ [o] := rfl
@[simp] theorem event_raised (n k : Nat) (b : EventBody) : (s.event n k b).raised = s.raised ++ [.event n k b] := rfl
@[simp] theorem eventP_raised (n k p : Nat) :
    (s.eventP n k p).raised = s.raised ++ [.event n k { payload := BitVec.ofNat 64 p }] := rfl
@[simp] theorem fault_raised (n k l d a : Nat) :
    (s.fault n k l d a).raised = s.raised ++ [.fault n k l d (BitVec.ofNat 32 a)] := rfl
@[simp] theorem ignored_raised (p : Src) (o r : Nat) :
    (s.ignored p o r).raised = s.raised ++ [.fault 770 0x0B 0 r (BitVec.ofNat 32 o)] := by
  rw [State.ignored, fault_raised, setNat_raised, setNat_raised, bump_raised]
@[simp] theorem advanceTo_now (x : Nat) : (s.advanceTo x).now = max s.now x := rfl
@[simp] theorem setFunc_func (id : Nat) (f : Func) : (s.setFunc id f).func id = f := by
  simp [State.func, State.setFunc]
theorem setFunc_func_other {id j : Nat} (f : Func) (h : j ≠ id) : (s.setFunc id f).func j = s.func j := by
  simp [State.func, State.setFunc, tabGet_set_other _ _ _ _ h]
@[simp] theorem setReg_rg (o : Nat) (v : Word) : (s.setReg o v).rg o = v := by simp [State.rg, State.setReg]
theorem setReg_rg_other {o p : Nat} (v : Word) (h : p ≠ o) : (s.setReg o v).rg p = s.rg p := by
  simp [State.rg, State.setReg, tabGet_set_other _ _ _ _ h]
theorem setNat_rg_other {o p : Nat} (v : Nat) (h : p ≠ o) : (s.setNat o v).rg p = s.rg p := setReg_rg_other s _ h
theorem bump_rg_other {o p : Nat} (h : p ≠ o) : (s.bump o).rg p = s.rg p := setReg_rg_other s _ h
@[simp] theorem setLink_link (l : Link) (x : LinkPort) : (s.setLink l x).link l = x := by cases l <;> rfl
theorem setLink_link_other {l m : Link} (x : LinkPort) (h : m ≠ l) : (s.setLink l x).link m = s.link m := by
  cases l <;> cases m <;> first | rfl | exact absurd rfl h
@[simp] theorem setNcp_ncp (p : Pair) (x : Ncp) : (s.setNcp p x).ncp p = x := by cases p <;> rfl
theorem setNcp_ncp_other {p q : Pair} (x : Ncp) (h : q ≠ p) : (s.setNcp p x).ncp q = s.ncp q := by
  cases p <;> cases q <;> first | rfl | exact absurd rfl h
@[simp] theorem setAxis_axis (a : Nat) (x : Axis) : (s.setAxis a x).axis a = x := by simp [State.axis, State.setAxis]
theorem setDom_dom {d : Nat} (x : Domain) (h : d ≠ 0) : (s.setDom d x).dom d = x := by simp [State.dom, State.setDom, h]
theorem setDom_dom_other {d e : Nat} (x : Domain) (h : e ≠ d) : (s.setDom d x).dom e = s.dom e := by
  simp [State.dom, State.setDom, tabGet_set_other _ _ _ _ h]
@[simp] theorem setCan_can (k : Nat) (x : Can) : (s.setCan k x).can k = x := by simp [State.can, State.setCan]
@[simp] theorem setEngine_engine (i : Nat) (x : Engine) : (s.setEngine i x).engine i = x := by
  simp [State.engine, State.setEngine]
@[simp] theorem setLine_line (l : Nat) (x : Line) : (s.setLine l x).line l = x := by simp [State.line, State.setLine]
@[simp] theorem setFrond_frond (n : Nat) (x : Frond) : (s.setFrond n x).frond n = x := by
  simp [State.frond, State.setFrond]
@[simp] theorem setUart_uart (c : Nat) (x : Uart) : (s.setUart c x).uart c = x := by simp [State.uart, State.setUart]
@[simp] theorem setEncoder_encoder (u : Nat) (x : Encoder) : (s.setEncoder u x).encoder u = x := by
  simp [State.encoder, State.setEncoder]
@[simp] theorem setSlot_slotOf (b : Bool) (x : Slot) : (s.setSlot b x).slotOf b = x := by cases b <;> rfl
@[simp] theorem usbSet_usb (u : Usb) : (s.usbSet u).usb = u := rfl
@[simp] theorem setHq_hq (h : Nat) (x : HostQueue) : (s.setHq h x).hq h = x := by simp [State.hq, State.setHq]
@[simp] theorem setDma_dmac (c : Nat) (x : Dma) : (s.setDma c x).dmac c = x := by simp [State.dmac, State.setDma]
@[simp] theorem setQueue_queue (q : Nat) (x : LocalQueue) : (s.setQueue q x).queue q = x := by
  simp [State.queue, State.setQueue]

end Sys2Proof.Machine
end

