-- ==== Sys2Proof/Laws/Only.lean ====
section
/-! SUPPORT. `Only` compositionally: one rule for each way in which a transformer of the state is built. -/

namespace Sys2Proof.Machine

theorem Only.refl (ps : List Part) (s : State) : Only ps s s := by
  intro q _; cases q <;> first | rfl | exact fun _ _ => rfl | exact ⟨rfl, rfl, rfl⟩

theorem Part.same_trans {s t u : State} {q : Part} (h1 : q.same s t) (h2 : q.same t u) : q.same s u := by
  cases q <;> first | exact Eq.trans h2 h1 | exact ⟨h2.1.trans h1.1, h2.2.1.trans h1.2.1, h2.2.2.trans h1.2.2⟩ | (intro o ho; exact (h2 o ho).trans (h1 o ho))

theorem Only.trans {ps : List Part} {s t u : State} (h1 : Only ps s t) (h2 : Only ps t u) : Only ps s u :=
  fun q hq => Part.same_trans (h1 q hq) (h2 q hq)

theorem Only.mono {ps rs : List Part} {s t : State} (h : Only ps s t) (hs : ∀ q ∈ ps, q ∈ rs) : Only rs s t :=
  fun q hq => h q (fun hp => hq (hs q hp))

/-- One more operation on top of what came before. -/
theorem Only.step {ps rs : List Part} {s t u : State} (h : Only ps t u) (hs : ∀ q ∈ ps, q ∈ rs) (h1 : Only rs s t) :
    Only rs s u := h1.trans (h.mono hs)

theorem Part.same_symm {s t : State} {q : Part} (h : q.same s t) : q.same t s := by
  cases q <;> first | exact Eq.symm h | exact ⟨h.1.symm, h.2.1.symm, h.2.2.symm⟩ | (intro o ho; exact (h o ho).symm)

/-- An operation that touches only listed parts neither makes nor breaks such a claim. -/
theorem Only.iff {ps rs : List Part} {s t u : State} (h : Only ps t u) (hs : ∀ q ∈ ps, q ∈ rs) :
    Only rs s u ↔ Only rs s t :=
  ⟨fun h1 q hq => Part.same_trans (h1 q hq) (Part.same_symm (h q (fun hp => hq (hs q hp)))), fun h1 => Only.step h hs h1⟩

theorem Only.refl_iff {ps : List Part} {s : State} : Only ps s s ↔ True := iff_true_intro (Only.refl ps s)

theorem Only.ite {ps : List Part} {s t u : State} {c : Prop} [Decidable c] (h1 : Only ps s t) (h2 : Only ps s u) :
    Only ps s (if c then t else u) := by
  split <;> assumption

theorem Only.foldl {α : Type} {ps : List Part} {f : State → α → State} (hf : ∀ s a, Only ps s (f s a)) :
    ∀ {l : List α} {s t : State}, Only ps s t → Only ps s (l.foldl f t)
  | [], _, _, h => h
  | a :: l, _, t, h => by
    rw [List.foldl_cons]
    exact Only.foldl hf (l := l) (h.trans (hf t a))

theorem Only.foldl_snd {α β : Type} {ps : List Part} {s : State} {f : β × State → α → β × State}
    (hf : ∀ r a, Only ps r.2 (f r a).2) {l : List α} {r : β × State} (h : Only ps s r.2) : Only ps s (l.foldl f r).2 := by
  induction l generalizing r with
  | nil => exact h
  | cons a l ih => exact ih (h.trans (hf r a))

theorem Only.getD {ps : List Part} {s t : State} {o : Option State} (h : ∀ u, o = some u → Only ps s u) (h1 : Only ps s t) :
    Only ps s (o.getD t) := by
  cases o with
  | none => exact h1
  | some u => exact h u rfl

theorem Only.snd {α : Type} {ps : List Part} {s t : State} {e : α × State} {a : α} (h : Only ps s e.2) (he : e = (a, t)) :
    Only ps s t := by rw [he] at h; exact h

theorem Only.fst {α : Type} {ps : List Part} {s t : State} {e : State × α} {a : α} (h : Only ps s e.1) (he : e = (t, a)) :
    Only ps s t := by rw [he] at h; exact h

/-- A counter of `raiseReg` written. -/
theorem Only.counts {s : State} {o : Nat} (v : Word) (h : raiseReg o = true) : Only [.counts] s (s.setReg o v) := by
  intro q hq
  cases q <;> first
    | rfl
    | exact absurd (by decide) hq
    | exact ⟨rfl, rfl, rfl⟩
    | (intro p hp
       have hne : p ≠ o := fun e => by rw [e, h] at hp; cases hp
       exact setReg_rg_other s v hne)

theorem raiseReg_seq (n : Nat) : raiseReg (0x0F2000 + 4 * (n % 1024)) = true := by
  have : n % 1024 < 1024 := Nat.mod_lt _ (by decide)
  simp only [raiseReg, Bool.or_eq_true, Bool.and_eq_true, decide_eq_true_eq]
  omega

theorem raiseReg_drops (q : Nat) : raiseReg (0x0F3000 + 0x20 * (q % 16) + 0x18) = true := by
  have : q % 16 < 16 := Nat.mod_lt _ (by decide)
  simp only [raiseReg, Bool.or_eq_true, Bool.and_eq_true, decide_eq_true_eq, beq_iff_eq]
  omega

theorem raiseReg_coal (p : Pair) : raiseReg (ncpBase p + 0x20C) = true := by cases p <;> decide

/-! ### Updates of fields -/

theorem Only.with_pending {rs : List Part} {s t : State} (x0 : List Instr)
    (h : ∀ q ∈ [Part.pending], q ∈ rs) :
    Only rs s { t with pending := x0 } ↔ Only rs s t :=
  Only.iff (ps := [Part.pending]) (fun q hq => by cases q <;> first | rfl | exact fun _ _ => rfl | exact ⟨rfl, rfl, rfl⟩ | exact absurd (by decide) hq) h

theorem Only.with_out {rs : List Part} {s t : State} (x0 : List Output)
    (h : ∀ q ∈ [Part.out], q ∈ rs) :
    Only rs s { t with out := x0 } ↔ Only rs s t :=
  Only.iff (ps := [Part.out]) (fun q hq => by cases q <;> first | rfl | exact fun _ _ => rfl | exact ⟨rfl, rfl, rfl⟩ | exact absurd (by decide) hq) h

theorem Only.with_out_raised {rs : List Part} {s t : State} (x0 : List Output) (x1 : List Raise)
    (h : ∀ q ∈ [Part.out, Part.raised, Part.urgent], q ∈ rs) :
    Only rs s { t with out := x0, raised := x1 } ↔ Only rs s t :=
  Only.iff (ps := [Part.out, Part.raised, Part.urgent]) (fun q hq => by cases q <;> first | rfl | exact fun _ _ => rfl | exact ⟨rfl, rfl, rfl⟩ | exact absurd (by decide) hq) h

theorem Only.with_raised {rs : List Part} {s t : State} (x0 : List Raise)
    (h : ∀ q ∈ [Part.raised, Part.urgent], q ∈ rs) :
    Only rs s { t with raised := x0 } ↔ Only rs s t :=
  Only.iff (ps := [Part.raised, Part.urgent]) (fun q hq => by cases q <;> first | rfl | exact fun _ _ => rfl | exact ⟨rfl, rfl, rfl⟩ | exact absurd (by decide) hq) h

theorem Only.with_now {rs : List Part} {s t : State} (x0 : Nat)
    (h : ∀ q ∈ [Part.now], q ∈ rs) :
    Only rs s { t with now := x0 } ↔ Only rs s t :=
  Only.iff (ps := [Part.now]) (fun q hq => by cases q <;> first | rfl | exact fun _ _ => rfl | exact ⟨rfl, rfl, rfl⟩ | exact absurd (by decide) hq) h

theorem Only.with_fresh {rs : List Part} {s t : State} (x0 : Nat)
    (h : ∀ q ∈ [Part.fresh], q ∈ rs) :
    Only rs s { t with fresh := x0 } ↔ Only rs s t :=
  Only.iff (ps := [Part.fresh]) (fun q hq => by cases q <;> first | rfl | exact fun _ _ => rfl | exact ⟨rfl, rfl, rfl⟩ | exact absurd (by decide) hq) h

theorem Only.with_limits {rs : List Part} {s t : State} (x0 : Tab Nat)
    (h : ∀ q ∈ [Part.limits], q ∈ rs) :
    Only rs s { t with limits := x0 } ↔ Only rs s t :=
  Only.iff (ps := [Part.limits]) (fun q hq => by cases q <;> first | rfl | exact fun _ _ => rfl | exact ⟨rfl, rfl, rfl⟩ | exact absurd (by decide) hq) h

theorem Only.with_regs {rs : List Part} {s t : State} (x0 : Tab Word)
    (h : ∀ q ∈ [Part.regs, Part.counts], q ∈ rs) :
    Only rs s { t with regs := x0 } ↔ Only rs s t :=
  Only.iff (ps := [Part.regs, Part.counts]) (fun q hq => by cases q <;> first | rfl | exact fun _ _ => rfl | exact ⟨rfl, rfl, rfl⟩ | exact absurd (by decide) hq) h

theorem Only.with_applied {rs : List Part} {s t : State} (x0 : Tab Word)
    (h : ∀ q ∈ [Part.applied], q ∈ rs) :
    Only rs s { t with applied := x0 } ↔ Only rs s t :=
  Only.iff (ps := [Part.applied]) (fun q hq => by cases q <;> first | rfl | exact fun _ _ => rfl | exact ⟨rfl, rfl, rfl⟩ | exact absurd (by decide) hq) h

theorem Only.with_staged {rs : List Part} {s t : State} (x0 : Tab Word)
    (h : ∀ q ∈ [Part.staged], q ∈ rs) :
    Only rs s { t with staged := x0 } ↔ Only rs s t :=
  Only.iff (ps := [Part.staged]) (fun q hq => by cases q <;> first | rfl | exact fun _ _ => rfl | exact ⟨rfl, rfl, rfl⟩ | exact absurd (by decide) hq) h

theorem Only.with_latches {rs : List Part} {s t : State} (x0 : List ((Nat × Nat) × Word))
    (h : ∀ q ∈ [Part.latches], q ∈ rs) :
    Only rs s { t with latches := x0 } ↔ Only rs s t :=
  Only.iff (ps := [Part.latches]) (fun q hq => by cases q <;> first | rfl | exact fun _ _ => rfl | exact ⟨rfl, rfl, rfl⟩ | exact absurd (by decide) hq) h

theorem Only.with_latches_linkW_linkE_linkT_shared_usb {rs : List Part} {s t : State} (x0 : List ((Nat × Nat) × Word)) (x1 : LinkPort) (x2 : LinkPort) (x3 : LinkPort) (x4 : List Host.Cell) (x5 : Usb)
    (h : ∀ q ∈ [Part.latches, Part.linkW, Part.linkE, Part.linkT, Part.shared, Part.usb], q ∈ rs) :
    Only rs s { t with latches := x0, linkW := x1, linkE := x2, linkT := x3, shared := x4, usb := x5 } ↔ Only rs s t :=
  Only.iff (ps := [Part.latches, Part.linkW, Part.linkE, Part.linkT, Part.shared, Part.usb]) (fun q hq => by cases q <;> first | rfl | exact fun _ _ => rfl | exact ⟨rfl, rfl, rfl⟩ | exact absurd (by decide) hq) h

theorem Only.with_funcs {rs : List Part} {s t : State} (x0 : Tab Func)
    (h : ∀ q ∈ [Part.funcs], q ∈ rs) :
    Only rs s { t with funcs := x0 } ↔ Only rs s t :=
  Only.iff (ps := [Part.funcs]) (fun q hq => by cases q <;> first | rfl | exact fun _ _ => rfl | exact ⟨rfl, rfl, rfl⟩ | exact absurd (by decide) hq) h

theorem Only.with_funcs_flt_ident_rpr_peat_boot_pair {rs : List Part} {s t : State} (x0 : Tab Func) (x1 : Faults) (x2 : Ident) (x3 : Repair) (x4 : Peat) (x5 : Boot) (x6 : PairLogic)
    (h : ∀ q ∈ [Part.funcs, Part.flt, Part.ident, Part.rpr, Part.peat, Part.boot, Part.pair, Part.lanes], q ∈ rs) :
    Only rs s { t with funcs := x0, flt := x1, ident := x2, rpr := x3, peat := x4, boot := x5, pair := x6 } ↔ Only rs s t :=
  Only.iff (ps := [Part.funcs, Part.flt, Part.ident, Part.rpr, Part.peat, Part.boot, Part.pair, Part.lanes]) (fun q hq => by cases q <;> first | rfl | exact fun _ _ => rfl | exact ⟨rfl, rfl, rfl⟩ | exact absurd (by decide) hq) h

theorem Only.with_key {rs : List Part} {s t : State} (x0 : KeyGuard)
    (h : ∀ q ∈ [Part.key], q ∈ rs) :
    Only rs s { t with key := x0 } ↔ Only rs s t :=
  Only.iff (ps := [Part.key]) (fun q hq => by cases q <;> first | rfl | exact fun _ _ => rfl | exact ⟨rfl, rfl, rfl⟩ | exact absurd (by decide) hq) h

theorem Only.with_ldx {rs : List Part} {s t : State} (x0 : Ldx)
    (h : ∀ q ∈ [Part.ldx], q ∈ rs) :
    Only rs s { t with ldx := x0 } ↔ Only rs s t :=
  Only.iff (ps := [Part.ldx]) (fun q hq => by cases q <;> first | rfl | exact fun _ _ => rfl | exact ⟨rfl, rfl, rfl⟩ | exact absurd (by decide) hq) h

theorem Only.with_queues {rs : List Part} {s t : State} (x0 : Tab LocalQueue)
    (h : ∀ q ∈ [Part.queues], q ∈ rs) :
    Only rs s { t with queues := x0 } ↔ Only rs s t :=
  Only.iff (ps := [Part.queues]) (fun q hq => by cases q <;> first | rfl | exact fun _ _ => rfl | exact ⟨rfl, rfl, rfl⟩ | exact absurd (by decide) hq) h

theorem Only.with_queues_hostq_dma_pcie_time_axes_ncpA_ncpB_linkW_linkE_linkT_fwd_lines_uarts_encoders_engines_act_cans_canPll_brg_power_image_xact {rs : List Part} {s t : State} (x0 : Tab LocalQueue) (x1 : Tab HostQueue) (x2 : Tab Dma) (x3 : Pcie) (x4 : Time) (x5 : Tab Axis) (x6 : Ncp) (x7 : Ncp) (x8 : LinkPort) (x9 : LinkPort) (x10 : LinkPort) (x11 : Fwd) (x12 : Tab Line) (x13 : Tab Uart) (x14 : Tab Encoder) (x15 : Tab Engine) (x16 : Act) (x17 : Tab Can) (x18 : Bool) (x19 : Brg) (x20 : Power) (x21 : List Host.Cell) (x22 : Xact)
    (h : ∀ q ∈ [Part.queues, Part.hostq, Part.dma, Part.pcie, Part.time, Part.axes, Part.ncpA, Part.ncpB, Part.linkW, Part.linkE, Part.linkT, Part.fwd, Part.lines, Part.uarts, Part.encoders, Part.engines, Part.act, Part.cans, Part.canPll, Part.brg, Part.power, Part.image, Part.xact, Part.pba, Part.pendA, Part.pendB], q ∈ rs) :
    Only rs s { t with queues := x0, hostq := x1, dma := x2, pcie := x3, time := x4, axes := x5, ncpA := x6, ncpB := x7, linkW := x8, linkE := x9, linkT := x10, fwd := x11, lines := x12, uarts := x13, encoders := x14, engines := x15, act := x16, cans := x17, canPll := x18, brg := x19, power := x20, image := x21, xact := x22 } ↔ Only rs s t :=
  Only.iff (ps := [Part.queues, Part.hostq, Part.dma, Part.pcie, Part.time, Part.axes, Part.ncpA, Part.ncpB, Part.linkW, Part.linkE, Part.linkT, Part.fwd, Part.lines, Part.uarts, Part.encoders, Part.engines, Part.act, Part.cans, Part.canPll, Part.brg, Part.power, Part.image, Part.xact, Part.pba, Part.pendA, Part.pendB]) (fun q hq => by cases q <;> first | rfl | exact fun _ _ => rfl | exact ⟨rfl, rfl, rfl⟩ | exact absurd (by decide) hq) h

theorem Only.with_queues_fwd_brg_image_xact {rs : List Part} {s t : State} (x0 : Tab LocalQueue) (x1 : Fwd) (x2 : Brg) (x3 : List Host.Cell) (x4 : Xact)
    (h : ∀ q ∈ [Part.queues, Part.fwd, Part.brg, Part.image, Part.xact], q ∈ rs) :
    Only rs s { t with queues := x0, fwd := x1, brg := x2, image := x3, xact := x4 } ↔ Only rs s t :=
  Only.iff (ps := [Part.queues, Part.fwd, Part.brg, Part.image, Part.xact]) (fun q hq => by cases q <;> first | rfl | exact fun _ _ => rfl | exact ⟨rfl, rfl, rfl⟩ | exact absurd (by decide) hq) h

theorem Only.with_hostq {rs : List Part} {s t : State} (x0 : Tab HostQueue)
    (h : ∀ q ∈ [Part.hostq], q ∈ rs) :
    Only rs s { t with hostq := x0 } ↔ Only rs s t :=
  Only.iff (ps := [Part.hostq]) (fun q hq => by cases q <;> first | rfl | exact fun _ _ => rfl | exact ⟨rfl, rfl, rfl⟩ | exact absurd (by decide) hq) h

theorem Only.with_hostq_dma_pcie {rs : List Part} {s t : State} (x0 : Tab HostQueue) (x1 : Tab Dma) (x2 : Pcie)
    (h : ∀ q ∈ [Part.hostq, Part.dma, Part.pcie, Part.pba], q ∈ rs) :
    Only rs s { t with hostq := x0, dma := x1, pcie := x2 } ↔ Only rs s t :=
  Only.iff (ps := [Part.hostq, Part.dma, Part.pcie, Part.pba]) (fun q hq => by cases q <;> first | rfl | exact fun _ _ => rfl | exact ⟨rfl, rfl, rfl⟩ | exact absurd (by decide) hq) h

theorem Only.with_dma {rs : List Part} {s t : State} (x0 : Tab Dma)
    (h : ∀ q ∈ [Part.dma], q ∈ rs) :
    Only rs s { t with dma := x0 } ↔ Only rs s t :=
  Only.iff (ps := [Part.dma]) (fun q hq => by cases q <;> first | rfl | exact fun _ _ => rfl | exact ⟨rfl, rfl, rfl⟩ | exact absurd (by decide) hq) h

theorem Only.with_dma_pcie {rs : List Part} {s t : State} (x0 : Tab Dma) (x1 : Pcie)
    (h : ∀ q ∈ [Part.dma, Part.pcie, Part.pba], q ∈ rs) :
    Only rs s { t with dma := x0, pcie := x1 } ↔ Only rs s t :=
  Only.iff (ps := [Part.dma, Part.pcie, Part.pba]) (fun q hq => by cases q <;> first | rfl | exact fun _ _ => rfl | exact ⟨rfl, rfl, rfl⟩ | exact absurd (by decide) hq) h

theorem Only.with_dma_usb {rs : List Part} {s t : State} (x0 : Tab Dma) (x1 : Usb)
    (h : ∀ q ∈ [Part.dma, Part.usb], q ∈ rs) :
    Only rs s { t with dma := x0, usb := x1 } ↔ Only rs s t :=
  Only.iff (ps := [Part.dma, Part.usb]) (fun q hq => by cases q <;> first | rfl | exact fun _ _ => rfl | exact ⟨rfl, rfl, rfl⟩ | exact absurd (by decide) hq) h

theorem Only.with_pcie {rs : List Part} {s t : State} (x0 : Pcie)
    (h : ∀ q ∈ [Part.pcie, Part.pba], q ∈ rs) :
    Only rs s { t with pcie := x0 } ↔ Only rs s t :=
  Only.iff (ps := [Part.pcie, Part.pba]) (fun q hq => by cases q <;> first | rfl | exact fun _ _ => rfl | exact ⟨rfl, rfl, rfl⟩ | exact absurd (by decide) hq) h

theorem Only.with_flt {rs : List Part} {s t : State} (x0 : Faults)
    (h : ∀ q ∈ [Part.flt, Part.lanes], q ∈ rs) :
    Only rs s { t with flt := x0 } ↔ Only rs s t :=
  Only.iff (ps := [Part.flt, Part.lanes]) (fun q hq => by cases q <;> first | rfl | exact fun _ _ => rfl | exact ⟨rfl, rfl, rfl⟩ | exact absurd (by decide) hq) h

theorem Only.with_flt_pair {rs : List Part} {s t : State} (x0 : Faults) (x1 : PairLogic)
    (h : ∀ q ∈ [Part.flt, Part.pair, Part.lanes], q ∈ rs) :
    Only rs s { t with flt := x0, pair := x1 } ↔ Only rs s t :=
  Only.iff (ps := [Part.flt, Part.pair, Part.lanes]) (fun q hq => by cases q <;> first | rfl | exact fun _ _ => rfl | exact ⟨rfl, rfl, rfl⟩ | exact absurd (by decide) hq) h

theorem Only.with_ident {rs : List Part} {s t : State} (x0 : Ident)
    (h : ∀ q ∈ [Part.ident], q ∈ rs) :
    Only rs s { t with ident := x0 } ↔ Only rs s t :=
  Only.iff (ps := [Part.ident]) (fun q hq => by cases q <;> first | rfl | exact fun _ _ => rfl | exact ⟨rfl, rfl, rfl⟩ | exact absurd (by decide) hq) h

theorem Only.with_ident_peat_boot {rs : List Part} {s t : State} (x0 : Ident) (x1 : Peat) (x2 : Boot)
    (h : ∀ q ∈ [Part.ident, Part.peat, Part.boot], q ∈ rs) :
    Only rs s { t with ident := x0, peat := x1, boot := x2 } ↔ Only rs s t :=
  Only.iff (ps := [Part.ident, Part.peat, Part.boot]) (fun q hq => by cases q <;> first | rfl | exact fun _ _ => rfl | exact ⟨rfl, rfl, rfl⟩ | exact absurd (by decide) hq) h

theorem Only.with_ident_boot {rs : List Part} {s t : State} (x0 : Ident) (x1 : Boot)
    (h : ∀ q ∈ [Part.ident, Part.boot], q ∈ rs) :
    Only rs s { t with ident := x0, boot := x1 } ↔ Only rs s t :=
  Only.iff (ps := [Part.ident, Part.boot]) (fun q hq => by cases q <;> first | rfl | exact fun _ _ => rfl | exact ⟨rfl, rfl, rfl⟩ | exact absurd (by decide) hq) h

theorem Only.with_ident_pair {rs : List Part} {s t : State} (x0 : Ident) (x1 : PairLogic)
    (h : ∀ q ∈ [Part.ident, Part.pair], q ∈ rs) :
    Only rs s { t with ident := x0, pair := x1 } ↔ Only rs s t :=
  Only.iff (ps := [Part.ident, Part.pair]) (fun q hq => by cases q <;> first | rfl | exact fun _ _ => rfl | exact ⟨rfl, rfl, rfl⟩ | exact absurd (by decide) hq) h

theorem Only.with_time {rs : List Part} {s t : State} (x0 : Time)
    (h : ∀ q ∈ [Part.time], q ∈ rs) :
    Only rs s { t with time := x0 } ↔ Only rs s t :=
  Only.iff (ps := [Part.time]) (fun q hq => by cases q <;> first | rfl | exact fun _ _ => rfl | exact ⟨rfl, rfl, rfl⟩ | exact absurd (by decide) hq) h

theorem Only.with_time_axes {rs : List Part} {s t : State} (x0 : Time) (x1 : Tab Axis)
    (h : ∀ q ∈ [Part.time, Part.axes], q ∈ rs) :
    Only rs s { t with time := x0, axes := x1 } ↔ Only rs s t :=
  Only.iff (ps := [Part.time, Part.axes]) (fun q hq => by cases q <;> first | rfl | exact fun _ _ => rfl | exact ⟨rfl, rfl, rfl⟩ | exact absurd (by decide) hq) h

theorem Only.with_time_axes_act {rs : List Part} {s t : State} (x0 : Time) (x1 : Tab Axis) (x2 : Act)
    (h : ∀ q ∈ [Part.time, Part.axes, Part.act], q ∈ rs) :
    Only rs s { t with time := x0, axes := x1, act := x2 } ↔ Only rs s t :=
  Only.iff (ps := [Part.time, Part.axes, Part.act]) (fun q hq => by cases q <;> first | rfl | exact fun _ _ => rfl | exact ⟨rfl, rfl, rfl⟩ | exact absurd (by decide) hq) h

theorem Only.with_axes {rs : List Part} {s t : State} (x0 : Tab Axis)
    (h : ∀ q ∈ [Part.axes], q ∈ rs) :
    Only rs s { t with axes := x0 } ↔ Only rs s t :=
  Only.iff (ps := [Part.axes]) (fun q hq => by cases q <;> first | rfl | exact fun _ _ => rfl | exact ⟨rfl, rfl, rfl⟩ | exact absurd (by decide) hq) h

theorem Only.with_ncpA {rs : List Part} {s t : State} (x0 : Ncp)
    (h : ∀ q ∈ [Part.ncpA, Part.pendA], q ∈ rs) :
    Only rs s { t with ncpA := x0 } ↔ Only rs s t :=
  Only.iff (ps := [Part.ncpA, Part.pendA]) (fun q hq => by cases q <;> first | rfl | exact fun _ _ => rfl | exact ⟨rfl, rfl, rfl⟩ | exact absurd (by decide) hq) h

theorem Only.with_ncpA_ncpB {rs : List Part} {s t : State} (x0 : Ncp) (x1 : Ncp)
    (h : ∀ q ∈ [Part.ncpA, Part.ncpB, Part.pendA, Part.pendB], q ∈ rs) :
    Only rs s { t with ncpA := x0, ncpB := x1 } ↔ Only rs s t :=
  Only.iff (ps := [Part.ncpA, Part.ncpB, Part.pendA, Part.pendB]) (fun q hq => by cases q <;> first | rfl | exact fun _ _ => rfl | exact ⟨rfl, rfl, rfl⟩ | exact absurd (by decide) hq) h

theorem Only.with_ncpA_ncpB_shared {rs : List Part} {s t : State} (x0 : Ncp) (x1 : Ncp) (x2 : List Host.Cell)
    (h : ∀ q ∈ [Part.ncpA, Part.ncpB, Part.shared, Part.pendA, Part.pendB], q ∈ rs) :
    Only rs s { t with ncpA := x0, ncpB := x1, shared := x2 } ↔ Only rs s t :=
  Only.iff (ps := [Part.ncpA, Part.ncpB, Part.shared, Part.pendA, Part.pendB]) (fun q hq => by cases q <;> first | rfl | exact fun _ _ => rfl | exact ⟨rfl, rfl, rfl⟩ | exact absurd (by decide) hq) h

theorem Only.with_ncpB {rs : List Part} {s t : State} (x0 : Ncp)
    (h : ∀ q ∈ [Part.ncpB, Part.pendB], q ∈ rs) :
    Only rs s { t with ncpB := x0 } ↔ Only rs s t :=
  Only.iff (ps := [Part.ncpB, Part.pendB]) (fun q hq => by cases q <;> first | rfl | exact fun _ _ => rfl | exact ⟨rfl, rfl, rfl⟩ | exact absurd (by decide) hq) h

theorem Only.with_ncpB_shared {rs : List Part} {s t : State} (x0 : Ncp) (x1 : List Host.Cell)
    (h : ∀ q ∈ [Part.ncpB, Part.shared, Part.pendB], q ∈ rs) :
    Only rs s { t with ncpB := x0, shared := x1 } ↔ Only rs s t :=
  Only.iff (ps := [Part.ncpB, Part.shared, Part.pendB]) (fun q hq => by cases q <;> first | rfl | exact fun _ _ => rfl | exact ⟨rfl, rfl, rfl⟩ | exact absurd (by decide) hq) h

theorem Only.with_ncpB_shared_boot_image {rs : List Part} {s t : State} (x0 : Ncp) (x1 : List Host.Cell) (x2 : Boot) (x3 : List Host.Cell)
    (h : ∀ q ∈ [Part.ncpB, Part.shared, Part.boot, Part.image, Part.pendB], q ∈ rs) :
    Only rs s { t with ncpB := x0, shared := x1, boot := x2, image := x3 } ↔ Only rs s t :=
  Only.iff (ps := [Part.ncpB, Part.shared, Part.boot, Part.image, Part.pendB]) (fun q hq => by cases q <;> first | rfl | exact fun _ _ => rfl | exact ⟨rfl, rfl, rfl⟩ | exact absurd (by decide) hq) h

theorem Only.with_ncpB_boot {rs : List Part} {s t : State} (x0 : Ncp) (x1 : Boot)
    (h : ∀ q ∈ [Part.ncpB, Part.boot, Part.pendB], q ∈ rs) :
    Only rs s { t with ncpB := x0, boot := x1 } ↔ Only rs s t :=
  Only.iff (ps := [Part.ncpB, Part.boot, Part.pendB]) (fun q hq => by cases q <;> first | rfl | exact fun _ _ => rfl | exact ⟨rfl, rfl, rfl⟩ | exact absurd (by decide) hq) h

theorem Only.with_linkW {rs : List Part} {s t : State} (x0 : LinkPort)
    (h : ∀ q ∈ [Part.linkW], q ∈ rs) :
    Only rs s { t with linkW := x0 } ↔ Only rs s t :=
  Only.iff (ps := [Part.linkW]) (fun q hq => by cases q <;> first | rfl | exact fun _ _ => rfl | exact ⟨rfl, rfl, rfl⟩ | exact absurd (by decide) hq) h

theorem Only.with_linkW_linkE_linkT {rs : List Part} {s t : State} (x0 : LinkPort) (x1 : LinkPort) (x2 : LinkPort)
    (h : ∀ q ∈ [Part.linkW, Part.linkE, Part.linkT], q ∈ rs) :
    Only rs s { t with linkW := x0, linkE := x1, linkT := x2 } ↔ Only rs s t :=
  Only.iff (ps := [Part.linkW, Part.linkE, Part.linkT]) (fun q hq => by cases q <;> first | rfl | exact fun _ _ => rfl | exact ⟨rfl, rfl, rfl⟩ | exact absurd (by decide) hq) h

theorem Only.with_linkE {rs : List Part} {s t : State} (x0 : LinkPort)
    (h : ∀ q ∈ [Part.linkE], q ∈ rs) :
    Only rs s { t with linkE := x0 } ↔ Only rs s t :=
  Only.iff (ps := [Part.linkE]) (fun q hq => by cases q <;> first | rfl | exact fun _ _ => rfl | exact ⟨rfl, rfl, rfl⟩ | exact absurd (by decide) hq) h

theorem Only.with_linkT {rs : List Part} {s t : State} (x0 : LinkPort)
    (h : ∀ q ∈ [Part.linkT], q ∈ rs) :
    Only rs s { t with linkT := x0 } ↔ Only rs s t :=
  Only.iff (ps := [Part.linkT]) (fun q hq => by cases q <;> first | rfl | exact fun _ _ => rfl | exact ⟨rfl, rfl, rfl⟩ | exact absurd (by decide) hq) h

theorem Only.with_fwd {rs : List Part} {s t : State} (x0 : Fwd)
    (h : ∀ q ∈ [Part.fwd], q ∈ rs) :
    Only rs s { t with fwd := x0 } ↔ Only rs s t :=
  Only.iff (ps := [Part.fwd]) (fun q hq => by cases q <;> first | rfl | exact fun _ _ => rfl | exact ⟨rfl, rfl, rfl⟩ | exact absurd (by decide) hq) h

theorem Only.with_fwd_shared {rs : List Part} {s t : State} (x0 : Fwd) (x1 : List Host.Cell)
    (h : ∀ q ∈ [Part.fwd, Part.shared], q ∈ rs) :
    Only rs s { t with fwd := x0, shared := x1 } ↔ Only rs s t :=
  Only.iff (ps := [Part.fwd, Part.shared]) (fun q hq => by cases q <;> first | rfl | exact fun _ _ => rfl | exact ⟨rfl, rfl, rfl⟩ | exact absurd (by decide) hq) h

theorem Only.with_fwd_rpr {rs : List Part} {s t : State} (x0 : Fwd) (x1 : Repair)
    (h : ∀ q ∈ [Part.fwd, Part.rpr], q ∈ rs) :
    Only rs s { t with fwd := x0, rpr := x1 } ↔ Only rs s t :=
  Only.iff (ps := [Part.fwd, Part.rpr]) (fun q hq => by cases q <;> first | rfl | exact fun _ _ => rfl | exact ⟨rfl, rfl, rfl⟩ | exact absurd (by decide) hq) h

theorem Only.with_fwd_pair {rs : List Part} {s t : State} (x0 : Fwd) (x1 : PairLogic)
    (h : ∀ q ∈ [Part.fwd, Part.pair], q ∈ rs) :
    Only rs s { t with fwd := x0, pair := x1 } ↔ Only rs s t :=
  Only.iff (ps := [Part.fwd, Part.pair]) (fun q hq => by cases q <;> first | rfl | exact fun _ _ => rfl | exact ⟨rfl, rfl, rfl⟩ | exact absurd (by decide) hq) h

theorem Only.with_shared {rs : List Part} {s t : State} (x0 : List Host.Cell)
    (h : ∀ q ∈ [Part.shared], q ∈ rs) :
    Only rs s { t with shared := x0 } ↔ Only rs s t :=
  Only.iff (ps := [Part.shared]) (fun q hq => by cases q <;> first | rfl | exact fun _ _ => rfl | exact ⟨rfl, rfl, rfl⟩ | exact absurd (by decide) hq) h

theorem Only.with_shared_act_brg {rs : List Part} {s t : State} (x0 : List Host.Cell) (x1 : Act) (x2 : Brg)
    (h : ∀ q ∈ [Part.shared, Part.act, Part.brg], q ∈ rs) :
    Only rs s { t with shared := x0, act := x1, brg := x2 } ↔ Only rs s t :=
  Only.iff (ps := [Part.shared, Part.act, Part.brg]) (fun q hq => by cases q <;> first | rfl | exact fun _ _ => rfl | exact ⟨rfl, rfl, rfl⟩ | exact absurd (by decide) hq) h

theorem Only.with_shared_image {rs : List Part} {s t : State} (x0 : List Host.Cell) (x1 : List Host.Cell)
    (h : ∀ q ∈ [Part.shared, Part.image], q ∈ rs) :
    Only rs s { t with shared := x0, image := x1 } ↔ Only rs s t :=
  Only.iff (ps := [Part.shared, Part.image]) (fun q hq => by cases q <;> first | rfl | exact fun _ _ => rfl | exact ⟨rfl, rfl, rfl⟩ | exact absurd (by decide) hq) h

theorem Only.with_lines {rs : List Part} {s t : State} (x0 : Tab Line)
    (h : ∀ q ∈ [Part.lines], q ∈ rs) :
    Only rs s { t with lines := x0 } ↔ Only rs s t :=
  Only.iff (ps := [Part.lines]) (fun q hq => by cases q <;> first | rfl | exact fun _ _ => rfl | exact ⟨rfl, rfl, rfl⟩ | exact absurd (by decide) hq) h

theorem Only.with_lines_power {rs : List Part} {s t : State} (x0 : Tab Line) (x1 : Power)
    (h : ∀ q ∈ [Part.lines, Part.power], q ∈ rs) :
    Only rs s { t with lines := x0, power := x1 } ↔ Only rs s t :=
  Only.iff (ps := [Part.lines, Part.power]) (fun q hq => by cases q <;> first | rfl | exact fun _ _ => rfl | exact ⟨rfl, rfl, rfl⟩ | exact absurd (by decide) hq) h

theorem Only.with_uarts {rs : List Part} {s t : State} (x0 : Tab Uart)
    (h : ∀ q ∈ [Part.uarts], q ∈ rs) :
    Only rs s { t with uarts := x0 } ↔ Only rs s t :=
  Only.iff (ps := [Part.uarts]) (fun q hq => by cases q <;> first | rfl | exact fun _ _ => rfl | exact ⟨rfl, rfl, rfl⟩ | exact absurd (by decide) hq) h

theorem Only.with_uarts_encoders_engines {rs : List Part} {s t : State} (x0 : Tab Uart) (x1 : Tab Encoder) (x2 : Tab Engine)
    (h : ∀ q ∈ [Part.uarts, Part.encoders, Part.engines], q ∈ rs) :
    Only rs s { t with uarts := x0, encoders := x1, engines := x2 } ↔ Only rs s t :=
  Only.iff (ps := [Part.uarts, Part.encoders, Part.engines]) (fun q hq => by cases q <;> first | rfl | exact fun _ _ => rfl | exact ⟨rfl, rfl, rfl⟩ | exact absurd (by decide) hq) h

theorem Only.with_encoders {rs : List Part} {s t : State} (x0 : Tab Encoder)
    (h : ∀ q ∈ [Part.encoders], q ∈ rs) :
    Only rs s { t with encoders := x0 } ↔ Only rs s t :=
  Only.iff (ps := [Part.encoders]) (fun q hq => by cases q <;> first | rfl | exact fun _ _ => rfl | exact ⟨rfl, rfl, rfl⟩ | exact absurd (by decide) hq) h

theorem Only.with_engines {rs : List Part} {s t : State} (x0 : Tab Engine)
    (h : ∀ q ∈ [Part.engines], q ∈ rs) :
    Only rs s { t with engines := x0 } ↔ Only rs s t :=
  Only.iff (ps := [Part.engines]) (fun q hq => by cases q <;> first | rfl | exact fun _ _ => rfl | exact ⟨rfl, rfl, rfl⟩ | exact absurd (by decide) hq) h

theorem Only.with_fronds {rs : List Part} {s t : State} (x0 : Tab Frond)
    (h : ∀ q ∈ [Part.fronds], q ∈ rs) :
    Only rs s { t with fronds := x0 } ↔ Only rs s t :=
  Only.iff (ps := [Part.fronds]) (fun q hq => by cases q <;> first | rfl | exact fun _ _ => rfl | exact ⟨rfl, rfl, rfl⟩ | exact absurd (by decide) hq) h

theorem Only.with_act {rs : List Part} {s t : State} (x0 : Act)
    (h : ∀ q ∈ [Part.act], q ∈ rs) :
    Only rs s { t with act := x0 } ↔ Only rs s t :=
  Only.iff (ps := [Part.act]) (fun q hq => by cases q <;> first | rfl | exact fun _ _ => rfl | exact ⟨rfl, rfl, rfl⟩ | exact absurd (by decide) hq) h

theorem Only.with_act_brg {rs : List Part} {s t : State} (x0 : Act) (x1 : Brg)
    (h : ∀ q ∈ [Part.act, Part.brg], q ∈ rs) :
    Only rs s { t with act := x0, brg := x1 } ↔ Only rs s t :=
  Only.iff (ps := [Part.act, Part.brg]) (fun q hq => by cases q <;> first | rfl | exact fun _ _ => rfl | exact ⟨rfl, rfl, rfl⟩ | exact absurd (by decide) hq) h

theorem Only.with_cans {rs : List Part} {s t : State} (x0 : Tab Can)
    (h : ∀ q ∈ [Part.cans], q ∈ rs) :
    Only rs s { t with cans := x0 } ↔ Only rs s t :=
  Only.iff (ps := [Part.cans]) (fun q hq => by cases q <;> first | rfl | exact fun _ _ => rfl | exact ⟨rfl, rfl, rfl⟩ | exact absurd (by decide) hq) h

theorem Only.with_cans_canPll {rs : List Part} {s t : State} (x0 : Tab Can) (x1 : Bool)
    (h : ∀ q ∈ [Part.cans, Part.canPll], q ∈ rs) :
    Only rs s { t with cans := x0, canPll := x1 } ↔ Only rs s t :=
  Only.iff (ps := [Part.cans, Part.canPll]) (fun q hq => by cases q <;> first | rfl | exact fun _ _ => rfl | exact ⟨rfl, rfl, rfl⟩ | exact absurd (by decide) hq) h

theorem Only.with_canPll {rs : List Part} {s t : State} (x0 : Bool)
    (h : ∀ q ∈ [Part.canPll], q ∈ rs) :
    Only rs s { t with canPll := x0 } ↔ Only rs s t :=
  Only.iff (ps := [Part.canPll]) (fun q hq => by cases q <;> first | rfl | exact fun _ _ => rfl | exact ⟨rfl, rfl, rfl⟩ | exact absurd (by decide) hq) h

theorem Only.with_brg {rs : List Part} {s t : State} (x0 : Brg)
    (h : ∀ q ∈ [Part.brg], q ∈ rs) :
    Only rs s { t with brg := x0 } ↔ Only rs s t :=
  Only.iff (ps := [Part.brg]) (fun q hq => by cases q <;> first | rfl | exact fun _ _ => rfl | exact ⟨rfl, rfl, rfl⟩ | exact absurd (by decide) hq) h

theorem Only.with_usb {rs : List Part} {s t : State} (x0 : Usb)
    (h : ∀ q ∈ [Part.usb], q ∈ rs) :
    Only rs s { t with usb := x0 } ↔ Only rs s t :=
  Only.iff (ps := [Part.usb]) (fun q hq => by cases q <;> first | rfl | exact fun _ _ => rfl | exact ⟨rfl, rfl, rfl⟩ | exact absurd (by decide) hq) h

theorem Only.with_power {rs : List Part} {s t : State} (x0 : Power)
    (h : ∀ q ∈ [Part.power], q ∈ rs) :
    Only rs s { t with power := x0 } ↔ Only rs s t :=
  Only.iff (ps := [Part.power]) (fun q hq => by cases q <;> first | rfl | exact fun _ _ => rfl | exact ⟨rfl, rfl, rfl⟩ | exact absurd (by decide) hq) h

theorem Only.with_power_dieA_dieB {rs : List Part} {s t : State} (x0 : Power) (x1 : LineDie) (x2 : LineDie)
    (h : ∀ q ∈ [Part.power, Part.dieA, Part.dieB], q ∈ rs) :
    Only rs s { t with power := x0, dieA := x1, dieB := x2 } ↔ Only rs s t :=
  Only.iff (ps := [Part.power, Part.dieA, Part.dieB]) (fun q hq => by cases q <;> first | rfl | exact fun _ _ => rfl | exact ⟨rfl, rfl, rfl⟩ | exact absurd (by decide) hq) h

theorem Only.with_dieA {rs : List Part} {s t : State} (x0 : LineDie)
    (h : ∀ q ∈ [Part.dieA], q ∈ rs) :
    Only rs s { t with dieA := x0 } ↔ Only rs s t :=
  Only.iff (ps := [Part.dieA]) (fun q hq => by cases q <;> first | rfl | exact fun _ _ => rfl | exact ⟨rfl, rfl, rfl⟩ | exact absurd (by decide) hq) h

theorem Only.with_dieA_dieB {rs : List Part} {s t : State} (x0 : LineDie) (x1 : LineDie)
    (h : ∀ q ∈ [Part.dieA, Part.dieB], q ∈ rs) :
    Only rs s { t with dieA := x0, dieB := x1 } ↔ Only rs s t :=
  Only.iff (ps := [Part.dieA, Part.dieB]) (fun q hq => by cases q <;> first | rfl | exact fun _ _ => rfl | exact ⟨rfl, rfl, rfl⟩ | exact absurd (by decide) hq) h

theorem Only.with_dieB {rs : List Part} {s t : State} (x0 : LineDie)
    (h : ∀ q ∈ [Part.dieB], q ∈ rs) :
    Only rs s { t with dieB := x0 } ↔ Only rs s t :=
  Only.iff (ps := [Part.dieB]) (fun q hq => by cases q <;> first | rfl | exact fun _ _ => rfl | exact ⟨rfl, rfl, rfl⟩ | exact absurd (by decide) hq) h

theorem Only.with_rpr {rs : List Part} {s t : State} (x0 : Repair)
    (h : ∀ q ∈ [Part.rpr], q ∈ rs) :
    Only rs s { t with rpr := x0 } ↔ Only rs s t :=
  Only.iff (ps := [Part.rpr]) (fun q hq => by cases q <;> first | rfl | exact fun _ _ => rfl | exact ⟨rfl, rfl, rfl⟩ | exact absurd (by decide) hq) h

theorem Only.with_rpr_peat {rs : List Part} {s t : State} (x0 : Repair) (x1 : Peat)
    (h : ∀ q ∈ [Part.rpr, Part.peat], q ∈ rs) :
    Only rs s { t with rpr := x0, peat := x1 } ↔ Only rs s t :=
  Only.iff (ps := [Part.rpr, Part.peat]) (fun q hq => by cases q <;> first | rfl | exact fun _ _ => rfl | exact ⟨rfl, rfl, rfl⟩ | exact absurd (by decide) hq) h

theorem Only.with_rpr_boot {rs : List Part} {s t : State} (x0 : Repair) (x1 : Boot)
    (h : ∀ q ∈ [Part.rpr, Part.boot], q ∈ rs) :
    Only rs s { t with rpr := x0, boot := x1 } ↔ Only rs s t :=
  Only.iff (ps := [Part.rpr, Part.boot]) (fun q hq => by cases q <;> first | rfl | exact fun _ _ => rfl | exact ⟨rfl, rfl, rfl⟩ | exact absurd (by decide) hq) h

theorem Only.with_peat {rs : List Part} {s t : State} (x0 : Peat)
    (h : ∀ q ∈ [Part.peat], q ∈ rs) :
    Only rs s { t with peat := x0 } ↔ Only rs s t :=
  Only.iff (ps := [Part.peat]) (fun q hq => by cases q <;> first | rfl | exact fun _ _ => rfl | exact ⟨rfl, rfl, rfl⟩ | exact absurd (by decide) hq) h

theorem Only.with_peat_boot {rs : List Part} {s t : State} (x0 : Peat) (x1 : Boot)
    (h : ∀ q ∈ [Part.peat, Part.boot], q ∈ rs) :
    Only rs s { t with peat := x0, boot := x1 } ↔ Only rs s t :=
  Only.iff (ps := [Part.peat, Part.boot]) (fun q hq => by cases q <;> first | rfl | exact fun _ _ => rfl | exact ⟨rfl, rfl, rfl⟩ | exact absurd (by decide) hq) h

theorem Only.with_boot {rs : List Part} {s t : State} (x0 : Boot)
    (h : ∀ q ∈ [Part.boot], q ∈ rs) :
    Only rs s { t with boot := x0 } ↔ Only rs s t :=
  Only.iff (ps := [Part.boot]) (fun q hq => by cases q <;> first | rfl | exact fun _ _ => rfl | exact ⟨rfl, rfl, rfl⟩ | exact absurd (by decide) hq) h

theorem Only.with_pair {rs : List Part} {s t : State} (x0 : PairLogic)
    (h : ∀ q ∈ [Part.pair], q ∈ rs) :
    Only rs s { t with pair := x0 } ↔ Only rs s t :=
  Only.iff (ps := [Part.pair]) (fun q hq => by cases q <;> first | rfl | exact fun _ _ => rfl | exact ⟨rfl, rfl, rfl⟩ | exact absurd (by decide) hq) h

theorem Only.with_image {rs : List Part} {s t : State} (x0 : List Host.Cell)
    (h : ∀ q ∈ [Part.image], q ∈ rs) :
    Only rs s { t with image := x0 } ↔ Only rs s t :=
  Only.iff (ps := [Part.image]) (fun q hq => by cases q <;> first | rfl | exact fun _ _ => rfl | exact ⟨rfl, rfl, rfl⟩ | exact absurd (by decide) hq) h

theorem Only.with_xact {rs : List Part} {s t : State} (x0 : Xact)
    (h : ∀ q ∈ [Part.xact], q ∈ rs) :
    Only rs s { t with xact := x0 } ↔ Only rs s t :=
  Only.iff (ps := [Part.xact]) (fun q hq => by cases q <;> first | rfl | exact fun _ _ => rfl | exact ⟨rfl, rfl, rfl⟩ | exact absurd (by decide) hq) h

end Sys2Proof.Machine
end

