-- ==== Sys2Proof/Laws/TouchCore.lean ====
section
/-! SUPPORT. What each operation of tables, registers, queues and records can touch: one lemma for each, in the form in which later
proofs cite it. -/

namespace Sys2Proof.Machine

theorem State.setReg_only {ps0 : List Part} {u0 : State} (s : State) (off : Nat) (v : Word)
    (hps : ∀ q ∈ ([.regs, .counts] : List Part), q ∈ ps0) :
    Only ps0 u0 (State.setReg s off v) ↔ Only ps0 u0 s := by
  refine Only.iff ?_ hps
  unfold State.setReg
  try dsimp only
  repeat' (first
    | simp (disch := decide) only [↓Only.with_regs, ↓Only.refl_iff]
    | with_reducible refine Only.ite ?_ ?_
    | exact Only.refl _ _)

theorem State.setNat_only {ps0 : List Part} {u0 : State} (s : State) (off v : Nat)
    (hps : ∀ q ∈ ([.regs, .counts] : List Part), q ∈ ps0) :
    Only ps0 u0 (State.setNat s off v) ↔ Only ps0 u0 s := by
  refine Only.iff ?_ hps
  unfold State.setNat
  try dsimp only
  repeat' (first
    | simp (disch := decide) only [↓State.setReg_only, ↓Only.refl_iff]
    | with_reducible refine Only.ite ?_ ?_
    | exact Only.refl _ _)

theorem State.setApplied_only {ps0 : List Part} {u0 : State} (s : State) (off : Nat) (v : Word)
    (hps : ∀ q ∈ ([.applied] : List Part), q ∈ ps0) :
    Only ps0 u0 (State.setApplied s off v) ↔ Only ps0 u0 s := by
  refine Only.iff ?_ hps
  unfold State.setApplied
  try dsimp only
  repeat' (first
    | simp (disch := decide) only [↓Only.with_applied, ↓Only.refl_iff]
    | with_reducible refine Only.ite ?_ ?_
    | exact Only.refl _ _)

theorem State.bumpBy_only {ps0 : List Part} {u0 : State} (s : State) (off k : Nat)
    (hps : ∀ q ∈ ([.regs, .counts] : List Part), q ∈ ps0) :
    Only ps0 u0 (State.bumpBy s off k) ↔ Only ps0 u0 s := by
  refine Only.iff ?_ hps
  unfold State.bumpBy
  try dsimp only
  repeat' (first
    | simp (disch := decide) only [↓State.setNat_only, ↓Only.refl_iff]
    | with_reducible refine Only.ite ?_ ?_
    | exact Only.refl _ _)

theorem State.bump_only {ps0 : List Part} {u0 : State} (s : State) (off : Nat)
    (hps : ∀ q ∈ ([.regs, .counts] : List Part), q ∈ ps0) :
    Only ps0 u0 (State.bump s off) ↔ Only ps0 u0 s := by
  refine Only.iff ?_ hps
  unfold State.bump
  try dsimp only
  repeat' (first
    | simp (disch := decide) only [↓State.bumpBy_only, ↓Only.refl_iff]
    | with_reducible refine Only.ite ?_ ?_
    | exact Only.refl _ _)

theorem State.emit_only {ps0 : List Part} {u0 : State} (s : State) (o : Output)
    (hps : ∀ q ∈ ([.out] : List Part), q ∈ ps0) :
    Only ps0 u0 (State.emit s o) ↔ Only ps0 u0 s := by
  refine Only.iff ?_ hps
  unfold State.emit
  try dsimp only
  repeat' (first
    | simp (disch := decide) only [↓Only.with_out, ↓Only.refl_iff]
    | with_reducible refine Only.ite ?_ ?_
    | exact Only.refl _ _)

theorem State.event_only {ps0 : List Part} {u0 : State} (s : State) (src kind : Nat) (body : EventBody)
    (hps : ∀ q ∈ ([.raised] : List Part), q ∈ ps0) : Only ps0 u0 (s.event src kind body) ↔ Only ps0 u0 s := by
  refine Only.iff ?_ hps
  intro q hq
  cases q <;> first
    | rfl | exact fun _ _ => rfl | exact ⟨rfl, rfl, rfl⟩ | exact absurd (by decide) hq
    | (show List.countP _ (s.raised ++ [Raise.event src kind body]) = _; simp [Raise.urgent])

theorem State.eventP_only {ps0 : List Part} {u0 : State} (s : State) (src kind payload : Nat)
    (hps : ∀ q ∈ ([.raised] : List Part), q ∈ ps0) :
    Only ps0 u0 (State.eventP s src kind payload) ↔ Only ps0 u0 s := by
  refine Only.iff ?_ hps
  unfold State.eventP
  try dsimp only
  repeat' (first
    | simp (disch := decide) only [↓State.event_only, ↓Only.refl_iff]
    | with_reducible refine Only.ite ?_ ?_
    | exact Only.refl _ _)

theorem State.fault_only {ps0 : List Part} {u0 : State} (s : State) (src kind level detail addr : Nat)
    (hps : ∀ q ∈ ([.raised, .urgent] : List Part), q ∈ ps0) : Only ps0 u0 (s.fault src kind level detail addr) ↔ Only ps0 u0 s :=
  Only.with_raised _ hps

theorem State.fault_low {ps0 : List Part} {u0 : State} (s : State) (src kind level detail addr : Nat) (hl : level % 8 < 3)
    (hps : ∀ q ∈ ([.raised] : List Part), q ∈ ps0) : Only ps0 u0 (s.fault src kind level detail addr) ↔ Only ps0 u0 s := by
  have : ¬ 3 ≤ level % 8 := by omega
  refine Only.iff ?_ hps
  intro q hq
  cases q <;> first
    | rfl | exact fun _ _ => rfl | exact ⟨rfl, rfl, rfl⟩ | exact absurd (by decide) hq
    | (show List.countP _ (s.raised ++ [Raise.fault src kind level detail (BitVec.ofNat 32 addr)]) = _
       simp [Raise.urgent, this])

theorem State.faultEvery_only {ps0 : List Part} {u0 : State} (s : State) (period src kind level detail addr : Nat)
    (hps : ∀ q ∈ ([.raised, .limits, .urgent] : List Part), q ∈ ps0) :
    Only ps0 u0 (s.faultEvery period src kind level detail addr) ↔ Only ps0 u0 s := by
  refine Only.iff ?_ hps
  unfold State.faultEvery
  dsimp only
  refine Only.ite (Only.refl _ _) ?_
  simp (disch := decide) only [↓Only.with_limits, ↓State.fault_only, ↓Only.refl_iff]

theorem State.faultEvery_low {ps0 : List Part} {u0 : State} (s : State) (period src kind level detail addr : Nat)
    (hl : level % 8 < 3) (hps : ∀ q ∈ ([.raised, .limits] : List Part), q ∈ ps0) :
    Only ps0 u0 (s.faultEvery period src kind level detail addr) ↔ Only ps0 u0 s := by
  refine Only.iff ?_ hps
  unfold State.faultEvery
  dsimp only
  refine Only.ite (Only.refl _ _) ((Only.with_limits _ (by decide)).2 ?_)
  exact (State.fault_low _ _ _ _ _ _ hl (by decide)).2 (Only.refl _ _)

theorem State.faultMs_only {ps0 : List Part} {u0 : State} (s : State) (src kind level detail addr : Nat)
    (hps : ∀ q ∈ ([.raised, .limits, .urgent] : List Part), q ∈ ps0) : Only ps0 u0 (s.faultMs src kind level detail addr) ↔ Only ps0 u0 s :=
  State.faultEvery_only _ _ _ _ _ _ _ hps

theorem State.faultMs_low {ps0 : List Part} {u0 : State} (s : State) (src kind level detail addr : Nat) (hl : level % 8 < 3)
    (hps : ∀ q ∈ ([.raised, .limits] : List Part), q ∈ ps0) :
    Only ps0 u0 (s.faultMs src kind level detail addr) ↔ Only ps0 u0 s :=
  State.faultEvery_low _ _ _ _ _ _ _ hl hps

theorem State.ignored_only {ps0 : List Part} {u0 : State} (s : State) (src : Src) (off reason : Nat)
    (hps : ∀ q ∈ ([.raised, .regs, .counts] : List Part), q ∈ ps0) :
    Only ps0 u0 (State.ignored s src off reason) ↔ Only ps0 u0 s := by
  refine Only.iff ?_ hps
  unfold State.ignored
  try dsimp only
  repeat' (first
    | simp (disch := decide) only [↓State.bump_only, ↓State.setNat_only, ↓State.fault_low, ↓Only.refl_iff]
    | with_reducible refine Only.ite ?_ ?_
    | exact Only.refl _ _)

theorem State.advanceTo_only {ps0 : List Part} {u0 : State} (s : State) (t : Nat)
    (hps : ∀ q ∈ ([.now] : List Part), q ∈ ps0) :
    Only ps0 u0 (State.advanceTo s t) ↔ Only ps0 u0 s := by
  refine Only.iff ?_ hps
  unfold State.advanceTo
  try dsimp only
  repeat' (first
    | simp (disch := decide) only [↓Only.with_now, ↓Only.refl_iff]
    | with_reducible refine Only.ite ?_ ?_
    | exact Only.refl _ _)

theorem State.setFunc_only {ps0 : List Part} {u0 : State} (s : State) (id : Nat) (f : Func)
    (hps : ∀ q ∈ ([.funcs] : List Part), q ∈ ps0) :
    Only ps0 u0 (State.setFunc s id f) ↔ Only ps0 u0 s := by
  refine Only.iff ?_ hps
  unfold State.setFunc
  try dsimp only
  repeat' (first
    | simp (disch := decide) only [↓Only.with_funcs, ↓Only.refl_iff]
    | with_reducible refine Only.ite ?_ ?_
    | exact Only.refl _ _)

theorem State.setDom_only {ps0 : List Part} {u0 : State} (s : State) (d : Nat) (x : Domain)
    (hps : ∀ q ∈ ([.power] : List Part), q ∈ ps0) :
    Only ps0 u0 (State.setDom s d x) ↔ Only ps0 u0 s := by
  refine Only.iff ?_ hps
  unfold State.setDom
  try dsimp only
  repeat' (first
    | simp (disch := decide) only [↓Only.with_power, ↓Only.refl_iff]
    | with_reducible refine Only.ite ?_ ?_
    | exact Only.refl _ _)

theorem State.setDie_only {ps0 : List Part} {u0 : State} (s : State) (d : Nat) (x : LineDie)
    (hps : ∀ q ∈ ([.dieA, .dieB] : List Part), q ∈ ps0) :
    Only ps0 u0 (State.setDie s d x) ↔ Only ps0 u0 s := by
  refine Only.iff ?_ hps
  unfold State.setDie
  try dsimp only
  repeat' (first
    | simp (disch := decide) only [↓Only.with_dieA_dieB, ↓Only.refl_iff]
    | with_reducible refine Only.ite ?_ ?_
    | split
    | exact Only.refl _ _)

theorem State.setAxis_only {ps0 : List Part} {u0 : State} (s : State) (a : Nat) (x : Axis)
    (hps : ∀ q ∈ ([.axes] : List Part), q ∈ ps0) :
    Only ps0 u0 (State.setAxis s a x) ↔ Only ps0 u0 s := by
  refine Only.iff ?_ hps
  unfold State.setAxis
  try dsimp only
  repeat' (first
    | simp (disch := decide) only [↓Only.with_axes, ↓Only.refl_iff]
    | with_reducible refine Only.ite ?_ ?_
    | exact Only.refl _ _)

theorem State.setRate_only {ps0 : List Part} {u0 : State} (s : State) (base rate : BitVec 48)
    (hps : ∀ q ∈ ([.time] : List Part), q ∈ ps0) :
    Only ps0 u0 (State.setRate s base rate) ↔ Only ps0 u0 s := by
  refine Only.iff ?_ hps
  unfold State.setRate
  try dsimp only
  repeat' (first
    | simp (disch := decide) only [↓Only.with_time, ↓Only.refl_iff]
    | with_reducible refine Only.ite ?_ ?_
    | exact Only.refl _ _)

theorem State.stepTime_only {ps0 : List Part} {u0 : State} (s : State) (d : Int)
    (hps : ∀ q ∈ ([.time, .axes] : List Part), q ∈ ps0) :
    Only ps0 u0 (State.stepTime s d) ↔ Only ps0 u0 s := by
  refine Only.iff ?_ hps
  unfold State.stepTime
  try dsimp only
  repeat' (first
    | simp (disch := decide) only [↓Only.with_time_axes, ↓Only.refl_iff]
    | with_reducible refine Only.ite ?_ ?_
    | exact Only.refl _ _)

theorem State.fifoNotice_only {ps0 : List Part} {u0 : State} (s : State) (old f : PortFifo) (m h src kind : Nat)
    (hps : ∀ q ∈ ([.raised] : List Part), q ∈ ps0) :
    Only ps0 u0 (State.fifoNotice s old f m h src kind).1 ↔ Only ps0 u0 s := by
  refine Only.iff ?_ hps
  unfold State.fifoNotice
  try dsimp only
  repeat' (first
    | simp (disch := decide) only [↓State.eventP_only, ↓Only.refl_iff]
    | with_reducible refine Only.ite ?_ ?_
    | split
    | exact Only.refl _ _)

theorem State.popReport_only {ps0 : List Part} {u0 : State} (s : State) (f : PortFifo) (ecc : EccResult) (src cor under addr : Nat)
    (hps : ∀ q ∈ ([.raised, .regs, .counts] : List Part), q ∈ ps0) :
    Only ps0 u0 (State.popReport s f ecc src cor under addr) ↔ Only ps0 u0 s := by
  refine Only.iff ?_ hps
  unfold State.popReport
  try dsimp only
  repeat' (first
    | simp (disch := decide) only [↓State.bump_only, ↓State.fault_low, ↓Only.refl_iff]
    | with_reducible refine Only.ite ?_ ?_
    | split
    | exact Only.refl _ _)

theorem State.setNcp_only {ps0 : List Part} {u0 : State} (s : State) (p : Pair) (n : Ncp)
    (hps : ∀ q ∈ ([.ncpA, .ncpB, .pendA, .pendB] : List Part), q ∈ ps0) :
    Only ps0 u0 (State.setNcp s p n) ↔ Only ps0 u0 s := by
  refine Only.iff ?_ hps
  unfold State.setNcp
  try dsimp only
  repeat' (first
    | simp (disch := decide) only [↓Only.with_ncpA_ncpB, ↓Only.refl_iff]
    | with_reducible refine Only.ite ?_ ?_
    | split
    | exact Only.refl _ _)

theorem State.ncpRaise_only {ps0 : List Part} {u0 : State} (s : State) (p : Pair) (n : Nat)
    (hps : ∀ q ∈ ([.counts, .pendA, .pendB] : List Part), q ∈ ps0) : Only ps0 u0 (s.ncpRaise p n) ↔ Only ps0 u0 s := by
  refine Only.iff ?_ hps
  unfold State.ncpRaise
  dsimp only
  refine Only.ite ((Only.counts _ (raiseReg_coal p)).mono (by decide)) ?_
  intro q hq
  cases p <;> cases q <;>
    first | rfl | exact fun _ _ => rfl | exact ⟨rfl, rfl, rfl⟩ | exact absurd (by decide) hq

theorem State.takeSeq_only {ps0 : List Part} {u0 : State} (s : State) (n : Nat)
    (hps : ∀ q ∈ ([.counts] : List Part), q ∈ ps0) : Only ps0 u0 (s.takeSeq n).2 ↔ Only ps0 u0 s :=
  Only.iff (Only.counts _ (raiseReg_seq n)) hps

theorem State.setQueue_only {ps0 : List Part} {u0 : State} (s : State) (q : Nat) (x : LocalQueue)
    (hps : ∀ q ∈ ([.queues] : List Part), q ∈ ps0) :
    Only ps0 u0 (State.setQueue s q x) ↔ Only ps0 u0 s := by
  refine Only.iff ?_ hps
  unfold State.setQueue
  try dsimp only
  repeat' (first
    | simp (disch := decide) only [↓Only.with_queues, ↓Only.refl_iff]
    | with_reducible refine Only.ite ?_ ?_
    | exact Only.refl _ _)

theorem State.changeQueue_only {ps0 : List Part} {u0 : State} (s : State) (q : Nat) (x : LocalQueue)
    (hps : ∀ q ∈ ([.raised, .queues] : List Part), q ∈ ps0) :
    Only ps0 u0 (State.changeQueue s q x) ↔ Only ps0 u0 s := by
  refine Only.iff ?_ hps
  unfold State.changeQueue
  try dsimp only
  repeat' (first
    | simp (disch := decide) only [↓State.setQueue_only, ↓State.eventP_only, ↓Only.refl_iff]
    | with_reducible refine Only.ite ?_ ?_
    | split
    | exact Only.refl _ _)

theorem State.storeLocalGap_only {ps0 : List Part} {u0 : State} (s : State) (q : Nat)
    (hps : ∀ q ∈ ([.raised, .queues, .counts] : List Part), q ∈ ps0) :
    Only ps0 u0 (State.storeLocalGap s q) ↔ Only ps0 u0 s := by
  refine Only.iff ?_ hps
  unfold State.storeLocalGap
  try dsimp only
  repeat' (first
    | simp (disch := decide) only [↓State.takeSeq_only, ↓State.changeQueue_only, ↓Only.refl_iff]
    | with_reducible refine Only.ite ?_ ?_
    | split
    | with_reducible refine Only.snd ?_ (by assumption)
    | with_reducible refine Only.fst ?_ (by assumption)
    | exact Only.refl _ _)

theorem State.enqueueLocal_only {ps0 : List Part} {u0 : State} (s : State) (q : Nat) (r : Record)
    (hps : ∀ q ∈ ([.raised, .limits, .queues, .counts] : List Part), q ∈ ps0) : Only ps0 u0 (s.enqueueLocal q r) ↔ Only ps0 u0 s := by
  refine Only.iff ?_ hps
  have hb (t : State) : Only [.counts] t (t.bump (qBase q + 0x18)) := Only.counts _ (raiseReg_drops q)
  unfold State.enqueueLocal
  dsimp only
  refine Only.ite ?_ (Only.ite ?_ ?_)
  · exact Only.step (hb _) (by decide) ((State.storeLocalGap_only _ _ (by decide)).2 (Only.refl _ _))
  · simp (disch := decide) only [↓State.faultMs_low, ↓State.setQueue_only]
    exact Only.step (hb _) (by decide) ((State.storeLocalGap_only _ _ (by decide)).2 (Only.refl _ _))
  · simp (disch := decide) only [↓State.changeQueue_only, ↓State.storeLocalGap_only, ↓Only.refl_iff]

theorem State.sendMsix_only {ps0 : List Part} {u0 : State} (s : State) (v : Nat)
    (hps : ∀ q ∈ ([.out, .pba] : List Part), q ∈ ps0) : Only ps0 u0 (s.sendMsix v) ↔ Only ps0 u0 s := by
  refine Only.iff ?_ hps
  unfold State.sendMsix
  dsimp only
  refine Only.ite (Only.refl _ _) (Only.ite ?_ ((State.emit_only _ _ (by decide)).2 (Only.refl _ _)))
  intro q hq
  cases q <;> first | rfl | exact fun _ _ => rfl | exact ⟨rfl, rfl, rfl⟩ | exact absurd (by decide) hq

theorem State.routeRaise_only {ps0 : List Part} {u0 : State} (s : State) (n typ kind : Nat) (body : EventBody)
    (hps : ∀ q ∈ ([.out, .raised, .limits, .queues, .counts, .pba, .pendA, .pendB] : List Part), q ∈ ps0) : Only ps0 u0 (s.routeRaise n typ kind body) ↔ Only ps0 u0 s := by
  refine Only.iff ?_ hps
  have hb (t : State) : Only [.counts] t (t.bump 0x0F3204) := Only.counts _ (by decide)
  unfold State.routeRaise
  dsimp only
  refine Only.ite ((State.sendMsix_only _ _ (by decide)).2 ?_) ?_
  all_goals
    refine Only.ite ((State.ncpRaise_only _ _ _ (by decide)).2 ?_) ?_
  all_goals
    refine Only.ite ((State.ncpRaise_only _ _ _ (by decide)).2 ?_) ?_
  all_goals
    refine Only.ite (Only.ite ?_ ?_) (Only.refl _ _)
  all_goals first
    | (simp (disch := decide) only [↓State.enqueueLocal_only, ↓State.takeSeq_only, ↓Only.refl_iff]; done)
    | exact Only.step (hb _) (by decide) ((State.takeSeq_only _ _ (by decide)).2 (Only.refl _ _))

theorem State.flushMsix_only {ps0 : List Part} {u0 : State} (s : State)
    (hps : ∀ q ∈ ([.out, .pcie, .pba] : List Part), q ∈ ps0) :
    Only ps0 u0 (State.flushMsix s) ↔ Only ps0 u0 s := by
  refine Only.iff ?_ hps
  unfold State.flushMsix
  try dsimp only
  repeat' (first
    | simp (disch := decide) only [↓State.sendMsix_only, ↓Only.with_pcie, ↓Only.refl_iff]
    | with_reducible refine Only.foldl (fun _ _ => ?_) ?_
    | with_reducible refine Only.foldl_snd (fun _ _ => ?_) ?_
    | with_reducible refine Only.ite ?_ ?_
    | split
    | exact Only.refl _ _)

theorem State.setHq_only {ps0 : List Part} {u0 : State} (s : State) (h : Nat) (x : HostQueue)
    (hps : ∀ q ∈ ([.hostq] : List Part), q ∈ ps0) :
    Only ps0 u0 (State.setHq s h x) ↔ Only ps0 u0 s := by
  refine Only.iff ?_ hps
  unfold State.setHq
  try dsimp only
  repeat' (first
    | simp (disch := decide) only [↓Only.with_hostq, ↓Only.refl_iff]
    | with_reducible refine Only.ite ?_ ?_
    | exact Only.refl _ _)

theorem State.hqPut_only {ps0 : List Part} {u0 : State} (s : State) (h : Nat) (r : Record)
    (hps : ∀ q ∈ ([.out, .hostq] : List Part), q ∈ ps0) :
    Only ps0 u0 (State.hqPut s h r) ↔ Only ps0 u0 s := by
  refine Only.iff ?_ hps
  unfold State.hqPut
  try dsimp only
  repeat' (first
    | simp (disch := decide) only [↓State.emit_only, ↓State.setHq_only, ↓Only.refl_iff]
    | with_reducible refine Only.ite ?_ ?_
    | split
    | exact Only.refl _ _)

theorem State.hqSignal_only {ps0 : List Part} {u0 : State} (s : State) (h : Nat)
    (hps : ∀ q ∈ ([.out, .regs, .hostq, .counts, .pba] : List Part), q ∈ ps0) :
    Only ps0 u0 (State.hqSignal s h) ↔ Only ps0 u0 s := by
  refine Only.iff ?_ hps
  unfold State.hqSignal
  try dsimp only
  repeat' (first
    | simp (disch := decide) only [↓State.sendMsix_only, ↓State.bump_only, ↓State.setHq_only, ↓Only.refl_iff]
    | with_reducible refine Only.ite ?_ ?_
    | exact Only.refl _ _)

theorem State.hqWriteback_only {ps0 : List Part} {u0 : State} (s : State) (h : Nat)
    (hps : ∀ q ∈ ([.out, .regs, .hostq, .counts, .pba] : List Part), q ∈ ps0) :
    Only ps0 u0 (State.hqWriteback s h) ↔ Only ps0 u0 s := by
  refine Only.iff ?_ hps
  unfold State.hqWriteback
  try dsimp only
  repeat' (first
    | simp (disch := decide) only [↓State.emit_only, ↓State.hqSignal_only, ↓Only.refl_iff]
    | with_reducible refine Only.ite ?_ ?_
    | split
    | exact Only.refl _ _)

theorem State.hqDrop_only {ps0 : List Part} {u0 : State} (s : State) (h : Nat)
    (hps : ∀ q ∈ ([.raised, .limits, .regs, .hostq, .counts] : List Part), q ∈ ps0) :
    Only ps0 u0 (State.hqDrop s h) ↔ Only ps0 u0 s := by
  refine Only.iff ?_ hps
  unfold State.hqDrop
  try dsimp only
  repeat' (first
    | simp (disch := decide) only [↓State.bump_only, ↓State.setHq_only, ↓State.fault_low, ↓Only.with_limits, ↓Only.refl_iff]
    | with_reducible refine Only.ite ?_ ?_
    | split
    | exact Only.refl _ _)

theorem State.hqGap_only {ps0 : List Part} {u0 : State} (s : State) (h : Nat)
    (hps : ∀ q ∈ ([.out, .regs, .hostq, .counts, .pba] : List Part), q ∈ ps0) :
    Only ps0 u0 (State.hqGap s h) ↔ Only ps0 u0 s := by
  refine Only.iff ?_ hps
  unfold State.hqGap
  try dsimp only
  repeat' (first
    | simp (disch := decide) only [↓State.takeSeq_only, ↓State.hqPut_only, ↓State.setHq_only, ↓State.hqWriteback_only, ↓Only.refl_iff]
    | with_reducible refine Only.ite ?_ ?_
    | split
    | with_reducible refine Only.snd ?_ (by assumption)
    | with_reducible refine Only.fst ?_ (by assumption)
    | exact Only.refl _ _)

theorem State.hqDeliver_only {ps0 : List Part} {u0 : State} (s : State) (h : Nat) (rs : List Record)
    (hps : ∀ q ∈ ([.out, .raised, .limits, .regs, .hostq, .counts, .pba] : List Part), q ∈ ps0) :
    Only ps0 u0 (State.hqDeliver s h rs) ↔ Only ps0 u0 s := by
  refine Only.iff ?_ hps
  unfold State.hqDeliver
  try dsimp only
  repeat' (first
    | simp (disch := decide) only [↓State.hqDrop_only, ↓State.hqPut_only, ↓State.hqWriteback_only, ↓Only.refl_iff]
    | with_reducible refine Only.foldl (fun _ _ => ?_) ?_
    | with_reducible refine Only.foldl_snd (fun _ _ => ?_) ?_
    | with_reducible refine Only.ite ?_ ?_
    | split
    | exact Only.refl _ _)

theorem State.hostArrive_only {ps0 : List Part} {u0 : State} (s : State) (h : Nat) (rs : List Record)
    (hps : ∀ q ∈ ([.out, .raised, .limits, .regs, .hostq, .counts, .pba] : List Part), q ∈ ps0) :
    Only ps0 u0 (State.hostArrive s h rs) ↔ Only ps0 u0 s := by
  refine Only.iff ?_ hps
  unfold State.hostArrive
  try dsimp only
  repeat' (first
    | simp (disch := decide) only [↓State.hqDeliver_only, ↓State.bumpBy_only, ↓State.faultMs_low, ↓Only.refl_iff]
    | with_reducible refine Only.ite ?_ ?_
    | split
    | exact Only.refl _ _)

end Sys2Proof.Machine
end

