-- ==== Sys2Proof/Laws/TouchUsb.lean ====
section
/-! SUPPORT. What each operation of the USB block can touch: one lemma for each, in the form in which later
proofs cite it. -/

namespace Sys2Proof.Machine

theorem State.usbSet_only {ps0 : List Part} {u0 : State} (s : State) (u : Usb)
    (hps : ∀ q ∈ ([.usb] : List Part), q ∈ ps0) :
    Only ps0 u0 (State.usbSet s u) ↔ Only ps0 u0 s := by
  refine Only.iff ?_ hps
  unfold State.usbSet
  try dsimp only
  repeat' (first
    | simp (disch := decide) only [↓Only.with_usb, ↓Only.refl_iff]
    | with_reducible refine Only.ite ?_ ?_
    | exact Only.refl _ _)

theorem State.setUsbPort_only {ps0 : List Part} {u0 : State} (s : State) (k : Nat) (p : UsbPort)
    (hps : ∀ q ∈ ([.out, .usb] : List Part), q ∈ ps0) :
    Only ps0 u0 (State.setUsbPort s k p) ↔ Only ps0 u0 s := by
  refine Only.iff ?_ hps
  unfold State.setUsbPort
  try dsimp only
  repeat' (first
    | simp (disch := decide) only [↓State.usbSet_only, ↓State.emit_only, ↓Only.refl_iff]
    | with_reducible refine Only.ite ?_ ?_
    | split
    | exact Only.refl _ _)

theorem State.usbAnswer_only {ps0 : List Part} {u0 : State} (s : State) (d : UsbDev) (ep kind : Nat) (data : List Byte)
    (hps : ∀ q ∈ ([.out] : List Part), q ∈ ps0) :
    Only ps0 u0 (State.usbAnswer s d ep kind data) ↔ Only ps0 u0 s := by
  refine Only.iff ?_ hps
  unfold State.usbAnswer
  try dsimp only
  repeat' (first
    | simp (disch := decide) only [↓State.emit_only, ↓Only.refl_iff]
    | with_reducible refine Only.ite ?_ ?_
    | exact Only.refl _ _)

theorem State.usbStall_only {ps0 : List Part} {u0 : State} (s : State) (d : UsbDev)
    (hps : ∀ q ∈ ([.out, .regs, .counts] : List Part), q ∈ ps0) :
    Only ps0 u0 (State.usbStall s d) ↔ Only ps0 u0 s := by
  refine Only.iff ?_ hps
  unfold State.usbStall
  try dsimp only
  repeat' (first
    | simp (disch := decide) only [↓State.bump_only, ↓State.usbAnswer_only, ↓Only.refl_iff]
    | with_reducible refine Only.ite ?_ ?_
    | exact Only.refl _ _)

theorem State.wakeSource_only {ps0 : List Part} {u0 : State} (s : State) (d : UsbDev) (bit : Nat)
    (hps : ∀ q ∈ ([.usb] : List Part), q ∈ ps0) :
    Only ps0 u0 (State.wakeSource s d bit) ↔ Only ps0 u0 s := by
  refine Only.iff ?_ hps
  unfold State.wakeSource
  try dsimp only
  repeat' (first
    | simp (disch := decide) only [↓State.usbSet_only, ↓Only.refl_iff]
    | with_reducible refine Only.ite ?_ ?_
    | split
    | exact Only.refl _ _)

theorem State.portChanged_only {ps0 : List Part} {u0 : State} (s : State) (k : Nat)
    (hps : ∀ q ∈ ([.usb] : List Part), q ∈ ps0) :
    Only ps0 u0 (State.portChanged s k) ↔ Only ps0 u0 s := by
  refine Only.iff ?_ hps
  unfold State.portChanged
  try dsimp only
  repeat' (first
    | simp (disch := decide) only [↓State.wakeSource_only, ↓Only.refl_iff]
    | with_reducible refine Only.ite ?_ ?_
    | split
    | exact Only.refl _ _)

theorem usbWake_only {ps0 : List Part} {u0 : State} (s : State)
    (hps : ∀ q ∈ ([.regs, .usb, .counts] : List Part), q ∈ ps0) :
    Only ps0 u0 (usbWake s) ↔ Only ps0 u0 s := by
  refine Only.iff ?_ hps
  unfold usbWake
  try dsimp only
  repeat' (first
    | simp (disch := decide) only [↓State.wakeSource_only, ↓State.bump_only, ↓Only.refl_iff]
    | with_reducible refine Only.ite ?_ ?_
    | split
    | exact Only.refl _ _)

theorem usbCmd_only {ps0 : List Part} {u0 : State} (src : Src) (v : Nat) (s : State)
    (hps : ∀ q ∈ ([.raised, .regs, .usb, .counts] : List Part), q ∈ ps0) :
    Only ps0 u0 (usbCmd src v s) ↔ Only ps0 u0 s := by
  refine Only.iff ?_ hps
  unfold usbCmd
  try dsimp only
  repeat' (first
    | simp (disch := decide) only [↓usbWake_only, ↓State.ignored_only, ↓Only.refl_iff]
    | with_reducible refine Only.ite ?_ ?_
    | split
    | exact Only.refl _ _)

theorem usbSense_only {ps0 : List Part} {u0 : State} (s : State)
    (hps : ∀ q ∈ ([.now, .usb] : List Part), q ∈ ps0) :
    Only ps0 u0 (usbSense s) ↔ Only ps0 u0 s := by
  refine Only.iff ?_ hps
  unfold usbSense
  try dsimp only
  repeat' (first
    | simp (disch := decide) only [↓State.advanceTo_only, ↓State.usbSet_only, ↓Only.refl_iff]
    | with_reducible refine Only.ite ?_ ?_
    | split
    | exact Only.refl _ _)

theorem usbDrive_only {ps0 : List Part} {u0 : State} (s : State)
    (hps : ∀ q ∈ ([.now, .usb] : List Part), q ∈ ps0) :
    Only ps0 u0 (usbDrive s) ↔ Only ps0 u0 s := by
  refine Only.iff ?_ hps
  unfold usbDrive
  try dsimp only
  repeat' (first
    | simp (disch := decide) only [↓State.advanceTo_only, ↓State.usbSet_only, ↓Only.refl_iff]
    | with_reducible refine Only.ite ?_ ?_
    | split
    | exact Only.refl _ _)

theorem usbDriveEnd_only {ps0 : List Part} {u0 : State} (s : State)
    (hps : ∀ q ∈ ([.now, .usb] : List Part), q ∈ ps0) :
    Only ps0 u0 (usbDriveEnd s) ↔ Only ps0 u0 s := by
  refine Only.iff ?_ hps
  unfold usbDriveEnd
  try dsimp only
  repeat' (first
    | simp (disch := decide) only [↓State.advanceTo_only, ↓State.usbSet_only, ↓Only.refl_iff]
    | with_reducible refine Only.ite ?_ ?_
    | split
    | exact Only.refl _ _)

theorem usbHostK_only {ps0 : List Part} {u0 : State} (s : State)
    (hps : ∀ q ∈ ([.usb] : List Part), q ∈ ps0) :
    Only ps0 u0 (usbHostK s) ↔ Only ps0 u0 s := by
  refine Only.iff ?_ hps
  unfold usbHostK
  try dsimp only
  repeat' (first
    | simp (disch := decide) only [↓State.usbSet_only, ↓Only.refl_iff]
    | with_reducible refine Only.ite ?_ ?_
    | split
    | exact Only.refl _ _)

theorem usbSuspend_only {ps0 : List Part} {u0 : State} (s : State)
    (hps : ∀ q ∈ ([.raised, .regs, .usb, .counts] : List Part), q ∈ ps0) :
    Only ps0 u0 (usbSuspend s) ↔ Only ps0 u0 s := by
  refine Only.iff ?_ hps
  unfold usbSuspend
  try dsimp only
  repeat' (first
    | simp (disch := decide) only [↓State.usbSet_only, ↓State.bump_only, ↓State.event_only, ↓Only.refl_iff]
    | with_reducible refine Only.ite ?_ ?_
    | split
    | exact Only.refl _ _)

theorem usbResume_only {ps0 : List Part} {u0 : State} (s : State)
    (hps : ∀ q ∈ ([.raised, .regs, .usb, .counts] : List Part), q ∈ ps0) :
    Only ps0 u0 (usbResume s) ↔ Only ps0 u0 s := by
  refine Only.iff ?_ hps
  unfold usbResume
  try dsimp only
  repeat' (first
    | simp (disch := decide) only [↓State.usbSet_only, ↓State.bump_only, ↓State.event_only, ↓State.eventP_only, ↓Only.refl_iff]
    | with_reducible refine Only.ite ?_ ?_
    | split
    | exact Only.refl _ _)

theorem State.usbClear_only {ps0 : List Part} {u0 : State} (s : State)
    (hps : ∀ q ∈ ([.out, .usb] : List Part), q ∈ ps0) :
    Only ps0 u0 (State.usbClear s) ↔ Only ps0 u0 s := by
  refine Only.iff ?_ hps
  unfold State.usbClear
  try dsimp only
  repeat' (first
    | simp (disch := decide) only [↓State.setUsbPort_only, ↓State.usbSet_only, ↓Only.refl_iff]
    | with_reducible refine Only.foldl (fun _ _ => ?_) ?_
    | with_reducible refine Only.foldl_snd (fun _ _ => ?_) ?_
    | with_reducible refine Only.ite ?_ ?_
    | exact Only.refl _ _)

theorem State.usbDetach_only {ps0 : List Part} {u0 : State} (s : State)
    (hps : ∀ q ∈ ([.out, .usb] : List Part), q ∈ ps0) :
    Only ps0 u0 (State.usbDetach s) ↔ Only ps0 u0 s := by
  refine Only.iff ?_ hps
  unfold State.usbDetach
  try dsimp only
  repeat' (first
    | simp (disch := decide) only [↓State.usbClear_only, ↓State.usbSet_only, ↓Only.refl_iff]
    | with_reducible refine Only.ite ?_ ?_
    | split
    | exact Only.refl _ _)

theorem usbVbus_only {ps0 : List Part} {u0 : State} (mv : BitVec 16) (s : State)
    (hps : ∀ q ∈ ([.out, .raised, .usb] : List Part), q ∈ ps0) :
    Only ps0 u0 (usbVbus mv s) ↔ Only ps0 u0 s := by
  refine Only.iff ?_ hps
  unfold usbVbus
  try dsimp only
  repeat' (first
    | simp (disch := decide) only [↓State.fault_low, ↓State.usbSet_only, ↓State.usbDetach_only, ↓Only.refl_iff]
    | with_reducible refine Only.ite ?_ ?_
    | split
    | exact Only.refl _ _)

theorem usbAttach_only {ps0 : List Part} {u0 : State} (s : State)
    (hps : ∀ q ∈ ([.now, .usb] : List Part), q ∈ ps0) :
    Only ps0 u0 (usbAttach s) ↔ Only ps0 u0 s := by
  refine Only.iff ?_ hps
  unfold usbAttach
  try dsimp only
  repeat' (first
    | simp (disch := decide) only [↓State.advanceTo_only, ↓State.usbSet_only, ↓Only.refl_iff]
    | with_reducible refine Only.ite ?_ ?_
    | split
    | exact Only.refl _ _)

theorem State.usbHubStopped_only {ps0 : List Part} {u0 : State} (s : State)
    (hps : ∀ q ∈ ([.out, .usb] : List Part), q ∈ ps0) :
    Only ps0 u0 (State.usbHubStopped s) ↔ Only ps0 u0 s := by
  refine Only.iff ?_ hps
  unfold State.usbHubStopped
  try dsimp only
  repeat' (first
    | simp (disch := decide) only [↓State.usbDetach_only, ↓State.usbClear_only, ↓Only.refl_iff]
    | with_reducible refine Only.ite ?_ ?_
    | exact Only.refl _ _)

theorem State.usbFnConnect_only {ps0 : List Part} {u0 : State} (s : State) (on : Bool)
    (hps : ∀ q ∈ ([.out, .usb] : List Part), q ∈ ps0) :
    Only ps0 u0 (State.usbFnConnect s on) ↔ Only ps0 u0 s := by
  refine Only.iff ?_ hps
  unfold State.usbFnConnect
  try dsimp only
  repeat' (first
    | simp (disch := decide) only [↓State.usbSet_only, ↓State.setUsbPort_only, ↓Only.refl_iff]
    | with_reducible refine Only.ite ?_ ?_
    | split
    | exact Only.refl _ _)

theorem usbOvercurrent_only {ps0 : List Part} {u0 : State} (k : BitVec 3) (s : State)
    (hps : ∀ q ∈ ([.out, .raised, .regs, .usb, .counts] : List Part), q ∈ ps0) :
    Only ps0 u0 (usbOvercurrent k s) ↔ Only ps0 u0 s := by
  refine Only.iff ?_ hps
  unfold usbOvercurrent
  try dsimp only
  repeat' (first
    | simp (disch := decide) only [↓State.setUsbPort_only, ↓State.bump_only, ↓State.event_only, ↓State.fault_low, ↓State.portChanged_only, ↓Only.refl_iff]
    | with_reducible refine Only.ite ?_ ?_
    | split
    | exact Only.refl _ _)

theorem State.reportConnect_only {ps0 : List Part} {u0 : State} (s : State) (k : Nat)
    (hps : ∀ q ∈ ([.out, .usb] : List Part), q ∈ ps0) :
    Only ps0 u0 (State.reportConnect s k) ↔ Only ps0 u0 s := by
  refine Only.iff ?_ hps
  unfold State.reportConnect
  try dsimp only
  repeat' (first
    | simp (disch := decide) only [↓State.setUsbPort_only, ↓State.portChanged_only, ↓Only.refl_iff]
    | with_reducible refine Only.ite ?_ ?_
    | split
    | exact Only.refl _ _)

theorem usbConnectReport_only {ps0 : List Part} {u0 : State} (k : BitVec 3) (s : State)
    (hps : ∀ q ∈ ([.out, .now, .usb] : List Part), q ∈ ps0) :
    Only ps0 u0 (usbConnectReport k s) ↔ Only ps0 u0 s := by
  refine Only.iff ?_ hps
  unfold usbConnectReport
  try dsimp only
  repeat' (first
    | simp (disch := decide) only [↓State.advanceTo_only, ↓State.reportConnect_only, ↓Only.refl_iff]
    | with_reducible refine Only.ite ?_ ?_
    | split
    | exact Only.refl _ _)

theorem usbConnectChange_only {ps0 : List Part} {u0 : State} (k : BitVec 3) (attached : Bool) (speed : BitVec 2) (s : State)
    (hps : ∀ q ∈ ([.out, .usb] : List Part), q ∈ ps0) :
    Only ps0 u0 (usbConnectChange k attached speed s) ↔ Only ps0 u0 s := by
  refine Only.iff ?_ hps
  unfold usbConnectChange
  try dsimp only
  repeat' (first
    | simp (disch := decide) only [↓State.setUsbPort_only, ↓State.reportConnect_only, ↓State.portChanged_only, ↓Only.refl_iff]
    | with_reducible refine Only.ite ?_ ?_
    | split
    | exact Only.refl _ _)

theorem usbDeviceWake_only {ps0 : List Part} {u0 : State} (k : BitVec 3) (s : State)
    (hps : ∀ q ∈ ([.out, .usb] : List Part), q ∈ ps0) :
    Only ps0 u0 (usbDeviceWake k s) ↔ Only ps0 u0 s := by
  refine Only.iff ?_ hps
  unfold usbDeviceWake
  try dsimp only
  repeat' (first
    | simp (disch := decide) only [↓State.wakeSource_only, ↓State.setUsbPort_only, ↓Only.refl_iff]
    | with_reducible refine Only.ite ?_ ?_
    | split
    | exact Only.refl _ _)

theorem usbResumeEnd_only {ps0 : List Part} {u0 : State} (k : BitVec 3) (s : State)
    (hps : ∀ q ∈ ([.out, .raised, .usb] : List Part), q ∈ ps0) :
    Only ps0 u0 (usbResumeEnd k s) ↔ Only ps0 u0 s := by
  refine Only.iff ?_ hps
  unfold usbResumeEnd
  try dsimp only
  repeat' (first
    | simp (disch := decide) only [↓State.setUsbPort_only, ↓State.event_only, ↓State.portChanged_only, ↓Only.refl_iff]
    | with_reducible refine Only.ite ?_ ?_
    | split
    | exact Only.refl _ _)

theorem State.setTt_only {ps0 : List Part} {u0 : State} (s : State) (k : Nat) (x : Translator)
    (hps : ∀ q ∈ ([.usb] : List Part), q ∈ ps0) :
    Only ps0 u0 (State.setTt s k x) ↔ Only ps0 u0 s := by
  refine Only.iff ?_ hps
  unfold State.setTt
  try dsimp only
  repeat' (first
    | simp (disch := decide) only [↓State.usbSet_only, ↓Only.refl_iff]
    | with_reducible refine Only.ite ?_ ?_
    | exact Only.refl _ _)

theorem State.setFeature_only {ps0 : List Part} {u0 : State} (s : State) (k : Nat) (f : PortFeature)
    (hps : ∀ q ∈ ([.out, .usb] : List Part), q ∈ ps0) :
    Only ps0 u0 (State.setFeature s k f) ↔ Only ps0 u0 s := by
  refine Only.iff ?_ hps
  unfold State.setFeature
  try dsimp only
  repeat' (first
    | simp (disch := decide) only [↓State.setUsbPort_only, ↓Only.refl_iff]
    | with_reducible refine Only.ite ?_ ?_
    | split
    | exact Only.refl _ _)

theorem State.clearFeature_only {ps0 : List Part} {u0 : State} (s : State) (k : Nat) (f : PortFeature)
    (hps : ∀ q ∈ ([.out, .usb] : List Part), q ∈ ps0) :
    Only ps0 u0 (State.clearFeature s k f) ↔ Only ps0 u0 s := by
  refine Only.iff ?_ hps
  unfold State.clearFeature
  try dsimp only
  repeat' (first
    | simp (disch := decide) only [↓State.setUsbPort_only, ↓Only.refl_iff]
    | with_reducible refine Only.ite ?_ ?_
    | split
    | exact Only.refl _ _)

theorem usbHubRequest_only {ps0 : List Part} {u0 : State} (req : HubRequest) (k : BitVec 3) (s : State)
    (hps : ∀ q ∈ ([.out, .regs, .usb, .counts] : List Part), q ∈ ps0) :
    Only ps0 u0 (usbHubRequest req k s) ↔ Only ps0 u0 s := by
  refine Only.iff ?_ hps
  unfold usbHubRequest
  try dsimp only
  repeat' (first
    | simp (disch := decide) only [↓State.usbStall_only, ↓State.usbAnswer_only, ↓State.setFeature_only, ↓State.clearFeature_only, ↓State.setTt_only, ↓Only.refl_iff]
    | with_reducible refine Only.getD (fun _ _ => ?_) ?_
    | with_reducible refine Only.ite ?_ ?_
    | split
    | exact Only.refl _ _)

theorem usbStartSplit_only {ps0 : List Part} {u0 : State} (k : BitVec 3) (periodic : Bool) (uframe : BitVec 14) (id : BitVec 16) (s : State)
    (hps : ∀ q ∈ ([.out, .usb] : List Part), q ∈ ps0) :
    Only ps0 u0 (usbStartSplit k periodic uframe id s) ↔ Only ps0 u0 s := by
  refine Only.iff ?_ hps
  unfold usbStartSplit
  try dsimp only
  repeat' (first
    | simp (disch := decide) only [↓State.usbAnswer_only, ↓State.setTt_only, ↓Only.refl_iff]
    | with_reducible refine Only.ite ?_ ?_
    | split
    | exact Only.refl _ _)

theorem usbCompleteSplit_only {ps0 : List Part} {u0 : State} (k : BitVec 3) (id : BitVec 16) (r : TtResult) (s : State)
    (hps : ∀ q ∈ ([.out, .raised, .regs, .usb, .counts] : List Part), q ∈ ps0) :
    Only ps0 u0 (usbCompleteSplit k id r s) ↔ Only ps0 u0 s := by
  refine Only.iff ?_ hps
  unfold usbCompleteSplit
  try dsimp only
  repeat' (first
    | simp (disch := decide) only [↓State.setTt_only, ↓State.usbAnswer_only, ↓State.bump_only, ↓State.fault_low, ↓Only.refl_iff]
    | with_reducible refine Only.ite ?_ ?_
    | split
    | exact Only.refl _ _)

theorem usbStandard_only {ps0 : List Part} {u0 : State} (d : UsbDev) (req : Byte) (value length : BitVec 16) (s : State)
    (hps : ∀ q ∈ ([.out, .regs, .usb, .counts] : List Part), q ∈ ps0) :
    Only ps0 u0 (usbStandard d req value length s) ↔ Only ps0 u0 s := by
  refine Only.iff ?_ hps
  unfold usbStandard
  try dsimp only
  repeat' (first
    | simp (disch := decide) only [↓State.usbAnswer_only, ↓State.usbSet_only, ↓State.usbStall_only, ↓Only.refl_iff]
    | with_reducible refine Only.ite ?_ ?_
    | split
    | exact Only.refl _ _)

theorem usbHalt_only {ps0 : List Part} {u0 : State} (ep : Byte) (s : State)
    (hps : ∀ q ∈ ([.out, .regs, .usb, .counts] : List Part), q ∈ ps0) :
    Only ps0 u0 (usbHalt ep s) ↔ Only ps0 u0 s := by
  refine Only.iff ?_ hps
  unfold usbHalt
  try dsimp only
  repeat' (first
    | simp (disch := decide) only [↓State.usbSet_only, ↓State.usbAnswer_only, ↓State.usbStall_only, ↓Only.refl_iff]
    | with_reducible refine Only.ite ?_ ?_
    | split
    | exact Only.refl _ _)

theorem usbHaltClear_only {ps0 : List Part} {u0 : State} (ep : Byte) (s : State)
    (hps : ∀ q ∈ ([.out, .regs, .usb, .counts] : List Part), q ∈ ps0) :
    Only ps0 u0 (usbHaltClear ep s) ↔ Only ps0 u0 s := by
  refine Only.iff ?_ hps
  unfold usbHaltClear
  try dsimp only
  repeat' (first
    | simp (disch := decide) only [↓State.usbSet_only, ↓State.usbAnswer_only, ↓State.usbStall_only, ↓Only.refl_iff]
    | with_reducible refine Only.ite ?_ ?_
    | split
    | exact Only.refl _ _)

theorem usbOutData_only {ps0 : List Part} {u0 : State} (toggle : Bool) (room : Nat) (s : State)
    (hps : ∀ q ∈ ([.out, .usb] : List Part), q ∈ ps0) :
    Only ps0 u0 (usbOutData toggle room s) ↔ Only ps0 u0 s := by
  refine Only.iff ?_ hps
  unfold usbOutData
  try dsimp only
  repeat' (first
    | simp (disch := decide) only [↓State.usbAnswer_only, ↓State.usbSet_only, ↓Only.refl_iff]
    | with_reducible refine Only.ite ?_ ?_
    | split
    | exact Only.refl _ _)

theorem usbPing_only {ps0 : List Part} {u0 : State} (room : Nat) (s : State)
    (hps : ∀ q ∈ ([.out] : List Part), q ∈ ps0) :
    Only ps0 u0 (usbPing room s) ↔ Only ps0 u0 s := by
  refine Only.iff ?_ hps
  unfold usbPing
  try dsimp only
  repeat' (first
    | simp (disch := decide) only [↓State.usbAnswer_only, ↓Only.refl_iff]
    | with_reducible refine Only.ite ?_ ?_
    | split
    | exact Only.refl _ _)

theorem usbEventIn_only {ps0 : List Part} {u0 : State} (s : State)
    (hps : ∀ q ∈ ([.out, .raised, .queues, .usb, .counts] : List Part), q ∈ ps0) :
    Only ps0 u0 (usbEventIn s) ↔ Only ps0 u0 s := by
  refine Only.iff ?_ hps
  unfold usbEventIn
  try dsimp only
  repeat' (first
    | simp (disch := decide) only [↓State.usbAnswer_only, ↓State.changeQueue_only, ↓State.storeLocalGap_only, ↓State.usbSet_only, ↓Only.refl_iff]
    | with_reducible refine Only.ite ?_ ?_
    | split
    | exact Only.refl _ _)

theorem usbBlockResponse_only {ps0 : List Part} {u0 : State} (s : State)
    (hps : ∀ q ∈ ([.out, .usb] : List Part), q ∈ ps0) :
    Only ps0 u0 (usbBlockResponse s) ↔ Only ps0 u0 s := by
  refine Only.iff ?_ hps
  unfold usbBlockResponse
  try dsimp only
  repeat' (first
    | simp (disch := decide) only [↓State.usbAnswer_only, ↓State.usbSet_only, ↓Only.refl_iff]
    | with_reducible refine Only.ite ?_ ?_
    | split
    | exact Only.refl _ _)

theorem State.usbResultIs_only {ps0 : List Part} {u0 : State} (s : State) (status detail done : Nat)
    (hps : ∀ q ∈ ([.usb] : List Part), q ∈ ps0) :
    Only ps0 u0 (State.usbResultIs s status detail done) ↔ Only ps0 u0 s := by
  refine Only.iff ?_ hps
  unfold State.usbResultIs
  try dsimp only
  repeat' (first
    | simp (disch := decide) only [↓State.usbSet_only, ↓Only.refl_iff]
    | with_reducible refine Only.ite ?_ ?_
    | exact Only.refl _ _)

theorem usbLocal_only {ps0 : List Part} {u0 : State} (write : Bool) (addr : BitVec 32) (len : Nat) (data : List Byte) (s : State)
    (hps : ∀ q ∈ ([.out, .regs, .usb, .counts] : List Part), q ∈ ps0) :
    Only ps0 u0 (usbLocal write addr len data s) ↔ Only ps0 u0 s := by
  refine Only.iff ?_ hps
  unfold usbLocal
  try dsimp only
  repeat' (first
    | simp (disch := decide) only [↓State.usbStall_only, ↓State.usbSet_only, ↓State.usbResultIs_only, ↓Only.refl_iff]
    | with_reducible refine Only.ite ?_ ?_
    | split
    | exact Only.refl _ _)

theorem usbResult_only {ps0 : List Part} {u0 : State} (s : State)
    (hps : ∀ q ∈ ([.out, .regs, .counts] : List Part), q ∈ ps0) :
    Only ps0 u0 (usbResult s) ↔ Only ps0 u0 s := by
  refine Only.iff ?_ hps
  unfold usbResult
  try dsimp only
  repeat' (first
    | simp (disch := decide) only [↓State.usbStall_only, ↓State.usbAnswer_only, ↓Only.refl_iff]
    | with_reducible refine Only.ite ?_ ?_
    | split
    | exact Only.refl _ _)

theorem usbBusReset_only {ps0 : List Part} {u0 : State} (high : Bool) (s : State)
    (hps : ∀ q ∈ ([.out, .raised, .regs, .usb, .counts] : List Part), q ∈ ps0) :
    Only ps0 u0 (usbBusReset high s) ↔ Only ps0 u0 s := by
  refine Only.iff ?_ hps
  unfold usbBusReset
  try dsimp only
  repeat' (first
    | simp (disch := decide) only [↓State.bump_only, ↓State.usbClear_only, ↓State.usbSet_only, ↓State.bumpBy_only, ↓State.eventP_only, ↓State.fault_low, ↓Only.refl_iff]
    | with_reducible refine Only.ite ?_ ?_
    | split
    | exact Only.refl _ _)

end Sys2Proof.Machine
end

