-- ==== Sys2Proof/Laws/TouchRing.lean ====
section
/-! SUPPORT. What each operation of forwarding, links and frames can touch: one lemma for each, in the form in which later
proofs cite it. -/

namespace Sys2Proof.Machine

theorem State.setLink_only {ps0 : List Part} {u0 : State} (s : State) (l : Link) (x : LinkPort)
    (hps : ∀ q ∈ ([.linkW, .linkE, .linkT] : List Part), q ∈ ps0) :
    Only ps0 u0 (State.setLink s l x) ↔ Only ps0 u0 s := by
  refine Only.iff ?_ hps
  unfold State.setLink
  try dsimp only
  repeat' (first
    | simp (disch := decide) only [↓Only.with_linkW_linkE_linkT, ↓Only.refl_iff]
    | with_reducible refine Only.ite ?_ ?_
    | split
    | exact Only.refl _ _)

theorem State.classNotice_only {ps0 : List Part} {u0 : State} (s : State) (c old : Nat)
    (hps : ∀ q ∈ ([.raised, .fwd] : List Part), q ∈ ps0) :
    Only ps0 u0 (State.classNotice s c old) ↔ Only ps0 u0 s := by
  refine Only.iff ?_ hps
  unfold State.classNotice
  try dsimp only
  repeat' (first
    | simp (disch := decide) only [↓State.eventP_only, ↓Only.with_fwd, ↓Only.refl_iff]
    | with_reducible refine Only.ite ?_ ?_
    | split
    | exact Only.refl _ _)

theorem State.storePacket_only {ps0 : List Part} {u0 : State} (s : State) (p : Packet) (qs : List Nat)
    (hps : ∀ q ∈ ([.raised, .regs, .fwd, .counts] : List Part), q ∈ ps0) :
    Only ps0 u0 (State.storePacket s p qs) ↔ Only ps0 u0 s := by
  refine Only.iff ?_ hps
  unfold State.storePacket
  try dsimp only
  repeat' (first
    | simp (disch := decide) only [↓State.bump_only, ↓State.classNotice_only, ↓Only.with_fwd, ↓Only.refl_iff]
    | with_reducible refine Only.foldl (fun _ _ => ?_) ?_
    | with_reducible refine Only.foldl_snd (fun _ _ => ?_) ?_
    | with_reducible refine Only.ite ?_ ?_
    | split
    | exact Only.refl _ _)

theorem State.releaseFrom_only {ps0 : List Part} {u0 : State} (s : State) (q id : Nat)
    (hps : ∀ q ∈ ([.raised, .fwd] : List Part), q ∈ ps0) :
    Only ps0 u0 (State.releaseFrom s q id) ↔ Only ps0 u0 s := by
  refine Only.iff ?_ hps
  unfold State.releaseFrom
  try dsimp only
  repeat' (first
    | simp (disch := decide) only [↓State.classNotice_only, ↓Only.with_fwd, ↓Only.refl_iff]
    | with_reducible refine Only.ite ?_ ?_
    | split
    | exact Only.refl _ _)

theorem State.flushQueue_only {ps0 : List Part} {u0 : State} (s : State) (q counter : Nat)
    (hps : ∀ q ∈ ([.raised, .regs, .fwd, .counts] : List Part), q ∈ ps0) :
    Only ps0 u0 (State.flushQueue s q counter) ↔ Only ps0 u0 s := by
  refine Only.iff ?_ hps
  unfold State.flushQueue
  try dsimp only
  repeat' (first
    | simp (disch := decide) only [↓State.bump_only, ↓State.releaseFrom_only, ↓Only.refl_iff]
    | with_reducible refine Only.foldl (fun _ _ => ?_) ?_
    | with_reducible refine Only.foldl_snd (fun _ _ => ?_) ?_
    | with_reducible refine Only.ite ?_ ?_
    | exact Only.refl _ _)

theorem State.portFlush_only {ps0 : List Part} {u0 : State} (s : State) (l : Link)
    (hps : ∀ q ∈ ([.raised, .regs, .fwd, .counts] : List Part), q ∈ ps0) :
    Only ps0 u0 (State.portFlush s l) ↔ Only ps0 u0 s := by
  refine Only.iff ?_ hps
  unfold State.portFlush
  try dsimp only
  repeat' (first
    | simp (disch := decide) only [↓State.flushQueue_only, ↓Only.with_fwd, ↓Only.refl_iff]
    | with_reducible refine Only.foldl (fun _ _ => ?_) ?_
    | with_reducible refine Only.foldl_snd (fun _ _ => ?_) ?_
    | with_reducible refine Only.ite ?_ ?_
    | split
    | exact Only.refl _ _)

theorem State.bufferFlush_only {ps0 : List Part} {u0 : State} (s : State)
    (hps : ∀ q ∈ ([.raised, .regs, .fwd, .counts] : List Part), q ∈ ps0) :
    Only ps0 u0 (State.bufferFlush s) ↔ Only ps0 u0 s := by
  refine Only.iff ?_ hps
  unfold State.bufferFlush
  try dsimp only
  repeat' (first
    | simp (disch := decide) only [↓State.flushQueue_only, ↓Only.refl_iff]
    | with_reducible refine Only.foldl (fun _ _ => ?_) ?_
    | with_reducible refine Only.foldl_snd (fun _ _ => ?_) ?_
    | with_reducible refine Only.ite ?_ ?_
    | exact Only.refl _ _)

theorem State.stampHdr_only {ps0 : List Part} {u0 : State} (s : State) (h : Hdr)
    (hps : ∀ q ∈ ([.fwd] : List Part), q ∈ ps0) :
    Only ps0 u0 (State.stampHdr s h).2 ↔ Only ps0 u0 s := by
  refine Only.iff ?_ hps
  unfold State.stampHdr
  try dsimp only
  repeat' (first
    | simp (disch := decide) only [↓Only.with_fwd, ↓Only.refl_iff]
    | with_reducible refine Only.ite ?_ ?_
    | split
    | exact Only.refl _ _)

theorem State.admitOrigination_only {ps0 : List Part} {u0 : State} (s : State) (o : Orig)
    (hps : ∀ q ∈ ([.raised, .regs, .fwd, .counts] : List Part), q ∈ ps0) :
    Only ps0 u0 (State.admitOrigination s o) ↔ Only ps0 u0 s := by
  refine Only.iff ?_ hps
  unfold State.admitOrigination
  try dsimp only
  repeat' (first
    | simp (disch := decide) only [↓State.stampHdr_only, ↓State.bumpBy_only, ↓State.storePacket_only, ↓Only.refl_iff]
    | with_reducible refine Only.ite ?_ ?_
    | split
    | with_reducible refine Only.snd ?_ (by assumption)
    | with_reducible refine Only.fst ?_ (by assumption)
    | exact Only.refl _ _)

theorem State.originate_only {ps0 : List Part} {u0 : State} (s : State) (h : Hdr) (payload : List Byte) (r : Route) (owner : Option Pair) (part : Option (Nat × Nat))
    (hps : ∀ q ∈ ([.raised, .regs, .fwd, .counts] : List Part), q ∈ ps0) :
    Only ps0 u0 (State.originate s h payload r owner part) ↔ Only ps0 u0 s := by
  refine Only.iff ?_ hps
  unfold State.originate
  try dsimp only
  repeat' (first
    | simp (disch := decide) only [↓State.bump_only, ↓State.fault_low, ↓Only.with_fwd, ↓Only.refl_iff]
    | with_reducible refine Only.ite ?_ ?_
    | split
    | exact Only.refl _ _)

theorem State.tokenAdmit_only {ps0 : List Part} {u0 : State} (s : State)
    (hps : ∀ q ∈ ([.raised, .regs, .fwd, .counts] : List Part), q ∈ ps0) :
    Only ps0 u0 (State.tokenAdmit s) ↔ Only ps0 u0 s := by
  refine Only.iff ?_ hps
  unfold State.tokenAdmit
  try dsimp only
  repeat' (first
    | simp (disch := decide) only [↓State.admitOrigination_only, ↓Only.with_fwd, ↓Only.refl_iff]
    | with_reducible refine Only.ite ?_ ?_
    | split
    | exact Only.refl _ _)

theorem State.originationAdmit_only {ps0 : List Part} {u0 : State} (s : State)
    (hps : ∀ q ∈ ([.raised, .regs, .fwd, .counts] : List Part), q ∈ ps0) :
    Only ps0 u0 (State.originationAdmit s) ↔ Only ps0 u0 s := by
  refine Only.iff ?_ hps
  unfold State.originationAdmit
  try dsimp only
  repeat' (first
    | simp (disch := decide) only [↓State.admitOrigination_only, ↓Only.with_fwd, ↓Only.refl_iff]
    | with_reducible refine Only.ite ?_ ?_
    | split
    | exact Only.refl _ _)

theorem State.dupCheck_only {ps0 : List Part} {u0 : State} (s : State) (h : Hdr)
    (hps : ∀ q ∈ ([.raised, .limits, .regs, .fwd, .counts] : List Part), q ∈ ps0) :
    Only ps0 u0 (State.dupCheck s h).2 ↔ Only ps0 u0 s := by
  refine Only.iff ?_ hps
  unfold State.dupCheck
  try dsimp only
  repeat' (first
    | simp (disch := decide) only [↓State.bump_only, ↓State.faultMs_low, ↓Only.with_fwd, ↓Only.refl_iff]
    | with_reducible refine Only.ite ?_ ?_
    | split
    | exact Only.refl _ _)

theorem State.armWindows_only {ps0 : List Part} {u0 : State} (s : State) (src : BitVec 12) (slot : BitVec 1) (e : BitVec 3)
    (hps : ∀ q ∈ ([.fwd] : List Part), q ∈ ps0) :
    Only ps0 u0 (State.armWindows s src slot e) ↔ Only ps0 u0 s := by
  refine Only.iff ?_ hps
  unfold State.armWindows
  try dsimp only
  repeat' (first
    | simp (disch := decide) only [↓Only.with_fwd, ↓Only.refl_iff]
    | with_reducible refine Only.foldl (fun _ _ => ?_) ?_
    | with_reducible refine Only.foldl_snd (fun _ _ => ?_) ?_
    | with_reducible refine Only.ite ?_ ?_
    | split
    | exact Only.refl _ _)

theorem State.setMem_only {ps0 : List Part} {u0 : State} (s : State) (mid : Nat) (x : RepMem)
    (hps : ∀ q ∈ ([.rpr] : List Part), q ∈ ps0) :
    Only ps0 u0 (State.setMem s mid x) ↔ Only ps0 u0 s := by
  refine Only.iff ?_ hps
  unfold State.setMem
  try dsimp only
  repeat' (first
    | simp (disch := decide) only [↓Only.with_rpr, ↓Only.refl_iff]
    | with_reducible refine Only.ite ?_ ?_
    | exact Only.refl _ _)

theorem State.recordRepair_only {ps0 : List Part} {u0 : State} (s : State) (e : Word)
    (hps : ∀ q ∈ ([.raised, .rpr] : List Part), q ∈ ps0) :
    Only ps0 u0 (State.recordRepair s e) ↔ Only ps0 u0 s := by
  refine Only.iff ?_ hps
  unfold State.recordRepair
  try dsimp only
  repeat' (first
    | simp (disch := decide) only [↓State.fault_low, ↓Only.with_rpr, ↓Only.refl_iff]
    | with_reducible refine Only.ite ?_ ?_
    | split
    | exact Only.refl _ _)

theorem State.wearSweep_only {ps0 : List Part} {u0 : State} (s : State)
    (hps : ∀ q ∈ ([.raised, .rpr] : List Part), q ∈ ps0) :
    Only ps0 u0 (State.wearSweep s) ↔ Only ps0 u0 s := by
  refine Only.iff ?_ hps
  unfold State.wearSweep
  try dsimp only
  repeat' (first
    | simp (disch := decide) only [↓State.eventP_only, ↓Only.with_rpr, ↓Only.refl_iff]
    | with_reducible refine Only.ite ?_ ?_
    | split
    | exact Only.refl _ _)

theorem State.repairSlices_only {ps0 : List Part} {u0 : State} (s : State) (l : Link)
    (hps : ∀ q ∈ ([.raised, .linkW, .linkE, .linkT, .rpr] : List Part), q ∈ ps0) :
    Only ps0 u0 (State.repairSlices s l) ↔ Only ps0 u0 s := by
  refine Only.iff ?_ hps
  unfold State.repairSlices
  try dsimp only
  repeat' (first
    | simp (disch := decide) only [↓State.setLink_only, ↓State.recordRepair_only, ↓State.wearSweep_only, ↓Only.refl_iff]
    | with_reducible refine Only.foldl (fun _ _ => ?_) ?_
    | with_reducible refine Only.foldl_snd (fun _ _ => ?_) ?_
    | with_reducible refine Only.getD (fun _ _ => ?_) ?_
    | with_reducible refine Only.ite ?_ ?_
    | split
    | exact Only.refl _ _)

theorem State.enterTraining_only {ps0 : List Part} {u0 : State} (s : State) (l : Link)
    (hps : ∀ q ∈ ([.raised, .linkW, .linkE, .linkT, .rpr] : List Part), q ∈ ps0) :
    Only ps0 u0 (State.enterTraining s l) ↔ Only ps0 u0 s := by
  refine Only.iff ?_ hps
  unfold State.enterTraining
  try dsimp only
  repeat' (first
    | simp (disch := decide) only [↓State.repairSlices_only, ↓State.setLink_only, ↓Only.refl_iff]
    | with_reducible refine Only.ite ?_ ?_
    | split
    | exact Only.refl _ _)

theorem State.forgetProbe_only {ps0 : List Part} {u0 : State} (s : State) (l : Link)
    (hps : ∀ q ∈ ([.time] : List Part), q ∈ ps0) :
    Only ps0 u0 (State.forgetProbe s l) ↔ Only ps0 u0 s := by
  refine Only.iff ?_ hps
  unfold State.forgetProbe
  try dsimp only
  repeat' (first
    | simp (disch := decide) only [↓Only.with_time, ↓Only.refl_iff]
    | with_reducible refine Only.ite ?_ ?_
    | split
    | exact Only.refl _ _)

theorem State.tryQueue_only {ps0 : List Part} {u0 : State} (s : State) (p : Packet) (q : Nat)
    (hps : ∀ q ∈ ([.raised, .limits, .regs, .counts] : List Part), q ∈ ps0) :
    Only ps0 u0 (State.tryQueue s p q).2 ↔ Only ps0 u0 s := by
  refine Only.iff ?_ hps
  unfold State.tryQueue
  try dsimp only
  repeat' (first
    | simp (disch := decide) only [↓State.bump_only, ↓State.fault_low, ↓Only.with_limits, ↓Only.refl_iff]
    | with_reducible refine Only.ite ?_ ?_
    | split
    | exact Only.refl _ _)

theorem State.place_only {ps0 : List Part} {u0 : State} (s : State) (p : Packet) (qs : List Nat)
    (hps : ∀ q ∈ ([.raised, .limits, .regs, .fwd, .counts] : List Part), q ∈ ps0) : Only ps0 u0 (s.place p qs) ↔ Only ps0 u0 s := by
  refine Only.iff ?_ hps
  unfold State.place
  dsimp only
  refine (State.storePacket_only _ _ _ (by decide)).2 ?_
  refine Only.foldl_snd (ps := [.raised, .limits, .regs, .fwd, .counts]) (r := ([], s)) (fun r q => ?_) (Only.refl _ _)
  dsimp only
  exact (State.tryQueue_only _ _ _ (by decide)).2 (Only.refl _ _)

theorem State.cutOut_only {ps0 : List Part} {u0 : State} (s : State) (l : Link) (header payload : List Byte)
    (hps : ∀ q ∈ ([.raised, .limits, .regs, .fwd, .counts] : List Part), q ∈ ps0) :
    Only ps0 u0 (State.cutOut s l header payload) ↔ Only ps0 u0 s := by
  refine Only.iff ?_ hps
  unfold State.cutOut
  try dsimp only
  repeat' (first
    | simp (disch := decide) only [↓State.storePacket_only, ↓State.place_only, ↓Only.refl_iff]
    | with_reducible refine Only.ite ?_ ?_
    | split
    | exact Only.refl _ _)

theorem State.dropOpen_only {ps0 : List Part} {u0 : State} (s : State) (l : Link)
    (hps : ∀ q ∈ ([.raised, .limits, .regs, .fwd, .counts] : List Part), q ∈ ps0) :
    Only ps0 u0 (State.dropOpen s l) ↔ Only ps0 u0 s := by
  refine Only.iff ?_ hps
  unfold State.dropOpen
  try dsimp only
  repeat' (first
    | simp (disch := decide) only [↓State.cutOut_only, ↓State.bump_only, ↓Only.with_fwd, ↓Only.refl_iff]
    | with_reducible refine Only.ite ?_ ?_
    | split
    | exact Only.refl _ _)

theorem State.linkDown_only {ps0 : List Part} {u0 : State} (s : State) (l : Link) (cause : Nat)
    (hps : ∀ q ∈ ([.raised, .limits, .regs, .time, .linkW, .linkE, .linkT, .fwd, .counts] : List Part), q ∈ ps0) :
    Only ps0 u0 (State.linkDown s l cause) ↔ Only ps0 u0 s := by
  refine Only.iff ?_ hps
  unfold State.linkDown
  try dsimp only
  repeat' (first
    | simp (disch := decide) only [↓State.setLink_only, ↓State.bump_only, ↓State.dropOpen_only, ↓State.portFlush_only, ↓State.forgetProbe_only, ↓State.fault_low, ↓Only.refl_iff]
    | with_reducible refine Only.ite ?_ ?_
    | split
    | exact Only.refl _ _)

theorem linkSignal_only {ps0 : List Part} {u0 : State} (l : Link) (s : State)
    (hps : ∀ q ∈ ([.raised, .linkW, .linkE, .linkT, .rpr] : List Part), q ∈ ps0) :
    Only ps0 u0 (linkSignal l s) ↔ Only ps0 u0 s := by
  refine Only.iff ?_ hps
  unfold linkSignal
  try dsimp only
  repeat' (first
    | simp (disch := decide) only [↓State.setLink_only, ↓State.enterTraining_only, ↓Only.refl_iff]
    | with_reducible refine Only.ite ?_ ?_
    | split
    | exact Only.refl _ _)

theorem linkClock_only {ps0 : List Part} {u0 : State} (l : Link) (s : State)
    (hps : ∀ q ∈ ([.linkW, .linkE, .linkT] : List Part), q ∈ ps0) :
    Only ps0 u0 (linkClock l s) ↔ Only ps0 u0 s := by
  refine Only.iff ?_ hps
  unfold linkClock
  try dsimp only
  repeat' (first
    | simp (disch := decide) only [↓State.setLink_only, ↓Only.refl_iff]
    | with_reducible refine Only.ite ?_ ?_
    | split
    | exact Only.refl _ _)

theorem linkEqualiser_only {ps0 : List Part} {u0 : State} (l : Link) (s : State)
    (hps : ∀ q ∈ ([.linkW, .linkE, .linkT] : List Part), q ∈ ps0) :
    Only ps0 u0 (linkEqualiser l s) ↔ Only ps0 u0 s := by
  refine Only.iff ?_ hps
  unfold linkEqualiser
  try dsimp only
  repeat' (first
    | simp (disch := decide) only [↓State.setLink_only, ↓Only.refl_iff]
    | with_reducible refine Only.ite ?_ ?_
    | split
    | exact Only.refl _ _)

theorem linkBlockLock_only {ps0 : List Part} {u0 : State} (l : Link) (s : State)
    (hps : ∀ q ∈ ([.linkW, .linkE, .linkT] : List Part), q ∈ ps0) :
    Only ps0 u0 (linkBlockLock l s) ↔ Only ps0 u0 s := by
  refine Only.iff ?_ hps
  unfold linkBlockLock
  try dsimp only
  repeat' (first
    | simp (disch := decide) only [↓State.setLink_only, ↓Only.refl_iff]
    | with_reducible refine Only.ite ?_ ?_
    | split
    | exact Only.refl _ _)

theorem State.linkUp_only {ps0 : List Part} {u0 : State} (s : State) (l : Link)
    (hps : ∀ q ∈ ([.raised, .linkW, .linkE, .linkT] : List Part), q ∈ ps0) :
    Only ps0 u0 (State.linkUp s l) ↔ Only ps0 u0 s := by
  refine Only.iff ?_ hps
  unfold State.linkUp
  try dsimp only
  repeat' (first
    | simp (disch := decide) only [↓State.setLink_only, ↓State.eventP_only, ↓Only.refl_iff]
    | with_reducible refine Only.ite ?_ ?_
    | exact Only.refl _ _)

theorem linkSupervision_only {ps0 : List Part} {u0 : State} (l : Link) (b : DWord) (s : State)
    (hps : ∀ q ∈ ([.raised, .limits, .regs, .time, .linkW, .linkE, .linkT, .fwd, .counts] : List Part), q ∈ ps0) :
    Only ps0 u0 (linkSupervision l b s) ↔ Only ps0 u0 s := by
  refine Only.iff ?_ hps
  unfold linkSupervision
  try dsimp only
  repeat' (first
    | simp (disch := decide) only [↓State.setLink_only, ↓State.bump_only, ↓State.linkDown_only, ↓State.fault_low, ↓State.linkUp_only, ↓Only.refl_iff]
    | with_reducible refine Only.ite ?_ ?_
    | split
    | exact Only.refl _ _)

theorem linkSupSend_only {ps0 : List Part} {u0 : State} (l : Link) (s : State)
    (hps : ∀ q ∈ ([.out, .now, .linkW, .linkE, .linkT] : List Part), q ∈ ps0) :
    Only ps0 u0 (linkSupSend l s) ↔ Only ps0 u0 s := by
  refine Only.iff ?_ hps
  unfold linkSupSend
  try dsimp only
  repeat' (first
    | simp (disch := decide) only [↓State.advanceTo_only, ↓State.setLink_only, ↓State.emit_only, ↓Only.refl_iff]
    | with_reducible refine Only.ite ?_ ?_
    | split
    | exact Only.refl _ _)

theorem linkBlockError_only {ps0 : List Part} {u0 : State} (l : Link) (w : BlockFault) (gap : Nat) (s : State)
    (hps : ∀ q ∈ ([.raised, .limits, .regs, .time, .linkW, .linkE, .linkT, .fwd, .counts] : List Part), q ∈ ps0) :
    Only ps0 u0 (linkBlockError l w gap s) ↔ Only ps0 u0 s := by
  refine Only.iff ?_ hps
  unfold linkBlockError
  try dsimp only
  repeat' (first
    | simp (disch := decide) only [↓State.setLink_only, ↓State.bump_only, ↓State.linkDown_only, ↓Only.refl_iff]
    | with_reducible refine Only.ite ?_ ?_
    | split
    | exact Only.refl _ _)

theorem linkRateCycle_only {ps0 : List Part} {u0 : State} (l : Link) (s : State)
    (hps : ∀ q ∈ ([.now, .linkW, .linkE, .linkT] : List Part), q ∈ ps0) :
    Only ps0 u0 (linkRateCycle l s) ↔ Only ps0 u0 s := by
  refine Only.iff ?_ hps
  unfold linkRateCycle
  try dsimp only
  repeat' (first
    | simp (disch := decide) only [↓State.advanceTo_only, ↓State.setLink_only, ↓Only.refl_iff]
    | with_reducible refine Only.ite ?_ ?_
    | split
    | exact Only.refl _ _)

theorem linkHoldEnd_only {ps0 : List Part} {u0 : State} (l : Link) (s : State)
    (hps : ∀ q ∈ ([.raised, .now, .linkW, .linkE, .linkT, .rpr] : List Part), q ∈ ps0) :
    Only ps0 u0 (linkHoldEnd l s) ↔ Only ps0 u0 s := by
  refine Only.iff ?_ hps
  unfold linkHoldEnd
  try dsimp only
  repeat' (first
    | simp (disch := decide) only [↓State.advanceTo_only, ↓State.setLink_only, ↓State.enterTraining_only, ↓Only.refl_iff]
    | with_reducible refine Only.ite ?_ ?_
    | split
    | exact Only.refl _ _)

theorem linkModuleLos_only {ps0 : List Part} {u0 : State} (l : Link) (s : State)
    (hps : ∀ q ∈ ([.raised, .limits, .regs, .time, .linkW, .linkE, .linkT, .fwd, .counts] : List Part), q ∈ ps0) :
    Only ps0 u0 (linkModuleLos l s) ↔ Only ps0 u0 s := by
  refine Only.iff ?_ hps
  unfold linkModuleLos
  try dsimp only
  repeat' (first
    | simp (disch := decide) only [↓State.setLink_only, ↓State.linkDown_only, ↓Only.refl_iff]
    | with_reducible refine Only.ite ?_ ?_
    | split
    | exact Only.refl _ _)

theorem linkSignalLost_only {ps0 : List Part} {u0 : State} (l : Link) (s : State)
    (hps : ∀ q ∈ ([.raised, .limits, .regs, .time, .linkW, .linkE, .linkT, .fwd, .counts] : List Part), q ∈ ps0) :
    Only ps0 u0 (linkSignalLost l s) ↔ Only ps0 u0 s := by
  refine Only.iff ?_ hps
  unfold linkSignalLost
  try dsimp only
  repeat' (first
    | simp (disch := decide) only [↓State.setLink_only, ↓State.linkDown_only, ↓Only.refl_iff]
    | with_reducible refine Only.ite ?_ ?_
    | exact Only.refl _ _)

theorem linkSupTimeout_only {ps0 : List Part} {u0 : State} (l : Link) (s : State)
    (hps : ∀ q ∈ ([.raised, .now, .limits, .regs, .time, .linkW, .linkE, .linkT, .fwd, .counts] : List Part), q ∈ ps0) :
    Only ps0 u0 (linkSupTimeout l s) ↔ Only ps0 u0 s := by
  refine Only.iff ?_ hps
  unfold linkSupTimeout
  try dsimp only
  repeat' (first
    | simp (disch := decide) only [↓State.advanceTo_only, ↓State.linkDown_only, ↓Only.refl_iff]
    | with_reducible refine Only.ite ?_ ?_
    | split
    | exact Only.refl _ _)

theorem linkModuleAbsent_only {ps0 : List Part} {u0 : State} (l : Link) (s : State)
    (hps : ∀ q ∈ ([.raised, .limits, .regs, .time, .linkW, .linkE, .linkT, .fwd, .counts] : List Part), q ∈ ps0) :
    Only ps0 u0 (linkModuleAbsent l s) ↔ Only ps0 u0 s := by
  refine Only.iff ?_ hps
  unfold linkModuleAbsent
  try dsimp only
  repeat' (first
    | simp (disch := decide) only [↓State.setLink_only, ↓State.linkDown_only, ↓State.fault_low, ↓Only.refl_iff]
    | with_reducible refine Only.ite ?_ ?_
    | split
    | exact Only.refl _ _)

theorem linkRetrain_only {ps0 : List Part} {u0 : State} (l : Link) (s : State)
    (hps : ∀ q ∈ ([.raised, .limits, .regs, .time, .linkW, .linkE, .linkT, .fwd, .counts] : List Part), q ∈ ps0) :
    Only ps0 u0 (linkRetrain l s) ↔ Only ps0 u0 s := by
  refine Only.iff ?_ hps
  unfold linkRetrain
  try dsimp only
  repeat' (first
    | simp (disch := decide) only [↓State.linkDown_only, ↓Only.refl_iff]
    | with_reducible refine Only.ite ?_ ?_
    | exact Only.refl _ _)

theorem linkRateup_only {ps0 : List Part} {u0 : State} (l : Link) (s : State)
    (hps : ∀ q ∈ ([.raised, .limits, .regs, .time, .linkW, .linkE, .linkT, .fwd, .counts] : List Part), q ∈ ps0) :
    Only ps0 u0 (linkRateup l s) ↔ Only ps0 u0 s := by
  refine Only.iff ?_ hps
  unfold linkRateup
  try dsimp only
  repeat' (first
    | simp (disch := decide) only [↓State.linkDown_only, ↓Only.refl_iff]
    | with_reducible refine Only.ite ?_ ?_
    | split
    | exact Only.refl _ _)

theorem linkMmctl_only {ps0 : List Part} {u0 : State} (src : Src) (l : Link) (v : Word) (s : State)
    (hps : ∀ q ∈ ([.raised, .regs, .linkW, .linkE, .linkT, .counts] : List Part), q ∈ ps0) :
    Only ps0 u0 (linkMmctl src l v s) ↔ Only ps0 u0 s := by
  refine Only.iff ?_ hps
  unfold linkMmctl
  try dsimp only
  repeat' (first
    | simp (disch := decide) only [↓State.ignored_only, ↓State.setReg_only, ↓State.setLink_only, ↓Only.refl_iff]
    | with_reducible refine Only.ite ?_ ?_
    | split
    | exact Only.refl _ _)

theorem linkMmDone_only {ps0 : List Part} {u0 : State} (l : Link) (nack removed : Bool) (d : Byte) (s : State)
    (hps : ∀ q ∈ ([.regs, .linkW, .linkE, .linkT, .counts] : List Part), q ∈ ps0) :
    Only ps0 u0 (linkMmDone l nack removed d s) ↔ Only ps0 u0 s := by
  refine Only.iff ?_ hps
  unfold linkMmDone
  try dsimp only
  repeat' (first
    | simp (disch := decide) only [↓State.setLink_only, ↓State.setNat_only, ↓Only.refl_iff]
    | with_reducible refine Only.ite ?_ ?_
    | split
    | exact Only.refl _ _)

theorem linkMmTimeout_only {ps0 : List Part} {u0 : State} (l : Link) (s : State)
    (hps : ∀ q ∈ ([.now, .linkW, .linkE, .linkT] : List Part), q ∈ ps0) :
    Only ps0 u0 (linkMmTimeout l s) ↔ Only ps0 u0 s := by
  refine Only.iff ?_ hps
  unfold linkMmTimeout
  try dsimp only
  repeat' (first
    | simp (disch := decide) only [↓State.advanceTo_only, ↓State.setLink_only, ↓Only.refl_iff]
    | with_reducible refine Only.ite ?_ ?_
    | split
    | exact Only.refl _ _)

theorem linkSliceRound_only {ps0 : List Part} {u0 : State} (l : Link) (i : BitVec 5) (n : Nat) (s : State)
    (hps : ∀ q ∈ ([.raised, .limits, .regs, .time, .linkW, .linkE, .linkT, .fwd, .counts] : List Part), q ∈ ps0) :
    Only ps0 u0 (linkSliceRound l i n s) ↔ Only ps0 u0 s := by
  refine Only.iff ?_ hps
  unfold linkSliceRound
  try dsimp only
  repeat' (first
    | simp (disch := decide) only [↓State.setLink_only, ↓State.eventP_only, ↓State.fault_low, ↓State.linkDown_only, ↓Only.refl_iff]
    | with_reducible refine Only.ite ?_ ?_
    | split
    | exact Only.refl _ _)

theorem linkQuality_only {ps0 : List Part} {u0 : State} (l : Link) (eh ev : Byte) (s : State)
    (hps : ∀ q ∈ ([.raised, .linkW, .linkE, .linkT] : List Part), q ∈ ps0) :
    Only ps0 u0 (linkQuality l eh ev s) ↔ Only ps0 u0 s := by
  refine Only.iff ?_ hps
  unfold linkQuality
  try dsimp only
  repeat' (first
    | simp (disch := decide) only [↓State.setLink_only, ↓State.fault_low, ↓State.eventP_only, ↓Only.refl_iff]
    | with_reducible refine Only.ite ?_ ?_
    | split
    | exact Only.refl _ _)

theorem State.portRunning_only {ps0 : List Part} {u0 : State} (s : State) (l : Link)
    (hps : ∀ q ∈ ([.linkW, .linkE, .linkT] : List Part), q ∈ ps0) :
    Only ps0 u0 (State.portRunning s l) ↔ Only ps0 u0 s := by
  refine Only.iff ?_ hps
  unfold State.portRunning
  try dsimp only
  repeat' (first
    | simp (disch := decide) only [↓State.setLink_only, ↓Only.refl_iff]
    | with_reducible refine Only.ite ?_ ?_
    | split
    | exact Only.refl _ _)

theorem State.portStopping_only {ps0 : List Part} {u0 : State} (s : State) (l : Link)
    (hps : ∀ q ∈ ([.raised, .limits, .regs, .time, .linkW, .linkE, .linkT, .fwd, .counts] : List Part), q ∈ ps0) :
    Only ps0 u0 (State.portStopping s l) ↔ Only ps0 u0 s := by
  refine Only.iff ?_ hps
  unfold State.portStopping
  try dsimp only
  repeat' (first
    | simp (disch := decide) only [↓State.linkDown_only, ↓State.setLink_only, ↓Only.refl_iff]
    | with_reducible refine Only.ite ?_ ?_
    | exact Only.refl _ _)

theorem State.portStopped_only {ps0 : List Part} {u0 : State} (s : State) (l : Link)
    (hps : ∀ q ∈ ([.linkW, .linkE, .linkT] : List Part), q ∈ ps0) :
    Only ps0 u0 (State.portStopped s l) ↔ Only ps0 u0 s := by
  refine Only.iff ?_ hps
  unfold State.portStopped
  try dsimp only
  repeat' (first
    | simp (disch := decide) only [↓State.setLink_only, ↓Only.refl_iff]
    | with_reducible refine Only.ite ?_ ?_
    | exact Only.refl _ _)

theorem State.portHalted_only {ps0 : List Part} {u0 : State} (s : State) (l : Link)
    (hps : ∀ q ∈ ([.raised, .limits, .regs, .time, .linkW, .linkE, .linkT, .fwd, .counts] : List Part), q ∈ ps0) :
    Only ps0 u0 (State.portHalted s l) ↔ Only ps0 u0 s := by
  refine Only.iff ?_ hps
  unfold State.portHalted
  try dsimp only
  repeat' (first
    | simp (disch := decide) only [↓State.linkDown_only, ↓State.portStopped_only, ↓Only.refl_iff]
    | with_reducible refine Only.ite ?_ ?_
    | exact Only.refl _ _)

theorem State.hand_only {ps0 : List Part} {u0 : State} (s : State) (d : Delivered)
    (hps : ∀ q ∈ ([.regs, .fwd, .counts] : List Part), q ∈ ps0) :
    Only ps0 u0 (State.hand s d) ↔ Only ps0 u0 s := by
  refine Only.iff ?_ hps
  unfold State.hand
  try dsimp only
  repeat' (first
    | simp (disch := decide) only [↓State.bump_only, ↓Only.with_fwd, ↓Only.refl_iff]
    | with_reducible refine Only.ite ?_ ?_
    | split
    | exact Only.refl _ _)

theorem State.takeInbox_some {s t : State} {k : Sink} {d : Delivered} (h : s.takeInbox k = some (d, t)) :
    Only [.fwd] s t := by
  unfold State.takeInbox at h
  split at h
  · cases h
  · cases h
    exact (Only.with_fwd _ (by decide)).2 (Only.refl _ _)

theorem State.takeTurn_some {s t : State} {k : Sink} {l : List Sink} {d : Delivered} (h : s.takeTurn k l = some (d, t)) :
    Only [.fwd] s t := by
  unfold State.takeTurn at h
  split at h
  · cases h
  · split at h
    · rename_i h0 _
      cases h
      exact State.takeInbox_some h0
    · cases h

theorem State.resetStreams_only {ps0 : List Part} {u0 : State} (s : State) (src : BitVec 12) (slot : BitVec 1)
    (hps : ∀ q ∈ ([.regs, .fwd, .counts] : List Part), q ∈ ps0) :
    Only ps0 u0 (State.resetStreams s src slot) ↔ Only ps0 u0 s := by
  refine Only.iff ?_ hps
  unfold State.resetStreams
  try dsimp only
  repeat' (first
    | simp (disch := decide) only [↓State.hand_only, ↓Only.with_fwd, ↓Only.refl_iff]
    | with_reducible refine Only.foldl (fun _ _ => ?_) ?_
    | with_reducible refine Only.foldl_snd (fun _ _ => ?_) ?_
    | with_reducible refine Only.ite ?_ ?_
    | exact Only.refl _ _)

theorem State.announced_only {ps0 : List Part} {u0 : State} (s : State) (h : Hdr) (payload : List Byte)
    (hps : ∀ q ∈ ([.regs, .fwd, .counts] : List Part), q ∈ ps0) :
    Only ps0 u0 (State.announced s h payload) ↔ Only ps0 u0 s := by
  refine Only.iff ?_ hps
  unfold State.announced
  try dsimp only
  repeat' (first
    | simp (disch := decide) only [↓State.armWindows_only, ↓State.resetStreams_only, ↓Only.refl_iff]
    | with_reducible refine Only.ite ?_ ?_
    | split
    | exact Only.refl _ _)

theorem State.deliverHere_only {ps0 : List Part} {u0 : State} (s : State) (p : Packet)
    (hps : ∀ q ∈ ([.regs, .fwd, .counts] : List Part), q ∈ ps0) :
    Only ps0 u0 (State.deliverHere s p) ↔ Only ps0 u0 s := by
  refine Only.iff ?_ hps
  unfold State.deliverHere
  try dsimp only
  repeat' (first
    | simp (disch := decide) only [↓State.bump_only, ↓State.announced_only, ↓State.hand_only, ↓Only.refl_iff]
    | with_reducible refine Only.getD (fun _ _ => ?_) ?_
    | with_reducible refine Only.ite ?_ ?_
    | split
    | exact Only.refl _ _)

theorem State.outQueue_only {ps0 : List Part} {u0 : State} (s : State) (l : Link) (c : Nat)
    (hps : ∀ q ∈ ([.regs, .counts] : List Part), q ∈ ps0) :
    Only ps0 u0 (State.outQueue s l c).2 ↔ Only ps0 u0 s := by
  refine Only.iff ?_ hps
  unfold State.outQueue
  try dsimp only
  repeat' (first
    | simp (disch := decide) only [↓State.bump_only, ↓Only.refl_iff]
    | with_reducible refine Only.ite ?_ ?_
    | split
    | exact Only.refl _ _)

theorem State.mirrorLost_only {ps0 : List Part} {u0 : State} (s : State) (port : Link)
    (hps : ∀ q ∈ ([.raised, .limits, .regs, .fwd, .counts] : List Part), q ∈ ps0) :
    Only ps0 u0 (State.mirrorLost s port) ↔ Only ps0 u0 s := by
  refine Only.iff ?_ hps
  unfold State.mirrorLost
  try dsimp only
  repeat' (first
    | simp (disch := decide) only [↓State.bump_only, ↓State.faultMs_low, ↓Only.with_fwd, ↓Only.refl_iff]
    | with_reducible refine Only.ite ?_ ?_
    | exact Only.refl _ _)

theorem State.mirror_only {ps0 : List Part} {u0 : State} (s : State) (port : Link) (h : Hdr) (payload : List Byte) (trailer : BitVec 32) (bad : Bool)
    (hps : ∀ q ∈ ([.raised, .limits, .regs, .fwd, .counts] : List Part), q ∈ ps0) :
    Only ps0 u0 (State.mirror s port h payload trailer bad) ↔ Only ps0 u0 s := by
  refine Only.iff ?_ hps
  unfold State.mirror
  try dsimp only
  repeat' (first
    | simp (disch := decide) only [↓State.classNotice_only, ↓State.mirrorLost_only, ↓Only.with_fwd, ↓Only.refl_iff]
    | with_reducible refine Only.ite ?_ ?_
    | split
    | exact Only.refl _ _)

theorem State.writeMirror_only {ps0 : List Part} {u0 : State} (s : State) (p : Packet)
    (hps : ∀ q ∈ ([.raised, .limits, .regs, .fwd, .shared, .counts] : List Part), q ∈ ps0) :
    Only ps0 u0 (State.writeMirror s p) ↔ Only ps0 u0 s := by
  refine Only.iff ?_ hps
  unfold State.writeMirror
  try dsimp only
  repeat' (first
    | simp (disch := decide) only [↓State.mirrorLost_only, ↓State.setNat_only, ↓State.event_only, ↓Only.with_fwd_shared, ↓Only.refl_iff]
    | with_reducible refine Only.getD (fun _ _ => ?_) ?_
    | with_reducible refine Only.ite ?_ ?_
    | split
    | exact Only.refl _ _)

theorem State.setOpen_only {ps0 : List Part} {u0 : State} (s : State) (l : Link) (o : Option OpenIn)
    (hps : ∀ q ∈ ([.fwd] : List Part), q ∈ ps0) :
    Only ps0 u0 (State.setOpen s l o) ↔ Only ps0 u0 s := by
  refine Only.iff ?_ hps
  unfold State.setOpen
  try dsimp only
  repeat' (first
    | simp (disch := decide) only [↓Only.with_fwd, ↓Only.refl_iff]
    | with_reducible refine Only.ite ?_ ?_
    | split
    | exact Only.refl _ _)

theorem State.reassemble_only {ps0 : List Part} {u0 : State} (s : State) (l : Link) (f : Frame) (fin : FrameEnd)
    (hps : ∀ q ∈ ([.raised, .limits, .regs, .fwd, .counts] : List Part), q ∈ ps0) :
    Only ps0 u0 (State.reassemble s l f fin).2 ↔ Only ps0 u0 s := by
  refine Only.iff ?_ hps
  unfold State.reassemble
  try dsimp only
  repeat' (first
    | simp (disch := decide) only [↓State.cutOut_only, ↓State.setOpen_only, ↓State.bump_only, ↓Only.refl_iff]
    | with_reducible refine Only.ite ?_ ?_
    | split
    | exact Only.refl _ _)

theorem State.respond_only {ps0 : List Part} {u0 : State} (s : State) (h : Hdr) (rerr rse : Bool) (payload : List Byte) (port : Link)
    (hps : ∀ q ∈ ([.raised, .regs, .fwd, .counts] : List Part), q ∈ ps0) :
    Only ps0 u0 (State.respond s h rerr rse payload port) ↔ Only ps0 u0 s := by
  refine Only.iff ?_ hps
  unfold State.respond
  try dsimp only
  repeat' (first
    | simp (disch := decide) only [↓State.originate_only, ↓Only.refl_iff]
    | with_reducible refine Only.ite ?_ ?_
    | split
    | exact Only.refl _ _)

theorem State.splitTwin_only {ps0 : List Part} {u0 : State} (s : State) (p : Packet)
    (hps : ∀ q ∈ ([.raised, .limits, .regs, .fwd, .counts] : List Part), q ∈ ps0) :
    Only ps0 u0 (State.splitTwin s p) ↔ Only ps0 u0 s := by
  refine Only.iff ?_ hps
  unfold State.splitTwin
  try dsimp only
  repeat' (first
    | simp (disch := decide) only [↓State.place_only, ↓State.bump_only, ↓State.respond_only, ↓Only.refl_iff]
    | with_reducible refine Only.ite ?_ ?_
    | split
    | exact Only.refl _ _)

theorem State.passStages_only {ps0 : List Part} {u0 : State} (s : State) (d : Delivered)
    (hps : ∀ q ∈ ([.regs, .fwd, .counts] : List Part), q ∈ ps0) :
    Only ps0 u0 (State.passStages s d) ↔ Only ps0 u0 s := by
  refine Only.iff ?_ hps
  unfold State.passStages
  try dsimp only
  repeat' (first
    | simp (disch := decide) only [↓State.hand_only, ↓Only.with_fwd, ↓Only.refl_iff]
    | with_reducible refine Only.foldl (fun _ _ => ?_) ?_
    | with_reducible refine Only.foldl_snd (fun _ _ => ?_) ?_
    | with_reducible refine Only.ite ?_ ?_
    | split
    | exact Only.refl _ _)

theorem State.inOrder_only {ps0 : List Part} {u0 : State} (s : State) (p : Packet) (newLife : Bool)
    (hps : ∀ q ∈ ([.raised, .limits, .regs, .fwd, .counts] : List Part), q ∈ ps0) :
    Only ps0 u0 (State.inOrder s p newLife) ↔ Only ps0 u0 s := by
  refine Only.iff ?_ hps
  unfold State.inOrder
  try dsimp only
  repeat' (first
    | simp (disch := decide) only [↓State.passStages_only, ↓State.bump_only, ↓State.hand_only, ↓State.splitTwin_only, ↓Only.with_fwd, ↓Only.refl_iff]
    | with_reducible refine Only.foldl (fun _ _ => ?_) ?_
    | with_reducible refine Only.foldl_snd (fun _ _ => ?_) ?_
    | with_reducible refine Only.getD (fun _ _ => ?_) ?_
    | with_reducible refine Only.ite ?_ ?_
    | split
    | exact Only.refl _ _)

theorem State.fromTwin_only {ps0 : List Part} {u0 : State} (s : State) (p : Packet) (h : Hdr)
    (hps : ∀ q ∈ ([.raised, .limits, .regs, .fwd, .counts] : List Part), q ∈ ps0) :
    Only ps0 u0 (State.fromTwin s p h) ↔ Only ps0 u0 s := by
  refine Only.iff ?_ hps
  unfold State.fromTwin
  try dsimp only
  repeat' (first
    | simp (disch := decide) only [↓State.place_only, ↓State.passStages_only, ↓Only.refl_iff]
    | with_reducible refine Only.ite ?_ ?_
    | split
    | exact Only.refl _ _)

theorem State.transit_only {ps0 : List Part} {u0 : State} (s : State) (l : Link) (base : Packet) (bad stomp local_ : Bool)
    (hps : ∀ q ∈ ([.raised, .limits, .regs, .fwd, .counts] : List Part), q ∈ ps0) :
    Only ps0 u0 (State.transit s l base bad stomp local_) ↔ Only ps0 u0 s := by
  refine Only.iff ?_ hps
  unfold State.transit
  try dsimp only
  repeat' (first
    | simp (disch := decide) only [↓State.place_only, ↓State.outQueue_only, ↓Only.refl_iff]
    | with_reducible refine Only.ite ?_ ?_
    | split
    | with_reducible refine Only.snd ?_ (by assumption)
    | with_reducible refine Only.fst ?_ (by assumption)
    | exact Only.refl _ _)

theorem State.groupFrame_only {ps0 : List Part} {u0 : State} (s : State) (l : Link) (h : Hdr) (base : Packet) (own bad stomp : Bool)
    (hps : ∀ q ∈ ([.raised, .limits, .regs, .fwd, .counts] : List Part), q ∈ ps0) :
    Only ps0 u0 (State.groupFrame s l h base own bad stomp) ↔ Only ps0 u0 s := by
  refine Only.iff ?_ hps
  unfold State.groupFrame
  try dsimp only
  repeat' (first
    | simp (disch := decide) only [↓State.dupCheck_only, ↓State.place_only, ↓State.bump_only, ↓State.transit_only, ↓Only.refl_iff]
    | with_reducible refine Only.ite ?_ ?_
    | split
    | with_reducible refine Only.snd ?_ (by assumption)
    | with_reducible refine Only.fst ?_ (by assumption)
    | exact Only.refl _ _)

theorem State.ownFrame_only {ps0 : List Part} {u0 : State} (s : State) (h : Hdr) (base : Packet)
    (hps : ∀ q ∈ ([.raised, .limits, .regs, .fwd, .counts] : List Part), q ∈ ps0) :
    Only ps0 u0 (State.ownFrame s h base) ↔ Only ps0 u0 s := by
  refine Only.iff ?_ hps
  unfold State.ownFrame
  try dsimp only
  repeat' (first
    | simp (disch := decide) only [↓State.dupCheck_only, ↓State.inOrder_only, ↓Only.refl_iff]
    | with_reducible refine Only.ite ?_ ?_
    | split
    | with_reducible refine Only.snd ?_ (by assumption)
    | with_reducible refine Only.fst ?_ (by assumption)
    | exact Only.refl _ _)

theorem State.route_only {ps0 : List Part} {u0 : State} (s : State) (l : Link) (h : Hdr) (payload : List Byte) (bad stomp : Bool)
    (hps : ∀ q ∈ ([.raised, .limits, .regs, .fwd, .counts] : List Part), q ∈ ps0) :
    Only ps0 u0 (State.route s l h payload bad stomp) ↔ Only ps0 u0 s := by
  refine Only.iff ?_ hps
  unfold State.route
  try dsimp only
  repeat' (first
    | simp (disch := decide) only [↓State.bump_only, ↓State.transit_only, ↓State.fault_low, ↓State.place_only, ↓State.groupFrame_only, ↓State.fromTwin_only, ↓State.ownFrame_only, ↓Only.refl_iff]
    | with_reducible refine Only.ite ?_ ?_
    | split
    | exact Only.refl _ _)

theorem State.repeatFrame_only {ps0 : List Part} {u0 : State} (s : State) (l : Link) (h : Hdr) (payload : List Byte) (bad stomp : Bool)
    (hps : ∀ q ∈ ([.raised, .regs, .fwd, .counts] : List Part), q ∈ ps0) :
    Only ps0 u0 (State.repeatFrame s l h payload bad stomp) ↔ Only ps0 u0 s := by
  refine Only.iff ?_ hps
  unfold State.repeatFrame
  try dsimp only
  repeat' (first
    | simp (disch := decide) only [↓State.deliverHere_only, ↓State.storePacket_only, ↓State.bump_only, ↓State.fault_low, ↓Only.refl_iff]
    | with_reducible refine Only.ite ?_ ?_
    | split
    | exact Only.refl _ _)

theorem fwdReceive_only {ps0 : List Part} {u0 : State} (l : Link) (f : Frame) (fin : FrameEnd) (s : State)
    (hps : ∀ q ∈ ([.raised, .limits, .regs, .fwd, .counts] : List Part), q ∈ ps0) :
    Only ps0 u0 (fwdReceive l f fin s) ↔ Only ps0 u0 s := by
  refine Only.iff ?_ hps
  unfold fwdReceive
  try dsimp only
  repeat' (first
    | simp (disch := decide) only [↓State.bump_only, ↓State.reassemble_only, ↓State.mirror_only, ↓State.repeatFrame_only, ↓State.route_only, ↓Only.refl_iff]
    | with_reducible refine Only.ite ?_ ?_
    | split
    | with_reducible refine Only.snd ?_ (by assumption)
    | with_reducible refine Only.fst ?_ (by assumption)
    | exact Only.refl _ _)

theorem fwdOrderExpiry_only {ps0 : List Part} {u0 : State} (src : BitVec 12) (slot : BitVec 1) (cls : BitVec 3) (s : State)
    (hps : ∀ q ∈ ([.raised, .now, .limits, .regs, .fwd, .counts] : List Part), q ∈ ps0) :
    Only ps0 u0 (fwdOrderExpiry src slot cls s) ↔ Only ps0 u0 s := by
  refine Only.iff ?_ hps
  unfold fwdOrderExpiry
  try dsimp only
  repeat' (first
    | simp (disch := decide) only [↓State.advanceTo_only, ↓State.bump_only, ↓State.fault_low, ↓State.splitTwin_only, ↓Only.with_fwd, ↓Only.refl_iff]
    | with_reducible refine Only.foldl (fun _ _ => ?_) ?_
    | with_reducible refine Only.foldl_snd (fun _ _ => ?_) ?_
    | with_reducible refine Only.ite ?_ ?_
    | split
    | exact Only.refl _ _)

theorem State.lineReport_only {ps0 : List Part} {u0 : State} (s : State) (a1 : LineResult)
    (hps : ∀ q ∈ ([.raised, .regs, .counts] : List Part), q ∈ ps0) :
    Only ps0 u0 (State.lineReport s a1) ↔ Only ps0 u0 s := by
  refine Only.iff ?_ hps
  unfold State.lineReport
  try dsimp only
  repeat' (first
    | simp (disch := decide) only [↓State.bump_only, ↓State.setNat_only, ↓State.fault_low, ↓Only.refl_iff]
    | with_reducible refine Only.ite ?_ ?_
    | split
    | exact Only.refl _ _)

theorem State.dropPacket_only {ps0 : List Part} {u0 : State} (s : State) (q id : Nat)
    (hps : ∀ q ∈ ([.raised, .fwd] : List Part), q ∈ ps0) :
    Only ps0 u0 (State.dropPacket s q id) ↔ Only ps0 u0 s := by
  refine Only.iff ?_ hps
  unfold State.dropPacket
  try dsimp only
  repeat' (first
    | simp (disch := decide) only [↓State.releaseFrom_only, ↓Only.with_fwd, ↓Only.refl_iff]
    | with_reducible refine Only.ite ?_ ?_
    | split
    | exact Only.refl _ _)

theorem fwdDeliver_only {ps0 : List Part} {u0 : State} (lines : LineResult) (s : State)
    (hps : ∀ q ∈ ([.raised, .limits, .regs, .fwd, .shared, .counts] : List Part), q ∈ ps0) :
    Only ps0 u0 (fwdDeliver lines s) ↔ Only ps0 u0 s := by
  refine Only.iff ?_ hps
  unfold fwdDeliver
  try dsimp only
  repeat' (first
    | simp (disch := decide) only [↓State.lineReport_only, ↓State.dropPacket_only, ↓State.releaseFrom_only, ↓State.writeMirror_only, ↓State.deliverHere_only, ↓Only.refl_iff]
    | with_reducible refine Only.ite ?_ ?_
    | split
    | exact Only.refl _ _)

theorem State.setSched_only {ps0 : List Part} {u0 : State} (s : State) (l : Link) (x : OutSched)
    (hps : ∀ q ∈ ([.fwd] : List Part), q ∈ ps0) :
    Only ps0 u0 (State.setSched s l x) ↔ Only ps0 u0 s := by
  refine Only.iff ?_ hps
  unfold State.setSched
  try dsimp only
  repeat' (first
    | simp (disch := decide) only [↓Only.with_fwd, ↓Only.refl_iff]
    | with_reducible refine Only.ite ?_ ?_
    | split
    | exact Only.refl _ _)

theorem State.sendFrom_only {ps0 : List Part} {u0 : State} (s : State) (l : Link) (p : Packet) (sent : Nat) (frag : BitVec 5) (cut : Option Nat) (bad : Bool)
    (hps : ∀ q ∈ ([.out, .regs, .fwd, .counts] : List Part), q ∈ ps0) :
    Only ps0 u0 (State.sendFrom s l p sent frag cut bad) ↔ Only ps0 u0 s := by
  refine Only.iff ?_ hps
  unfold State.sendFrom
  try dsimp only
  repeat' (first
    | simp (disch := decide) only [↓State.bump_only, ↓State.emit_only, ↓State.setSched_only, ↓Only.refl_iff]
    | with_reducible refine Only.ite ?_ ?_
    | split
    | exact Only.refl _ _)

theorem State.probeFrame_only {ps0 : List Part} {u0 : State} (s : State) (body : List Byte)
    (hps : ∀ q ∈ ([.raised, .regs, .fwd, .counts] : List Part), q ∈ ps0) :
    Only ps0 u0 (State.probeFrame s body) ↔ Only ps0 u0 s := by
  refine Only.iff ?_ hps
  unfold State.probeFrame
  try dsimp only
  repeat' (first
    | simp (disch := decide) only [↓State.originate_only, ↓Only.refl_iff]
    | with_reducible refine Only.ite ?_ ?_
    | exact Only.refl _ _)

theorem State.stampDeparture_only {ps0 : List Part} {u0 : State} (s : State) (l : Link) (p : Packet)
    (hps : ∀ q ∈ ([.raised, .regs, .time, .fwd, .counts] : List Part), q ∈ ps0) :
    Only ps0 u0 (State.stampDeparture s l p) ↔ Only ps0 u0 s := by
  refine Only.iff ?_ hps
  unfold State.stampDeparture
  try dsimp only
  repeat' (first
    | simp (disch := decide) only [↓State.probeFrame_only, ↓Only.with_time, ↓Only.refl_iff]
    | with_reducible refine Only.ite ?_ ?_
    | split
    | exact Only.refl _ _)

theorem fwdSend_only {ps0 : List Part} {u0 : State} (ldly : State → Link → Int) (l : Link) (cut : Option Nat) (lines : LineResult) (s : State)
    (hps : ∀ q ∈ ([.out, .raised, .regs, .time, .fwd, .counts] : List Part), q ∈ ps0) :
    Only ps0 u0 (fwdSend ldly l cut lines s) ↔ Only ps0 u0 s := by
  refine Only.iff ?_ hps
  unfold fwdSend
  try dsimp only
  repeat' (first
    | simp (disch := decide) only [↓State.lineReport_only, ↓State.stampDeparture_only, ↓State.sendFrom_only, ↓State.dropPacket_only, ↓State.releaseFrom_only, ↓State.setSched_only, ↓Only.refl_iff]
    | with_reducible refine Only.ite ?_ ?_
    | split
    | exact Only.refl _ _)

theorem fwdAnnounce_only {ps0 : List Part} {u0 : State} (s : State)
    (hps : ∀ q ∈ ([.now, .fwd] : List Part), q ∈ ps0) :
    Only ps0 u0 (fwdAnnounce s) ↔ Only ps0 u0 s := by
  refine Only.iff ?_ hps
  unfold fwdAnnounce
  try dsimp only
  repeat' (first
    | simp (disch := decide) only [↓State.advanceTo_only, ↓Only.with_fwd, ↓Only.refl_iff]
    | with_reducible refine Only.ite ?_ ?_
    | split
    | exact Only.refl _ _)

theorem State.fwdFresh_only {ps0 : List Part} {u0 : State} (s : State)
    (hps : ∀ q ∈ ([.fwd] : List Part), q ∈ ps0) :
    Only ps0 u0 (State.fwdFresh s) ↔ Only ps0 u0 s := by
  refine Only.iff ?_ hps
  unfold State.fwdFresh
  try dsimp only
  repeat' (first
    | simp (disch := decide) only [↓Only.with_fwd, ↓Only.refl_iff]
    | with_reducible refine Only.ite ?_ ?_
    | split
    | exact Only.refl _ _)

theorem State.fwdStopped_only {ps0 : List Part} {u0 : State} (s : State)
    (hps : ∀ q ∈ ([.fwd] : List Part), q ∈ ps0) :
    Only ps0 u0 (State.fwdStopped s) ↔ Only ps0 u0 s := by
  refine Only.iff ?_ hps
  unfold State.fwdStopped
  try dsimp only
  repeat' (first
    | simp (disch := decide) only [↓Only.with_fwd, ↓Only.refl_iff]
    | with_reducible refine Only.ite ?_ ?_
    | exact Only.refl _ _)

end Sys2Proof.Machine
end

