-- ==== Sys2Proof/Laws/TouchTime.lean ====
section
/-! SUPPORT. What each operation of fabric time, axes and captures can touch: one lemma for each, in the form in which later
proofs cite it. -/

namespace Sys2Proof.Machine

theorem State.advanceFt_only {ps0 : List Part} {u0 : State} (s : State) (t : BitVec 80)
    (hps : ∀ q ∈ ([.now] : List Part), q ∈ ps0) :
    Only ps0 u0 (State.advanceFt s t) ↔ Only ps0 u0 s := by
  refine Only.iff ?_ hps
  unfold State.advanceFt
  try dsimp only
  repeat' (first
    | simp (disch := decide) only [↓State.advanceTo_only, ↓Only.refl_iff]
    | with_reducible refine Only.ite ?_ ?_
    | exact Only.refl _ _)

theorem State.setProbe_only {ps0 : List Part} {u0 : State} (s : State) (l : Link) (x : Probe)
    (hps : ∀ q ∈ ([.time] : List Part), q ∈ ps0) :
    Only ps0 u0 (State.setProbe s l x) ↔ Only ps0 u0 s := by
  refine Only.iff ?_ hps
  unfold State.setProbe
  try dsimp only
  repeat' (first
    | simp (disch := decide) only [↓Only.with_time, ↓Only.refl_iff]
    | with_reducible refine Only.ite ?_ ?_
    | split
    | exact Only.refl _ _)

theorem timeProbeSend_only {ps0 : List Part} {u0 : State} (s : State)
    (hps : ∀ q ∈ ([.raised, .regs, .time, .fwd, .counts] : List Part), q ∈ ps0) :
    Only ps0 u0 (timeProbeSend s) ↔ Only ps0 u0 s := by
  refine Only.iff ?_ hps
  unfold timeProbeSend
  try dsimp only
  repeat' (first
    | simp (disch := decide) only [↓State.setProbe_only, ↓State.probeFrame_only, ↓Only.with_time, ↓Only.refl_iff]
    | with_reducible refine Only.ite ?_ ?_
    | split
    | exact Only.refl _ _)

theorem State.takeProbe_some {s t : State} {k : Nat} {d : Delivered} (h : s.takeProbe k = some (d, t)) :
    Only [.fwd] s t := by
  unfold State.takeProbe at h
  split at h
  · cases h
  · cases h
    exact (Only.with_fwd _ (by decide)).2 (Only.refl _ _)

theorem timeProbeReceived_only {ps0 : List Part} {u0 : State} (s : State)
    (hps : ∀ q ∈ ([.raised, .regs, .time, .fwd, .counts] : List Part), q ∈ ps0) :
    Only ps0 u0 (timeProbeReceived s) ↔ Only ps0 u0 s := by
  refine Only.iff ?_ hps
  unfold timeProbeReceived
  try dsimp only
  repeat' (first
    | simp (disch := decide) only [↓State.probeFrame_only, ↓Only.with_time, ↓Only.refl_iff]
    | with_reducible refine Only.step (State.takeProbe_some (by assumption)) (by decide) ?_
    | with_reducible refine Only.ite ?_ ?_
    | split
    | with_reducible refine Only.snd ?_ (by assumption)
    | with_reducible refine Only.fst ?_ (by assumption)
    | exact Only.refl _ _)

theorem timeProbeAnswer_only {ps0 : List Part} {u0 : State} (s : State)
    (hps : ∀ q ∈ ([.time, .fwd] : List Part), q ∈ ps0) :
    Only ps0 u0 (timeProbeAnswer s) ↔ Only ps0 u0 s := by
  refine Only.iff ?_ hps
  unfold timeProbeAnswer
  try dsimp only
  repeat' (first
    | simp (disch := decide) only [↓State.setProbe_only, ↓Only.refl_iff]
    | with_reducible refine Only.step (State.takeProbe_some (by assumption)) (by decide) ?_
    | with_reducible refine Only.ite ?_ ?_
    | split
    | with_reducible refine Only.snd ?_ (by assumption)
    | with_reducible refine Only.fst ?_ (by assumption)
    | exact Only.refl _ _)

theorem timeProbeFollowUp_only {ps0 : List Part} {u0 : State} (s : State)
    (hps : ∀ q ∈ ([.time, .fwd] : List Part), q ∈ ps0) :
    Only ps0 u0 (timeProbeFollowUp s) ↔ Only ps0 u0 s := by
  refine Only.iff ?_ hps
  unfold timeProbeFollowUp
  try dsimp only
  repeat' (first
    | simp (disch := decide) only [↓State.setProbe_only, ↓Only.refl_iff]
    | with_reducible refine Only.step (State.takeProbe_some (by assumption)) (by decide) ?_
    | with_reducible refine Only.ite ?_ ?_
    | split
    | with_reducible refine Only.snd ?_ (by assumption)
    | with_reducible refine Only.fst ?_ (by assumption)
    | exact Only.refl _ _)

theorem timeProbeTimeout_only {ps0 : List Part} {u0 : State} (l : Link) (s : State)
    (hps : ∀ q ∈ ([.raised, .now, .limits, .regs, .time, .counts] : List Part), q ∈ ps0) :
    Only ps0 u0 (timeProbeTimeout l s) ↔ Only ps0 u0 s := by
  refine Only.iff ?_ hps
  unfold timeProbeTimeout
  try dsimp only
  repeat' (first
    | simp (disch := decide) only [↓State.advanceTo_only, ↓State.setProbe_only, ↓State.bump_only, ↓State.faultEvery_low, ↓Only.refl_iff]
    | with_reducible refine Only.ite ?_ ?_
    | split
    | exact Only.refl _ _)

theorem State.acquireStep_only {ps0 : List Part} {u0 : State} (s : State)
    (hps : ∀ q ∈ ([.time] : List Part), q ∈ ps0) :
    Only ps0 u0 (State.acquireStep s) ↔ Only ps0 u0 s := by
  refine Only.iff ?_ hps
  unfold State.acquireStep
  try dsimp only
  repeat' (first
    | simp (disch := decide) only [↓Only.with_time, ↓Only.refl_iff]
    | with_reducible refine Only.ite ?_ ?_
    | exact Only.refl _ _)

theorem State.acquirePlain_only {ps0 : List Part} {u0 : State} (s : State)
    (hps : ∀ q ∈ ([.time] : List Part), q ∈ ps0) :
    Only ps0 u0 (State.acquirePlain s) ↔ Only ps0 u0 s := by
  refine Only.iff ?_ hps
  unfold State.acquirePlain
  try dsimp only
  repeat' (first
    | simp (disch := decide) only [↓Only.with_time, ↓Only.refl_iff]
    | with_reducible refine Only.ite ?_ ?_
    | exact Only.refl _ _)

theorem State.runAtBase_only {ps0 : List Part} {u0 : State} (s : State)
    (hps : ∀ q ∈ ([.time] : List Part), q ∈ ps0) :
    Only ps0 u0 (State.runAtBase s) ↔ Only ps0 u0 s := by
  refine Only.iff ?_ hps
  unfold State.runAtBase
  try dsimp only
  repeat' (first
    | simp (disch := decide) only [↓State.setRate_only, ↓Only.refl_iff]
    | with_reducible refine Only.ite ?_ ?_
    | exact Only.refl _ _)

theorem State.startSending_only {ps0 : List Part} {u0 : State} (s : State)
    (hps : ∀ q ∈ ([.time] : List Part), q ∈ ps0) :
    Only ps0 u0 (State.startSending s) ↔ Only ps0 u0 s := by
  refine Only.iff ?_ hps
  unfold State.startSending
  try dsimp only
  repeat' (first
    | simp (disch := decide) only [↓State.acquirePlain_only, ↓Only.with_time, ↓Only.refl_iff]
    | with_reducible refine Only.ite ?_ ?_
    | split
    | exact Only.refl _ _)

theorem State.timeRunning_only {ps0 : List Part} {u0 : State} (s : State)
    (hps : ∀ q ∈ ([.time] : List Part), q ∈ ps0) :
    Only ps0 u0 (State.timeRunning s) ↔ Only ps0 u0 s := by
  refine Only.iff ?_ hps
  unfold State.timeRunning
  try dsimp only
  repeat' (first
    | simp (disch := decide) only [↓State.acquireStep_only, ↓State.startSending_only, ↓Only.with_time, ↓Only.refl_iff]
    | with_reducible refine Only.ite ?_ ?_
    | split
    | exact Only.refl _ _)

theorem State.timeFresh_only {ps0 : List Part} {u0 : State} (s : State)
    (hps : ∀ q ∈ ([.time] : List Part), q ∈ ps0) :
    Only ps0 u0 (State.timeFresh s) ↔ Only ps0 u0 s := by
  refine Only.iff ?_ hps
  unfold State.timeFresh
  try dsimp only
  repeat' (first
    | simp (disch := decide) only [↓Only.with_time, ↓Only.refl_iff]
    | with_reducible refine Only.ite ?_ ?_
    | exact Only.refl _ _)

theorem State.timeStopped_only {ps0 : List Part} {u0 : State} (s : State)
    (hps : ∀ q ∈ ([.time] : List Part), q ∈ ps0) :
    Only ps0 u0 (State.timeStopped s) ↔ Only ps0 u0 s := by
  refine Only.iff ?_ hps
  unfold State.timeStopped
  try dsimp only
  repeat' (first
    | simp (disch := decide) only [↓State.runAtBase_only, ↓Only.with_time, ↓Only.refl_iff]
    | with_reducible refine Only.ite ?_ ?_
    | exact Only.refl _ _)

theorem State.servo_only {ps0 : List Part} {u0 : State} (s : State) (e : Int) (i : Nat)
    (hps : ∀ q ∈ ([.raised, .time] : List Part), q ∈ ps0) :
    Only ps0 u0 (State.servo s e i) ↔ Only ps0 u0 s := by
  refine Only.iff ?_ hps
  unfold State.servo
  try dsimp only
  repeat' (first
    | simp (disch := decide) only [↓State.setRate_only, ↓State.fault_low, ↓Only.with_time, ↓Only.refl_iff]
    | with_reducible refine Only.ite ?_ ?_
    | split
    | exact Only.refl _ _)

theorem timeServoEnd_only {ps0 : List Part} {u0 : State} (s : State)
    (hps : ∀ q ∈ ([.now, .time] : List Part), q ∈ ps0) :
    Only ps0 u0 (timeServoEnd s) ↔ Only ps0 u0 s := by
  refine Only.iff ?_ hps
  unfold timeServoEnd
  try dsimp only
  repeat' (first
    | simp (disch := decide) only [↓State.advanceTo_only, ↓State.runAtBase_only, ↓Only.refl_iff]
    | with_reducible refine Only.ite ?_ ?_
    | split
    | exact Only.refl _ _)

theorem State.slewRate_only {ps0 : List Part} {u0 : State} (s : State)
    (hps : ∀ q ∈ ([.time] : List Part), q ∈ ps0) :
    Only ps0 u0 (State.slewRate s) ↔ Only ps0 u0 s := by
  refine Only.iff ?_ hps
  unfold State.slewRate
  try dsimp only
  repeat' (first
    | simp (disch := decide) only [↓State.setRate_only, ↓Only.refl_iff]
    | with_reducible refine Only.ite ?_ ?_
    | split
    | exact Only.refl _ _)

theorem State.applyError_only {ps0 : List Part} {u0 : State} (s : State) (e : Int) (path i : Nat)
    (hps : ∀ q ∈ ([.raised, .regs, .time, .axes, .counts] : List Part), q ∈ ps0) :
    Only ps0 u0 (State.applyError s e path i) ↔ Only ps0 u0 s := by
  refine Only.iff ?_ hps
  unfold State.applyError
  try dsimp only
  repeat' (first
    | simp (disch := decide) only [↓State.stepTime_only, ↓State.slewRate_only, ↓State.runAtBase_only, ↓State.bump_only, ↓State.fault_low, ↓State.acquirePlain_only, ↓State.servo_only, ↓Only.with_time, ↓Only.refl_iff]
    | with_reducible refine Only.ite ?_ ?_
    | split
    | exact Only.refl _ _)

theorem timeFrameSend_only {ps0 : List Part} {u0 : State} (s : State)
    (hps : ∀ q ∈ ([.raised, .now, .regs, .time, .fwd, .counts] : List Part), q ∈ ps0) :
    Only ps0 u0 (timeFrameSend s) ↔ Only ps0 u0 s := by
  refine Only.iff ?_ hps
  unfold timeFrameSend
  try dsimp only
  repeat' (first
    | simp (disch := decide) only [↓State.advanceTo_only, ↓State.originate_only, ↓Only.with_time, ↓Only.refl_iff]
    | with_reducible refine Only.ite ?_ ?_
    | split
    | exact Only.refl _ _)

theorem timeBetterTimeout_only {ps0 : List Part} {u0 : State} (s : State)
    (hps : ∀ q ∈ ([.now, .time] : List Part), q ∈ ps0) :
    Only ps0 u0 (timeBetterTimeout s) ↔ Only ps0 u0 s := by
  refine Only.iff ?_ hps
  unfold timeBetterTimeout
  try dsimp only
  repeat' (first
    | simp (disch := decide) only [↓State.advanceTo_only, ↓State.startSending_only, ↓Only.refl_iff]
    | with_reducible refine Only.foldl (fun _ _ => ?_) ?_
    | with_reducible refine Only.foldl_snd (fun _ _ => ?_) ?_
    | with_reducible refine Only.ite ?_ ?_
    | split
    | exact Only.refl _ _)

theorem State.pathStep_only {ps0 : List Part} {u0 : State} (s : State) (n : BitVec 16)
    (hps : ∀ q ∈ ([.time] : List Part), q ∈ ps0) :
    Only ps0 u0 (State.pathStep s n) ↔ Only ps0 u0 s := by
  refine Only.iff ?_ hps
  unfold State.pathStep
  try dsimp only
  repeat' (first
    | simp (disch := decide) only [↓Only.with_time, ↓Only.refl_iff]
    | with_reducible refine Only.ite ?_ ?_
    | split
    | exact Only.refl _ _)

theorem State.pathDiff_only {ps0 : List Part} {u0 : State} (s : State) (ew ee : Option Int)
    (hps : ∀ q ∈ ([.time] : List Part), q ∈ ps0) :
    Only ps0 u0 (State.pathDiff s ew ee) ↔ Only ps0 u0 s := by
  refine Only.iff ?_ hps
  unfold State.pathDiff
  try dsimp only
  repeat' (first
    | simp (disch := decide) only [↓Only.with_time, ↓Only.refl_iff]
    | with_reducible refine Only.ite ?_ ?_
    | split
    | exact Only.refl _ _)

theorem State.newTimeFrame_only {ps0 : List Part} {u0 : State} (s : State) (n : BitVec 16) (payload : List Byte)
    (hps : ∀ q ∈ ([.raised, .regs, .time, .axes, .counts] : List Part), q ∈ ps0) :
    Only ps0 u0 (State.newTimeFrame s n payload) ↔ Only ps0 u0 s := by
  refine Only.iff ?_ hps
  unfold State.newTimeFrame
  try dsimp only
  repeat' (first
    | simp (disch := decide) only [↓State.pathStep_only, ↓State.bump_only, ↓State.fault_low, ↓State.pathDiff_only, ↓State.applyError_only, ↓Only.with_time, ↓Only.refl_iff]
    | with_reducible refine Only.getD (fun _ _ => ?_) ?_
    | with_reducible refine Only.ite ?_ ?_
    | split
    | exact Only.refl _ _)

theorem State.timeCopy_only {ps0 : List Part} {u0 : State} (s : State) (d : Delivered) (n : BitVec 16)
    (hps : ∀ q ∈ ([.raised, .regs, .time, .axes, .counts] : List Part), q ∈ ps0) :
    Only ps0 u0 (State.timeCopy s d n) ↔ Only ps0 u0 s := by
  refine Only.iff ?_ hps
  unfold State.timeCopy
  try dsimp only
  repeat' (first
    | simp (disch := decide) only [↓State.newTimeFrame_only, ↓Only.with_time, ↓Only.refl_iff]
    | with_reducible refine Only.ite ?_ ?_
    | split
    | exact Only.refl _ _)

theorem State.heardBy_only {ps0 : List Part} {u0 : State} (s : State) (src : Heard)
    (hps : ∀ q ∈ ([.time] : List Part), q ∈ ps0) :
    Only ps0 u0 (State.heardBy s src) ↔ Only ps0 u0 s := by
  refine Only.iff ?_ hps
  unfold State.heardBy
  try dsimp only
  repeat' (first
    | simp (disch := decide) only [↓Only.with_time, ↓Only.refl_iff]
    | with_reducible refine Only.ite ?_ ?_
    | exact Only.refl _ _)

theorem State.yieldSource_only {ps0 : List Part} {u0 : State} (s : State)
    (hps : ∀ q ∈ ([.time] : List Part), q ∈ ps0) :
    Only ps0 u0 (State.yieldSource s) ↔ Only ps0 u0 s := by
  refine Only.iff ?_ hps
  unfold State.yieldSource
  try dsimp only
  repeat' (first
    | simp (disch := decide) only [↓State.acquireStep_only, ↓Only.with_time, ↓Only.refl_iff]
    | with_reducible refine Only.ite ?_ ?_
    | split
    | exact Only.refl _ _)

theorem State.takeSource_only {ps0 : List Part} {u0 : State} (s : State) (src : Heard)
    (hps : ∀ q ∈ ([.raised, .regs, .time, .counts] : List Part), q ∈ ps0) :
    Only ps0 u0 (State.takeSource s src) ↔ Only ps0 u0 s := by
  refine Only.iff ?_ hps
  unfold State.takeSource
  try dsimp only
  repeat' (first
    | simp (disch := decide) only [↓State.bump_only, ↓State.fault_low, ↓Only.with_time, ↓Only.refl_iff]
    | with_reducible refine Only.ite ?_ ?_
    | split
    | exact Only.refl _ _)

theorem timeFrameReceived_only {ps0 : List Part} {u0 : State} (s : State)
    (hps : ∀ q ∈ ([.raised, .regs, .time, .axes, .fwd, .counts] : List Part), q ∈ ps0) :
    Only ps0 u0 (timeFrameReceived s) ↔ Only ps0 u0 s := by
  refine Only.iff ?_ hps
  unfold timeFrameReceived
  try dsimp only
  repeat' (first
    | simp (disch := decide) only [↓State.heardBy_only, ↓State.yieldSource_only, ↓State.takeSource_only, ↓State.timeCopy_only, ↓Only.with_time, ↓Only.refl_iff]
    | with_reducible refine Only.step (State.takeInbox_some (by assumption)) (by decide) ?_
    | with_reducible refine Only.ite ?_ ?_
    | split
    | with_reducible refine Only.snd ?_ (by assumption)
    | with_reducible refine Only.fst ?_ (by assumption)
    | exact Only.refl _ _)

theorem timeHoldover_only {ps0 : List Part} {u0 : State} (s : State)
    (hps : ∀ q ∈ ([.raised, .now, .time] : List Part), q ∈ ps0) :
    Only ps0 u0 (timeHoldover s) ↔ Only ps0 u0 s := by
  refine Only.iff ?_ hps
  unfold timeHoldover
  try dsimp only
  repeat' (first
    | simp (disch := decide) only [↓State.advanceTo_only, ↓State.runAtBase_only, ↓State.fault_low, ↓Only.with_time, ↓Only.refl_iff]
    | with_reducible refine Only.ite ?_ ?_
    | split
    | exact Only.refl _ _)

theorem timeAcceptStep_only {ps0 : List Part} {u0 : State} (s : State)
    (hps : ∀ q ∈ ([.regs, .time, .axes, .counts] : List Part), q ∈ ps0) :
    Only ps0 u0 (timeAcceptStep s) ↔ Only ps0 u0 s := by
  refine Only.iff ?_ hps
  unfold timeAcceptStep
  try dsimp only
  repeat' (first
    | simp (disch := decide) only [↓State.stepTime_only, ↓State.acquireStep_only, ↓State.bump_only, ↓Only.refl_iff]
    | with_reducible refine Only.ite ?_ ?_
    | split
    | exact Only.refl _ _)

theorem timeSlew_only {ps0 : List Part} {u0 : State} (s : State)
    (hps : ∀ q ∈ ([.regs, .time, .counts] : List Part), q ∈ ps0) :
    Only ps0 u0 (timeSlew s) ↔ Only ps0 u0 s := by
  refine Only.iff ?_ hps
  unfold timeSlew
  try dsimp only
  repeat' (first
    | simp (disch := decide) only [↓State.slewRate_only, ↓State.bump_only, ↓Only.with_time, ↓Only.refl_iff]
    | with_reducible refine Only.ite ?_ ?_
    | split
    | exact Only.refl _ _)

theorem State.loadTime_only {ps0 : List Part} {u0 : State} (s : State)
    (hps : ∀ q ∈ ([.time, .axes] : List Part), q ∈ ps0) :
    Only ps0 u0 (State.loadTime s) ↔ Only ps0 u0 s := by
  refine Only.iff ?_ hps
  unfold State.loadTime
  try dsimp only
  repeat' (first
    | simp (disch := decide) only [↓State.stepTime_only, ↓Only.with_time, ↓Only.refl_iff]
    | with_reducible refine Only.ite ?_ ?_
    | exact Only.refl _ _)

theorem timeLoadNow_only {ps0 : List Part} {u0 : State} (src : Src) (s : State)
    (hps : ∀ q ∈ ([.raised, .regs, .time, .axes, .counts] : List Part), q ∈ ps0) :
    Only ps0 u0 (timeLoadNow src s) ↔ Only ps0 u0 s := by
  refine Only.iff ?_ hps
  unfold timeLoadNow
  try dsimp only
  repeat' (first
    | simp (disch := decide) only [↓State.ignored_only, ↓State.loadTime_only, ↓Only.refl_iff]
    | with_reducible refine Only.ite ?_ ?_
    | split
    | exact Only.refl _ _)

theorem timeArmPps_only {ps0 : List Part} {u0 : State} (src : Src) (s : State)
    (hps : ∀ q ∈ ([.raised, .regs, .time, .counts] : List Part), q ∈ ps0) :
    Only ps0 u0 (timeArmPps src s) ↔ Only ps0 u0 s := by
  refine Only.iff ?_ hps
  unfold timeArmPps
  try dsimp only
  repeat' (first
    | simp (disch := decide) only [↓State.ignored_only, ↓Only.with_time, ↓Only.refl_iff]
    | with_reducible refine Only.ite ?_ ?_
    | split
    | exact Only.refl _ _)

theorem timeCmd_only {ps0 : List Part} {u0 : State} (src : Src) (v : Nat) (s : State)
    (hps : ∀ q ∈ ([.raised, .regs, .time, .axes, .counts] : List Part), q ∈ ps0) :
    Only ps0 u0 (timeCmd src v s) ↔ Only ps0 u0 s := by
  refine Only.iff ?_ hps
  unfold timeCmd
  try dsimp only
  repeat' (first
    | simp (disch := decide) only [↓timeAcceptStep_only, ↓timeSlew_only, ↓timeLoadNow_only, ↓timeArmPps_only, ↓State.ignored_only, ↓Only.refl_iff]
    | with_reducible refine Only.ite ?_ ?_
    | split
    | exact Only.refl _ _)

theorem timePpsEdge_only {ps0 : List Part} {u0 : State} (falling : Bool) (s : State)
    (hps : ∀ q ∈ ([.raised, .regs, .time, .axes, .counts] : List Part), q ∈ ps0) :
    Only ps0 u0 (timePpsEdge falling s) ↔ Only ps0 u0 s := by
  refine Only.iff ?_ hps
  unfold timePpsEdge
  try dsimp only
  repeat' (first
    | simp (disch := decide) only [↓State.loadTime_only, ↓State.applyError_only, ↓Only.with_time, ↓Only.refl_iff]
    | with_reducible refine Only.ite ?_ ?_
    | split
    | exact Only.refl _ _)

theorem timePpsTimeout_only {ps0 : List Part} {u0 : State} (s : State)
    (hps : ∀ q ∈ ([.raised, .now, .time] : List Part), q ∈ ps0) :
    Only ps0 u0 (timePpsTimeout s) ↔ Only ps0 u0 s := by
  refine Only.iff ?_ hps
  unfold timePpsTimeout
  try dsimp only
  repeat' (first
    | simp (disch := decide) only [↓State.advanceTo_only, ↓State.runAtBase_only, ↓State.fault_low, ↓Only.with_time, ↓Only.refl_iff]
    | with_reducible refine Only.ite ?_ ?_
    | split
    | exact Only.refl _ _)

theorem timePpsOutRise_only {ps0 : List Part} {u0 : State} (s : State)
    (hps : ∀ q ∈ ([.out, .now, .time] : List Part), q ∈ ps0) :
    Only ps0 u0 (timePpsOutRise s) ↔ Only ps0 u0 s := by
  refine Only.iff ?_ hps
  unfold timePpsOutRise
  try dsimp only
  repeat' (first
    | simp (disch := decide) only [↓State.advanceFt_only, ↓State.emit_only, ↓Only.with_time, ↓Only.refl_iff]
    | with_reducible refine Only.ite ?_ ?_
    | split
    | exact Only.refl _ _)

theorem timePpsOutFall_only {ps0 : List Part} {u0 : State} (s : State)
    (hps : ∀ q ∈ ([.out, .now, .time] : List Part), q ∈ ps0) :
    Only ps0 u0 (timePpsOutFall s) ↔ Only ps0 u0 s := by
  refine Only.iff ?_ hps
  unfold timePpsOutFall
  try dsimp only
  repeat' (first
    | simp (disch := decide) only [↓State.advanceTo_only, ↓State.emit_only, ↓Only.with_time, ↓Only.refl_iff]
    | with_reducible refine Only.ite ?_ ?_
    | split
    | exact Only.refl _ _)

theorem State.axisTo_only {ps0 : List Part} {u0 : State} (s : State) (a : Nat) (x : Axis)
    (hps : ∀ q ∈ ([.raised, .axes] : List Part), q ∈ ps0) :
    Only ps0 u0 (State.axisTo s a x) ↔ Only ps0 u0 s := by
  refine Only.iff ?_ hps
  unfold State.axisTo
  try dsimp only
  repeat' (first
    | simp (disch := decide) only [↓State.setAxis_only, ↓State.eventP_only, ↓Only.refl_iff]
    | with_reducible refine Only.ite ?_ ?_
    | split
    | exact Only.refl _ _)

theorem State.axisReinit_only {ps0 : List Part} {u0 : State} (s : State) (a : Nat) (p : Sample) (cause : Nat)
    (hps : ∀ q ∈ ([.raised, .regs, .axes, .counts] : List Part), q ∈ ps0) :
    Only ps0 u0 (State.axisReinit s a p cause) ↔ Only ps0 u0 s := by
  refine Only.iff ?_ hps
  unfold State.axisReinit
  try dsimp only
  repeat' (first
    | simp (disch := decide) only [↓State.axisTo_only, ↓State.bump_only, ↓State.fault_low, ↓Only.refl_iff]
    | with_reducible refine Only.ite ?_ ?_
    | exact Only.refl _ _)

theorem State.axisApply_only {ps0 : List Part} {u0 : State} (s : State) (a : Nat) (p : Sample)
    (hps : ∀ q ∈ ([.raised, .regs, .axes, .counts] : List Part), q ∈ ps0) :
    Only ps0 u0 (State.axisApply s a p) ↔ Only ps0 u0 s := by
  refine Only.iff ?_ hps
  unfold State.axisApply
  try dsimp only
  repeat' (first
    | simp (disch := decide) only [↓State.axisTo_only, ↓State.bump_only, ↓State.axisReinit_only, ↓State.setAxis_only, ↓State.fault_low, ↓Only.refl_iff]
    | with_reducible refine Only.ite ?_ ?_
    | split
    | exact Only.refl _ _)

theorem State.axisAccept_only {ps0 : List Part} {u0 : State} (s : State) (a : Nat) (p : Sample)
    (hps : ∀ q ∈ ([.raised, .regs, .axes, .counts] : List Part), q ∈ ps0) :
    Only ps0 u0 (State.axisAccept s a p) ↔ Only ps0 u0 s := by
  refine Only.iff ?_ hps
  unfold State.axisAccept
  try dsimp only
  repeat' (first
    | simp (disch := decide) only [↓State.setAxis_only, ↓State.bump_only, ↓State.fault_low, ↓State.axisApply_only, ↓Only.refl_iff]
    | with_reducible refine Only.ite ?_ ?_
    | split
    | exact Only.refl _ _)

theorem State.axisCheck_only {ps0 : List Part} {u0 : State} (s : State) (a : Nat) (p : Sample)
    (hps : ∀ q ∈ ([.raised, .regs, .axes, .counts] : List Part), q ∈ ps0) :
    Only ps0 u0 (State.axisCheck s a p) ↔ Only ps0 u0 s := by
  refine Only.iff ?_ hps
  unfold State.axisCheck
  try dsimp only
  repeat' (first
    | simp (disch := decide) only [↓State.bump_only, ↓State.fault_low, ↓State.axisAccept_only, ↓Only.refl_iff]
    | with_reducible refine Only.ite ?_ ?_
    | split
    | exact Only.refl _ _)

theorem axisSampleReceived_only {ps0 : List Part} {u0 : State} (s : State)
    (hps : ∀ q ∈ ([.raised, .regs, .axes, .fwd, .counts] : List Part), q ∈ ps0) :
    Only ps0 u0 (axisSampleReceived s) ↔ Only ps0 u0 s := by
  refine Only.iff ?_ hps
  unfold axisSampleReceived
  try dsimp only
  repeat' (first
    | simp (disch := decide) only [↓State.axisCheck_only, ↓Only.refl_iff]
    | with_reducible refine Only.step (State.takeInbox_some (by assumption)) (by decide) ?_
    | with_reducible refine Only.ite ?_ ?_
    | split
    | with_reducible refine Only.snd ?_ (by assumption)
    | with_reducible refine Only.fst ?_ (by assumption)
    | exact Only.refl _ _)

theorem axisCoast_only {ps0 : List Part} {u0 : State} (a : BitVec 6) (s : State)
    (hps : ∀ q ∈ ([.now, .regs, .axes, .counts] : List Part), q ∈ ps0) :
    Only ps0 u0 (axisCoast a s) ↔ Only ps0 u0 s := by
  refine Only.iff ?_ hps
  unfold axisCoast
  try dsimp only
  repeat' (first
    | simp (disch := decide) only [↓State.advanceFt_only, ↓State.setAxis_only, ↓State.bump_only, ↓Only.refl_iff]
    | with_reducible refine Only.ite ?_ ?_
    | split
    | exact Only.refl _ _)

theorem axisStale_only {ps0 : List Part} {u0 : State} (a : BitVec 6) (s : State)
    (hps : ∀ q ∈ ([.raised, .now, .axes] : List Part), q ∈ ps0) :
    Only ps0 u0 (axisStale a s) ↔ Only ps0 u0 s := by
  refine Only.iff ?_ hps
  unfold axisStale
  try dsimp only
  repeat' (first
    | simp (disch := decide) only [↓State.advanceFt_only, ↓State.setAxis_only, ↓State.fault_low, ↓Only.refl_iff]
    | with_reducible refine Only.ite ?_ ?_
    | split
    | exact Only.refl _ _)

theorem State.axisRunning_only {ps0 : List Part} {u0 : State} (s : State) (a : Nat)
    (hps : ∀ q ∈ ([.axes] : List Part), q ∈ ps0) :
    Only ps0 u0 (State.axisRunning s a) ↔ Only ps0 u0 s := by
  refine Only.iff ?_ hps
  unfold State.axisRunning
  try dsimp only
  repeat' (first
    | simp (disch := decide) only [↓State.setAxis_only, ↓Only.refl_iff]
    | with_reducible refine Only.ite ?_ ?_
    | exact Only.refl _ _)

theorem State.axisOff_only {ps0 : List Part} {u0 : State} (s : State) (a : Nat)
    (hps : ∀ q ∈ ([.raised, .axes] : List Part), q ∈ ps0) :
    Only ps0 u0 (State.axisOff s a) ↔ Only ps0 u0 s := by
  refine Only.iff ?_ hps
  unfold State.axisOff
  try dsimp only
  repeat' (first
    | simp (disch := decide) only [↓State.axisTo_only, ↓Only.refl_iff]
    | with_reducible refine Only.ite ?_ ?_
    | exact Only.refl _ _)

theorem State.faultKeyed_only {ps0 : List Part} {u0 : State} (s : State) (key period src kind level detail : Nat)
    (hps : ∀ q ∈ ([.raised, .limits, .urgent] : List Part), q ∈ ps0) :
    Only ps0 u0 (State.faultKeyed s key period src kind level detail) ↔ Only ps0 u0 s := by
  refine Only.iff ?_ hps
  unfold State.faultKeyed
  try dsimp only
  repeat' (first
    | simp (disch := decide) only [↓State.fault_only, ↓Only.with_limits, ↓Only.refl_iff]
    | with_reducible refine Only.ite ?_ ?_
    | split
    | exact Only.refl _ _)

theorem State.setCapQ_only {ps0 : List Part} {u0 : State} (s : State) (q : Nat) (f : PortFifo)
    (hps : ∀ q ∈ ([.raised, .act] : List Part), q ∈ ps0) :
    Only ps0 u0 (State.setCapQ s q f) ↔ Only ps0 u0 s := by
  refine Only.iff ?_ hps
  unfold State.setCapQ
  try dsimp only
  repeat' (first
    | simp (disch := decide) only [↓State.fifoNotice_only, ↓Only.with_act, ↓Only.refl_iff]
    | with_reducible refine Only.ite ?_ ?_
    | split
    | with_reducible refine Only.snd ?_ (by assumption)
    | with_reducible refine Only.fst ?_ (by assumption)
    | exact Only.refl _ _)

theorem State.capture_only {ps0 : List Part} {u0 : State} (s : State) (l ev axis q : Nat) (rec_ : Bool)
    (hps : ∀ q ∈ ([.raised, .limits, .regs, .act, .counts, .urgent] : List Part), q ∈ ps0) :
    Only ps0 u0 (State.capture s l ev axis q rec_) ↔ Only ps0 u0 s := by
  refine Only.iff ?_ hps
  unfold State.capture
  try dsimp only
  repeat' (first
    | simp (disch := decide) only [↓State.setCapQ_only, ↓State.bump_only, ↓State.faultKeyed_only, ↓State.event_only, ↓Only.refl_iff]
    | with_reducible refine Only.ite ?_ ?_
    | split
    | exact Only.refl _ _)

theorem State.captureEdge_only {ps0 : List Part} {u0 : State} (s : State) (l : Nat) (level : Bool)
    (hps : ∀ q ∈ ([.raised, .limits, .regs, .act, .counts, .urgent] : List Part), q ∈ ps0) :
    Only ps0 u0 (State.captureEdge s l level) ↔ Only ps0 u0 s := by
  refine Only.iff ?_ hps
  unfold State.captureEdge
  try dsimp only
  repeat' (first
    | simp (disch := decide) only [↓State.capture_only, ↓Only.refl_iff]
    | with_reducible refine Only.ite ?_ ?_
    | split
    | exact Only.refl _ _)

theorem State.capturePop_only {ps0 : List Part} {u0 : State} (s : State) (q : Nat) (ecc : EccResult)
    (hps : ∀ q ∈ ([.raised, .regs, .act, .counts] : List Part), q ∈ ps0) :
    Only ps0 u0 (State.capturePop s q ecc).2 ↔ Only ps0 u0 s := by
  refine Only.iff ?_ hps
  unfold State.capturePop
  try dsimp only
  repeat' (first
    | simp (disch := decide) only [↓State.popReport_only, ↓State.setCapQ_only, ↓Only.refl_iff]
    | with_reducible refine Only.ite ?_ ?_
    | split
    | exact Only.refl _ _)

end Sys2Proof.Machine
end

