-- ==== Sys2Proof/Laws/TouchLines.lean ====
section
/-! SUPPORT. What each operation of lines, UARTs, encoders and CAN can touch: one lemma for each, in the form in which later
proofs cite it. -/

namespace Sys2Proof.Machine

theorem State.setLine_only {ps0 : List Part} {u0 : State} (s : State) (l : Nat) (x : Line)
    (hps : ∀ q ∈ ([.lines] : List Part), q ∈ ps0) :
    Only ps0 u0 (State.setLine s l x) ↔ Only ps0 u0 s := by
  refine Only.iff ?_ hps
  unfold State.setLine
  try dsimp only
  repeat' (first
    | simp (disch := decide) only [↓Only.with_lines, ↓Only.refl_iff]
    | with_reducible refine Only.ite ?_ ?_
    | exact Only.refl _ _)

theorem State.bump16_only {ps0 : List Part} {u0 : State} (s : State) (off : Nat)
    (hps : ∀ q ∈ ([.regs, .counts] : List Part), q ∈ ps0) :
    Only ps0 u0 (State.bump16 s off) ↔ Only ps0 u0 s := by
  refine Only.iff ?_ hps
  unfold State.bump16
  try dsimp only
  repeat' (first
    | simp (disch := decide) only [↓State.setNat_only, ↓Only.refl_iff]
    | with_reducible refine Only.ite ?_ ?_
    | exact Only.refl _ _)

theorem State.forceLine_only {ps0 : List Part} {u0 : State} (s : State) (l : Nat) (x : Line)
    (hps : ∀ q ∈ ([.out, .lines] : List Part), q ∈ ps0) :
    Only ps0 u0 (State.forceLine s l x) ↔ Only ps0 u0 s := by
  refine Only.iff ?_ hps
  unfold State.forceLine
  try dsimp only
  repeat' (first
    | simp (disch := decide) only [↓State.setLine_only, ↓State.emit_only, ↓Only.refl_iff]
    | with_reducible refine Only.ite ?_ ?_
    | split
    | exact Only.refl _ _)

theorem State.updateLine_only {ps0 : List Part} {u0 : State} (s : State) (l : Nat) (x : Line)
    (hps : ∀ q ∈ ([.out, .lines] : List Part), q ∈ ps0) :
    Only ps0 u0 (State.updateLine s l x) ↔ Only ps0 u0 s := by
  refine Only.iff ?_ hps
  unfold State.updateLine
  try dsimp only
  repeat' (first
    | simp (disch := decide) only [↓State.forceLine_only, ↓Only.refl_iff]
    | with_reducible refine Only.ite ?_ ?_
    | split
    | exact Only.refl _ _)

/-- What a change of the dies' state may touch: what it is, and the outputs. -/
theorem State.withDies_via {ps : List Part} {u : State} (s : State) (f : State → State) (hps : Part.out ∈ ps)
    (hf : Only ps s (f s)) (h : Only ps u s) : Only ps u (s.withDies f) := by
  unfold State.withDies
  dsimp only
  refine Only.foldl (fun _ _ => Only.ite (Only.refl _ _) ?_) (h.trans hf)
  exact (State.emit_only (u0 := _) _ _ (by simpa using hps)).2 (Only.refl _ _)

theorem State.safeLine_only {ps0 : List Part} {u0 : State} (s : State) (l : Nat)
    (hps : ∀ q ∈ ([.out, .lines] : List Part), q ∈ ps0) :
    Only ps0 u0 (State.safeLine s l) ↔ Only ps0 u0 s := by
  refine Only.iff ?_ hps
  unfold State.safeLine
  try dsimp only
  repeat' (first
    | simp (disch := decide) only [↓State.forceLine_only, ↓Only.refl_iff]
    | with_reducible refine Only.ite ?_ ?_
    | exact Only.refl _ _)

theorem State.unsafeLine_only {ps0 : List Part} {u0 : State} (s : State) (l : Nat)
    (hps : ∀ q ∈ ([.lines] : List Part), q ∈ ps0) :
    Only ps0 u0 (State.unsafeLine s l) ↔ Only ps0 u0 s := by
  refine Only.iff ?_ hps
  unfold State.unsafeLine
  try dsimp only
  repeat' (first
    | simp (disch := decide) only [↓State.setLine_only, ↓Only.refl_iff]
    | with_reducible refine Only.ite ?_ ?_
    | split
    | exact Only.refl _ _)

theorem State.lineCommand_only {ps0 : List Part} {u0 : State} (s : State) (l : Nat) (v : Bool)
    (hps : ∀ q ∈ ([.out, .regs, .lines, .counts] : List Part), q ∈ ps0) :
    Only ps0 u0 (State.lineCommand s l v) ↔ Only ps0 u0 s := by
  refine Only.iff ?_ hps
  unfold State.lineCommand
  try dsimp only
  repeat' (first
    | simp (disch := decide) only [↓State.bump16_only, ↓State.updateLine_only, ↓Only.refl_iff]
    | with_reducible refine Only.ite ?_ ?_
    | split
    | exact Only.refl _ _)

theorem State.eachLine_via {ps : List Part} {u : State} (s : State) (nn : Nat) (f : State → Nat → State)
    (hf : ∀ t k, Only ps t (f t k)) (h : Only ps u s) : Only ps u (s.eachLine nn f) := by
  unfold State.eachLine
  exact Only.foldl (fun t _ => hf t _) h

theorem State.frondStart_only {ps0 : List Part} {u0 : State} (s : State) (nn : Nat)
    (hps : ∀ q ∈ ([.out, .lines, .fronds] : List Part), q ∈ ps0) :
    Only ps0 u0 (State.frondStart s nn) ↔ Only ps0 u0 s := by
  refine Only.iff ?_ hps
  unfold State.frondStart
  try dsimp only
  repeat' (first
    | simp (disch := decide) only [↓State.unsafeLine_only, ↓State.updateLine_only, ↓State.setLine_only, ↓State.safeLine_only, ↓Only.with_fronds, ↓Only.refl_iff]
    | with_reducible refine State.eachLine_via _ _ _ (fun _ _ => ?_) ?_
    | with_reducible refine Only.ite ?_ ?_
    | split
    | exact Only.refl _ _)

theorem State.frondRunning_only {ps0 : List Part} {u0 : State} (s : State) (nn : Nat)
    (hps : ∀ q ∈ ([.out, .regs, .lines, .counts] : List Part), q ∈ ps0) :
    Only ps0 u0 (State.frondRunning s nn) ↔ Only ps0 u0 s := by
  refine Only.iff ?_ hps
  unfold State.frondRunning
  try dsimp only
  repeat' (first
    | simp (disch := decide) only [↓State.unsafeLine_only, ↓State.lineCommand_only, ↓Only.refl_iff]
    | with_reducible refine State.eachLine_via _ _ _ (fun _ _ => ?_) ?_
    | with_reducible refine Only.ite ?_ ?_
    | split
    | exact Only.refl _ _)

theorem State.frondStopping_only {ps0 : List Part} {u0 : State} (s : State) (nn : Nat)
    (hps : ∀ q ∈ ([.out, .lines] : List Part), q ∈ ps0) :
    Only ps0 u0 (State.frondStopping s nn) ↔ Only ps0 u0 s := by
  refine Only.iff ?_ hps
  unfold State.frondStopping
  try dsimp only
  repeat' (first
    | simp (disch := decide) only [↓State.updateLine_only, ↓Only.refl_iff]
    | with_reducible refine State.eachLine_via _ _ _ (fun _ _ => ?_) ?_
    | with_reducible refine Only.ite ?_ ?_
    | split
    | exact Only.refl _ _)

theorem State.frondHalted_only {ps0 : List Part} {u0 : State} (s : State) (nn : Nat)
    (hps : ∀ q ∈ ([.out, .lines] : List Part), q ∈ ps0) :
    Only ps0 u0 (State.frondHalted s nn) ↔ Only ps0 u0 s := by
  refine Only.iff ?_ hps
  unfold State.frondHalted
  try dsimp only
  repeat' (first
    | simp (disch := decide) only [↓State.updateLine_only, ↓Only.refl_iff]
    | with_reducible refine State.eachLine_via _ _ _ (fun _ _ => ?_) ?_
    | with_reducible refine Only.ite ?_ ?_
    | exact Only.refl _ _)

theorem State.engineHaltLines_only {ps0 : List Part} {u0 : State} (s : State) (nn e : Nat)
    (hps : ∀ q ∈ ([.out, .lines] : List Part), q ∈ ps0) :
    Only ps0 u0 (State.engineHaltLines s nn e) ↔ Only ps0 u0 s := by
  refine Only.iff ?_ hps
  unfold State.engineHaltLines
  try dsimp only
  repeat' (first
    | simp (disch := decide) only [↓State.updateLine_only, ↓Only.refl_iff]
    | with_reducible refine State.eachLine_via _ _ _ (fun _ _ => ?_) ?_
    | with_reducible refine Only.ite ?_ ?_
    | split
    | exact Only.refl _ _)

theorem loutWrite_only {ps0 : List Part} {u0 : State} (nn : BitVec 4) (v : Word) (s : State)
    (hps : ∀ q ∈ ([.out, .regs, .lines, .counts] : List Part), q ∈ ps0) :
    Only ps0 u0 (loutWrite nn v s) ↔ Only ps0 u0 s := by
  refine Only.iff ?_ hps
  unfold loutWrite
  try dsimp only
  repeat' (first
    | simp (disch := decide) only [↓State.setReg_only, ↓State.lineCommand_only, ↓Only.refl_iff]
    | with_reducible refine State.eachLine_via _ _ _ (fun _ _ => ?_) ?_
    | with_reducible refine Only.ite ?_ ?_
    | split
    | exact Only.refl _ _)

theorem lineEdge_only {ps0 : List Part} {u0 : State} (l : BitVec 8) (level : Bool) (s : State)
    (hps : ∀ q ∈ ([.raised, .limits, .regs, .lines, .act, .counts, .urgent] : List Part), q ∈ ps0) :
    Only ps0 u0 (lineEdge l level s) ↔ Only ps0 u0 s := by
  refine Only.iff ?_ hps
  unfold lineEdge
  try dsimp only
  repeat' (first
    | simp (disch := decide) only [↓State.setLine_only, ↓State.captureEdge_only, ↓State.eventP_only, ↓Only.refl_iff]
    | with_reducible refine Only.ite ?_ ?_
    | split
    | exact Only.refl _ _)

theorem lineCondEntry_only {ps0 : List Part} {u0 : State} (nosup : Bool) (l : BitVec 8) (c : LineCond) (s : State)
    (hps : ∀ q ∈ ([.out, .raised, .regs, .lines, .counts, .urgent] : List Part), q ∈ ps0) :
    Only ps0 u0 (lineCondEntry nosup l c s) ↔ Only ps0 u0 s := by
  refine Only.iff ?_ hps
  unfold lineCondEntry
  try dsimp only
  repeat' (first
    | simp (disch := decide) only [↓State.updateLine_only, ↓State.bump16_only, ↓State.fault_only, ↓Only.refl_iff]
    | with_reducible refine Only.ite ?_ ?_
    | split
    | exact Only.refl _ _)

theorem lineCondExit_only {ps0 : List Part} {u0 : State} (nosup : Bool) (l : BitVec 8) (c : LineCond) (s : State)
    (hps : ∀ q ∈ ([.out, .raised, .lines] : List Part), q ∈ ps0) :
    Only ps0 u0 (lineCondExit nosup l c s) ↔ Only ps0 u0 s := by
  refine Only.iff ?_ hps
  unfold lineCondExit
  try dsimp only
  repeat' (first
    | simp (disch := decide) only [↓State.updateLine_only, ↓State.eventP_only, ↓Only.refl_iff]
    | with_reducible refine Only.ite ?_ ?_
    | split
    | exact Only.refl _ _)

theorem lcmdUnlatch_only {ps0 : List Part} {u0 : State} (nn : BitVec 4) (v : BitVec 16) (s : State)
    (hps : ∀ q ∈ ([.out, .regs, .lines, .counts] : List Part), q ∈ ps0) :
    Only ps0 u0 (lcmdUnlatch nn v s) ↔ Only ps0 u0 s := by
  refine Only.iff ?_ hps
  unfold lcmdUnlatch
  try dsimp only
  repeat' (first
    | simp (disch := decide) only [↓State.updateLine_only, ↓State.lineCommand_only, ↓Only.refl_iff]
    | with_reducible refine State.eachLine_via _ _ _ (fun _ _ => ?_) ?_
    | with_reducible refine Only.ite ?_ ?_
    | split
    | exact Only.refl _ _)

theorem State.setFrond_only {ps0 : List Part} {u0 : State} (s : State) (nn : Nat) (x : Frond)
    (hps : ∀ q ∈ ([.fronds] : List Part), q ∈ ps0) :
    Only ps0 u0 (State.setFrond s nn x) ↔ Only ps0 u0 s := by
  refine Only.iff ?_ hps
  unfold State.setFrond
  try dsimp only
  repeat' (first
    | simp (disch := decide) only [↓Only.with_fronds, ↓Only.refl_iff]
    | with_reducible refine Only.ite ?_ ?_
    | exact Only.refl _ _)

theorem frondOver_only {ps0 : List Part} {u0 : State} (nosup : Bool) (nn : BitVec 4) (s : State)
    (hps : ∀ q ∈ ([.raised] : List Part), q ∈ ps0) :
    Only ps0 u0 (frondOver nosup nn s) ↔ Only ps0 u0 s := by
  refine Only.iff ?_ hps
  unfold frondOver
  try dsimp only
  repeat' (first
    | simp (disch := decide) only [↓State.fault_low, ↓Only.refl_iff]
    | with_reducible refine Only.ite ?_ ?_
    | split
    | exact Only.refl _ _)

theorem frondCut_only {ps0 : List Part} {u0 : State} (nosup : Bool) (nn : BitVec 4) (s : State)
    (hps : ∀ q ∈ ([.out, .raised, .lines] : List Part), q ∈ ps0) :
    Only ps0 u0 (frondCut nosup nn s) ↔ Only ps0 u0 s := by
  refine Only.iff ?_ hps
  unfold frondCut
  try dsimp only
  repeat' (first
    | simp (disch := decide) only [↓State.updateLine_only, ↓State.fault_low, ↓Only.refl_iff]
    | with_reducible refine State.eachLine_via _ _ _ (fun _ _ => ?_) ?_
    | with_reducible refine Only.ite ?_ ?_
    | split
    | exact Only.refl _ _)

theorem State.setUart_only {ps0 : List Part} {u0 : State} (s : State) (ch : Nat) (x : Uart)
    (hps : ∀ q ∈ ([.uarts] : List Part), q ∈ ps0) :
    Only ps0 u0 (State.setUart s ch x) ↔ Only ps0 u0 s := by
  refine Only.iff ?_ hps
  unfold State.setUart
  try dsimp only
  repeat' (first
    | simp (disch := decide) only [↓Only.with_uarts, ↓Only.refl_iff]
    | with_reducible refine Only.ite ?_ ?_
    | exact Only.refl _ _)

theorem State.setUartRx_only {ps0 : List Part} {u0 : State} (s : State) (ch : Nat) (f : PortFifo)
    (hps : ∀ q ∈ ([.raised, .uarts] : List Part), q ∈ ps0) :
    Only ps0 u0 (State.setUartRx s ch f) ↔ Only ps0 u0 s := by
  refine Only.iff ?_ hps
  unfold State.setUartRx
  try dsimp only
  repeat' (first
    | simp (disch := decide) only [↓State.fifoNotice_only, ↓State.setUart_only, ↓Only.refl_iff]
    | with_reducible refine Only.ite ?_ ?_
    | split
    | with_reducible refine Only.snd ?_ (by assumption)
    | with_reducible refine Only.fst ?_ (by assumption)
    | exact Only.refl _ _)

theorem State.uartStore_only {ps0 : List Part} {u0 : State} (s : State) (ch : Nat) (item : DWord)
    (hps : ∀ q ∈ ([.raised, .limits, .regs, .uarts, .counts] : List Part), q ∈ ps0) :
    Only ps0 u0 (State.uartStore s ch item) ↔ Only ps0 u0 s := by
  refine Only.iff ?_ hps
  unfold State.uartStore
  try dsimp only
  repeat' (first
    | simp (disch := decide) only [↓State.setUartRx_only, ↓State.bump_only, ↓State.faultMs_low, ↓Only.refl_iff]
    | with_reducible refine Only.ite ?_ ?_
    | split
    | exact Only.refl _ _)

theorem State.charError_only {ps0 : List Part} {u0 : State} (s : State) (ch : Nat) (bad : Bool) (counter detail : Nat)
    (hps : ∀ q ∈ ([.raised, .limits, .regs, .counts] : List Part), q ∈ ps0) :
    Only ps0 u0 (State.charError s ch bad counter detail) ↔ Only ps0 u0 s := by
  refine Only.iff ?_ hps
  unfold State.charError
  try dsimp only
  repeat' (first
    | simp (disch := decide) only [↓State.bump_only, ↓State.faultMs_low, ↓Only.refl_iff]
    | with_reducible refine Only.ite ?_ ?_
    | split
    | exact Only.refl _ _)

theorem uartReceived_only {ps0 : List Part} {u0 : State} (ch : BitVec 5) (data : BitVec 9) (perr ferr brk : Bool) (ago : Nat) (s : State)
    (hps : ∀ q ∈ ([.raised, .limits, .regs, .uarts, .counts] : List Part), q ∈ ps0) :
    Only ps0 u0 (uartReceived ch data perr ferr brk ago s) ↔ Only ps0 u0 s := by
  refine Only.iff ?_ hps
  unfold uartReceived
  try dsimp only
  repeat' (first
    | simp (disch := decide) only [↓State.uartStore_only, ↓State.setUart_only, ↓State.charError_only, ↓Only.refl_iff]
    | with_reducible refine Only.ite ?_ ?_
    | split
    | exact Only.refl _ _)

theorem uartIdleGap_only {ps0 : List Part} {u0 : State} (ch : BitVec 5) (s : State)
    (hps : ∀ q ∈ ([.raised, .limits, .regs, .uarts, .counts] : List Part), q ∈ ps0) :
    Only ps0 u0 (uartIdleGap ch s) ↔ Only ps0 u0 s := by
  refine Only.iff ?_ hps
  unfold uartIdleGap
  try dsimp only
  repeat' (first
    | simp (disch := decide) only [↓State.setUart_only, ↓State.uartStore_only, ↓Only.refl_iff]
    | with_reducible refine Only.ite ?_ ?_
    | split
    | exact Only.refl _ _)

theorem State.uartPush_only {ps0 : List Part} {u0 : State} (s : State) (ch : Nat) (w : BitVec 10)
    (hps : ∀ q ∈ ([.uarts] : List Part), q ∈ ps0) :
    Only ps0 u0 (State.uartPush s ch w).1 ↔ Only ps0 u0 s := by
  refine Only.iff ?_ hps
  unfold State.uartPush
  try dsimp only
  repeat' (first
    | simp (disch := decide) only [↓State.setUart_only, ↓Only.refl_iff]
    | with_reducible refine Only.ite ?_ ?_
    | split
    | exact Only.refl _ _)

theorem utxWrite_only {ps0 : List Part} {u0 : State} (ch : BitVec 5) (v : BitVec 10) (s : State)
    (hps : ∀ q ∈ ([.regs, .uarts, .counts] : List Part), q ∈ ps0) :
    Only ps0 u0 (utxWrite ch v s) ↔ Only ps0 u0 s := by
  refine Only.iff ?_ hps
  unfold utxWrite
  try dsimp only
  repeat' (first
    | simp (disch := decide) only [↓State.bump_only, ↓State.uartPush_only, ↓Only.refl_iff]
    | with_reducible refine Only.ite ?_ ?_
    | split
    | with_reducible refine Only.snd ?_ (by assumption)
    | with_reducible refine Only.fst ?_ (by assumption)
    | exact Only.refl _ _)

theorem uartTransmitStart_only {ps0 : List Part} {u0 : State} (ch : BitVec 5) (s : State)
    (hps : ∀ q ∈ ([.uarts] : List Part), q ∈ ps0) :
    Only ps0 u0 (uartTransmitStart ch s) ↔ Only ps0 u0 s := by
  refine Only.iff ?_ hps
  unfold uartTransmitStart
  try dsimp only
  repeat' (first
    | simp (disch := decide) only [↓State.setUart_only, ↓Only.refl_iff]
    | with_reducible refine Only.ite ?_ ?_
    | split
    | exact Only.refl _ _)

theorem uartWordSent_only {ps0 : List Part} {u0 : State} (ch : BitVec 5) (s : State)
    (hps : ∀ q ∈ ([.out, .uarts] : List Part), q ∈ ps0) :
    Only ps0 u0 (uartWordSent ch s) ↔ Only ps0 u0 s := by
  refine Only.iff ?_ hps
  unfold uartWordSent
  try dsimp only
  repeat' (first
    | simp (disch := decide) only [↓State.emit_only, ↓State.setUart_only, ↓Only.refl_iff]
    | with_reducible refine Only.ite ?_ ?_
    | split
    | exact Only.refl _ _)

theorem State.uartPop_only {ps0 : List Part} {u0 : State} (s : State) (ch : Nat) (ecc : EccResult)
    (hps : ∀ q ∈ ([.raised, .regs, .uarts, .counts] : List Part), q ∈ ps0) :
    Only ps0 u0 (State.uartPop s ch ecc).2 ↔ Only ps0 u0 s := by
  refine Only.iff ?_ hps
  unfold State.uartPop
  try dsimp only
  repeat' (first
    | simp (disch := decide) only [↓State.popReport_only, ↓State.setUartRx_only, ↓Only.refl_iff]
    | with_reducible refine Only.ite ?_ ?_
    | split
    | exact Only.refl _ _)

theorem rs485Off_only {ps0 : List Part} {u0 : State} (ch : BitVec 5) (hot : Bool) (s : State)
    (hps : ∀ q ∈ ([.raised, .uarts] : List Part), q ∈ ps0) :
    Only ps0 u0 (rs485Off ch hot s) ↔ Only ps0 u0 s := by
  refine Only.iff ?_ hps
  unfold rs485Off
  try dsimp only
  repeat' (first
    | simp (disch := decide) only [↓State.setUart_only, ↓State.fault_low, ↓Only.refl_iff]
    | with_reducible refine Only.ite ?_ ?_
    | split
    | exact Only.refl _ _)

theorem State.uartFresh_only {ps0 : List Part} {u0 : State} (s : State) (ch : Nat)
    (hps : ∀ q ∈ ([.uarts] : List Part), q ∈ ps0) :
    Only ps0 u0 (State.uartFresh s ch) ↔ Only ps0 u0 s := by
  refine Only.iff ?_ hps
  unfold State.uartFresh
  try dsimp only
  repeat' (first
    | simp (disch := decide) only [↓State.setUart_only, ↓Only.refl_iff]
    | with_reducible refine Only.ite ?_ ?_
    | exact Only.refl _ _)

theorem State.uartStopped_only {ps0 : List Part} {u0 : State} (s : State) (ch : Nat)
    (hps : ∀ q ∈ ([.uarts] : List Part), q ∈ ps0) :
    Only ps0 u0 (State.uartStopped s ch) ↔ Only ps0 u0 s := by
  refine Only.iff ?_ hps
  unfold State.uartStopped
  try dsimp only
  repeat' (first
    | simp (disch := decide) only [↓State.setUart_only, ↓Only.refl_iff]
    | with_reducible refine Only.ite ?_ ?_
    | exact Only.refl _ _)

theorem State.setEncoder_only {ps0 : List Part} {u0 : State} (s : State) (u : Nat) (x : Encoder)
    (hps : ∀ q ∈ ([.encoders] : List Part), q ∈ ps0) :
    Only ps0 u0 (State.setEncoder s u x) ↔ Only ps0 u0 s := by
  refine Only.iff ?_ hps
  unfold State.setEncoder
  try dsimp only
  repeat' (first
    | simp (disch := decide) only [↓Only.with_encoders, ↓Only.refl_iff]
    | with_reducible refine Only.ite ?_ ?_
    | exact Only.refl _ _)

theorem State.encoderError_only {ps0 : List Part} {u0 : State} (s : State) (u cause : Nat)
    (hps : ∀ q ∈ ([.raised, .limits, .regs, .encoders, .counts] : List Part), q ∈ ps0) :
    Only ps0 u0 (State.encoderError s u cause) ↔ Only ps0 u0 s := by
  refine Only.iff ?_ hps
  unfold State.encoderError
  try dsimp only
  repeat' (first
    | simp (disch := decide) only [↓State.setEncoder_only, ↓State.bump_only, ↓State.faultMs_low, ↓Only.refl_iff]
    | with_reducible refine Only.ite ?_ ?_
    | exact Only.refl _ _)

theorem encoderEdge_only {ps0 : List Part} {u0 : State} (u : BitVec 4) (a b gate : Bool) (s : State)
    (hps : ∀ q ∈ ([.raised, .limits, .regs, .encoders, .counts] : List Part), q ∈ ps0) :
    Only ps0 u0 (encoderEdge u a b gate s) ↔ Only ps0 u0 s := by
  refine Only.iff ?_ hps
  unfold encoderEdge
  try dsimp only
  repeat' (first
    | simp (disch := decide) only [↓State.setEncoder_only, ↓State.encoderError_only, ↓Only.refl_iff]
    | with_reducible refine Only.ite ?_ ?_
    | split
    | exact Only.refl _ _)

theorem State.encoderSet_only {ps0 : List Part} {u0 : State} (s : State) (u : Nat)
    (hps : ∀ q ∈ ([.encoders] : List Part), q ∈ ps0) :
    Only ps0 u0 (State.encoderSet s u) ↔ Only ps0 u0 s := by
  refine Only.iff ?_ hps
  unfold State.encoderSet
  try dsimp only
  repeat' (first
    | simp (disch := decide) only [↓State.setEncoder_only, ↓Only.refl_iff]
    | with_reducible refine Only.ite ?_ ?_
    | exact Only.refl _ _)

theorem encoderZ_only {ps0 : List Part} {u0 : State} (u : BitVec 4) (gate : Bool) (s : State)
    (hps : ∀ q ∈ ([.regs, .encoders, .counts] : List Part), q ∈ ps0) :
    Only ps0 u0 (encoderZ u gate s) ↔ Only ps0 u0 s := by
  refine Only.iff ?_ hps
  unfold encoderZ
  try dsimp only
  repeat' (first
    | simp (disch := decide) only [↓State.setEncoder_only, ↓State.bump_only, ↓State.encoderSet_only, ↓Only.refl_iff]
    | with_reducible refine Only.ite ?_ ?_
    | split
    | exact Only.refl _ _)

theorem encoderLoad_only {ps0 : List Part} {u0 : State} (u : BitVec 4) (s : State)
    (hps : ∀ q ∈ ([.encoders] : List Part), q ∈ ps0) :
    Only ps0 u0 (encoderLoad u s) ↔ Only ps0 u0 s := by
  refine Only.iff ?_ hps
  unfold encoderLoad
  try dsimp only
  repeat' (first
    | simp (disch := decide) only [↓State.encoderSet_only, ↓Only.refl_iff]
    | with_reducible refine Only.ite ?_ ?_
    | exact Only.refl _ _)

theorem encoderArm_only {ps0 : List Part} {u0 : State} (u : BitVec 4) (s : State)
    (hps : ∀ q ∈ ([.encoders] : List Part), q ∈ ps0) :
    Only ps0 u0 (encoderArm u s) ↔ Only ps0 u0 s := by
  refine Only.iff ?_ hps
  unfold encoderArm
  try dsimp only
  repeat' (first
    | simp (disch := decide) only [↓State.setEncoder_only, ↓Only.refl_iff]
    | with_reducible refine Only.ite ?_ ?_
    | exact Only.refl _ _)

theorem encoderCmd_only {ps0 : List Part} {u0 : State} (src : Src) (u : BitVec 4) (v : Nat) (s : State)
    (hps : ∀ q ∈ ([.raised, .regs, .encoders, .counts] : List Part), q ∈ ps0) :
    Only ps0 u0 (encoderCmd src u v s) ↔ Only ps0 u0 s := by
  refine Only.iff ?_ hps
  unfold encoderCmd
  try dsimp only
  repeat' (first
    | simp (disch := decide) only [↓encoderLoad_only, ↓encoderArm_only, ↓State.ignored_only, ↓Only.refl_iff]
    | with_reducible refine Only.ite ?_ ?_
    | split
    | exact Only.refl _ _)

theorem encoderLoss_only {ps0 : List Part} {u0 : State} (u : BitVec 4) (s : State)
    (hps : ∀ q ∈ ([.raised, .limits, .regs, .encoders, .counts] : List Part), q ∈ ps0) :
    Only ps0 u0 (encoderLoss u s) ↔ Only ps0 u0 s := by
  refine Only.iff ?_ hps
  unfold encoderLoss
  try dsimp only
  repeat' (first
    | simp (disch := decide) only [↓State.setEncoder_only, ↓State.encoderError_only, ↓Only.refl_iff]
    | with_reducible refine Only.ite ?_ ?_
    | split
    | exact Only.refl _ _)

theorem encoderRestored_only {ps0 : List Part} {u0 : State} (u : BitVec 4) (s : State)
    (hps : ∀ q ∈ ([.encoders] : List Part), q ∈ ps0) :
    Only ps0 u0 (encoderRestored u s) ↔ Only ps0 u0 s := by
  refine Only.iff ?_ hps
  unfold encoderRestored
  try dsimp only
  repeat' (first
    | simp (disch := decide) only [↓State.setEncoder_only, ↓Only.refl_iff]
    | with_reducible refine Only.ite ?_ ?_
    | split
    | exact Only.refl _ _)

theorem State.encoderFresh_only {ps0 : List Part} {u0 : State} (s : State) (u : Nat)
    (hps : ∀ q ∈ ([.encoders] : List Part), q ∈ ps0) :
    Only ps0 u0 (State.encoderFresh s u) ↔ Only ps0 u0 s := by
  refine Only.iff ?_ hps
  unfold State.encoderFresh
  try dsimp only
  repeat' (first
    | simp (disch := decide) only [↓State.setEncoder_only, ↓Only.refl_iff]
    | with_reducible refine Only.ite ?_ ?_
    | split
    | exact Only.refl _ _)

theorem axisLatch_only {ps0 : List Part} {u0 : State} (a : BitVec 6) (gate : Bool) (s : State)
    (hps : ∀ q ∈ ([.raised, .now, .regs, .axes, .fwd, .encoders, .counts] : List Part), q ∈ ps0) :
    Only ps0 u0 (axisLatch a gate s) ↔ Only ps0 u0 s := by
  refine Only.iff ?_ hps
  unfold axisLatch
  try dsimp only
  repeat' (first
    | simp (disch := decide) only [↓State.advanceFt_only, ↓State.setEncoder_only, ↓State.setAxis_only, ↓State.bump_only, ↓State.axisCheck_only, ↓State.originate_only, ↓Only.refl_iff]
    | with_reducible refine Only.ite ?_ ?_
    | split
    | exact Only.refl _ _)

theorem State.setCan_only {ps0 : List Part} {u0 : State} (s : State) (k : Nat) (x : Can)
    (hps : ∀ q ∈ ([.cans] : List Part), q ∈ ps0) :
    Only ps0 u0 (State.setCan s k x) ↔ Only ps0 u0 s := by
  refine Only.iff ?_ hps
  unfold State.setCan
  try dsimp only
  repeat' (first
    | simp (disch := decide) only [↓Only.with_cans, ↓Only.refl_iff]
    | with_reducible refine Only.ite ?_ ?_
    | exact Only.refl _ _)

theorem State.errorReturn_only {ps0 : List Part} {u0 : State} (s : State) (h : Hdr) (status : Nat)
    (hps : ∀ q ∈ ([.raised, .regs, .fwd, .counts] : List Part), q ∈ ps0) :
    Only ps0 u0 (State.errorReturn s h status) ↔ Only ps0 u0 s := by
  refine Only.iff ?_ hps
  unfold State.errorReturn
  try dsimp only
  repeat' (first
    | simp (disch := decide) only [↓State.originate_only, ↓Only.refl_iff]
    | with_reducible refine Only.ite ?_ ?_
    | split
    | exact Only.refl _ _)

theorem State.egressRefuse_only {ps0 : List Part} {u0 : State} (s : State) (h : Hdr) (status : Nat)
    (hps : ∀ q ∈ ([.raised, .regs, .fwd, .counts] : List Part), q ∈ ps0) :
    Only ps0 u0 (State.egressRefuse s h status) ↔ Only ps0 u0 s := by
  refine Only.iff ?_ hps
  unfold State.egressRefuse
  try dsimp only
  repeat' (first
    | simp (disch := decide) only [↓State.bump_only, ↓State.fault_low, ↓State.errorReturn_only, ↓Only.refl_iff]
    | with_reducible refine Only.ite ?_ ?_
    | exact Only.refl _ _)

theorem State.canAbandon_only {ps0 : List Part} {u0 : State} (s : State) (k : Nat)
    (hps : ∀ q ∈ ([.raised, .regs, .fwd, .cans, .counts] : List Part), q ∈ ps0) :
    Only ps0 u0 (State.canAbandon s k) ↔ Only ps0 u0 s := by
  refine Only.iff ?_ hps
  unfold State.canAbandon
  try dsimp only
  repeat' (first
    | simp (disch := decide) only [↓State.setCan_only, ↓State.egressRefuse_only, ↓Only.refl_iff]
    | with_reducible refine Only.foldl (fun _ _ => ?_) ?_
    | with_reducible refine Only.foldl_snd (fun _ _ => ?_) ?_
    | with_reducible refine Only.ite ?_ ?_
    | split
    | exact Only.refl _ _)

theorem State.canDropPending_only {ps0 : List Part} {u0 : State} (s : State) (k : Nat)
    (hps : ∀ q ∈ ([.raised, .regs, .fwd, .cans, .counts] : List Part), q ∈ ps0) :
    Only ps0 u0 (State.canDropPending s k) ↔ Only ps0 u0 s := by
  refine Only.iff ?_ hps
  unfold State.canDropPending
  try dsimp only
  repeat' (first
    | simp (disch := decide) only [↓State.setCan_only, ↓State.bump_only, ↓State.canAbandon_only, ↓Only.refl_iff]
    | with_reducible refine Only.foldl (fun _ _ => ?_) ?_
    | with_reducible refine Only.foldl_snd (fun _ _ => ?_) ?_
    | with_reducible refine Only.ite ?_ ?_
    | split
    | exact Only.refl _ _)

theorem State.txRefuse_only {ps0 : List Part} {u0 : State} (s : State) (k result : Nat)
    (hps : ∀ q ∈ ([.regs, .cans, .counts] : List Part), q ∈ ps0) :
    Only ps0 u0 (State.txRefuse s k result) ↔ Only ps0 u0 s := by
  refine Only.iff ?_ hps
  unfold State.txRefuse
  try dsimp only
  repeat' (first
    | simp (disch := decide) only [↓State.setCan_only, ↓State.bump_only, ↓Only.refl_iff]
    | with_reducible refine Only.ite ?_ ?_
    | exact Only.refl _ _)

theorem State.txCmd_via {ps : List Part} {u : State} (s : State) (k b : Nat) (a : BufState → Bool) (l : Bool)
    (f : TxBuf → State → State) (hps : ∀ q ∈ [Part.regs, Part.cans, Part.counts], q ∈ ps) (hf : ∀ x t, Only ps t (f x t)) (h : Only ps u s) :
    Only ps u (s.txCmd k b a l f) := by
  unfold State.txCmd
  have h1 : ∀ r, Only ps u (s.txRefuse k r) := fun r => (State.txRefuse_only _ _ _ (by simpa using hps)).2 h
  refine Only.ite (h1 _) (Only.ite (h1 _) (Only.ite (h1 _) (Only.ite (h1 _) (Only.trans ?_ (hf _ _)))))
  exact (State.setCan_only _ _ _ (fun q hq => hps q (by simp at hq; simp [hq]))).2 h

theorem txBuffer_via {ps : List Part} {u : State} (src : Src) (k : BitVec 3) (b : BitVec 2) (f : Nat → Nat → State → State)
    (s : State) (hps : ∀ q ∈ [Part.raised, Part.regs, Part.counts], q ∈ ps) (hf : ∀ m n t, Only ps t (f m n t)) (h : Only ps u s) :
    Only ps u (txBuffer src k b f s) := by
  unfold txBuffer
  exact Only.ite ((State.ignored_only _ _ _ _ hps).2 h) (h.trans (hf _ _ _))

theorem canLoad_only {ps0 : List Part} {u0 : State} (src : Src) (k : BitVec 3) (b : BitVec 2) (s0 : State)
    (hps : ∀ q ∈ ([.raised, .regs, .cans, .counts] : List Part), q ∈ ps0) :
    Only ps0 u0 (canLoad src k b s0) ↔ Only ps0 u0 s0 := by
  refine Only.iff ?_ hps
  unfold canLoad
  try dsimp only
  repeat' (first
    | simp (disch := decide) only [↓State.setCan_only, ↓Only.refl_iff]
    | with_reducible refine txBuffer_via _ _ _ _ _ (by decide) (fun _ _ _ => ?_) ?_
    | with_reducible refine State.txCmd_via _ _ _ _ _ _ (by decide) (fun _ _ => ?_) ?_
    | with_reducible refine Only.ite ?_ ?_
    | split
    | exact Only.refl _ _)

theorem State.canRequest_only {ps0 : List Part} {u0 : State} (s : State) (k b : Nat)
    (hps : ∀ q ∈ ([.regs, .cans, .counts] : List Part), q ∈ ps0) :
    Only ps0 u0 (State.canRequest s k b) ↔ Only ps0 u0 s := by
  refine Only.iff ?_ hps
  unfold State.canRequest
  try dsimp only
  repeat' (first
    | simp (disch := decide) only [↓State.setCan_only, ↓Only.refl_iff]
    | with_reducible refine State.txCmd_via _ _ _ _ _ _ (by decide) (fun _ _ => ?_) ?_
    | with_reducible refine Only.ite ?_ ?_
    | exact Only.refl _ _)

theorem canReq_only {ps0 : List Part} {u0 : State} (src : Src) (k : BitVec 3) (b : BitVec 2) (s0 : State)
    (hps : ∀ q ∈ ([.raised, .regs, .cans, .counts] : List Part), q ∈ ps0) :
    Only ps0 u0 (canReq src k b s0) ↔ Only ps0 u0 s0 := by
  refine Only.iff ?_ hps
  unfold canReq
  try dsimp only
  repeat' (first
    | simp (disch := decide) only [↓State.canRequest_only, ↓Only.refl_iff]
    | with_reducible refine txBuffer_via _ _ _ _ _ (by decide) (fun _ _ _ => ?_) ?_
    | with_reducible refine Only.ite ?_ ?_
    | exact Only.refl _ _)

theorem canLoadreq_only {ps0 : List Part} {u0 : State} (src : Src) (k : BitVec 3) (b : BitVec 2) (s0 : State)
    (hps : ∀ q ∈ ([.raised, .regs, .cans, .counts] : List Part), q ∈ ps0) :
    Only ps0 u0 (canLoadreq src k b s0) ↔ Only ps0 u0 s0 := by
  refine Only.iff ?_ hps
  unfold canLoadreq
  try dsimp only
  repeat' (first
    | simp (disch := decide) only [↓State.setCan_only, ↓Only.refl_iff]
    | with_reducible refine txBuffer_via _ _ _ _ _ (by decide) (fun _ _ _ => ?_) ?_
    | with_reducible refine State.txCmd_via _ _ _ _ _ _ (by decide) (fun _ _ => ?_) ?_
    | with_reducible refine Only.ite ?_ ?_
    | split
    | exact Only.refl _ _)

theorem canAbort_only {ps0 : List Part} {u0 : State} (src : Src) (k : BitVec 3) (b : BitVec 2) (s0 : State)
    (hps : ∀ q ∈ ([.raised, .regs, .cans, .counts] : List Part), q ∈ ps0) :
    Only ps0 u0 (canAbort src k b s0) ↔ Only ps0 u0 s0 := by
  refine Only.iff ?_ hps
  unfold canAbort
  try dsimp only
  repeat' (first
    | simp (disch := decide) only [↓State.setCan_only, ↓State.bump_only, ↓Only.refl_iff]
    | with_reducible refine txBuffer_via _ _ _ _ _ (by decide) (fun _ _ _ => ?_) ?_
    | with_reducible refine State.txCmd_via _ _ _ _ _ _ (by decide) (fun _ _ => ?_) ?_
    | with_reducible refine Only.ite ?_ ?_
    | split
    | exact Only.refl _ _)

theorem canTxCmd_only {ps0 : List Part} {u0 : State} (src : Src) (k : BitVec 3) (v : Nat) (s : State)
    (hps : ∀ q ∈ ([.raised, .regs, .cans, .counts] : List Part), q ∈ ps0) :
    Only ps0 u0 (canTxCmd src k v s) ↔ Only ps0 u0 s := by
  refine Only.iff ?_ hps
  unfold canTxCmd
  try dsimp only
  repeat' (first
    | simp (disch := decide) only [↓canLoad_only, ↓canReq_only, ↓canLoadreq_only, ↓canAbort_only, ↓State.ignored_only, ↓Only.refl_iff]
    | with_reducible refine Only.ite ?_ ?_
    | split
    | exact Only.refl _ _)

theorem canArbitration_only {ps0 : List Part} {u0 : State} (k : BitVec 3) (s : State)
    (hps : ∀ q ∈ ([.out, .cans] : List Part), q ∈ ps0) :
    Only ps0 u0 (canArbitration k s) ↔ Only ps0 u0 s := by
  refine Only.iff ?_ hps
  unfold canArbitration
  try dsimp only
  repeat' (first
    | simp (disch := decide) only [↓State.setCan_only, ↓State.emit_only, ↓Only.refl_iff]
    | with_reducible refine Only.ite ?_ ?_
    | split
    | exact Only.refl _ _)

theorem State.setCanRx_only {ps0 : List Part} {u0 : State} (s : State) (k q : Nat) (f : PortFifo)
    (hps : ∀ q ∈ ([.raised, .cans] : List Part), q ∈ ps0) :
    Only ps0 u0 (State.setCanRx s k q f) ↔ Only ps0 u0 s := by
  refine Only.iff ?_ hps
  unfold State.setCanRx
  try dsimp only
  repeat' (first
    | simp (disch := decide) only [↓State.fifoNotice_only, ↓State.setCan_only, ↓Only.refl_iff]
    | with_reducible refine Only.ite ?_ ?_
    | split
    | with_reducible refine Only.snd ?_ (by assumption)
    | with_reducible refine Only.fst ?_ (by assumption)
    | exact Only.refl _ _)

theorem State.canStore_only {ps0 : List Part} {u0 : State} (s : State) (k q : Nat) (item : List DWord)
    (hps : ∀ q ∈ ([.raised, .limits, .regs, .cans, .counts, .urgent] : List Part), q ∈ ps0) :
    Only ps0 u0 (State.canStore s k q item) ↔ Only ps0 u0 s := by
  refine Only.iff ?_ hps
  unfold State.canStore
  try dsimp only
  repeat' (first
    | simp (disch := decide) only [↓State.setCanRx_only, ↓State.bump_only, ↓State.faultKeyed_only, ↓Only.refl_iff]
    | with_reducible refine Only.ite ?_ ?_
    | split
    | exact Only.refl _ _)

theorem State.brgIngress_only {ps0 : List Part} {u0 : State} (s : State) (u : BrgUnit)
    (hps : ∀ q ∈ ([.raised, .limits, .regs, .brg, .counts] : List Part), q ∈ ps0) :
    Only ps0 u0 (State.brgIngress s u) ↔ Only ps0 u0 s := by
  refine Only.iff ?_ hps
  unfold State.brgIngress
  try dsimp only
  repeat' (first
    | simp (disch := decide) only [↓State.bump_only, ↓State.faultMs_low, ↓Only.with_brg, ↓Only.refl_iff]
    | with_reducible refine Only.ite ?_ ?_
    | split
    | exact Only.refl _ _)

theorem State.canDeliver_only {ps0 : List Part} {u0 : State} (s : State) (k : Nat) (f : CanFrame) (ns : Nat)
    (hps : ∀ q ∈ ([.raised, .limits, .regs, .cans, .brg, .counts, .urgent] : List Part), q ∈ ps0) :
    Only ps0 u0 (State.canDeliver s k f ns) ↔ Only ps0 u0 s := by
  refine Only.iff ?_ hps
  unfold State.canDeliver
  try dsimp only
  repeat' (first
    | simp (disch := decide) only [↓State.canStore_only, ↓State.brgIngress_only, ↓Only.refl_iff]
    | with_reducible refine Only.getD (fun _ _ => ?_) ?_
    | with_reducible refine Only.ite ?_ ?_
    | split
    | exact Only.refl _ _)

theorem State.canCounters_only {ps0 : List Part} {u0 : State} (s : State) (k tec rec_ : Nat)
    (hps : ∀ q ∈ ([.raised, .regs, .fwd, .cans, .counts] : List Part), q ∈ ps0) :
    Only ps0 u0 (State.canCounters s k tec rec_) ↔ Only ps0 u0 s := by
  refine Only.iff ?_ hps
  unfold State.canCounters
  try dsimp only
  repeat' (first
    | simp (disch := decide) only [↓State.setCan_only, ↓State.fault_low, ↓State.eventP_only, ↓State.bump_only, ↓State.canDropPending_only, ↓Only.refl_iff]
    | with_reducible refine Only.ite ?_ ?_
    | split
    | exact Only.refl _ _)

theorem recAfter_only {ps0 : List Part} {u0 : State} (s : State) (r : Nat)
    (hps : ∀ q ∈ ([.fresh] : List Part), q ∈ ps0) :
    Only ps0 u0 (recAfter s r).2 ↔ Only ps0 u0 s := by
  refine Only.iff ?_ hps
  unfold recAfter
  try dsimp only
  repeat' (first
    | simp (disch := decide) only [↓Only.with_fresh, ↓Only.refl_iff]
    | with_reducible refine Only.ite ?_ ?_
    | split
    | exact Only.refl _ _)

theorem canTransmitDone_only {ps0 : List Part} {u0 : State} (k : BitVec 3) (s : State)
    (hps : ∀ q ∈ ([.raised, .limits, .regs, .fwd, .cans, .brg, .counts, .urgent] : List Part), q ∈ ps0) :
    Only ps0 u0 (canTransmitDone k s) ↔ Only ps0 u0 s := by
  refine Only.iff ?_ hps
  unfold canTransmitDone
  try dsimp only
  repeat' (first
    | simp (disch := decide) only [↓State.setCan_only, ↓State.bump_only, ↓State.canCounters_only, ↓State.canDeliver_only, ↓Only.refl_iff]
    | with_reducible refine Only.ite ?_ ?_
    | split
    | exact Only.refl _ _)

theorem canTransmitFailed_only {ps0 : List Part} {u0 : State} (k : BitVec 3) (lost : Bool) (s : State)
    (hps : ∀ q ∈ ([.raised, .regs, .fwd, .cans, .counts] : List Part), q ∈ ps0) :
    Only ps0 u0 (canTransmitFailed k lost s) ↔ Only ps0 u0 s := by
  refine Only.iff ?_ hps
  unfold canTransmitFailed
  try dsimp only
  repeat' (first
    | simp (disch := decide) only [↓State.bump_only, ↓State.setCan_only, ↓State.egressRefuse_only, ↓Only.refl_iff]
    | with_reducible refine Only.ite ?_ ?_
    | split
    | exact Only.refl _ _)

theorem State.candFrom_only {ps0 : List Part} {u0 : State} (s : State) (k f i : Nat)
    (hps : ∀ q ∈ ([.raised, .cans] : List Part), q ∈ ps0) : Only ps0 u0 (s.candFrom k f i) ↔ Only ps0 u0 s := by
  refine Only.iff ?_ hps
  clear hps
  induction f generalizing s i with
  | zero =>
    unfold State.candFrom
    exact (State.setCan_only _ _ _ (by decide)).2 (Only.refl _ _)
  | succ f ih =>
    unfold State.candFrom
    dsimp only
    refine Only.ite ?_ (Only.ite (ih _ _) ?_)
    · refine Only.trans ?_ (ih _ _)
      simp (disch := decide) only [↓State.fault_low, ↓State.setCan_only, ↓Only.refl_iff]
    · exact (State.setCan_only _ _ _ (by decide)).2 (Only.refl _ _)

theorem State.nextCandidate_only {ps0 : List Part} {u0 : State} (s : State) (k : Nat)
    (hps : ∀ q ∈ ([.raised, .cans] : List Part), q ∈ ps0) :
    Only ps0 u0 (State.nextCandidate s k) ↔ Only ps0 u0 s := by
  refine Only.iff ?_ hps
  unfold State.nextCandidate
  try dsimp only
  repeat' (first
    | simp (disch := decide) only [↓State.candFrom_only, ↓Only.refl_iff]
    | with_reducible refine Only.ite ?_ ?_
    | exact Only.refl _ _)

theorem State.seenInterval_only {ps0 : List Part} {u0 : State} (s : State) (k : Nat) (m : BitVec 16)
    (hps : ∀ q ∈ ([.cans] : List Part), q ∈ ps0) :
    Only ps0 u0 (State.seenInterval s k m) ↔ Only ps0 u0 s := by
  refine Only.iff ?_ hps
  unfold State.seenInterval
  try dsimp only
  repeat' (first
    | simp (disch := decide) only [↓State.setCan_only, ↓Only.refl_iff]
    | with_reducible refine Only.ite ?_ ?_
    | split
    | exact Only.refl _ _)

theorem canRateTimeout_only {ps0 : List Part} {u0 : State} (k : BitVec 3) (miniv : BitVec 16) (s : State)
    (hps : ∀ q ∈ ([.raised, .now, .cans] : List Part), q ∈ ps0) :
    Only ps0 u0 (canRateTimeout k miniv s) ↔ Only ps0 u0 s := by
  refine Only.iff ?_ hps
  unfold canRateTimeout
  try dsimp only
  repeat' (first
    | simp (disch := decide) only [↓State.advanceTo_only, ↓State.seenInterval_only, ↓State.nextCandidate_only, ↓Only.refl_iff]
    | with_reducible refine Only.ite ?_ ?_
    | split
    | exact Only.refl _ _)

theorem canFrameReceived_only {ps0 : List Part} {u0 : State} (k : BitVec 3) (f : CanFrame) (ago : Nat) (s : State)
    (hps : ∀ q ∈ ([.raised, .fresh, .limits, .regs, .fwd, .cans, .brg, .counts, .urgent] : List Part), q ∈ ps0) :
    Only ps0 u0 (canFrameReceived k f ago s) ↔ Only ps0 u0 s := by
  refine Only.iff ?_ hps
  unfold canFrameReceived
  try dsimp only
  repeat' (first
    | simp (disch := decide) only [↓State.bump_only, ↓recAfter_only, ↓State.canCounters_only, ↓State.setCan_only, ↓State.eventP_only, ↓State.canDeliver_only, ↓Only.refl_iff]
    | with_reducible refine Only.ite ?_ ?_
    | split
    | with_reducible refine Only.snd ?_ (by assumption)
    | with_reducible refine Only.fst ?_ (by assumption)
    | exact Only.refl _ _)

theorem canErrorDetected_only {ps0 : List Part} {u0 : State} (k : BitVec 3) (code : BitVec 3) (dataPhase : Bool) (role : CanErrorRole) (miniv : BitVec 16) (s : State)
    (hps : ∀ q ∈ ([.raised, .regs, .fwd, .cans, .counts] : List Part), q ∈ ps0) :
    Only ps0 u0 (canErrorDetected k code dataPhase role miniv s) ↔ Only ps0 u0 s := by
  refine Only.iff ?_ hps
  unfold canErrorDetected
  try dsimp only
  repeat' (first
    | simp (disch := decide) only [↓State.setCan_only, ↓State.bump_only, ↓State.canCounters_only, ↓State.seenInterval_only, ↓State.nextCandidate_only, ↓Only.refl_iff]
    | with_reducible refine Only.ite ?_ ?_
    | split
    | exact Only.refl _ _)

theorem canRecoveryDone_only {ps0 : List Part} {u0 : State} (k : BitVec 3) (s : State)
    (hps : ∀ q ∈ ([.raised, .cans] : List Part), q ∈ ps0) :
    Only ps0 u0 (canRecoveryDone k s) ↔ Only ps0 u0 s := by
  refine Only.iff ?_ hps
  unfold canRecoveryDone
  try dsimp only
  repeat' (first
    | simp (disch := decide) only [↓State.setCan_only, ↓State.eventP_only, ↓Only.refl_iff]
    | with_reducible refine Only.ite ?_ ?_
    | split
    | exact Only.refl _ _)

theorem canRecover_only {ps0 : List Part} {u0 : State} (k : BitVec 3) (s : State)
    (hps : ∀ q ∈ ([.regs, .cans, .counts] : List Part), q ∈ ps0) :
    Only ps0 u0 (canRecover k s) ↔ Only ps0 u0 s := by
  refine Only.iff ?_ hps
  unfold canRecover
  try dsimp only
  repeat' (first
    | simp (disch := decide) only [↓State.setCan_only, ↓State.bump_only, ↓Only.refl_iff]
    | with_reducible refine Only.ite ?_ ?_
    | split
    | exact Only.refl _ _)

theorem canCmd_only {ps0 : List Part} {u0 : State} (src : Src) (k : BitVec 3) (v : Nat) (s : State)
    (hps : ∀ q ∈ ([.raised, .regs, .cans, .counts] : List Part), q ∈ ps0) :
    Only ps0 u0 (canCmd src k v s) ↔ Only ps0 u0 s := by
  refine Only.iff ?_ hps
  unfold canCmd
  try dsimp only
  repeat' (first
    | simp (disch := decide) only [↓canRecover_only, ↓State.ignored_only, ↓Only.refl_iff]
    | with_reducible refine Only.ite ?_ ?_
    | split
    | exact Only.refl _ _)

theorem canIntegrated_only {ps0 : List Part} {u0 : State} (k : BitVec 3) (s : State)
    (hps : ∀ q ∈ ([.cans] : List Part), q ∈ ps0) :
    Only ps0 u0 (canIntegrated k s) ↔ Only ps0 u0 s := by
  refine Only.iff ?_ hps
  unfold canIntegrated
  try dsimp only
  repeat' (first
    | simp (disch := decide) only [↓State.setCan_only, ↓Only.refl_iff]
    | with_reducible refine Only.ite ?_ ?_
    | split
    | exact Only.refl _ _)

theorem canProtocolException_only {ps0 : List Part} {u0 : State} (k : BitVec 3) (s : State)
    (hps : ∀ q ∈ ([.raised, .regs, .cans, .counts] : List Part), q ∈ ps0) :
    Only ps0 u0 (canProtocolException k s) ↔ Only ps0 u0 s := by
  refine Only.iff ?_ hps
  unfold canProtocolException
  try dsimp only
  repeat' (first
    | simp (disch := decide) only [↓State.setCan_only, ↓State.bump_only, ↓State.fault_low, ↓Only.refl_iff]
    | with_reducible refine Only.ite ?_ ?_
    | split
    | exact Only.refl _ _)

theorem canWake_only {ps0 : List Part} {u0 : State} (k : BitVec 3) (s : State)
    (hps : ∀ q ∈ ([.raised, .regs, .cans, .counts] : List Part), q ∈ ps0) :
    Only ps0 u0 (canWake k s) ↔ Only ps0 u0 s := by
  refine Only.iff ?_ hps
  unfold canWake
  try dsimp only
  repeat' (first
    | simp (disch := decide) only [↓State.setCan_only, ↓State.bump_only, ↓State.event_only, ↓Only.refl_iff]
    | with_reducible refine Only.ite ?_ ?_
    | split
    | exact Only.refl _ _)

theorem canDominant_only {ps0 : List Part} {u0 : State} (k : BitVec 3) (s : State)
    (hps : ∀ q ∈ ([.raised, .cans] : List Part), q ∈ ps0) :
    Only ps0 u0 (canDominant k s) ↔ Only ps0 u0 s := by
  refine Only.iff ?_ hps
  unfold canDominant
  try dsimp only
  repeat' (first
    | simp (disch := decide) only [↓State.setCan_only, ↓State.fault_low, ↓Only.refl_iff]
    | with_reducible refine Only.ite ?_ ?_
    | exact Only.refl _ _)

theorem canPllLocked_only {ps0 : List Part} {u0 : State} (s : State)
    (hps : ∀ q ∈ ([.canPll] : List Part), q ∈ ps0) :
    Only ps0 u0 (canPllLocked s) ↔ Only ps0 u0 s := by
  refine Only.iff ?_ hps
  unfold canPllLocked
  try dsimp only
  repeat' (first
    | simp (disch := decide) only [↓Only.with_canPll, ↓Only.refl_iff]
    | with_reducible refine Only.ite ?_ ?_
    | exact Only.refl _ _)

theorem State.canPop_only {ps0 : List Part} {u0 : State} (s : State) (k q : Nat) (ecc : EccResult)
    (hps : ∀ q ∈ ([.raised, .regs, .cans, .counts] : List Part), q ∈ ps0) :
    Only ps0 u0 (State.canPop s k q ecc).2 ↔ Only ps0 u0 s := by
  refine Only.iff ?_ hps
  unfold State.canPop
  try dsimp only
  repeat' (first
    | simp (disch := decide) only [↓State.popReport_only, ↓State.setCanRx_only, ↓Only.refl_iff]
    | with_reducible refine Only.ite ?_ ?_
    | split
    | exact Only.refl _ _)

theorem State.canFresh_only {ps0 : List Part} {u0 : State} (s : State) (k : Nat)
    (hps : ∀ q ∈ ([.raised, .regs, .fwd, .cans, .counts] : List Part), q ∈ ps0) :
    Only ps0 u0 (State.canFresh s k) ↔ Only ps0 u0 s := by
  refine Only.iff ?_ hps
  unfold State.canFresh
  try dsimp only
  repeat' (first
    | simp (disch := decide) only [↓State.canAbandon_only, ↓State.setCan_only, ↓Only.refl_iff]
    | with_reducible refine Only.ite ?_ ?_
    | exact Only.refl _ _)

theorem State.canRunning_only {ps0 : List Part} {u0 : State} (s : State) (k : Nat)
    (hps : ∀ q ∈ ([.raised, .cans] : List Part), q ∈ ps0) :
    Only ps0 u0 (State.canRunning s k) ↔ Only ps0 u0 s := by
  refine Only.iff ?_ hps
  unfold State.canRunning
  try dsimp only
  repeat' (first
    | simp (disch := decide) only [↓State.setCan_only, ↓State.candFrom_only, ↓Only.refl_iff]
    | with_reducible refine Only.ite ?_ ?_
    | split
    | exact Only.refl _ _)

theorem State.canStopping_only {ps0 : List Part} {u0 : State} (s : State) (k : Nat)
    (hps : ∀ q ∈ ([.raised, .regs, .fwd, .cans, .counts] : List Part), q ∈ ps0) :
    Only ps0 u0 (State.canStopping s k) ↔ Only ps0 u0 s := by
  refine Only.iff ?_ hps
  unfold State.canStopping
  try dsimp only
  repeat' (first
    | simp (disch := decide) only [↓State.canDropPending_only, ↓Only.refl_iff]
    | with_reducible refine Only.ite ?_ ?_
    | exact Only.refl _ _)

theorem State.stage_only {ps0 : List Part} {u0 : State} (s : State) (off impl : Nat) (v : Word)
    (hps : ∀ q ∈ ([.staged] : List Part), q ∈ ps0) :
    Only ps0 u0 (State.stage s off impl v) ↔ Only ps0 u0 s := by
  refine Only.iff ?_ hps
  unfold State.stage
  try dsimp only
  repeat' (first
    | simp (disch := decide) only [↓Only.with_staged, ↓Only.refl_iff]
    | with_reducible refine Only.getD (fun _ _ => ?_) ?_
    | with_reducible refine Only.ite ?_ ?_
    | split
    | exact Only.refl _ _)

theorem State.unstage_only {ps0 : List Part} {u0 : State} (s : State) (off : Nat)
    (hps : ∀ q ∈ ([.staged] : List Part), q ∈ ps0) :
    Only ps0 u0 (State.unstage s off) ↔ Only ps0 u0 s := by
  refine Only.iff ?_ hps
  unfold State.unstage
  try dsimp only
  repeat' (first
    | simp (disch := decide) only [↓Only.with_staged, ↓Only.refl_iff]
    | with_reducible refine Only.ite ?_ ?_
    | exact Only.refl _ _)

theorem State.applyWide_only {ps0 : List Part} {u0 : State} (s : State) (off impl k : Nat) (v : Word)
    (hps : ∀ q ∈ ([.regs, .staged, .counts] : List Part), q ∈ ps0) :
    Only ps0 u0 (State.applyWide s off impl k v) ↔ Only ps0 u0 s := by
  refine Only.iff ?_ hps
  unfold State.applyWide
  try dsimp only
  repeat' (first
    | simp (disch := decide) only [↓State.setReg_only, ↓State.unstage_only, ↓Only.refl_iff]
    | with_reducible refine Only.foldl (fun _ _ => ?_) ?_
    | with_reducible refine Only.foldl_snd (fun _ _ => ?_) ?_
    | with_reducible refine Only.ite ?_ ?_
    | split
    | exact Only.refl _ _)

end Sys2Proof.Machine
end

