-- ==== Sys2Proof/Laws/TouchEngines.lean ====
section
/-! SUPPORT. What each operation of the bridge and the engines can touch: one lemma for each, in the form in which later
proofs cite it. -/

namespace Sys2Proof.Machine

theorem State.brgDiscard_only {ps0 : List Part} {u0 : State} (s : State) (port : Nat)
    (hps : ∀ q ∈ ([.raised, .limits, .regs, .counts] : List Part), q ∈ ps0) :
    Only ps0 u0 (State.brgDiscard s port) ↔ Only ps0 u0 s := by
  refine Only.iff ?_ hps
  unfold State.brgDiscard
  try dsimp only
  repeat' (first
    | simp (disch := decide) only [↓State.bump_only, ↓State.faultMs_low, ↓Only.refl_iff]
    | with_reducible refine Only.ite ?_ ?_
    | exact Only.refl _ _)

theorem State.asmFinish_only {ps0 : List Part} {u0 : State} (s : State) (ch : Nat)
    (hps : ∀ q ∈ ([.raised, .limits, .regs, .uarts, .brg, .counts] : List Part), q ∈ ps0) :
    Only ps0 u0 (State.asmFinish s ch) ↔ Only ps0 u0 s := by
  refine Only.iff ?_ hps
  unfold State.asmFinish
  try dsimp only
  repeat' (first
    | simp (disch := decide) only [↓State.setUart_only, ↓State.brgDiscard_only, ↓State.brgIngress_only, ↓Only.refl_iff]
    | with_reducible refine Only.ite ?_ ?_
    | split
    | exact Only.refl _ _)

theorem State.asmTake_only {ps0 : List Part} {u0 : State} (s : State) (ch : Nat) (e : DWord)
    (hps : ∀ q ∈ ([.raised, .limits, .regs, .uarts, .brg, .counts] : List Part), q ∈ ps0) :
    Only ps0 u0 (State.asmTake s ch e) ↔ Only ps0 u0 s := by
  refine Only.iff ?_ hps
  unfold State.asmTake
  try dsimp only
  repeat' (first
    | simp (disch := decide) only [↓State.setUart_only, ↓State.asmFinish_only, ↓State.brgDiscard_only, ↓Only.refl_iff]
    | with_reducible refine Only.ite ?_ ?_
    | split
    | exact Only.refl _ _)

theorem State.asmDrain_only {ps0 : List Part} {u0 : State} (s : State) (ch : Nat)
    (hps : ∀ q ∈ ([.raised, .limits, .regs, .uarts, .brg, .counts] : List Part), q ∈ ps0) :
    Only ps0 u0 (State.asmDrain s ch) ↔ Only ps0 u0 s := by
  refine Only.iff ?_ hps
  unfold State.asmDrain
  try dsimp only
  repeat' (first
    | simp (disch := decide) only [↓State.asmTake_only, ↓State.setUartRx_only, ↓Only.refl_iff]
    | with_reducible refine Only.foldl (fun _ _ => ?_) ?_
    | with_reducible refine Only.foldl_snd (fun _ _ => ?_) ?_
    | with_reducible refine Only.getD (fun _ _ => ?_) ?_
    | with_reducible refine Only.ite ?_ ?_
    | split
    | exact Only.refl _ _)

theorem brgCharacter_only {ps0 : List Part} {u0 : State} (ch : BitVec 5) (data : BitVec 9) (perr ferr brk : Bool) (ago : Nat) (s : State)
    (hps : ∀ q ∈ ([.raised, .limits, .regs, .uarts, .brg, .counts] : List Part), q ∈ ps0) :
    Only ps0 u0 (brgCharacter ch data perr ferr brk ago s) ↔ Only ps0 u0 s := by
  refine Only.iff ?_ hps
  unfold brgCharacter
  try dsimp only
  repeat' (first
    | simp (disch := decide) only [↓uartReceived_only, ↓State.asmDrain_only, ↓Only.refl_iff]
    | with_reducible refine Only.ite ?_ ?_
    | exact Only.refl _ _)

theorem brgIdleGap_only {ps0 : List Part} {u0 : State} (ch : BitVec 5) (s : State)
    (hps : ∀ q ∈ ([.raised, .limits, .regs, .uarts, .brg, .counts] : List Part), q ∈ ps0) :
    Only ps0 u0 (brgIdleGap ch s) ↔ Only ps0 u0 s := by
  refine Only.iff ?_ hps
  unfold brgIdleGap
  try dsimp only
  repeat' (first
    | simp (disch := decide) only [↓uartIdleGap_only, ↓State.asmDrain_only, ↓Only.refl_iff]
    | with_reducible refine Only.ite ?_ ?_
    | exact Only.refl _ _)

theorem State.originateRoute_only {ps0 : List Part} {u0 : State} (s : State) (u : BrgUnit) (i : Nat)
    (hps : ∀ q ∈ ([.raised, .regs, .fwd, .counts] : List Part), q ∈ ps0) :
    Only ps0 u0 (State.originateRoute s u i) ↔ Only ps0 u0 s := by
  refine Only.iff ?_ hps
  unfold State.originateRoute
  try dsimp only
  repeat' (first
    | simp (disch := decide) only [↓State.originate_only, ↓Only.refl_iff]
    | with_reducible refine Only.ite ?_ ?_
    | split
    | exact Only.refl _ _)

theorem brgLookup_only {ps0 : List Part} {u0 : State} (s : State)
    (hps : ∀ q ∈ ([.raised, .limits, .regs, .fwd, .brg, .counts] : List Part), q ∈ ps0) :
    Only ps0 u0 (brgLookup s) ↔ Only ps0 u0 s := by
  refine Only.iff ?_ hps
  unfold brgLookup
  try dsimp only
  repeat' (first
    | simp (disch := decide) only [↓State.bump_only, ↓State.faultMs_low, ↓State.originateRoute_only, ↓Only.with_brg, ↓Only.refl_iff]
    | with_reducible refine Only.foldl (fun _ _ => ?_) ?_
    | with_reducible refine Only.foldl_snd (fun _ _ => ?_) ?_
    | with_reducible refine Only.ite ?_ ?_
    | split
    | exact Only.refl _ _)

theorem State.brgWithdraw_only {ps0 : List Part} {u0 : State} (s : State)
    (hps : ∀ q ∈ ([.raised, .brg] : List Part), q ∈ ps0) :
    Only ps0 u0 (State.brgWithdraw s) ↔ Only ps0 u0 s := by
  refine Only.iff ?_ hps
  unfold State.brgWithdraw
  try dsimp only
  repeat' (first
    | simp (disch := decide) only [↓State.event_only, ↓Only.with_brg, ↓Only.refl_iff]
    | with_reducible refine Only.ite ?_ ?_
    | split
    | exact Only.refl _ _)

theorem State.brgNop_only {ps0 : List Part} {u0 : State} (s : State)
    (hps : ∀ q ∈ ([.regs, .counts] : List Part), q ∈ ps0) :
    Only ps0 u0 (State.brgNop s) ↔ Only ps0 u0 s := by
  refine Only.iff ?_ hps
  unfold State.brgNop
  try dsimp only
  repeat' (first
    | simp (disch := decide) only [↓State.bump_only, ↓Only.refl_iff]
    | with_reducible refine Only.ite ?_ ?_
    | exact Only.refl _ _)

theorem State.brgSwapNow_only {ps0 : List Part} {u0 : State} (s : State)
    (hps : ∀ q ∈ ([.raised, .regs, .brg, .counts] : List Part), q ∈ ps0) :
    Only ps0 u0 (State.brgSwapNow s) ↔ Only ps0 u0 s := by
  refine Only.iff ?_ hps
  unfold State.brgSwapNow
  try dsimp only
  repeat' (first
    | simp (disch := decide) only [↓State.bump_only, ↓State.eventP_only, ↓State.event_only, ↓State.fault_low, ↓Only.with_brg, ↓Only.refl_iff]
    | with_reducible refine Only.ite ?_ ?_
    | split
    | exact Only.refl _ _)

theorem State.brgAtOnce_only {ps0 : List Part} {u0 : State} (s : State)
    (hps : ∀ q ∈ ([.raised, .regs, .brg, .counts] : List Part), q ∈ ps0) :
    Only ps0 u0 (State.brgAtOnce s) ↔ Only ps0 u0 s := by
  refine Only.iff ?_ hps
  unfold State.brgAtOnce
  try dsimp only
  repeat' (first
    | simp (disch := decide) only [↓State.brgSwapNow_only, ↓Only.refl_iff]
    | with_reducible refine Only.ite ?_ ?_
    | split
    | exact Only.refl _ _)

theorem brgSeal_only {ps0 : List Part} {u0 : State} (s : State)
    (hps : ∀ q ∈ ([.regs, .brg, .counts] : List Part), q ∈ ps0) :
    Only ps0 u0 (brgSeal s) ↔ Only ps0 u0 s := by
  refine Only.iff ?_ hps
  unfold brgSeal
  try dsimp only
  repeat' (first
    | simp (disch := decide) only [↓State.brgNop_only, ↓Only.with_brg, ↓Only.refl_iff]
    | with_reducible refine Only.ite ?_ ?_
    | split
    | exact Only.refl _ _)

theorem brgSwap_only {ps0 : List Part} {u0 : State} (s : State)
    (hps : ∀ q ∈ ([.raised, .regs, .brg, .counts] : List Part), q ∈ ps0) :
    Only ps0 u0 (brgSwap s) ↔ Only ps0 u0 s := by
  refine Only.iff ?_ hps
  unfold brgSwap
  try dsimp only
  repeat' (first
    | simp (disch := decide) only [↓State.brgAtOnce_only, ↓Only.with_brg, ↓Only.refl_iff]
    | with_reducible refine Only.ite ?_ ?_
    | split
    | exact Only.refl _ _)

theorem brgDisarm_only {ps0 : List Part} {u0 : State} (s : State)
    (hps : ∀ q ∈ ([.raised, .regs, .brg, .counts] : List Part), q ∈ ps0) :
    Only ps0 u0 (brgDisarm s) ↔ Only ps0 u0 s := by
  refine Only.iff ?_ hps
  unfold brgDisarm
  try dsimp only
  repeat' (first
    | simp (disch := decide) only [↓State.brgWithdraw_only, ↓State.brgNop_only, ↓Only.refl_iff]
    | with_reducible refine Only.ite ?_ ?_
    | split
    | exact Only.refl _ _)

theorem brgClearsh_only {ps0 : List Part} {u0 : State} (s : State)
    (hps : ∀ q ∈ ([.raised, .brg] : List Part), q ∈ ps0) :
    Only ps0 u0 (brgClearsh s) ↔ Only ps0 u0 s := by
  refine Only.iff ?_ hps
  unfold brgClearsh
  try dsimp only
  repeat' (first
    | simp (disch := decide) only [↓State.brgWithdraw_only, ↓Only.with_brg, ↓Only.refl_iff]
    | with_reducible refine Only.foldl (fun _ _ => ?_) ?_
    | with_reducible refine Only.foldl_snd (fun _ _ => ?_) ?_
    | with_reducible refine Only.ite ?_ ?_
    | exact Only.refl _ _)

theorem brgCmd_only {ps0 : List Part} {u0 : State} (src : Src) (v : Nat) (s : State)
    (hps : ∀ q ∈ ([.raised, .regs, .brg, .counts] : List Part), q ∈ ps0) :
    Only ps0 u0 (brgCmd src v s) ↔ Only ps0 u0 s := by
  refine Only.iff ?_ hps
  unfold brgCmd
  try dsimp only
  repeat' (first
    | simp (disch := decide) only [↓brgSeal_only, ↓brgSwap_only, ↓brgDisarm_only, ↓brgClearsh_only, ↓State.ignored_only, ↓Only.refl_iff]
    | with_reducible refine Only.ite ?_ ?_
    | split
    | exact Only.refl _ _)

theorem brgSortDone_only {ps0 : List Part} {u0 : State} (s : State)
    (hps : ∀ q ∈ ([.raised, .regs, .brg, .counts] : List Part), q ∈ ps0) :
    Only ps0 u0 (brgSortDone s) ↔ Only ps0 u0 s := by
  refine Only.iff ?_ hps
  unfold brgSortDone
  try dsimp only
  repeat' (first
    | simp (disch := decide) only [↓State.bump_only, ↓State.fault_low, ↓State.brgAtOnce_only, ↓Only.with_brg, ↓Only.refl_iff]
    | with_reducible refine Only.foldl (fun _ _ => ?_) ?_
    | with_reducible refine Only.foldl_snd (fun _ _ => ?_) ?_
    | with_reducible refine Only.ite ?_ ?_
    | split
    | exact Only.refl _ _)

theorem brgSwapTakes_only {ps0 : List Part} {u0 : State} (s : State)
    (hps : ∀ q ∈ ([.raised, .regs, .brg, .counts] : List Part), q ∈ ps0) :
    Only ps0 u0 (brgSwapTakes s) ↔ Only ps0 u0 s := by
  refine Only.iff ?_ hps
  unfold brgSwapTakes
  try dsimp only
  repeat' (first
    | simp (disch := decide) only [↓State.brgSwapNow_only, ↓Only.refl_iff]
    | with_reducible refine Only.ite ?_ ?_
    | split
    | exact Only.refl _ _)

theorem brgShadowWrite_only {ps0 : List Part} {u0 : State} (off : BitVec 16) (data : List Byte) (s : State)
    (hps : ∀ q ∈ ([.raised, .brg] : List Part), q ∈ ps0) :
    Only ps0 u0 (brgShadowWrite off data s) ↔ Only ps0 u0 s := by
  refine Only.iff ?_ hps
  unfold brgShadowWrite
  try dsimp only
  repeat' (first
    | simp (disch := decide) only [↓State.brgWithdraw_only, ↓Only.with_brg, ↓Only.refl_iff]
    | with_reducible refine Only.ite ?_ ?_
    | split
    | exact Only.refl _ _)

theorem brgAidx_only {ps0 : List Part} {u0 : State} (v : Word) (s : State)
    (hps : ∀ q ∈ ([.regs, .counts] : List Part), q ∈ ps0) :
    Only ps0 u0 (brgAidx v s) ↔ Only ps0 u0 s := by
  refine Only.iff ?_ hps
  unfold brgAidx
  try dsimp only
  repeat' (first
    | simp (disch := decide) only [↓State.setReg_only, ↓State.setNat_only, ↓Only.refl_iff]
    | with_reducible refine Only.foldl (fun _ _ => ?_) ?_
    | with_reducible refine Only.foldl_snd (fun _ _ => ?_) ?_
    | with_reducible refine Only.ite ?_ ?_
    | exact Only.refl _ _)

theorem State.brgMarked_only {ps0 : List Part} {u0 : State} (s : State) (d : Delivered)
    (hps : ∀ q ∈ ([.regs, .counts] : List Part), q ∈ ps0) :
    Only ps0 u0 (State.brgMarked s d) ↔ Only ps0 u0 s := by
  refine Only.iff ?_ hps
  unfold State.brgMarked
  try dsimp only
  repeat' (first
    | simp (disch := decide) only [↓State.bump_only, ↓Only.refl_iff]
    | with_reducible refine Only.ite ?_ ?_
    | split
    | exact Only.refl _ _)

theorem State.brgEgress_only {ps0 : List Part} {u0 : State} (s : State) (d : Delivered)
    (hps : ∀ q ∈ ([.raised, .regs, .fwd, .uarts, .cans, .counts] : List Part), q ∈ ps0) :
    Only ps0 u0 (State.brgEgress s d) ↔ Only ps0 u0 s := by
  refine Only.iff ?_ hps
  unfold State.brgEgress
  try dsimp only
  repeat' (first
    | simp (disch := decide) only [↓State.brgMarked_only, ↓State.egressRefuse_only, ↓State.setCan_only, ↓State.setUart_only, ↓Only.refl_iff]
    | with_reducible refine Only.ite ?_ ?_
    | split
    | exact Only.refl _ _)

theorem State.brgTurn_only {ps0 : List Part} {u0 : State} (s : State) (d : Delivered)
    (hps : ∀ q ∈ ([.raised, .regs, .fwd, .uarts, .cans, .counts] : List Part), q ∈ ps0) :
    Only ps0 u0 (State.brgTurn s d) ↔ Only ps0 u0 s := by
  refine Only.iff ?_ hps
  unfold State.brgTurn
  try dsimp only
  repeat' (first
    | simp (disch := decide) only [↓State.bump_only, ↓State.brgEgress_only, ↓Only.refl_iff]
    | with_reducible refine Only.ite ?_ ?_
    | split
    | exact Only.refl _ _)

theorem brgFrameReceived_only {ps0 : List Part} {u0 : State} (s : State)
    (hps : ∀ q ∈ ([.raised, .regs, .fwd, .uarts, .cans, .counts] : List Part), q ∈ ps0) :
    Only ps0 u0 (brgFrameReceived s) ↔ Only ps0 u0 s := by
  refine Only.iff ?_ hps
  unfold brgFrameReceived
  try dsimp only
  repeat' (first
    | simp (disch := decide) only [↓State.brgTurn_only, ↓Only.with_fwd, ↓Only.refl_iff]
    | with_reducible refine Only.step (State.takeInbox_some (by assumption)) (by decide) ?_
    | with_reducible refine Only.foldl (fun _ _ => ?_) ?_
    | with_reducible refine Only.foldl_snd (fun _ _ => ?_) ?_
    | with_reducible refine Only.ite ?_ ?_
    | split
    | with_reducible refine Only.snd ?_ (by assumption)
    | with_reducible refine Only.fst ?_ (by assumption)
    | exact Only.refl _ _)

theorem brgOrderExpiry_only {ps0 : List Part} {u0 : State} (src : BitVec 12) (slot : BitVec 1) (cls : BitVec 3) (s : State)
    (hps : ∀ q ∈ ([.raised, .now, .regs, .fwd, .uarts, .cans, .counts] : List Part), q ∈ ps0) :
    Only ps0 u0 (brgOrderExpiry src slot cls s) ↔ Only ps0 u0 s := by
  refine Only.iff ?_ hps
  unfold brgOrderExpiry
  try dsimp only
  repeat' (first
    | simp (disch := decide) only [↓State.advanceTo_only, ↓State.brgTurn_only, ↓State.bump_only, ↓Only.with_fwd, ↓Only.refl_iff]
    | with_reducible refine Only.foldl (fun _ _ => ?_) ?_
    | with_reducible refine Only.foldl_snd (fun _ _ => ?_) ?_
    | with_reducible refine Only.ite ?_ ?_
    | split
    | exact Only.refl _ _)

theorem brgEgressCan_only {ps0 : List Part} {u0 : State} (k : BitVec 3) (s : State)
    (hps : ∀ q ∈ ([.raised, .regs, .fwd, .cans, .counts] : List Part), q ∈ ps0) :
    Only ps0 u0 (brgEgressCan k s) ↔ Only ps0 u0 s := by
  refine Only.iff ?_ hps
  unfold brgEgressCan
  try dsimp only
  repeat' (first
    | simp (disch := decide) only [↓State.setCan_only, ↓State.egressRefuse_only, ↓Only.refl_iff]
    | with_reducible refine Only.ite ?_ ?_
    | split
    | exact Only.refl _ _)

theorem brgEgressUart_only {ps0 : List Part} {u0 : State} (ch : BitVec 5) (s : State)
    (hps : ∀ q ∈ ([.uarts] : List Part), q ∈ ps0) :
    Only ps0 u0 (brgEgressUart ch s) ↔ Only ps0 u0 s := by
  refine Only.iff ?_ hps
  unfold brgEgressUart
  try dsimp only
  repeat' (first
    | simp (disch := decide) only [↓State.setUart_only, ↓Only.refl_iff]
    | with_reducible refine Only.ite ?_ ?_
    | split
    | exact Only.refl _ _)

theorem brgErrorReturn_only {ps0 : List Part} {u0 : State} (s : State)
    (hps : ∀ q ∈ ([.raised, .regs, .fwd, .counts] : List Part), q ∈ ps0) :
    Only ps0 u0 (brgErrorReturn s) ↔ Only ps0 u0 s := by
  refine Only.iff ?_ hps
  unfold brgErrorReturn
  try dsimp only
  repeat' (first
    | simp (disch := decide) only [↓State.brgMarked_only, ↓State.bump_only, ↓State.fault_low, ↓State.eventP_only, ↓Only.refl_iff]
    | with_reducible refine Only.step (State.takeInbox_some (by assumption)) (by decide) ?_
    | with_reducible refine Only.ite ?_ ?_
    | split
    | with_reducible refine Only.snd ?_ (by assumption)
    | with_reducible refine Only.fst ?_ (by assumption)
    | exact Only.refl _ _)

theorem State.setMsgq_only {ps0 : List Part} {u0 : State} (s : State) (f : PortFifo)
    (hps : ∀ q ∈ ([.raised, .brg] : List Part), q ∈ ps0) :
    Only ps0 u0 (State.setMsgq s f) ↔ Only ps0 u0 s := by
  refine Only.iff ?_ hps
  unfold State.setMsgq
  try dsimp only
  repeat' (first
    | simp (disch := decide) only [↓State.fifoNotice_only, ↓Only.with_brg, ↓Only.refl_iff]
    | with_reducible refine Only.ite ?_ ?_
    | split
    | with_reducible refine Only.snd ?_ (by assumption)
    | with_reducible refine Only.fst ?_ (by assumption)
    | exact Only.refl _ _)

theorem brgMessage_only {ps0 : List Part} {u0 : State} (s : State)
    (hps : ∀ q ∈ ([.raised, .limits, .regs, .fwd, .brg, .counts] : List Part), q ∈ ps0) :
    Only ps0 u0 (brgMessage s) ↔ Only ps0 u0 s := by
  refine Only.iff ?_ hps
  unfold brgMessage
  try dsimp only
  repeat' (first
    | simp (disch := decide) only [↓State.brgMarked_only, ↓State.bump_only, ↓State.setMsgq_only, ↓State.faultMs_low, ↓Only.refl_iff]
    | with_reducible refine Only.step (State.takeInbox_some (by assumption)) (by decide) ?_
    | with_reducible refine Only.ite ?_ ?_
    | split
    | with_reducible refine Only.snd ?_ (by assumption)
    | with_reducible refine Only.fst ?_ (by assumption)
    | exact Only.refl _ _)

theorem State.msgPop_only {ps0 : List Part} {u0 : State} (s : State) (ecc : EccResult)
    (hps : ∀ q ∈ ([.raised, .regs, .brg, .counts] : List Part), q ∈ ps0) :
    Only ps0 u0 (State.msgPop s ecc).2 ↔ Only ps0 u0 s := by
  refine Only.iff ?_ hps
  unfold State.msgPop
  try dsimp only
  repeat' (first
    | simp (disch := decide) only [↓State.popReport_only, ↓State.setMsgq_only, ↓Only.refl_iff]
    | with_reducible refine Only.ite ?_ ?_
    | split
    | exact Only.refl _ _)

theorem State.brgFresh_only {ps0 : List Part} {u0 : State} (s : State)
    (hps : ∀ q ∈ ([.brg] : List Part), q ∈ ps0) :
    Only ps0 u0 (State.brgFresh s) ↔ Only ps0 u0 s := by
  refine Only.iff ?_ hps
  unfold State.brgFresh
  try dsimp only
  repeat' (first
    | simp (disch := decide) only [↓Only.with_brg, ↓Only.refl_iff]
    | with_reducible refine Only.ite ?_ ?_
    | exact Only.refl _ _)

theorem State.brgStopping_only {ps0 : List Part} {u0 : State} (s : State)
    (hps : ∀ q ∈ ([.raised, .regs, .fwd, .cans, .brg, .counts] : List Part), q ∈ ps0) :
    Only ps0 u0 (State.brgStopping s) ↔ Only ps0 u0 s := by
  refine Only.iff ?_ hps
  unfold State.brgStopping
  try dsimp only
  repeat' (first
    | simp (disch := decide) only [↓State.bumpBy_only, ↓State.egressRefuse_only, ↓State.setCan_only, ↓Only.with_brg, ↓Only.refl_iff]
    | with_reducible refine Only.foldl (fun _ _ => ?_) ?_
    | with_reducible refine Only.foldl_snd (fun _ _ => ?_) ?_
    | with_reducible refine Only.ite ?_ ?_
    | exact Only.refl _ _)

theorem State.setEngine_only {ps0 : List Part} {u0 : State} (s : State) (i : Nat) (x : Engine)
    (hps : ∀ q ∈ ([.engines] : List Part), q ∈ ps0) :
    Only ps0 u0 (State.setEngine s i x) ↔ Only ps0 u0 s := by
  refine Only.iff ?_ hps
  unfold State.setEngine
  try dsimp only
  repeat' (first
    | simp (disch := decide) only [↓Only.with_engines, ↓Only.refl_iff]
    | with_reducible refine Only.ite ?_ ?_
    | exact Only.refl _ _)

theorem State.markFailing_only {ps0 : List Part} {u0 : State} (s : State) (i : Nat)
    (hps : ∀ q ∈ ([.fronds] : List Part), q ∈ ps0) :
    Only ps0 u0 (State.markFailing s i) ↔ Only ps0 u0 s := by
  refine Only.iff ?_ hps
  unfold State.markFailing
  try dsimp only
  repeat' (first
    | simp (disch := decide) only [↓State.setFrond_only, ↓Only.refl_iff]
    | with_reducible refine Only.ite ?_ ?_
    | split
    | exact Only.refl _ _)

theorem State.engError_only {ps0 : List Part} {u0 : State} (s : State) (i cause : Nat)
    (hps : ∀ q ∈ ([.raised, .regs, .funcs, .engines, .fronds, .counts] : List Part), q ∈ ps0) :
    Only ps0 u0 (State.engError s i cause) ↔ Only ps0 u0 s := by
  refine Only.iff ?_ hps
  unfold State.engError
  try dsimp only
  repeat' (first
    | simp (disch := decide) only [↓State.setEngine_only, ↓State.setFunc_only, ↓State.bump_only, ↓State.fault_low, ↓State.markFailing_only, ↓Only.refl_iff]
    | with_reducible refine Only.ite ?_ ?_
    | split
    | exact Only.refl _ _)

theorem State.engineDrive_only {ps0 : List Part} {u0 : State} (s : State) (l : Nat) (v : Bool)
    (hps : ∀ q ∈ ([.out, .regs, .lines, .counts] : List Part), q ∈ ps0) :
    Only ps0 u0 (State.engineDrive s l v) ↔ Only ps0 u0 s := by
  refine Only.iff ?_ hps
  unfold State.engineDrive
  try dsimp only
  repeat' (first
    | simp (disch := decide) only [↓State.setLine_only, ↓State.lineCommand_only, ↓Only.refl_iff]
    | with_reducible refine Only.ite ?_ ?_
    | split
    | exact Only.refl _ _)

theorem State.pinCommands_only {ps0 : List Part} {u0 : State} (s : State) (i : Nat) (ps : List (Nat × Bool))
    (hps : ∀ q ∈ ([.out, .regs, .lines, .engines, .counts] : List Part), q ∈ ps0) :
    Only ps0 u0 (State.pinCommands s i ps) ↔ Only ps0 u0 s := by
  refine Only.iff ?_ hps
  unfold State.pinCommands
  try dsimp only
  repeat' (first
    | simp (disch := decide) only [↓State.setEngine_only, ↓State.engineDrive_only, ↓Only.refl_iff]
    | with_reducible refine Only.foldl (fun _ _ => ?_) ?_
    | with_reducible refine Only.foldl_snd (fun _ _ => ?_) ?_
    | with_reducible refine Only.ite ?_ ?_
    | split
    | exact Only.refl _ _)

theorem enginePinDeferred_only {ps0 : List Part} {u0 : State} (l : BitVec 8) (s : State)
    (hps : ∀ q ∈ ([.out, .now, .regs, .lines, .counts] : List Part), q ∈ ps0) :
    Only ps0 u0 (enginePinDeferred l s) ↔ Only ps0 u0 s := by
  refine Only.iff ?_ hps
  unfold enginePinDeferred
  try dsimp only
  repeat' (first
    | simp (disch := decide) only [↓State.advanceTo_only, ↓State.setLine_only, ↓State.lineCommand_only, ↓Only.refl_iff]
    | with_reducible refine Only.ite ?_ ?_
    | split
    | exact Only.refl _ _)

theorem State.engNext_only {ps0 : List Part} {u0 : State} (s : State) (i w : Nat) (target : Option Nat) (stallEnd : Bool)
    (hps : ∀ q ∈ ([.raised, .regs, .funcs, .engines, .fronds, .counts] : List Part), q ∈ ps0) :
    Only ps0 u0 (State.engNext s i w target stallEnd) ↔ Only ps0 u0 s := by
  refine Only.iff ?_ hps
  unfold State.engNext
  try dsimp only
  repeat' (first
    | simp (disch := decide) only [↓State.engError_only, ↓State.setEngine_only, ↓Only.refl_iff]
    | with_reducible refine Only.getD (fun _ _ => ?_) ?_
    | with_reducible refine Only.ite ?_ ?_
    | split
    | exact Only.refl _ _)

theorem State.engStall_only {ps0 : List Part} {u0 : State} (s : State) (i : Nat)
    (hps : ∀ q ∈ ([.engines] : List Part), q ∈ ps0) :
    Only ps0 u0 (State.engStall s i) ↔ Only ps0 u0 s := by
  refine Only.iff ?_ hps
  unfold State.engStall
  try dsimp only
  repeat' (first
    | simp (disch := decide) only [↓State.setEngine_only, ↓Only.refl_iff]
    | with_reducible refine Only.ite ?_ ?_
    | exact Only.refl _ _)

theorem State.engIssue_via {ps : List Part} {u : State} (s : State) (nn : BitVec 4) (e : BitVec 2) (want : Nat → Bool) (own : Bool)
    (f : State → Nat → Nat → State) (hps : ∀ q ∈ ([.out, .raised, .now, .regs, .funcs, .lines, .engines, .fronds, .counts] : List Part), q ∈ ps) (hf : ∀ t m n, Only ps t (f t m n)) (h : Only ps u s) :
    Only ps u (s.engIssue nn e want own f) := by
  have h1 : ∀ t i k, Only ps t (State.pinCommands t i k) := fun t i k =>
    (State.pinCommands_only t i k (fun q hq => hps q (by revert q; decide))).2 (Only.refl _ _)
  have h2 : ∀ t i k, Only ps t (State.engError t i k) := fun t i k =>
    (State.engError_only t i k (fun q hq => hps q (by revert q; decide))).2 (Only.refl _ _)
  have h3 : ∀ t k, Only ps t (State.advanceTo t k) := fun t k =>
    (State.advanceTo_only t k (fun q hq => hps q (by revert q; decide))).2 (Only.refl _ _)
  unfold State.engIssue
  dsimp only
  refine Only.ite h (Only.ite (h.trans ((h3 _ _).trans ((h1 _ _ _).trans (h2 _ _ _)))) (Only.ite h (Only.ite ?_ ?_)))
  · refine Only.trans ?_ (hf _ _ _)
    exact Only.ite (h.trans (h3 _ _)) (h.trans ((h3 _ _).trans (h1 _ _ _)))
  · refine Only.trans ?_ (h2 _ _ _)
    refine Only.ite (Only.trans ?_ (h1 _ _ _)) ?_ <;> exact Only.ite (h.trans (h3 _ _)) (h.trans ((h3 _ _).trans (h1 _ _ _)))

theorem engWait_only {ps0 : List Part} {u0 : State} (nn : BitVec 4) (e : BitVec 2) (s : State)
    (hps : ∀ q ∈ ([.out, .raised, .now, .regs, .funcs, .lines, .engines, .fronds, .counts] : List Part), q ∈ ps0) :
    Only ps0 u0 (engWait nn e s) ↔ Only ps0 u0 s := by
  refine Only.iff ?_ hps
  unfold engWait
  try dsimp only
  repeat' (first
    | simp (disch := decide) only [↓State.setEngine_only, ↓State.engNext_only, ↓State.engStall_only, ↓Only.refl_iff]
    | with_reducible refine State.engIssue_via _ _ _ _ _ _ (by decide) (fun _ _ _ => ?_) ?_
    | with_reducible refine Only.ite ?_ ?_
    | split
    | exact Only.refl _ _)

theorem State.setMarkFlag_only {ps0 : List Part} {u0 : State} (s : State) (nn k : Nat) (v : Bool)
    (hps : ∀ q ∈ ([.fronds] : List Part), q ∈ ps0) :
    Only ps0 u0 (State.setMarkFlag s nn k v) ↔ Only ps0 u0 s := by
  refine Only.iff ?_ hps
  unfold State.setMarkFlag
  try dsimp only
  repeat' (first
    | simp (disch := decide) only [↓State.setFrond_only, ↓Only.refl_iff]
    | with_reducible refine Only.ite ?_ ?_
    | split
    | exact Only.refl _ _)

theorem engWaitFlag_only {ps0 : List Part} {u0 : State} (nn : BitVec 4) (e : BitVec 2) (s : State)
    (hps : ∀ q ∈ ([.out, .raised, .now, .regs, .funcs, .lines, .engines, .fronds, .counts] : List Part), q ∈ ps0) :
    Only ps0 u0 (engWaitFlag nn e s) ↔ Only ps0 u0 s := by
  refine Only.iff ?_ hps
  unfold engWaitFlag
  try dsimp only
  repeat' (first
    | simp (disch := decide) only [↓State.setMarkFlag_only, ↓State.engNext_only, ↓State.engStall_only, ↓Only.refl_iff]
    | with_reducible refine State.engIssue_via _ _ _ _ _ _ (by decide) (fun _ _ _ => ?_) ?_
    | with_reducible refine Only.ite ?_ ?_
    | split
    | exact Only.refl _ _)

theorem State.atDone_only {ps0 : List Part} {u0 : State} (s : State) (i w : Nat) (stallEnd : Bool)
    (hps : ∀ q ∈ ([.raised, .regs, .funcs, .engines, .fronds, .counts] : List Part), q ∈ ps0) :
    Only ps0 u0 (State.atDone s i w stallEnd) ↔ Only ps0 u0 s := by
  refine Only.iff ?_ hps
  unfold State.atDone
  try dsimp only
  repeat' (first
    | simp (disch := decide) only [↓State.setEngine_only, ↓State.engNext_only, ↓Only.refl_iff]
    | with_reducible refine Only.ite ?_ ?_
    | split
    | exact Only.refl _ _)

theorem engAt_only {ps0 : List Part} {u0 : State} (nn : BitVec 4) (e : BitVec 2) (s : State)
    (hps : ∀ q ∈ ([.out, .raised, .now, .regs, .funcs, .lines, .engines, .fronds, .counts] : List Part), q ∈ ps0) :
    Only ps0 u0 (engAt nn e s) ↔ Only ps0 u0 s := by
  refine Only.iff ?_ hps
  unfold engAt
  try dsimp only
  repeat' (first
    | simp (disch := decide) only [↓State.atDone_only, ↓State.engStall_only, ↓Only.refl_iff]
    | with_reducible refine State.engIssue_via _ _ _ _ _ _ (by decide) (fun _ _ _ => ?_) ?_
    | with_reducible refine Only.ite ?_ ?_
    | split
    | exact Only.refl _ _)

theorem engShiftOut_only {ps0 : List Part} {u0 : State} (nn : BitVec 4) (e : BitVec 2) (s : State)
    (hps : ∀ q ∈ ([.out, .raised, .now, .regs, .funcs, .lines, .engines, .fronds, .counts] : List Part), q ∈ ps0) :
    Only ps0 u0 (engShiftOut nn e s) ↔ Only ps0 u0 s := by
  refine Only.iff ?_ hps
  unfold engShiftOut
  try dsimp only
  repeat' (first
    | simp (disch := decide) only [↓State.pinCommands_only, ↓State.engError_only, ↓State.setEngine_only, ↓State.engNext_only, ↓Only.refl_iff]
    | with_reducible refine State.engIssue_via _ _ _ _ _ _ (by decide) (fun _ _ _ => ?_) ?_
    | with_reducible refine Only.ite ?_ ?_
    | split
    | exact Only.refl _ _)

theorem engShiftIn_only {ps0 : List Part} {u0 : State} (nn : BitVec 4) (e : BitVec 2) (s : State)
    (hps : ∀ q ∈ ([.out, .raised, .now, .regs, .funcs, .lines, .engines, .fronds, .counts] : List Part), q ∈ ps0) :
    Only ps0 u0 (engShiftIn nn e s) ↔ Only ps0 u0 s := by
  refine Only.iff ?_ hps
  unfold engShiftIn
  try dsimp only
  repeat' (first
    | simp (disch := decide) only [↓State.engError_only, ↓State.setEngine_only, ↓State.engNext_only, ↓Only.refl_iff]
    | with_reducible refine State.engIssue_via _ _ _ _ _ _ (by decide) (fun _ _ _ => ?_) ?_
    | with_reducible refine Only.foldl (fun _ _ => ?_) ?_
    | with_reducible refine Only.foldl_snd (fun _ _ => ?_) ?_
    | with_reducible refine Only.ite ?_ ?_
    | split
    | exact Only.refl _ _)

theorem State.takeHead_only {ps0 : List Part} {u0 : State} (s : State) (i w : Nat) (ecc : EccResult) (stallEnd : Bool)
    (hps : ∀ q ∈ ([.raised, .regs, .funcs, .engines, .fronds, .counts] : List Part), q ∈ ps0) :
    Only ps0 u0 (State.takeHead s i w ecc stallEnd) ↔ Only ps0 u0 s := by
  refine Only.iff ?_ hps
  unfold State.takeHead
  try dsimp only
  repeat' (first
    | simp (disch := decide) only [↓State.setEngine_only, ↓State.engError_only, ↓State.bump_only, ↓State.fault_low, ↓State.engNext_only, ↓Only.refl_iff]
    | with_reducible refine Only.ite ?_ ?_
    | split
    | exact Only.refl _ _)

theorem engTake_only {ps0 : List Part} {u0 : State} (nn : BitVec 4) (e : BitVec 2) (ecc : EccResult) (s : State)
    (hps : ∀ q ∈ ([.out, .raised, .now, .regs, .funcs, .lines, .engines, .fronds, .counts] : List Part), q ∈ ps0) :
    Only ps0 u0 (engTake nn e ecc s) ↔ Only ps0 u0 s := by
  refine Only.iff ?_ hps
  unfold engTake
  try dsimp only
  repeat' (first
    | simp (disch := decide) only [↓State.engError_only, ↓State.setEngine_only, ↓State.engNext_only, ↓State.engStall_only, ↓State.takeHead_only, ↓Only.refl_iff]
    | with_reducible refine State.engIssue_via _ _ _ _ _ _ (by decide) (fun _ _ _ => ?_) ?_
    | with_reducible refine Only.ite ?_ ?_
    | split
    | exact Only.refl _ _)

theorem State.setEngRx_only {ps0 : List Part} {u0 : State} (s : State) (i : Nat) (f : PortFifo)
    (hps : ∀ q ∈ ([.raised, .engines] : List Part), q ∈ ps0) :
    Only ps0 u0 (State.setEngRx s i f) ↔ Only ps0 u0 s := by
  refine Only.iff ?_ hps
  unfold State.setEngRx
  try dsimp only
  repeat' (first
    | simp (disch := decide) only [↓State.fifoNotice_only, ↓State.setEngine_only, ↓Only.refl_iff]
    | with_reducible refine Only.ite ?_ ?_
    | split
    | with_reducible refine Only.snd ?_ (by assumption)
    | with_reducible refine Only.fst ?_ (by assumption)
    | exact Only.refl _ _)

theorem State.emitDone_only {ps0 : List Part} {u0 : State} (s : State) (i w : Nat) (stallEnd : Bool)
    (hps : ∀ q ∈ ([.raised, .limits, .regs, .funcs, .engines, .fronds, .counts] : List Part), q ∈ ps0) :
    Only ps0 u0 (State.emitDone s i w stallEnd) ↔ Only ps0 u0 s := by
  refine Only.iff ?_ hps
  unfold State.emitDone
  try dsimp only
  repeat' (first
    | simp (disch := decide) only [↓State.setEngRx_only, ↓State.bump_only, ↓State.faultMs_low, ↓State.setEngine_only, ↓State.engNext_only, ↓Only.refl_iff]
    | with_reducible refine Only.ite ?_ ?_
    | split
    | exact Only.refl _ _)

theorem engEmit_only {ps0 : List Part} {u0 : State} (nn : BitVec 4) (e : BitVec 2) (s : State)
    (hps : ∀ q ∈ ([.out, .raised, .now, .limits, .regs, .funcs, .lines, .engines, .fronds, .counts] : List Part), q ∈ ps0) :
    Only ps0 u0 (engEmit nn e s) ↔ Only ps0 u0 s := by
  refine Only.iff ?_ hps
  unfold engEmit
  try dsimp only
  repeat' (first
    | simp (disch := decide) only [↓State.engError_only, ↓State.engStall_only, ↓State.emitDone_only, ↓Only.refl_iff]
    | with_reducible refine State.engIssue_via _ _ _ _ _ _ (by decide) (fun _ _ _ => ?_) ?_
    | with_reducible refine Only.ite ?_ ?_
    | split
    | exact Only.refl _ _)

theorem engDrive_only {ps0 : List Part} {u0 : State} (op : Nat) (level : Engine → Nat → Nat → Bool) (nn : BitVec 4) (e : BitVec 2) (s : State)
    (hps : ∀ q ∈ ([.out, .raised, .now, .regs, .funcs, .lines, .engines, .fronds, .counts] : List Part), q ∈ ps0) :
    Only ps0 u0 (engDrive op level nn e s) ↔ Only ps0 u0 s := by
  refine Only.iff ?_ hps
  unfold engDrive
  try dsimp only
  repeat' (first
    | simp (disch := decide) only [↓State.pinCommands_only, ↓State.engNext_only, ↓Only.refl_iff]
    | with_reducible refine State.engIssue_via _ _ _ _ _ _ (by decide) (fun _ _ _ => ?_) ?_
    | with_reducible refine Only.ite ?_ ?_
    | exact Only.refl _ _)

theorem engDriveOff_only {ps0 : List Part} {u0 : State} (a1 : BitVec 4) (a2 : BitVec 2) (s0 : State)
    (hps : ∀ q ∈ ([.out, .raised, .now, .regs, .funcs, .lines, .engines, .fronds, .counts] : List Part), q ∈ ps0) :
    Only ps0 u0 (engDriveOff a1 a2 s0) ↔ Only ps0 u0 s0 := by
  refine Only.iff ?_ hps
  unfold engDriveOff
  try dsimp only
  repeat' (first
    | simp (disch := decide) only [↓engDrive_only, ↓Only.refl_iff]
    | with_reducible refine Only.ite ?_ ?_
    | exact Only.refl _ _)

theorem engDriveOn_only {ps0 : List Part} {u0 : State} (a1 : BitVec 4) (a2 : BitVec 2) (s0 : State)
    (hps : ∀ q ∈ ([.out, .raised, .now, .regs, .funcs, .lines, .engines, .fronds, .counts] : List Part), q ∈ ps0) :
    Only ps0 u0 (engDriveOn a1 a2 s0) ↔ Only ps0 u0 s0 := by
  refine Only.iff ?_ hps
  unfold engDriveOn
  try dsimp only
  repeat' (first
    | simp (disch := decide) only [↓engDrive_only, ↓Only.refl_iff]
    | with_reducible refine Only.ite ?_ ?_
    | exact Only.refl _ _)

theorem engDriveToggle_only {ps0 : List Part} {u0 : State} (a1 : BitVec 4) (a2 : BitVec 2) (s0 : State)
    (hps : ∀ q ∈ ([.out, .raised, .now, .regs, .funcs, .lines, .engines, .fronds, .counts] : List Part), q ∈ ps0) :
    Only ps0 u0 (engDriveToggle a1 a2 s0) ↔ Only ps0 u0 s0 := by
  refine Only.iff ?_ hps
  unfold engDriveToggle
  try dsimp only
  repeat' (first
    | simp (disch := decide) only [↓engDrive_only, ↓Only.refl_iff]
    | with_reducible refine Only.ite ?_ ?_
    | exact Only.refl _ _)

theorem engDriveFromX_only {ps0 : List Part} {u0 : State} (a1 : BitVec 4) (a2 : BitVec 2) (s0 : State)
    (hps : ∀ q ∈ ([.out, .raised, .now, .regs, .funcs, .lines, .engines, .fronds, .counts] : List Part), q ∈ ps0) :
    Only ps0 u0 (engDriveFromX a1 a2 s0) ↔ Only ps0 u0 s0 := by
  refine Only.iff ?_ hps
  unfold engDriveFromX
  try dsimp only
  repeat' (first
    | simp (disch := decide) only [↓engDrive_only, ↓Only.refl_iff]
    | with_reducible refine Only.ite ?_ ?_
    | exact Only.refl _ _)

theorem engCountLoad_only {ps0 : List Part} {u0 : State} (nn : BitVec 4) (e : BitVec 2) (s : State)
    (hps : ∀ q ∈ ([.out, .raised, .now, .regs, .funcs, .lines, .engines, .fronds, .counts] : List Part), q ∈ ps0) :
    Only ps0 u0 (engCountLoad nn e s) ↔ Only ps0 u0 s := by
  refine Only.iff ?_ hps
  unfold engCountLoad
  try dsimp only
  repeat' (first
    | simp (disch := decide) only [↓State.setEngine_only, ↓State.engNext_only, ↓Only.refl_iff]
    | with_reducible refine State.engIssue_via _ _ _ _ _ _ (by decide) (fun _ _ _ => ?_) ?_
    | with_reducible refine Only.ite ?_ ?_
    | exact Only.refl _ _)

theorem engCountDecrement_only {ps0 : List Part} {u0 : State} (nn : BitVec 4) (e : BitVec 2) (s : State)
    (hps : ∀ q ∈ ([.out, .raised, .now, .regs, .funcs, .lines, .engines, .fronds, .counts] : List Part), q ∈ ps0) :
    Only ps0 u0 (engCountDecrement nn e s) ↔ Only ps0 u0 s := by
  refine Only.iff ?_ hps
  unfold engCountDecrement
  try dsimp only
  repeat' (first
    | simp (disch := decide) only [↓State.setEngine_only, ↓State.engNext_only, ↓Only.refl_iff]
    | with_reducible refine State.engIssue_via _ _ _ _ _ _ (by decide) (fun _ _ _ => ?_) ?_
    | with_reducible refine Only.ite ?_ ?_
    | split
    | exact Only.refl _ _)

theorem engBranch_only {ps0 : List Part} {u0 : State} (nn : BitVec 4) (e : BitVec 2) (s : State)
    (hps : ∀ q ∈ ([.out, .raised, .now, .regs, .funcs, .lines, .engines, .fronds, .counts] : List Part), q ∈ ps0) :
    Only ps0 u0 (engBranch nn e s) ↔ Only ps0 u0 s := by
  refine Only.iff ?_ hps
  unfold engBranch
  try dsimp only
  repeat' (first
    | simp (disch := decide) only [↓State.engNext_only, ↓Only.refl_iff]
    | with_reducible refine State.engIssue_via _ _ _ _ _ _ (by decide) (fun _ _ _ => ?_) ?_
    | with_reducible refine Only.ite ?_ ?_
    | split
    | exact Only.refl _ _)

theorem engMark_only {ps0 : List Part} {u0 : State} (nn : BitVec 4) (e : BitVec 2) (s : State)
    (hps : ∀ q ∈ ([.out, .raised, .now, .regs, .funcs, .lines, .engines, .fronds, .counts] : List Part), q ∈ ps0) :
    Only ps0 u0 (engMark nn e s) ↔ Only ps0 u0 s := by
  refine Only.iff ?_ hps
  unfold engMark
  try dsimp only
  repeat' (first
    | simp (disch := decide) only [↓State.eventP_only, ↓State.setMarkFlag_only, ↓State.engNext_only, ↓Only.refl_iff]
    | with_reducible refine State.engIssue_via _ _ _ _ _ _ (by decide) (fun _ _ _ => ?_) ?_
    | with_reducible refine Only.ite ?_ ?_
    | split
    | exact Only.refl _ _)

theorem engHalt_only {ps0 : List Part} {u0 : State} (nn : BitVec 4) (e : BitVec 2) (s : State)
    (hps : ∀ q ∈ ([.out, .raised, .now, .regs, .funcs, .lines, .engines, .fronds, .counts] : List Part), q ∈ ps0) :
    Only ps0 u0 (engHalt nn e s) ↔ Only ps0 u0 s := by
  refine Only.iff ?_ hps
  unfold engHalt
  try dsimp only
  repeat' (first
    | simp (disch := decide) only [↓State.eventP_only, ↓State.setFunc_only, ↓Only.refl_iff]
    | with_reducible refine State.engIssue_via _ _ _ _ _ _ (by decide) (fun _ _ _ => ?_) ?_
    | with_reducible refine Only.ite ?_ ?_
    | split
    | exact Only.refl _ _)

theorem engStallComplete_only {ps0 : List Part} {u0 : State} (nn : BitVec 4) (e : BitVec 2) (ecc : EccResult) (s : State)
    (hps : ∀ q ∈ ([.raised, .now, .limits, .regs, .funcs, .engines, .fronds, .counts] : List Part), q ∈ ps0) :
    Only ps0 u0 (engStallComplete nn e ecc s) ↔ Only ps0 u0 s := by
  refine Only.iff ?_ hps
  unfold engStallComplete
  try dsimp only
  repeat' (first
    | simp (disch := decide) only [↓State.setMarkFlag_only, ↓State.engNext_only, ↓State.advanceTo_only, ↓State.atDone_only, ↓State.takeHead_only, ↓State.emitDone_only, ↓Only.refl_iff]
    | with_reducible refine Only.ite ?_ ?_
    | split
    | exact Only.refl _ _)

theorem engDelayEnd_only {ps0 : List Part} {u0 : State} (nn : BitVec 4) (e : BitVec 2) (s : State)
    (hps : ∀ q ∈ ([.now, .engines] : List Part), q ∈ ps0) :
    Only ps0 u0 (engDelayEnd nn e s) ↔ Only ps0 u0 s := by
  refine Only.iff ?_ hps
  unfold engDelayEnd
  try dsimp only
  repeat' (first
    | simp (disch := decide) only [↓State.advanceTo_only, ↓State.setEngine_only, ↓Only.refl_iff]
    | with_reducible refine Only.ite ?_ ?_
    | split
    | exact Only.refl _ _)

theorem engTxStage_only {ps0 : List Part} {u0 : State} (src : Src) (nn : BitVec 4) (e : BitVec 2) (v : BitVec 16) (s : State)
    (hps : ∀ q ∈ ([.staged] : List Part), q ∈ ps0) :
    Only ps0 u0 (engTxStage src nn e v s) ↔ Only ps0 u0 s := by
  refine Only.iff ?_ hps
  unfold engTxStage
  try dsimp only
  repeat' (first
    | simp (disch := decide) only [↓Only.with_staged, ↓Only.refl_iff]
    | with_reducible refine Only.ite ?_ ?_
    | exact Only.refl _ _)

theorem engTxAppend_only {ps0 : List Part} {u0 : State} (src : Src) (nn : BitVec 4) (e : BitVec 2) (v : BitVec 16) (s : State)
    (hps : ∀ q ∈ ([.raised, .limits, .regs, .staged, .engines, .counts] : List Part), q ∈ ps0) :
    Only ps0 u0 (engTxAppend src nn e v s) ↔ Only ps0 u0 s := by
  refine Only.iff ?_ hps
  unfold engTxAppend
  try dsimp only
  repeat' (first
    | simp (disch := decide) only [↓State.bump_only, ↓State.faultMs_low, ↓State.setEngine_only, ↓Only.with_staged, ↓Only.refl_iff]
    | with_reducible refine Only.ite ?_ ?_
    | split
    | exact Only.refl _ _)

theorem State.engRxPop_only {ps0 : List Part} {u0 : State} (s : State) (i : Nat) (ecc : EccResult)
    (hps : ∀ q ∈ ([.raised, .regs, .engines, .counts] : List Part), q ∈ ps0) :
    Only ps0 u0 (State.engRxPop s i ecc).2 ↔ Only ps0 u0 s := by
  refine Only.iff ?_ hps
  unfold State.engRxPop
  try dsimp only
  repeat' (first
    | simp (disch := decide) only [↓State.popReport_only, ↓State.setEngRx_only, ↓Only.refl_iff]
    | with_reducible refine Only.ite ?_ ?_
    | split
    | exact Only.refl _ _)

theorem engQueueCmd_only {ps0 : List Part} {u0 : State} (op : Nat) (src : Src) (nn : BitVec 4) (e : BitVec 2) (s : State)
    (hps : ∀ q ∈ ([.raised, .regs, .engines, .counts] : List Part), q ∈ ps0) :
    Only ps0 u0 (engQueueCmd op src nn e s) ↔ Only ps0 u0 s := by
  refine Only.iff ?_ hps
  unfold engQueueCmd
  try dsimp only
  repeat' (first
    | simp (disch := decide) only [↓State.ignored_only, ↓State.setEngine_only, ↓State.setEngRx_only, ↓Only.refl_iff]
    | with_reducible refine Only.ite ?_ ?_
    | split
    | exact Only.refl _ _)

theorem engEmptyTx_only {ps0 : List Part} {u0 : State} (a1 : Src) (a2 : BitVec 4) (a3 : BitVec 2) (s0 : State)
    (hps : ∀ q ∈ ([.raised, .regs, .engines, .counts] : List Part), q ∈ ps0) :
    Only ps0 u0 (engEmptyTx a1 a2 a3 s0) ↔ Only ps0 u0 s0 := by
  refine Only.iff ?_ hps
  unfold engEmptyTx
  try dsimp only
  repeat' (first
    | simp (disch := decide) only [↓engQueueCmd_only, ↓Only.refl_iff]
    | with_reducible refine Only.ite ?_ ?_
    | exact Only.refl _ _)

theorem engEmptyRx_only {ps0 : List Part} {u0 : State} (a1 : Src) (a2 : BitVec 4) (a3 : BitVec 2) (s0 : State)
    (hps : ∀ q ∈ ([.raised, .regs, .engines, .counts] : List Part), q ∈ ps0) :
    Only ps0 u0 (engEmptyRx a1 a2 a3 s0) ↔ Only ps0 u0 s0 := by
  refine Only.iff ?_ hps
  unfold engEmptyRx
  try dsimp only
  repeat' (first
    | simp (disch := decide) only [↓engQueueCmd_only, ↓Only.refl_iff]
    | with_reducible refine Only.ite ?_ ?_
    | exact Only.refl _ _)

theorem engEmptyBoth_only {ps0 : List Part} {u0 : State} (a1 : Src) (a2 : BitVec 4) (a3 : BitVec 2) (s0 : State)
    (hps : ∀ q ∈ ([.raised, .regs, .engines, .counts] : List Part), q ∈ ps0) :
    Only ps0 u0 (engEmptyBoth a1 a2 a3 s0) ↔ Only ps0 u0 s0 := by
  refine Only.iff ?_ hps
  unfold engEmptyBoth
  try dsimp only
  repeat' (first
    | simp (disch := decide) only [↓engQueueCmd_only, ↓Only.refl_iff]
    | with_reducible refine Only.ite ?_ ?_
    | exact Only.refl _ _)

theorem State.txdChanged_only {ps0 : List Part} {u0 : State} (s : State) (i : Nat)
    (hps : ∀ q ∈ ([.raised, .engines] : List Part), q ∈ ps0) :
    Only ps0 u0 (State.txdChanged s i) ↔ Only ps0 u0 s := by
  refine Only.iff ?_ hps
  unfold State.txdChanged
  try dsimp only
  repeat' (first
    | simp (disch := decide) only [↓State.setEngine_only, ↓State.setEngRx_only, ↓Only.refl_iff]
    | with_reducible refine Only.ite ?_ ?_
    | exact Only.refl _ _)

theorem progStage_only {ps0 : List Part} {u0 : State} (src : Src) (nn : BitVec 4) (w : BitVec 6) (v : Word) (s : State)
    (hps : ∀ q ∈ ([.raised, .regs, .staged, .counts] : List Part), q ∈ ps0) :
    Only ps0 u0 (progStage src nn w v s) ↔ Only ps0 u0 s := by
  refine Only.iff ?_ hps
  unfold progStage
  try dsimp only
  repeat' (first
    | simp (disch := decide) only [↓State.stage_only, ↓State.ignored_only, ↓Only.refl_iff]
    | with_reducible refine Only.ite ?_ ?_
    | split
    | exact Only.refl _ _)

theorem progWrite_only {ps0 : List Part} {u0 : State} (src : Src) (nn : BitVec 4) (w : BitVec 6) (v : Word) (s : State)
    (hps : ∀ q ∈ ([.raised, .regs, .staged, .funcs, .counts] : List Part), q ∈ ps0) :
    Only ps0 u0 (progWrite src nn w v s) ↔ Only ps0 u0 s := by
  refine Only.iff ?_ hps
  unfold progWrite
  try dsimp only
  repeat' (first
    | simp (disch := decide) only [↓State.setFunc_only, ↓State.applyWide_only, ↓State.ignored_only, ↓Only.refl_iff]
    | with_reducible refine Only.foldl (fun _ _ => ?_) ?_
    | with_reducible refine Only.foldl_snd (fun _ _ => ?_) ?_
    | with_reducible refine Only.ite ?_ ?_
    | split
    | exact Only.refl _ _)

theorem engPflagSet_only {ps0 : List Part} {u0 : State} (nn : BitVec 4) (v : BitVec 4) (s : State)
    (hps : ∀ q ∈ ([.fronds] : List Part), q ∈ ps0) :
    Only ps0 u0 (engPflagSet nn v s) ↔ Only ps0 u0 s := by
  refine Only.iff ?_ hps
  unfold engPflagSet
  try dsimp only
  repeat' (first
    | simp (disch := decide) only [↓State.setFrond_only, ↓Only.refl_iff]
    | with_reducible refine Only.ite ?_ ?_
    | split
    | exact Only.refl _ _)

theorem engSubstitute_only {ps0 : List Part} {u0 : State} (nn : BitVec 4) (s : State)
    (hps : ∀ q ∈ ([.raised, .funcs, .engines, .fronds, .rpr] : List Part), q ∈ ps0) :
    Only ps0 u0 (engSubstitute nn s) ↔ Only ps0 u0 s := by
  refine Only.iff ?_ hps
  unfold engSubstitute
  try dsimp only
  repeat' (first
    | simp (disch := decide) only [↓State.setFrond_only, ↓State.setFunc_only, ↓State.txdChanged_only, ↓State.fault_low, ↓State.recordRepair_only, ↓State.wearSweep_only, ↓Only.refl_iff]
    | with_reducible refine Only.ite ?_ ?_
    | split
    | exact Only.refl _ _)

theorem engSpareFailed_only {ps0 : List Part} {u0 : State} (nn : BitVec 4) (s : State)
    (hps : ∀ q ∈ ([.raised, .fronds, .rpr] : List Part), q ∈ ps0) :
    Only ps0 u0 (engSpareFailed nn s) ↔ Only ps0 u0 s := by
  refine Only.iff ?_ hps
  unfold engSpareFailed
  try dsimp only
  repeat' (first
    | simp (disch := decide) only [↓State.setFrond_only, ↓State.wearSweep_only, ↓Only.refl_iff]
    | with_reducible refine Only.ite ?_ ?_
    | split
    | exact Only.refl _ _)

theorem State.engineStopped_only {ps0 : List Part} {u0 : State} (s : State) (i : Nat)
    (hps : ∀ q ∈ ([.engines] : List Part), q ∈ ps0) :
    Only ps0 u0 (State.engineStopped s i) ↔ Only ps0 u0 s := by
  refine Only.iff ?_ hps
  unfold State.engineStopped
  try dsimp only
  repeat' (first
    | simp (disch := decide) only [↓State.setEngine_only, ↓Only.refl_iff]
    | with_reducible refine Only.ite ?_ ?_
    | exact Only.refl _ _)

theorem State.engineFresh_only {ps0 : List Part} {u0 : State} (s : State) (i : Nat)
    (hps : ∀ q ∈ ([.engines] : List Part), q ∈ ps0) :
    Only ps0 u0 (State.engineFresh s i) ↔ Only ps0 u0 s := by
  refine Only.iff ?_ hps
  unfold State.engineFresh
  try dsimp only
  repeat' (first
    | simp (disch := decide) only [↓State.setEngine_only, ↓Only.refl_iff]
    | with_reducible refine Only.getD (fun _ _ => ?_) ?_
    | with_reducible refine Only.ite ?_ ?_
    | exact Only.refl _ _)

theorem State.engineRunning_only {ps0 : List Part} {u0 : State} (s : State) (i : Nat)
    (hps : ∀ q ∈ ([.raised, .regs, .funcs, .engines, .fronds, .counts] : List Part), q ∈ ps0) :
    Only ps0 u0 (State.engineRunning s i) ↔ Only ps0 u0 s := by
  refine Only.iff ?_ hps
  unfold State.engineRunning
  try dsimp only
  repeat' (first
    | simp (disch := decide) only [↓State.setEngine_only, ↓State.engError_only, ↓Only.refl_iff]
    | with_reducible refine Only.ite ?_ ?_
    | split
    | exact Only.refl _ _)

end Sys2Proof.Machine
end

