-- ==== Sys2Proof/Laws/TouchPower.lean ====
section
/-! SUPPORT. What each operation of the action scheduler, power and operands can touch: one lemma for each, in the form in which later
proofs cite it. -/

namespace Sys2Proof.Machine

theorem State.freeSlot_only {ps0 : List Part} {u0 : State} (s : State) (i : Nat)
    (hps : ∀ q ∈ ([.act] : List Part), q ∈ ps0) :
    Only ps0 u0 (State.freeSlot s i) ↔ Only ps0 u0 s := by
  refine Only.iff ?_ hps
  unfold State.freeSlot
  try dsimp only
  repeat' (first
    | simp (disch := decide) only [↓Only.with_act, ↓Only.refl_iff]
    | with_reducible refine Only.ite ?_ ?_
    | exact Only.refl _ _)

theorem State.actRecord_only {ps0 : List Part} {u0 : State} (s : State) (r : ActRec) (kind : Nat) (t : BitVec 80)
    (hps : ∀ q ∈ ([.raised] : List Part), q ∈ ps0) :
    Only ps0 u0 (State.actRecord s r kind t) ↔ Only ps0 u0 s := by
  refine Only.iff ?_ hps
  unfold State.actRecord
  try dsimp only
  repeat' (first
    | simp (disch := decide) only [↓State.event_only, ↓Only.refl_iff]
    | with_reducible refine Only.ite ?_ ?_
    | split
    | exact Only.refl _ _)

theorem State.appRefuse_only {ps0 : List Part} {u0 : State} (s : State) (e : ActEntry) (kind detail : Nat)
    (hps : ∀ q ∈ ([.raised, .regs, .counts, .urgent] : List Part), q ∈ ps0) :
    Only ps0 u0 (State.appRefuse s e kind detail) ↔ Only ps0 u0 s := by
  refine Only.iff ?_ hps
  unfold State.appRefuse
  try dsimp only
  repeat' (first
    | simp (disch := decide) only [↓State.bump_only, ↓State.actRecord_only, ↓State.fault_only, ↓Only.refl_iff]
    | with_reducible refine Only.ite ?_ ?_
    | split
    | exact Only.refl _ _)

theorem State.actPush_only {ps0 : List Part} {u0 : State} (s : State) (l : List Byte) (k : Nat)
    (hps : ∀ q ∈ ([.raised, .regs, .act, .counts, .urgent] : List Part), q ∈ ps0) : Only ps0 u0 (s.actPush l k) ↔ Only ps0 u0 s := by
  refine Only.iff ?_ hps
  clear hps
  induction k generalizing s l with
  | zero => unfold State.actPush; exact Only.refl _ _
  | succ k ih =>
    unfold State.actPush
    dsimp only
    refine Only.trans (Only.ite ?_ ?_) (ih _ _)
    · exact (State.appRefuse_only _ _ _ _ (by decide)).2 (Only.refl _ _)
    · exact (Only.with_act _ (by decide)).2 (Only.refl _ _)

theorem State.appendWrite_some {s t : State} (off : Nat) (data : List Byte)
    (h : State.appendWrite s off data = some t) : Only [.raised, .regs, .act, .counts, .urgent] s t := by
  unfold State.appendWrite at h
  try dsimp only at h
  repeat' split at h
  all_goals first
    | (have h1 := Option.some.inj h; subst h1)
    | (cases h; done)
    | skip
  all_goals repeat' (first
    | simp (disch := decide) only [↓State.actPush_only, ↓Only.refl_iff]
    | with_reducible refine Only.ite ?_ ?_
    | split
    | exact Only.refl _ _)

theorem State.setPulse_only {ps0 : List Part} {u0 : State} (s : State) (l : Nat) (p : Option Pulse)
    (hps : ∀ q ∈ ([.act] : List Part), q ∈ ps0) :
    Only ps0 u0 (State.setPulse s l p) ↔ Only ps0 u0 s := by
  refine Only.iff ?_ hps
  unfold State.setPulse
  try dsimp only
  repeat' (first
    | simp (disch := decide) only [↓Only.with_act, ↓Only.refl_iff]
    | with_reducible refine Only.ite ?_ ?_
    | exact Only.refl _ _)

theorem State.addCmd_only {ps0 : List Part} {u0 : State} (s : State) (c : LineCmd)
    (hps : ∀ q ∈ ([.act] : List Part), q ∈ ps0) :
    Only ps0 u0 (State.addCmd s c) ↔ Only ps0 u0 s := by
  refine Only.iff ?_ hps
  unfold State.addCmd
  try dsimp only
  repeat' (first
    | simp (disch := decide) only [↓Only.with_act, ↓Only.refl_iff]
    | with_reducible refine Only.ite ?_ ?_
    | exact Only.refl _ _)

theorem State.commitOff_only {ps0 : List Part} {u0 : State} (s : State) (p : Pulse) (edge : Nat)
    (hps : ∀ q ∈ ([.now, .act] : List Part), q ∈ ps0) :
    Only ps0 u0 (State.commitOff s p edge) ↔ Only ps0 u0 s := by
  refine Only.iff ?_ hps
  unfold State.commitOff
  try dsimp only
  repeat' (first
    | simp (disch := decide) only [↓State.advanceTo_only, ↓State.setPulse_only, ↓State.addCmd_only, ↓Only.refl_iff]
    | with_reducible refine Only.ite ?_ ?_
    | exact Only.refl _ _)

theorem actOffCommit_only {ps0 : List Part} {u0 : State} (l : BitVec 8) (s : State)
    (hps : ∀ q ∈ ([.now, .act] : List Part), q ∈ ps0) :
    Only ps0 u0 (actOffCommit l s) ↔ Only ps0 u0 s := by
  refine Only.iff ?_ hps
  unfold actOffCommit
  try dsimp only
  repeat' (first
    | simp (disch := decide) only [↓State.commitOff_only, ↓Only.refl_iff]
    | with_reducible refine Only.ite ?_ ?_
    | split
    | exact Only.refl _ _)

theorem State.offAtOnce_only {ps0 : List Part} {u0 : State} (s : State) (p : Pulse)
    (hps : ∀ q ∈ ([.now, .act] : List Part), q ∈ ps0) :
    Only ps0 u0 (State.offAtOnce s p) ↔ Only ps0 u0 s := by
  refine Only.iff ?_ hps
  unfold State.offAtOnce
  try dsimp only
  repeat' (first
    | simp (disch := decide) only [↓State.commitOff_only, ↓Only.refl_iff]
    | with_reducible refine Only.ite ?_ ?_
    | split
    | exact Only.refl _ _)

theorem actPlacement_only {ps0 : List Part} {u0 : State} (l : BitVec 8) (s : State)
    (hps : ∀ q ∈ ([.out, .raised, .now, .limits, .regs, .fwd, .lines, .act, .counts] : List Part), q ∈ ps0) :
    Only ps0 u0 (actPlacement l s) ↔ Only ps0 u0 s := by
  refine Only.iff ?_ hps
  unfold actPlacement
  try dsimp only
  repeat' (first
    | simp (disch := decide) only [↓State.advanceTo_only, ↓State.setLine_only, ↓State.lineCommand_only, ↓State.bump_only, ↓State.actRecord_only, ↓State.setPulse_only, ↓Only.with_act, ↓Only.refl_iff]
    | with_reducible refine Only.foldl (fun _ _ => ?_) ?_
    | with_reducible refine Only.foldl_snd (fun _ _ => ?_) ?_
    | with_reducible refine Only.ite ?_ ?_
    | split
    | exact Only.refl _ _)

theorem State.actWithdraw_only {ps0 : List Part} {u0 : State} (s : State)
    (hps : ∀ q ∈ ([.raised, .act] : List Part), q ∈ ps0) :
    Only ps0 u0 (State.actWithdraw s) ↔ Only ps0 u0 s := by
  refine Only.iff ?_ hps
  unfold State.actWithdraw
  try dsimp only
  repeat' (first
    | simp (disch := decide) only [↓State.event_only, ↓Only.with_act, ↓Only.refl_iff]
    | with_reducible refine Only.ite ?_ ?_
    | split
    | exact Only.refl _ _)

theorem State.actNop_only {ps0 : List Part} {u0 : State} (s : State)
    (hps : ∀ q ∈ ([.regs, .counts] : List Part), q ∈ ps0) :
    Only ps0 u0 (State.actNop s) ↔ Only ps0 u0 s := by
  refine Only.iff ?_ hps
  unfold State.actNop
  try dsimp only
  repeat' (first
    | simp (disch := decide) only [↓State.bump_only, ↓Only.refl_iff]
    | with_reducible refine Only.ite ?_ ?_
    | exact Only.refl _ _)

theorem actShadowWrite_only {ps0 : List Part} {u0 : State} (off : BitVec 17) (data : List Byte) (s : State)
    (hps : ∀ q ∈ ([.raised, .act] : List Part), q ∈ ps0) :
    Only ps0 u0 (actShadowWrite off data s) ↔ Only ps0 u0 s := by
  refine Only.iff ?_ hps
  unfold actShadowWrite
  try dsimp only
  repeat' (first
    | simp (disch := decide) only [↓State.actWithdraw_only, ↓Only.with_act, ↓Only.refl_iff]
    | with_reducible refine Only.ite ?_ ?_
    | split
    | exact Only.refl _ _)

theorem actSeal_only {ps0 : List Part} {u0 : State} (s : State)
    (hps : ∀ q ∈ ([.regs, .act, .counts] : List Part), q ∈ ps0) :
    Only ps0 u0 (actSeal s) ↔ Only ps0 u0 s := by
  refine Only.iff ?_ hps
  unfold actSeal
  try dsimp only
  repeat' (first
    | simp (disch := decide) only [↓State.actNop_only, ↓Only.with_act, ↓Only.refl_iff]
    | with_reducible refine Only.ite ?_ ?_
    | split
    | exact Only.refl _ _)

theorem actClearsh_only {ps0 : List Part} {u0 : State} (s : State)
    (hps : ∀ q ∈ ([.raised, .regs, .act, .counts] : List Part), q ∈ ps0) :
    Only ps0 u0 (actClearsh s) ↔ Only ps0 u0 s := by
  refine Only.iff ?_ hps
  unfold actClearsh
  try dsimp only
  repeat' (first
    | simp (disch := decide) only [↓State.actNop_only, ↓State.actWithdraw_only, ↓Only.with_act, ↓Only.refl_iff]
    | with_reducible refine Only.foldl (fun _ _ => ?_) ?_
    | with_reducible refine Only.foldl_snd (fun _ _ => ?_) ?_
    | with_reducible refine Only.ite ?_ ?_
    | split
    | exact Only.refl _ _)

theorem actClearDone_only {ps0 : List Part} {u0 : State} (s : State)
    (hps : ∀ q ∈ ([.act] : List Part), q ∈ ps0) :
    Only ps0 u0 (actClearDone s) ↔ Only ps0 u0 s := by
  refine Only.iff ?_ hps
  unfold actClearDone
  try dsimp only
  repeat' (first
    | simp (disch := decide) only [↓Only.with_act, ↓Only.refl_iff]
    | with_reducible refine Only.ite ?_ ?_
    | split
    | exact Only.refl _ _)

theorem State.actRequest_only {ps0 : List Part} {u0 : State} (s : State) (q : SwapReq)
    (hps : ∀ q ∈ ([.act] : List Part), q ∈ ps0) :
    Only ps0 u0 (State.actRequest s q) ↔ Only ps0 u0 s := by
  refine Only.iff ?_ hps
  unfold State.actRequest
  try dsimp only
  repeat' (first
    | simp (disch := decide) only [↓Only.with_act, ↓Only.refl_iff]
    | with_reducible refine Only.ite ?_ ?_
    | split
    | exact Only.refl _ _)

theorem actSwap_only {ps0 : List Part} {u0 : State} (s : State)
    (hps : ∀ q ∈ ([.act] : List Part), q ∈ ps0) :
    Only ps0 u0 (actSwap s) ↔ Only ps0 u0 s := by
  refine Only.iff ?_ hps
  unfold actSwap
  try dsimp only
  repeat' (first
    | simp (disch := decide) only [↓State.actRequest_only, ↓Only.refl_iff]
    | with_reducible refine Only.ite ?_ ?_
    | exact Only.refl _ _)

theorem actArmswap_only {ps0 : List Part} {u0 : State} (s : State)
    (hps : ∀ q ∈ ([.regs, .act, .counts] : List Part), q ∈ ps0) :
    Only ps0 u0 (actArmswap s) ↔ Only ps0 u0 s := by
  refine Only.iff ?_ hps
  unfold actArmswap
  try dsimp only
  repeat' (first
    | simp (disch := decide) only [↓State.actRequest_only, ↓State.actNop_only, ↓Only.with_act, ↓Only.refl_iff]
    | with_reducible refine Only.ite ?_ ?_
    | split
    | exact Only.refl _ _)

theorem actDisarm_only {ps0 : List Part} {u0 : State} (s : State)
    (hps : ∀ q ∈ ([.raised, .regs, .act, .counts] : List Part), q ∈ ps0) :
    Only ps0 u0 (actDisarm s) ↔ Only ps0 u0 s := by
  refine Only.iff ?_ hps
  unfold actDisarm
  try dsimp only
  repeat' (first
    | simp (disch := decide) only [↓State.actNop_only, ↓State.actWithdraw_only, ↓Only.refl_iff]
    | with_reducible refine Only.ite ?_ ?_
    | split
    | exact Only.refl _ _)

theorem actCmd_only {ps0 : List Part} {u0 : State} (src : Src) (v : Nat) (s : State)
    (hps : ∀ q ∈ ([.raised, .regs, .act, .counts] : List Part), q ∈ ps0) :
    Only ps0 u0 (actCmd src v s) ↔ Only ps0 u0 s := by
  refine Only.iff ?_ hps
  unfold actCmd
  try dsimp only
  repeat' (first
    | simp (disch := decide) only [↓actSeal_only, ↓actSwap_only, ↓actArmswap_only, ↓actDisarm_only, ↓actClearsh_only, ↓State.ignored_only, ↓Only.refl_iff]
    | with_reducible refine Only.ite ?_ ?_
    | split
    | exact Only.refl _ _)

theorem actSortDone_only {ps0 : List Part} {u0 : State} (s : State)
    (hps : ∀ q ∈ ([.raised, .regs, .act, .counts] : List Part), q ∈ ps0) :
    Only ps0 u0 (actSortDone s) ↔ Only ps0 u0 s := by
  refine Only.iff ?_ hps
  unfold actSortDone
  try dsimp only
  repeat' (first
    | simp (disch := decide) only [↓State.bump_only, ↓State.actRecord_only, ↓State.fault_low, ↓Only.with_act, ↓Only.refl_iff]
    | with_reducible refine Only.foldl (fun _ _ => ?_) ?_
    | with_reducible refine Only.foldl_snd (fun _ _ => ?_) ?_
    | with_reducible refine Only.ite ?_ ?_
    | split
    | exact Only.refl _ _)

theorem actAidx_only {ps0 : List Part} {u0 : State} (v : Word) (s : State)
    (hps : ∀ q ∈ ([.regs, .counts] : List Part), q ∈ ps0) :
    Only ps0 u0 (actAidx v s) ↔ Only ps0 u0 s := by
  refine Only.iff ?_ hps
  unfold actAidx
  try dsimp only
  repeat' (first
    | simp (disch := decide) only [↓State.setReg_only, ↓State.setNat_only, ↓Only.refl_iff]
    | with_reducible refine Only.foldl (fun _ _ => ?_) ?_
    | with_reducible refine Only.foldl_snd (fun _ _ => ?_) ?_
    | with_reducible refine Only.ite ?_ ?_
    | exact Only.refl _ _)

theorem State.actFresh_only {ps0 : List Part} {u0 : State} (s : State)
    (hps : ∀ q ∈ ([.act] : List Part), q ∈ ps0) :
    Only ps0 u0 (State.actFresh s) ↔ Only ps0 u0 s := by
  refine Only.iff ?_ hps
  unfold State.actFresh
  try dsimp only
  repeat' (first
    | simp (disch := decide) only [↓Only.with_act, ↓Only.refl_iff]
    | with_reducible refine Only.ite ?_ ?_
    | exact Only.refl _ _)

theorem State.actStopping_only {ps0 : List Part} {u0 : State} (s : State)
    (hps : ∀ q ∈ ([.now, .act] : List Part), q ∈ ps0) :
    Only ps0 u0 (State.actStopping s) ↔ Only ps0 u0 s := by
  refine Only.iff ?_ hps
  unfold State.actStopping
  try dsimp only
  repeat' (first
    | simp (disch := decide) only [↓State.offAtOnce_only, ↓Only.refl_iff]
    | with_reducible refine Only.foldl (fun _ _ => ?_) ?_
    | with_reducible refine Only.foldl_snd (fun _ _ => ?_) ?_
    | with_reducible refine Only.ite ?_ ?_
    | exact Only.refl _ _)

theorem State.actHalted_only {ps0 : List Part} {u0 : State} (s : State)
    (hps : ∀ q ∈ ([.act] : List Part), q ∈ ps0) :
    Only ps0 u0 (State.actHalted s) ↔ Only ps0 u0 s := by
  refine Only.iff ?_ hps
  unfold State.actHalted
  try dsimp only
  repeat' (first
    | simp (disch := decide) only [↓Only.with_act, ↓Only.refl_iff]
    | with_reducible refine Only.ite ?_ ?_
    | exact Only.refl _ _)

theorem State.domTo_only {ps0 : List Part} {u0 : State} (s : State) (d : Nat) (st : DomState)
    (hps : ∀ q ∈ ([.out, .raised, .power] : List Part), q ∈ ps0) :
    Only ps0 u0 (State.domTo s d st) ↔ Only ps0 u0 s := by
  refine Only.iff ?_ hps
  unfold State.domTo
  try dsimp only
  repeat' (first
    | simp (disch := decide) only [↓State.setDom_only, ↓State.eventP_only, ↓Only.refl_iff]
    | with_reducible refine State.withDies_via _ _ (by decide) ?_ ?_
    | with_reducible refine Only.ite ?_ ?_
    | exact Only.refl _ _)

theorem State.seqStep_only {ps0 : List Part} {u0 : State} (s : State)
    (hps : ∀ q ∈ ([.out, .raised, .power] : List Part), q ∈ ps0) :
    Only ps0 u0 (State.seqStep s) ↔ Only ps0 u0 s := by
  refine Only.iff ?_ hps
  unfold State.seqStep
  try dsimp only
  repeat' (first
    | simp (disch := decide) only [↓State.domTo_only, ↓Only.refl_iff]
    | with_reducible refine Only.ite ?_ ?_
    | split
    | exact Only.refl _ _)

theorem domainRequest_only {ps0 : List Part} {u0 : State} (v : Word) (s : State)
    (hps : ∀ q ∈ ([.out, .raised, .regs, .power, .counts] : List Part), q ∈ ps0) :
    Only ps0 u0 (domainRequest v s) ↔ Only ps0 u0 s := by
  refine Only.iff ?_ hps
  unfold domainRequest
  try dsimp only
  repeat' (first
    | simp (disch := decide) only [↓State.bump_only, ↓State.fault_low, ↓State.setNat_only, ↓State.domTo_only, ↓State.seqStep_only, ↓Only.with_power, ↓Only.refl_iff]
    | with_reducible refine Only.foldl (fun _ _ => ?_) ?_
    | with_reducible refine Only.foldl_snd (fun _ _ => ?_) ?_
    | with_reducible refine Only.ite ?_ ?_
    | split
    | exact Only.refl _ _)

theorem domainOn_only {ps0 : List Part} {u0 : State} (d : BitVec 4) (s : State)
    (hps : ∀ q ∈ ([.out, .raised, .power, .dieA, .dieB] : List Part), q ∈ ps0) :
    Only ps0 u0 (domainOn d s) ↔ Only ps0 u0 s := by
  refine Only.iff ?_ hps
  unfold domainOn
  try dsimp only
  repeat' (first
    | simp (disch := decide) only [↓State.domTo_only, ↓State.setDie_only, ↓State.seqStep_only, ↓Only.refl_iff]
    | with_reducible refine Only.ite ?_ ?_
    | split
    | exact Only.refl _ _)

theorem domainFailed_only {ps0 : List Part} {u0 : State} (d : BitVec 4) (s : State)
    (hps : ∀ q ∈ ([.out, .raised, .now, .power] : List Part), q ∈ ps0) :
    Only ps0 u0 (domainFailed d s) ↔ Only ps0 u0 s := by
  refine Only.iff ?_ hps
  unfold domainFailed
  try dsimp only
  repeat' (first
    | simp (disch := decide) only [↓State.advanceTo_only, ↓State.domTo_only, ↓State.fault_low, ↓State.seqStep_only, ↓Only.refl_iff]
    | with_reducible refine Only.ite ?_ ?_
    | split
    | exact Only.refl _ _)

theorem State.loseDomain_only {ps0 : List Part} {u0 : State} (s : State) (d : Nat)
    (hps : ∀ q ∈ ([.out, .queues, .hostq, .dma, .pcie, .time, .axes, .ncpA, .ncpB, .linkW, .linkE, .linkT, .fwd, .lines, .uarts, .encoders, .engines, .act, .cans, .canPll, .brg, .usb, .power, .image, .xact, .pba, .pendA, .pendB] : List Part), q ∈ ps0) :
    Only ps0 u0 (State.loseDomain s d) ↔ Only ps0 u0 s := by
  refine Only.iff ?_ hps
  unfold State.loseDomain
  try dsimp only
  repeat' (first
    | simp (disch := decide) only [↓State.usbDetach_only, ↓State.usbClear_only, ↓State.usbSet_only, ↓Only.with_queues_hostq_dma_pcie_time_axes_ncpA_ncpB_linkW_linkE_linkT_fwd_lines_uarts_encoders_engines_act_cans_canPll_brg_power_image_xact, ↓Only.refl_iff]
    | with_reducible refine State.withDies_via _ _ (by decide) ?_ ?_
    | with_reducible refine Only.ite ?_ ?_
    | split
    | exact Only.refl _ _)

theorem State.loseStatus_only {ps0 : List Part} {u0 : State} (s : State) (d : Nat)
    (hps : ∀ q ∈ ([.regs, .counts] : List Part), q ∈ ps0) :
    Only ps0 u0 (State.loseStatus s d) ↔ Only ps0 u0 s := by
  refine Only.iff ?_ hps
  unfold State.loseStatus
  try dsimp only
  repeat' (first
    | simp (disch := decide) only [↓Only.with_regs, ↓Only.refl_iff]
    | with_reducible refine Only.ite ?_ ?_
    | split
    | exact Only.refl _ _)

theorem State.losePreserved_only {ps0 : List Part} {u0 : State} (s : State) (d : Nat)
    (hps : ∀ q ∈ ([.funcs] : List Part), q ∈ ps0) :
    Only ps0 u0 (State.losePreserved s d) ↔ Only ps0 u0 s := by
  refine Only.iff ?_ hps
  unfold State.losePreserved
  try dsimp only
  repeat' (first
    | simp (disch := decide) only [↓State.setFunc_only, ↓Only.refl_iff]
    | with_reducible refine Only.foldl (fun _ _ => ?_) ?_
    | with_reducible refine Only.foldl_snd (fun _ _ => ?_) ?_
    | with_reducible refine Only.ite ?_ ?_
    | exact Only.refl _ _)

theorem domainOff_only {ps0 : List Part} {u0 : State} (d : BitVec 4) (s : State)
    (hps : ∀ q ∈ ([.out, .raised, .regs, .funcs, .queues, .hostq, .dma, .pcie, .time, .axes, .ncpA, .ncpB, .linkW, .linkE, .linkT, .fwd, .lines, .uarts, .encoders, .engines, .act, .cans, .canPll, .brg, .usb, .power, .dieA, .dieB, .image, .xact, .counts, .pba, .pendA, .pendB] : List Part), q ∈ ps0) :
    Only ps0 u0 (domainOff d s) ↔ Only ps0 u0 s := by
  refine Only.iff ?_ hps
  unfold domainOff
  try dsimp only
  repeat' (first
    | simp (disch := decide) only [↓State.domTo_only, ↓State.setDie_only, ↓State.loseDomain_only, ↓State.loseStatus_only, ↓State.losePreserved_only, ↓State.seqStep_only, ↓Only.refl_iff]
    | with_reducible refine Only.ite ?_ ?_
    | split
    | exact Only.refl _ _)

theorem vinStop_only {ps0 : List Part} {u0 : State} (s : State)
    (hps : ∀ q ∈ ([.power, .dieA, .dieB] : List Part), q ∈ ps0) :
    Only ps0 u0 (vinStop s) ↔ Only ps0 u0 s := by
  refine Only.iff ?_ hps
  unfold vinStop
  try dsimp only
  repeat' (first
    | simp (disch := decide) only [↓Only.with_power_dieA_dieB, ↓Only.refl_iff]
    | with_reducible refine Only.ite ?_ ?_
    | exact Only.refl _ _)

theorem railOut_only {ps0 : List Part} {u0 : State} (rail : BitVec 3) (s : State)
    (hps : ∀ q ∈ ([.raised, .power, .dieA, .dieB] : List Part), q ∈ ps0) :
    Only ps0 u0 (railOut rail s) ↔ Only ps0 u0 s := by
  refine Only.iff ?_ hps
  unfold railOut
  try dsimp only
  repeat' (first
    | simp (disch := decide) only [↓State.setDie_only, ↓State.fault_low, ↓Only.with_power, ↓Only.refl_iff]
    | with_reducible refine Only.ite ?_ ?_
    | split
    | exact Only.refl _ _)

theorem lbSwitchOff_only {ps0 : List Part} {u0 : State} (s : State)
    (hps : ∀ q ∈ ([.out, .regs, .queues, .hostq, .dma, .pcie, .time, .axes, .ncpA, .ncpB, .linkW, .linkE, .linkT, .fwd, .lines, .uarts, .encoders, .engines, .act, .cans, .canPll, .brg, .usb, .power, .dieA, .dieB, .image, .xact, .counts, .pba, .pendA, .pendB] : List Part), q ∈ ps0) :
    Only ps0 u0 (lbSwitchOff s) ↔ Only ps0 u0 s := by
  refine Only.iff ?_ hps
  unfold lbSwitchOff
  try dsimp only
  repeat' (first
    | simp (disch := decide) only [↓State.setDie_only, ↓State.loseDomain_only, ↓State.loseStatus_only, ↓Only.refl_iff]
    | with_reducible refine Only.ite ?_ ?_
    | exact Only.refl _ _)

theorem buckHiccup_only {ps0 : List Part} {u0 : State} (die : Die) (s : State)
    (hps : ∀ q ∈ ([.dieA, .dieB] : List Part), q ∈ ps0) :
    Only ps0 u0 (buckHiccup die s) ↔ Only ps0 u0 s := by
  refine Only.iff ?_ hps
  unfold buckHiccup
  try dsimp only
  repeat' (first
    | simp (disch := decide) only [↓State.setDie_only, ↓Only.refl_iff]
    | with_reducible refine Only.ite ?_ ?_
    | split
    | exact Only.refl _ _)

theorem buckRestart_only {ps0 : List Part} {u0 : State} (die : Die) (s : State)
    (hps : ∀ q ∈ ([.now, .dieA, .dieB] : List Part), q ∈ ps0) :
    Only ps0 u0 (buckRestart die s) ↔ Only ps0 u0 s := by
  refine Only.iff ?_ hps
  unfold buckRestart
  try dsimp only
  repeat' (first
    | simp (disch := decide) only [↓State.advanceTo_only, ↓State.setDie_only, ↓Only.refl_iff]
    | with_reducible refine Only.ite ?_ ?_
    | split
    | exact Only.refl _ _)

theorem temperature_only {ps0 : List Part} {u0 : State} (die : BitVec 2) (t : BitVec 16) (s : State)
    (hps : ∀ q ∈ ([.raised, .power, .dieA, .dieB, .urgent] : List Part), q ∈ ps0) :
    Only ps0 u0 (temperature die t s) ↔ Only ps0 u0 s := by
  refine Only.iff ?_ hps
  unfold temperature
  try dsimp only
  repeat' (first
    | simp (disch := decide) only [↓State.fault_low, ↓State.fault_only, ↓State.setDie_only, ↓Only.with_power, ↓Only.refl_iff]
    | with_reducible refine Only.ite ?_ ?_
    | split
    | exact Only.refl _ _)

theorem State.setChan_only {ps0 : List Part} {u0 : State} (s : State) (nn : Nat) (x : PowerChan)
    (hps : ∀ q ∈ ([.out, .power] : List Part), q ∈ ps0) :
    Only ps0 u0 (State.setChan s nn x) ↔ Only ps0 u0 s := by
  refine Only.iff ?_ hps
  unfold State.setChan
  try dsimp only
  repeat' (first
    | simp (disch := decide) only [↓State.emit_only, ↓Only.with_power, ↓Only.refl_iff]
    | with_reducible refine Only.ite ?_ ?_
    | split
    | exact Only.refl _ _)

/-- What a change of the dies' state and gates may touch: what it is, and the outputs. -/
theorem State.redrive_via {ps : List Part} {u : State} (s : State) (f : State → State) (hps : Part.out ∈ ps)
    (hf : Only ps s (f s)) (h : Only ps u s) : Only ps u (s.redrive f) := by
  unfold State.redrive
  dsimp only
  refine Only.foldl (fun _ _ => Only.ite (Only.refl _ _) ?_) (State.withDies_via s f hps hf h)
  exact (State.emit_only (u0 := _) _ _ (by simpa using hps)).2 (Only.refl _ _)

theorem State.setPg_only {ps0 : List Part} {u0 : State} (s : State) (nn : Nat) (v : Bool)
    (hps : ∀ q ∈ ([.out, .raised, .power] : List Part), q ∈ ps0) :
    Only ps0 u0 (State.setPg s nn v) ↔ Only ps0 u0 s := by
  refine Only.iff ?_ hps
  unfold State.setPg
  try dsimp only
  repeat' (first
    | simp (disch := decide) only [↓State.setChan_only, ↓State.eventP_only, ↓Only.refl_iff]
    | with_reducible refine Only.ite ?_ ?_
    | split
    | exact Only.refl _ _)

theorem State.chanTo_only {ps0 : List Part} {u0 : State} (s : State) (nn : Nat) (st : PcState) (hot : Bool)
    (hps : ∀ q ∈ ([.out, .raised, .regs, .power, .counts] : List Part), q ∈ ps0) :
    Only ps0 u0 (State.chanTo s nn st hot) ↔ Only ps0 u0 s := by
  refine Only.iff ?_ hps
  unfold State.chanTo
  try dsimp only
  repeat' (first
    | simp (disch := decide) only [↓State.setPg_only, ↓State.setChan_only, ↓State.bump16_only, ↓State.eventP_only, ↓Only.refl_iff]
    | with_reducible refine Only.ite ?_ ?_
    | split
    | exact Only.refl _ _)

theorem State.chanTrip_only {ps0 : List Part} {u0 : State} (s : State) (nn kind detail : Nat)
    (hps : ∀ q ∈ ([.out, .raised, .regs, .power, .counts] : List Part), q ∈ ps0) :
    Only ps0 u0 (State.chanTrip s nn kind detail) ↔ Only ps0 u0 s := by
  refine Only.iff ?_ hps
  unfold State.chanTrip
  try dsimp only
  repeat' (first
    | simp (disch := decide) only [↓State.fault_low, ↓State.chanTo_only, ↓State.setChan_only, ↓Only.refl_iff]
    | with_reducible refine Only.ite ?_ ?_
    | split
    | exact Only.refl _ _)

theorem State.chanApply_only {ps0 : List Part} {u0 : State} (s : State) (nn : Nat)
    (hps : ∀ q ∈ ([.out, .raised, .regs, .power, .counts] : List Part), q ∈ ps0) :
    Only ps0 u0 (State.chanApply s nn) ↔ Only ps0 u0 s := by
  refine Only.iff ?_ hps
  unfold State.chanApply
  try dsimp only
  repeat' (first
    | simp (disch := decide) only [↓State.chanTo_only, ↓Only.refl_iff]
    | with_reducible refine Only.ite ?_ ?_
    | split
    | exact Only.refl _ _)

theorem State.chanRunning_only {ps0 : List Part} {u0 : State} (s : State) (nn : Nat) (fresh : Bool)
    (hps : ∀ q ∈ ([.out, .raised, .regs, .power, .counts] : List Part), q ∈ ps0) :
    Only ps0 u0 (State.chanRunning s nn fresh) ↔ Only ps0 u0 s := by
  refine Only.iff ?_ hps
  unfold State.chanRunning
  try dsimp only
  repeat' (first
    | simp (disch := decide) only [↓State.setChan_only, ↓State.chanApply_only, ↓State.chanTo_only, ↓Only.refl_iff]
    | with_reducible refine Only.ite ?_ ?_
    | split
    | exact Only.refl _ _)

theorem State.chanStopping_only {ps0 : List Part} {u0 : State} (s : State) (nn : Nat)
    (hps : ∀ q ∈ ([.out, .raised, .regs, .power, .counts] : List Part), q ∈ ps0) :
    Only ps0 u0 (State.chanStopping s nn) ↔ Only ps0 u0 s := by
  refine Only.iff ?_ hps
  unfold State.chanStopping
  try dsimp only
  repeat' (first
    | simp (disch := decide) only [↓State.chanTo_only, ↓Only.refl_iff]
    | with_reducible refine Only.ite ?_ ?_
    | split
    | exact Only.refl _ _)

theorem State.chanSafeOff_only {ps0 : List Part} {u0 : State} (s : State) (nn : Nat)
    (hps : ∀ q ∈ ([.out, .raised, .regs, .power, .counts] : List Part), q ∈ ps0) :
    Only ps0 u0 (State.chanSafeOff s nn) ↔ Only ps0 u0 s := by
  refine Only.iff ?_ hps
  unfold State.chanSafeOff
  try dsimp only
  repeat' (first
    | simp (disch := decide) only [↓State.chanTo_only, ↓Only.refl_iff]
    | with_reducible refine Only.ite ?_ ?_
    | exact Only.refl _ _)

theorem State.chanLeaveSafe_only {ps0 : List Part} {u0 : State} (s : State) (nn : Nat)
    (hps : ∀ q ∈ ([.out, .raised, .regs, .power, .counts] : List Part), q ∈ ps0) :
    Only ps0 u0 (State.chanLeaveSafe s nn) ↔ Only ps0 u0 s := by
  refine Only.iff ?_ hps
  unfold State.chanLeaveSafe
  try dsimp only
  repeat' (first
    | simp (disch := decide) only [↓State.chanTo_only, ↓Only.refl_iff]
    | with_reducible refine Only.ite ?_ ?_
    | split
    | exact Only.refl _ _)

theorem chanTins_only {ps0 : List Part} {u0 : State} (nn : BitVec 4) (hot : Bool) (s : State)
    (hps : ∀ q ∈ ([.out, .raised, .now, .regs, .power, .counts] : List Part), q ∈ ps0) :
    Only ps0 u0 (chanTins nn hot s) ↔ Only ps0 u0 s := by
  refine Only.iff ?_ hps
  unfold chanTins
  try dsimp only
  repeat' (first
    | simp (disch := decide) only [↓State.advanceTo_only, ↓State.setChan_only, ↓State.chanTo_only, ↓Only.refl_iff]
    | with_reducible refine Only.ite ?_ ?_
    | split
    | exact Only.refl _ _)

theorem chanPrecharged_only {ps0 : List Part} {u0 : State} (nn : BitVec 4) (s : State)
    (hps : ∀ q ∈ ([.out, .raised, .regs, .power, .counts] : List Part), q ∈ ps0) :
    Only ps0 u0 (chanPrecharged nn s) ↔ Only ps0 u0 s := by
  refine Only.iff ?_ hps
  unfold chanPrecharged
  try dsimp only
  repeat' (first
    | simp (disch := decide) only [↓State.chanTo_only, ↓Only.refl_iff]
    | with_reducible refine Only.ite ?_ ?_
    | split
    | exact Only.refl _ _)

theorem chanEnhanced_only {ps0 : List Part} {u0 : State} (nn : BitVec 4) (s : State)
    (hps : ∀ q ∈ ([.out, .raised, .regs, .power, .counts] : List Part), q ∈ ps0) :
    Only ps0 u0 (chanEnhanced nn s) ↔ Only ps0 u0 s := by
  refine Only.iff ?_ hps
  unfold chanEnhanced
  try dsimp only
  repeat' (first
    | simp (disch := decide) only [↓State.chanTo_only, ↓Only.refl_iff]
    | with_reducible refine Only.ite ?_ ?_
    | split
    | exact Only.refl _ _)

theorem State.chanInput_only {ps0 : List Part} {u0 : State} (s : State) (nn detail : Nat)
    (hps : ∀ q ∈ ([.out, .raised, .regs, .power, .counts] : List Part), q ∈ ps0) :
    Only ps0 u0 (State.chanInput s nn detail) ↔ Only ps0 u0 s := by
  refine Only.iff ?_ hps
  unfold State.chanInput
  try dsimp only
  repeat' (first
    | simp (disch := decide) only [↓State.setChan_only, ↓State.chanTo_only, ↓State.fault_low, ↓Only.refl_iff]
    | with_reducible refine Only.ite ?_ ?_
    | split
    | exact Only.refl _ _)

theorem chanUnder_only {ps0 : List Part} {u0 : State} (nn : BitVec 4) (s : State)
    (hps : ∀ q ∈ ([.out, .raised, .regs, .power, .counts] : List Part), q ∈ ps0) :
    Only ps0 u0 (chanUnder nn s) ↔ Only ps0 u0 s := by
  refine Only.iff ?_ hps
  unfold chanUnder
  try dsimp only
  repeat' (first
    | simp (disch := decide) only [↓State.chanInput_only, ↓Only.refl_iff]
    | with_reducible refine Only.ite ?_ ?_
    | exact Only.refl _ _)

theorem chanOver_only {ps0 : List Part} {u0 : State} (nn : BitVec 4) (s : State)
    (hps : ∀ q ∈ ([.out, .raised, .regs, .power, .counts] : List Part), q ∈ ps0) :
    Only ps0 u0 (chanOver nn s) ↔ Only ps0 u0 s := by
  refine Only.iff ?_ hps
  unfold chanOver
  try dsimp only
  repeat' (first
    | simp (disch := decide) only [↓State.chanInput_only, ↓Only.refl_iff]
    | with_reducible refine Only.ite ?_ ?_
    | exact Only.refl _ _)

theorem chanReverseCurrent_only {ps0 : List Part} {u0 : State} (nn : BitVec 4) (s : State)
    (hps : ∀ q ∈ ([.out, .raised, .regs, .power, .counts] : List Part), q ∈ ps0) :
    Only ps0 u0 (chanReverseCurrent nn s) ↔ Only ps0 u0 s := by
  refine Only.iff ?_ hps
  unfold chanReverseCurrent
  try dsimp only
  repeat' (first
    | simp (disch := decide) only [↓State.setChan_only, ↓State.chanTo_only, ↓State.fault_low, ↓Only.refl_iff]
    | with_reducible refine Only.ite ?_ ?_
    | split
    | exact Only.refl _ _)

theorem chanPretmo_only {ps0 : List Part} {u0 : State} (nn : BitVec 4) (s : State)
    (hps : ∀ q ∈ ([.out, .raised, .now, .regs, .power, .counts] : List Part), q ∈ ps0) :
    Only ps0 u0 (chanPretmo nn s) ↔ Only ps0 u0 s := by
  refine Only.iff ?_ hps
  unfold chanPretmo
  try dsimp only
  repeat' (first
    | simp (disch := decide) only [↓State.advanceTo_only, ↓State.chanTrip_only, ↓Only.refl_iff]
    | with_reducible refine Only.ite ?_ ?_
    | split
    | exact Only.refl _ _)

theorem chanFaultTimer_only {ps0 : List Part} {u0 : State} (nn : BitVec 4) (s : State)
    (hps : ∀ q ∈ ([.out, .raised, .regs, .power, .counts] : List Part), q ∈ ps0) :
    Only ps0 u0 (chanFaultTimer nn s) ↔ Only ps0 u0 s := by
  refine Only.iff ?_ hps
  unfold chanFaultTimer
  try dsimp only
  repeat' (first
    | simp (disch := decide) only [↓State.chanTrip_only, ↓Only.refl_iff]
    | with_reducible refine Only.ite ?_ ?_
    | split
    | exact Only.refl _ _)

theorem chanGtmo_only {ps0 : List Part} {u0 : State} (nn : BitVec 4) (s : State)
    (hps : ∀ q ∈ ([.out, .raised, .now, .regs, .power, .counts] : List Part), q ∈ ps0) :
    Only ps0 u0 (chanGtmo nn s) ↔ Only ps0 u0 s := by
  refine Only.iff ?_ hps
  unfold chanGtmo
  try dsimp only
  repeat' (first
    | simp (disch := decide) only [↓State.advanceTo_only, ↓State.chanTrip_only, ↓Only.refl_iff]
    | with_reducible refine Only.ite ?_ ?_
    | split
    | exact Only.refl _ _)

theorem chanFastTrip_only {ps0 : List Part} {u0 : State} (nn : BitVec 4) (s : State)
    (hps : ∀ q ∈ ([.out, .raised, .regs, .power, .counts] : List Part), q ∈ ps0) :
    Only ps0 u0 (chanFastTrip nn s) ↔ Only ps0 u0 s := by
  refine Only.iff ?_ hps
  unfold chanFastTrip
  try dsimp only
  repeat' (first
    | simp (disch := decide) only [↓State.setChan_only, ↓State.chanTrip_only, ↓Only.refl_iff]
    | with_reducible refine Only.ite ?_ ?_
    | split
    | exact Only.refl _ _)

theorem chanReversed_only {ps0 : List Part} {u0 : State} (nn : BitVec 4) (s : State)
    (hps : ∀ q ∈ ([.out, .raised, .regs, .power, .counts] : List Part), q ∈ ps0) :
    Only ps0 u0 (chanReversed nn s) ↔ Only ps0 u0 s := by
  refine Only.iff ?_ hps
  unfold chanReversed
  try dsimp only
  repeat' (first
    | simp (disch := decide) only [↓State.setChan_only, ↓State.chanTo_only, ↓State.fault_low, ↓Only.refl_iff]
    | with_reducible refine Only.ite ?_ ?_
    | split
    | exact Only.refl _ _)

theorem chanUnreversed_only {ps0 : List Part} {u0 : State} (nn : BitVec 4) (s : State)
    (hps : ∀ q ∈ ([.out, .raised, .regs, .power, .counts] : List Part), q ∈ ps0) :
    Only ps0 u0 (chanUnreversed nn s) ↔ Only ps0 u0 s := by
  refine Only.iff ?_ hps
  unfold chanUnreversed
  try dsimp only
  repeat' (first
    | simp (disch := decide) only [↓State.setChan_only, ↓State.chanTo_only, ↓Only.refl_iff]
    | with_reducible refine Only.ite ?_ ?_
    | split
    | exact Only.refl _ _)

theorem chanPg_only {ps0 : List Part} {u0 : State} (nn : BitVec 4) (s : State)
    (hps : ∀ q ∈ ([.out, .raised, .now, .power] : List Part), q ∈ ps0) :
    Only ps0 u0 (chanPg nn s) ↔ Only ps0 u0 s := by
  refine Only.iff ?_ hps
  unfold chanPg
  try dsimp only
  repeat' (first
    | simp (disch := decide) only [↓State.advanceTo_only, ↓State.setPg_only, ↓Only.refl_iff]
    | with_reducible refine Only.ite ?_ ?_
    | split
    | exact Only.refl _ _)

theorem chanPgGone_only {ps0 : List Part} {u0 : State} (nn : BitVec 4) (s : State)
    (hps : ∀ q ∈ ([.out, .raised, .power] : List Part), q ∈ ps0) :
    Only ps0 u0 (chanPgGone nn s) ↔ Only ps0 u0 s := by
  refine Only.iff ?_ hps
  unfold chanPgGone
  try dsimp only
  repeat' (first
    | simp (disch := decide) only [↓State.setPg_only, ↓Only.refl_iff]
    | with_reducible refine Only.ite ?_ ?_
    | exact Only.refl _ _)

theorem chanRetry_only {ps0 : List Part} {u0 : State} (nn : BitVec 4) (s : State)
    (hps : ∀ q ∈ ([.out, .raised, .now, .regs, .power, .counts] : List Part), q ∈ ps0) :
    Only ps0 u0 (chanRetry nn s) ↔ Only ps0 u0 s := by
  refine Only.iff ?_ hps
  unfold chanRetry
  try dsimp only
  repeat' (first
    | simp (disch := decide) only [↓State.advanceTo_only, ↓State.setChan_only, ↓State.chanTo_only, ↓Only.refl_iff]
    | with_reducible refine Only.ite ?_ ?_
    | split
    | exact Only.refl _ _)

theorem chanRetryReset_only {ps0 : List Part} {u0 : State} (nn : BitVec 4) (s : State)
    (hps : ∀ q ∈ ([.out, .now, .power] : List Part), q ∈ ps0) :
    Only ps0 u0 (chanRetryReset nn s) ↔ Only ps0 u0 s := by
  refine Only.iff ?_ hps
  unfold chanRetryReset
  try dsimp only
  repeat' (first
    | simp (disch := decide) only [↓State.advanceTo_only, ↓State.setChan_only, ↓Only.refl_iff]
    | with_reducible refine Only.ite ?_ ?_
    | split
    | exact Only.refl _ _)

theorem chanRetryCmd_only {ps0 : List Part} {u0 : State} (nn : BitVec 4) (s : State)
    (hps : ∀ q ∈ ([.out, .raised, .regs, .power, .counts] : List Part), q ∈ ps0) :
    Only ps0 u0 (chanRetryCmd nn s) ↔ Only ps0 u0 s := by
  refine Only.iff ?_ hps
  unfold chanRetryCmd
  try dsimp only
  repeat' (first
    | simp (disch := decide) only [↓State.setChan_only, ↓State.chanTo_only, ↓State.bump_only, ↓Only.refl_iff]
    | with_reducible refine Only.ite ?_ ?_
    | split
    | exact Only.refl _ _)

theorem pccmd_only {ps0 : List Part} {u0 : State} (src : Src) (v : Nat) (s : State)
    (hps : ∀ q ∈ ([.out, .raised, .regs, .power, .counts] : List Part), q ∈ ps0) :
    Only ps0 u0 (pccmd src v s) ↔ Only ps0 u0 s := by
  refine Only.iff ?_ hps
  unfold pccmd
  try dsimp only
  repeat' (first
    | simp (disch := decide) only [↓chanRetryCmd_only, ↓State.ignored_only, ↓Only.refl_iff]
    | with_reducible refine Only.ite ?_ ?_
    | split
    | exact Only.refl _ _)

theorem gateRelease_only {ps0 : List Part} {u0 : State} (die : Die) (s : State)
    (hps : ∀ q ∈ ([.out, .now, .dieA, .dieB] : List Part), q ∈ ps0) :
    Only ps0 u0 (gateRelease die s) ↔ Only ps0 u0 s := by
  refine Only.iff ?_ hps
  unfold gateRelease
  try dsimp only
  repeat' (first
    | simp (disch := decide) only [↓State.advanceTo_only, ↓State.setDie_only, ↓State.emit_only, ↓Only.refl_iff]
    | with_reducible refine Only.foldl (fun _ _ => ?_) ?_
    | with_reducible refine Only.foldl_snd (fun _ _ => ?_) ?_
    | with_reducible refine Only.ite ?_ ?_
    | split
    | exact Only.refl _ _)

theorem State.pairHalt_only {ps0 : List Part} {u0 : State} (s : State) (p : Pair)
    (hps : ∀ q ∈ ([.raised, .funcs, .ncpA, .ncpB, .counts, .pendA, .pendB] : List Part), q ∈ ps0) :
    Only ps0 u0 (State.pairHalt s p) ↔ Only ps0 u0 s := by
  refine Only.iff ?_ hps
  unfold State.pairHalt
  try dsimp only
  repeat' (first
    | simp (disch := decide) only [↓State.setNcp_only, ↓State.setFunc_only, ↓State.ncpRaise_only, ↓State.fault_low, ↓Only.refl_iff]
    | with_reducible refine Only.ite ?_ ?_
    | split
    | exact Only.refl _ _)

theorem State.syncTrap_only {ps0 : List Part} {u0 : State} (s : State) (p : Pair) (code : Nat) (epc bad : Word) (status imm : Nat)
    (hps : ∀ q ∈ ([.raised, .funcs, .ncpA, .ncpB, .counts, .pendA, .pendB, .urgent] : List Part), q ∈ ps0) :
    Only ps0 u0 (State.syncTrap s p code epc bad status imm) ↔ Only ps0 u0 s := by
  refine Only.iff ?_ hps
  unfold State.syncTrap
  try dsimp only
  repeat' (first
    | simp (disch := decide) only [↓State.setNcp_only, ↓State.pairHalt_only, ↓State.fault_only, ↓Only.refl_iff]
    | with_reducible refine Only.ite ?_ ?_
    | split
    | exact Only.refl _ _)

theorem State.ncpFresh_only {ps0 : List Part} {u0 : State} (s : State) (p : Pair)
    (hps : ∀ q ∈ ([.ncpA, .ncpB, .pendA, .pendB] : List Part), q ∈ ps0) :
    Only ps0 u0 (State.ncpFresh s p) ↔ Only ps0 u0 s := by
  refine Only.iff ?_ hps
  unfold State.ncpFresh
  try dsimp only
  repeat' (first
    | simp (disch := decide) only [↓State.setNcp_only, ↓Only.refl_iff]
    | with_reducible refine Only.ite ?_ ?_
    | exact Only.refl _ _)

theorem State.trapHere_only {ps0 : List Part} {u0 : State} (s : State) (p : Pair) (code : Nat) (bad : Word) (status : Nat)
    (hps : ∀ q ∈ ([.raised, .funcs, .ncpA, .ncpB, .counts, .pendA, .pendB, .urgent] : List Part), q ∈ ps0) :
    Only ps0 u0 (State.trapHere s p code bad status) ↔ Only ps0 u0 s := by
  refine Only.iff ?_ hps
  unfold State.trapHere
  try dsimp only
  repeat' (first
    | simp (disch := decide) only [↓State.syncTrap_only, ↓Only.refl_iff]
    | with_reducible refine Only.ite ?_ ?_
    | exact Only.refl _ _)

theorem State.protTrap_only {ps0 : List Part} {u0 : State} (s : State) (p : Pair) (a : Word)
    (hps : ∀ q ∈ ([.raised, .regs, .funcs, .ncpA, .ncpB, .counts, .pendA, .pendB, .urgent] : List Part), q ∈ ps0) :
    Only ps0 u0 (State.protTrap s p a) ↔ Only ps0 u0 s := by
  refine Only.iff ?_ hps
  unfold State.protTrap
  try dsimp only
  repeat' (first
    | simp (disch := decide) only [↓State.bump_only, ↓State.trapHere_only, ↓Only.refl_iff]
    | with_reducible refine Only.ite ?_ ?_
    | exact Only.refl _ _)

theorem State.issue_via {ps : List Part} {u : State} (s : State) (p : Pair) (f : State → State) (w : Bool)
    (hps : ∀ q ∈ ([.raised, .regs, .funcs, .ncpA, .ncpB, .counts, .pendA, .pendB, .urgent] : List Part), q ∈ ps) (hf : Only ps s (f s)) (h : Only ps u s) : Only ps u (s.issue p f w) := by
  unfold State.issue
  dsimp only
  refine Only.ite h (Only.ite ?_ (Only.ite ?_ (h.trans hf)))
  · exact (State.trapHere_only _ _ _ _ _ (fun q hq => hps q (by revert q; decide))).2 h
  · exact (State.protTrap_only _ _ _ (fun q hq => hps q (by revert q; decide))).2 h

theorem State.compute_only {ps0 : List Part} {u0 : State} (s : State) (p : Pair) (f : Ncp → Ncp)
    (hps : ∀ q ∈ ([.raised, .regs, .funcs, .ncpA, .ncpB, .counts, .pendA, .pendB, .urgent] : List Part), q ∈ ps0) :
    Only ps0 u0 (State.compute s p f) ↔ Only ps0 u0 s := by
  refine Only.iff ?_ hps
  unfold State.compute
  try dsimp only
  repeat' (first
    | simp (disch := decide) only [↓State.setNcp_only, ↓Only.refl_iff]
    | with_reducible refine State.issue_via _ _ _ _ (by decide) ?_ ?_
    | with_reducible refine Only.ite ?_ ?_
    | exact Only.refl _ _)

theorem State.alu_only {ps0 : List Part} {u0 : State} (s : State) (p : Pair) (d : BitVec 4) (r : Ncp → Word × Flags)
    (hps : ∀ q ∈ ([.raised, .regs, .funcs, .ncpA, .ncpB, .counts, .pendA, .pendB, .urgent] : List Part), q ∈ ps0) :
    Only ps0 u0 (State.alu s p d r) ↔ Only ps0 u0 s := by
  refine Only.iff ?_ hps
  unfold State.alu
  try dsimp only
  repeat' (first
    | simp (disch := decide) only [↓State.compute_only, ↓Only.refl_iff]
    | with_reducible refine Only.ite ?_ ?_
    | exact Only.refl _ _)

theorem State.branchIf_only {ps0 : List Part} {u0 : State} (s : State) (p : Pair) (i : BitVec 14) (c : Ncp → Bool)
    (hps : ∀ q ∈ ([.raised, .regs, .funcs, .ncpA, .ncpB, .counts, .pendA, .pendB, .urgent] : List Part), q ∈ ps0) :
    Only ps0 u0 (State.branchIf s p i c) ↔ Only ps0 u0 s := by
  refine Only.iff ?_ hps
  unfold State.branchIf
  try dsimp only
  repeat' (first
    | simp (disch := decide) only [↓State.setNcp_only, ↓Only.refl_iff]
    | with_reducible refine State.issue_via _ _ _ _ (by decide) ?_ ?_
    | with_reducible refine Only.ite ?_ ?_
    | split
    | exact Only.refl _ _)

theorem State.pelEntry_only {ps0 : List Part} {u0 : State} (s : State) (status dom count detail node slot addr : Nat)
    (hps : ∀ q ∈ ([.raised, .regs, .counts] : List Part), q ∈ ps0) :
    Only ps0 u0 (State.pelEntry s status dom count detail node slot addr) ↔ Only ps0 u0 s := by
  refine Only.iff ?_ hps
  unfold State.pelEntry
  try dsimp only
  repeat' (first
    | simp (disch := decide) only [↓State.bump_only, ↓State.fault_low, ↓State.setNat_only, ↓Only.refl_iff]
    | with_reducible refine Only.ite ?_ ?_
    | split
    | exact Only.refl _ _)

theorem State.pelLog_only {ps0 : List Part} {u0 : State} (s : State) (status dom count detail node slot addr : Nat)
    (hps : ∀ q ∈ ([.raised, .regs, .counts] : List Part), q ∈ ps0) :
    Only ps0 u0 (State.pelLog s status dom count detail node slot addr) ↔ Only ps0 u0 s := by
  refine Only.iff ?_ hps
  unfold State.pelLog
  try dsimp only
  repeat' (first
    | simp (disch := decide) only [↓State.pelEntry_only, ↓State.fault_low, ↓Only.refl_iff]
    | with_reducible refine Only.ite ?_ ?_
    | exact Only.refl _ _)

theorem State.ncpComplete_only {ps0 : List Part} {u0 : State} (s : State) (p : Pair) (status : Nat) (data : List Byte)
    (hps : ∀ q ∈ ([.raised, .funcs, .ncpA, .ncpB, .counts, .pendA, .pendB, .urgent] : List Part), q ∈ ps0) :
    Only ps0 u0 (State.ncpComplete s p status data) ↔ Only ps0 u0 s := by
  refine Only.iff ?_ hps
  unfold State.ncpComplete
  try dsimp only
  repeat' (first
    | simp (disch := decide) only [↓State.setNcp_only, ↓State.trapHere_only, ↓Only.refl_iff]
    | with_reducible refine Only.ite ?_ ?_
    | split
    | exact Only.refl _ _)

theorem State.pcieComplete_only {ps0 : List Part} {u0 : State} (s : State) (status : Nat) (write : Bool) (len : Nat) (data : List Byte)
    (hps : ∀ q ∈ ([.out] : List Part), q ∈ ps0) :
    Only ps0 u0 (State.pcieComplete s status write len data) ↔ Only ps0 u0 s := by
  refine Only.iff ?_ hps
  unfold State.pcieComplete
  try dsimp only
  repeat' (first
    | simp (disch := decide) only [↓State.emit_only, ↓Only.refl_iff]
    | with_reducible refine Only.ite ?_ ?_
    | split
    | exact Only.refl _ _)

theorem State.completeTo_only {ps0 : List Part} {u0 : State} (s : State) (w : Who) (write : Bool) (len status detail done : Nat) (data : List Byte)
    (hps : ∀ q ∈ ([.out, .raised, .funcs, .dma, .ncpA, .ncpB, .usb, .counts, .pendA, .pendB, .urgent] : List Part), q ∈ ps0) :
    Only ps0 u0 (State.completeTo s w write len status detail done data) ↔ Only ps0 u0 s := by
  refine Only.iff ?_ hps
  unfold State.completeTo
  try dsimp only
  repeat' (first
    | simp (disch := decide) only [↓State.emit_only, ↓State.ncpComplete_only, ↓State.pcieComplete_only, ↓Only.with_dma_usb, ↓Only.refl_iff]
    | with_reducible refine Only.ite ?_ ?_
    | split
    | exact Only.refl _ _)

theorem State.discardLine_only {ps0 : List Part} {u0 : State} (s : State) (l : PfLine)
    (hps : ∀ q ∈ ([.raised, .regs, .xact, .counts] : List Part), q ∈ ps0) :
    Only ps0 u0 (State.discardLine s l) ↔ Only ps0 u0 s := by
  refine Only.iff ?_ hps
  unfold State.discardLine
  try dsimp only
  repeat' (first
    | simp (disch := decide) only [↓State.setNat_only, ↓State.pelEntry_only, ↓State.fault_low, ↓Only.with_xact, ↓Only.refl_iff]
    | with_reducible refine Only.foldl (fun _ _ => ?_) ?_
    | with_reducible refine Only.foldl_snd (fun _ _ => ?_) ?_
    | with_reducible refine Only.getD (fun _ _ => ?_) ?_
    | with_reducible refine Only.ite ?_ ?_
    | split
    | exact Only.refl _ _)

theorem State.discardWhere_only {ps0 : List Part} {u0 : State} (s : State) (f : PfLine → Bool)
    (hps : ∀ q ∈ ([.raised, .regs, .xact, .counts] : List Part), q ∈ ps0) :
    Only ps0 u0 (State.discardWhere s f) ↔ Only ps0 u0 s := by
  refine Only.iff ?_ hps
  unfold State.discardWhere
  try dsimp only
  repeat' (first
    | simp (disch := decide) only [↓State.discardLine_only, ↓Only.refl_iff]
    | with_reducible refine Only.foldl (fun _ _ => ?_) ?_
    | with_reducible refine Only.foldl_snd (fun _ _ => ?_) ?_
    | with_reducible refine Only.ite ?_ ?_
    | exact Only.refl _ _)

theorem State.fillLine_only {ps0 : List Part} {u0 : State} (s : State) (l : PfLine)
    (hps : ∀ q ∈ ([.raised, .regs, .xact, .counts] : List Part), q ∈ ps0) :
    Only ps0 u0 (State.fillLine s l) ↔ Only ps0 u0 s := by
  refine Only.iff ?_ hps
  unfold State.fillLine
  try dsimp only
  repeat' (first
    | simp (disch := decide) only [↓State.discardWhere_only, ↓State.discardLine_only, ↓Only.with_xact, ↓Only.refl_iff]
    | with_reducible refine Only.ite ?_ ?_
    | split
    | exact Only.refl _ _)

theorem State.serveLine_only {ps0 : List Part} {u0 : State} (s : State) (l : PfLine) (o k : Nat)
    (hps : ∀ q ∈ ([.xact] : List Part), q ∈ ps0) :
    Only ps0 u0 (State.serveLine s l o k).2 ↔ Only ps0 u0 s := by
  refine Only.iff ?_ hps
  unfold State.serveLine
  try dsimp only
  repeat' (first
    | simp (disch := decide) only [↓Only.with_xact, ↓Only.refl_iff]
    | with_reducible refine Only.ite ?_ ?_
    | split
    | exact Only.refl _ _)

theorem State.partDone_only {ps0 : List Part} {u0 : State} (s : State) (id part status detail : Nat) (data : List Byte)
    (hps : ∀ q ∈ ([.out, .raised, .funcs, .dma, .ncpA, .ncpB, .usb, .xact, .counts, .pendA, .pendB, .urgent] : List Part), q ∈ ps0) :
    Only ps0 u0 (State.partDone s id part status detail data) ↔ Only ps0 u0 s := by
  refine Only.iff ?_ hps
  unfold State.partDone
  try dsimp only
  repeat' (first
    | simp (disch := decide) only [↓State.completeTo_only, ↓Only.with_xact, ↓Only.refl_iff]
    | with_reducible refine Only.foldl (fun _ _ => ?_) ?_
    | with_reducible refine Only.foldl_snd (fun _ _ => ?_) ?_
    | with_reducible refine Only.getD (fun _ _ => ?_) ?_
    | with_reducible refine Only.ite ?_ ?_
    | split
    | exact Only.refl _ _)

theorem State.issueRequest_only {ps0 : List Part} {u0 : State} (s : State) (r : Request)
    (hps : ∀ q ∈ ([.out, .raised, .limits, .regs, .funcs, .dma, .ncpA, .ncpB, .fwd, .usb, .xact, .counts, .pendA, .pendB, .urgent] : List Part), q ∈ ps0) :
    Only ps0 u0 (State.issueRequest s r) ↔ Only ps0 u0 s := by
  refine Only.iff ?_ hps
  unfold State.issueRequest
  try dsimp only
  repeat' (first
    | simp (disch := decide) only [↓State.originate_only, ↓State.partDone_only, ↓Only.with_xact, ↓Only.refl_iff]
    | with_reducible refine Only.ite ?_ ?_
    | split
    | exact Only.refl _ _)

theorem xactAdmit_only {ps0 : List Part} {u0 : State} (s : State)
    (hps : ∀ q ∈ ([.out, .raised, .limits, .regs, .funcs, .dma, .ncpA, .ncpB, .fwd, .usb, .xact, .counts, .pendA, .pendB, .urgent] : List Part), q ∈ ps0) :
    Only ps0 u0 (xactAdmit s) ↔ Only ps0 u0 s := by
  refine Only.iff ?_ hps
  unfold xactAdmit
  try dsimp only
  repeat' (first
    | simp (disch := decide) only [↓State.originationAdmit_only, ↓State.partDone_only, ↓Only.refl_iff]
    | with_reducible refine Only.ite ?_ ?_
    | split
    | exact Only.refl _ _)

theorem State.sendRequest_only {ps0 : List Part} {u0 : State} (s : State) (r : Request)
    (hps : ∀ q ∈ ([.out, .raised, .limits, .regs, .funcs, .dma, .ncpA, .ncpB, .fwd, .usb, .xact, .counts, .pendA, .pendB, .urgent] : List Part), q ∈ ps0) :
    Only ps0 u0 (State.sendRequest s r) ↔ Only ps0 u0 s := by
  refine Only.iff ?_ hps
  unfold State.sendRequest
  try dsimp only
  repeat' (first
    | simp (disch := decide) only [↓State.issueRequest_only, ↓Only.with_xact, ↓Only.refl_iff]
    | with_reducible refine Only.ite ?_ ?_
    | split
    | exact Only.refl _ _)

theorem xactWaitEnd_only {ps0 : List Part} {u0 : State} (s : State)
    (hps : ∀ q ∈ ([.out, .raised, .limits, .regs, .funcs, .dma, .ncpA, .ncpB, .fwd, .usb, .xact, .counts, .pendA, .pendB, .urgent] : List Part), q ∈ ps0) :
    Only ps0 u0 (xactWaitEnd s) ↔ Only ps0 u0 s := by
  refine Only.iff ?_ hps
  unfold xactWaitEnd
  try dsimp only
  repeat' (first
    | simp (disch := decide) only [↓State.issueRequest_only, ↓Only.with_xact, ↓Only.refl_iff]
    | with_reducible refine Only.ite ?_ ?_
    | split
    | exact Only.refl _ _)

theorem State.dropWaiting_only {ps0 : List Part} {u0 : State} (s : State)
    (hps : ∀ q ∈ ([.out, .raised, .regs, .funcs, .dma, .ncpA, .ncpB, .usb, .xact, .counts, .pendA, .pendB, .urgent] : List Part), q ∈ ps0) :
    Only ps0 u0 (State.dropWaiting s) ↔ Only ps0 u0 s := by
  refine Only.iff ?_ hps
  unfold State.dropWaiting
  try dsimp only
  repeat' (first
    | simp (disch := decide) only [↓State.pelLog_only, ↓State.partDone_only, ↓Only.with_xact, ↓Only.refl_iff]
    | with_reducible refine Only.foldl (fun _ _ => ?_) ?_
    | with_reducible refine Only.foldl_snd (fun _ _ => ?_) ?_
    | with_reducible refine Only.ite ?_ ?_
    | split
    | exact Only.refl _ _)

theorem State.freeEntry_only {ps0 : List Part} {u0 : State} (s : State) (e : Nat)
    (hps : ∀ q ∈ ([.xact] : List Part), q ∈ ps0) :
    Only ps0 u0 (State.freeEntry s e) ↔ Only ps0 u0 s := by
  refine Only.iff ?_ hps
  unfold State.freeEntry
  try dsimp only
  repeat' (first
    | simp (disch := decide) only [↓Only.with_xact, ↓Only.refl_iff]
    | with_reducible refine Only.ite ?_ ?_
    | exact Only.refl _ _)

theorem State.entryDone_only {ps0 : List Part} {u0 : State} (s : State) (e : Nat) (o : Outst) (status detail : Nat) (data : List Byte) (mask : Nat)
    (hps : ∀ q ∈ ([.out, .raised, .regs, .funcs, .dma, .ncpA, .ncpB, .usb, .xact, .counts, .pendA, .pendB, .urgent] : List Part), q ∈ ps0) :
    Only ps0 u0 (State.entryDone s e o status detail data mask) ↔ Only ps0 u0 s := by
  refine Only.iff ?_ hps
  unfold State.entryDone
  try dsimp only
  repeat' (first
    | simp (disch := decide) only [↓State.freeEntry_only, ↓State.fillLine_only, ↓State.serveLine_only, ↓State.partDone_only, ↓Only.refl_iff]
    | with_reducible refine Only.ite ?_ ?_
    | split
    | with_reducible refine Only.snd ?_ (by assumption)
    | with_reducible refine Only.fst ?_ (by assumption)
    | exact Only.refl _ _)

theorem xactResponse_only {ps0 : List Part} {u0 : State} (s : State)
    (hps : ∀ q ∈ ([.out, .raised, .limits, .regs, .funcs, .dma, .ncpA, .ncpB, .fwd, .usb, .xact, .counts, .pendA, .pendB, .urgent] : List Part), q ∈ ps0) :
    Only ps0 u0 (xactResponse s) ↔ Only ps0 u0 s := by
  refine Only.iff ?_ hps
  unfold xactResponse
  try dsimp only
  repeat' (first
    | simp (disch := decide) only [↓State.bump_only, ↓State.entryDone_only, ↓State.faultMs_low, ↓Only.refl_iff]
    | with_reducible refine Only.step (State.takeTurn_some (by assumption)) (by decide) ?_
    | with_reducible refine Only.ite ?_ ?_
    | split
    | with_reducible refine Only.snd ?_ (by assumption)
    | with_reducible refine Only.fst ?_ (by assumption)
    | exact Only.refl _ _)

theorem xactTimeout_only {ps0 : List Part} {u0 : State} (e : BitVec 9) (s : State)
    (hps : ∀ q ∈ ([.out, .raised, .now, .regs, .funcs, .dma, .ncpA, .ncpB, .usb, .xact, .counts, .pendA, .pendB, .urgent] : List Part), q ∈ ps0) :
    Only ps0 u0 (xactTimeout e s) ↔ Only ps0 u0 s := by
  refine Only.iff ?_ hps
  unfold xactTimeout
  try dsimp only
  repeat' (first
    | simp (disch := decide) only [↓State.advanceTo_only, ↓State.fault_low, ↓State.entryDone_only, ↓Only.refl_iff]
    | with_reducible refine Only.ite ?_ ?_
    | split
    | exact Only.refl _ _)

theorem xactErrorMessage_only {ps0 : List Part} {u0 : State} (s : State)
    (hps : ∀ q ∈ ([.raised, .regs, .fwd, .counts] : List Part), q ∈ ps0) :
    Only ps0 u0 (xactErrorMessage s) ↔ Only ps0 u0 s := by
  refine Only.iff ?_ hps
  unfold xactErrorMessage
  try dsimp only
  repeat' (first
    | simp (disch := decide) only [↓State.bump_only, ↓State.pelLog_only, ↓Only.refl_iff]
    | with_reducible refine Only.step (State.takeInbox_some (by assumption)) (by decide) ?_
    | with_reducible refine Only.ite ?_ ?_
    | split
    | with_reducible refine Only.snd ?_ (by assumption)
    | with_reducible refine Only.fst ?_ (by assumption)
    | exact Only.refl _ _)

theorem xactLineAged_only {ps0 : List Part} {u0 : State} (s : State)
    (hps : ∀ q ∈ ([.raised, .now, .regs, .xact, .counts] : List Part), q ∈ ps0) :
    Only ps0 u0 (xactLineAged s) ↔ Only ps0 u0 s := by
  refine Only.iff ?_ hps
  unfold xactLineAged
  try dsimp only
  repeat' (first
    | simp (disch := decide) only [↓State.advanceTo_only, ↓State.discardLine_only, ↓Only.refl_iff]
    | with_reducible refine Only.foldl (fun _ _ => ?_) ?_
    | with_reducible refine Only.foldl_snd (fun _ _ => ?_) ?_
    | with_reducible refine Only.ite ?_ ?_
    | split
    | exact Only.refl _ _)

theorem xactSefree_only {ps0 : List Part} {u0 : State} (v : BitVec 16) (s : State)
    (hps : ∀ q ∈ ([.xact] : List Part), q ∈ ps0) :
    Only ps0 u0 (xactSefree v s) ↔ Only ps0 u0 s := by
  refine Only.iff ?_ hps
  unfold xactSefree
  try dsimp only
  repeat' (first
    | simp (disch := decide) only [↓Only.with_xact, ↓Only.refl_iff]
    | with_reducible refine Only.ite ?_ ?_
    | exact Only.refl _ _)

end Sys2Proof.Machine
end

