-- ==== Sys2Proof/Laws/TouchFuncs.lean ====
section
/-! SUPPORT. What each operation of host queues, functions and faults can touch: one lemma for each, in the form in which later
proofs cite it. -/

namespace Sys2Proof.Machine

theorem localGap_only {ps0 : List Part} {u0 : State} (q : BitVec 4) (s : State)
    (hps : ∀ q ∈ ([.raised, .queues, .counts] : List Part), q ∈ ps0) :
    Only ps0 u0 (localGap q s) ↔ Only ps0 u0 s := by
  refine Only.iff ?_ hps
  unfold localGap
  try dsimp only
  repeat' (first
    | simp (disch := decide) only [↓State.storeLocalGap_only, ↓Only.refl_iff]
    | with_reducible refine Only.ite ?_ ?_
    | split
    | exact Only.refl _ _)

theorem sporeSend_only {ps0 : List Part} {u0 : State} (q : BitVec 4) (s : State)
    (hps : ∀ q ∈ ([.out, .raised, .now, .limits, .regs, .queues, .hostq, .fwd, .counts, .pba] : List Part), q ∈ ps0) :
    Only ps0 u0 (sporeSend q s) ↔ Only ps0 u0 s := by
  refine Only.iff ?_ hps
  unfold sporeSend
  try dsimp only
  repeat' (first
    | simp (disch := decide) only [↓State.advanceTo_only, ↓State.changeQueue_only, ↓State.storeLocalGap_only, ↓State.bumpBy_only, ↓State.hostArrive_only, ↓State.originate_only, ↓Only.refl_iff]
    | with_reducible refine Only.ite ?_ ?_
    | split
    | exact Only.refl _ _)

theorem State.sporeTake_only {ps0 : List Part} {u0 : State} (s : State) (d : Delivered)
    (hps : ∀ q ∈ ([.out, .raised, .limits, .regs, .hostq, .counts, .pba] : List Part), q ∈ ps0) :
    Only ps0 u0 (State.sporeTake s d) ↔ Only ps0 u0 s := by
  refine Only.iff ?_ hps
  unfold State.sporeTake
  try dsimp only
  repeat' (first
    | simp (disch := decide) only [↓State.bump_only, ↓State.fault_low, ↓State.hostArrive_only, ↓Only.refl_iff]
    | with_reducible refine Only.ite ?_ ?_
    | split
    | exact Only.refl _ _)

theorem sporeReceived_only {ps0 : List Part} {u0 : State} (s : State)
    (hps : ∀ q ∈ ([.out, .raised, .limits, .regs, .hostq, .fwd, .counts, .pba] : List Part), q ∈ ps0) :
    Only ps0 u0 (sporeReceived s) ↔ Only ps0 u0 s := by
  refine Only.iff ?_ hps
  unfold sporeReceived
  try dsimp only
  repeat' (first
    | simp (disch := decide) only [↓State.sporeTake_only, ↓State.bump_only, ↓Only.with_fwd, ↓Only.refl_iff]
    | with_reducible refine Only.step (State.takeInbox_some (by assumption)) (by decide) ?_
    | with_reducible refine Only.foldl (fun _ _ => ?_) ?_
    | with_reducible refine Only.foldl_snd (fun _ _ => ?_) ?_
    | with_reducible refine Only.ite ?_ ?_
    | split
    | with_reducible refine Only.snd ?_ (by assumption)
    | with_reducible refine Only.fst ?_ (by assumption)
    | exact Only.refl _ _)

theorem sporeOrderExpiry_only {ps0 : List Part} {u0 : State} (src : BitVec 12) (slot : BitVec 1) (cls : BitVec 3) (s : State)
    (hps : ∀ q ∈ ([.out, .raised, .now, .limits, .regs, .hostq, .fwd, .counts, .pba] : List Part), q ∈ ps0) :
    Only ps0 u0 (sporeOrderExpiry src slot cls s) ↔ Only ps0 u0 s := by
  refine Only.iff ?_ hps
  unfold sporeOrderExpiry
  try dsimp only
  repeat' (first
    | simp (disch := decide) only [↓State.advanceTo_only, ↓State.bump_only, ↓State.fault_low, ↓State.sporeTake_only, ↓Only.with_fwd, ↓Only.refl_iff]
    | with_reducible refine Only.foldl (fun _ _ => ?_) ?_
    | with_reducible refine Only.foldl_snd (fun _ _ => ?_) ?_
    | with_reducible refine Only.ite ?_ ?_
    | split
    | exact Only.refl _ _)

theorem State.hqEnable_only {ps0 : List Part} {u0 : State} (s : State) (h : Nat)
    (hps : ∀ q ∈ ([.regs, .hostq, .counts] : List Part), q ∈ ps0) :
    Only ps0 u0 (State.hqEnable s h) ↔ Only ps0 u0 s := by
  refine Only.iff ?_ hps
  unfold State.hqEnable
  try dsimp only
  repeat' (first
    | simp (disch := decide) only [↓State.setNat_only, ↓State.setHq_only, ↓Only.refl_iff]
    | with_reducible refine Only.ite ?_ ?_
    | exact Only.refl _ _)

theorem hqctlWrite_only {ps0 : List Part} {u0 : State} (src : Src) (h : BitVec 6) (v : Word) (s : State)
    (hps : ∀ q ∈ ([.raised, .regs, .hostq, .counts] : List Part), q ∈ ps0) :
    Only ps0 u0 (hqctlWrite src h v s) ↔ Only ps0 u0 s := by
  refine Only.iff ?_ hps
  unfold hqctlWrite
  try dsimp only
  repeat' (first
    | simp (disch := decide) only [↓State.ignored_only, ↓State.setReg_only, ↓State.hqEnable_only, ↓Only.refl_iff]
    | with_reducible refine Only.ite ?_ ?_
    | split
    | exact Only.refl _ _)

theorem hqconsWrite_only {ps0 : List Part} {u0 : State} (src : Src) (h : BitVec 6) (v : Word) (s : State)
    (hps : ∀ q ∈ ([.out, .raised, .regs, .hostq, .counts, .pba] : List Part), q ∈ ps0) :
    Only ps0 u0 (hqconsWrite src h v s) ↔ Only ps0 u0 s := by
  refine Only.iff ?_ hps
  unfold hqconsWrite
  try dsimp only
  repeat' (first
    | simp (disch := decide) only [↓State.ignored_only, ↓State.setReg_only, ↓State.hqGap_only, ↓Only.refl_iff]
    | with_reducible refine Only.ite ?_ ?_
    | split
    | exact Only.refl _ _)

theorem msixTimeout_only {ps0 : List Part} {u0 : State} (h : BitVec 6) (s : State)
    (hps : ∀ q ∈ ([.out, .now, .regs, .hostq, .counts, .pba] : List Part), q ∈ ps0) :
    Only ps0 u0 (msixTimeout h s) ↔ Only ps0 u0 s := by
  refine Only.iff ?_ hps
  unfold msixTimeout
  try dsimp only
  repeat' (first
    | simp (disch := decide) only [↓State.advanceTo_only, ↓State.hqSignal_only, ↓Only.refl_iff]
    | with_reducible refine Only.ite ?_ ?_
    | split
    | exact Only.refl _ _)

theorem pcieLinkUp_only {ps0 : List Part} {u0 : State} (width speed : BitVec 3) (s : State)
    (hps : ∀ q ∈ ([.pcie, .pba] : List Part), q ∈ ps0) :
    Only ps0 u0 (pcieLinkUp width speed s) ↔ Only ps0 u0 s := by
  refine Only.iff ?_ hps
  unfold pcieLinkUp
  try dsimp only
  repeat' (first
    | simp (disch := decide) only [↓Only.with_pcie, ↓Only.refl_iff]
    | with_reducible refine Only.ite ?_ ?_
    | split
    | exact Only.refl _ _)

theorem pcieLinkDown_only {ps0 : List Part} {u0 : State} (s : State)
    (hps : ∀ q ∈ ([.raised, .regs, .pcie, .linkW, .linkE, .linkT, .counts, .pba] : List Part), q ∈ ps0) :
    Only ps0 u0 (pcieLinkDown s) ↔ Only ps0 u0 s := by
  refine Only.iff ?_ hps
  unfold pcieLinkDown
  try dsimp only
  repeat' (first
    | simp (disch := decide) only [↓State.bump_only, ↓State.fault_low, ↓Only.with_pcie, ↓Only.refl_iff]
    | with_reducible refine Only.ite ?_ ?_
    | split
    | exact Only.refl _ _)

theorem pcieConfig_only {ps0 : List Part} {u0 : State} (bme msixEn fmask : Bool) (dstate : BitVec 2) (s : State)
    (hps : ∀ q ∈ ([.out, .raised, .pcie, .linkW, .linkE, .linkT, .pba] : List Part), q ∈ ps0) :
    Only ps0 u0 (pcieConfig bme msixEn fmask dstate s) ↔ Only ps0 u0 s := by
  refine Only.iff ?_ hps
  unfold pcieConfig
  try dsimp only
  repeat' (first
    | simp (disch := decide) only [↓State.flushMsix_only, ↓Only.with_pcie, ↓Only.refl_iff]
    | with_reducible refine Only.ite ?_ ?_
    | split
    | exact Only.refl _ _)

theorem pcieFlr_only {ps0 : List Part} {u0 : State} (s : State)
    (hps : ∀ q ∈ ([.raised, .regs, .dma, .pcie, .counts, .pba] : List Part), q ∈ ps0) :
    Only ps0 u0 (pcieFlr s) ↔ Only ps0 u0 s := by
  refine Only.iff ?_ hps
  unfold pcieFlr
  try dsimp only
  repeat' (first
    | simp (disch := decide) only [↓State.setNat_only, ↓State.setReg_only, ↓State.bump_only, ↓State.event_only, ↓Only.with_dma_pcie, ↓Only.refl_iff]
    | with_reducible refine Only.foldl (fun _ _ => ?_) ?_
    | with_reducible refine Only.foldl_snd (fun _ _ => ?_) ?_
    | with_reducible refine Only.ite ?_ ?_
    | split
    | exact Only.refl _ _)

theorem State.setDma_only {ps0 : List Part} {u0 : State} (s : State) (c : Nat) (x : Dma)
    (hps : ∀ q ∈ ([.dma] : List Part), q ∈ ps0) :
    Only ps0 u0 (State.setDma s c x) ↔ Only ps0 u0 s := by
  refine Only.iff ?_ hps
  unfold State.setDma
  try dsimp only
  repeat' (first
    | simp (disch := decide) only [↓Only.with_dma, ↓Only.refl_iff]
    | with_reducible refine Only.ite ?_ ?_
    | exact Only.refl _ _)

theorem State.dmaNext_only {ps0 : List Part} {u0 : State} (s : State) (c : Nat)
    (hps : ∀ q ∈ ([.dma] : List Part), q ∈ ps0) :
    Only ps0 u0 (State.dmaNext s c) ↔ Only ps0 u0 s := by
  refine Only.iff ?_ hps
  unfold State.dmaNext
  try dsimp only
  repeat' (first
    | simp (disch := decide) only [↓State.setDma_only, ↓Only.refl_iff]
    | with_reducible refine Only.ite ?_ ?_
    | split
    | exact Only.refl _ _)

theorem State.dmaStop_only {ps0 : List Part} {u0 : State} (s : State) (c : Nat)
    (hps : ∀ q ∈ ([.dma] : List Part), q ∈ ps0) :
    Only ps0 u0 (State.dmaStop s c) ↔ Only ps0 u0 s := by
  refine Only.iff ?_ hps
  unfold State.dmaStop
  try dsimp only
  repeat' (first
    | simp (disch := decide) only [↓State.setDma_only, ↓Only.refl_iff]
    | with_reducible refine Only.ite ?_ ?_
    | split
    | exact Only.refl _ _)

theorem State.dmaStopAll_only {ps0 : List Part} {u0 : State} (s : State)
    (hps : ∀ q ∈ ([.dma] : List Part), q ∈ ps0) :
    Only ps0 u0 (State.dmaStopAll s) ↔ Only ps0 u0 s := by
  refine Only.iff ?_ hps
  unfold State.dmaStopAll
  try dsimp only
  repeat' (first
    | simp (disch := decide) only [↓State.dmaStop_only, ↓Only.refl_iff]
    | with_reducible refine Only.foldl (fun _ _ => ?_) ?_
    | with_reducible refine Only.foldl_snd (fun _ _ => ?_) ?_
    | with_reducible refine Only.ite ?_ ?_
    | exact Only.refl _ _)

theorem dctlWrite_only {ps0 : List Part} {u0 : State} (src : Src) (c : BitVec 3) (v : Word) (s : State)
    (hps : ∀ q ∈ ([.raised, .regs, .dma, .counts] : List Part), q ∈ ps0) :
    Only ps0 u0 (dctlWrite src c v s) ↔ Only ps0 u0 s := by
  refine Only.iff ?_ hps
  unfold dctlWrite
  try dsimp only
  repeat' (first
    | simp (disch := decide) only [↓State.ignored_only, ↓State.setReg_only, ↓State.setNat_only, ↓State.setDma_only, ↓State.dmaStop_only, ↓Only.refl_iff]
    | with_reducible refine Only.ite ?_ ?_
    | split
    | exact Only.refl _ _)

theorem dtailWrite_only {ps0 : List Part} {u0 : State} (c : BitVec 3) (v : Word) (s : State)
    (hps : ∀ q ∈ ([.regs, .dma, .counts] : List Part), q ∈ ps0) :
    Only ps0 u0 (dtailWrite c v s) ↔ Only ps0 u0 s := by
  refine Only.iff ?_ hps
  unfold dtailWrite
  try dsimp only
  repeat' (first
    | simp (disch := decide) only [↓State.setReg_only, ↓State.dmaNext_only, ↓Only.refl_iff]
    | with_reducible refine Only.ite ?_ ?_
    | split
    | exact Only.refl _ _)

theorem State.dmaEnd_only {ps0 : List Part} {u0 : State} (s : State) (c status done : Nat) (irq : Bool)
    (hps : ∀ q ∈ ([.out, .raised, .regs, .dma, .counts, .pba] : List Part), q ∈ ps0) :
    Only ps0 u0 (State.dmaEnd s c status done irq) ↔ Only ps0 u0 s := by
  refine Only.iff ?_ hps
  unfold State.dmaEnd
  try dsimp only
  repeat' (first
    | simp (disch := decide) only [↓State.emit_only, ↓State.setDma_only, ↓State.bump_only, ↓State.sendMsix_only, ↓State.dmaNext_only, ↓State.fault_low, ↓Only.refl_iff]
    | with_reducible refine Only.ite ?_ ?_
    | split
    | exact Only.refl _ _)

theorem dmaComplete_only {ps0 : List Part} {u0 : State} (c : BitVec 3) (desc : List Byte) (s : State)
    (hps : ∀ q ∈ ([.out, .raised, .regs, .dma, .counts, .pba] : List Part), q ∈ ps0) :
    Only ps0 u0 (dmaComplete c desc s) ↔ Only ps0 u0 s := by
  refine Only.iff ?_ hps
  unfold dmaComplete
  try dsimp only
  repeat' (first
    | simp (disch := decide) only [↓State.dmaEnd_only, ↓State.emit_only, ↓Only.refl_iff]
    | with_reducible refine Only.foldl (fun _ _ => ?_) ?_
    | with_reducible refine Only.foldl_snd (fun _ _ => ?_) ?_
    | with_reducible refine Only.ite ?_ ?_
    | split
    | exact Only.refl _ _)

theorem dmaTimeout_only {ps0 : List Part} {u0 : State} (c : BitVec 3) (s : State)
    (hps : ∀ q ∈ ([.out, .raised, .now, .regs, .dma, .counts, .pba] : List Part), q ∈ ps0) :
    Only ps0 u0 (dmaTimeout c s) ↔ Only ps0 u0 s := by
  refine Only.iff ?_ hps
  unfold dmaTimeout
  try dsimp only
  repeat' (first
    | simp (disch := decide) only [↓State.advanceTo_only, ↓State.bump_only, ↓State.dmaEnd_only, ↓Only.refl_iff]
    | with_reducible refine Only.foldl (fun _ _ => ?_) ?_
    | with_reducible refine Only.foldl_snd (fun _ _ => ?_) ?_
    | with_reducible refine Only.ite ?_ ?_
    | split
    | exact Only.refl _ _)

theorem State.laneEnter_only {ps0 : List Part} {u0 : State} (s : State) (m : DWord)
    (hps : ∀ q ∈ ([.counts, .lanes] : List Part), q ∈ ps0) : Only ps0 u0 (s.laneEnter m).1 ↔ Only ps0 u0 s := by
  refine Only.iff ?_ hps
  have hb (t : State) : Only [.counts] t (t.bump 0x210060) := Only.counts _ (by decide)
  have hf (t : State) (x : Faults)
      (hx : ({ x with prio := [], norm := [], ovf := false } : Faults) = { t.flt with prio := [], norm := [], ovf := false }) :
      Only [.lanes] t { t with flt := x } := by
    intro q hq
    cases q <;> first | rfl | exact hx | exact fun _ _ => rfl | exact ⟨rfl, rfl, rfl⟩ | exact absurd (by decide) hq
  unfold State.laneEnter
  split
  · split
    · exact Only.mono (rs := [.counts, .lanes]) (hf s _ rfl) (by decide)
    · exact (hb s).mono (by decide)
  · split
    · exact Only.mono (rs := [.counts, .lanes]) (hf s _ rfl) (by decide)
    · refine Only.step (hf (s.bump 0x210060) _ ?_) (by decide) ((hb s).mono (by decide))
      rw [bump_flt]

theorem State.setFltEntry_only {ps0 : List Part} {u0 : State} (s : State) (e : Nat) (x : FltEntry)
    (hps : ∀ q ∈ ([.flt, .lanes] : List Part), q ∈ ps0) :
    Only ps0 u0 (State.setFltEntry s e x) ↔ Only ps0 u0 s := by
  refine Only.iff ?_ hps
  unfold State.setFltEntry
  try dsimp only
  repeat' (first
    | simp (disch := decide) only [↓Only.with_flt, ↓Only.refl_iff]
    | with_reducible refine Only.ite ?_ ?_
    | exact Only.refl _ _)

theorem State.logFault_only {ps0 : List Part} {u0 : State} (s : State) (m : DWord) (v : Verdict) (halted : Nat)
    (hps : ∀ q ∈ ([.regs, .counts] : List Part), q ∈ ps0) :
    Only ps0 u0 (State.logFault s m v halted) ↔ Only ps0 u0 s := by
  refine Only.iff ?_ hps
  unfold State.logFault
  try dsimp only
  repeat' (first
    | simp (disch := decide) only [↓State.bump_only, ↓State.setNat_only, ↓Only.refl_iff]
    | with_reducible refine Only.getD (fun _ _ => ?_) ?_
    | with_reducible refine Only.ite ?_ ?_
    | split
    | exact Only.refl _ _)

theorem State.applyPending_only {ps0 : List Part} {u0 : State} (s : State) (id : Nat)
    (hps : ∀ q ∈ ([.raised, .regs, .applied, .funcs, .xact, .counts] : List Part), q ∈ ps0) :
    Only ps0 u0 (State.applyPending s id) ↔ Only ps0 u0 s := by
  refine Only.iff ?_ hps
  unfold State.applyPending
  try dsimp only
  repeat' (first
    | simp (disch := decide) only [↓State.setApplied_only, ↓State.discardWhere_only, ↓State.setFunc_only, ↓Only.refl_iff]
    | with_reducible refine Only.foldl (fun _ _ => ?_) ?_
    | with_reducible refine Only.foldl_snd (fun _ _ => ?_) ?_
    | with_reducible refine Only.ite ?_ ?_
    | split
    | exact Only.refl _ _)

theorem State.sporeFresh_only {ps0 : List Part} {u0 : State} (s : State)
    (hps : ∀ q ∈ ([.regs, .queues, .counts] : List Part), q ∈ ps0) :
    Only ps0 u0 (State.sporeFresh s) ↔ Only ps0 u0 s := by
  refine Only.iff ?_ hps
  unfold State.sporeFresh
  try dsimp only
  repeat' (first
    | simp (disch := decide) only [↓State.bumpBy_only, ↓State.setQueue_only, ↓Only.refl_iff]
    | with_reducible refine Only.foldl (fun _ _ => ?_) ?_
    | with_reducible refine Only.foldl_snd (fun _ _ => ?_) ?_
    | with_reducible refine Only.ite ?_ ?_
    | split
    | exact Only.refl _ _)

theorem State.pairFresh_only {ps0 : List Part} {u0 : State} (s : State) (p : Pair)
    (hps : ∀ q ∈ ([.ncpA, .ncpB, .pendA, .pendB] : List Part), q ∈ ps0) :
    Only ps0 u0 (State.pairFresh s p) ↔ Only ps0 u0 s := by
  refine Only.iff ?_ hps
  unfold State.pairFresh
  try dsimp only
  repeat' (first
    | simp (disch := decide) only [↓State.ncpFresh_only, ↓State.setNcp_only, ↓Only.refl_iff]
    | with_reducible refine Only.ite ?_ ?_
    | exact Only.refl _ _)

theorem State.onFresh_only {ps0 : List Part} {u0 : State} (s : State) (id : Nat)
    (hps : ∀ q ∈ ([.out, .raised, .regs, .queues, .flt, .time, .ncpA, .ncpB, .fwd, .lines, .uarts, .encoders, .engines, .fronds, .act, .cans, .brg, .counts, .lanes, .pendA, .pendB] : List Part), q ∈ ps0) :
    Only ps0 u0 (State.onFresh s id) ↔ Only ps0 u0 s := by
  refine Only.iff ?_ hps
  unfold State.onFresh
  try dsimp only
  repeat' (first
    | simp (disch := decide) only [↓State.frondStart_only, ↓State.canFresh_only, ↓State.engineFresh_only, ↓State.uartFresh_only, ↓State.encoderFresh_only, ↓State.fwdFresh_only, ↓State.timeFresh_only, ↓State.actFresh_only, ↓State.brgFresh_only, ↓State.sporeFresh_only, ↓State.pairFresh_only, ↓Only.with_flt, ↓Only.refl_iff]
    | with_reducible refine Only.ite ?_ ?_
    | split
    | exact Only.refl _ _)

theorem State.onAccepted_only {ps0 : List Part} {u0 : State} (s : State) (id : Nat)
    (hps : ∀ q ∈ ([.raised] : List Part), q ∈ ps0) :
    Only ps0 u0 (State.onAccepted s id) ↔ Only ps0 u0 s := by
  refine Only.iff ?_ hps
  unfold State.onAccepted
  try dsimp only
  repeat' (first
    | simp (disch := decide) only [↓State.fault_low, ↓Only.refl_iff]
    | with_reducible refine Only.foldl (fun _ _ => ?_) ?_
    | with_reducible refine Only.foldl_snd (fun _ _ => ?_) ?_
    | with_reducible refine Only.ite ?_ ?_
    | split
    | exact Only.refl _ _)

theorem State.onRunning_only {ps0 : List Part} {u0 : State} (s : State) (id : Nat) (fresh : Bool)
    (hps : ∀ q ∈ ([.out, .raised, .regs, .funcs, .time, .axes, .linkW, .linkE, .linkT, .lines, .engines, .fronds, .cans, .usb, .power, .counts] : List Part), q ∈ ps0) :
    Only ps0 u0 (State.onRunning s id fresh) ↔ Only ps0 u0 s := by
  refine Only.iff ?_ hps
  unfold State.onRunning
  try dsimp only
  repeat' (first
    | simp (disch := decide) only [↓State.portRunning_only, ↓State.frondRunning_only, ↓State.canRunning_only, ↓State.chanRunning_only, ↓State.axisRunning_only, ↓State.engineRunning_only, ↓State.timeRunning_only, ↓State.usbFnConnect_only, ↓Only.refl_iff]
    | with_reducible refine Only.ite ?_ ?_
    | split
    | exact Only.refl _ _)

theorem State.onStopping_only {ps0 : List Part} {u0 : State} (s : State) (id : Nat)
    (hps : ∀ q ∈ ([.out, .raised, .now, .limits, .regs, .funcs, .dma, .time, .axes, .ncpA, .ncpB, .linkW, .linkE, .linkT, .fwd, .lines, .engines, .act, .cans, .brg, .usb, .power, .xact, .counts, .pendA, .pendB, .urgent] : List Part), q ∈ ps0) :
    Only ps0 u0 (State.onStopping s id) ↔ Only ps0 u0 s := by
  refine Only.iff ?_ hps
  unfold State.onStopping
  try dsimp only
  repeat' (first
    | simp (disch := decide) only [↓State.portStopping_only, ↓State.frondStopping_only, ↓State.canStopping_only, ↓State.chanStopping_only, ↓State.axisOff_only, ↓State.engineStopped_only, ↓State.dropWaiting_only, ↓State.bufferFlush_only, ↓State.timeStopped_only, ↓State.actStopping_only, ↓State.brgStopping_only, ↓State.usbHubStopped_only, ↓State.usbFnConnect_only, ↓State.dmaStopAll_only, ↓Only.with_fwd, ↓Only.refl_iff]
    | with_reducible refine Only.ite ?_ ?_
    | split
    | exact Only.refl _ _)

theorem State.onStopped_only {ps0 : List Part} {u0 : State} (s : State) (id : Nat)
    (hps : ∀ q ∈ ([.raised, .regs, .pcie, .linkW, .linkE, .linkT, .fwd, .uarts, .xact, .counts, .pba] : List Part), q ∈ ps0) :
    Only ps0 u0 (State.onStopped s id) ↔ Only ps0 u0 s := by
  refine Only.iff ?_ hps
  unfold State.onStopped
  try dsimp only
  repeat' (first
    | simp (disch := decide) only [↓State.portStopped_only, ↓State.uartStopped_only, ↓State.fwdStopped_only, ↓State.discardWhere_only, ↓Only.with_pcie, ↓Only.refl_iff]
    | with_reducible refine Only.ite ?_ ?_
    | split
    | exact Only.refl _ _)

theorem State.onHalted_only {ps0 : List Part} {u0 : State} (s : State) (id : Nat)
    (hps : ∀ q ∈ ([.out, .raised, .limits, .regs, .funcs, .dma, .time, .axes, .ncpA, .ncpB, .linkW, .linkE, .linkT, .fwd, .lines, .uarts, .engines, .act, .usb, .power, .xact, .counts, .pendA, .pendB, .urgent] : List Part), q ∈ ps0) :
    Only ps0 u0 (State.onHalted s id) ↔ Only ps0 u0 s := by
  refine Only.iff ?_ hps
  unfold State.onHalted
  try dsimp only
  repeat' (first
    | simp (disch := decide) only [↓State.portHalted_only, ↓State.frondHalted_only, ↓State.chanSafeOff_only, ↓State.axisOff_only, ↓State.engineStopped_only, ↓State.engineHaltLines_only, ↓State.uartStopped_only, ↓State.dropWaiting_only, ↓State.discardWhere_only, ↓State.timeStopped_only, ↓State.actHalted_only, ↓State.usbHubStopped_only, ↓State.usbFnConnect_only, ↓State.pairHalt_only, ↓Only.refl_iff]
    | with_reducible refine Only.ite ?_ ?_
    | split
    | exact Only.refl _ _)

theorem State.onCleared_only {ps0 : List Part} {u0 : State} (s : State) (id : Nat)
    (hps : ∀ q ∈ ([.out, .raised, .regs, .ncpA, .ncpB, .power, .counts, .pendA, .pendB] : List Part), q ∈ ps0) :
    Only ps0 u0 (State.onCleared s id) ↔ Only ps0 u0 s := by
  refine Only.iff ?_ hps
  unfold State.onCleared
  try dsimp only
  repeat' (first
    | simp (disch := decide) only [↓State.chanLeaveSafe_only, ↓State.setNcp_only, ↓Only.refl_iff]
    | with_reducible refine Only.ite ?_ ?_
    | split
    | exact Only.refl _ _)

theorem State.staleSweep_only {ps0 : List Part} {u0 : State} (s : State)
    (hps : ∀ q ∈ ([.raised, .regs, .act, .counts] : List Part), q ∈ ps0) :
    Only ps0 u0 (State.staleSweep s) ↔ Only ps0 u0 s := by
  refine Only.iff ?_ hps
  unfold State.staleSweep
  try dsimp only
  repeat' (first
    | simp (disch := decide) only [↓State.freeSlot_only, ↓State.bump_only, ↓State.actRecord_only, ↓State.fault_low, ↓Only.refl_iff]
    | with_reducible refine Only.foldl (fun _ _ => ?_) ?_
    | with_reducible refine Only.foldl_snd (fun _ _ => ?_) ?_
    | with_reducible refine Only.ite ?_ ?_
    | split
    | exact Only.refl _ _)

theorem State.stopOne_only {ps0 : List Part} {u0 : State} (s : State) (id : Nat) (restart : Bool)
    (hps : ∀ q ∈ ([.out, .raised, .now, .limits, .regs, .funcs, .dma, .time, .axes, .ncpA, .ncpB, .linkW, .linkE, .linkT, .fwd, .lines, .engines, .act, .cans, .brg, .usb, .power, .xact, .counts, .pendA, .pendB, .urgent] : List Part), q ∈ ps0) :
    Only ps0 u0 (State.stopOne s id restart) ↔ Only ps0 u0 s := by
  refine Only.iff ?_ hps
  unfold State.stopOne
  try dsimp only
  repeat' (first
    | simp (disch := decide) only [↓State.setFunc_only, ↓State.onStopping_only, ↓Only.refl_iff]
    | with_reducible refine Only.ite ?_ ?_
    | split
    | exact Only.refl _ _)

theorem State.enterStopping_only {ps0 : List Part} {u0 : State} (s : State) (id : Nat) (restart : Bool)
    (hps : ∀ q ∈ ([.out, .raised, .now, .limits, .regs, .funcs, .dma, .time, .axes, .ncpA, .ncpB, .linkW, .linkE, .linkT, .fwd, .lines, .engines, .act, .cans, .brg, .usb, .power, .xact, .counts, .pendA, .pendB, .urgent] : List Part), q ∈ ps0) :
    Only ps0 u0 (State.enterStopping s id restart) ↔ Only ps0 u0 s := by
  refine Only.iff ?_ hps
  unfold State.enterStopping
  try dsimp only
  repeat' (first
    | simp (disch := decide) only [↓State.stopOne_only, ↓State.staleSweep_only, ↓Only.refl_iff]
    | with_reducible refine Only.foldl (fun _ _ => ?_) ?_
    | with_reducible refine Only.foldl_snd (fun _ _ => ?_) ?_
    | with_reducible refine Only.ite ?_ ?_
    | exact Only.refl _ _)

theorem State.enterStarting_only {ps0 : List Part} {u0 : State} (s : State) (id : Nat) (fresh : Bool)
    (hps : ∀ q ∈ ([.out, .raised, .regs, .funcs, .queues, .flt, .time, .ncpA, .ncpB, .fwd, .lines, .uarts, .encoders, .engines, .fronds, .act, .cans, .brg, .counts, .lanes, .pendA, .pendB] : List Part), q ∈ ps0) :
    Only ps0 u0 (State.enterStarting s id fresh) ↔ Only ps0 u0 s := by
  refine Only.iff ?_ hps
  unfold State.enterStarting
  try dsimp only
  repeat' (first
    | simp (disch := decide) only [↓State.setFunc_only, ↓State.onFresh_only, ↓State.onAccepted_only, ↓State.staleSweep_only, ↓Only.refl_iff]
    | with_reducible refine Only.ite ?_ ?_
    | split
    | exact Only.refl _ _)

theorem State.roleTo_only {ps0 : List Part} {u0 : State} (s : State) (r : Role) (lead rest : Bool)
    (hps : ∀ q ∈ ([.out, .raised, .ident, .pair] : List Part), q ∈ ps0) :
    Only ps0 u0 (State.roleTo s r lead rest) ↔ Only ps0 u0 s := by
  refine Only.iff ?_ hps
  unfold State.roleTo
  try dsimp only
  repeat' (first
    | simp (disch := decide) only [↓State.eventP_only, ↓State.emit_only, ↓Only.with_ident_pair, ↓Only.refl_iff]
    | with_reducible refine State.redrive_via _ _ (by decide) ?_ ?_
    | with_reducible refine Only.ite ?_ ?_
    | split
    | exact Only.refl _ _)

theorem State.stopLeadSet_only {ps0 : List Part} {u0 : State} (s : State)
    (hps : ∀ q ∈ ([.out, .raised, .now, .limits, .regs, .funcs, .dma, .time, .axes, .ncpA, .ncpB, .linkW, .linkE, .linkT, .fwd, .lines, .engines, .act, .cans, .brg, .usb, .power, .xact, .counts, .pendA, .pendB, .urgent] : List Part), q ∈ ps0) :
    Only ps0 u0 (State.stopLeadSet s) ↔ Only ps0 u0 s := by
  refine Only.iff ?_ hps
  unfold State.stopLeadSet
  try dsimp only
  repeat' (first
    | simp (disch := decide) only [↓State.enterStopping_only, ↓Only.refl_iff]
    | with_reducible refine Only.foldl (fun _ _ => ?_) ?_
    | with_reducible refine Only.foldl_snd (fun _ _ => ?_) ?_
    | with_reducible refine Only.ite ?_ ?_
    | split
    | exact Only.refl _ _)

theorem State.safeLines_only {ps0 : List Part} {u0 : State} (s : State) (d : Nat → Bool)
    (hps : ∀ q ∈ ([.out, .lines] : List Part), q ∈ ps0) :
    Only ps0 u0 (State.safeLines s d) ↔ Only ps0 u0 s := by
  refine Only.iff ?_ hps
  unfold State.safeLines
  try dsimp only
  repeat' (first
    | simp (disch := decide) only [↓State.safeLine_only, ↓Only.refl_iff]
    | with_reducible refine Only.foldl (fun _ _ => ?_) ?_
    | with_reducible refine Only.foldl_snd (fun _ _ => ?_) ?_
    | with_reducible refine Only.ite ?_ ?_
    | split
    | exact Only.refl _ _)

theorem State.fall_only {ps0 : List Part} {u0 : State} (s : State)
    (hps : ∀ q ∈ ([.out, .raised, .now, .limits, .regs, .funcs, .dma, .ident, .time, .axes, .ncpA, .ncpB, .linkW, .linkE, .linkT, .fwd, .lines, .engines, .act, .cans, .brg, .usb, .power, .pair, .xact, .counts, .pendA, .pendB, .urgent] : List Part), q ∈ ps0) :
    Only ps0 u0 (State.fall s) ↔ Only ps0 u0 s := by
  refine Only.iff ?_ hps
  unfold State.fall
  try dsimp only
  repeat' (first
    | simp (disch := decide) only [↓State.roleTo_only, ↓State.setChan_only, ↓State.safeLines_only, ↓State.stopLeadSet_only, ↓Only.with_pair, ↓Only.refl_iff]
    | with_reducible refine Only.foldl (fun _ _ => ?_) ?_
    | with_reducible refine Only.foldl_snd (fun _ _ => ?_) ?_
    | with_reducible refine Only.ite ?_ ?_
    | split
    | exact Only.refl _ _)

theorem State.aliveCheck_only {ps0 : List Part} {u0 : State} (s : State)
    (hps : ∀ q ∈ ([.out, .raised, .now, .limits, .regs, .funcs, .dma, .flt, .ident, .time, .axes, .ncpA, .ncpB, .linkW, .linkE, .linkT, .fwd, .lines, .engines, .act, .cans, .brg, .usb, .power, .pair, .xact, .counts, .lanes, .pendA, .pendB, .urgent] : List Part), q ∈ ps0) :
    Only ps0 u0 (State.aliveCheck s) ↔ Only ps0 u0 s := by
  refine Only.iff ?_ hps
  unfold State.aliveCheck
  try dsimp only
  repeat' (first
    | simp (disch := decide) only [↓State.emit_only, ↓State.fall_only, ↓Only.with_flt, ↓Only.refl_iff]
    | with_reducible refine Only.ite ?_ ?_
    | split
    | exact Only.refl _ _)

theorem State.stopFn_only {ps0 : List Part} {u0 : State} (s : State) (id : Nat) (restart : Bool)
    (hps : ∀ q ∈ ([.out, .raised, .now, .limits, .regs, .funcs, .dma, .flt, .ident, .time, .axes, .ncpA, .ncpB, .linkW, .linkE, .linkT, .fwd, .lines, .engines, .act, .cans, .brg, .usb, .power, .pair, .xact, .counts, .lanes, .pendA, .pendB, .urgent] : List Part), q ∈ ps0) :
    Only ps0 u0 (State.stopFn s id restart) ↔ Only ps0 u0 s := by
  refine Only.iff ?_ hps
  unfold State.stopFn
  try dsimp only
  repeat' (first
    | simp (disch := decide) only [↓State.enterStopping_only, ↓State.aliveCheck_only, ↓Only.refl_iff]
    | with_reducible refine Only.ite ?_ ?_
    | exact Only.refl _ _)

theorem State.haltOne_only {ps0 : List Part} {u0 : State} (s : State) (id : Nat)
    (hps : ∀ q ∈ ([.out, .raised, .limits, .regs, .funcs, .dma, .time, .axes, .ncpA, .ncpB, .linkW, .linkE, .linkT, .fwd, .lines, .uarts, .engines, .act, .usb, .power, .xact, .counts, .pendA, .pendB, .urgent] : List Part), q ∈ ps0) :
    Only ps0 u0 (State.haltOne s id) ↔ Only ps0 u0 s := by
  refine Only.iff ?_ hps
  unfold State.haltOne
  try dsimp only
  repeat' (first
    | simp (disch := decide) only [↓State.setFunc_only, ↓State.onHalted_only, ↓Only.refl_iff]
    | with_reducible refine Only.ite ?_ ?_
    | split
    | exact Only.refl _ _)

theorem State.haltFn_only {ps0 : List Part} {u0 : State} (s : State) (id : Nat)
    (hps : ∀ q ∈ ([.out, .raised, .now, .limits, .regs, .funcs, .dma, .flt, .ident, .time, .axes, .ncpA, .ncpB, .linkW, .linkE, .linkT, .fwd, .lines, .uarts, .engines, .act, .cans, .brg, .usb, .power, .pair, .xact, .counts, .lanes, .pendA, .pendB, .urgent] : List Part), q ∈ ps0) :
    Only ps0 u0 (State.haltFn s id).2 ↔ Only ps0 u0 s := by
  refine Only.iff ?_ hps
  unfold State.haltFn
  try dsimp only
  repeat' (first
    | simp (disch := decide) only [↓State.haltOne_only, ↓State.staleSweep_only, ↓State.aliveCheck_only, ↓Only.refl_iff]
    | with_reducible refine Only.foldl (fun _ _ => ?_) ?_
    | with_reducible refine Only.foldl_snd (fun _ _ => ?_) ?_
    | with_reducible refine Only.ite ?_ ?_
    | split
    | exact Only.refl _ _)

theorem State.nodeSafe_only {ps0 : List Part} {u0 : State} (s : State) (m : DWord) (entry : Option Nat)
    (hps : ∀ q ∈ ([.out, .raised, .now, .limits, .regs, .funcs, .dma, .flt, .ident, .time, .axes, .ncpA, .ncpB, .linkW, .linkE, .linkT, .fwd, .lines, .uarts, .engines, .act, .cans, .brg, .usb, .power, .pair, .xact, .counts, .lanes, .pendA, .pendB, .urgent] : List Part), q ∈ ps0) :
    Only ps0 u0 (State.nodeSafe s m entry) ↔ Only ps0 u0 s := by
  refine Only.iff ?_ hps
  unfold State.nodeSafe
  try dsimp only
  repeat' (first
    | simp (disch := decide) only [↓State.bump_only, ↓State.haltOne_only, ↓State.chanSafeOff_only, ↓State.safeLines_only, ↓State.staleSweep_only, ↓State.aliveCheck_only, ↓State.event_only, ↓Only.with_flt, ↓Only.refl_iff]
    | with_reducible refine Only.foldl (fun _ _ => ?_) ?_
    | with_reducible refine Only.foldl_snd (fun _ _ => ?_) ?_
    | with_reducible refine Only.ite ?_ ?_
    | split
    | exact Only.refl _ _)

theorem State.cstat_only {ps0 : List Part} {u0 : State} (s : State) (id cmd : Nat) (st : FState) (rej : Bool)
    (hps : ∀ q ∈ ([.regs, .counts] : List Part), q ∈ ps0) :
    Only ps0 u0 (State.cstat s id cmd st rej) ↔ Only ps0 u0 s := by
  refine Only.iff ?_ hps
  unfold State.cstat
  try dsimp only
  repeat' (first
    | simp (disch := decide) only [↓State.setNat_only, ↓Only.refl_iff]
    | with_reducible refine Only.ite ?_ ?_
    | exact Only.refl _ _)

theorem State.reject_only {ps0 : List Part} {u0 : State} (s : State) (id cmd : Nat)
    (hps : ∀ q ∈ ([.raised, .regs, .funcs, .counts] : List Part), q ∈ ps0) :
    Only ps0 u0 (State.reject s id cmd) ↔ Only ps0 u0 s := by
  refine Only.iff ?_ hps
  unfold State.reject
  try dsimp only
  repeat' (first
    | simp (disch := decide) only [↓State.cstat_only, ↓State.setFunc_only, ↓State.bump_only, ↓State.fault_low, ↓Only.refl_iff]
    | with_reducible refine Only.ite ?_ ?_
    | exact Only.refl _ _)

theorem State.funcCommand_only {ps0 : List Part} {u0 : State} (s : State) (id cmd : Nat)
    (hps : ∀ q ∈ ([.out, .raised, .now, .limits, .regs, .applied, .funcs, .queues, .dma, .flt, .ident, .time, .axes, .ncpA, .ncpB, .linkW, .linkE, .linkT, .fwd, .lines, .uarts, .encoders, .engines, .fronds, .act, .cans, .brg, .usb, .power, .pair, .xact, .counts, .lanes, .pendA, .pendB, .urgent] : List Part), q ∈ ps0) :
    Only ps0 u0 (State.funcCommand s id cmd) ↔ Only ps0 u0 s := by
  refine Only.iff ?_ hps
  unfold State.funcCommand
  try dsimp only
  repeat' (first
    | simp (disch := decide) only [↓State.reject_only, ↓State.cstat_only, ↓State.setFunc_only, ↓State.applyPending_only, ↓State.enterStarting_only, ↓State.stopFn_only, ↓State.onCleared_only, ↓Only.refl_iff]
    | with_reducible refine Only.ite ?_ ?_
    | split
    | exact Only.refl _ _)

theorem funcCmd_only {ps0 : List Part} {u0 : State} (src : Src) (id : BitVec 8) (cmd : Nat) (s : State)
    (hps : ∀ q ∈ ([.out, .raised, .now, .limits, .regs, .applied, .funcs, .queues, .dma, .flt, .ident, .time, .axes, .ncpA, .ncpB, .linkW, .linkE, .linkT, .fwd, .lines, .uarts, .encoders, .engines, .fronds, .act, .cans, .brg, .usb, .power, .pair, .xact, .counts, .lanes, .pendA, .pendB, .urgent] : List Part), q ∈ ps0) :
    Only ps0 u0 (funcCmd src id cmd s) ↔ Only ps0 u0 s := by
  refine Only.iff ?_ hps
  unfold funcCmd
  try dsimp only
  repeat' (first
    | simp (disch := decide) only [↓State.funcCommand_only, ↓State.ignored_only, ↓Only.refl_iff]
    | with_reducible refine Only.ite ?_ ?_
    | split
    | exact Only.refl _ _)

theorem functionRunning_only {ps0 : List Part} {u0 : State} (id : BitVec 8) (s : State)
    (hps : ∀ q ∈ ([.out, .raised, .regs, .funcs, .time, .axes, .linkW, .linkE, .linkT, .lines, .engines, .fronds, .act, .cans, .usb, .power, .counts] : List Part), q ∈ ps0) :
    Only ps0 u0 (functionRunning id s) ↔ Only ps0 u0 s := by
  refine Only.iff ?_ hps
  unfold functionRunning
  try dsimp only
  repeat' (first
    | simp (disch := decide) only [↓State.setFunc_only, ↓State.onRunning_only, ↓State.staleSweep_only, ↓Only.refl_iff]
    | with_reducible refine Only.ite ?_ ?_
    | split
    | exact Only.refl _ _)

theorem functionStopped_only {ps0 : List Part} {u0 : State} (id : BitVec 8) (s : State)
    (hps : ∀ q ∈ ([.out, .raised, .regs, .funcs, .queues, .pcie, .flt, .time, .ncpA, .ncpB, .linkW, .linkE, .linkT, .fwd, .lines, .uarts, .encoders, .engines, .fronds, .act, .cans, .brg, .power, .xact, .counts, .pba, .lanes, .pendA, .pendB] : List Part), q ∈ ps0) :
    Only ps0 u0 (functionStopped id s) ↔ Only ps0 u0 s := by
  refine Only.iff ?_ hps
  unfold functionStopped
  try dsimp only
  repeat' (first
    | simp (disch := decide) only [↓State.setFunc_only, ↓State.onStopped_only, ↓State.enterStarting_only, ↓State.chanLeaveSafe_only, ↓Only.refl_iff]
    | with_reducible refine Only.ite ?_ ?_
    | split
    | exact Only.refl _ _)

theorem updateStrobe_only {ps0 : List Part} {u0 : State} (src : Src) (id : BitVec 8) (s : State)
    (hps : ∀ q ∈ ([.out, .raised, .regs, .applied, .funcs, .power, .xact, .counts] : List Part), q ∈ ps0) :
    Only ps0 u0 (updateStrobe src id s) ↔ Only ps0 u0 s := by
  refine Only.iff ?_ hps
  unfold updateStrobe
  try dsimp only
  repeat' (first
    | simp (disch := decide) only [↓State.ignored_only, ↓State.applyPending_only, ↓State.chanApply_only, ↓Only.refl_iff]
    | with_reducible refine Only.ite ?_ ?_
    | split
    | exact Only.refl _ _)

theorem groupStrobe_only {ps0 : List Part} {u0 : State} (src : Src) (groups : BitVec 16) (s : State)
    (hps : ∀ q ∈ ([.out, .raised, .regs, .applied, .funcs, .power, .xact, .counts] : List Part), q ∈ ps0) :
    Only ps0 u0 (groupStrobe src groups s) ↔ Only ps0 u0 s := by
  refine Only.iff ?_ hps
  unfold groupStrobe
  try dsimp only
  repeat' (first
    | simp (disch := decide) only [↓State.ignored_only, ↓State.applyPending_only, ↓State.chanApply_only, ↓Only.refl_iff]
    | with_reducible refine Only.foldl (fun _ _ => ?_) ?_
    | with_reducible refine Only.foldl_snd (fun _ _ => ?_) ?_
    | with_reducible refine Only.ite ?_ ?_
    | split
    | exact Only.refl _ _)

theorem aliveToggle_only {ps0 : List Part} {u0 : State} (s : State)
    (hps : ∀ q ∈ ([.out, .raised, .now, .limits, .regs, .funcs, .dma, .flt, .ident, .time, .axes, .ncpA, .ncpB, .linkW, .linkE, .linkT, .fwd, .lines, .engines, .act, .cans, .brg, .usb, .power, .pair, .xact, .counts, .lanes, .pendA, .pendB, .urgent] : List Part), q ∈ ps0) :
    Only ps0 u0 (aliveToggle s) ↔ Only ps0 u0 s := by
  refine Only.iff ?_ hps
  unfold aliveToggle
  try dsimp only
  repeat' (first
    | simp (disch := decide) only [↓State.advanceTo_only, ↓State.emit_only, ↓State.roleTo_only, ↓State.stopLeadSet_only, ↓State.aliveCheck_only, ↓Only.with_flt_pair, ↓Only.refl_iff]
    | with_reducible refine Only.ite ?_ ?_
    | split
    | exact Only.refl _ _)

theorem State.overflowSafe_only {ps0 : List Part} {u0 : State} (s : State)
    (hps : ∀ q ∈ ([.out, .raised, .now, .limits, .regs, .funcs, .dma, .flt, .ident, .time, .axes, .ncpA, .ncpB, .linkW, .linkE, .linkT, .fwd, .lines, .uarts, .engines, .act, .cans, .brg, .usb, .power, .pair, .xact, .counts, .lanes, .pendA, .pendB, .urgent] : List Part), q ∈ ps0) :
    Only ps0 u0 (State.overflowSafe s) ↔ Only ps0 u0 s := by
  refine Only.iff ?_ hps
  unfold State.overflowSafe
  try dsimp only
  repeat' (first
    | simp (disch := decide) only [↓State.bump_only, ↓State.logFault_only, ↓State.nodeSafe_only, ↓Only.refl_iff]
    | with_reducible refine Only.ite ?_ ?_
    | exact Only.refl _ _)

theorem State.afterLane_only {ps0 : List Part} {u0 : State} (q : State × Bool)
    (hps : ∀ q ∈ ([.out, .raised, .now, .limits, .regs, .funcs, .dma, .flt, .ident, .time, .axes, .ncpA, .ncpB, .linkW, .linkE, .linkT, .fwd, .lines, .uarts, .engines, .act, .cans, .brg, .usb, .power, .pair, .xact, .counts, .lanes, .pendA, .pendB, .urgent] : List Part), q ∈ ps0) : Only ps0 u0 (State.afterLane q) ↔ Only ps0 u0 q.1 := by
  refine Only.iff ?_ hps
  unfold State.afterLane
  exact Only.ite ((State.overflowSafe_only _ (by decide)).2 (Only.refl _ _)) (Only.refl _ _)

theorem State.deliverRaise_only {ps0 : List Part} {u0 : State} (s : State) (a1 : Raise)
    (hps : ∀ q ∈ ([.out, .raised, .now, .limits, .regs, .funcs, .queues, .dma, .flt, .ident, .time, .axes, .ncpA, .ncpB, .linkW, .linkE, .linkT, .fwd, .lines, .uarts, .engines, .act, .cans, .brg, .usb, .power, .pair, .xact, .counts, .pba, .lanes, .pendA, .pendB, .urgent] : List Part), q ∈ ps0) :
    Only ps0 u0 (State.deliverRaise s a1) ↔ Only ps0 u0 s := by
  refine Only.iff ?_ hps
  unfold State.deliverRaise
  try dsimp only
  repeat' (first
    | simp (disch := decide) only [↓State.routeRaise_only, ↓State.afterLane_only, ↓State.laneEnter_only, ↓Only.refl_iff]
    | with_reducible refine Only.ite ?_ ?_
    | split
    | with_reducible refine Only.snd ?_ (by assumption)
    | with_reducible refine Only.fst ?_ (by assumption)
    | exact Only.refl _ _)

theorem settleLoop_only {ps0 : List Part} {u0 : State} (k : Nat) (s : State)
    (hps : ∀ q ∈ ([.out, .raised, .now, .limits, .regs, .funcs, .queues, .dma, .flt, .ident, .time, .axes, .ncpA, .ncpB, .linkW, .linkE, .linkT, .fwd, .lines, .uarts, .engines, .act, .cans, .brg, .usb, .power, .pair, .xact, .counts, .pba, .lanes, .pendA, .pendB, .urgent] : List Part), q ∈ ps0) : Only ps0 u0 (settleLoop k s) ↔ Only ps0 u0 s := by
  refine Only.iff ?_ hps
  clear hps
  induction k generalizing s with
  | zero => exact (Only.with_raised _ (by decide)).2 (Only.refl _ _)
  | succ k ih =>
    unfold settleLoop
    refine Only.ite (Only.refl _ _) (Only.trans (Only.foldl (fun _ _ => ?_) ?_) (ih _))
    · exact (State.deliverRaise_only _ _ (by decide)).2 (Only.refl _ _)
    · exact (Only.with_raised _ (by decide)).2 (Only.refl _ _)

theorem settle_only {ps0 : List Part} {u0 : State} (s : State)
    (hps : ∀ q ∈ ([.out, .raised, .now, .limits, .regs, .funcs, .queues, .dma, .flt, .ident, .time, .axes, .ncpA, .ncpB, .linkW, .linkE, .linkT, .fwd, .lines, .uarts, .engines, .act, .cans, .brg, .usb, .power, .pair, .xact, .counts, .pba, .lanes, .pendA, .pendB, .urgent] : List Part), q ∈ ps0) :
    Only ps0 u0 (settle s) ↔ Only ps0 u0 s := by
  refine Only.iff ?_ hps
  unfold settle
  try dsimp only
  repeat' (first
    | simp (disch := decide) only [↓settleLoop_only, ↓Only.refl_iff]
    | with_reducible refine Only.ite ?_ ?_
    | split
    | exact Only.refl _ _)

theorem State.begun_only {ps0 : List Part} {u0 : State} (s : State)
    (hps : ∀ q ∈ ([.out, .raised, .urgent] : List Part), q ∈ ps0) :
    Only ps0 u0 (State.begun s) ↔ Only ps0 u0 s := by
  refine Only.iff ?_ hps
  unfold State.begun
  try dsimp only
  repeat' (first
    | simp (disch := decide) only [↓Only.with_out_raised, ↓Only.refl_iff]
    | with_reducible refine Only.ite ?_ ?_
    | exact Only.refl _ _)

theorem State.takeMsg_some {s t : State} {m : DWord} (h : s.takeMsg = some (m, t)) : Only [.lanes] s t := by
  unfold State.takeMsg at h
  split at h <;> cases h <;> intro q hq <;> cases q <;>
    first | rfl | exact fun _ _ => rfl | exact ⟨rfl, rfl, rfl⟩ | exact absurd (by decide) hq

theorem State.react_only {ps0 : List Part} {u0 : State} (s : State) (entry : Option Nat) (id : Nat)
    (hps : ∀ q ∈ ([.out, .raised, .now, .limits, .regs, .funcs, .dma, .flt, .ident, .time, .axes, .ncpA, .ncpB, .linkW, .linkE, .linkT, .fwd, .lines, .uarts, .engines, .act, .cans, .brg, .usb, .power, .pair, .xact, .counts, .lanes, .pendA, .pendB, .urgent] : List Part), q ∈ ps0) :
    Only ps0 u0 (State.react s entry id).2 ↔ Only ps0 u0 s := by
  refine Only.iff ?_ hps
  unfold State.react
  try dsimp only
  repeat' (first
    | simp (disch := decide) only [↓State.haltFn_only, ↓State.eventP_only, ↓Only.refl_iff]
    | with_reducible refine Only.getD (fun _ _ => ?_) ?_
    | with_reducible refine Only.ite ?_ ?_
    | split
    | with_reducible refine Only.snd ?_ (by assumption)
    | with_reducible refine Only.fst ?_ (by assumption)
    | exact Only.refl _ _)

theorem State.applyLevel_only {ps0 : List Part} {u0 : State} (s : State) (m : DWord) (v : Verdict)
    (hps : ∀ q ∈ ([.out, .raised, .now, .limits, .regs, .funcs, .dma, .flt, .ident, .time, .axes, .ncpA, .ncpB, .linkW, .linkE, .linkT, .fwd, .lines, .uarts, .engines, .act, .cans, .brg, .usb, .power, .pair, .xact, .counts, .lanes, .pendA, .pendB, .urgent] : List Part), q ∈ ps0) :
    Only ps0 u0 (State.applyLevel s m v) ↔ Only ps0 u0 s := by
  refine Only.iff ?_ hps
  unfold State.applyLevel
  try dsimp only
  repeat' (first
    | simp (disch := decide) only [↓State.bump_only, ↓State.setFltEntry_only, ↓State.react_only, ↓State.nodeSafe_only, ↓State.logFault_only, ↓Only.refl_iff]
    | with_reducible refine Only.ite ?_ ?_
    | split
    | with_reducible refine Only.snd ?_ (by assumption)
    | with_reducible refine Only.fst ?_ (by assumption)
    | exact Only.refl _ _)

theorem State.laneNotice_only {ps0 : List Part} {u0 : State} (s : State)
    (hps : ∀ q ∈ ([.raised, .limits, .flt, .lanes] : List Part), q ∈ ps0) :
    Only ps0 u0 (State.laneNotice s) ↔ Only ps0 u0 s := by
  refine Only.iff ?_ hps
  unfold State.laneNotice
  try dsimp only
  repeat' (first
    | simp (disch := decide) only [↓State.faultMs_low, ↓Only.with_flt, ↓Only.refl_iff]
    | with_reducible refine Only.ite ?_ ?_
    | split
    | exact Only.refl _ _)

theorem faultProcess_only {ps0 : List Part} {u0 : State} (s : State)
    (hps : ∀ q ∈ ([.out, .raised, .now, .limits, .regs, .funcs, .dma, .flt, .ident, .time, .axes, .ncpA, .ncpB, .linkW, .linkE, .linkT, .fwd, .lines, .uarts, .engines, .act, .cans, .brg, .usb, .power, .pair, .xact, .counts, .lanes, .pendA, .pendB, .urgent] : List Part), q ∈ ps0) :
    Only ps0 u0 (faultProcess s) ↔ Only ps0 u0 s := by
  refine Only.iff ?_ hps
  unfold faultProcess
  try dsimp only
  repeat' (first
    | simp (disch := decide) only [↓State.bump_only, ↓State.setFltEntry_only, ↓State.applyLevel_only, ↓State.laneNotice_only, ↓Only.refl_iff]
    | with_reducible refine Only.step (State.takeMsg_some (by assumption)) (by decide) ?_
    | with_reducible refine Only.ite ?_ ?_
    | split
    | with_reducible refine Only.snd ?_ (by assumption)
    | with_reducible refine Only.fst ?_ (by assumption)
    | exact Only.refl _ _)

theorem fltAck_only {ps0 : List Part} {u0 : State} (entry : BitVec 8) (s : State)
    (hps : ∀ q ∈ ([.regs, .flt, .counts, .lanes] : List Part), q ∈ ps0) :
    Only ps0 u0 (fltAck entry s) ↔ Only ps0 u0 s := by
  refine Only.iff ?_ hps
  unfold fltAck
  try dsimp only
  repeat' (first
    | simp (disch := decide) only [↓State.bump_only, ↓State.setFltEntry_only, ↓Only.with_flt, ↓Only.refl_iff]
    | with_reducible refine Only.ite ?_ ?_
    | split
    | exact Only.refl _ _)

theorem fltAckAll_only {ps0 : List Part} {u0 : State} (s : State)
    (hps : ∀ q ∈ ([.regs, .flt, .counts, .lanes] : List Part), q ∈ ps0) :
    Only ps0 u0 (fltAckAll s) ↔ Only ps0 u0 s := by
  refine Only.iff ?_ hps
  unfold fltAckAll
  try dsimp only
  repeat' (first
    | simp (disch := decide) only [↓State.bump_only, ↓State.setFltEntry_only, ↓Only.with_flt, ↓Only.refl_iff]
    | with_reducible refine Only.foldl (fun _ _ => ?_) ?_
    | with_reducible refine Only.foldl_snd (fun _ _ => ?_) ?_
    | with_reducible refine Only.ite ?_ ?_
    | split
    | exact Only.refl _ _)

theorem fltAckWrite_only {ps0 : List Part} {u0 : State} (v : Nat) (s : State)
    (hps : ∀ q ∈ ([.regs, .flt, .counts, .lanes] : List Part), q ∈ ps0) :
    Only ps0 u0 (fltAckWrite v s) ↔ Only ps0 u0 s := by
  refine Only.iff ?_ hps
  unfold fltAckWrite
  try dsimp only
  repeat' (first
    | simp (disch := decide) only [↓fltAckAll_only, ↓fltAck_only, ↓Only.refl_iff]
    | with_reducible refine Only.ite ?_ ?_
    | split
    | exact Only.refl _ _)

theorem safeExit_only {ps0 : List Part} {u0 : State} (s : State)
    (hps : ∀ q ∈ ([.out, .raised, .regs, .flt, .power, .counts, .lanes] : List Part), q ∈ ps0) :
    Only ps0 u0 (safeExit s) ↔ Only ps0 u0 s := by
  refine Only.iff ?_ hps
  unfold safeExit
  try dsimp only
  repeat' (first
    | simp (disch := decide) only [↓State.chanLeaveSafe_only, ↓State.event_only, ↓State.bump_only, ↓Only.with_flt, ↓Only.refl_iff]
    | with_reducible refine Only.foldl (fun _ _ => ?_) ?_
    | with_reducible refine Only.foldl_snd (fun _ _ => ?_) ?_
    | with_reducible refine Only.ite ?_ ?_
    | split
    | exact Only.refl _ _)

theorem State.releaseDrivers_only {ps0 : List Part} {u0 : State} (s : State) (d : Nat)
    (hps : ∀ q ∈ ([.uarts] : List Part), q ∈ ps0) :
    Only ps0 u0 (State.releaseDrivers s d) ↔ Only ps0 u0 s := by
  refine Only.iff ?_ hps
  unfold State.releaseDrivers
  try dsimp only
  repeat' (first
    | simp (disch := decide) only [↓Only.with_uarts, ↓Only.refl_iff]
    | with_reducible refine Only.ite ?_ ?_
    | split
    | exact Only.refl _ _)

theorem dieLost_only {ps0 : List Part} {u0 : State} (die : Die) (s : State)
    (hps : ∀ q ∈ ([.out, .raised, .regs, .lines, .uarts, .power, .dieA, .dieB, .counts, .urgent] : List Part), q ∈ ps0) :
    Only ps0 u0 (dieLost die s) ↔ Only ps0 u0 s := by
  refine Only.iff ?_ hps
  unfold dieLost
  try dsimp only
  repeat' (first
    | simp (disch := decide) only [↓State.setDie_only, ↓State.safeLines_only, ↓State.releaseDrivers_only, ↓State.chanSafeOff_only, ↓State.fault_only, ↓Only.refl_iff]
    | with_reducible refine Only.foldl (fun _ _ => ?_) ?_
    | with_reducible refine Only.foldl_snd (fun _ _ => ?_) ?_
    | with_reducible refine Only.ite ?_ ?_
    | split
    | exact Only.refl _ _)

theorem dieUpAgain_only {ps0 : List Part} {u0 : State} (die : Die) (s : State)
    (hps : ∀ q ∈ ([.out, .raised, .regs, .power, .dieA, .dieB, .counts] : List Part), q ∈ ps0) :
    Only ps0 u0 (dieUpAgain die s) ↔ Only ps0 u0 s := by
  refine Only.iff ?_ hps
  unfold dieUpAgain
  try dsimp only
  repeat' (first
    | simp (disch := decide) only [↓State.setDie_only, ↓State.chanLeaveSafe_only, ↓Only.refl_iff]
    | with_reducible refine State.redrive_via _ _ (by decide) ?_ ?_
    | with_reducible refine Only.foldl (fun _ _ => ?_) ?_
    | with_reducible refine Only.foldl_snd (fun _ _ => ?_) ?_
    | with_reducible refine Only.ite ?_ ?_
    | exact Only.refl _ _)

end Sys2Proof.Machine
end

