-- ==== Sys2Proof/Laws/TouchPair.lean ====
section
/-! SUPPORT. What each operation of the peat store, repair, actions and the pair can touch: one lemma for each, in the form in which later
proofs cite it. -/

namespace Sys2Proof.Machine

theorem State.setSlot_only {ps0 : List Part} {u0 : State} (s : State) (b : Bool) (x : Slot)
    (hps : ∀ q ∈ ([.peat] : List Part), q ∈ ps0) :
    Only ps0 u0 (State.setSlot s b x) ↔ Only ps0 u0 s := by
  refine Only.iff ?_ hps
  unfold State.setSlot
  try dsimp only
  repeat' (first
    | simp (disch := decide) only [↓Only.with_peat, ↓Only.refl_iff]
    | with_reducible refine Only.ite ?_ ?_
    | split
    | exact Only.refl _ _)

theorem State.countErase_only {ps0 : List Part} {u0 : State} (s : State) (d sec : Nat)
    (hps : ∀ q ∈ ([.rpr] : List Part), q ∈ ps0) :
    Only ps0 u0 (State.countErase s d sec) ↔ Only ps0 u0 s := by
  refine Only.iff ?_ hps
  unfold State.countErase
  try dsimp only
  repeat' (first
    | simp (disch := decide) only [↓Only.with_rpr, ↓Only.refl_iff]
    | with_reducible refine Only.ite ?_ ?_
    | split
    | exact Only.refl _ _)

theorem State.countSlotErase_only {ps0 : List Part} {u0 : State} (s : State) (b : Bool)
    (hps : ∀ q ∈ ([.raised, .rpr] : List Part), q ∈ ps0) :
    Only ps0 u0 (State.countSlotErase s b) ↔ Only ps0 u0 s := by
  refine Only.iff ?_ hps
  unfold State.countSlotErase
  try dsimp only
  repeat' (first
    | simp (disch := decide) only [↓State.countErase_only, ↓State.wearSweep_only, ↓Only.refl_iff]
    | with_reducible refine Only.foldl (fun _ _ => ?_) ?_
    | with_reducible refine Only.foldl_snd (fun _ _ => ?_) ?_
    | with_reducible refine Only.ite ?_ ?_
    | exact Only.refl _ _)

theorem State.countBoth_only {ps0 : List Part} {u0 : State} (s : State) (sec : Nat)
    (hps : ∀ q ∈ ([.raised, .rpr] : List Part), q ∈ ps0) :
    Only ps0 u0 (State.countBoth s sec) ↔ Only ps0 u0 s := by
  refine Only.iff ?_ hps
  unfold State.countBoth
  try dsimp only
  repeat' (first
    | simp (disch := decide) only [↓State.countErase_only, ↓State.wearSweep_only, ↓Only.refl_iff]
    | with_reducible refine Only.ite ?_ ?_
    | exact Only.refl _ _)

theorem State.peatTake_only {ps0 : List Part} {u0 : State} (s : State) (op : Nat)
    (hps : ∀ q ∈ ([.peat] : List Part), q ∈ ps0) :
    Only ps0 u0 (State.peatTake s op) ↔ Only ps0 u0 s := by
  refine Only.iff ?_ hps
  unfold State.peatTake
  try dsimp only
  repeat' (first
    | simp (disch := decide) only [↓State.setSlot_only, ↓Only.with_peat, ↓Only.refl_iff]
    | with_reducible refine Only.ite ?_ ?_
    | split
    | exact Only.refl _ _)

theorem State.peatEnd_only {ps0 : List Part} {u0 : State} (s : State) (result : Nat)
    (hps : ∀ q ∈ ([.regs, .peat, .counts] : List Part), q ∈ ps0) :
    Only ps0 u0 (State.peatEnd s result) ↔ Only ps0 u0 s := by
  refine Only.iff ?_ hps
  unfold State.peatEnd
  try dsimp only
  repeat' (first
    | simp (disch := decide) only [↓State.bump_only, ↓Only.with_peat, ↓Only.refl_iff]
    | with_reducible refine Only.ite ?_ ?_
    | split
    | exact Only.refl _ _)

theorem State.keyProg_only {ps0 : List Part} {u0 : State} (s : State) (k : Nat) (digest : List Byte)
    (hps : ∀ q ∈ ([.peat] : List Part), q ∈ ps0) :
    Only ps0 u0 (State.keyProg s k digest).2 ↔ Only ps0 u0 s := by
  refine Only.iff ?_ hps
  unfold State.keyProg
  try dsimp only
  repeat' (first
    | simp (disch := decide) only [↓Only.with_peat, ↓Only.refl_iff]
    | with_reducible refine Only.ite ?_ ?_
    | split
    | exact Only.refl _ _)

theorem State.keyRevoke_only {ps0 : List Part} {u0 : State} (s : State) (k : Nat)
    (hps : ∀ q ∈ ([.peat] : List Part), q ∈ ps0) :
    Only ps0 u0 (State.keyRevoke s k).2 ↔ Only ps0 u0 s := by
  refine Only.iff ?_ hps
  unfold State.keyRevoke
  try dsimp only
  repeat' (first
    | simp (disch := decide) only [↓Only.with_peat, ↓Only.refl_iff]
    | with_reducible refine Only.ite ?_ ?_
    | split
    | exact Only.refl _ _)

theorem State.peatArm_only {ps0 : List Part} {u0 : State} (s : State) (b : Bool)
    (hps : ∀ q ∈ ([.peat] : List Part), q ∈ ps0) :
    Only ps0 u0 (State.peatArm s b).2 ↔ Only ps0 u0 s := by
  refine Only.iff ?_ hps
  unfold State.peatArm
  try dsimp only
  repeat' (first
    | simp (disch := decide) only [↓State.setSlot_only, ↓Only.refl_iff]
    | with_reducible refine Only.ite ?_ ?_
    | split
    | exact Only.refl _ _)

theorem State.peatConfirm_only {ps0 : List Part} {u0 : State} (s : State)
    (hps : ∀ q ∈ ([.peat] : List Part), q ∈ ps0) :
    Only ps0 u0 (State.peatConfirm s).2 ↔ Only ps0 u0 s := by
  refine Only.iff ?_ hps
  unfold State.peatConfirm
  try dsimp only
  repeat' (first
    | simp (disch := decide) only [↓State.setSlot_only, ↓Only.refl_iff]
    | with_reducible refine Only.ite ?_ ?_
    | split
    | exact Only.refl _ _)

theorem State.svnAdvance_only {ps0 : List Part} {u0 : State} (s : State)
    (hps : ∀ q ∈ ([.peat] : List Part), q ∈ ps0) :
    Only ps0 u0 (State.svnAdvance s).2 ↔ Only ps0 u0 s := by
  refine Only.iff ?_ hps
  unfold State.svnAdvance
  try dsimp only
  repeat' (first
    | simp (disch := decide) only [↓Only.with_peat, ↓Only.refl_iff]
    | with_reducible refine Only.ite ?_ ?_
    | split
    | exact Only.refl _ _)

theorem State.nodeAssign_only {ps0 : List Part} {u0 : State} (s : State) (n : BitVec 12)
    (hps : ∀ q ∈ ([.peat] : List Part), q ∈ ps0) :
    Only ps0 u0 (State.nodeAssign s n).2 ↔ Only ps0 u0 s := by
  refine Only.iff ?_ hps
  unfold State.nodeAssign
  try dsimp only
  repeat' (first
    | simp (disch := decide) only [↓Only.with_peat, ↓Only.refl_iff]
    | with_reducible refine Only.ite ?_ ?_
    | split
    | exact Only.refl _ _)

theorem State.peatErase_only {ps0 : List Part} {u0 : State} (s : State) (b failed : Bool)
    (hps : ∀ q ∈ ([.raised, .rpr, .peat] : List Part), q ∈ ps0) :
    Only ps0 u0 (State.peatErase s b failed).2 ↔ Only ps0 u0 s := by
  refine Only.iff ?_ hps
  unfold State.peatErase
  try dsimp only
  repeat' (first
    | simp (disch := decide) only [↓State.countSlotErase_only, ↓State.setSlot_only, ↓Only.refl_iff]
    | with_reducible refine Only.ite ?_ ?_
    | split
    | exact Only.refl _ _)

theorem State.writeMap_only {ps0 : List Part} {u0 : State} (s : State) (failed : Bool)
    (hps : ∀ q ∈ ([.raised, .regs, .rpr, .peat, .counts] : List Part), q ∈ ps0) :
    Only ps0 u0 (State.writeMap s failed).2 ↔ Only ps0 u0 s := by
  refine Only.iff ?_ hps
  unfold State.writeMap
  try dsimp only
  repeat' (first
    | simp (disch := decide) only [↓State.fault_low, ↓State.bump_only, ↓State.countBoth_only, ↓Only.with_rpr_peat, ↓Only.refl_iff]
    | with_reducible refine Only.ite ?_ ?_
    | split
    | exact Only.refl _ _)

theorem State.useSpare_some {s t : State} (e : Word)
    (h : State.useSpare s e = some t) : Only [.linkW, .linkE, .linkT, .fwd, .fronds, .rpr] s t := by
  unfold State.useSpare at h
  try dsimp only at h
  repeat' split at h
  all_goals first
    | (have h1 := Option.some.inj h; subst h1)
    | (cases h; done)
    | skip
  all_goals repeat' (first
    | simp (disch := decide) only [↓State.setMem_only, ↓State.setLink_only, ↓State.setFrond_only, ↓Only.with_fwd_rpr, ↓Only.refl_iff]
    | with_reducible refine Only.ite ?_ ?_
    | split
    | exact Only.refl _ _)

theorem State.applyFuses_only {ps0 : List Part} {u0 : State} (s : State)
    (hps : ∀ q ∈ ([.linkW, .linkE, .linkT, .fwd, .fronds, .rpr] : List Part), q ∈ ps0) : Only ps0 u0 s.applyFuses ↔ Only ps0 u0 s := by
  refine Only.iff ?_ hps
  unfold State.applyFuses
  refine Only.foldl (fun t e => ?_) (Only.refl _ _)
  cases h : t.useSpare e with
  | none => exact Only.refl _ _
  | some v => exact (State.useSpare_some e h).mono (by decide)

theorem State.spareFor_some {s t : State} (e : Word)
    (h : State.spareFor s e = some t) : Only [.linkW, .linkE, .linkT, .fwd, .fronds, .rpr] s t := by
  unfold State.spareFor at h
  try dsimp only at h
  repeat' split at h
  all_goals first
    | (have h1 := Option.some.inj h; subst h1)
    | (cases h; done)
    | skip
  all_goals repeat' (first
    | simp (disch := decide) only [↓Only.refl_iff]
    | with_reducible refine Only.step (State.useSpare_some _ (by assumption)) (by decide) ?_
    | with_reducible refine Only.ite ?_ ?_
    | split
    | with_reducible refine Only.snd ?_ (by assumption)
    | with_reducible refine Only.fst ?_ (by assumption)
    | exact Only.refl _ _)

theorem State.applyMap_only {ps0 : List Part} {u0 : State} (s : State)
    (hps : ∀ q ∈ ([.raised, .regs, .linkW, .linkE, .linkT, .fwd, .fronds, .rpr, .counts] : List Part), q ∈ ps0) :
    Only ps0 u0 (State.applyMap s) ↔ Only ps0 u0 s := by
  refine Only.iff ?_ hps
  unfold State.applyMap
  try dsimp only
  repeat' (first
    | simp (disch := decide) only [↓State.fault_low, ↓State.bump_only, ↓Only.with_rpr, ↓Only.refl_iff]
    | with_reducible refine Only.step (State.spareFor_some _ (by assumption)) (by decide) ?_
    | with_reducible refine Only.foldl (fun _ _ => ?_) ?_
    | with_reducible refine Only.foldl_snd (fun _ _ => ?_) ?_
    | with_reducible refine Only.ite ?_ ?_
    | split
    | with_reducible refine Only.snd ?_ (by assumption)
    | with_reducible refine Only.fst ?_ (by assumption)
    | exact Only.refl _ _)

theorem State.memFails_only {ps0 : List Part} {u0 : State} (s : State) (mid : Nat)
    (hps : ∀ q ∈ ([.raised, .rpr, .boot] : List Part), q ∈ ps0) :
    Only ps0 u0 (State.memFails s mid) ↔ Only ps0 u0 s := by
  refine Only.iff ?_ hps
  unfold State.memFails
  try dsimp only
  repeat' (first
    | simp (disch := decide) only [↓State.setMem_only, ↓State.fault_low, ↓Only.with_rpr_boot, ↓Only.refl_iff]
    | with_reducible refine Only.ite ?_ ?_
    | split
    | exact Only.refl _ _)

theorem State.repairRow_only {ps0 : List Part} {u0 : State} (s : State) (mid row : Nat)
    (hps : ∀ q ∈ ([.raised, .rpr, .boot] : List Part), q ∈ ps0) :
    Only ps0 u0 (State.repairRow s mid row) ↔ Only ps0 u0 s := by
  refine Only.iff ?_ hps
  unfold State.repairRow
  try dsimp only
  repeat' (first
    | simp (disch := decide) only [↓State.setMem_only, ↓State.recordRepair_only, ↓State.memFails_only, ↓Only.refl_iff]
    | with_reducible refine Only.ite ?_ ?_
    | split
    | exact Only.refl _ _)

theorem State.repairCol_only {ps0 : List Part} {u0 : State} (s : State) (mid col : Nat)
    (hps : ∀ q ∈ ([.raised, .rpr, .boot] : List Part), q ∈ ps0) :
    Only ps0 u0 (State.repairCol s mid col) ↔ Only ps0 u0 s := by
  refine Only.iff ?_ hps
  unfold State.repairCol
  try dsimp only
  repeat' (first
    | simp (disch := decide) only [↓State.setMem_only, ↓State.recordRepair_only, ↓State.memFails_only, ↓Only.refl_iff]
    | with_reducible refine Only.ite ?_ ?_
    | split
    | exact Only.refl _ _)

theorem State.testMemories_only {ps0 : List Part} {u0 : State} (s : State) (which : Nat → Bool) (f : BistFinds)
    (hps : ∀ q ∈ ([.raised, .rpr, .boot] : List Part), q ∈ ps0) :
    Only ps0 u0 (State.testMemories s which f) ↔ Only ps0 u0 s := by
  refine Only.iff ?_ hps
  unfold State.testMemories
  try dsimp only
  repeat' (first
    | simp (disch := decide) only [↓State.setMem_only, ↓State.repairRow_only, ↓State.repairCol_only, ↓Only.refl_iff]
    | with_reducible refine Only.foldl (fun _ _ => ?_) ?_
    | with_reducible refine Only.foldl_snd (fun _ _ => ?_) ?_
    | with_reducible refine Only.ite ?_ ?_
    | split
    | exact Only.refl _ _)

theorem State.placeBanks_only {ps0 : List Part} {u0 : State} (s : State) (banks : List (BitVec 5))
    (hps : ∀ q ∈ ([.raised, .fwd, .rpr] : List Part), q ∈ ps0) :
    Only ps0 u0 (State.placeBanks s banks) ↔ Only ps0 u0 s := by
  refine Only.iff ?_ hps
  unfold State.placeBanks
  try dsimp only
  repeat' (first
    | simp (disch := decide) only [↓State.recordRepair_only, ↓State.fault_low, ↓Only.with_fwd, ↓Only.refl_iff]
    | with_reducible refine Only.foldl (fun _ _ => ?_) ?_
    | with_reducible refine Only.foldl_snd (fun _ _ => ?_) ?_
    | with_reducible refine Only.getD (fun _ _ => ?_) ?_
    | with_reducible refine Only.ite ?_ ?_
    | split
    | exact Only.refl _ _)

theorem State.testSlices_only {ps0 : List Part} {u0 : State} (s : State) (f : BistFinds)
    (hps : ∀ q ∈ ([.raised, .linkW, .linkE, .linkT, .rpr] : List Part), q ∈ ps0) :
    Only ps0 u0 (State.testSlices s f) ↔ Only ps0 u0 s := by
  refine Only.iff ?_ hps
  unfold State.testSlices
  try dsimp only
  repeat' (first
    | simp (disch := decide) only [↓State.setLink_only, ↓State.repairSlices_only, ↓Only.refl_iff]
    | with_reducible refine Only.foldl (fun _ _ => ?_) ?_
    | with_reducible refine Only.foldl_snd (fun _ _ => ?_) ?_
    | with_reducible refine Only.ite ?_ ?_
    | split
    | exact Only.refl _ _)

theorem State.testEngines_only {ps0 : List Part} {u0 : State} (s : State) (which : Nat → Bool) (f : BistFinds)
    (hps : ∀ q ∈ ([.raised, .fronds, .rpr] : List Part), q ∈ ps0) :
    Only ps0 u0 (State.testEngines s which f) ↔ Only ps0 u0 s := by
  refine Only.iff ?_ hps
  unfold State.testEngines
  try dsimp only
  repeat' (first
    | simp (disch := decide) only [↓State.setFrond_only, ↓State.recordRepair_only, ↓Only.refl_iff]
    | with_reducible refine Only.foldl (fun _ _ => ?_) ?_
    | with_reducible refine Only.foldl_snd (fun _ _ => ?_) ?_
    | with_reducible refine Only.getD (fun _ _ => ?_) ?_
    | with_reducible refine Only.ite ?_ ?_
    | split
    | exact Only.refl _ _)

theorem runBist_only {ps0 : List Part} {u0 : State} (f : BistFinds) (s : State)
    (hps : ∀ q ∈ ([.raised, .regs, .ncpB, .linkW, .linkE, .linkT, .fwd, .shared, .fronds, .rpr, .boot, .image, .counts, .pendB] : List Part), q ∈ ps0) :
    Only ps0 u0 (runBist f s) ↔ Only ps0 u0 s := by
  refine Only.iff ?_ hps
  unfold runBist
  try dsimp only
  repeat' (first
    | simp (disch := decide) only [↓State.applyFuses_only, ↓State.testMemories_only, ↓State.applyMap_only, ↓State.placeBanks_only, ↓State.testSlices_only, ↓State.wearSweep_only, ↓Only.with_ncpB_shared_boot_image, ↓Only.refl_iff]
    | with_reducible refine Only.ite ?_ ?_
    | split
    | exact Only.refl _ _)

theorem bistDone_only {ps0 : List Part} {u0 : State} (s : State)
    (hps : ∀ q ∈ ([.raised, .rpr] : List Part), q ∈ ps0) :
    Only ps0 u0 (bistDone s) ↔ Only ps0 u0 s := by
  refine Only.iff ?_ hps
  unfold bistDone
  try dsimp only
  repeat' (first
    | simp (disch := decide) only [↓State.eventP_only, ↓Only.with_rpr, ↓Only.refl_iff]
    | with_reducible refine Only.ite ?_ ?_
    | split
    | exact Only.refl _ _)

theorem domainTested_only {ps0 : List Part} {u0 : State} (d : BitVec 4) (f : BistFinds) (s : State)
    (hps : ∀ q ∈ ([.raised, .ncpA, .fronds, .power, .rpr, .boot, .pendA] : List Part), q ∈ ps0) :
    Only ps0 u0 (domainTested d f s) ↔ Only ps0 u0 s := by
  refine Only.iff ?_ hps
  unfold domainTested
  try dsimp only
  repeat' (first
    | simp (disch := decide) only [↓State.setDom_only, ↓State.testMemories_only, ↓State.testEngines_only, ↓State.wearSweep_only, ↓Only.with_ncpA, ↓Only.refl_iff]
    | with_reducible refine Only.ite ?_ ?_
    | split
    | exact Only.refl _ _)

theorem State.markRow_only {ps0 : List Part} {u0 : State} (s : State) (mid row : Nat)
    (hps : ∀ q ∈ ([.rpr] : List Part), q ∈ ps0) :
    Only ps0 u0 (State.markRow s mid row) ↔ Only ps0 u0 s := by
  refine Only.iff ?_ hps
  unfold State.markRow
  try dsimp only
  repeat' (first
    | simp (disch := decide) only [↓Only.with_rpr, ↓Only.refl_iff]
    | with_reducible refine Only.ite ?_ ?_
    | split
    | exact Only.refl _ _)

theorem State.rowCorrected_only {ps0 : List Part} {u0 : State} (s : State) (mid row : Nat)
    (hps : ∀ q ∈ ([.regs, .rpr, .counts] : List Part), q ∈ ps0) :
    Only ps0 u0 (State.rowCorrected s mid row) ↔ Only ps0 u0 s := by
  refine Only.iff ?_ hps
  unfold State.rowCorrected
  try dsimp only
  repeat' (first
    | simp (disch := decide) only [↓State.bump_only, ↓State.markRow_only, ↓Only.with_rpr, ↓Only.refl_iff]
    | with_reducible refine Only.ite ?_ ?_
    | split
    | exact Only.refl _ _)

theorem State.rowResult_only {ps0 : List Part} {u0 : State} (s : State) (mid row : Nat) (r : EccResult)
    (hps : ∀ q ∈ ([.regs, .rpr, .counts] : List Part), q ∈ ps0) :
    Only ps0 u0 (State.rowResult s mid row r) ↔ Only ps0 u0 s := by
  refine Only.iff ?_ hps
  unfold State.rowResult
  try dsimp only
  repeat' (first
    | simp (disch := decide) only [↓State.rowCorrected_only, ↓State.markRow_only, ↓Only.refl_iff]
    | with_reducible refine Only.ite ?_ ?_
    | split
    | exact Only.refl _ _)

theorem scrubRead_only {ps0 : List Part} {u0 : State} (mid : BitVec 7) (row : BitVec 12) (r : EccResult) (last : Bool) (s : State)
    (hps : ∀ q ∈ ([.raised, .regs, .rpr, .counts] : List Part), q ∈ ps0) :
    Only ps0 u0 (scrubRead mid row r last s) ↔ Only ps0 u0 s := by
  refine Only.iff ?_ hps
  unfold scrubRead
  try dsimp only
  repeat' (first
    | simp (disch := decide) only [↓State.bump_only, ↓State.fault_low, ↓State.rowResult_only, ↓Only.with_rpr, ↓Only.refl_iff]
    | with_reducible refine Only.ite ?_ ?_
    | split
    | exact Only.refl _ _)

theorem State.unmarkRow_only {ps0 : List Part} {u0 : State} (s : State) (mid row : Nat)
    (hps : ∀ q ∈ ([.rpr] : List Part), q ∈ ps0) :
    Only ps0 u0 (State.unmarkRow s mid row) ↔ Only ps0 u0 s := by
  refine Only.iff ?_ hps
  unfold State.unmarkRow
  try dsimp only
  repeat' (first
    | simp (disch := decide) only [↓Only.with_rpr, ↓Only.refl_iff]
    | with_reducible refine Only.ite ?_ ?_
    | split
    | exact Only.refl _ _)

theorem rowRetire_only {ps0 : List Part} {u0 : State} (mid : BitVec 7) (row : BitVec 12) (s : State)
    (hps : ∀ q ∈ ([.raised, .regs, .rpr, .counts] : List Part), q ∈ ps0) :
    Only ps0 u0 (rowRetire mid row s) ↔ Only ps0 u0 s := by
  refine Only.iff ?_ hps
  unfold rowRetire
  try dsimp only
  repeat' (first
    | simp (disch := decide) only [↓State.unmarkRow_only, ↓State.fault_low, ↓State.setMem_only, ↓State.bump_only, ↓State.recordRepair_only, ↓State.wearSweep_only, ↓Only.refl_iff]
    | with_reducible refine Only.ite ?_ ?_
    | split
    | exact Only.refl _ _)

theorem State.startMapWrite_only {ps0 : List Part} {u0 : State} (s : State)
    (hps : ∀ q ∈ ([.rpr, .peat] : List Part), q ∈ ps0) :
    Only ps0 u0 (State.startMapWrite s) ↔ Only ps0 u0 s := by
  refine Only.iff ?_ hps
  unfold State.startMapWrite
  try dsimp only
  repeat' (first
    | simp (disch := decide) only [↓State.peatTake_only, ↓Only.with_rpr, ↓Only.refl_iff]
    | with_reducible refine Only.ite ?_ ?_
    | split
    | exact Only.refl _ _)

theorem mapWriteStart_only {ps0 : List Part} {u0 : State} (s : State)
    (hps : ∀ q ∈ ([.rpr, .peat] : List Part), q ∈ ps0) :
    Only ps0 u0 (mapWriteStart s) ↔ Only ps0 u0 s := by
  refine Only.iff ?_ hps
  unfold mapWriteStart
  try dsimp only
  repeat' (first
    | simp (disch := decide) only [↓State.startMapWrite_only, ↓Only.refl_iff]
    | with_reducible refine Only.ite ?_ ?_
    | split
    | exact Only.refl _ _)

theorem sectorRetire_only {ps0 : List Part} {u0 : State} (die : Die) (sec : BitVec 5) (s : State)
    (hps : ∀ q ∈ ([.peat] : List Part), q ∈ ps0) :
    Only ps0 u0 (sectorRetire die sec s) ↔ Only ps0 u0 s := by
  refine Only.iff ?_ hps
  unfold sectorRetire
  try dsimp only
  repeat' (first
    | simp (disch := decide) only [↓State.peatTake_only, ↓Only.with_peat, ↓Only.refl_iff]
    | with_reducible refine Only.ite ?_ ?_
    | split
    | exact Only.refl _ _)

theorem State.endSector_only {ps0 : List Part} {u0 : State} (s : State) (d sec : Nat) (failed : Bool)
    (hps : ∀ q ∈ ([.raised, .regs, .rpr, .counts] : List Part), q ∈ ps0) :
    Only ps0 u0 (State.endSector s d sec failed).2 ↔ Only ps0 u0 s := by
  refine Only.iff ?_ hps
  unfold State.endSector
  try dsimp only
  repeat' (first
    | simp (disch := decide) only [↓State.unmarkRow_only, ↓State.fault_low, ↓State.bump_only, ↓State.recordRepair_only, ↓State.wearSweep_only, ↓Only.with_rpr, ↓Only.refl_iff]
    | with_reducible refine Only.ite ?_ ?_
    | split
    | exact Only.refl _ _)

theorem rprRetire_only {ps0 : List Part} {u0 : State} (s : State)
    (hps : ∀ q ∈ ([.rpr] : List Part), q ∈ ps0) :
    Only ps0 u0 (rprRetire s) ↔ Only ps0 u0 s := by
  refine Only.iff ?_ hps
  unfold rprRetire
  try dsimp only
  repeat' (first
    | simp (disch := decide) only [↓Only.with_rpr, ↓Only.refl_iff]
    | with_reducible refine Only.ite ?_ ?_
    | exact Only.refl _ _)

theorem rprScrubNow_only {ps0 : List Part} {u0 : State} (s : State)
    (hps : ∀ q ∈ ([.rpr] : List Part), q ∈ ps0) :
    Only ps0 u0 (rprScrubNow s) ↔ Only ps0 u0 s := by
  refine Only.iff ?_ hps
  unfold rprScrubNow
  try dsimp only
  repeat' (first
    | simp (disch := decide) only [↓Only.with_rpr, ↓Only.refl_iff]
    | with_reducible refine Only.ite ?_ ?_
    | exact Only.refl _ _)

theorem rprCmd_only {ps0 : List Part} {u0 : State} (src : Src) (op : Nat) (s : State)
    (hps : ∀ q ∈ ([.raised, .regs, .rpr, .peat, .counts] : List Part), q ∈ ps0) :
    Only ps0 u0 (rprCmd src op s) ↔ Only ps0 u0 s := by
  refine Only.iff ?_ hps
  unfold rprCmd
  try dsimp only
  repeat' (first
    | simp (disch := decide) only [↓rprRetire_only, ↓State.startMapWrite_only, ↓rprScrubNow_only, ↓State.ignored_only, ↓Only.refl_iff]
    | with_reducible refine Only.ite ?_ ?_
    | split
    | exact Only.refl _ _)

theorem tmrFix_only {ps0 : List Part} {u0 : State} (s : State)
    (hps : ∀ q ∈ ([.regs, .counts] : List Part), q ∈ ps0) :
    Only ps0 u0 (tmrFix s) ↔ Only ps0 u0 s := by
  refine Only.iff ?_ hps
  unfold tmrFix
  try dsimp only
  repeat' (first
    | simp (disch := decide) only [↓State.bump_only, ↓Only.refl_iff]
    | with_reducible refine Only.ite ?_ ?_
    | exact Only.refl _ _)

theorem State.actMiss_only {ps0 : List Part} {u0 : State} (s : State) (e : ActEntry) (slot : Nat) (l : Int) (t : BitVec 80)
    (hps : ∀ q ∈ ([.raised, .regs, .act, .counts] : List Part), q ∈ ps0) :
    Only ps0 u0 (State.actMiss s e slot l t) ↔ Only ps0 u0 s := by
  refine Only.iff ?_ hps
  unfold State.actMiss
  try dsimp only
  repeat' (first
    | simp (disch := decide) only [↓State.freeSlot_only, ↓State.bump_only, ↓State.actRecord_only, ↓State.fault_low, ↓Only.refl_iff]
    | with_reducible refine Only.ite ?_ ?_
    | exact Only.refl _ _)

theorem State.actFail_only {ps0 : List Part} {u0 : State} (s : State) (e : ActEntry) (r : ActRec) (t : BitVec 80)
    (hps : ∀ q ∈ ([.raised, .regs, .counts] : List Part), q ∈ ps0) :
    Only ps0 u0 (State.actFail s e r t) ↔ Only ps0 u0 s := by
  refine Only.iff ?_ hps
  unfold State.actFail
  try dsimp only
  repeat' (first
    | simp (disch := decide) only [↓State.bump_only, ↓State.actRecord_only, ↓State.fault_low, ↓Only.refl_iff]
    | with_reducible refine Only.ite ?_ ?_
    | exact Only.refl _ _)

theorem State.countLate_only {ps0 : List Part} {u0 : State} (s : State) (r : ActRec)
    (hps : ∀ q ∈ ([.regs, .counts] : List Part), q ∈ ps0) :
    Only ps0 u0 (State.countLate s r) ↔ Only ps0 u0 s := by
  refine Only.iff ?_ hps
  unfold State.countLate
  try dsimp only
  repeat' (first
    | simp (disch := decide) only [↓State.bump_only, ↓Only.refl_iff]
    | with_reducible refine Only.ite ?_ ?_
    | split
    | exact Only.refl _ _)

theorem State.startPulse_only {ps0 : List Part} {u0 : State} (s : State) (l edge : Nat) (off : OffEdge) (r : ActRec)
    (hps : ∀ q ∈ ([.regs, .act, .counts] : List Part), q ∈ ps0) :
    Only ps0 u0 (State.startPulse s l edge off r) ↔ Only ps0 u0 s := by
  refine Only.iff ?_ hps
  unfold State.startPulse
  try dsimp only
  repeat' (first
    | simp (disch := decide) only [↓State.setPulse_only, ↓State.bump_only, ↓Only.with_act, ↓Only.refl_iff]
    | with_reducible refine Only.ite ?_ ?_
    | split
    | exact Only.refl _ _)

theorem State.commitLine_only {ps0 : List Part} {u0 : State} (s : State) (e : ActEntry) (slot d : Nat)
    (hps : ∀ q ∈ ([.raised, .now, .regs, .act, .counts] : List Part), q ∈ ps0) :
    Only ps0 u0 (State.commitLine s e slot d) ↔ Only ps0 u0 s := by
  refine Only.iff ?_ hps
  unfold State.commitLine
  try dsimp only
  repeat' (first
    | simp (disch := decide) only [↓State.advanceTo_only, ↓State.actMiss_only, ↓State.freeSlot_only, ↓State.actFail_only, ↓State.countLate_only, ↓State.startPulse_only, ↓State.addCmd_only, ↓Only.refl_iff]
    | with_reducible refine Only.ite ?_ ?_
    | split
    | exact Only.refl _ _)

theorem State.performAction_some {s t : State} (e : ActEntry)
    (h : State.performAction s e = some t) : Only [.out, .raised, .now, .limits, .regs, .applied, .funcs, .queues, .dma, .flt, .ident, .time, .axes, .ncpA, .ncpB, .linkW, .linkE, .linkT, .fwd, .lines, .uarts, .encoders, .engines, .fronds, .act, .cans, .brg, .usb, .power, .pair, .xact, .counts, .lanes, .pendA, .pendB, .urgent] s t := by
  unfold State.performAction at h
  try dsimp only at h
  repeat' split at h
  all_goals first
    | (have h1 := Option.some.inj h; subst h1)
    | (cases h; done)
    | skip
  all_goals repeat' (first
    | simp (disch := decide) only [↓State.setEngine_only, ↓State.funcCommand_only, ↓State.originate_only, ↓State.canRequest_only, ↓State.capture_only, ↓Only.refl_iff]
    | with_reducible refine Only.ite ?_ ?_
    | split
    | exact Only.refl _ _)

theorem State.commitOther_only {ps0 : List Part} {u0 : State} (s : State) (e : ActEntry) (slot d : Nat)
    (hps : ∀ q ∈ ([.out, .raised, .now, .limits, .regs, .applied, .funcs, .queues, .dma, .flt, .ident, .time, .axes, .ncpA, .ncpB, .linkW, .linkE, .linkT, .fwd, .lines, .uarts, .encoders, .engines, .fronds, .act, .cans, .brg, .usb, .power, .pair, .xact, .counts, .lanes, .pendA, .pendB, .urgent] : List Part), q ∈ ps0) :
    Only ps0 u0 (State.commitOther s e slot d) ↔ Only ps0 u0 s := by
  refine Only.iff ?_ hps
  unfold State.commitOther
  try dsimp only
  repeat' (first
    | simp (disch := decide) only [↓State.advanceTo_only, ↓State.actMiss_only, ↓State.freeSlot_only, ↓State.funcCommand_only, ↓State.actFail_only, ↓State.countLate_only, ↓State.bump_only, ↓State.actRecord_only, ↓Only.refl_iff]
    | with_reducible refine Only.step (State.performAction_some _ (by assumption)) (by decide) ?_
    | with_reducible refine Only.ite ?_ ?_
    | split
    | with_reducible refine Only.snd ?_ (by assumption)
    | with_reducible refine Only.fst ?_ (by assumption)
    | exact Only.refl _ _)

theorem State.commitSlot_only {ps0 : List Part} {u0 : State} (s : State) (slot : Nat)
    (hps : ∀ q ∈ ([.out, .raised, .now, .limits, .regs, .applied, .funcs, .queues, .dma, .flt, .ident, .time, .axes, .ncpA, .ncpB, .linkW, .linkE, .linkT, .fwd, .lines, .uarts, .encoders, .engines, .fronds, .act, .cans, .brg, .usb, .power, .pair, .xact, .counts, .lanes, .pendA, .pendB, .urgent] : List Part), q ∈ ps0) :
    Only ps0 u0 (State.commitSlot s slot) ↔ Only ps0 u0 s := by
  refine Only.iff ?_ hps
  unfold State.commitSlot
  try dsimp only
  repeat' (first
    | simp (disch := decide) only [↓State.commitLine_only, ↓State.commitOther_only, ↓Only.refl_iff]
    | with_reducible refine Only.ite ?_ ?_
    | split
    | exact Only.refl _ _)

theorem actCommit_only {ps0 : List Part} {u0 : State} (slot : BitVec 12) (s : State)
    (hps : ∀ q ∈ ([.out, .raised, .now, .limits, .regs, .applied, .funcs, .queues, .dma, .flt, .ident, .time, .axes, .ncpA, .ncpB, .linkW, .linkE, .linkT, .fwd, .lines, .uarts, .encoders, .engines, .fronds, .act, .cans, .brg, .usb, .power, .pair, .xact, .counts, .lanes, .pendA, .pendB, .urgent] : List Part), q ∈ ps0) :
    Only ps0 u0 (actCommit slot s) ↔ Only ps0 u0 s := by
  refine Only.iff ?_ hps
  unfold actCommit
  try dsimp only
  repeat' (first
    | simp (disch := decide) only [↓State.commitSlot_only, ↓Only.refl_iff]
    | with_reducible refine Only.ite ?_ ?_
    | exact Only.refl _ _)

theorem State.judgeBehind_only {ps0 : List Part} {u0 : State} (s : State) (slot : Nat)
    (hps : ∀ q ∈ ([.out, .raised, .now, .limits, .regs, .applied, .funcs, .queues, .dma, .flt, .ident, .time, .axes, .ncpA, .ncpB, .linkW, .linkE, .linkT, .fwd, .lines, .uarts, .encoders, .engines, .fronds, .act, .cans, .brg, .usb, .power, .pair, .xact, .counts, .lanes, .pendA, .pendB, .urgent] : List Part), q ∈ ps0) :
    Only ps0 u0 (State.judgeBehind s slot) ↔ Only ps0 u0 s := by
  refine Only.iff ?_ hps
  unfold State.judgeBehind
  try dsimp only
  repeat' (first
    | simp (disch := decide) only [↓State.commitSlot_only, ↓Only.refl_iff]
    | with_reducible refine Only.ite ?_ ?_
    | split
    | exact Only.refl _ _)

theorem State.actCancel_only {ps0 : List Part} {u0 : State} (s : State) (e : ActEntry)
    (hps : ∀ q ∈ ([.raised, .now, .regs, .act, .counts] : List Part), q ∈ ps0) :
    Only ps0 u0 (State.actCancel s e) ↔ Only ps0 u0 s := by
  refine Only.iff ?_ hps
  unfold State.actCancel
  try dsimp only
  repeat' (first
    | simp (disch := decide) only [↓State.freeSlot_only, ↓State.bumpBy_only, ↓State.offAtOnce_only, ↓State.actRecord_only, ↓Only.refl_iff]
    | with_reducible refine Only.foldl (fun _ _ => ?_) ?_
    | with_reducible refine Only.foldl_snd (fun _ _ => ?_) ?_
    | with_reducible refine Only.ite ?_ ?_
    | split
    | exact Only.refl _ _)

theorem State.placeEntry_only {ps0 : List Part} {u0 : State} (s : State) (bytes : List Byte)
    (hps : ∀ q ∈ ([.raised, .regs, .act, .counts, .urgent] : List Part), q ∈ ps0) :
    Only ps0 u0 (State.placeEntry s bytes).2 ↔ Only ps0 u0 s := by
  refine Only.iff ?_ hps
  unfold State.placeEntry
  try dsimp only
  repeat' (first
    | simp (disch := decide) only [↓State.appRefuse_only, ↓Only.with_act, ↓Only.refl_iff]
    | with_reducible refine Only.ite ?_ ?_
    | split
    | exact Only.refl _ _)

theorem actMerge_only {ps0 : List Part} {u0 : State} (s : State)
    (hps : ∀ q ∈ ([.out, .raised, .now, .limits, .regs, .applied, .funcs, .queues, .dma, .flt, .ident, .time, .axes, .ncpA, .ncpB, .linkW, .linkE, .linkT, .fwd, .lines, .uarts, .encoders, .engines, .fronds, .act, .cans, .brg, .usb, .power, .pair, .xact, .counts, .lanes, .pendA, .pendB, .urgent] : List Part), q ∈ ps0) :
    Only ps0 u0 (actMerge s) ↔ Only ps0 u0 s := by
  refine Only.iff ?_ hps
  unfold actMerge
  try dsimp only
  repeat' (first
    | simp (disch := decide) only [↓State.appRefuse_only, ↓State.actCancel_only, ↓State.placeEntry_only, ↓State.staleSweep_only, ↓State.judgeBehind_only, ↓Only.with_act, ↓Only.refl_iff]
    | with_reducible refine Only.ite ?_ ?_
    | split
    | with_reducible refine Only.snd ?_ (by assumption)
    | with_reducible refine Only.fst ?_ (by assumption)
    | exact Only.refl _ _)

theorem State.swapBanks_only {ps0 : List Part} {u0 : State} (s : State)
    (hps : ∀ q ∈ ([.out, .raised, .now, .limits, .regs, .applied, .funcs, .queues, .dma, .flt, .ident, .time, .axes, .ncpA, .ncpB, .linkW, .linkE, .linkT, .fwd, .lines, .uarts, .encoders, .engines, .fronds, .act, .cans, .brg, .usb, .power, .pair, .xact, .counts, .lanes, .pendA, .pendB, .urgent] : List Part), q ∈ ps0) :
    Only ps0 u0 (State.swapBanks s) ↔ Only ps0 u0 s := by
  refine Only.iff ?_ hps
  unfold State.swapBanks
  try dsimp only
  repeat' (first
    | simp (disch := decide) only [↓State.bump_only, ↓State.bumpBy_only, ↓State.fault_low, ↓State.event_only, ↓State.placeEntry_only, ↓State.staleSweep_only, ↓State.judgeBehind_only, ↓Only.with_act, ↓Only.refl_iff]
    | with_reducible refine Only.foldl (fun _ _ => ?_) ?_
    | with_reducible refine Only.foldl_snd (fun _ _ => ?_) ?_
    | with_reducible refine Only.ite ?_ ?_
    | split
    | with_reducible refine Only.snd ?_ (by assumption)
    | with_reducible refine Only.fst ?_ (by assumption)
    | exact Only.refl _ _)

theorem actBoundary_only {ps0 : List Part} {u0 : State} (s : State)
    (hps : ∀ q ∈ ([.out, .raised, .now, .limits, .regs, .applied, .funcs, .queues, .dma, .flt, .ident, .time, .axes, .ncpA, .ncpB, .linkW, .linkE, .linkT, .fwd, .lines, .uarts, .encoders, .engines, .fronds, .act, .cans, .brg, .usb, .power, .pair, .xact, .counts, .lanes, .pendA, .pendB, .urgent] : List Part), q ∈ ps0) :
    Only ps0 u0 (actBoundary s) ↔ Only ps0 u0 s := by
  refine Only.iff ?_ hps
  unfold actBoundary
  try dsimp only
  repeat' (first
    | simp (disch := decide) only [↓State.advanceTo_only, ↓State.swapBanks_only, ↓Only.with_act, ↓Only.refl_iff]
    | with_reducible refine Only.ite ?_ ?_
    | split
    | exact Only.refl _ _)

theorem actAxisLatch_only {ps0 : List Part} {u0 : State} (a : BitVec 6) (gate : Bool) (s : State)
    (hps : ∀ q ∈ ([.raised, .now, .regs, .axes, .fwd, .encoders, .act, .counts] : List Part), q ∈ ps0) :
    Only ps0 u0 (actAxisLatch a gate s) ↔ Only ps0 u0 s := by
  refine Only.iff ?_ hps
  unfold actAxisLatch
  try dsimp only
  repeat' (first
    | simp (disch := decide) only [↓axisLatch_only, ↓State.staleSweep_only, ↓Only.refl_iff]
    | with_reducible refine Only.ite ?_ ?_
    | exact Only.refl _ _)

theorem actAxisSample_only {ps0 : List Part} {u0 : State} (s : State)
    (hps : ∀ q ∈ ([.raised, .regs, .axes, .fwd, .act, .counts] : List Part), q ∈ ps0) :
    Only ps0 u0 (actAxisSample s) ↔ Only ps0 u0 s := by
  refine Only.iff ?_ hps
  unfold actAxisSample
  try dsimp only
  repeat' (first
    | simp (disch := decide) only [↓axisSampleReceived_only, ↓State.staleSweep_only, ↓Only.refl_iff]
    | with_reducible refine Only.ite ?_ ?_
    | exact Only.refl _ _)

theorem actAxisStale_only {ps0 : List Part} {u0 : State} (a : BitVec 6) (s : State)
    (hps : ∀ q ∈ ([.raised, .now, .regs, .axes, .act, .counts] : List Part), q ∈ ps0) :
    Only ps0 u0 (actAxisStale a s) ↔ Only ps0 u0 s := by
  refine Only.iff ?_ hps
  unfold actAxisStale
  try dsimp only
  repeat' (first
    | simp (disch := decide) only [↓axisStale_only, ↓State.staleSweep_only, ↓Only.refl_iff]
    | with_reducible refine Only.ite ?_ ?_
    | exact Only.refl _ _)

theorem State.restEntered_only {ps0 : List Part} {u0 : State} (s : State)
    (hps : ∀ q ∈ ([.out, .uarts, .power] : List Part), q ∈ ps0) :
    Only ps0 u0 (State.restEntered s) ↔ Only ps0 u0 s := by
  refine Only.iff ?_ hps
  unfold State.restEntered
  try dsimp only
  repeat' (first
    | simp (disch := decide) only [↓State.releaseDrivers_only, ↓State.setChan_only, ↓Only.refl_iff]
    | with_reducible refine Only.foldl (fun _ _ => ?_) ?_
    | with_reducible refine Only.foldl_snd (fun _ _ => ?_) ?_
    | with_reducible refine Only.ite ?_ ?_
    | split
    | exact Only.refl _ _)

theorem State.toResting_only {ps0 : List Part} {u0 : State} (s : State)
    (hps : ∀ q ∈ ([.out, .raised, .now, .limits, .regs, .funcs, .dma, .ident, .time, .axes, .ncpA, .ncpB, .linkW, .linkE, .linkT, .fwd, .lines, .uarts, .engines, .act, .cans, .brg, .usb, .power, .pair, .xact, .counts, .pendA, .pendB, .urgent] : List Part), q ∈ ps0) :
    Only ps0 u0 (State.toResting s) ↔ Only ps0 u0 s := by
  refine Only.iff ?_ hps
  unfold State.toResting
  try dsimp only
  repeat' (first
    | simp (disch := decide) only [↓State.roleTo_only, ↓State.stopLeadSet_only, ↓State.restEntered_only, ↓Only.refl_iff]
    | with_reducible refine Only.ite ?_ ?_
    | exact Only.refl _ _)

theorem State.toLeading_only {ps0 : List Part} {u0 : State} (s : State)
    (hps : ∀ q ∈ ([.out, .raised, .ident, .lines, .pair] : List Part), q ∈ ps0) :
    Only ps0 u0 (State.toLeading s) ↔ Only ps0 u0 s := by
  refine Only.iff ?_ hps
  unfold State.toLeading
  try dsimp only
  repeat' (first
    | simp (disch := decide) only [↓State.safeLines_only, ↓State.roleTo_only, ↓Only.with_pair, ↓Only.refl_iff]
    | with_reducible refine Only.ite ?_ ?_
    | exact Only.refl _ _)

theorem State.toProbing_only {ps0 : List Part} {u0 : State} (s : State)
    (hps : ∀ q ∈ ([.out, .raised, .now, .limits, .regs, .funcs, .dma, .ident, .time, .axes, .ncpA, .ncpB, .linkW, .linkE, .linkT, .fwd, .lines, .uarts, .engines, .act, .cans, .brg, .usb, .power, .pair, .xact, .counts, .pendA, .pendB, .urgent] : List Part), q ∈ ps0) :
    Only ps0 u0 (State.toProbing s) ↔ Only ps0 u0 s := by
  refine Only.iff ?_ hps
  unfold State.toProbing
  try dsimp only
  repeat' (first
    | simp (disch := decide) only [↓State.roleTo_only, ↓State.stopLeadSet_only, ↓State.restEntered_only, ↓Only.with_pair, ↓Only.refl_iff]
    | with_reducible refine Only.ite ?_ ?_
    | exact Only.refl _ _)

theorem State.decideSlot0_some {s t : State} 
    (h : State.decideSlot0 s = some t) : Only [.out, .raised, .now, .limits, .regs, .funcs, .dma, .ident, .time, .axes, .ncpA, .ncpB, .linkW, .linkE, .linkT, .fwd, .lines, .uarts, .engines, .act, .cans, .brg, .usb, .power, .pair, .xact, .counts, .pendA, .pendB, .urgent] s t := by
  unfold State.decideSlot0 at h
  try dsimp only at h
  repeat' split at h
  all_goals first
    | (have h1 := Option.some.inj h; subst h1)
    | (cases h; done)
    | skip
  all_goals repeat' (first
    | simp (disch := decide) only [↓State.toLeading_only, ↓State.toResting_only, ↓Only.with_pair, ↓Only.refl_iff]
    | with_reducible refine Only.ite ?_ ?_
    | split
    | exact Only.refl _ _)

theorem pairEntry_only {ps0 : List Part} {u0 : State} (s : State)
    (hps : ∀ q ∈ ([.out, .raised, .now, .limits, .regs, .funcs, .dma, .ident, .time, .axes, .ncpA, .ncpB, .linkW, .linkE, .linkT, .fwd, .lines, .uarts, .engines, .act, .cans, .brg, .usb, .power, .pair, .xact, .counts, .pendA, .pendB, .urgent] : List Part), q ∈ ps0) :
    Only ps0 u0 (pairEntry s) ↔ Only ps0 u0 s := by
  refine Only.iff ?_ hps
  unfold pairEntry
  try dsimp only
  repeat' (first
    | simp (disch := decide) only [↓State.toResting_only, ↓Only.with_pair, ↓Only.refl_iff]
    | with_reducible refine Only.step (State.decideSlot0_some  (by assumption)) (by decide) ?_
    | with_reducible refine Only.getD (fun _ _ => ?_) ?_
    | with_reducible refine Only.ite ?_ ?_
    | split
    | with_reducible refine Only.snd ?_ (by assumption)
    | with_reducible refine Only.fst ?_ (by assumption)
    | exact Only.refl _ _)

theorem pairTwinTimeout_only {ps0 : List Part} {u0 : State} (s : State)
    (hps : ∀ q ∈ ([.out, .raised, .now, .limits, .regs, .funcs, .dma, .ident, .time, .axes, .ncpA, .ncpB, .linkW, .linkE, .linkT, .fwd, .lines, .uarts, .engines, .act, .cans, .brg, .usb, .power, .pair, .xact, .counts, .pendA, .pendB, .urgent] : List Part), q ∈ ps0) :
    Only ps0 u0 (pairTwinTimeout s) ↔ Only ps0 u0 s := by
  refine Only.iff ?_ hps
  unfold pairTwinTimeout
  try dsimp only
  repeat' (first
    | simp (disch := decide) only [↓State.advanceTo_only, ↓State.toProbing_only, ↓State.toResting_only, ↓Only.with_pair, ↓Only.refl_iff]
    | with_reducible refine Only.step (State.decideSlot0_some  (by assumption)) (by decide) ?_
    | with_reducible refine Only.ite ?_ ?_
    | split
    | with_reducible refine Only.snd ?_ (by assumption)
    | with_reducible refine Only.fst ?_ (by assumption)
    | exact Only.refl _ _)

theorem pairProbeResult_only {ps0 : List Part} {u0 : State} (s : State)
    (hps : ∀ q ∈ ([.out, .raised, .now, .limits, .regs, .funcs, .dma, .ident, .time, .axes, .ncpA, .ncpB, .linkW, .linkE, .linkT, .fwd, .lines, .uarts, .engines, .act, .cans, .brg, .usb, .power, .pair, .xact, .counts, .pendA, .pendB, .urgent] : List Part), q ∈ ps0) :
    Only ps0 u0 (pairProbeResult s) ↔ Only ps0 u0 s := by
  refine Only.iff ?_ hps
  unfold pairProbeResult
  try dsimp only
  repeat' (first
    | simp (disch := decide) only [↓State.toLeading_only, ↓State.advanceTo_only, ↓State.toResting_only, ↓State.bump_only, ↓State.fault_low, ↓Only.refl_iff]
    | with_reducible refine Only.ite ?_ ?_
    | split
    | exact Only.refl _ _)

theorem pairProbeAgain_only {ps0 : List Part} {u0 : State} (s : State)
    (hps : ∀ q ∈ ([.out, .raised, .now, .limits, .regs, .funcs, .dma, .ident, .time, .axes, .ncpA, .ncpB, .linkW, .linkE, .linkT, .fwd, .lines, .uarts, .engines, .act, .cans, .brg, .usb, .power, .pair, .xact, .counts, .pendA, .pendB, .urgent] : List Part), q ∈ ps0) :
    Only ps0 u0 (pairProbeAgain s) ↔ Only ps0 u0 s := by
  refine Only.iff ?_ hps
  unfold pairProbeAgain
  try dsimp only
  repeat' (first
    | simp (disch := decide) only [↓State.advanceTo_only, ↓State.toProbing_only, ↓Only.refl_iff]
    | with_reducible refine Only.ite ?_ ?_
    | split
    | exact Only.refl _ _)

theorem pairFallenEnd_only {ps0 : List Part} {u0 : State} (s : State)
    (hps : ∀ q ∈ ([.out, .now, .uarts, .power, .pair] : List Part), q ∈ ps0) :
    Only ps0 u0 (pairFallenEnd s) ↔ Only ps0 u0 s := by
  refine Only.iff ?_ hps
  unfold pairFallenEnd
  try dsimp only
  repeat' (first
    | simp (disch := decide) only [↓State.advanceTo_only, ↓State.restEntered_only, ↓Only.with_pair, ↓Only.refl_iff]
    | with_reducible refine State.redrive_via _ _ (by decide) ?_ ?_
    | with_reducible refine Only.ite ?_ ?_
    | split
    | exact Only.refl _ _)

theorem ckptSend_only {ps0 : List Part} {u0 : State} (s : State)
    (hps : ∀ q ∈ ([.out, .now, .pair] : List Part), q ∈ ps0) :
    Only ps0 u0 (ckptSend s) ↔ Only ps0 u0 s := by
  refine Only.iff ?_ hps
  unfold ckptSend
  try dsimp only
  repeat' (first
    | simp (disch := decide) only [↓State.advanceTo_only, ↓State.emit_only, ↓Only.with_pair, ↓Only.refl_iff]
    | with_reducible refine Only.ite ?_ ?_
    | split
    | exact Only.refl _ _)

theorem State.tell_only {ps0 : List Part} {u0 : State} (s : State) (m : HandoverMsg)
    (hps : ∀ q ∈ ([.out] : List Part), q ∈ ps0) :
    Only ps0 u0 (State.tell s m) ↔ Only ps0 u0 s := by
  refine Only.iff ?_ hps
  unfold State.tell
  try dsimp only
  repeat' (first
    | simp (disch := decide) only [↓State.emit_only, ↓Only.refl_iff]
    | with_reducible refine Only.ite ?_ ?_
    | split
    | exact Only.refl _ _)

theorem State.ckptGap_only {ps0 : List Part} {u0 : State} (s : State) (detail : Nat)
    (hps : ∀ q ∈ ([.out, .raised, .regs, .pair, .counts] : List Part), q ∈ ps0) :
    Only ps0 u0 (State.ckptGap s detail) ↔ Only ps0 u0 s := by
  refine Only.iff ?_ hps
  unfold State.ckptGap
  try dsimp only
  repeat' (first
    | simp (disch := decide) only [↓State.bump_only, ↓State.fault_low, ↓State.tell_only, ↓Only.with_pair, ↓Only.refl_iff]
    | with_reducible refine Only.ite ?_ ?_
    | exact Only.refl _ _)

theorem State.ckptTime_only {ps0 : List Part} {u0 : State} (s : State) (recs : List CkptRecord)
    (hps : ∀ q ∈ ([.raised, .regs, .time, .axes, .counts] : List Part), q ∈ ps0) :
    Only ps0 u0 (State.ckptTime s recs) ↔ Only ps0 u0 s := by
  refine Only.iff ?_ hps
  unfold State.ckptTime
  try dsimp only
  repeat' (first
    | simp (disch := decide) only [↓State.applyError_only, ↓Only.with_time, ↓Only.refl_iff]
    | with_reducible refine Only.foldl (fun _ _ => ?_) ?_
    | with_reducible refine Only.foldl_snd (fun _ _ => ?_) ?_
    | with_reducible refine Only.ite ?_ ?_
    | split
    | exact Only.refl _ _)

theorem State.takeFrozen_only {ps0 : List Part} {u0 : State} (s : State)
    (hps : ∀ q ∈ ([.out, .lines, .power, .pair] : List Part), q ∈ ps0) :
    Only ps0 u0 (State.takeFrozen s) ↔ Only ps0 u0 s := by
  refine Only.iff ?_ hps
  unfold State.takeFrozen
  try dsimp only
  repeat' (first
    | simp (disch := decide) only [↓State.setLine_only, ↓State.setChan_only, ↓Only.with_pair, ↓Only.refl_iff]
    | with_reducible refine State.eachLine_via _ _ _ (fun _ _ => ?_) ?_
    | with_reducible refine State.redrive_via _ _ (by decide) ?_ ?_
    | with_reducible refine Only.foldl (fun _ _ => ?_) ?_
    | with_reducible refine Only.foldl_snd (fun _ _ => ?_) ?_
    | with_reducible refine Only.ite ?_ ?_
    | split
    | exact Only.refl _ _)

theorem State.ckptApply_only {ps0 : List Part} {u0 : State} (s : State) (seq : Word) (base : Bool)
    (hps : ∀ q ∈ ([.out, .raised, .regs, .time, .axes, .lines, .power, .pair, .counts] : List Part), q ∈ ps0) :
    Only ps0 u0 (State.ckptApply s seq base) ↔ Only ps0 u0 s := by
  refine Only.iff ?_ hps
  unfold State.ckptApply
  try dsimp only
  repeat' (first
    | simp (disch := decide) only [↓State.bump_only, ↓State.ckptTime_only, ↓State.takeFrozen_only, ↓Only.with_pair, ↓Only.refl_iff]
    | with_reducible refine Only.ite ?_ ?_
    | split
    | exact Only.refl _ _)

theorem State.dropPairFrame_only {ps0 : List Part} {u0 : State} (s : State) (kind : Nat)
    (hps : ∀ q ∈ ([.fwd] : List Part), q ∈ ps0) :
    Only ps0 u0 (State.dropPairFrame s kind) ↔ Only ps0 u0 s := by
  refine Only.iff ?_ hps
  unfold State.dropPairFrame
  try dsimp only
  repeat' (first
    | simp (disch := decide) only [↓Only.with_fwd, ↓Only.refl_iff]
    | with_reducible refine Only.ite ?_ ?_
    | split
    | exact Only.refl _ _)

theorem ckptPart_only {ps0 : List Part} {u0 : State} (seq : Word) (base : Bool) (recs : List CkptRecord) (fin ok : Bool) (s : State)
    (hps : ∀ q ∈ ([.out, .raised, .regs, .time, .axes, .fwd, .lines, .power, .pair, .counts] : List Part), q ∈ ps0) :
    Only ps0 u0 (ckptPart seq base recs fin ok s) ↔ Only ps0 u0 s := by
  refine Only.iff ?_ hps
  unfold ckptPart
  try dsimp only
  repeat' (first
    | simp (disch := decide) only [↓State.dropPairFrame_only, ↓State.ckptGap_only, ↓State.ckptApply_only, ↓Only.with_pair, ↓Only.refl_iff]
    | with_reducible refine Only.ite ?_ ?_
    | split
    | exact Only.refl _ _)

theorem ckptSilence_only {ps0 : List Part} {u0 : State} (s : State)
    (hps : ∀ q ∈ ([.now, .pair] : List Part), q ∈ ps0) :
    Only ps0 u0 (ckptSilence s) ↔ Only ps0 u0 s := by
  refine Only.iff ?_ hps
  unfold ckptSilence
  try dsimp only
  repeat' (first
    | simp (disch := decide) only [↓State.advanceTo_only, ↓Only.with_pair, ↓Only.refl_iff]
    | with_reducible refine Only.ite ?_ ?_
    | split
    | exact Only.refl _ _)

theorem State.restoreRecord_only {ps0 : List Part} {u0 : State} (s : State) (a1 : CkptRecord)
    (hps : ∀ q ∈ ([.out, .raised, .limits, .regs, .applied, .fwd, .shared, .lines, .encoders, .act, .brg, .power, .counts] : List Part), q ∈ ps0) :
    Only ps0 u0 (State.restoreRecord s a1) ↔ Only ps0 u0 s := by
  refine Only.iff ?_ hps
  unfold State.restoreRecord
  try dsimp only
  repeat' (first
    | simp (disch := decide) only [↓State.setReg_only, ↓State.setApplied_only, ↓State.setEncoder_only, ↓State.setNat_only, ↓State.setLine_only, ↓State.setChan_only, ↓Only.with_shared_act_brg, ↓Only.refl_iff]
    | with_reducible refine State.eachLine_via _ _ _ (fun _ _ => ?_) ?_
    | with_reducible refine Only.ite ?_ ?_
    | split
    | exact Only.refl _ _)

theorem State.restoreCopy_only {ps0 : List Part} {u0 : State} (s : State)
    (hps : ∀ q ∈ ([.out, .raised, .limits, .regs, .applied, .fwd, .shared, .lines, .encoders, .act, .brg, .power, .counts] : List Part), q ∈ ps0) :
    Only ps0 u0 (State.restoreCopy s) ↔ Only ps0 u0 s := by
  refine Only.iff ?_ hps
  unfold State.restoreCopy
  try dsimp only
  repeat' (first
    | simp (disch := decide) only [↓State.restoreRecord_only, ↓Only.with_act_brg, ↓Only.refl_iff]
    | with_reducible refine Only.foldl (fun _ _ => ?_) ?_
    | with_reducible refine Only.foldl_snd (fun _ _ => ?_) ?_
    | with_reducible refine Only.ite ?_ ?_
    | split
    | exact Only.refl _ _)

theorem State.startLeadSet_only {ps0 : List Part} {u0 : State} (s : State)
    (hps : ∀ q ∈ ([.out, .raised, .now, .limits, .regs, .applied, .funcs, .queues, .dma, .flt, .ident, .time, .axes, .ncpA, .ncpB, .linkW, .linkE, .linkT, .fwd, .lines, .uarts, .encoders, .engines, .fronds, .act, .cans, .brg, .usb, .power, .pair, .xact, .counts, .lanes, .pendA, .pendB, .urgent] : List Part), q ∈ ps0) :
    Only ps0 u0 (State.startLeadSet s) ↔ Only ps0 u0 s := by
  refine Only.iff ?_ hps
  unfold State.startLeadSet
  try dsimp only
  repeat' (first
    | simp (disch := decide) only [↓State.funcCommand_only, ↓Only.refl_iff]
    | with_reducible refine Only.foldl (fun _ _ => ?_) ?_
    | with_reducible refine Only.foldl_snd (fun _ _ => ?_) ?_
    | with_reducible refine Only.ite ?_ ?_
    | split
    | exact Only.refl _ _)

theorem State.takeOver_only {ps0 : List Part} {u0 : State} (s : State) (noCkpt : Bool)
    (hps : ∀ q ∈ ([.out, .raised, .now, .limits, .regs, .applied, .funcs, .queues, .dma, .flt, .ident, .time, .axes, .ncpA, .ncpB, .linkW, .linkE, .linkT, .fwd, .shared, .lines, .uarts, .encoders, .engines, .fronds, .act, .cans, .brg, .usb, .power, .pair, .xact, .counts, .lanes, .pendA, .pendB, .urgent] : List Part), q ∈ ps0) :
    Only ps0 u0 (State.takeOver s noCkpt) ↔ Only ps0 u0 s := by
  refine Only.iff ?_ hps
  unfold State.takeOver
  try dsimp only
  repeat' (first
    | simp (disch := decide) only [↓State.safeLines_only, ↓State.roleTo_only, ↓State.restoreCopy_only, ↓State.startLeadSet_only, ↓State.eventP_only, ↓State.bump_only, ↓State.fault_low, ↓Only.with_pair, ↓Only.refl_iff]
    | with_reducible refine Only.ite ?_ ?_
    | split
    | exact Only.refl _ _)

theorem pairBootwait_only {ps0 : List Part} {u0 : State} (s : State)
    (hps : ∀ q ∈ ([.out, .raised, .now, .limits, .regs, .applied, .funcs, .queues, .dma, .flt, .ident, .time, .axes, .ncpA, .ncpB, .linkW, .linkE, .linkT, .fwd, .shared, .lines, .uarts, .encoders, .engines, .fronds, .act, .cans, .brg, .usb, .power, .pair, .xact, .counts, .lanes, .pendA, .pendB, .urgent] : List Part), q ∈ ps0) :
    Only ps0 u0 (pairBootwait s) ↔ Only ps0 u0 s := by
  refine Only.iff ?_ hps
  unfold pairBootwait
  try dsimp only
  repeat' (first
    | simp (disch := decide) only [↓State.advanceTo_only, ↓State.takeOver_only, ↓Only.refl_iff]
    | with_reducible refine Only.ite ?_ ?_
    | split
    | exact Only.refl _ _)

theorem State.handRefused_only {ps0 : List Part} {u0 : State} (s : State)
    (hps : ∀ q ∈ ([.raised, .regs, .counts] : List Part), q ∈ ps0) :
    Only ps0 u0 (State.handRefused s) ↔ Only ps0 u0 s := by
  refine Only.iff ?_ hps
  unfold State.handRefused
  try dsimp only
  repeat' (first
    | simp (disch := decide) only [↓State.bump_only, ↓State.fault_low, ↓Only.refl_iff]
    | with_reducible refine Only.ite ?_ ?_
    | exact Only.refl _ _)

theorem State.handAbort_only {ps0 : List Part} {u0 : State} (s : State) (cause : Nat)
    (hps : ∀ q ∈ ([.out, .raised, .now, .limits, .regs, .applied, .funcs, .queues, .dma, .flt, .ident, .time, .axes, .ncpA, .ncpB, .linkW, .linkE, .linkT, .fwd, .lines, .uarts, .encoders, .engines, .fronds, .act, .cans, .brg, .usb, .power, .pair, .xact, .counts, .lanes, .pendA, .pendB, .urgent] : List Part), q ∈ ps0) :
    Only ps0 u0 (State.handAbort s cause) ↔ Only ps0 u0 s := by
  refine Only.iff ?_ hps
  unfold State.handAbort
  try dsimp only
  repeat' (first
    | simp (disch := decide) only [↓State.bump_only, ↓State.fault_low, ↓State.toResting_only, ↓State.roleTo_only, ↓State.funcCommand_only, ↓Only.with_pair, ↓Only.refl_iff]
    | with_reducible refine State.redrive_via _ _ (by decide) ?_ ?_
    | with_reducible refine Only.foldl (fun _ _ => ?_) ?_
    | with_reducible refine Only.foldl_snd (fun _ _ => ?_) ?_
    | with_reducible refine Only.ite ?_ ?_
    | split
    | exact Only.refl _ _)

theorem State.twinNoted_only {ps0 : List Part} {u0 : State} (s : State)
    (hps : ∀ q ∈ ([.pair] : List Part), q ∈ ps0) :
    Only ps0 u0 (State.twinNoted s) ↔ Only ps0 u0 s := by
  refine Only.iff ?_ hps
  unfold State.twinNoted
  try dsimp only
  repeat' (first
    | simp (disch := decide) only [↓Only.with_pair, ↓Only.refl_iff]
    | with_reducible refine Only.ite ?_ ?_
    | split
    | exact Only.refl _ _)

theorem State.holdNoted_only {ps0 : List Part} {u0 : State} (s : State)
    (hps : ∀ q ∈ ([.pair] : List Part), q ∈ ps0) :
    Only ps0 u0 (State.holdNoted s) ↔ Only ps0 u0 s := by
  refine Only.iff ?_ hps
  unfold State.holdNoted
  try dsimp only
  repeat' (first
    | simp (disch := decide) only [↓Only.with_pair, ↓Only.refl_iff]
    | with_reducible refine Only.ite ?_ ?_
    | split
    | exact Only.refl _ _)

theorem pairWatch_only {ps0 : List Part} {u0 : State} (s : State)
    (hps : ∀ q ∈ ([.out, .raised, .now, .limits, .regs, .applied, .funcs, .queues, .dma, .flt, .ident, .time, .axes, .ncpA, .ncpB, .linkW, .linkE, .linkT, .fwd, .lines, .uarts, .encoders, .engines, .fronds, .act, .cans, .brg, .usb, .power, .pair, .xact, .counts, .lanes, .pendA, .pendB, .urgent] : List Part), q ∈ ps0) :
    Only ps0 u0 (pairWatch s) ↔ Only ps0 u0 s := by
  refine Only.iff ?_ hps
  unfold pairWatch
  try dsimp only
  repeat' (first
    | simp (disch := decide) only [↓State.twinNoted_only, ↓State.toLeading_only, ↓State.handAbort_only, ↓State.tell_only, ↓State.holdNoted_only, ↓Only.refl_iff]
    | with_reducible refine Only.step (State.decideSlot0_some  (by assumption)) (by decide) ?_
    | with_reducible refine Only.getD (fun _ _ => ?_) ?_
    | with_reducible refine Only.ite ?_ ?_
    | split
    | with_reducible refine Only.snd ?_ (by assumption)
    | with_reducible refine Only.fst ?_ (by assumption)
    | exact Only.refl _ _)

theorem peerLost_only {ps0 : List Part} {u0 : State} (s : State)
    (hps : ∀ q ∈ ([.out, .raised, .now, .limits, .regs, .applied, .funcs, .queues, .dma, .flt, .ident, .time, .axes, .ncpA, .ncpB, .linkW, .linkE, .linkT, .fwd, .shared, .lines, .uarts, .encoders, .engines, .fronds, .act, .cans, .brg, .usb, .power, .pair, .xact, .counts, .lanes, .pendA, .pendB, .urgent] : List Part), q ∈ ps0) :
    Only ps0 u0 (peerLost s) ↔ Only ps0 u0 s := by
  refine Only.iff ?_ hps
  unfold peerLost
  try dsimp only
  repeat' (first
    | simp (disch := decide) only [↓State.fault_low, ↓State.takeOver_only, ↓State.handAbort_only, ↓pairWatch_only, ↓Only.with_flt_pair, ↓Only.refl_iff]
    | with_reducible refine Only.ite ?_ ?_
    | split
    | exact Only.refl _ _)

theorem peerPresent_only {ps0 : List Part} {u0 : State} (s : State)
    (hps : ∀ q ∈ ([.out, .raised, .now, .limits, .regs, .applied, .funcs, .queues, .dma, .flt, .ident, .time, .axes, .ncpA, .ncpB, .linkW, .linkE, .linkT, .fwd, .lines, .uarts, .encoders, .engines, .fronds, .act, .cans, .brg, .usb, .power, .pair, .xact, .counts, .lanes, .pendA, .pendB, .urgent] : List Part), q ∈ ps0) :
    Only ps0 u0 (peerPresent s) ↔ Only ps0 u0 s := by
  refine Only.iff ?_ hps
  unfold peerPresent
  try dsimp only
  repeat' (first
    | simp (disch := decide) only [↓pairWatch_only, ↓Only.with_flt_pair, ↓Only.refl_iff]
    | with_reducible refine Only.ite ?_ ?_
    | exact Only.refl _ _)

theorem State.handGrant_only {ps0 : List Part} {u0 : State} (s : State)
    (hps : ∀ q ∈ ([.out, .raised, .regs, .ident, .pair, .counts] : List Part), q ∈ ps0) :
    Only ps0 u0 (State.handGrant s) ↔ Only ps0 u0 s := by
  refine Only.iff ?_ hps
  unfold State.handGrant
  try dsimp only
  repeat' (first
    | simp (disch := decide) only [↓State.tell_only, ↓State.roleTo_only, ↓State.handRefused_only, ↓Only.with_pair, ↓Only.refl_iff]
    | with_reducible refine Only.ite ?_ ?_
    | split
    | exact Only.refl _ _)

theorem handMessage_only {ps0 : List Part} {u0 : State} (m : HandoverMsg) (s : State)
    (hps : ∀ q ∈ ([.out, .raised, .now, .limits, .regs, .applied, .funcs, .queues, .dma, .flt, .ident, .time, .axes, .ncpA, .ncpB, .linkW, .linkE, .linkT, .fwd, .lines, .uarts, .encoders, .engines, .fronds, .act, .cans, .brg, .usb, .power, .pair, .xact, .counts, .lanes, .pendA, .pendB, .urgent] : List Part), q ∈ ps0) :
    Only ps0 u0 (handMessage m s) ↔ Only ps0 u0 s := by
  refine Only.iff ?_ hps
  unfold handMessage
  try dsimp only
  repeat' (first
    | simp (disch := decide) only [↓State.dropPairFrame_only, ↓State.tell_only, ↓State.handRefused_only, ↓State.handGrant_only, ↓State.roleTo_only, ↓State.handAbort_only, ↓Only.with_pair, ↓Only.refl_iff]
    | with_reducible refine Only.ite ?_ ?_
    | split
    | exact Only.refl _ _)

theorem State.pairNop_only {ps0 : List Part} {u0 : State} (s : State)
    (hps : ∀ q ∈ ([.regs, .counts] : List Part), q ∈ ps0) :
    Only ps0 u0 (State.pairNop s) ↔ Only ps0 u0 s := by
  refine Only.iff ?_ hps
  unfold State.pairNop
  try dsimp only
  repeat' (first
    | simp (disch := decide) only [↓State.bump_only, ↓Only.refl_iff]
    | with_reducible refine Only.ite ?_ ?_
    | exact Only.refl _ _)

theorem pairHandback_only {ps0 : List Part} {u0 : State} (s : State)
    (hps : ∀ q ∈ ([.out, .raised, .regs, .counts] : List Part), q ∈ ps0) :
    Only ps0 u0 (pairHandback s) ↔ Only ps0 u0 s := by
  refine Only.iff ?_ hps
  unfold pairHandback
  try dsimp only
  repeat' (first
    | simp (disch := decide) only [↓State.pairNop_only, ↓State.tell_only, ↓State.handRefused_only, ↓Only.refl_iff]
    | with_reducible refine Only.ite ?_ ?_
    | split
    | exact Only.refl _ _)

theorem pairHoldoff_only {ps0 : List Part} {u0 : State} (s : State)
    (hps : ∀ q ∈ ([.out, .raised, .now, .regs, .pair, .counts] : List Part), q ∈ ps0) :
    Only ps0 u0 (pairHoldoff s) ↔ Only ps0 u0 s := by
  refine Only.iff ?_ hps
  unfold pairHoldoff
  try dsimp only
  repeat' (first
    | simp (disch := decide) only [↓State.advanceTo_only, ↓State.tell_only, ↓State.handRefused_only, ↓Only.with_pair, ↓Only.refl_iff]
    | with_reducible refine Only.ite ?_ ?_
    | split
    | exact Only.refl _ _)

theorem pairYield_only {ps0 : List Part} {u0 : State} (s : State)
    (hps : ∀ q ∈ ([.out, .raised, .regs, .counts] : List Part), q ∈ ps0) :
    Only ps0 u0 (pairYield s) ↔ Only ps0 u0 s := by
  refine Only.iff ?_ hps
  unfold pairYield
  try dsimp only
  repeat' (first
    | simp (disch := decide) only [↓State.pairNop_only, ↓State.tell_only, ↓State.handRefused_only, ↓Only.refl_iff]
    | with_reducible refine Only.ite ?_ ?_
    | split
    | exact Only.refl _ _)

theorem pairResync_only {ps0 : List Part} {u0 : State} (s : State)
    (hps : ∀ q ∈ ([.out, .regs, .pair, .counts] : List Part), q ∈ ps0) :
    Only ps0 u0 (pairResync s) ↔ Only ps0 u0 s := by
  refine Only.iff ?_ hps
  unfold pairResync
  try dsimp only
  repeat' (first
    | simp (disch := decide) only [↓State.tell_only, ↓State.pairNop_only, ↓Only.with_pair, ↓Only.refl_iff]
    | with_reducible refine Only.ite ?_ ?_
    | split
    | exact Only.refl _ _)

theorem pairHold_only {ps0 : List Part} {u0 : State} (s : State)
    (hps : ∀ q ∈ ([.regs, .pair, .counts] : List Part), q ∈ ps0) :
    Only ps0 u0 (pairHold s) ↔ Only ps0 u0 s := by
  refine Only.iff ?_ hps
  unfold pairHold
  try dsimp only
  repeat' (first
    | simp (disch := decide) only [↓State.pairNop_only, ↓Only.with_pair, ↓Only.refl_iff]
    | with_reducible refine Only.ite ?_ ?_
    | split
    | exact Only.refl _ _)

theorem pairRelease_only {ps0 : List Part} {u0 : State} (s : State)
    (hps : ∀ q ∈ ([.out, .raised, .now, .limits, .regs, .applied, .funcs, .queues, .dma, .flt, .ident, .time, .axes, .ncpA, .ncpB, .linkW, .linkE, .linkT, .fwd, .lines, .uarts, .encoders, .engines, .fronds, .act, .cans, .brg, .usb, .power, .pair, .xact, .counts, .lanes, .pendA, .pendB, .urgent] : List Part), q ∈ ps0) :
    Only ps0 u0 (pairRelease s) ↔ Only ps0 u0 s := by
  refine Only.iff ?_ hps
  unfold pairRelease
  try dsimp only
  repeat' (first
    | simp (disch := decide) only [↓pairWatch_only, ↓State.pairNop_only, ↓Only.with_pair, ↓Only.refl_iff]
    | with_reducible refine Only.ite ?_ ?_
    | split
    | exact Only.refl _ _)

theorem pairCmd_only {ps0 : List Part} {u0 : State} (src : Src) (op : Nat) (s : State)
    (hps : ∀ q ∈ ([.out, .raised, .now, .limits, .regs, .applied, .funcs, .queues, .dma, .flt, .ident, .time, .axes, .ncpA, .ncpB, .linkW, .linkE, .linkT, .fwd, .lines, .uarts, .encoders, .engines, .fronds, .act, .cans, .brg, .usb, .power, .pair, .xact, .counts, .lanes, .pendA, .pendB, .urgent] : List Part), q ∈ ps0) :
    Only ps0 u0 (pairCmd src op s) ↔ Only ps0 u0 s := by
  refine Only.iff ?_ hps
  unfold pairCmd
  try dsimp only
  repeat' (first
    | simp (disch := decide) only [↓pairHandback_only, ↓pairYield_only, ↓pairResync_only, ↓pairHold_only, ↓pairRelease_only, ↓State.ignored_only, ↓Only.refl_iff]
    | with_reducible refine Only.ite ?_ ?_
    | split
    | exact Only.refl _ _)

theorem handFreeze_only {ps0 : List Part} {u0 : State} (s : State)
    (hps : ∀ q ∈ ([.out, .raised, .now, .limits, .regs, .funcs, .dma, .time, .axes, .ncpA, .ncpB, .linkW, .linkE, .linkT, .fwd, .lines, .engines, .act, .cans, .brg, .usb, .power, .pair, .xact, .counts, .pendA, .pendB, .urgent] : List Part), q ∈ ps0) :
    Only ps0 u0 (handFreeze s) ↔ Only ps0 u0 s := by
  refine Only.iff ?_ hps
  unfold handFreeze
  try dsimp only
  repeat' (first
    | simp (disch := decide) only [↓State.advanceTo_only, ↓State.stopLeadSet_only, ↓State.emit_only, ↓Only.with_pair, ↓Only.refl_iff]
    | with_reducible refine Only.ite ?_ ?_
    | split
    | exact Only.refl _ _)

theorem handSwitch_only {ps0 : List Part} {u0 : State} (s : State)
    (hps : ∀ q ∈ ([.out, .raised, .now, .limits, .regs, .funcs, .dma, .ident, .time, .axes, .ncpA, .ncpB, .linkW, .linkE, .linkT, .fwd, .lines, .uarts, .engines, .act, .cans, .brg, .usb, .power, .pair, .xact, .counts, .pendA, .pendB, .urgent] : List Part), q ∈ ps0) :
    Only ps0 u0 (handSwitch s) ↔ Only ps0 u0 s := by
  refine Only.iff ?_ hps
  unfold handSwitch
  try dsimp only
  repeat' (first
    | simp (disch := decide) only [↓State.advanceTo_only, ↓State.emit_only, ↓State.toResting_only, ↓State.bump_only, ↓State.eventP_only, ↓Only.with_ident_pair, ↓Only.refl_iff]
    | with_reducible refine Only.ite ?_ ?_
    | split
    | exact Only.refl _ _)

theorem State.placePulses_only {ps0 : List Part} {u0 : State} (s : State)
    (hps : ∀ q ∈ ([.act] : List Part), q ∈ ps0) :
    Only ps0 u0 (State.placePulses s) ↔ Only ps0 u0 s := by
  refine Only.iff ?_ hps
  unfold State.placePulses
  try dsimp only
  repeat' (first
    | simp (disch := decide) only [↓State.addCmd_only, ↓Only.refl_iff]
    | with_reducible refine Only.foldl (fun _ _ => ?_) ?_
    | with_reducible refine Only.foldl_snd (fun _ _ => ?_) ?_
    | with_reducible refine Only.ite ?_ ?_
    | split
    | exact Only.refl _ _)

theorem handDone_only {ps0 : List Part} {u0 : State} (s : State)
    (hps : ∀ q ∈ ([.out, .raised, .now, .limits, .regs, .applied, .funcs, .queues, .dma, .flt, .ident, .time, .axes, .ncpA, .ncpB, .linkW, .linkE, .linkT, .fwd, .shared, .lines, .uarts, .encoders, .engines, .fronds, .act, .cans, .brg, .usb, .power, .pair, .xact, .counts, .lanes, .pendA, .pendB, .urgent] : List Part), q ∈ ps0) :
    Only ps0 u0 (handDone s) ↔ Only ps0 u0 s := by
  refine Only.iff ?_ hps
  unfold handDone
  try dsimp only
  repeat' (first
    | simp (disch := decide) only [↓State.restoreCopy_only, ↓State.startLeadSet_only, ↓State.placePulses_only, ↓State.roleTo_only, ↓State.bump_only, ↓State.eventP_only, ↓Only.with_pair, ↓Only.refl_iff]
    | with_reducible refine State.redrive_via _ _ (by decide) ?_ ?_
    | with_reducible refine Only.ite ?_ ?_
    | split
    | exact Only.refl _ _)

theorem healthSend_only {ps0 : List Part} {u0 : State} (s : State)
    (hps : ∀ q ∈ ([.raised, .regs, .fwd, .counts] : List Part), q ∈ ps0) :
    Only ps0 u0 (healthSend s) ↔ Only ps0 u0 s := by
  refine Only.iff ?_ hps
  unfold healthSend
  try dsimp only
  repeat' (first
    | simp (disch := decide) only [↓State.originate_only, ↓Only.refl_iff]
    | with_reducible refine Only.ite ?_ ?_
    | split
    | exact Only.refl _ _)

theorem healthReceived_only {ps0 : List Part} {u0 : State} (s : State)
    (hps : ∀ q ∈ ([.out, .raised, .now, .limits, .regs, .applied, .funcs, .queues, .dma, .flt, .ident, .time, .axes, .ncpA, .ncpB, .linkW, .linkE, .linkT, .fwd, .lines, .uarts, .encoders, .engines, .fronds, .act, .cans, .brg, .usb, .power, .pair, .xact, .counts, .lanes, .pendA, .pendB, .urgent] : List Part), q ∈ ps0) :
    Only ps0 u0 (healthReceived s) ↔ Only ps0 u0 s := by
  refine Only.iff ?_ hps
  unfold healthReceived
  try dsimp only
  repeat' (first
    | simp (disch := decide) only [↓State.ckptGap_only, ↓pairWatch_only, ↓Only.with_fwd_pair, ↓Only.refl_iff]
    | with_reducible refine Only.foldl (fun _ _ => ?_) ?_
    | with_reducible refine Only.foldl_snd (fun _ _ => ?_) ?_
    | with_reducible refine Only.ite ?_ ?_
    | split
    | exact Only.refl _ _)

theorem pairSelfTest_only {ps0 : List Part} {u0 : State} (check : BitVec 4) (pass : Bool) (s : State)
    (hps : ∀ q ∈ ([.out, .raised, .now, .limits, .regs, .applied, .funcs, .queues, .dma, .flt, .ident, .time, .axes, .ncpA, .ncpB, .linkW, .linkE, .linkT, .fwd, .lines, .uarts, .encoders, .engines, .fronds, .act, .cans, .brg, .usb, .power, .pair, .xact, .counts, .lanes, .pendA, .pendB, .urgent] : List Part), q ∈ ps0) :
    Only ps0 u0 (pairSelfTest check pass s) ↔ Only ps0 u0 s := by
  refine Only.iff ?_ hps
  unfold pairSelfTest
  try dsimp only
  repeat' (first
    | simp (disch := decide) only [↓pairWatch_only, ↓State.fault_low, ↓Only.with_pair, ↓Only.refl_iff]
    | with_reducible refine Only.ite ?_ ?_
    | split
    | exact Only.refl _ _)

end Sys2Proof.Machine
end

