-- ==== Sys2Proof/Laws/TouchAccess.lean ====
section
/-! SUPPORT. What each operation of register and transaction access can touch: one lemma for each, in the form in which later
proofs cite it. -/

namespace Sys2Proof.Machine

theorem State.watchdogExpires_only {ps0 : List Part} {u0 : State} (s : State) (p : Pair)
    (hps : ∀ q ∈ ([.raised, .regs, .ncpA, .ncpB, .counts, .pendA, .pendB, .urgent] : List Part), q ∈ ps0) :
    Only ps0 u0 (State.watchdogExpires s p) ↔ Only ps0 u0 s := by
  refine Only.iff ?_ hps
  unfold State.watchdogExpires
  try dsimp only
  repeat' (first
    | simp (disch := decide) only [↓State.setNcp_only, ↓State.bump_only, ↓State.fault_only, ↓Only.refl_iff]
    | with_reducible refine Only.ite ?_ ?_
    | exact Only.refl _ _)

theorem ncpKick_only {ps0 : List Part} {u0 : State} (p : Pair) (v : BitVec 16) (s : State)
    (hps : ∀ q ∈ ([.raised, .regs, .ncpA, .ncpB, .counts, .pendA, .pendB, .urgent] : List Part), q ∈ ps0) :
    Only ps0 u0 (ncpKick p v s) ↔ Only ps0 u0 s := by
  refine Only.iff ?_ hps
  unfold ncpKick
  try dsimp only
  repeat' (first
    | simp (disch := decide) only [↓State.setNcp_only, ↓State.watchdogExpires_only, ↓Only.refl_iff]
    | with_reducible refine Only.ite ?_ ?_
    | split
    | exact Only.refl _ _)

theorem ncpWatchdog_only {ps0 : List Part} {u0 : State} (p : Pair) (s : State)
    (hps : ∀ q ∈ ([.raised, .now, .regs, .ncpA, .ncpB, .counts, .pendA, .pendB, .urgent] : List Part), q ∈ ps0) :
    Only ps0 u0 (ncpWatchdog p s) ↔ Only ps0 u0 s := by
  refine Only.iff ?_ hps
  unfold ncpWatchdog
  try dsimp only
  repeat' (first
    | simp (disch := decide) only [↓State.advanceTo_only, ↓State.watchdogExpires_only, ↓Only.refl_iff]
    | with_reducible refine Only.ite ?_ ?_
    | split
    | exact Only.refl _ _)

theorem ncpEoi_only {ps0 : List Part} {u0 : State} (p : Pair) (s : State)
    (hps : ∀ q ∈ ([.ncpA, .ncpB, .pendA, .pendB] : List Part), q ∈ ps0) :
    Only ps0 u0 (ncpEoi p s) ↔ Only ps0 u0 s := by
  refine Only.iff ?_ hps
  unfold ncpEoi
  try dsimp only
  repeat' (first
    | simp (disch := decide) only [↓State.setNcp_only, ↓Only.refl_iff]
    | with_reducible refine Only.ite ?_ ?_
    | exact Only.refl _ _)

theorem State.ncpClaim_only {ps0 : List Part} {u0 : State} (s : State) (p : Pair)
    (hps : ∀ q ∈ ([.ncpA, .ncpB, .pendA, .pendB] : List Part), q ∈ ps0) :
    Only ps0 u0 (State.ncpClaim s p).2 ↔ Only ps0 u0 s := by
  refine Only.iff ?_ hps
  unfold State.ncpClaim
  try dsimp only
  repeat' (first
    | simp (disch := decide) only [↓State.setNcp_only, ↓Only.refl_iff]
    | with_reducible refine Only.ite ?_ ?_
    | split
    | exact Only.refl _ _)

theorem ncpMismatch_only {ps0 : List Part} {u0 : State} (p : Pair) (pc : Word) (kind : BitVec 2) (s : State)
    (hps : ∀ q ∈ ([.raised, .regs, .ncpA, .ncpB, .counts, .pendA, .pendB, .urgent] : List Part), q ∈ ps0) :
    Only ps0 u0 (ncpMismatch p pc kind s) ↔ Only ps0 u0 s := by
  refine Only.iff ?_ hps
  unfold ncpMismatch
  try dsimp only
  repeat' (first
    | simp (disch := decide) only [↓State.setNcp_only, ↓State.setNat_only, ↓State.bump_only, ↓State.fault_only, ↓Only.refl_iff]
    | with_reducible refine Only.ite ?_ ?_
    | split
    | exact Only.refl _ _)

theorem ncpSelfTest_only {ps0 : List Part} {u0 : State} (p : Pair) (pass : Bool) (s : State)
    (hps : ∀ q ∈ ([.out, .raised, .now, .limits, .regs, .funcs, .dma, .flt, .ident, .time, .axes, .ncpA, .ncpB, .linkW, .linkE, .linkT, .fwd, .lines, .uarts, .engines, .act, .cans, .brg, .usb, .power, .pair, .xact, .counts, .lanes, .pendA, .pendB, .urgent] : List Part), q ∈ ps0) :
    Only ps0 u0 (ncpSelfTest p pass s) ↔ Only ps0 u0 s := by
  refine Only.iff ?_ hps
  unfold ncpSelfTest
  try dsimp only
  repeat' (first
    | simp (disch := decide) only [↓State.setNcp_only, ↓State.haltFn_only, ↓State.fault_only, ↓Only.refl_iff]
    | with_reducible refine Only.ite ?_ ?_
    | split
    | with_reducible refine Only.snd ?_ (by assumption)
    | with_reducible refine Only.fst ?_ (by assumption)
    | exact Only.refl _ _)

theorem State.popReg_some {s t : State} (off : Nat) (ecc : EccResult) {v : Nat}
    (h : State.popReg s off ecc = some (v, t)) : Only [.raised, .regs, .ncpA, .ncpB, .uarts, .engines, .cans, .brg, .counts, .pendA, .pendB] s t := by
  unfold State.popReg at h
  try dsimp only at h
  repeat' split at h
  all_goals first
    | (have h1 := congrArg Prod.snd (Option.some.inj h); subst h1)
    | (cases h; done)
    | skip
  all_goals repeat' (first
    | simp (disch := decide) only [↓State.ncpClaim_only, ↓State.msgPop_only, ↓State.canPop_only, ↓State.uartPop_only, ↓State.engRxPop_only, ↓Only.refl_iff]
    | with_reducible refine Only.ite ?_ ?_
    | split
    | with_reducible refine Only.snd ?_ (by assumption)
    | with_reducible refine Only.fst ?_ (by assumption)
    | exact Only.refl _ _)

theorem State.latchUpper_only {ps0 : List Part} {u0 : State} (s : State) (port off k : Nat)
    (hps : ∀ q ∈ ([.latches] : List Part), q ∈ ps0) :
    Only ps0 u0 (State.latchUpper s port off k) ↔ Only ps0 u0 s := by
  refine Only.iff ?_ hps
  unfold State.latchUpper
  try dsimp only
  repeat' (first
    | simp (disch := decide) only [↓Only.with_latches, ↓Only.refl_iff]
    | with_reducible refine Only.ite ?_ ?_
    | exact Only.refl _ _)

theorem State.regRead_only {ps0 : List Part} {u0 : State} (s : State) (port off : Nat) (ecc : EccResult)
    (hps : ∀ q ∈ ([.raised, .regs, .latches, .ncpA, .ncpB, .uarts, .engines, .cans, .brg, .counts, .pendA, .pendB] : List Part), q ∈ ps0) :
    Only ps0 u0 (State.regRead s port off ecc).2 ↔ Only ps0 u0 s := by
  refine Only.iff ?_ hps
  unfold State.regRead
  try dsimp only
  repeat' (first
    | simp (disch := decide) only [↓State.latchUpper_only, ↓Only.with_latches, ↓Only.refl_iff]
    | with_reducible refine Only.step (State.popReg_some _ _ (by assumption)) (by decide) ?_
    | with_reducible refine Only.ite ?_ ?_
    | split
    | with_reducible refine Only.snd ?_ (by assumption)
    | with_reducible refine Only.fst ?_ (by assumption)
    | exact Only.refl _ _)

theorem keyUnlock_only {ps0 : List Part} {u0 : State} (src : Src) (data : Word) (s : State)
    (hps : ∀ q ∈ ([.regs, .key, .counts] : List Part), q ∈ ps0) :
    Only ps0 u0 (keyUnlock src data s) ↔ Only ps0 u0 s := by
  refine Only.iff ?_ hps
  unfold keyUnlock
  try dsimp only
  repeat' (first
    | simp (disch := decide) only [↓State.bump_only, ↓Only.with_key, ↓Only.refl_iff]
    | with_reducible refine Only.ite ?_ ?_
    | split
    | exact Only.refl _ _)

theorem keyTimeout_only {ps0 : List Part} {u0 : State} (s : State)
    (hps : ∀ q ∈ ([.now, .key] : List Part), q ∈ ps0) :
    Only ps0 u0 (keyTimeout s) ↔ Only ps0 u0 s := by
  refine Only.iff ?_ hps
  unfold keyTimeout
  try dsimp only
  repeat' (first
    | simp (disch := decide) only [↓State.advanceTo_only, ↓Only.with_key, ↓Only.refl_iff]
    | with_reducible refine Only.ite ?_ ?_
    | split
    | exact Only.refl _ _)

theorem State.keyViolation_only {ps0 : List Part} {u0 : State} (s : State) (off : Nat)
    (hps : ∀ q ∈ ([.raised, .regs, .counts] : List Part), q ∈ ps0) :
    Only ps0 u0 (State.keyViolation s off) ↔ Only ps0 u0 s := by
  refine Only.iff ?_ hps
  unfold State.keyViolation
  try dsimp only
  repeat' (first
    | simp (disch := decide) only [↓State.bump_only, ↓State.fault_low, ↓Only.refl_iff]
    | with_reducible refine Only.ite ?_ ?_
    | exact Only.refl _ _)

theorem State.keyPass_only {ps0 : List Part} {u0 : State} (s : State) (src : Src) (off : Nat)
    (hps : ∀ q ∈ ([.raised, .regs, .key, .counts] : List Part), q ∈ ps0) :
    Only ps0 u0 (State.keyPass s src off).2 ↔ Only ps0 u0 s := by
  refine Only.iff ?_ hps
  unfold State.keyPass
  try dsimp only
  repeat' (first
    | simp (disch := decide) only [↓State.keyViolation_only, ↓Only.with_key, ↓Only.refl_iff]
    | with_reducible refine Only.ite ?_ ?_
    | split
    | exact Only.refl _ _)

theorem State.ldWrite_only {ps0 : List Part} {u0 : State} (s : State) (src : Src) (d word : Nat) (data mask : BitVec 16)
    (hps : ∀ q ∈ ([.raised, .regs, .counts] : List Part), q ∈ ps0) :
    Only ps0 u0 (State.ldWrite s src d word data mask) ↔ Only ps0 u0 s := by
  refine Only.iff ?_ hps
  unfold State.ldWrite
  try dsimp only
  repeat' (first
    | simp (disch := decide) only [↓State.ignored_only, ↓State.setReg_only, ↓Only.refl_iff]
    | with_reducible refine Only.ite ?_ ?_
    | split
    | exact Only.refl _ _)

theorem State.ldxFetch_only {ps0 : List Part} {u0 : State} (s : State)
    (hps : ∀ q ∈ ([.ldx] : List Part), q ∈ ps0) :
    Only ps0 u0 (State.ldxFetch s) ↔ Only ps0 u0 s := by
  refine Only.iff ?_ hps
  unfold State.ldxFetch
  try dsimp only
  repeat' (first
    | simp (disch := decide) only [↓Only.with_ldx, ↓Only.refl_iff]
    | with_reducible refine Only.ite ?_ ?_
    | exact Only.refl _ _)

theorem State.ldxAdvance_only {ps0 : List Part} {u0 : State} (s : State)
    (hps : ∀ q ∈ ([.ldx] : List Part), q ∈ ps0) :
    Only ps0 u0 (State.ldxAdvance s) ↔ Only ps0 u0 s := by
  refine Only.iff ?_ hps
  unfold State.ldxAdvance
  try dsimp only
  repeat' (first
    | simp (disch := decide) only [↓Only.with_ldx, ↓Only.refl_iff]
    | with_reducible refine Only.ite ?_ ?_
    | exact Only.refl _ _)

theorem ldxAddrWrite_only {ps0 : List Part} {u0 : State} (src : Src) (data : Word) (s : State)
    (hps : ∀ q ∈ ([.raised, .regs, .ldx, .counts] : List Part), q ∈ ps0) :
    Only ps0 u0 (ldxAddrWrite src data s) ↔ Only ps0 u0 s := by
  refine Only.iff ?_ hps
  unfold ldxAddrWrite
  try dsimp only
  repeat' (first
    | simp (disch := decide) only [↓State.ignored_only, ↓State.ldxFetch_only, ↓Only.with_ldx, ↓Only.refl_iff]
    | with_reducible refine Only.ite ?_ ?_
    | split
    | exact Only.refl _ _)

theorem ldxDataWrite_only {ps0 : List Part} {u0 : State} (src : Src) (data : Word) (s : State)
    (hps : ∀ q ∈ ([.raised, .regs, .key, .ldx, .counts] : List Part), q ∈ ps0) :
    Only ps0 u0 (ldxDataWrite src data s) ↔ Only ps0 u0 s := by
  refine Only.iff ?_ hps
  unfold ldxDataWrite
  try dsimp only
  repeat' (first
    | simp (disch := decide) only [↓State.ignored_only, ↓State.keyPass_only, ↓Only.with_ldx, ↓Only.refl_iff]
    | with_reducible refine Only.ite ?_ ?_
    | split
    | with_reducible refine Only.snd ?_ (by assumption)
    | with_reducible refine Only.fst ?_ (by assumption)
    | exact Only.refl _ _)

theorem State.ldxServe_only {ps0 : List Part} {u0 : State} (s : State)
    (hps : ∀ q ∈ ([.out, .ldx] : List Part), q ∈ ps0) :
    Only ps0 u0 (State.ldxServe s) ↔ Only ps0 u0 s := by
  refine Only.iff ?_ hps
  unfold State.ldxServe
  try dsimp only
  repeat' (first
    | simp (disch := decide) only [↓State.emit_only, ↓State.ldxAdvance_only, ↓State.ldxFetch_only, ↓Only.with_ldx, ↓Only.refl_iff]
    | with_reducible refine Only.ite ?_ ?_
    | split
    | exact Only.refl _ _)

theorem ldxFetchDone_only {ps0 : List Part} {u0 : State} (m : BitVec 16) (s : State)
    (hps : ∀ q ∈ ([.out, .ldx] : List Part), q ∈ ps0) :
    Only ps0 u0 (ldxFetchDone m s) ↔ Only ps0 u0 s := by
  refine Only.iff ?_ hps
  unfold ldxFetchDone
  try dsimp only
  repeat' (first
    | simp (disch := decide) only [↓State.ldxServe_only, ↓Only.with_ldx, ↓Only.refl_iff]
    | with_reducible refine Only.ite ?_ ?_
    | split
    | exact Only.refl _ _)

theorem ldxWriteConfirmed_only {ps0 : List Part} {u0 : State} (s : State)
    (hps : ∀ q ∈ ([.raised, .regs, .ldx, .counts] : List Part), q ∈ ps0) :
    Only ps0 u0 (ldxWriteConfirmed s) ↔ Only ps0 u0 s := by
  refine Only.iff ?_ hps
  unfold ldxWriteConfirmed
  try dsimp only
  repeat' (first
    | simp (disch := decide) only [↓State.ldWrite_only, ↓State.ldxAdvance_only, ↓State.ldxFetch_only, ↓Only.with_ldx, ↓Only.refl_iff]
    | with_reducible refine Only.ite ?_ ?_
    | split
    | exact Only.refl _ _)

theorem State.ldxFail_only {ps0 : List Part} {u0 : State} (s : State)
    (hps : ∀ q ∈ ([.out, .raised, .regs, .ldx, .counts] : List Part), q ∈ ps0) :
    Only ps0 u0 (State.ldxFail s) ↔ Only ps0 u0 s := by
  refine Only.iff ?_ hps
  unfold State.ldxFail
  try dsimp only
  repeat' (first
    | simp (disch := decide) only [↓State.bump_only, ↓State.fault_low, ↓State.emit_only, ↓State.ldxAdvance_only, ↓State.ldxFetch_only, ↓Only.with_ldx, ↓Only.refl_iff]
    | with_reducible refine Only.foldl (fun _ _ => ?_) ?_
    | with_reducible refine Only.foldl_snd (fun _ _ => ?_) ?_
    | with_reducible refine Only.ite ?_ ?_
    | split
    | exact Only.refl _ _)

theorem ldxTimeout_only {ps0 : List Part} {u0 : State} (s : State)
    (hps : ∀ q ∈ ([.out, .raised, .now, .regs, .ldx, .counts] : List Part), q ∈ ps0) :
    Only ps0 u0 (ldxTimeout s) ↔ Only ps0 u0 s := by
  refine Only.iff ?_ hps
  unfold ldxTimeout
  try dsimp only
  repeat' (first
    | simp (disch := decide) only [↓State.advanceTo_only, ↓State.ldxFail_only, ↓Only.refl_iff]
    | with_reducible refine Only.ite ?_ ?_
    | split
    | exact Only.refl _ _)

theorem State.ldxTake_only {ps0 : List Part} {u0 : State} (s : State)
    (hps : ∀ q ∈ ([.ldx] : List Part), q ∈ ps0) :
    Only ps0 u0 (State.ldxTake s).2 ↔ Only ps0 u0 s := by
  refine Only.iff ?_ hps
  unfold State.ldxTake
  try dsimp only
  repeat' (first
    | simp (disch := decide) only [↓State.ldxAdvance_only, ↓State.ldxFetch_only, ↓Only.refl_iff]
    | with_reducible refine Only.ite ?_ ?_
    | split
    | exact Only.refl _ _)

theorem ldxDataRead_only {ps0 : List Part} {u0 : State} (src : Src) (s : State)
    (hps : ∀ q ∈ ([.out, .ldx] : List Part), q ∈ ps0) :
    Only ps0 u0 (ldxDataRead src s) ↔ Only ps0 u0 s := by
  refine Only.iff ?_ hps
  unfold ldxDataRead
  try dsimp only
  repeat' (first
    | simp (disch := decide) only [↓State.ldxTake_only, ↓State.emit_only, ↓Only.with_ldx, ↓Only.refl_iff]
    | with_reducible refine Only.ite ?_ ?_
    | split
    | with_reducible refine Only.snd ?_ (by assumption)
    | with_reducible refine Only.fst ?_ (by assumption)
    | exact Only.refl _ _)

theorem State.ldxEnd_only {ps0 : List Part} {u0 : State} (s : State)
    (hps : ∀ q ∈ ([.out, .raised, .now, .regs, .ldx, .counts] : List Part), q ∈ ps0) :
    Only ps0 u0 (State.ldxEnd s) ↔ Only ps0 u0 s := by
  refine Only.iff ?_ hps
  unfold State.ldxEnd
  try dsimp only
  repeat' (first
    | simp (disch := decide) only [↓ldxTimeout_only, ↓ldxWriteConfirmed_only, ↓ldxFetchDone_only, ↓Only.refl_iff]
    | with_reducible refine Only.ite ?_ ?_
    | split
    | exact Only.refl _ _)

theorem State.ldxReadThrough_only {ps0 : List Part} {u0 : State} (s : State)
    (hps : ∀ q ∈ ([.out, .raised, .now, .regs, .ldx, .counts] : List Part), q ∈ ps0) :
    Only ps0 u0 (State.ldxReadThrough s).2 ↔ Only ps0 u0 s := by
  refine Only.iff ?_ hps
  unfold State.ldxReadThrough
  try dsimp only
  repeat' (first
    | simp (disch := decide) only [↓State.ldxEnd_only, ↓State.ldxTake_only, ↓Only.refl_iff]
    | with_reducible refine Only.ite ?_ ?_
    | with_reducible refine Only.snd ?_ (by assumption)
    | with_reducible refine Only.fst ?_ (by assumption)
    | exact Only.refl _ _)

theorem ldxClaim_only {ps0 : List Part} {u0 : State} (src : Src) (data : Word) (s : State)
    (hps : ∀ q ∈ ([.regs, .counts] : List Part), q ∈ ps0) :
    Only ps0 u0 (ldxClaim src data s) ↔ Only ps0 u0 s := by
  refine Only.iff ?_ hps
  unfold ldxClaim
  try dsimp only
  repeat' (first
    | simp (disch := decide) only [↓State.setReg_only, ↓Only.refl_iff]
    | with_reducible refine Only.ite ?_ ?_
    | split
    | exact Only.refl _ _)

theorem linkCmd_only {ps0 : List Part} {u0 : State} (src : Src) (l : Link) (v : Nat) (s : State)
    (hps : ∀ q ∈ ([.raised, .limits, .regs, .time, .linkW, .linkE, .linkT, .fwd, .counts] : List Part), q ∈ ps0) :
    Only ps0 u0 (linkCmd src l v s) ↔ Only ps0 u0 s := by
  refine Only.iff ?_ hps
  unfold linkCmd
  try dsimp only
  repeat' (first
    | simp (disch := decide) only [↓linkRetrain_only, ↓linkRateup_only, ↓State.ignored_only, ↓Only.refl_iff]
    | with_reducible refine Only.ite ?_ ?_
    | split
    | exact Only.refl _ _)

theorem State.frondCommand_only {ps0 : List Part} {u0 : State} (s : State) (src : Src) (nn o v : Nat)
    (hps : ∀ q ∈ ([.out, .raised, .limits, .regs, .staged, .lines, .uarts, .encoders, .engines, .fronds, .counts] : List Part), q ∈ ps0) :
    Only ps0 u0 (State.frondCommand s src nn o v) ↔ Only ps0 u0 s := by
  refine Only.iff ?_ hps
  unfold State.frondCommand
  try dsimp only
  repeat' (first
    | simp (disch := decide) only [↓lcmdUnlatch_only, ↓encoderCmd_only, ↓utxWrite_only, ↓engPflagSet_only, ↓engQueueCmd_only, ↓engTxStage_only, ↓engTxAppend_only, ↓Only.refl_iff]
    | with_reducible refine Only.ite ?_ ?_
    | split
    | exact Only.refl _ _)

theorem State.commandWrite_only {ps0 : List Part} {u0 : State} (s : State) (src : Src) (off : Nat) (data : Word)
    (hps : ∀ q ∈ ([.out, .raised, .now, .limits, .regs, .applied, .staged, .funcs, .key, .queues, .dma, .flt, .ident, .time, .axes, .ncpA, .ncpB, .linkW, .linkE, .linkT, .fwd, .lines, .uarts, .encoders, .engines, .fronds, .act, .cans, .brg, .usb, .power, .rpr, .peat, .pair, .xact, .counts, .lanes, .pendA, .pendB, .urgent] : List Part), q ∈ ps0) :
    Only ps0 u0 (State.commandWrite s src off data) ↔ Only ps0 u0 s := by
  refine Only.iff ?_ hps
  unfold State.commandWrite
  try dsimp only
  repeat' (first
    | simp (disch := decide) only [↓funcCmd_only, ↓updateStrobe_only, ↓groupStrobe_only, ↓linkCmd_only, ↓pairCmd_only, ↓xactSefree_only, ↓timeCmd_only, ↓actCmd_only, ↓brgCmd_only, ↓canTxCmd_only, ↓canCmd_only, ↓usbCmd_only, ↓ncpKick_only, ↓ncpEoi_only, ↓fltAckWrite_only, ↓pccmd_only, ↓rprCmd_only, ↓keyUnlock_only, ↓State.frondCommand_only, ↓Only.refl_iff]
    | with_reducible refine Only.ite ?_ ?_
    | split
    | exact Only.refl _ _)

theorem State.peatCmd_only {ps0 : List Part} {u0 : State} (s : State) (src : Src) (op : Nat)
    (hps : ∀ q ∈ ([.raised, .regs, .key, .peat, .counts] : List Part), q ∈ ps0) :
    Only ps0 u0 (State.peatCmd s src op) ↔ Only ps0 u0 s := by
  refine Only.iff ?_ hps
  unfold State.peatCmd
  try dsimp only
  repeat' (first
    | simp (disch := decide) only [↓State.ignored_only, ↓State.keyPass_only, ↓State.peatTake_only, ↓Only.refl_iff]
    | with_reducible refine Only.ite ?_ ?_
    | split
    | with_reducible refine Only.snd ?_ (by assumption)
    | with_reducible refine Only.fst ?_ (by assumption)
    | exact Only.refl _ _)

theorem State.take_only {ps0 : List Part} {u0 : State} (s : State) (off : Nat) (h : RegHit) (v : Word)
    (hps : ∀ q ∈ ([.regs, .staged, .counts] : List Part), q ∈ ps0) :
    Only ps0 u0 (State.take s off h v) ↔ Only ps0 u0 s := by
  refine Only.iff ?_ hps
  unfold State.take
  try dsimp only
  repeat' (first
    | simp (disch := decide) only [↓State.stage_only, ↓State.applyWide_only, ↓State.setReg_only, ↓Only.refl_iff]
    | with_reducible refine Only.ite ?_ ?_
    | split
    | exact Only.refl _ _)

theorem State.engineStored_only {ps0 : List Part} {u0 : State} (s : State) (off : Nat) (old : Word)
    (hps : ∀ q ∈ ([.raised, .funcs, .engines] : List Part), q ∈ ps0) :
    Only ps0 u0 (State.engineStored s off old) ↔ Only ps0 u0 s := by
  refine Only.iff ?_ hps
  unfold State.engineStored
  try dsimp only
  repeat' (first
    | simp (disch := decide) only [↓State.setFunc_only, ↓State.txdChanged_only, ↓Only.refl_iff]
    | with_reducible refine Only.ite ?_ ?_
    | split
    | exact Only.refl _ _)

theorem State.afterStore_only {ps0 : List Part} {u0 : State} (s : State) (off : Nat) (old : Word)
    (hps : ∀ q ∈ ([.out, .raised, .funcs, .pcie, .engines, .usb, .pba] : List Part), q ∈ ps0) :
    Only ps0 u0 (State.afterStore s off old) ↔ Only ps0 u0 s := by
  refine Only.iff ?_ hps
  unfold State.afterStore
  try dsimp only
  repeat' (first
    | simp (disch := decide) only [↓State.usbDetach_only, ↓State.flushMsix_only, ↓State.engineStored_only, ↓Only.refl_iff]
    | with_reducible refine Only.ite ?_ ?_
    | split
    | exact Only.refl _ _)

theorem State.put_only {ps0 : List Part} {u0 : State} (s : State) (src : Src) (off : Nat) (h : RegHit) (v : Word)
    (hps : ∀ q ∈ ([.out, .raised, .regs, .staged, .funcs, .pcie, .engines, .usb, .counts, .pba] : List Part), q ∈ ps0) :
    Only ps0 u0 (State.put s src off h v) ↔ Only ps0 u0 s := by
  refine Only.iff ?_ hps
  unfold State.put
  try dsimp only
  repeat' (first
    | simp (disch := decide) only [↓State.take_only, ↓State.afterStore_only, ↓State.ignored_only, ↓Only.refl_iff]
    | with_reducible refine Only.ite ?_ ?_
    | split
    | exact Only.refl _ _)

theorem State.rwWrite_only {ps0 : List Part} {u0 : State} (s : State) (src : Src) (off : Nat) (h : RegHit) (v : Word)
    (hps : ∀ q ∈ ([.out, .raised, .regs, .staged, .funcs, .hostq, .dma, .pcie, .lines, .engines, .usb, .counts, .pba] : List Part), q ∈ ps0) :
    Only ps0 u0 (State.rwWrite s src off h v) ↔ Only ps0 u0 s := by
  refine Only.iff ?_ hps
  unfold State.rwWrite
  try dsimp only
  repeat' (first
    | simp (disch := decide) only [↓ldxClaim_only, ↓actAidx_only, ↓brgAidx_only, ↓hqctlWrite_only, ↓hqconsWrite_only, ↓dctlWrite_only, ↓dtailWrite_only, ↓loutWrite_only, ↓progStage_only, ↓progWrite_only, ↓State.put_only, ↓Only.refl_iff]
    | with_reducible refine Only.ite ?_ ?_
    | split
    | exact Only.refl _ _)

theorem State.rwkWrite_only {ps0 : List Part} {u0 : State} (s : State) (src : Src) (off : Nat) (h : RegHit) (v : Word)
    (hps : ∀ q ∈ ([.out, .raised, .regs, .staged, .funcs, .pcie, .flt, .engines, .usb, .power, .boot, .counts, .pba, .lanes] : List Part), q ∈ ps0) :
    Only ps0 u0 (State.rwkWrite s src off h v) ↔ Only ps0 u0 s := by
  refine Only.iff ?_ hps
  unfold State.rwkWrite
  try dsimp only
  repeat' (first
    | simp (disch := decide) only [↓safeExit_only, ↓domainRequest_only, ↓State.put_only, ↓Only.with_boot, ↓Only.refl_iff]
    | with_reducible refine Only.ite ?_ ?_
    | split
    | exact Only.refl _ _)

theorem State.rwpWrite_only {ps0 : List Part} {u0 : State} (s : State) (src : Src) (off : Nat) (h : RegHit) (v : Word)
    (hps : ∀ q ∈ ([.out, .raised, .regs, .staged, .funcs, .key, .ldx, .pcie, .linkW, .linkE, .linkT, .engines, .usb, .peat, .counts, .pba] : List Part), q ∈ ps0) :
    Only ps0 u0 (State.rwpWrite s src off h v) ↔ Only ps0 u0 s := by
  refine Only.iff ?_ hps
  unfold State.rwpWrite
  try dsimp only
  repeat' (first
    | simp (disch := decide) only [↓ldxAddrWrite_only, ↓State.peatCmd_only, ↓linkMmctl_only, ↓State.ignored_only, ↓State.put_only, ↓Only.refl_iff]
    | with_reducible refine Only.ite ?_ ?_
    | split
    | exact Only.refl _ _)

theorem State.wordWrite_only {ps0 : List Part} {u0 : State} (s : State) (src : Src) (off : Nat) (h : RegHit) (v : Word)
    (hps : ∀ q ∈ ([.out, .raised, .now, .limits, .regs, .applied, .staged, .funcs, .key, .ldx, .queues, .hostq, .dma, .pcie, .flt, .ident, .time, .axes, .ncpA, .ncpB, .linkW, .linkE, .linkT, .fwd, .lines, .uarts, .encoders, .engines, .fronds, .act, .cans, .brg, .usb, .power, .rpr, .peat, .boot, .pair, .xact, .counts, .pba, .lanes, .pendA, .pendB, .urgent] : List Part), q ∈ ps0) :
    Only ps0 u0 (State.wordWrite s src off h v) ↔ Only ps0 u0 s := by
  refine Only.iff ?_ hps
  unfold State.wordWrite
  try dsimp only
  repeat' (first
    | simp (disch := decide) only [↓State.ignored_only, ↓State.commandWrite_only, ↓State.rwWrite_only, ↓State.rwpWrite_only, ↓ldxDataWrite_only, ↓State.keyPass_only, ↓State.rwkWrite_only, ↓State.put_only, ↓State.setFunc_only, ↓Only.refl_iff]
    | with_reducible refine Only.ite ?_ ?_
    | split
    | with_reducible refine Only.snd ?_ (by assumption)
    | with_reducible refine Only.fst ?_ (by assumption)
    | exact Only.refl _ _)

theorem regWrite_only {ps0 : List Part} {u0 : State} (src : Src) (off : Nat) (size : Width) (v : Word) (s : State)
    (hps : ∀ q ∈ ([.out, .raised, .now, .limits, .regs, .applied, .staged, .funcs, .key, .ldx, .queues, .hostq, .dma, .pcie, .flt, .ident, .time, .axes, .ncpA, .ncpB, .linkW, .linkE, .linkT, .fwd, .lines, .uarts, .encoders, .engines, .fronds, .act, .cans, .brg, .usb, .power, .rpr, .peat, .boot, .pair, .xact, .counts, .pba, .lanes, .pendA, .pendB, .urgent] : List Part), q ∈ ps0) :
    Only ps0 u0 (regWrite src off size v s) ↔ Only ps0 u0 s := by
  refine Only.iff ?_ hps
  unfold regWrite
  try dsimp only
  repeat' (first
    | simp (disch := decide) only [↓State.ignored_only, ↓State.wordWrite_only, ↓Only.refl_iff]
    | with_reducible refine Only.ite ?_ ?_
    | split
    | exact Only.refl _ _)

theorem State.wordRead_only {ps0 : List Part} {u0 : State} (s : State) (port off : Nat) (ecc : EccResult)
    (hps : ∀ q ∈ ([.out, .raised, .now, .regs, .latches, .ldx, .ncpA, .ncpB, .uarts, .engines, .cans, .brg, .counts, .pendA, .pendB] : List Part), q ∈ ps0) :
    Only ps0 u0 (State.wordRead s port off ecc).2 ↔ Only ps0 u0 s := by
  refine Only.iff ?_ hps
  unfold State.wordRead
  try dsimp only
  repeat' (first
    | simp (disch := decide) only [↓State.ldxReadThrough_only, ↓State.regRead_only, ↓Only.refl_iff]
    | with_reducible refine Only.ite ?_ ?_
    | split
    | with_reducible refine Only.snd ?_ (by assumption)
    | with_reducible refine Only.fst ?_ (by assumption)
    | exact Only.refl _ _)

theorem wideWrite_only {ps0 : List Part} {u0 : State} (src : Src) (off : BitVec 24) (v : Word) (s : State)
    (hps : ∀ q ∈ ([.out, .raised, .now, .limits, .regs, .applied, .staged, .funcs, .key, .ldx, .queues, .hostq, .dma, .pcie, .flt, .ident, .time, .axes, .ncpA, .ncpB, .linkW, .linkE, .linkT, .fwd, .lines, .uarts, .encoders, .engines, .fronds, .act, .cans, .brg, .usb, .power, .rpr, .peat, .boot, .pair, .xact, .counts, .pba, .lanes, .pendA, .pendB, .urgent] : List Part), q ∈ ps0) :
    Only ps0 u0 (wideWrite src off v s) ↔ Only ps0 u0 s := by
  refine Only.iff ?_ hps
  unfold wideWrite
  try dsimp only
  repeat' (first
    | simp (disch := decide) only [↓regWrite_only, ↓Only.refl_iff]
    | with_reducible refine Only.ite ?_ ?_
    | exact Only.refl _ _)

theorem wideRead_only {ps0 : List Part} {u0 : State} (src : Src) (off : BitVec 24) (s : State)
    (hps : ∀ q ∈ ([.out, .raised, .now, .regs, .latches, .ldx, .ncpA, .ncpB, .uarts, .engines, .cans, .brg, .counts, .pendA, .pendB] : List Part), q ∈ ps0) :
    Only ps0 u0 (wideRead src off s) ↔ Only ps0 u0 s := by
  refine Only.iff ?_ hps
  unfold wideRead
  try dsimp only
  repeat' (first
    | simp (disch := decide) only [↓State.wordRead_only, ↓State.emit_only, ↓Only.refl_iff]
    | with_reducible refine Only.ite ?_ ?_
    | split
    | with_reducible refine Only.snd ?_ (by assumption)
    | with_reducible refine Only.fst ?_ (by assumption)
    | exact Only.refl _ _)

theorem State.memoryRead_only {ps0 : List Part} {u0 : State} (s : State) (mid : Nat) (m : List Host.Cell) (o k : Nat) (ecc : EccResult)
    (hps : ∀ q ∈ ([.regs, .rpr, .counts] : List Part), q ∈ ps0) :
    Only ps0 u0 (State.memoryRead s mid m o k ecc).2 ↔ Only ps0 u0 s := by
  refine Only.iff ?_ hps
  unfold State.memoryRead
  try dsimp only
  repeat' (first
    | simp (disch := decide) only [↓State.rowResult_only, ↓Only.refl_iff]
    | with_reducible refine Only.ite ?_ ?_
    | split
    | exact Only.refl _ _)

theorem State.captureWord_only {ps0 : List Part} {u0 : State} (s : State) (o : Nat) (ecc : EccResult)
    (hps : ∀ q ∈ ([.raised, .regs, .act, .counts] : List Part), q ∈ ps0) :
    Only ps0 u0 (State.captureWord s o ecc).2 ↔ Only ps0 u0 s := by
  refine Only.iff ?_ hps
  unfold State.captureWord
  try dsimp only
  repeat' (first
    | simp (disch := decide) only [↓State.capturePop_only, ↓Only.refl_iff]
    | with_reducible refine Only.ite ?_ ?_
    | split
    | with_reducible refine Only.snd ?_ (by assumption)
    | with_reducible refine Only.fst ?_ (by assumption)
    | exact Only.refl _ _)

theorem State.captureAt_only {ps0 : List Part} {u0 : State} (s : State) (ecc : EccResult) (a : Nat)
    (hps : ∀ q ∈ ([.raised, .regs, .act, .counts] : List Part), q ∈ ps0) :
    Only ps0 u0 (State.captureAt s ecc a).2 ↔ Only ps0 u0 s := by
  refine Only.iff ?_ hps
  unfold State.captureAt
  try dsimp only
  repeat' (first
    | simp (disch := decide) only [↓State.captureWord_only, ↓Only.refl_iff]
    | with_reducible refine Only.ite ?_ ?_
    | with_reducible refine Only.snd ?_ (by assumption)
    | with_reducible refine Only.fst ?_ (by assumption)
    | exact Only.refl _ _)

theorem State.readWords_via {ps : List Part} {u : State} (s : State) (word : State → Nat → Nat × State) (a k : Nat)
    (hf : ∀ t n, Only ps t (word t n).2) (h : Only ps u s) : Only ps u (s.readWords word a k).2 := by
  unfold State.readWords
  dsimp only
  refine Only.foldl_snd (fun r i => ?_) ?_
  · exact hf r.2 _
  · exact h

theorem State.actionRead_only {ps0 : List Part} {u0 : State} (s : State) (o k : Nat) (ecc : EccResult)
    (hps : ∀ q ∈ ([.raised, .regs, .act, .rpr, .counts] : List Part), q ∈ ps0) :
    Only ps0 u0 (State.actionRead s o k ecc).2 ↔ Only ps0 u0 s := by
  refine Only.iff ?_ hps
  unfold State.actionRead
  try dsimp only
  repeat' (first
    | simp (disch := decide) only [↓State.memoryRead_only, ↓State.captureAt_only, ↓Only.refl_iff]
    | with_reducible refine State.readWords_via _ _ _ _ (fun _ _ => ?_) ?_
    | with_reducible refine Only.ite ?_ ?_
    | split
    | with_reducible refine Only.snd ?_ (by assumption)
    | with_reducible refine Only.fst ?_ (by assumption)
    | exact Only.refl _ _)

theorem State.bufferRead_only {ps0 : List Part} {u0 : State} (s : State) (o k : Nat) (ecc : EccResult)
    (hps : ∀ q ∈ ([.raised, .regs, .counts] : List Part), q ∈ ps0) :
    Only ps0 u0 (State.bufferRead s o k ecc).2 ↔ Only ps0 u0 s := by
  refine Only.iff ?_ hps
  unfold State.bufferRead
  try dsimp only
  repeat' (first
    | simp (disch := decide) only [↓State.lineReport_only, ↓Only.refl_iff]
    | with_reducible refine Only.ite ?_ ?_
    | split
    | exact Only.refl _ _)

theorem State.localRead_only {ps0 : List Part} {u0 : State} (s : State) (src : Src) (a k : Nat) (ecc : EccResult)
    (hps : ∀ q ∈ ([.out, .raised, .now, .regs, .latches, .ldx, .ncpA, .ncpB, .uarts, .engines, .act, .cans, .brg, .rpr, .counts, .pendA, .pendB] : List Part), q ∈ ps0) :
    Only ps0 u0 (State.localRead s src a k ecc).2 ↔ Only ps0 u0 s := by
  refine Only.iff ?_ hps
  unfold State.localRead
  try dsimp only
  repeat' (first
    | simp (disch := decide) only [↓State.wordRead_only, ↓State.memoryRead_only, ↓State.actionRead_only, ↓State.bufferRead_only, ↓Only.refl_iff]
    | with_reducible refine State.readWords_via _ _ _ _ (fun _ _ => ?_) ?_
    | with_reducible refine Only.ite ?_ ?_
    | split
    | with_reducible refine Only.snd ?_ (by assumption)
    | with_reducible refine Only.fst ?_ (by assumption)
    | exact Only.refl _ _)

theorem State.registerBytes_only {ps0 : List Part} {u0 : State} (s : State) (src : Src) (o : Nat) (bytes : List (Option Byte))
    (hps : ∀ q ∈ ([.out, .raised, .now, .limits, .regs, .applied, .staged, .funcs, .key, .ldx, .queues, .hostq, .dma, .pcie, .flt, .ident, .time, .axes, .ncpA, .ncpB, .linkW, .linkE, .linkT, .fwd, .lines, .uarts, .encoders, .engines, .fronds, .act, .cans, .brg, .usb, .power, .rpr, .peat, .boot, .pair, .xact, .counts, .pba, .lanes, .pendA, .pendB, .urgent] : List Part), q ∈ ps0) :
    Only ps0 u0 (State.registerBytes s src o bytes).2 ↔ Only ps0 u0 s := by
  refine Only.iff ?_ hps
  unfold State.registerBytes
  try dsimp only
  repeat' (first
    | simp (disch := decide) only [↓regWrite_only, ↓Only.refl_iff]
    | with_reducible refine Only.foldl (fun _ _ => ?_) ?_
    | with_reducible refine Only.foldl_snd (fun _ _ => ?_) ?_
    | with_reducible refine Only.getD (fun _ _ => ?_) ?_
    | with_reducible refine Only.ite ?_ ?_
    | split
    | exact Only.refl _ _)

theorem State.actionWrite_only {ps0 : List Part} {u0 : State} (s : State) (runs : List (Nat × List Byte))
    (hps : ∀ q ∈ ([.raised, .regs, .act, .counts, .urgent] : List Part), q ∈ ps0) :
    Only ps0 u0 (State.actionWrite s runs).2 ↔ Only ps0 u0 s := by
  refine Only.iff ?_ hps
  unfold State.actionWrite
  try dsimp only
  repeat' (first
    | simp (disch := decide) only [↓actShadowWrite_only, ↓Only.refl_iff]
    | with_reducible refine Only.step (State.appendWrite_some _ _ (by assumption)) (by decide) ?_
    | with_reducible refine Only.foldl (fun _ _ => ?_) ?_
    | with_reducible refine Only.foldl_snd (fun _ _ => ?_) ?_
    | with_reducible refine Only.ite ?_ ?_
    | split
    | with_reducible refine Only.snd ?_ (by assumption)
    | with_reducible refine Only.fst ?_ (by assumption)
    | exact Only.refl _ _)

theorem State.localWrite_only {ps0 : List Part} {u0 : State} (s : State) (src : Src) (a : Nat) (bytes : List (Option Byte))
    (hps : ∀ q ∈ ([.out, .raised, .now, .limits, .regs, .applied, .staged, .funcs, .key, .ldx, .queues, .hostq, .dma, .pcie, .flt, .ident, .time, .axes, .ncpA, .ncpB, .linkW, .linkE, .linkT, .fwd, .shared, .lines, .uarts, .encoders, .engines, .fronds, .act, .cans, .brg, .usb, .power, .rpr, .peat, .boot, .pair, .image, .xact, .counts, .pba, .lanes, .pendA, .pendB, .urgent] : List Part), q ∈ ps0) :
    Only ps0 u0 (State.localWrite s src a bytes).2 ↔ Only ps0 u0 s := by
  refine Only.iff ?_ hps
  unfold State.localWrite
  try dsimp only
  repeat' (first
    | simp (disch := decide) only [↓State.registerBytes_only, ↓State.actionWrite_only, ↓brgShadowWrite_only, ↓Only.with_shared_image, ↓Only.refl_iff]
    | with_reducible refine Only.foldl (fun _ _ => ?_) ?_
    | with_reducible refine Only.foldl_snd (fun _ _ => ?_) ?_
    | with_reducible refine Only.ite ?_ ?_
    | split
    | with_reducible refine Only.snd ?_ (by assumption)
    | with_reducible refine Only.fst ?_ (by assumption)
    | exact Only.refl _ _)

theorem State.refuseAccess_only {ps0 : List Part} {u0 : State} (s : State) (who : Who) (write posted : Bool) (len dom addr status detail : Nat)
    (hps : ∀ q ∈ ([.out, .raised, .regs, .funcs, .dma, .ncpA, .ncpB, .usb, .counts, .pendA, .pendB, .urgent] : List Part), q ∈ ps0) :
    Only ps0 u0 (State.refuseAccess s who write posted len dom addr status detail) ↔ Only ps0 u0 s := by
  refine Only.iff ?_ hps
  unfold State.refuseAccess
  try dsimp only
  repeat' (first
    | simp (disch := decide) only [↓State.pelLog_only, ↓State.completeTo_only, ↓Only.refl_iff]
    | with_reducible refine Only.ite ?_ ?_
    | split
    | exact Only.refl _ _)

theorem State.issueAccess_only {ps0 : List Part} {u0 : State} (s : State) (who : Who) (r : Reach) (write posted : Bool) (addr len : Nat) (data : List Byte)
    (hps : ∀ q ∈ ([.out, .raised, .limits, .regs, .funcs, .dma, .ncpA, .ncpB, .fwd, .usb, .xact, .counts, .pendA, .pendB, .urgent] : List Part), q ∈ ps0) :
    Only ps0 u0 (State.issueAccess s who r write posted addr len data) ↔ Only ps0 u0 s := by
  refine Only.iff ?_ hps
  unfold State.issueAccess
  try dsimp only
  repeat' (first
    | simp (disch := decide) only [↓State.sendRequest_only, ↓Only.with_xact, ↓Only.refl_iff]
    | with_reducible refine Only.foldl (fun _ _ => ?_) ?_
    | with_reducible refine Only.foldl_snd (fun _ _ => ?_) ?_
    | with_reducible refine Only.getD (fun _ _ => ?_) ?_
    | with_reducible refine Only.ite ?_ ?_
    | split
    | exact Only.refl _ _)

theorem State.prefetchRead_only {ps0 : List Part} {u0 : State} (s : State) (who : Who) (r : Reach) (k addr len : Nat)
    (hps : ∀ q ∈ ([.out, .raised, .limits, .regs, .funcs, .dma, .ncpA, .ncpB, .fwd, .usb, .xact, .counts, .pendA, .pendB, .urgent] : List Part), q ∈ ps0) :
    Only ps0 u0 (State.prefetchRead s who r k addr len) ↔ Only ps0 u0 s := by
  refine Only.iff ?_ hps
  unfold State.prefetchRead
  try dsimp only
  repeat' (first
    | simp (disch := decide) only [↓State.discardWhere_only, ↓State.serveLine_only, ↓State.completeTo_only, ↓State.sendRequest_only, ↓Only.with_xact, ↓Only.refl_iff]
    | with_reducible refine Only.ite ?_ ?_
    | split
    | with_reducible refine Only.snd ?_ (by assumption)
    | with_reducible refine Only.fst ?_ (by assumption)
    | exact Only.refl _ _)

theorem State.localAccess_only {ps0 : List Part} {u0 : State} (s : State) (who : Who) (write posted : Bool) (addr len : Nat) (data : List Byte) (ecc : EccResult)
    (hps : ∀ q ∈ ([.out, .raised, .now, .limits, .regs, .applied, .staged, .latches, .funcs, .key, .ldx, .queues, .hostq, .dma, .pcie, .flt, .ident, .time, .axes, .ncpA, .ncpB, .linkW, .linkE, .linkT, .fwd, .shared, .lines, .uarts, .encoders, .engines, .fronds, .act, .cans, .brg, .usb, .power, .rpr, .peat, .boot, .pair, .image, .xact, .counts, .pba, .lanes, .pendA, .pendB, .urgent] : List Part), q ∈ ps0) :
    Only ps0 u0 (State.localAccess s who write posted addr len data ecc) ↔ Only ps0 u0 s := by
  refine Only.iff ?_ hps
  unfold State.localAccess
  try dsimp only
  repeat' (first
    | simp (disch := decide) only [↓State.localWrite_only, ↓State.completeTo_only, ↓State.localRead_only, ↓Only.refl_iff]
    | with_reducible refine Only.ite ?_ ?_
    | split
    | with_reducible refine Only.snd ?_ (by assumption)
    | with_reducible refine Only.fst ?_ (by assumption)
    | exact Only.refl _ _)

theorem State.aperture_only {ps0 : List Part} {u0 : State} (s : State) (who : Who) (a : Nat) (write : Bool) (len : Nat) (data : List Byte) (ecc : EccResult)
    (hps : ∀ q ∈ ([.out, .raised, .now, .limits, .regs, .applied, .staged, .latches, .funcs, .key, .ldx, .queues, .hostq, .dma, .pcie, .flt, .ident, .time, .axes, .ncpA, .ncpB, .linkW, .linkE, .linkT, .fwd, .shared, .lines, .uarts, .encoders, .engines, .fronds, .act, .cans, .brg, .usb, .power, .rpr, .peat, .boot, .pair, .image, .xact, .counts, .pba, .lanes, .pendA, .pendB, .urgent] : List Part), q ∈ ps0) :
    Only ps0 u0 (State.aperture s who a write len data ecc) ↔ Only ps0 u0 s := by
  refine Only.iff ?_ hps
  unfold State.aperture
  try dsimp only
  repeat' (first
    | simp (disch := decide) only [↓State.refuseAccess_only, ↓State.localAccess_only, ↓State.discardWhere_only, ↓State.issueAccess_only, ↓State.prefetchRead_only, ↓Only.refl_iff]
    | with_reducible refine Only.ite ?_ ?_
    | split
    | exact Only.refl _ _)

theorem apertureAccess_only {ps0 : List Part} {u0 : State} (i : Initiator) (a : BitVec 30) (write : Bool) (len : BitVec 13) (data : List Byte) (ecc : EccResult) (s : State)
    (hps : ∀ q ∈ ([.out, .raised, .now, .limits, .regs, .applied, .staged, .latches, .funcs, .key, .ldx, .queues, .hostq, .dma, .pcie, .flt, .ident, .time, .axes, .ncpA, .ncpB, .linkW, .linkE, .linkT, .fwd, .shared, .lines, .uarts, .encoders, .engines, .fronds, .act, .cans, .brg, .usb, .power, .rpr, .peat, .boot, .pair, .image, .xact, .counts, .pba, .lanes, .pendA, .pendB, .urgent] : List Part), q ∈ ps0) :
    Only ps0 u0 (apertureAccess i a write len data ecc s) ↔ Only ps0 u0 s := by
  refine Only.iff ?_ hps
  unfold apertureAccess
  try dsimp only
  repeat' (first
    | simp (disch := decide) only [↓State.aperture_only, ↓Only.refl_iff]
    | with_reducible refine Only.ite ?_ ?_
    | split
    | exact Only.refl _ _)

theorem State.answerRequest_only {ps0 : List Part} {u0 : State} (s : State) (d : Delivered) (status detail : Nat) (data : List Byte) (mask : Option Nat)
    (hps : ∀ q ∈ ([.raised, .regs, .fwd, .counts] : List Part), q ∈ ps0) :
    Only ps0 u0 (State.answerRequest s d status detail data mask) ↔ Only ps0 u0 s := by
  refine Only.iff ?_ hps
  unfold State.answerRequest
  try dsimp only
  repeat' (first
    | simp (disch := decide) only [↓State.respond_only, ↓Only.refl_iff]
    | with_reducible refine Only.ite ?_ ?_
    | split
    | exact Only.refl _ _)

theorem State.serveWrite_only {ps0 : List Part} {u0 : State} (s : State) (d : Delivered)
    (hps : ∀ q ∈ ([.out, .raised, .now, .limits, .regs, .applied, .staged, .funcs, .key, .ldx, .queues, .hostq, .dma, .pcie, .flt, .ident, .time, .axes, .ncpA, .ncpB, .linkW, .linkE, .linkT, .fwd, .shared, .lines, .uarts, .encoders, .engines, .fronds, .act, .cans, .brg, .usb, .power, .rpr, .peat, .boot, .pair, .image, .xact, .counts, .pba, .lanes, .pendA, .pendB, .urgent] : List Part), q ∈ ps0) :
    Only ps0 u0 (State.serveWrite s d) ↔ Only ps0 u0 s := by
  refine Only.iff ?_ hps
  unfold State.serveWrite
  try dsimp only
  repeat' (first
    | simp (disch := decide) only [↓State.answerRequest_only, ↓State.localWrite_only, ↓State.bump_only, ↓State.faultMs_low, ↓Only.refl_iff]
    | with_reducible refine Only.ite ?_ ?_
    | split
    | with_reducible refine Only.snd ?_ (by assumption)
    | with_reducible refine Only.fst ?_ (by assumption)
    | exact Only.refl _ _)

theorem State.serveRead_only {ps0 : List Part} {u0 : State} (s : State) (d : Delivered) (ecc : EccResult)
    (hps : ∀ q ∈ ([.out, .raised, .now, .regs, .staged, .latches, .ldx, .ncpA, .ncpB, .fwd, .uarts, .engines, .act, .cans, .brg, .rpr, .counts, .pendA, .pendB] : List Part), q ∈ ps0) :
    Only ps0 u0 (State.serveRead s d ecc) ↔ Only ps0 u0 s := by
  refine Only.iff ?_ hps
  unfold State.serveRead
  try dsimp only
  repeat' (first
    | simp (disch := decide) only [↓State.answerRequest_only, ↓State.localRead_only, ↓Only.refl_iff]
    | with_reducible refine Only.ite ?_ ?_
    | split
    | with_reducible refine Only.snd ?_ (by assumption)
    | with_reducible refine Only.fst ?_ (by assumption)
    | exact Only.refl _ _)

theorem xactPosted_only {ps0 : List Part} {u0 : State} (s : State)
    (hps : ∀ q ∈ ([.out, .raised, .now, .limits, .regs, .applied, .staged, .funcs, .key, .ldx, .queues, .hostq, .dma, .pcie, .flt, .ident, .time, .axes, .ncpA, .ncpB, .linkW, .linkE, .linkT, .fwd, .shared, .lines, .uarts, .encoders, .engines, .fronds, .act, .cans, .brg, .usb, .power, .rpr, .peat, .boot, .pair, .image, .xact, .counts, .pba, .lanes, .pendA, .pendB, .urgent] : List Part), q ∈ ps0) :
    Only ps0 u0 (xactPosted s) ↔ Only ps0 u0 s := by
  refine Only.iff ?_ hps
  unfold xactPosted
  try dsimp only
  repeat' (first
    | simp (disch := decide) only [↓State.serveWrite_only, ↓Only.refl_iff]
    | with_reducible refine Only.step (State.takeTurn_some (by assumption)) (by decide) ?_
    | with_reducible refine Only.ite ?_ ?_
    | split
    | with_reducible refine Only.snd ?_ (by assumption)
    | with_reducible refine Only.fst ?_ (by assumption)
    | exact Only.refl _ _)

theorem xactNonPosted_only {ps0 : List Part} {u0 : State} (s : State)
    (hps : ∀ q ∈ ([.out, .raised, .now, .limits, .regs, .applied, .staged, .funcs, .key, .ldx, .queues, .hostq, .dma, .pcie, .flt, .ident, .time, .axes, .ncpA, .ncpB, .linkW, .linkE, .linkT, .fwd, .shared, .lines, .uarts, .encoders, .engines, .fronds, .act, .cans, .brg, .usb, .power, .rpr, .peat, .boot, .pair, .image, .xact, .counts, .pba, .lanes, .pendA, .pendB, .urgent] : List Part), q ∈ ps0) :
    Only ps0 u0 (xactNonPosted s) ↔ Only ps0 u0 s := by
  refine Only.iff ?_ hps
  unfold xactNonPosted
  try dsimp only
  repeat' (first
    | simp (disch := decide) only [↓State.serveWrite_only, ↓Only.refl_iff]
    | with_reducible refine Only.step (State.takeTurn_some (by assumption)) (by decide) ?_
    | with_reducible refine Only.ite ?_ ?_
    | split
    | with_reducible refine Only.snd ?_ (by assumption)
    | with_reducible refine Only.fst ?_ (by assumption)
    | exact Only.refl _ _)

theorem xactRead_only {ps0 : List Part} {u0 : State} (ecc : EccResult) (s : State)
    (hps : ∀ q ∈ ([.out, .raised, .now, .regs, .staged, .latches, .ldx, .ncpA, .ncpB, .fwd, .uarts, .engines, .act, .cans, .brg, .rpr, .counts, .pendA, .pendB] : List Part), q ∈ ps0) :
    Only ps0 u0 (xactRead ecc s) ↔ Only ps0 u0 s := by
  refine Only.iff ?_ hps
  unfold xactRead
  try dsimp only
  repeat' (first
    | simp (disch := decide) only [↓State.serveRead_only, ↓Only.refl_iff]
    | with_reducible refine Only.step (State.takeTurn_some (by assumption)) (by decide) ?_
    | with_reducible refine Only.ite ?_ ?_
    | split
    | with_reducible refine Only.snd ?_ (by assumption)
    | with_reducible refine Only.fst ?_ (by assumption)
    | exact Only.refl _ _)

theorem bar0Access_only {ps0 : List Part} {u0 : State} (off : BitVec 24) (write : Bool) (data : List (Option Byte)) (s : State)
    (hps : ∀ q ∈ ([.out, .raised, .now, .limits, .regs, .applied, .staged, .latches, .funcs, .key, .ldx, .queues, .hostq, .dma, .pcie, .flt, .ident, .time, .axes, .ncpA, .ncpB, .linkW, .linkE, .linkT, .fwd, .shared, .lines, .uarts, .encoders, .engines, .fronds, .act, .cans, .brg, .usb, .power, .rpr, .peat, .boot, .pair, .image, .xact, .counts, .pba, .lanes, .pendA, .pendB, .urgent] : List Part), q ∈ ps0) :
    Only ps0 u0 (bar0Access off write data s) ↔ Only ps0 u0 s := by
  refine Only.iff ?_ hps
  unfold bar0Access
  try dsimp only
  repeat' (first
    | simp (disch := decide) only [↓State.localWrite_only, ↓State.localRead_only, ↓State.emit_only, ↓Only.refl_iff]
    | with_reducible refine Only.ite ?_ ?_
    | split
    | with_reducible refine Only.snd ?_ (by assumption)
    | with_reducible refine Only.fst ?_ (by assumption)
    | exact Only.refl _ _)

theorem bar4Access_only {ps0 : List Part} {u0 : State} (off : BitVec 23) (write : Bool) (len : BitVec 13) (data : List (Option Byte)) (ecc : EccResult) (s : State)
    (hps : ∀ q ∈ ([.out, .raised, .now, .limits, .regs, .applied, .staged, .latches, .funcs, .key, .ldx, .queues, .hostq, .dma, .pcie, .flt, .ident, .time, .axes, .ncpA, .ncpB, .linkW, .linkE, .linkT, .fwd, .shared, .lines, .uarts, .encoders, .engines, .fronds, .act, .cans, .brg, .usb, .power, .rpr, .peat, .boot, .pair, .image, .xact, .counts, .pba, .lanes, .pendA, .pendB, .urgent] : List Part), q ∈ ps0) :
    Only ps0 u0 (bar4Access off write len data ecc s) ↔ Only ps0 u0 s := by
  refine Only.iff ?_ hps
  unfold bar4Access
  try dsimp only
  repeat' (first
    | simp (disch := decide) only [↓State.emit_only, ↓State.localWrite_only, ↓State.localRead_only, ↓State.pcieComplete_only, ↓Only.refl_iff]
    | with_reducible refine Only.ite ?_ ?_
    | split
    | with_reducible refine Only.snd ?_ (by assumption)
    | with_reducible refine Only.fst ?_ (by assumption)
    | exact Only.refl _ _)

end Sys2Proof.Machine
end

