-- ==== Sys2Proof/Laws/TouchBoot.lean ====
section
/-! SUPPORT. What each operation of boot, reset and HRK32 can touch: one lemma for each, in the form in which later
proofs cite it. -/

namespace Sys2Proof.Machine

theorem State.bootDomains_only {ps0 : List Part} {u0 : State} (s : State) (v : Word)
    (hps : ∀ q ∈ ([.out, .raised, .regs, .power, .boot, .counts] : List Part), q ∈ ps0) :
    Only ps0 u0 (State.bootDomains s v) ↔ Only ps0 u0 s := by
  refine Only.iff ?_ hps
  unfold State.bootDomains
  try dsimp only
  repeat' (first
    | simp (disch := decide) only [↓domainRequest_only, ↓Only.with_boot, ↓Only.refl_iff]
    | with_reducible refine Only.ite ?_ ?_
    | split
    | exact Only.refl _ _)

theorem State.bootWrite_only {ps0 : List Part} {u0 : State} (s : State) (off : Nat) (v : Word)
    (hps : ∀ q ∈ ([.out, .raised, .now, .limits, .regs, .applied, .staged, .funcs, .key, .ldx, .queues, .hostq, .dma, .pcie, .flt, .ident, .time, .axes, .ncpA, .ncpB, .linkW, .linkE, .linkT, .fwd, .lines, .uarts, .encoders, .engines, .fronds, .act, .cans, .brg, .usb, .power, .rpr, .peat, .boot, .pair, .xact, .counts, .pba, .lanes, .pendA, .pendB, .urgent] : List Part), q ∈ ps0) :
    Only ps0 u0 (State.bootWrite s off v) ↔ Only ps0 u0 s := by
  refine Only.iff ?_ hps
  unfold State.bootWrite
  try dsimp only
  repeat' (first
    | simp (disch := decide) only [↓State.ignored_only, ↓State.commandWrite_only, ↓State.rwWrite_only, ↓State.rwpWrite_only, ↓ldxDataWrite_only, ↓State.bootDomains_only, ↓State.rwkWrite_only, ↓State.put_only, ↓State.setFunc_only, ↓Only.refl_iff]
    | with_reducible refine Only.ite ?_ ?_
    | split
    | exact Only.refl _ _)

theorem State.bootLd_only {ps0 : List Part} {u0 : State} (s : State) (off : Nat) (v : Word)
    (hps : ∀ q ∈ ([.raised, .regs, .counts] : List Part), q ∈ ps0) :
    Only ps0 u0 (State.bootLd s off v) ↔ Only ps0 u0 s := by
  refine Only.iff ?_ hps
  unfold State.bootLd
  try dsimp only
  repeat' (first
    | simp (disch := decide) only [↓State.ignored_only, ↓State.setReg_only, ↓Only.refl_iff]
    | with_reducible refine Only.ite ?_ ?_
    | split
    | exact Only.refl _ _)

theorem State.bootLdRecord_only {ps0 : List Part} {u0 : State} (s : State) (d word : Nat) (v : Word)
    (hps : ∀ q ∈ ([.raised, .regs, .linkW, .linkE, .linkT, .boot, .counts] : List Part), q ∈ ps0) :
    Only ps0 u0 (State.bootLdRecord s d word v) ↔ Only ps0 u0 s := by
  refine Only.iff ?_ hps
  unfold State.bootLdRecord
  try dsimp only
  repeat' (first
    | simp (disch := decide) only [↓State.bootLd_only, ↓Only.with_boot, ↓Only.refl_iff]
    | with_reducible refine Only.ite ?_ ?_
    | split
    | exact Only.refl _ _)

theorem dieLinkUp_only {ps0 : List Part} {u0 : State} (die : Die) (s : State)
    (hps : ∀ q ∈ ([.out, .raised, .regs, .power, .dieA, .dieB, .boot, .counts] : List Part), q ∈ ps0) :
    Only ps0 u0 (dieLinkUp die s) ↔ Only ps0 u0 s := by
  refine Only.iff ?_ hps
  unfold dieLinkUp
  try dsimp only
  repeat' (first
    | simp (disch := decide) only [↓dieUpAgain_only, ↓State.bootLd_only, ↓Only.with_boot, ↓Only.refl_iff]
    | with_reducible refine Only.foldl (fun _ _ => ?_) ?_
    | with_reducible refine Only.foldl_snd (fun _ _ => ?_) ?_
    | with_reducible refine Only.ite ?_ ?_
    | exact Only.refl _ _)

theorem State.bootLoad_only {ps0 : List Part} {u0 : State} (s : State) (a : Nat) (d : List Byte)
    (hps : ∀ q ∈ ([.raised, .ncpA, .ncpB, .shared, .act, .brg, .pendA, .pendB] : List Part), q ∈ ps0) :
    Only ps0 u0 (State.bootLoad s a d) ↔ Only ps0 u0 s := by
  refine Only.iff ?_ hps
  unfold State.bootLoad
  try dsimp only
  repeat' (first
    | simp (disch := decide) only [↓actShadowWrite_only, ↓brgShadowWrite_only, ↓Only.with_ncpA_ncpB_shared, ↓Only.refl_iff]
    | with_reducible refine Only.ite ?_ ?_
    | split
    | exact Only.refl _ _)

theorem State.applyRec_only {ps0 : List Part} {u0 : State} (s : State) (a1 : ImgRec)
    (hps : ∀ q ∈ ([.out, .raised, .now, .limits, .regs, .applied, .staged, .funcs, .key, .ldx, .queues, .hostq, .dma, .pcie, .flt, .ident, .time, .axes, .ncpA, .ncpB, .linkW, .linkE, .linkT, .fwd, .shared, .lines, .uarts, .encoders, .engines, .fronds, .act, .cans, .brg, .usb, .power, .rpr, .peat, .boot, .pair, .xact, .counts, .pba, .lanes, .pendA, .pendB, .urgent] : List Part), q ∈ ps0) :
    Only ps0 u0 (State.applyRec s a1) ↔ Only ps0 u0 s := by
  refine Only.iff ?_ hps
  unfold State.applyRec
  try dsimp only
  repeat' (first
    | simp (disch := decide) only [↓State.bootWrite_only, ↓State.bootLdRecord_only, ↓State.bootLoad_only, ↓Only.refl_iff]
    | with_reducible refine Only.ite ?_ ?_
    | split
    | exact Only.refl _ _)

theorem State.applyOverlay_only {ps0 : List Part} {u0 : State} (s : State)
    (hps : ∀ q ∈ ([.out, .raised, .now, .limits, .regs, .applied, .staged, .funcs, .key, .ldx, .queues, .hostq, .dma, .pcie, .flt, .ident, .time, .axes, .ncpA, .ncpB, .linkW, .linkE, .linkT, .fwd, .shared, .lines, .uarts, .encoders, .engines, .fronds, .act, .cans, .brg, .usb, .power, .rpr, .peat, .boot, .pair, .xact, .counts, .pba, .lanes, .pendA, .pendB, .urgent] : List Part), q ∈ ps0) :
    Only ps0 u0 (State.applyOverlay s) ↔ Only ps0 u0 s := by
  refine Only.iff ?_ hps
  unfold State.applyOverlay
  try dsimp only
  repeat' (first
    | simp (disch := decide) only [↓State.applyRec_only, ↓Only.with_peat_boot, ↓Only.refl_iff]
    | with_reducible refine Only.foldl (fun _ _ => ?_) ?_
    | with_reducible refine Only.foldl_snd (fun _ _ => ?_) ?_
    | with_reducible refine Only.ite ?_ ?_
    | split
    | exact Only.refl _ _)

theorem State.dropIdlePort_only {ps0 : List Part} {u0 : State} (s : State) (l : Link)
    (hps : ∀ q ∈ ([.raised, .limits, .regs, .time, .linkW, .linkE, .linkT, .fwd, .counts] : List Part), q ∈ ps0) :
    Only ps0 u0 (State.dropIdlePort s l) ↔ Only ps0 u0 s := by
  refine Only.iff ?_ hps
  unfold State.dropIdlePort
  try dsimp only
  repeat' (first
    | simp (disch := decide) only [↓State.linkDown_only, ↓State.portStopped_only, ↓Only.refl_iff]
    | with_reducible refine Only.ite ?_ ?_
    | split
    | exact Only.refl _ _)

theorem State.issueStarts_only {ps0 : List Part} {u0 : State} (s : State)
    (hps : ∀ q ∈ ([.out, .raised, .now, .limits, .regs, .applied, .funcs, .queues, .dma, .flt, .ident, .time, .axes, .ncpA, .ncpB, .linkW, .linkE, .linkT, .fwd, .lines, .uarts, .encoders, .engines, .fronds, .act, .cans, .brg, .usb, .power, .boot, .pair, .xact, .counts, .lanes, .pendA, .pendB, .urgent] : List Part), q ∈ ps0) :
    Only ps0 u0 (State.issueStarts s) ↔ Only ps0 u0 s := by
  refine Only.iff ?_ hps
  unfold State.issueStarts
  try dsimp only
  repeat' (first
    | simp (disch := decide) only [↓State.funcCommand_only, ↓State.dropIdlePort_only, ↓Only.with_boot, ↓Only.refl_iff]
    | with_reducible refine Only.foldl (fun _ _ => ?_) ?_
    | with_reducible refine Only.foldl_snd (fun _ _ => ?_) ?_
    | with_reducible refine Only.ite ?_ ?_
    | exact Only.refl _ _)

theorem State.leaveRom_only {ps0 : List Part} {u0 : State} (start : Bool) (s : State)
    (hps : ∀ q ∈ ([.out, .raised, .now, .limits, .regs, .applied, .funcs, .queues, .dma, .flt, .ident, .time, .axes, .ncpA, .ncpB, .linkW, .linkE, .linkT, .fwd, .lines, .uarts, .encoders, .engines, .fronds, .act, .cans, .brg, .usb, .power, .pair, .xact, .counts, .lanes, .pendA, .pendB, .urgent] : List Part), q ∈ ps0) :
    Only ps0 u0 (State.leaveRom start s) ↔ Only ps0 u0 s := by
  refine Only.iff ?_ hps
  unfold State.leaveRom
  try dsimp only
  repeat' (first
    | simp (disch := decide) only [↓State.funcCommand_only, ↓Only.with_ncpB, ↓Only.refl_iff]
    | with_reducible refine Only.ite ?_ ?_
    | split
    | exact Only.refl _ _)

theorem State.pairBOff_only {ps0 : List Part} {u0 : State} (s : State)
    (hps : ∀ q ∈ ([.out, .raised, .regs, .power, .counts] : List Part), q ∈ ps0) :
    Only ps0 u0 (State.pairBOff s) ↔ Only ps0 u0 s := by
  refine Only.iff ?_ hps
  unfold State.pairBOff
  try dsimp only
  repeat' (first
    | simp (disch := decide) only [↓domainRequest_only, ↓Only.refl_iff]
    | with_reducible refine Only.ite ?_ ?_
    | split
    | exact Only.refl _ _)

theorem State.issueList_only {ps0 : List Part} {u0 : State} (s : State)
    (hps : ∀ q ∈ ([.out, .raised, .now, .limits, .regs, .applied, .funcs, .queues, .dma, .flt, .ident, .time, .axes, .ncpA, .ncpB, .linkW, .linkE, .linkT, .fwd, .lines, .uarts, .encoders, .engines, .fronds, .act, .cans, .brg, .usb, .power, .boot, .pair, .xact, .counts, .lanes, .pendA, .pendB, .urgent] : List Part), q ∈ ps0) :
    Only ps0 u0 (State.issueList s) ↔ Only ps0 u0 s := by
  refine Only.iff ?_ hps
  unfold State.issueList
  try dsimp only
  repeat' (first
    | simp (disch := decide) only [↓State.leaveRom_only, ↓State.issueStarts_only, ↓State.pairBOff_only, ↓Only.with_boot, ↓Only.refl_iff]
    | with_reducible refine Only.ite ?_ ?_
    | exact Only.refl _ _)

theorem State.listWatch_only {ps0 : List Part} {u0 : State} (s : State)
    (hps : ∀ q ∈ ([.out, .raised, .now, .limits, .regs, .applied, .funcs, .queues, .dma, .flt, .ident, .time, .axes, .ncpA, .ncpB, .linkW, .linkE, .linkT, .fwd, .lines, .uarts, .encoders, .engines, .fronds, .act, .cans, .brg, .usb, .power, .boot, .pair, .xact, .counts, .lanes, .pendA, .pendB, .urgent] : List Part), q ∈ ps0) :
    Only ps0 u0 (State.listWatch s) ↔ Only ps0 u0 s := by
  refine Only.iff ?_ hps
  unfold State.listWatch
  try dsimp only
  repeat' (first
    | simp (disch := decide) only [↓State.issueList_only, ↓Only.refl_iff]
    | with_reducible refine Only.ite ?_ ?_
    | split
    | exact Only.refl _ _)

theorem State.forceStop_only {ps0 : List Part} {u0 : State} (s : State) (id : Nat)
    (hps : ∀ q ∈ ([.out, .raised, .now, .limits, .regs, .funcs, .dma, .pcie, .time, .axes, .ncpA, .ncpB, .linkW, .linkE, .linkT, .fwd, .lines, .uarts, .engines, .act, .cans, .brg, .usb, .power, .xact, .counts, .pba, .pendA, .pendB, .urgent] : List Part), q ∈ ps0) :
    Only ps0 u0 (State.forceStop s id) ↔ Only ps0 u0 s := by
  refine Only.iff ?_ hps
  unfold State.forceStop
  try dsimp only
  repeat' (first
    | simp (disch := decide) only [↓State.stopOne_only, ↓State.setFunc_only, ↓State.onStopped_only, ↓Only.refl_iff]
    | with_reducible refine Only.ite ?_ ?_
    | split
    | exact Only.refl _ _)

theorem State.applyImage_only {ps0 : List Part} {u0 : State} (s : State) (b : List Byte) (slot : Nat)
    (hps : ∀ q ∈ ([.out, .raised, .now, .limits, .regs, .applied, .staged, .funcs, .key, .ldx, .queues, .hostq, .dma, .pcie, .flt, .ident, .time, .axes, .ncpA, .ncpB, .linkW, .linkE, .linkT, .fwd, .shared, .lines, .uarts, .encoders, .engines, .fronds, .act, .cans, .brg, .usb, .power, .rpr, .peat, .boot, .pair, .xact, .counts, .pba, .lanes, .pendA, .pendB, .urgent] : List Part), q ∈ ps0) :
    Only ps0 u0 (State.applyImage s b slot) ↔ Only ps0 u0 s := by
  refine Only.iff ?_ hps
  unfold State.applyImage
  try dsimp only
  repeat' (first
    | simp (disch := decide) only [↓State.forceStop_only, ↓State.applyRec_only, ↓State.setFunc_only, ↓linkRetrain_only, ↓State.listWatch_only, ↓Only.with_ident_peat_boot, ↓Only.refl_iff]
    | with_reducible refine Only.foldl (fun _ _ => ?_) ?_
    | with_reducible refine Only.foldl_snd (fun _ _ => ?_) ?_
    | with_reducible refine Only.getD (fun _ _ => ?_) ?_
    | with_reducible refine Only.ite ?_ ?_
    | split
    | exact Only.refl _ _)

theorem State.toBare_only {ps0 : List Part} {u0 : State} (s : State)
    (hps : ∀ q ∈ ([.out, .raised, .now, .limits, .regs, .applied, .funcs, .queues, .dma, .flt, .ident, .time, .axes, .ncpA, .ncpB, .linkW, .linkE, .linkT, .fwd, .lines, .uarts, .encoders, .engines, .fronds, .act, .cans, .brg, .usb, .power, .boot, .pair, .xact, .counts, .lanes, .pendA, .pendB, .urgent] : List Part), q ∈ ps0) :
    Only ps0 u0 (State.toBare s) ↔ Only ps0 u0 s := by
  refine Only.iff ?_ hps
  unfold State.toBare
  try dsimp only
  repeat' (first
    | simp (disch := decide) only [↓domainRequest_only, ↓State.funcCommand_only, ↓Only.with_ident_boot, ↓Only.refl_iff]
    | with_reducible refine Only.foldl (fun _ _ => ?_) ?_
    | with_reducible refine Only.foldl_snd (fun _ _ => ?_) ?_
    | with_reducible refine Only.ite ?_ ?_
    | split
    | exact Only.refl _ _)

theorem State.tryCandidates_only {ps0 : List Part} {u0 : State} (s : State) (l : List Bool)
    (hps : ∀ q ∈ ([.out, .raised, .now, .limits, .regs, .applied, .staged, .funcs, .key, .ldx, .queues, .hostq, .dma, .pcie, .flt, .ident, .time, .axes, .ncpA, .ncpB, .linkW, .linkE, .linkT, .fwd, .shared, .lines, .uarts, .encoders, .engines, .fronds, .act, .cans, .brg, .usb, .power, .rpr, .peat, .boot, .pair, .xact, .counts, .pba, .lanes, .pendA, .pendB, .urgent] : List Part), q ∈ ps0) : Only ps0 u0 (s.tryCandidates l).2 ↔ Only ps0 u0 s := by
  refine Only.iff ?_ hps
  clear hps
  induction l generalizing s with
  | nil => unfold State.tryCandidates; exact Only.refl _ _
  | cons c cs ih =>
    unfold State.tryCandidates
    dsimp only
    split
    all_goals try dsimp only
    · refine (State.applyImage_only _ _ _ (by decide)).2 (Only.ite ?_ ?_) <;>
        simp (disch := decide) only [↓State.setSlot_only, ↓Only.with_peat, ↓Only.refl_iff]
    · refine Only.trans ?_ (ih _)
      simp (disch := decide) only [↓State.setSlot_only, ↓Only.with_peat, ↓Only.refl_iff]

theorem State.selectImage_only {ps0 : List Part} {u0 : State} (s : State)
    (hps : ∀ q ∈ ([.out, .raised, .now, .limits, .regs, .applied, .staged, .funcs, .key, .ldx, .queues, .hostq, .dma, .pcie, .flt, .ident, .time, .axes, .ncpA, .ncpB, .linkW, .linkE, .linkT, .fwd, .shared, .lines, .uarts, .encoders, .engines, .fronds, .act, .cans, .brg, .usb, .power, .rpr, .peat, .boot, .pair, .xact, .counts, .pba, .lanes, .pendA, .pendB, .urgent] : List Part), q ∈ ps0) :
    Only ps0 u0 (State.selectImage s).2 ↔ Only ps0 u0 s := by
  refine Only.iff ?_ hps
  unfold State.selectImage
  try dsimp only
  repeat' (first
    | simp (disch := decide) only [↓State.setSlot_only, ↓State.tryCandidates_only, ↓Only.with_boot, ↓Only.refl_iff]
    | with_reducible refine Only.foldl (fun _ _ => ?_) ?_
    | with_reducible refine Only.foldl_snd (fun _ _ => ?_) ?_
    | with_reducible refine Only.ite ?_ ?_
    | split
    | with_reducible refine Only.snd ?_ (by assumption)
    | with_reducible refine Only.fst ?_ (by assumption)
    | exact Only.refl _ _)

theorem bootImage_only {ps0 : List Part} {u0 : State} (s : State)
    (hps : ∀ q ∈ ([.out, .raised, .now, .limits, .regs, .applied, .staged, .funcs, .key, .ldx, .queues, .hostq, .dma, .pcie, .flt, .ident, .time, .axes, .ncpA, .ncpB, .linkW, .linkE, .linkT, .fwd, .shared, .lines, .uarts, .encoders, .engines, .fronds, .act, .cans, .brg, .usb, .power, .rpr, .peat, .boot, .pair, .xact, .counts, .pba, .lanes, .pendA, .pendB, .urgent] : List Part), q ∈ ps0) :
    Only ps0 u0 (bootImage s) ↔ Only ps0 u0 s := by
  refine Only.iff ?_ hps
  unfold bootImage
  try dsimp only
  repeat' (first
    | simp (disch := decide) only [↓State.toBare_only, ↓State.applyOverlay_only, ↓State.selectImage_only, ↓Only.with_boot, ↓Only.refl_iff]
    | with_reducible refine Only.ite ?_ ?_
    | split
    | with_reducible refine Only.snd ?_ (by assumption)
    | with_reducible refine Only.fst ?_ (by assumption)
    | exact Only.refl _ _)

theorem State.reloadAll_only {ps0 : List Part} {u0 : State} (s : State)
    (hps : ∀ q ∈ ([.out, .raised, .now, .limits, .regs, .applied, .staged, .funcs, .key, .ldx, .queues, .hostq, .dma, .pcie, .flt, .ident, .time, .axes, .ncpA, .ncpB, .linkW, .linkE, .linkT, .fwd, .shared, .lines, .uarts, .encoders, .engines, .fronds, .act, .cans, .brg, .usb, .power, .rpr, .peat, .boot, .pair, .xact, .counts, .pba, .lanes, .pendA, .pendB, .urgent] : List Part), q ∈ ps0) :
    Only ps0 u0 (State.reloadAll s) ↔ Only ps0 u0 s := by
  refine Only.iff ?_ hps
  unfold State.reloadAll
  try dsimp only
  repeat' (first
    | simp (disch := decide) only [↓State.forceStop_only, ↓State.setFunc_only, ↓State.aliveCheck_only, ↓State.selectImage_only, ↓State.applyImage_only, ↓State.toBare_only, ↓Only.with_ncpB_boot, ↓Only.refl_iff]
    | with_reducible refine Only.foldl (fun _ _ => ?_) ?_
    | with_reducible refine Only.foldl_snd (fun _ _ => ?_) ?_
    | with_reducible refine Only.ite ?_ ?_
    | split
    | with_reducible refine Only.snd ?_ (by assumption)
    | with_reducible refine Only.fst ?_ (by assumption)
    | exact Only.refl _ _)

theorem State.applyStage_only {ps0 : List Part} {u0 : State} (s : State)
    (hps : ∀ q ∈ ([.out, .raised, .now, .limits, .regs, .applied, .staged, .funcs, .key, .ldx, .queues, .hostq, .dma, .pcie, .flt, .ident, .time, .axes, .ncpA, .ncpB, .linkW, .linkE, .linkT, .fwd, .shared, .lines, .uarts, .encoders, .engines, .fronds, .act, .cans, .brg, .usb, .power, .rpr, .peat, .boot, .pair, .xact, .counts, .pba, .lanes, .pendA, .pendB, .urgent] : List Part), q ∈ ps0) :
    Only ps0 u0 (State.applyStage s).2 ↔ Only ps0 u0 s := by
  refine Only.iff ?_ hps
  unfold State.applyStage
  try dsimp only
  repeat' (first
    | simp (disch := decide) only [↓State.applyImage_only, ↓Only.refl_iff]
    | with_reducible refine Only.ite ?_ ?_
    | split
    | exact Only.refl _ _)

theorem State.reload_only {ps0 : List Part} {u0 : State} (s : State) (c : Bool) (fid : Nat)
    (hps : ∀ q ∈ ([.out, .raised, .now, .limits, .regs, .applied, .staged, .funcs, .key, .ldx, .queues, .hostq, .dma, .pcie, .flt, .ident, .time, .axes, .ncpA, .ncpB, .linkW, .linkE, .linkT, .fwd, .shared, .lines, .uarts, .encoders, .engines, .fronds, .act, .cans, .brg, .usb, .power, .rpr, .peat, .boot, .pair, .xact, .counts, .pba, .lanes, .pendA, .pendB, .urgent] : List Part), q ∈ ps0) :
    Only ps0 u0 (State.reload s c fid).2 ↔ Only ps0 u0 s := by
  refine Only.iff ?_ hps
  unfold State.reload
  try dsimp only
  repeat' (first
    | simp (disch := decide) only [↓State.applyRec_only, ↓Only.with_peat, ↓Only.refl_iff]
    | with_reducible refine Only.foldl (fun _ _ => ?_) ?_
    | with_reducible refine Only.foldl_snd (fun _ _ => ?_) ?_
    | with_reducible refine Only.ite ?_ ?_
    | split
    | exact Only.refl _ _)

theorem State.peatProgram_only {ps0 : List Part} {u0 : State} (s : State) (c : Bool) (units : Nat) (failed : Bool)
    (hps : ∀ q ∈ ([.peat] : List Part), q ∈ ps0) :
    Only ps0 u0 (State.peatProgram s c units failed).2 ↔ Only ps0 u0 s := by
  refine Only.iff ?_ hps
  unfold State.peatProgram
  try dsimp only
  repeat' (first
    | simp (disch := decide) only [↓State.setSlot_only, ↓Only.refl_iff]
    | with_reducible refine Only.ite ?_ ?_
    | split
    | exact Only.refl _ _)

theorem State.peatVerify_only {ps0 : List Part} {u0 : State} (s : State) (c : Bool)
    (hps : ∀ q ∈ ([.peat] : List Part), q ∈ ps0) :
    Only ps0 u0 (State.peatVerify s c).2 ↔ Only ps0 u0 s := by
  refine Only.iff ?_ hps
  unfold State.peatVerify
  try dsimp only
  repeat' (first
    | simp (disch := decide) only [↓State.setSlot_only, ↓Only.refl_iff]
    | with_reducible refine Only.ite ?_ ?_
    | split
    | exact Only.refl _ _)

theorem State.ovlWrite_only {ps0 : List Part} {u0 : State} (s : State) (failed : Bool)
    (hps : ∀ q ∈ ([.raised, .regs, .staged, .rpr, .peat, .counts] : List Part), q ∈ ps0) :
    Only ps0 u0 (State.ovlWrite s failed).2 ↔ Only ps0 u0 s := by
  refine Only.iff ?_ hps
  unfold State.ovlWrite
  try dsimp only
  repeat' (first
    | simp (disch := decide) only [↓State.countBoth_only, ↓Only.with_peat, ↓Only.refl_iff]
    | with_reducible refine Only.ite ?_ ?_
    | split
    | exact Only.refl _ _)

theorem State.ovlErase_only {ps0 : List Part} {u0 : State} (s : State) (failed : Bool)
    (hps : ∀ q ∈ ([.raised, .rpr, .peat] : List Part), q ∈ ps0) :
    Only ps0 u0 (State.ovlErase s failed).2 ↔ Only ps0 u0 s := by
  refine Only.iff ?_ hps
  unfold State.ovlErase
  try dsimp only
  repeat' (first
    | simp (disch := decide) only [↓State.countBoth_only, ↓Only.with_peat, ↓Only.refl_iff]
    | with_reducible refine Only.ite ?_ ?_
    | split
    | exact Only.refl _ _)

theorem State.peatRun_only {ps0 : List Part} {u0 : State} (s : State) (j : PeatJob) (bad : Bool)
    (hps : ∀ q ∈ ([.out, .raised, .now, .limits, .regs, .applied, .staged, .funcs, .key, .ldx, .queues, .hostq, .dma, .pcie, .flt, .ident, .time, .axes, .ncpA, .ncpB, .linkW, .linkE, .linkT, .fwd, .shared, .lines, .uarts, .encoders, .engines, .fronds, .act, .cans, .brg, .usb, .power, .rpr, .peat, .boot, .pair, .xact, .counts, .pba, .lanes, .pendA, .pendB, .urgent] : List Part), q ∈ ps0) :
    Only ps0 u0 (State.peatRun s j bad).2 ↔ Only ps0 u0 s := by
  refine Only.iff ?_ hps
  unfold State.peatRun
  try dsimp only
  repeat' (first
    | simp (disch := decide) only [↓State.peatErase_only, ↓State.peatProgram_only, ↓State.peatVerify_only, ↓State.peatArm_only, ↓State.peatConfirm_only, ↓State.applyStage_only, ↓State.reload_only, ↓State.ovlWrite_only, ↓State.ovlErase_only, ↓State.nodeAssign_only, ↓State.keyProg_only, ↓State.keyRevoke_only, ↓State.svnAdvance_only, ↓State.endSector_only, ↓State.writeMap_only, ↓Only.refl_iff]
    | with_reducible refine Only.ite ?_ ?_
    | split
    | with_reducible refine Only.snd ?_ (by assumption)
    | with_reducible refine Only.fst ?_ (by assumption)
    | exact Only.refl _ _)

theorem State.markSector_only {ps0 : List Part} {u0 : State} (s : State) (failed : Option (Die × BitVec 5))
    (hps : ∀ q ∈ ([.rpr] : List Part), q ∈ ps0) :
    Only ps0 u0 (State.markSector s failed) ↔ Only ps0 u0 s := by
  refine Only.iff ?_ hps
  unfold State.markSector
  try dsimp only
  repeat' (first
    | simp (disch := decide) only [↓State.markRow_only, ↓Only.refl_iff]
    | with_reducible refine Only.ite ?_ ?_
    | split
    | exact Only.refl _ _)

theorem peatDone_only {ps0 : List Part} {u0 : State} (failed : Option (Die × BitVec 5)) (s : State)
    (hps : ∀ q ∈ ([.out, .raised, .now, .limits, .regs, .applied, .staged, .funcs, .key, .ldx, .queues, .hostq, .dma, .pcie, .flt, .ident, .time, .axes, .ncpA, .ncpB, .linkW, .linkE, .linkT, .fwd, .shared, .lines, .uarts, .encoders, .engines, .fronds, .act, .cans, .brg, .usb, .power, .rpr, .peat, .boot, .pair, .xact, .counts, .pba, .lanes, .pendA, .pendB, .urgent] : List Part), q ∈ ps0) :
    Only ps0 u0 (peatDone failed s) ↔ Only ps0 u0 s := by
  refine Only.iff ?_ hps
  unfold peatDone
  try dsimp only
  repeat' (first
    | simp (disch := decide) only [↓State.peatRun_only, ↓State.markSector_only, ↓State.peatEnd_only, ↓Only.refl_iff]
    | with_reducible refine Only.ite ?_ ?_
    | split
    | with_reducible refine Only.snd ?_ (by assumption)
    | with_reducible refine Only.fst ?_ (by assumption)
    | exact Only.refl _ _)

theorem peatLost_only {ps0 : List Part} {u0 : State} (s : State)
    (hps : ∀ q ∈ ([.raised, .regs, .peat, .counts] : List Part), q ∈ ps0) :
    Only ps0 u0 (peatLost s) ↔ Only ps0 u0 s := by
  refine Only.iff ?_ hps
  unfold peatLost
  try dsimp only
  repeat' (first
    | simp (disch := decide) only [↓State.setSlot_only, ↓State.fault_low, ↓State.peatEnd_only, ↓Only.refl_iff]
    | with_reducible refine Only.ite ?_ ?_
    | split
    | exact Only.refl _ _)

theorem peatCommand_only {ps0 : List Part} {u0 : State} (op : Nat) (src : Src) (s : State)
    (hps : ∀ q ∈ ([.raised, .regs, .key, .peat, .counts] : List Part), q ∈ ps0) :
    Only ps0 u0 (peatCommand op src s) ↔ Only ps0 u0 s := by
  refine Only.iff ?_ hps
  unfold peatCommand
  try dsimp only
  repeat' (first
    | simp (disch := decide) only [↓State.peatCmd_only, ↓Only.refl_iff]
    | with_reducible refine Only.ite ?_ ?_
    | exact Only.refl _ _)

theorem State.modelOf_only {ps0 : List Part} {u0 : State} (s : State)
    (hps : ∀ q ∈ ([.raised, .limits, .regs, .applied, .staged, .latches, .funcs, .key, .ldx, .queues, .hostq, .dma, .pcie, .flt, .ident, .time, .axes, .ncpA, .ncpB, .linkW, .linkE, .linkT, .fwd, .shared, .lines, .uarts, .encoders, .engines, .fronds, .act, .cans, .canPll, .brg, .usb, .power, .dieA, .dieB, .rpr, .peat, .boot, .pair, .image, .xact, .counts, .pba, .lanes, .pendA, .pendB, .urgent] : List Part), q ∈ ps0) : Only ps0 u0 s.modelOf ↔ Only ps0 u0 s := by
  refine Only.iff ?_ hps
  intro q hq; cases q <;> first | rfl | exact absurd (by decide) hq

theorem State.freshHub_only {ps0 : List Part} {u0 : State} (cause : BitVec 5) (s : State)
    (hps : ∀ q ∈ ([.raised, .limits, .regs, .applied, .staged, .latches, .funcs, .key, .ldx, .queues, .hostq, .dma, .pcie, .flt, .ident, .time, .axes, .ncpA, .ncpB, .linkW, .linkE, .linkT, .fwd, .shared, .lines, .uarts, .encoders, .engines, .fronds, .act, .cans, .canPll, .brg, .usb, .power, .dieA, .dieB, .rpr, .peat, .boot, .pair, .image, .xact, .counts, .pba, .lanes, .pendA, .pendB, .urgent] : List Part), q ∈ ps0) :
    Only ps0 u0 (State.freshHub cause s) ↔ Only ps0 u0 s := by
  refine Only.iff ?_ hps
  unfold State.freshHub
  try dsimp only
  repeat' (first
    | simp (disch := decide) only [↓State.modelOf_only, ↓Only.with_ident_boot, ↓Only.refl_iff]
    | with_reducible refine Only.ite ?_ ?_
    | exact Only.refl _ _)

theorem State.keepEpoch_only {ps0 : List Part} {u0 : State} (old : State) (s : State)
    (hps : ∀ q ∈ ([.fwd] : List Part), q ∈ ps0) :
    Only ps0 u0 (State.keepEpoch old s) ↔ Only ps0 u0 s := by
  refine Only.iff ?_ hps
  unfold State.keepEpoch
  try dsimp only
  repeat' (first
    | simp (disch := decide) only [↓Only.with_fwd, ↓Only.refl_iff]
    | with_reducible refine Only.ite ?_ ?_
    | exact Only.refl _ _)

theorem State.keepCopy_only {ps0 : List Part} {u0 : State} (old : State) (s : State)
    (hps : ∀ q ∈ ([.pair] : List Part), q ∈ ps0) :
    Only ps0 u0 (State.keepCopy old s) ↔ Only ps0 u0 s := by
  refine Only.iff ?_ hps
  unfold State.keepCopy
  try dsimp only
  repeat' (first
    | simp (disch := decide) only [↓Only.with_pair, ↓Only.refl_iff]
    | with_reducible refine Only.ite ?_ ?_
    | exact Only.refl _ _)

theorem State.lowPins_only {ps0 : List Part} {u0 : State} (old : State) (s : State)
    (hps : ∀ q ∈ ([.out] : List Part), q ∈ ps0) :
    Only ps0 u0 (State.lowPins old s) ↔ Only ps0 u0 s := by
  refine Only.iff ?_ hps
  unfold State.lowPins
  try dsimp only
  repeat' (first
    | simp (disch := decide) only [↓State.emit_only, ↓Only.refl_iff]
    | with_reducible refine Only.ite ?_ ?_
    | split
    | exact Only.refl _ _)

theorem State.coldStart_only {ps0 : List Part} {u0 : State} (cause : BitVec 5) (s : State)
    (hps : ∀ q ∈ ([.out, .raised, .limits, .regs, .applied, .staged, .latches, .funcs, .key, .ldx, .queues, .hostq, .dma, .pcie, .flt, .ident, .time, .axes, .ncpA, .ncpB, .linkW, .linkE, .linkT, .fwd, .shared, .lines, .uarts, .encoders, .engines, .fronds, .act, .cans, .canPll, .brg, .usb, .power, .dieA, .dieB, .rpr, .peat, .boot, .pair, .image, .xact, .counts, .pba, .lanes, .pendA, .pendB, .urgent] : List Part), q ∈ ps0) :
    Only ps0 u0 (State.coldStart cause s) ↔ Only ps0 u0 s := by
  refine Only.iff ?_ hps
  unfold State.coldStart
  try dsimp only
  repeat' (first
    | simp (disch := decide) only [↓State.lowPins_only, ↓State.freshHub_only, ↓Only.refl_iff]
    | with_reducible refine State.redrive_via _ _ (by decide) ?_ ?_
    | with_reducible refine Only.ite ?_ ?_
    | exact Only.refl _ _)

theorem State.fullReset_only {ps0 : List Part} {u0 : State} (cause : BitVec 5) (s : State)
    (hps : ∀ q ∈ ([.out, .raised, .limits, .regs, .applied, .staged, .latches, .funcs, .key, .ldx, .queues, .hostq, .dma, .pcie, .flt, .ident, .time, .axes, .ncpA, .ncpB, .linkW, .linkE, .linkT, .fwd, .shared, .lines, .uarts, .encoders, .engines, .fronds, .act, .cans, .canPll, .brg, .usb, .power, .dieA, .dieB, .rpr, .peat, .boot, .pair, .image, .xact, .counts, .pba, .lanes, .pendA, .pendB, .urgent] : List Part), q ∈ ps0) :
    Only ps0 u0 (State.fullReset cause s) ↔ Only ps0 u0 s := by
  refine Only.iff ?_ hps
  unfold State.fullReset
  try dsimp only
  repeat' (first
    | simp (disch := decide) only [↓State.lowPins_only, ↓State.keepCopy_only, ↓State.keepEpoch_only, ↓State.freshHub_only, ↓Only.refl_iff]
    | with_reducible refine State.redrive_via _ _ (by decide) ?_ ?_
    | with_reducible refine Only.ite ?_ ?_
    | exact Only.refl _ _)

theorem State.warmDomains_only {ps0 : List Part} {u0 : State} (s : State)
    (hps : ∀ q ∈ ([.regs, .power, .counts] : List Part), q ∈ ps0) :
    Only ps0 u0 (State.warmDomains s) ↔ Only ps0 u0 s := by
  refine Only.iff ?_ hps
  unfold State.warmDomains
  try dsimp only
  repeat' (first
    | simp (disch := decide) only [↓State.setNat_only, ↓State.setDom_only, ↓Only.refl_iff]
    | with_reducible refine Only.foldl (fun _ _ => ?_) ?_
    | with_reducible refine Only.foldl_snd (fun _ _ => ?_) ?_
    | with_reducible refine Only.ite ?_ ?_
    | split
    | exact Only.refl _ _)

theorem State.warmLoss_only {ps0 : List Part} {u0 : State} (s : State)
    (hps : ∀ q ∈ ([.out, .regs, .latches, .queues, .hostq, .dma, .pcie, .time, .axes, .ncpA, .ncpB, .linkW, .linkE, .linkT, .fwd, .shared, .lines, .uarts, .encoders, .engines, .act, .cans, .canPll, .brg, .usb, .power, .image, .xact, .counts, .pba, .pendA, .pendB] : List Part), q ∈ ps0) :
    Only ps0 u0 (State.warmLoss s) ↔ Only ps0 u0 s := by
  refine Only.iff ?_ hps
  unfold State.warmLoss
  try dsimp only
  repeat' (first
    | simp (disch := decide) only [↓State.loseDomain_only, ↓State.loseStatus_only, ↓Only.with_latches_linkW_linkE_linkT_shared_usb, ↓Only.refl_iff]
    | with_reducible refine Only.foldl (fun _ _ => ?_) ?_
    | with_reducible refine Only.foldl_snd (fun _ _ => ?_) ?_
    | with_reducible refine Only.ite ?_ ?_
    | split
    | exact Only.refl _ _)

theorem State.warmCore_only {ps0 : List Part} {u0 : State} (s : State)
    (hps : ∀ q ∈ ([.funcs, .flt, .ident, .rpr, .peat, .boot, .pair, .lanes] : List Part), q ∈ ps0) :
    Only ps0 u0 (State.warmCore s) ↔ Only ps0 u0 s := by
  refine Only.iff ?_ hps
  unfold State.warmCore
  try dsimp only
  repeat' (first
    | simp (disch := decide) only [↓Only.with_funcs_flt_ident_rpr_peat_boot_pair, ↓Only.refl_iff]
    | with_reducible refine Only.ite ?_ ?_
    | exact Only.refl _ _)

theorem State.trimFuncs_only {ps0 : List Part} {u0 : State} (s : State)
    (hps : ∀ q ∈ ([.funcs] : List Part), q ∈ ps0) :
    Only ps0 u0 (State.trimFuncs s) ↔ Only ps0 u0 s := by
  refine Only.iff ?_ hps
  unfold State.trimFuncs
  try dsimp only
  repeat' (first
    | simp (disch := decide) only [↓Only.with_funcs, ↓Only.refl_iff]
    | with_reducible refine Only.ite ?_ ?_
    | exact Only.refl _ _)

theorem State.warmReset_only {ps0 : List Part} {u0 : State} (s : State)
    (hps : ∀ q ∈ ([.out, .raised, .regs, .latches, .funcs, .queues, .hostq, .dma, .pcie, .flt, .ident, .time, .axes, .ncpA, .ncpB, .linkW, .linkE, .linkT, .fwd, .shared, .lines, .uarts, .encoders, .engines, .act, .cans, .canPll, .brg, .usb, .power, .dieA, .dieB, .rpr, .peat, .boot, .pair, .image, .xact, .counts, .pba, .lanes, .pendA, .pendB, .urgent] : List Part), q ∈ ps0) :
    Only ps0 u0 (State.warmReset s) ↔ Only ps0 u0 s := by
  refine Only.iff ?_ hps
  unfold State.warmReset
  try dsimp only
  repeat' (first
    | simp (disch := decide) only [↓dieLost_only, ↓State.warmLoss_only, ↓State.warmCore_only, ↓State.trimFuncs_only, ↓State.warmDomains_only, ↓State.lowPins_only, ↓State.keepEpoch_only, ↓State.seqStep_only, ↓Only.refl_iff]
    | with_reducible refine State.redrive_via _ _ (by decide) ?_ ?_
    | with_reducible refine Only.foldl (fun _ _ => ?_) ?_
    | with_reducible refine Only.foldl_snd (fun _ _ => ?_) ?_
    | with_reducible refine Only.ite ?_ ?_
    | split
    | exact Only.refl _ _)

theorem State.reloadReset_only {ps0 : List Part} {u0 : State} (s : State)
    (hps : ∀ q ∈ ([.out, .raised, .now, .limits, .regs, .applied, .staged, .funcs, .key, .ldx, .queues, .hostq, .dma, .pcie, .flt, .ident, .time, .axes, .ncpA, .ncpB, .linkW, .linkE, .linkT, .fwd, .shared, .lines, .uarts, .encoders, .engines, .fronds, .act, .cans, .brg, .usb, .power, .rpr, .peat, .boot, .pair, .xact, .counts, .pba, .lanes, .pendA, .pendB, .urgent] : List Part), q ∈ ps0) :
    Only ps0 u0 (State.reloadReset s) ↔ Only ps0 u0 s := by
  refine Only.iff ?_ hps
  unfold State.reloadReset
  try dsimp only
  repeat' (first
    | simp (disch := decide) only [↓State.reloadAll_only, ↓Only.with_fwd, ↓Only.refl_iff]
    | with_reducible refine Only.ite ?_ ?_
    | exact Only.refl _ _)

theorem State.serveReset_only {ps0 : List Part} {u0 : State} (s : State)
    (hps : ∀ q ∈ ([.out, .raised, .now, .limits, .regs, .applied, .staged, .latches, .funcs, .key, .ldx, .queues, .hostq, .dma, .pcie, .flt, .ident, .time, .axes, .ncpA, .ncpB, .linkW, .linkE, .linkT, .fwd, .shared, .lines, .uarts, .encoders, .engines, .fronds, .act, .cans, .canPll, .brg, .usb, .power, .dieA, .dieB, .rpr, .peat, .boot, .pair, .image, .xact, .counts, .pba, .lanes, .pendA, .pendB, .urgent] : List Part), q ∈ ps0) :
    Only ps0 u0 (State.serveReset s) ↔ Only ps0 u0 s := by
  refine Only.iff ?_ hps
  unfold State.serveReset
  try dsimp only
  repeat' (first
    | simp (disch := decide) only [↓State.warmReset_only, ↓State.fullReset_only, ↓State.reloadReset_only, ↓Only.with_boot, ↓Only.refl_iff]
    | with_reducible refine Only.ite ?_ ?_
    | split
    | exact Only.refl _ _)

theorem powerOn_only {ps0 : List Part} {u0 : State} (s : State)
    (hps : ∀ q ∈ ([.out, .raised, .limits, .regs, .applied, .staged, .latches, .funcs, .key, .ldx, .queues, .hostq, .dma, .pcie, .flt, .ident, .time, .axes, .ncpA, .ncpB, .linkW, .linkE, .linkT, .fwd, .shared, .lines, .uarts, .encoders, .engines, .fronds, .act, .cans, .canPll, .brg, .usb, .power, .dieA, .dieB, .rpr, .peat, .boot, .pair, .image, .xact, .counts, .pba, .lanes, .pendA, .pendB, .urgent] : List Part), q ∈ ps0) :
    Only ps0 u0 (powerOn s) ↔ Only ps0 u0 s := by
  refine Only.iff ?_ hps
  unfold powerOn
  try dsimp only
  repeat' (first
    | simp (disch := decide) only [↓State.coldStart_only, ↓Only.with_power_dieA_dieB, ↓Only.refl_iff]
    | with_reducible refine Only.ite ?_ ?_
    | exact Only.refl _ _)

theorem resetPin_only {ps0 : List Part} {u0 : State} (straps : Straps) (s : State)
    (hps : ∀ q ∈ ([.out, .raised, .now, .limits, .regs, .applied, .staged, .latches, .funcs, .key, .ldx, .queues, .hostq, .dma, .pcie, .flt, .ident, .time, .axes, .ncpA, .ncpB, .linkW, .linkE, .linkT, .fwd, .shared, .lines, .uarts, .encoders, .engines, .fronds, .act, .cans, .canPll, .brg, .usb, .power, .dieA, .dieB, .rpr, .peat, .boot, .pair, .image, .xact, .counts, .pba, .lanes, .pendA, .pendB, .urgent] : List Part), q ∈ ps0) :
    Only ps0 u0 (resetPin straps s) ↔ Only ps0 u0 s := by
  refine Only.iff ?_ hps
  unfold resetPin
  try dsimp only
  repeat' (first
    | simp (disch := decide) only [↓State.advanceTo_only, ↓State.fullReset_only, ↓Only.with_ident, ↓Only.refl_iff]
    | with_reducible refine Only.ite ?_ ?_
    | exact Only.refl _ _)

theorem supplyReset_only {ps0 : List Part} {u0 : State} (s : State)
    (hps : ∀ q ∈ ([.out, .raised, .limits, .regs, .applied, .staged, .latches, .funcs, .key, .ldx, .queues, .hostq, .dma, .pcie, .flt, .ident, .time, .axes, .ncpA, .ncpB, .linkW, .linkE, .linkT, .fwd, .shared, .lines, .uarts, .encoders, .engines, .fronds, .act, .cans, .canPll, .brg, .usb, .power, .dieA, .dieB, .rpr, .peat, .boot, .pair, .image, .xact, .counts, .pba, .lanes, .pendA, .pendB, .urgent] : List Part), q ∈ ps0) :
    Only ps0 u0 (supplyReset s) ↔ Only ps0 u0 s := by
  refine Only.iff ?_ hps
  unfold supplyReset
  try dsimp only
  repeat' (first
    | simp (disch := decide) only [↓State.coldStart_only, ↓Only.with_boot, ↓Only.refl_iff]
    | with_reducible refine Only.ite ?_ ?_
    | exact Only.refl _ _)

theorem resetRelease_only {ps0 : List Part} {u0 : State} (s : State)
    (hps : ∀ q ∈ ([.ncpB, .boot, .pendB] : List Part), q ∈ ps0) :
    Only ps0 u0 (resetRelease s) ↔ Only ps0 u0 s := by
  refine Only.iff ?_ hps
  unfold resetRelease
  try dsimp only
  repeat' (first
    | simp (disch := decide) only [↓Only.with_ncpB_boot, ↓Only.refl_iff]
    | with_reducible refine Only.ite ?_ ?_
    | split
    | exact Only.refl _ _)

theorem State.pairRead_only {ps0 : List Part} {u0 : State} (s : State) (p : Pair) (w : Word) (k : Nat) (ecc : EccResult)
    (hps : ∀ q ∈ ([.out, .raised, .now, .regs, .latches, .ldx, .ncpA, .ncpB, .uarts, .engines, .act, .cans, .brg, .rpr, .counts, .pendA, .pendB] : List Part), q ∈ ps0) :
    Only ps0 u0 (State.pairRead s p w k ecc).2 ↔ Only ps0 u0 s := by
  refine Only.iff ?_ hps
  unfold State.pairRead
  try dsimp only
  repeat' (first
    | simp (disch := decide) only [↓State.memoryRead_only, ↓State.localRead_only, ↓Only.refl_iff]
    | with_reducible refine Only.ite ?_ ?_
    | split
    | with_reducible refine Only.snd ?_ (by assumption)
    | with_reducible refine Only.fst ?_ (by assumption)
    | exact Only.refl _ _)

theorem State.pairWrite_only {ps0 : List Part} {u0 : State} (s : State) (p : Pair) (w : Word) (b : List Byte)
    (hps : ∀ q ∈ ([.out, .raised, .now, .limits, .regs, .applied, .staged, .funcs, .key, .ldx, .queues, .hostq, .dma, .pcie, .flt, .ident, .time, .axes, .ncpA, .ncpB, .linkW, .linkE, .linkT, .fwd, .shared, .lines, .uarts, .encoders, .engines, .fronds, .act, .cans, .brg, .usb, .power, .rpr, .peat, .boot, .pair, .image, .xact, .counts, .pba, .lanes, .pendA, .pendB, .urgent] : List Part), q ∈ ps0) :
    Only ps0 u0 (State.pairWrite s p w b).2 ↔ Only ps0 u0 s := by
  refine Only.iff ?_ hps
  unfold State.pairWrite
  try dsimp only
  repeat' (first
    | simp (disch := decide) only [↓State.setNcp_only, ↓State.localWrite_only, ↓Only.refl_iff]
    | with_reducible refine Only.ite ?_ ?_
    | split
    | with_reducible refine Only.snd ?_ (by assumption)
    | with_reducible refine Only.fst ?_ (by assumption)
    | exact Only.refl _ _)

theorem State.guarded_via {ps : List Part} {u : State} (s : State) (p : Pair) (r : Bool) (n : Nat) (k : AccessKind) (w : Word)
    (f : State → State) (hps : ∀ q ∈ ([.raised, .regs, .funcs, .ncpA, .ncpB, .counts, .pendA, .pendB, .urgent] : List Part), q ∈ ps) (hf : Only ps s (f s)) (h : Only ps u s) :
    Only ps u (s.guarded p r n k w f) := by
  unfold State.guarded
  refine Only.ite ?_ (Only.ite ?_ (Only.ite ?_ (h.trans hf)))
  · exact (State.trapHere_only _ _ _ _ _ (fun q hq => hps q (by revert q; decide))).2 h
  · exact (State.trapHere_only _ _ _ _ _ (fun q hq => hps q (by revert q; decide))).2 h
  · exact (State.protTrap_only _ _ _ (fun q hq => hps q (by revert q; decide))).2 h

theorem ncpLoad_only {ps0 : List Part} {u0 : State} (k : LoadKind) (p : Pair) (d a : BitVec 4) (post : Bool) (i : BitVec 14) (ecc : EccResult) (s : State)
    (hps : ∀ q ∈ ([.out, .raised, .now, .limits, .regs, .applied, .staged, .latches, .funcs, .key, .ldx, .queues, .hostq, .dma, .pcie, .flt, .ident, .time, .axes, .ncpA, .ncpB, .linkW, .linkE, .linkT, .fwd, .shared, .lines, .uarts, .encoders, .engines, .fronds, .act, .cans, .brg, .usb, .power, .rpr, .peat, .boot, .pair, .image, .xact, .counts, .pba, .lanes, .pendA, .pendB, .urgent] : List Part), q ∈ ps0) :
    Only ps0 u0 (ncpLoad k p d a post i ecc s) ↔ Only ps0 u0 s := by
  refine Only.iff ?_ hps
  unfold ncpLoad
  try dsimp only
  repeat' (first
    | simp (disch := decide) only [↓State.aperture_only, ↓State.setNcp_only, ↓State.pairRead_only, ↓State.trapHere_only, ↓Only.refl_iff]
    | with_reducible refine State.issue_via _ _ _ _ (by decide) ?_ ?_
    | with_reducible refine State.guarded_via _ _ _ _ _ _ _ (by decide) ?_ ?_
    | with_reducible refine Only.ite ?_ ?_
    | split
    | with_reducible refine Only.snd ?_ (by assumption)
    | with_reducible refine Only.fst ?_ (by assumption)
    | exact Only.refl _ _)

theorem ncpStore_only {ps0 : List Part} {u0 : State} (size : Nat) (p : Pair) (d a : BitVec 4) (post : Bool) (i : BitVec 14) (s : State)
    (hps : ∀ q ∈ ([.out, .raised, .now, .limits, .regs, .applied, .staged, .latches, .funcs, .key, .ldx, .queues, .hostq, .dma, .pcie, .flt, .ident, .time, .axes, .ncpA, .ncpB, .linkW, .linkE, .linkT, .fwd, .shared, .lines, .uarts, .encoders, .engines, .fronds, .act, .cans, .brg, .usb, .power, .rpr, .peat, .boot, .pair, .image, .xact, .counts, .pba, .lanes, .pendA, .pendB, .urgent] : List Part), q ∈ ps0) :
    Only ps0 u0 (ncpStore size p d a post i s) ↔ Only ps0 u0 s := by
  refine Only.iff ?_ hps
  unfold ncpStore
  try dsimp only
  repeat' (first
    | simp (disch := decide) only [↓State.aperture_only, ↓State.setNcp_only, ↓State.pairWrite_only, ↓State.trapHere_only, ↓Only.refl_iff]
    | with_reducible refine State.issue_via _ _ _ _ (by decide) ?_ ?_
    | with_reducible refine State.guarded_via _ _ _ _ _ _ _ (by decide) ?_ ?_
    | with_reducible refine Only.ite ?_ ?_
    | split
    | with_reducible refine Only.snd ?_ (by assumption)
    | with_reducible refine Only.fst ?_ (by assumption)
    | exact Only.refl _ _)

theorem State.atomic_only {ps0 : List Part} {u0 : State} (s : State) (p : Pair) (d a b : BitVec 4) (ecc : EccResult) (cas : Bool)
    (hps : ∀ q ∈ ([.out, .raised, .now, .limits, .regs, .applied, .staged, .latches, .funcs, .key, .ldx, .queues, .hostq, .dma, .pcie, .flt, .ident, .time, .axes, .ncpA, .ncpB, .linkW, .linkE, .linkT, .fwd, .shared, .lines, .uarts, .encoders, .engines, .fronds, .act, .cans, .brg, .usb, .power, .rpr, .peat, .boot, .pair, .image, .xact, .counts, .pba, .lanes, .pendA, .pendB, .urgent] : List Part), q ∈ ps0) :
    Only ps0 u0 (State.atomic s p d a b ecc cas) ↔ Only ps0 u0 s := by
  refine Only.iff ?_ hps
  unfold State.atomic
  try dsimp only
  repeat' (first
    | simp (disch := decide) only [↓State.protTrap_only, ↓State.trapHere_only, ↓State.pairRead_only, ↓State.pairWrite_only, ↓State.setNcp_only, ↓Only.refl_iff]
    | with_reducible refine State.issue_via _ _ _ _ (by decide) ?_ ?_
    | with_reducible refine State.guarded_via _ _ _ _ _ _ _ (by decide) ?_ ?_
    | with_reducible refine Only.ite ?_ ?_
    | split
    | with_reducible refine Only.snd ?_ (by assumption)
    | with_reducible refine Only.fst ?_ (by assumption)
    | exact Only.refl _ _)

theorem ncpCas_only {ps0 : List Part} {u0 : State} (p : Pair) (d a b : BitVec 4) (ecc : EccResult) (s : State)
    (hps : ∀ q ∈ ([.out, .raised, .now, .limits, .regs, .applied, .staged, .latches, .funcs, .key, .ldx, .queues, .hostq, .dma, .pcie, .flt, .ident, .time, .axes, .ncpA, .ncpB, .linkW, .linkE, .linkT, .fwd, .shared, .lines, .uarts, .encoders, .engines, .fronds, .act, .cans, .brg, .usb, .power, .rpr, .peat, .boot, .pair, .image, .xact, .counts, .pba, .lanes, .pendA, .pendB, .urgent] : List Part), q ∈ ps0) :
    Only ps0 u0 (ncpCas p d a b ecc s) ↔ Only ps0 u0 s := by
  refine Only.iff ?_ hps
  unfold ncpCas
  try dsimp only
  repeat' (first
    | simp (disch := decide) only [↓State.atomic_only, ↓Only.refl_iff]
    | with_reducible refine Only.ite ?_ ?_
    | exact Only.refl _ _)

theorem ncpSwp_only {ps0 : List Part} {u0 : State} (p : Pair) (d a b : BitVec 4) (ecc : EccResult) (s : State)
    (hps : ∀ q ∈ ([.out, .raised, .now, .limits, .regs, .applied, .staged, .latches, .funcs, .key, .ldx, .queues, .hostq, .dma, .pcie, .flt, .ident, .time, .axes, .ncpA, .ncpB, .linkW, .linkE, .linkT, .fwd, .shared, .lines, .uarts, .encoders, .engines, .fronds, .act, .cans, .brg, .usb, .power, .rpr, .peat, .boot, .pair, .image, .xact, .counts, .pba, .lanes, .pendA, .pendB, .urgent] : List Part), q ∈ ps0) :
    Only ps0 u0 (ncpSwp p d a b ecc s) ↔ Only ps0 u0 s := by
  refine Only.iff ?_ hps
  unfold ncpSwp
  try dsimp only
  repeat' (first
    | simp (disch := decide) only [↓State.atomic_only, ↓Only.refl_iff]
    | with_reducible refine Only.ite ?_ ?_
    | exact Only.refl _ _)

theorem ncpFire_only {ps0 : List Part} {u0 : State} (p : Pair) (a : BitVec 4) (ecc : EccResult) (s : State)
    (hps : ∀ q ∈ ([.out, .raised, .now, .regs, .latches, .funcs, .ldx, .ncpA, .ncpB, .uarts, .engines, .act, .cans, .brg, .rpr, .counts, .pendA, .pendB, .urgent] : List Part), q ∈ ps0) :
    Only ps0 u0 (ncpFire p a ecc s) ↔ Only ps0 u0 s := by
  refine Only.iff ?_ hps
  unfold ncpFire
  try dsimp only
  repeat' (first
    | simp (disch := decide) only [↓State.trapHere_only, ↓State.pairRead_only, ↓State.setNcp_only, ↓Only.refl_iff]
    | with_reducible refine State.issue_via _ _ _ _ (by decide) ?_ ?_
    | with_reducible refine State.guarded_via _ _ _ _ _ _ _ (by decide) ?_ ?_
    | with_reducible refine Only.step (State.appendWrite_some _ _ (by assumption)) (by decide) ?_
    | with_reducible refine Only.getD (fun _ _ => ?_) ?_
    | with_reducible refine Only.ite ?_ ?_
    | split
    | with_reducible refine Only.snd ?_ (by assumption)
    | with_reducible refine Only.fst ?_ (by assumption)
    | exact Only.refl _ _)

theorem ncpJal_only {ps0 : List Part} {u0 : State} (p : Pair) (d : BitVec 4) (i : BitVec 22) (s : State)
    (hps : ∀ q ∈ ([.raised, .regs, .funcs, .ncpA, .ncpB, .counts, .pendA, .pendB, .urgent] : List Part), q ∈ ps0) :
    Only ps0 u0 (ncpJal p d i s) ↔ Only ps0 u0 s := by
  refine Only.iff ?_ hps
  unfold ncpJal
  try dsimp only
  repeat' (first
    | simp (disch := decide) only [↓State.setNcp_only, ↓Only.refl_iff]
    | with_reducible refine State.issue_via _ _ _ _ (by decide) ?_ ?_
    | with_reducible refine Only.ite ?_ ?_
    | exact Only.refl _ _)

theorem ncpJalr_only {ps0 : List Part} {u0 : State} (p : Pair) (d a : BitVec 4) (i : BitVec 14) (s : State)
    (hps : ∀ q ∈ ([.raised, .regs, .funcs, .ncpA, .ncpB, .counts, .pendA, .pendB, .urgent] : List Part), q ∈ ps0) :
    Only ps0 u0 (ncpJalr p d a i s) ↔ Only ps0 u0 s := by
  refine Only.iff ?_ hps
  unfold ncpJalr
  try dsimp only
  repeat' (first
    | simp (disch := decide) only [↓State.trapHere_only, ↓State.setNcp_only, ↓Only.refl_iff]
    | with_reducible refine State.issue_via _ _ _ _ (by decide) ?_ ?_
    | with_reducible refine Only.ite ?_ ?_
    | split
    | exact Only.refl _ _)

theorem ncpTrap_only {ps0 : List Part} {u0 : State} (p : Pair) (i : BitVec 14) (s : State)
    (hps : ∀ q ∈ ([.raised, .regs, .funcs, .ncpA, .ncpB, .counts, .pendA, .pendB, .urgent] : List Part), q ∈ ps0) :
    Only ps0 u0 (ncpTrap p i s) ↔ Only ps0 u0 s := by
  refine Only.iff ?_ hps
  unfold ncpTrap
  try dsimp only
  repeat' (first
    | simp (disch := decide) only [↓State.syncTrap_only, ↓Only.refl_iff]
    | with_reducible refine State.issue_via _ _ _ _ (by decide) ?_ ?_
    | with_reducible refine Only.ite ?_ ?_
    | exact Only.refl _ _)

theorem ncpRett_only {ps0 : List Part} {u0 : State} (p : Pair) (s : State)
    (hps : ∀ q ∈ ([.raised, .regs, .funcs, .ncpA, .ncpB, .counts, .pendA, .pendB, .urgent] : List Part), q ∈ ps0) :
    Only ps0 u0 (ncpRett p s) ↔ Only ps0 u0 s := by
  refine Only.iff ?_ hps
  unfold ncpRett
  try dsimp only
  repeat' (first
    | simp (disch := decide) only [↓State.setNcp_only, ↓State.trapHere_only, ↓Only.refl_iff]
    | with_reducible refine State.issue_via _ _ _ _ (by decide) ?_ ?_
    | with_reducible refine Only.ite ?_ ?_
    | split
    | exact Only.refl _ _)

theorem ncpIllegal_only {ps0 : List Part} {u0 : State} (p : Pair) (w : Word) (s : State)
    (hps : ∀ q ∈ ([.raised, .regs, .funcs, .ncpA, .ncpB, .counts, .pendA, .pendB, .urgent] : List Part), q ∈ ps0) :
    Only ps0 u0 (ncpIllegal p w s) ↔ Only ps0 u0 s := by
  refine Only.iff ?_ hps
  unfold ncpIllegal
  try dsimp only
  repeat' (first
    | simp (disch := decide) only [↓State.trapHere_only, ↓Only.refl_iff]
    | with_reducible refine State.issue_via _ _ _ _ (by decide) ?_ ?_
    | with_reducible refine Only.ite ?_ ?_
    | split
    | exact Only.refl _ _)

theorem ncpMfs_only {ps0 : List Part} {u0 : State} (p : Pair) (d : BitVec 4) (n : BitVec 12) (s : State)
    (hps : ∀ q ∈ ([.raised, .regs, .funcs, .ncpA, .ncpB, .counts, .pendA, .pendB, .urgent] : List Part), q ∈ ps0) :
    Only ps0 u0 (ncpMfs p d n s) ↔ Only ps0 u0 s := by
  refine Only.iff ?_ hps
  unfold ncpMfs
  try dsimp only
  repeat' (first
    | simp (disch := decide) only [↓State.trapHere_only, ↓State.setNcp_only, ↓Only.refl_iff]
    | with_reducible refine State.issue_via _ _ _ _ (by decide) ?_ ?_
    | with_reducible refine Only.ite ?_ ?_
    | split
    | exact Only.refl _ _)

theorem ncpMts_only {ps0 : List Part} {u0 : State} (p : Pair) (a : BitVec 4) (n : BitVec 12) (s : State)
    (hps : ∀ q ∈ ([.raised, .regs, .funcs, .ncpA, .ncpB, .counts, .pendA, .pendB, .urgent] : List Part), q ∈ ps0) :
    Only ps0 u0 (ncpMts p a n s) ↔ Only ps0 u0 s := by
  refine Only.iff ?_ hps
  unfold ncpMts
  try dsimp only
  repeat' (first
    | simp (disch := decide) only [↓State.trapHere_only, ↓State.setNcp_only, ↓Only.refl_iff]
    | with_reducible refine State.issue_via _ _ _ _ (by decide) ?_ ?_
    | with_reducible refine Only.ite ?_ ?_
    | split
    | exact Only.refl _ _)

theorem ncpFence_only {ps0 : List Part} {u0 : State} (p : Pair) (s : State)
    (hps : ∀ q ∈ ([.raised, .regs, .funcs, .ncpA, .ncpB, .counts, .pendA, .pendB, .urgent] : List Part), q ∈ ps0) :
    Only ps0 u0 (ncpFence p s) ↔ Only ps0 u0 s := by
  refine Only.iff ?_ hps
  unfold ncpFence
  try dsimp only
  repeat' (first
    | simp (disch := decide) only [↓State.setNcp_only, ↓Only.refl_iff]
    | with_reducible refine State.issue_via _ _ _ _ (by decide) ?_ ?_
    | with_reducible refine Only.ite ?_ ?_
    | split
    | exact Only.refl _ _)

theorem ncpWfe_only {ps0 : List Part} {u0 : State} (p : Pair) (d i : BitVec 4) (s : State)
    (hps : ∀ q ∈ ([.raised, .regs, .funcs, .ncpA, .ncpB, .counts, .pendA, .pendB, .urgent] : List Part), q ∈ ps0) :
    Only ps0 u0 (ncpWfe p d i s) ↔ Only ps0 u0 s := by
  refine Only.iff ?_ hps
  unfold ncpWfe
  try dsimp only
  repeat' (first
    | simp (disch := decide) only [↓State.setNcp_only, ↓Only.refl_iff]
    | with_reducible refine State.issue_via _ _ _ _ (by decide) ?_ ?_
    | with_reducible refine Only.ite ?_ ?_
    | split
    | exact Only.refl _ _)

theorem ncpEventTrap_only {ps0 : List Part} {u0 : State} (p : Pair) (s : State)
    (hps : ∀ q ∈ ([.ncpA, .ncpB, .pendA, .pendB] : List Part), q ∈ ps0) :
    Only ps0 u0 (ncpEventTrap p s) ↔ Only ps0 u0 s := by
  refine Only.iff ?_ hps
  unfold ncpEventTrap
  try dsimp only
  repeat' (first
    | simp (disch := decide) only [↓State.setNcp_only, ↓Only.refl_iff]
    | with_reducible refine Only.ite ?_ ?_
    | split
    | exact Only.refl _ _)

theorem ncpSpore_only {ps0 : List Part} {u0 : State} (p : Pair) (a b c : BitVec 4) (s : State)
    (hps : ∀ q ∈ ([.raised, .regs, .funcs, .ncpA, .ncpB, .counts, .pendA, .pendB, .urgent] : List Part), q ∈ ps0) :
    Only ps0 u0 (ncpSpore p a b c s) ↔ Only ps0 u0 s := by
  refine Only.iff ?_ hps
  unfold ncpSpore
  try dsimp only
  repeat' (first
    | simp (disch := decide) only [↓State.trapHere_only, ↓State.setNcp_only, ↓State.event_only, ↓Only.refl_iff]
    | with_reducible refine State.issue_via _ _ _ _ (by decide) ?_ ?_
    | with_reducible refine Only.ite ?_ ?_
    | split
    | exact Only.refl _ _)

theorem ncpAxr_only {ps0 : List Part} {u0 : State} (p : Pair) (d a : BitVec 4) (i : BitVec 14) (s : State)
    (hps : ∀ q ∈ ([.raised, .regs, .funcs, .ncpA, .ncpB, .counts, .pendA, .pendB, .urgent] : List Part), q ∈ ps0) :
    Only ps0 u0 (ncpAxr p d a i s) ↔ Only ps0 u0 s := by
  refine Only.iff ?_ hps
  unfold ncpAxr
  try dsimp only
  repeat' (first
    | simp (disch := decide) only [↓State.trapHere_only, ↓State.setNcp_only, ↓Only.refl_iff]
    | with_reducible refine State.issue_via _ _ _ _ (by decide) ?_ ?_
    | with_reducible refine Only.ite ?_ ?_
    | split
    | exact Only.refl _ _)

theorem State.tim_only {ps0 : List Part} {u0 : State} (s : State) (p : Pair) (d : BitVec 4) (lo hi : Nat)
    (hps : ∀ q ∈ ([.raised, .regs, .funcs, .ncpA, .ncpB, .counts, .pendA, .pendB, .urgent] : List Part), q ∈ ps0) :
    Only ps0 u0 (State.tim s p d lo hi) ↔ Only ps0 u0 s := by
  refine Only.iff ?_ hps
  unfold State.tim
  try dsimp only
  repeat' (first
    | simp (disch := decide) only [↓State.trapHere_only, ↓State.setNcp_only, ↓Only.refl_iff]
    | with_reducible refine State.issue_via _ _ _ _ (by decide) ?_ ?_
    | with_reducible refine Only.ite ?_ ?_
    | split
    | exact Only.refl _ _)

theorem ncpTimTime_only {ps0 : List Part} {u0 : State} (p : Pair) (d : BitVec 4) (s : State)
    (hps : ∀ q ∈ ([.raised, .regs, .funcs, .ncpA, .ncpB, .counts, .pendA, .pendB, .urgent] : List Part), q ∈ ps0) :
    Only ps0 u0 (ncpTimTime p d s) ↔ Only ps0 u0 s := by
  refine Only.iff ?_ hps
  unfold ncpTimTime
  try dsimp only
  repeat' (first
    | simp (disch := decide) only [↓State.tim_only, ↓Only.refl_iff]
    | with_reducible refine Only.ite ?_ ?_
    | exact Only.refl _ _)

theorem ncpTimTick_only {ps0 : List Part} {u0 : State} (p : Pair) (d : BitVec 4) (s : State)
    (hps : ∀ q ∈ ([.raised, .regs, .funcs, .ncpA, .ncpB, .counts, .pendA, .pendB, .urgent] : List Part), q ∈ ps0) :
    Only ps0 u0 (ncpTimTick p d s) ↔ Only ps0 u0 s := by
  refine Only.iff ?_ hps
  unfold ncpTimTick
  try dsimp only
  repeat' (first
    | simp (disch := decide) only [↓State.tim_only, ↓Only.refl_iff]
    | with_reducible refine Only.ite ?_ ?_
    | exact Only.refl _ _)

theorem ncpTimFraction_only {ps0 : List Part} {u0 : State} (p : Pair) (d : BitVec 4) (s : State)
    (hps : ∀ q ∈ ([.raised, .regs, .funcs, .ncpA, .ncpB, .counts, .pendA, .pendB, .urgent] : List Part), q ∈ ps0) :
    Only ps0 u0 (ncpTimFraction p d s) ↔ Only ps0 u0 s := by
  refine Only.iff ?_ hps
  unfold ncpTimFraction
  try dsimp only
  repeat' (first
    | simp (disch := decide) only [↓State.tim_only, ↓Only.refl_iff]
    | with_reducible refine Only.ite ?_ ?_
    | exact Only.refl _ _)

theorem State.usbLocalAccess_only {ps0 : List Part} {u0 : State} (s : State) (write : Bool) (a len : Nat) (data : List Byte) (ecc : EccResult)
    (hps : ∀ q ∈ ([.out, .raised, .now, .limits, .regs, .applied, .staged, .latches, .funcs, .key, .ldx, .queues, .hostq, .dma, .pcie, .flt, .ident, .time, .axes, .ncpA, .ncpB, .linkW, .linkE, .linkT, .fwd, .shared, .lines, .uarts, .encoders, .engines, .fronds, .act, .cans, .brg, .usb, .power, .rpr, .peat, .boot, .pair, .image, .xact, .counts, .pba, .lanes, .pendA, .pendB, .urgent] : List Part), q ∈ ps0) :
    Only ps0 u0 (State.usbLocalAccess s write a len data ecc).2 ↔ Only ps0 u0 s := by
  refine Only.iff ?_ hps
  unfold State.usbLocalAccess
  try dsimp only
  repeat' (first
    | simp (disch := decide) only [↓State.localRead_only, ↓State.localWrite_only, ↓Only.refl_iff]
    | with_reducible refine Only.foldl (fun _ _ => ?_) ?_
    | with_reducible refine Only.foldl_snd (fun _ _ => ?_) ?_
    | with_reducible refine Only.ite ?_ ?_
    | split
    | with_reducible refine Only.snd ?_ (by assumption)
    | with_reducible refine Only.fst ?_ (by assumption)
    | exact Only.refl _ _)

theorem usbLocalDone_only {ps0 : List Part} {u0 : State} (ecc : EccResult) (s : State)
    (hps : ∀ q ∈ ([.out, .raised, .now, .limits, .regs, .applied, .staged, .latches, .funcs, .key, .ldx, .queues, .hostq, .dma, .pcie, .flt, .ident, .time, .axes, .ncpA, .ncpB, .linkW, .linkE, .linkT, .fwd, .shared, .lines, .uarts, .encoders, .engines, .fronds, .act, .cans, .brg, .usb, .power, .rpr, .peat, .boot, .pair, .image, .xact, .counts, .pba, .lanes, .pendA, .pendB, .urgent] : List Part), q ∈ ps0) :
    Only ps0 u0 (usbLocalDone ecc s) ↔ Only ps0 u0 s := by
  refine Only.iff ?_ hps
  unfold usbLocalDone
  try dsimp only
  repeat' (first
    | simp (disch := decide) only [↓State.usbSet_only, ↓State.usbLocalAccess_only, ↓State.usbResultIs_only, ↓State.usbAnswer_only, ↓State.usbStall_only, ↓Only.refl_iff]
    | with_reducible refine Only.ite ?_ ?_
    | split
    | with_reducible refine Only.snd ?_ (by assumption)
    | with_reducible refine Only.fst ?_ (by assumption)
    | exact Only.refl _ _)

theorem usbInfo_only {ps0 : List Part} {u0 : State} (s : State)
    (hps : ∀ q ∈ ([.out, .regs, .counts] : List Part), q ∈ ps0) :
    Only ps0 u0 (usbInfo s) ↔ Only ps0 u0 s := by
  refine Only.iff ?_ hps
  unfold usbInfo
  try dsimp only
  repeat' (first
    | simp (disch := decide) only [↓State.usbStall_only, ↓State.usbAnswer_only, ↓Only.refl_iff]
    | with_reducible refine Only.ite ?_ ?_
    | split
    | exact Only.refl _ _)

theorem usbBlock_only {ps0 : List Part} {u0 : State} (row : Byte) (b : List Byte) (ecc : EccResult) (s : State)
    (hps : ∀ q ∈ ([.out, .raised, .now, .limits, .regs, .applied, .staged, .latches, .funcs, .key, .ldx, .queues, .hostq, .dma, .pcie, .flt, .ident, .time, .axes, .ncpA, .ncpB, .linkW, .linkE, .linkT, .fwd, .shared, .lines, .uarts, .encoders, .engines, .fronds, .act, .cans, .brg, .usb, .power, .rpr, .peat, .boot, .pair, .image, .xact, .counts, .pba, .lanes, .pendA, .pendB, .urgent] : List Part), q ∈ ps0) :
    Only ps0 u0 (usbBlock row b ecc s) ↔ Only ps0 u0 s := by
  refine Only.iff ?_ hps
  unfold usbBlock
  try dsimp only
  repeat' (first
    | simp (disch := decide) only [↓State.usbSet_only, ↓State.bump_only, ↓State.fault_low, ↓State.aperture_only, ↓State.usbLocalAccess_only, ↓State.completeTo_only, ↓Only.refl_iff]
    | with_reducible refine Only.getD (fun _ _ => ?_) ?_
    | with_reducible refine Only.ite ?_ ?_
    | split
    | with_reducible refine Only.snd ?_ (by assumption)
    | with_reducible refine Only.fst ?_ (by assumption)
    | exact Only.refl _ _)

theorem popAnswer_via {ps : List Part} {u : State} (src : Src) (pop : State → DWord × State) (s : State) (hps : Part.out ∈ ps)
    (hf : Only ps s (pop s).2) (h : Only ps u s) : Only ps u (popAnswer src pop s) := by
  unfold popAnswer
  exact (State.emit_only _ _ (by simpa using hps)).2 (h.trans hf)

theorem claimAnswer_only {ps0 : List Part} {u0 : State} (src : Src) (p : Pair) (s : State)
    (hps : ∀ q ∈ ([.out, .ncpA, .ncpB, .pendA, .pendB] : List Part), q ∈ ps0) :
    Only ps0 u0 (claimAnswer src p s) ↔ Only ps0 u0 s := by
  refine Only.iff ?_ hps
  unfold claimAnswer
  try dsimp only
  repeat' (first
    | simp (disch := decide) only [↓State.ncpClaim_only, ↓State.emit_only, ↓Only.refl_iff]
    | with_reducible refine Only.ite ?_ ?_
    | with_reducible refine Only.snd ?_ (by assumption)
    | with_reducible refine Only.fst ?_ (by assumption)
    | exact Only.refl _ _)

theorem appendPage_only {ps0 : List Part} {u0 : State} (src : Src) (off : BitVec 8) (data : List Byte) (s : State)
    (hps : ∀ q ∈ ([.out, .raised, .regs, .act, .counts, .urgent] : List Part), q ∈ ps0) :
    Only ps0 u0 (appendPage src off data s) ↔ Only ps0 u0 s := by
  refine Only.iff ?_ hps
  unfold appendPage
  try dsimp only
  repeat' (first
    | simp (disch := decide) only [↓State.emit_only, ↓Only.refl_iff]
    | with_reducible refine Only.step (State.appendWrite_some _ _ (by assumption)) (by decide) ?_
    | with_reducible refine Only.ite ?_ ?_
    | split
    | with_reducible refine Only.snd ?_ (by assumption)
    | with_reducible refine Only.fst ?_ (by assumption)
    | exact Only.refl _ _)

theorem orderHoldExpiry_only {ps0 : List Part} {u0 : State} (stage : OrderStage) (node : BitVec 12) (slot : BitVec 1) (cls : BitVec 3) (s : State)
    (hps : ∀ q ∈ ([.out, .raised, .now, .limits, .regs, .hostq, .fwd, .uarts, .cans, .counts, .pba] : List Part), q ∈ ps0) :
    Only ps0 u0 (orderHoldExpiry stage node slot cls s) ↔ Only ps0 u0 s := by
  refine Only.iff ?_ hps
  unfold orderHoldExpiry
  try dsimp only
  repeat' (first
    | simp (disch := decide) only [↓fwdOrderExpiry_only, ↓brgOrderExpiry_only, ↓sporeOrderExpiry_only, ↓Only.refl_iff]
    | with_reducible refine Only.ite ?_ ?_
    | split
    | exact Only.refl _ _)

end Sys2Proof.Machine
end

