-- ==== Sys2Proof/Laws/Settle.lean ====
section
/-! SUPPORT. What delivering a command's raises can do: nothing when there are none, and otherwise, while the priority lane of
the collector has room, only the parts that `raiseParts` names. -/

namespace Sys2Proof.Machine

/-! ### The level of a message -/

theorem msgLevel_faultMsg (n k l d : Nat) (a : Word) : msgLevel (faultMsg n k l d a) = l % 8 := by
  have ha := a.isLt
  unfold msgLevel faultMsg nbits
  rw [BitVec.toNat_ofNat]
  omega

/-- The priority lane has room for every urgent raise of the command. -/
def Calm (s : State) : Prop := s.raised.countP Raise.urgent ≤ 16 - s.flt.prio.length

/-! ### The operations of a delivery -/

/-- The whole collector is the same when neither of its parts is touched. -/
theorem flt_same {ps : List Part} {s t : State} (h : Only ps s t) (h1 : Part.flt ∉ ps) (h2 : Part.lanes ∉ ps) : t.flt = s.flt := by
  have a := h .flt h1
  have b := h .lanes h2
  simp only [Part.same, Faults.mk.injEq] at a b
  obtain ⟨x1, x2, x3⟩ := b
  cases hs : s.flt
  cases ht : t.flt
  rw [hs, ht] at a x1 x2 x3
  simp only at a x1 x2 x3
  simp only [Faults.mk.injEq]
  exact ⟨x1, x2, x3, a.2.2.2⟩

/-- The urgent raises that an operation leaves waiting. -/
def urgents (s : State) : Nat := s.raised.countP Raise.urgent

theorem urgents_eventP (s : State) (n k p : Nat) : urgents (s.eventP n k p) = urgents s := by
  simp [urgents, Raise.urgent]

theorem urgents_faultMs (s : State) (n k l d a : Nat) (h : l % 8 < 3) : urgents (s.faultMs n k l d a) = urgents s := by
  unfold State.faultMs State.faultEvery
  dsimp only
  split
  · rfl
  · have : ¬ 3 ≤ l % 8 := by omega
    simp [urgents, Raise.urgent, this]

theorem urgents_same {ps : List Part} {s t : State} (h : Only ps s t) (h1 : Part.raised ∉ ps) : urgents t = urgents s := by
  have e : t.raised = s.raised := h .raised h1
  rw [urgents, e, urgents]

theorem urgents_ite {c : Prop} [Decidable c] {a b : State} {n : Nat} (h1 : urgents a = n) (h2 : urgents b = n) :
    urgents (if c then a else b) = n := by
  split <;> assumption

theorem urgents_changeQueue (s : State) (q : Nat) (x : LocalQueue) : urgents (s.changeQueue q x) = urgents s := by
  unfold State.changeQueue
  dsimp only
  split
  · rw [urgents_eventP]; simp [urgents]
  · simp [urgents]

theorem urgents_takeSeq (s : State) (n : Nat) : urgents (s.takeSeq n).2 = urgents s :=
  urgents_same ((State.takeSeq_only s n (ps0 := [.counts]) (by decide)).2 (Only.refl _ _)) (by decide)

theorem urgents_storeLocalGap (s : State) (q : Nat) : urgents (s.storeLocalGap q) = urgents s := by
  unfold State.storeLocalGap
  exact urgents_ite ((urgents_changeQueue _ _ _).trans (urgents_takeSeq s _)) rfl

theorem urgents_bump (s : State) (o : Nat) : urgents (s.bump o) = urgents s := by simp [urgents]

theorem urgents_setQueue (s : State) (q : Nat) (x : LocalQueue) : urgents (s.setQueue q x) = urgents s := by simp [urgents]

theorem urgents_enqueueLocal (s : State) (q : Nat) (r : Record) : urgents (s.enqueueLocal q r) = urgents s := by
  unfold State.enqueueLocal
  dsimp only
  split
  · rw [urgents_bump, urgents_storeLocalGap]
  · split
    · rw [urgents_faultMs _ _ _ _ _ _ (by decide), urgents_setQueue, urgents_bump, urgents_storeLocalGap]
    · rw [urgents_changeQueue, urgents_storeLocalGap]

theorem urgents_ncpRaise (s : State) (p : Pair) (n : Nat) : urgents (s.ncpRaise p n) = urgents s :=
  urgents_same ((State.ncpRaise_only s p n (ps0 := [.counts, .pendA, .pendB, .urgent]) (by decide)).2 (Only.refl _ _)) (by decide)

theorem urgents_sendMsix (s : State) (v : Nat) : urgents (s.sendMsix v) = urgents s :=
  urgents_same ((State.sendMsix_only s v (ps0 := [.out, .pba]) (by decide)).2 (Only.refl _ _)) (by decide)

/-- What the routing of a raise can do (R437). -/
theorem urgents_routeRaise (s : State) (n typ kind : Nat) (b : EventBody) : urgents (s.routeRaise n typ kind b) = urgents s := by
  unfold State.routeRaise
  dsimp only
  have h1 : urgents (if nbit (s.ap (0x0F0000 + 4 * n)) 15 = true then
      if (s.takeSeq n).2.running 12 = true then
        (s.takeSeq n).2.enqueueLocal (nbits (s.ap (0x0F0000 + 4 * n)) 14 11)
          ((s.takeSeq n).2.record n typ kind b (s.takeSeq n).1)
      else (s.takeSeq n).2.bump 0x0F3204
    else s) = urgents s :=
    urgents_ite (urgents_ite ((urgents_enqueueLocal _ _ _).trans (urgents_takeSeq s n))
      ((urgents_bump _ _).trans (urgents_takeSeq s n))) rfl
  have h2 := fun (t : State) (h : urgents t = urgents s) (c : Bool) (p : Pair) =>
    urgents_ite (c := c = true) ((urgents_ncpRaise t p n).trans h) h
  have h3 := h2 _ (h2 _ h1 (nbit (s.ap (0x0F0000 + 4 * n)) 10) .a) (nbit (s.ap (0x0F0000 + 4 * n)) 5) .b
  exact urgents_ite ((urgents_sendMsix _ _).trans h3) h3

/-! ### Delivery -/

/-- What entering a lane of the collector can do, when the priority lane has room for an urgent message. -/
theorem laneEnter_calm (s : State) (m : DWord) (h : 3 ≤ msgLevel m → s.flt.prio.length < 16) :
    (s.laneEnter m).2 = false ∧
    (s.laneEnter m).1.flt.prio.length = s.flt.prio.length + (if 3 ≤ msgLevel m then 1 else 0) := by
  unfold State.laneEnter
  by_cases hu : 3 ≤ msgLevel m
  · rw [if_pos hu, if_pos (h hu), if_pos hu]
    exact ⟨rfl, by simp⟩
  · rw [if_neg hu, if_neg hu]
    by_cases hn : s.flt.norm.length < 64
    · rw [if_pos hn]
      exact ⟨rfl, rfl⟩
    · rw [if_neg hn]
      exact ⟨rfl, rfl⟩

theorem deliver_event (s : State) (n k : Nat) (b : EventBody) :
    s.deliverRaise (.event n k b) = s.routeRaise n 0 k b := by
  unfold State.deliverRaise
  dsimp only

theorem afterLane_false (t : State) : State.afterLane (t, false) = t := by
  unfold State.afterLane
  exact if_neg Bool.false_ne_true

theorem deliver_fault (s t : State) (n k l d : Nat) (a : Word) (h : s.laneEnter (faultMsg n k l d a) = (t, false)) :
    s.deliverRaise (.fault n k l d a) = t.routeRaise n 1 (k + l * 256) { payload := faultMsg n k l d a } := by
  unfold State.deliverRaise
  dsimp only
  rw [h, afterLane_false]

/-- The routing of a raise touches the parts that a raise may touch, but not the collector. -/
theorem routeRaise_calm (s : State) (n typ kind : Nat) (b : EventBody) :
    Only raiseParts s (s.routeRaise n typ kind b) ∧ (s.routeRaise n typ kind b).flt = s.flt := by
  refine ⟨(State.routeRaise_only _ _ _ _ _ (by decide)).2 (Only.refl _ _), ?_⟩
  exact flt_same (ps := [.out, .raised, .limits, .queues, .counts, .pba, .pendA, .pendB])
    ((State.routeRaise_only _ _ _ _ _ (by decide)).2 (Only.refl _ _)) (by decide) (by decide)

/-- What one delivery can do, when the priority lane has room for it. -/
theorem deliverRaise_calm (s : State) (r : Raise) (h : r.urgent = true → s.flt.prio.length < 16) :
    Only raiseParts s (s.deliverRaise r) ∧
    (s.deliverRaise r).flt.prio.length = s.flt.prio.length + (if r.urgent = true then 1 else 0) ∧
    (s.deliverRaise r).raised.countP Raise.urgent = s.raised.countP Raise.urgent := by
  cases r with
  | event n k b =>
    have h1 := routeRaise_calm s n 0 k b
    rw [deliver_event]
    exact ⟨h1.1, by rw [h1.2]; simp [Raise.urgent], urgents_routeRaise s n 0 k b⟩
  | fault n k l d a =>
    have hl : msgLevel (faultMsg n k l d a) = l % 8 := msgLevel_faultMsg n k l d a
    have hh : 3 ≤ msgLevel (faultMsg n k l d a) → s.flt.prio.length < 16 := fun h3 => h (by simpa [Raise.urgent, hl] using h3)
    have h0 : Only raiseParts s (s.laneEnter (faultMsg n k l d a)).1 :=
      (State.laneEnter_only _ _ (by decide)).2 (Only.refl _ _)
    have h0r : (s.laneEnter (faultMsg n k l d a)).1.raised = s.raised :=
      (State.laneEnter_only (ps0 := [.counts, .lanes]) _ _ (by decide)).2 (Only.refl _ _) .raised (by decide)
    obtain ⟨h2, h4⟩ := laneEnter_calm s (faultMsg n k l d a) hh
    generalize hq : s.laneEnter (faultMsg n k l d a) = q at h0 h0r h2 h4
    obtain ⟨t, full⟩ := q
    dsimp only at h0 h0r h2 h4
    subst h2
    rw [deliver_fault s t n k l d a hq]
    have h1 := routeRaise_calm t n 1 (k + l * 256) { payload := faultMsg n k l d a }
    refine ⟨h0.trans h1.1, ?_, by rw [← h0r]; exact urgents_routeRaise t n 1 (k + l * 256) { payload := faultMsg n k l d a }⟩
    rw [h1.2, h4, hl]
    simp [Raise.urgent]

theorem insertRaise_countP (r : Raise) (l : List Raise) :
    (insertRaise r l).countP Raise.urgent = (r :: l).countP Raise.urgent := by
  induction l with
  | nil => rfl
  | cons x xs ih =>
    unfold insertRaise
    split
    · rfl
    · simp only [List.countP_cons, ih]; omega

theorem sortRaises_countP (l : List Raise) : (sortRaises l).countP Raise.urgent = l.countP Raise.urgent := by
  have : ∀ (l a : List Raise), (l.foldl (fun a r => insertRaise r a) a).countP Raise.urgent =
      l.countP Raise.urgent + a.countP Raise.urgent := by
    intro l
    induction l with
    | nil => intro a; simp
    | cons r rs ih => intro a; simp only [List.foldl_cons, ih, insertRaise_countP, List.countP_cons]; omega
  simpa [sortRaises] using this l []

theorem deliverAll_calm (l : List Raise) : ∀ s : State, l.countP Raise.urgent ≤ 16 - s.flt.prio.length →
    Only raiseParts s (l.foldl State.deliverRaise s) ∧
    (l.foldl State.deliverRaise s).flt.prio.length = s.flt.prio.length + l.countP Raise.urgent ∧
    (l.foldl State.deliverRaise s).raised.countP Raise.urgent = s.raised.countP Raise.urgent := by
  induction l with
  | nil => intro s _; exact ⟨Only.refl _ s, rfl, rfl⟩
  | cons r rs ih =>
    intro s h
    simp only [List.countP_cons] at h
    have h1 := deliverRaise_calm s r (fun hu => by simp only [hu, if_true] at h; omega)
    have h2 := ih (s.deliverRaise r) (by rw [h1.2.1]; split at h <;> simp_all <;> omega)
    refine ⟨h1.1.trans h2.1, ?_, h2.2.2.trans h1.2.2⟩
    simp only [List.foldl_cons, h2.2.1, h1.2.1, List.countP_cons]
    omega

theorem only_raised (s : State) (l : List Raise) : Only raiseParts s { s with raised := l } :=
  (Only.with_raised _ (by decide)).2 (Only.refl _ _)

theorem settleLoop_calm (k : Nat) : ∀ s : State, Calm s → Only raiseParts s (settleLoop k s) := by
  induction k with
  | zero => intro s _; exact only_raised s []
  | succ k ih =>
    intro s h
    unfold settleLoop
    split
    · exact Only.refl _ s
    · have h1 := deliverAll_calm (sortRaises s.raised) { s with raised := [] } (by rw [sortRaises_countP]; exact h)
      refine ((only_raised s []).trans h1.1).trans (ih _ ?_)
      unfold Calm
      rw [h1.2.2]
      exact Nat.zero_le _

/-- Delivering a command's raises touches only `raiseParts`, while the priority lane has room for them. -/
theorem settle_calm (s : State) (h : Calm s) : Only raiseParts s (settle s) := by
  unfold settle
  split
  · exact Only.refl _ s
  · exact settleLoop_calm 64 s h

/-! ### Deliveries that do not enter node safe -/

/-- SAFE is the same when the collector's state is not touched. -/
theorem safe_same {ps : List Part} {s t : State} (h : Only ps s t) (h1 : Part.flt ∉ ps) : t.flt.safe = s.flt.safe := by
  have a : ({ t.flt with prio := [], norm := [], ovf := false } : Faults) =
    { s.flt with prio := [], norm := [], ovf := false } := h .flt h1
  have e := congrArg Faults.safe a
  exact e

theorem aliveCheck_safe (s : State) : s.aliveCheck.flt.safe = s.flt.safe := by
  unfold State.aliveCheck
  dsimp only
  split
  · rfl
  · refine (safe_same (ps := [.out, .raised, .now, .limits, .regs, .funcs, .dma, .ident, .time, .axes, .ncpA, .ncpB, .linkW, .linkE,
      .linkT, .fwd, .lines, .engines, .act, .cans, .brg, .usb, .power, .pair, .xact, .counts, .pendA, .pendB, .urgent])
      ((State.fall_only _ (by decide)).2 (Only.refl _ _)) (by decide)).trans ?_
    rw [emit_flt]

/-- Node safe sets SAFE. -/
theorem nodeSafe_safe (s : State) (m : DWord) (e : Option Nat) : (s.nodeSafe m e).flt.safe = true := by
  unfold State.nodeSafe
  split
  · assumption
  · dsimp only
    rw [event_flt, aliveCheck_safe]
    refine (safe_same (ps := [.out, .raised, .limits, .regs, .funcs, .dma, .time, .axes, .ncpA, .ncpB, .linkW, .linkE, .linkT, .fwd, .lines,
      .uarts, .engines, .act, .usb, .power, .xact, .counts, .pendA, .pendB, .pba, .pcie, .urgent]) (s := { s with flt := { s.flt with
        safe := true, safeAck := false, cause := m, causeEntry := e } }) ?_ (by decide)).trans rfl
    simp (disch := decide) only [↓State.staleSweep_only, ↓State.safeLines_only]
    refine Only.foldl (fun _ _ => Only.ite ?_ (Only.refl _ _)) (Only.foldl (fun _ _ => Only.ite ?_ (Only.refl _ _)) ?_)
    · exact (State.chanSafeOff_only _ _ (by decide)).2 (Only.refl _ _)
    · exact (State.haltOne_only _ _ (by decide)).2 (Only.refl _ _)
    · exact (State.bump_only _ _ (by decide)).2 (Only.refl _ _)

theorem raiseReg_log (p k : Nat) (h : k ≤ 0x10) : raiseReg (0x211000 + 0x20 * (p % 64) + k) = true := by
  have : p % 64 < 64 := Nat.mod_lt _ (by decide)
  simp only [raiseReg, Bool.or_eq_true, Bool.and_eq_true, decide_eq_true_eq, beq_iff_eq]
  omega

theorem setNat_counts {s : State} {o : Nat} (v : Nat) (h : raiseReg o = true) : Only [.counts] s (s.setNat o v) :=
  Only.counts _ h

/-- A log entry is written among the registers of `raiseReg`. -/
theorem logFault_counts (s : State) (m : DWord) (v : Verdict) (x : Nat) : Only [.counts] s (s.logFault m v x) := by
  unfold State.logFault
  dsimp only
  refine Only.ite (Only.counts _ (by decide)) ?_
  have h (k : Nat) (hk : k ≤ 0x10) := raiseReg_log (s.rv 0x210020) k hk
  exact Only.trans (Only.trans (Only.trans (Only.trans (Only.trans (setNat_counts _ (h 0 (by decide)))
    (setNat_counts _ (h 4 (by decide)))) (setNat_counts _ (h 8 (by decide)))) (setNat_counts _ (h 0xC (by decide))))
    (setNat_counts _ (h 0x10 (by decide)))) (setNat_counts _ (by decide))

/-- What a full priority lane does: SAFE is set afterwards, and while it already was, only counters and the log move. -/
theorem overflowSafe_calm (s : State) :
    s.overflowSafe.flt.safe = true ∧ (s.flt.safe = true → Only [.counts] s s.overflowSafe) := by
  unfold State.overflowSafe
  refine ⟨nodeSafe_safe _ _ _, fun h => ?_⟩
  have h1 : Only [.counts] s ((s.bump 0x210054).logFault overflowMsg
      { entry := none, level := 4, severe := false, escalated := false } 0xFF) :=
    Only.trans (Only.counts _ (by decide)) (logFault_counts _ _ _ _)
  have h2 := safe_same h1 (by decide)
  unfold State.nodeSafe
  rw [if_pos (h2.trans h)]
  exact h1

/-- What one delivery can do when it does not enter node safe. -/
theorem deliverRaise_leaves (s : State) (r : Raise) :
    (s.flt.safe = true → (s.deliverRaise r).flt.safe = true) ∧
    (((s.deliverRaise r).flt.safe = true → s.flt.safe = true) → Only raiseParts s (s.deliverRaise r)) := by
  cases r with
  | event n k b =>
    have h1 := routeRaise_calm s n 0 k b
    rw [deliver_event]
    exact ⟨fun h => by rw [h1.2]; exact h, fun _ => h1.1⟩
  | fault n k l d a =>
    have h0 : Only raiseParts s (s.laneEnter (faultMsg n k l d a)).1 :=
      (State.laneEnter_only _ _ (by decide)).2 (Only.refl _ _)
    have hs := safe_same h0 (by decide)
    generalize hq : s.laneEnter (faultMsg n k l d a) = q at h0 hs
    obtain ⟨t, full⟩ := q
    dsimp only at h0 hs
    have e : s.deliverRaise (.fault n k l d a) = (State.afterLane (t, full)).routeRaise n 1 (k + l * 256)
        { payload := faultMsg n k l d a } := by
      unfold State.deliverRaise
      dsimp only
      rw [hq]
    rw [e]
    have h1 := routeRaise_calm (State.afterLane (t, full)) n 1 (k + l * 256) { payload := faultMsg n k l d a }
    rw [h1.2]
    cases full with
    | false =>
      rw [afterLane_false] at h1 ⊢
      exact ⟨fun h => hs.trans h, fun _ => h0.trans h1.1⟩
    | true =>
      have ht : State.afterLane (t, true) = t.overflowSafe := by
        unfold State.afterLane
        exact if_pos rfl
      have h2 := overflowSafe_calm t
      rw [ht] at h1 ⊢
      exact ⟨fun _ => h2.1, fun h => h0.trans (((h2.2 (hs.trans (h h2.1))).mono (by decide)).trans h1.1)⟩

theorem deliverAll_leaves (l : List Raise) : ∀ s : State,
    (s.flt.safe = true → (l.foldl State.deliverRaise s).flt.safe = true) ∧
    (((l.foldl State.deliverRaise s).flt.safe = true → s.flt.safe = true) →
      Only raiseParts s (l.foldl State.deliverRaise s)) := by
  induction l with
  | nil => intro s; exact ⟨id, fun _ => Only.refl _ s⟩
  | cons r rs ih =>
    intro s
    have h1 := deliverRaise_leaves s r
    have h2 := ih (s.deliverRaise r)
    rw [List.foldl_cons]
    refine ⟨fun h => h2.1 (h1.1 h), fun h => ?_⟩
    exact (h1.2 (fun hd => h (h2.1 hd))).trans (h2.2 (fun hd => h1.1 (h hd)))

theorem settleLoop_leaves (k : Nat) : ∀ s : State,
    (s.flt.safe = true → (settleLoop k s).flt.safe = true) ∧
    (((settleLoop k s).flt.safe = true → s.flt.safe = true) → Only raiseParts s (settleLoop k s)) := by
  induction k with
  | zero => intro s; exact ⟨id, fun _ => only_raised s []⟩
  | succ k ih =>
    intro s
    unfold settleLoop
    split
    · exact ⟨id, fun _ => Only.refl _ s⟩
    · have h1 := deliverAll_leaves (sortRaises s.raised) { s with raised := [] }
      have h2 := ih ((sortRaises s.raised).foldl State.deliverRaise { s with raised := [] })
      refine ⟨fun h => h2.1 (h1.1 h), fun h => ?_⟩
      exact ((only_raised s []).trans (h1.2 (fun hd => h (h2.1 hd)))).trans (h2.2 (fun hd => h1.1 (h hd)))

/-- Delivering a command's raises touches only `raiseParts`, when it does not enter node safe. -/
theorem settle_leaves (s : State) (h : (settle s).flt.safe = true → s.flt.safe = true) : Only raiseParts s (settle s) := by
  unfold settle at h ⊢
  split
  · exact Only.refl _ s
  · rename_i hr
    rw [if_neg hr] at h
    exact (settleLoop_leaves 64 s).2 h

/-- A command that raises nothing is settled at once. -/
theorem settle_quiet (s : State) (h : s.raised = []) : settle s = s := by simp [settle, h]

theorem settleLoop_raised (k : Nat) : ∀ s : State, (settleLoop k s).raised = [] := by
  induction k with
  | zero => intro s; rfl
  | succ k ih =>
    intro s
    unfold settleLoop
    split
    · assumption
    · exact ih _

/-- No raise waits once a command has settled. -/
theorem settle_raised (s : State) : (settle s).raised = [] := by
  unfold settle
  split
  · assumption
  · exact settleLoop_raised 64 s

end Sys2Proof.Machine
end

