-- ==== Sys2Proof/Laws/Act.lean ====
section
/-! SUPPORT. What every command has in common: its outcome, its queue, and what it leaves as it was, once it is known what its
operation touches. -/

namespace Sys2Proof.Machine

theorem act_next (f : State → State) (s : State) : act f s = .next { settle (f s.begun) with pending := s.pending } := rfl

/-- A command that raises nothing has only its operation's effect. -/
theorem act_quiet {f : State → State} {s : State} (h : (f s.begun).raised = []) :
    act f s = .next { f s.begun with pending := s.pending } := by
  rw [act_next, settle_quiet _ h]

/-- The queue is not a command's to change. -/
theorem act_pending {f : State → State} {s t : State} (h : act f s = .next t) : t.pending = s.pending := by
  rw [act_next] at h
  injection h with h
  rw [← h]

theorem begun_only (s : State) : Only [.out, .raised, .urgent] s s.begun := by
  intro q hq
  cases q <;> first | rfl | exact fun _ _ => rfl | exact ⟨rfl, rfl, rfl⟩ | exact absurd (by decide) hq

/-- Putting the queue back leaves everything else. -/
theorem restore_only {ps : List Part} {s u : State} (h : Only ps s u) : Only ps s { u with pending := s.pending } := by
  intro q hq
  by_cases hp : q = .pending
  · subst hp; rfl
  · refine Part.same_trans (h q hq) ?_
    cases q <;> first | rfl | exact fun _ _ => rfl | exact ⟨rfl, rfl, rfl⟩ | exact absurd rfl hp

/-- A command leaves what its operation leaves, apart from what its raises touch, when the collector's own state is not its
to change and it does not enter node safe. -/
theorem act_leaves {f : State → State} {s t : State} {ps : List Part} (h : act f s = .next t)
    (hs : t.flt.safe = true → s.flt.safe = true) (hf : Only (raiseParts ++ ps) s.begun (f s.begun)) (hl : Part.flt ∉ ps) :
    Leaves ps s t := by
  rw [act_next] at h
  injection h with h
  subst h
  have hl' : Part.flt ∉ raiseParts ++ ps := by
    intro hm
    rcases List.mem_append.1 hm with hm | hm
    · exact absurd hm (by decide)
    · exact hl hm
  have h1 : (f s.begun).flt.safe = s.flt.safe := (safe_same hf hl').trans rfl
  have h2 := settle_leaves (f s.begun) (fun x => h1.trans (hs x))
  refine restore_only (Only.trans ((begun_only s).mono ?_) (hf.trans (h2.mono ?_)))
  · intro q hq
    exact List.mem_append_left _ (by revert q; decide)
  · intro q hq
    exact List.mem_append_left _ hq

/-- The same for a command whose operation may change the collector's state: whatever a delivery can touch counts. -/
theorem act_leaves_all {f : State → State} {s t : State} {ps : List Part} (h : act f s = .next t)
    (hf : Only (raiseParts ++ ps) s.begun (f s.begun))
    (hd : Only (raiseParts ++ ps) (f s.begun) (settle (f s.begun))) : Leaves ps s t := by
  rw [act_next] at h
  injection h with h
  subst h
  refine restore_only (Only.trans ((begun_only s).mono ?_) (hf.trans hd))
  intro q hq
  exact List.mem_append_left _ (by revert q; decide)

/-- A command whose operation raises nothing urgent leaves its operation's effect, whatever its raises do. -/
theorem act_calm {f : State → State} {s : State} {ps : List Part} (hf : Only ps s.begun (f s.begun)) (hu : Part.urgent ∉ ps)
    {P : State → Prop} (hP : ∀ t, Only (.pending :: raiseParts) (f s.begun) t → t.pending = s.pending → P t) :
    ∃ t, act f s = .next t ∧ P t := by
  refine ⟨_, rfl, hP _ ?_ rfl⟩
  have hc : Calm (f s.begun) := by
    have h : (f s.begun).raised.countP Raise.urgent = s.begun.raised.countP Raise.urgent := hf .urgent hu
    unfold Calm
    rw [h]
    exact Nat.zero_le _
  intro q hq
  by_cases hp : q = .pending
  · subst hp; exact absurd (by decide) hq
  · have h := settle_calm _ hc q (fun h => hq (List.mem_cons_of_mem _ h))
    refine Part.same_trans h ?_
    cases q <;> first | rfl | exact fun _ _ => rfl | exact ⟨rfl, rfl, rfl⟩ | exact absurd rfl hp

/-- The same for a command that can raise something urgent: its operation's effect stands unless the hub enters node safe. -/
theorem act_or_safe {f : State → State} {s : State} (hf : s.flt.safe = true → (f s.begun).flt.safe = true)
    {P : State → Prop} (hP : ∀ t, Only (.pending :: raiseParts) (f s.begun) t → t.pending = s.pending → P t) :
    ∃ t, act f s = .next t ∧ (EntersSafe s t ∨ P t) := by
  refine ⟨_, rfl, ?_⟩
  by_cases h : (settle (f s.begun)).flt.safe = true → (f s.begun).flt.safe = true
  · refine .inr (hP _ ?_ rfl)
    intro q hq
    by_cases hp : q = .pending
    · subst hp; exact absurd (by decide) hq
    · refine Part.same_trans (settle_leaves _ h q (fun h => hq (List.mem_cons_of_mem _ h))) ?_
      cases q <;> first | rfl | exact fun _ _ => rfl | exact ⟨rfl, rfl, rfl⟩ | exact absurd rfl hp
  · obtain ⟨h1, h2⟩ := Classical.not_imp.1 h
    exact .inl ⟨Bool.eq_false_iff.2 (fun x => h2 (hf x)), h1⟩

/-- Registers that a delivery does not write read the same after it. -/
theorem Only.rg {ps : List Part} {s t : State} (h : Only ps s t) (hr : Part.regs ∉ ps) {o : Nat} (ho : raiseReg o = false) :
    t.rg o = s.rg o := h .regs hr o ho

theorem Only.rv {ps : List Part} {s t : State} (h : Only ps s t) (hr : Part.regs ∉ ps) {o : Nat} (ho : raiseReg o = false) :
    t.rv o = s.rv o := by unfold State.rv; rw [h.rg hr ho]

end Sys2Proof.Machine
end

