-- ==== Sys2Proof/Laws/Reads.lean ====
section
/-! SUPPORT. Reads of registers and functions after the updates that every meaning makes: a value read is the one written, and
an update of another part reads as before. -/

namespace Sys2Proof.Machine

/-- A register below the blocks of the collector and the queues is written by no raise. -/
theorem raiseReg_lt {o : Nat} (h : o < 0x0E0000) : raiseReg o = false := by
  simp only [raiseReg, Bool.or_eq_false_iff, Bool.and_eq_false_iff, decide_eq_false_iff_not, beq_eq_false_iff_ne]
  omega

/-- The functions stay when an operation does not touch them. -/
theorem Only.funcs_eq {ps : List Part} {s t : State} (h : Only ps s t) (hr : Part.funcs ∉ ps) : t.funcs = s.funcs :=
  h .funcs hr

/-- A function reads alike in states with the same functions. -/
theorem func_congr {s t : State} (h : t.funcs = s.funcs) (i : Nat) : t.func i = s.func i := by unfold State.func; rw [h]

/-- A register reads alike in states with the same registers. -/
theorem rg_of_regs {s t : State} (o : Nat) (h : t.regs = s.regs) : t.rg o = s.rg o := by unfold State.rg; rw [h]

/-- The same for its value. -/
theorem rv_of_regs {s t : State} (o : Nat) (h : t.regs = s.regs) : t.rv o = s.rv o := by unfold State.rv; rw [rg_of_regs o h]

/-- A value written reads back, modulo its 32 bits. -/
@[simp] theorem setNat_rv_self (s : State) (o v : Nat) : (s.setNat o v).rv o = v % 2 ^ 32 := by
  unfold State.rv State.setNat; rw [setReg_rg]; simp

/-- A write of another register leaves a value. -/
theorem setNat_rv_other (s : State) {o p : Nat} (v : Nat) (h : p ≠ o) : (s.setNat o v).rv p = s.rv p := by
  unfold State.rv State.setNat; rw [setReg_rg_other _ _ h]

/-- A counter rises by one and saturates (R32). -/
theorem bump_rv_self (s : State) (o : Nat) : (s.bump o).rv o = min (s.rv o + 1) 0xFFFFFFFF := by
  unfold State.bump State.bumpBy; rw [setNat_rv_self]; omega

/-- Counting elsewhere leaves a value. -/
theorem bump_rv_other (s : State) {o p : Nat} (h : p ≠ o) : (s.bump o).rv p = s.rv p := by
  unfold State.bump State.bumpBy; rw [setNat_rv_other _ _ h]

/-- An output leaves registers. -/
theorem emit_rv (s : State) (o : Nat) (x : Output) : (s.emit x).rv o = s.rv o := rv_of_regs _ rfl

/-- A raise leaves registers until it is delivered. -/
theorem fault_rv (s : State) (o a b c d e : Nat) : (s.fault a b c d e).rv o = s.rv o := rv_of_regs _ rfl

/-- The same for an event. -/
theorem event_rv (s : State) (o a b : Nat) (c : EventBody) : (s.event a b c).rv o = s.rv o := rv_of_regs _ rfl

/-- Time passing leaves registers. -/
theorem advanceTo_rv (s : State) (o a : Nat) : (s.advanceTo a).rv o = s.rv o := rv_of_regs _ rfl

/-- The start of a command leaves registers. -/
theorem begun_rv (s : State) (o : Nat) : s.begun.rv o = s.rv o := rv_of_regs _ rfl

/-- The same for the register itself. -/
theorem begun_rg (s : State) (o : Nat) : s.begun.rg o = s.rg o := rg_of_regs _ rfl

/-- A change of a function leaves registers. -/
theorem setFunc_rv (s : State) (o a : Nat) (b : Func) : (s.setFunc a b).rv o = s.rv o := rv_of_regs _ rfl

end Sys2Proof.Machine
end

