-- ==== Sys2Proof/Tests/Slice0.lean ====
section
/-! SUPPORT. The tests: terms that are not well formed are refused, the table's words spell no command, a few values that the
spec prints, and for every statement with hypotheses a state and operands that meet them. -/

namespace Sys2Proof.Tests

open Sys2Proof Sys2Proof.Machine

set_option Elab.async false

/-- A sender. -/
def someone : Src := { port := 0, slot := 0, node := 5 }

/-- Every check of `Instr.WellFormed` refuses an ill-formed term: accesses. -/
theorem test_ill_formed_accesses :
    ¬ (Instr.registerWrite someone 0 .byte 0x100).WellFormed ∧ ¬ (Instr.registerWrite someone 0 .half 0x10000).WellFormed ∧
    ¬ (Instr.wideValueWrite someone 2 0).WellFormed ∧ ¬ (Instr.wideValueRead someone 1).WellFormed ∧
    ¬ (Instr.apertureAccess .bar2 0 false 0 [] .clean).WellFormed ∧
    ¬ (Instr.apertureAccess .bar2 0 true 4 [1] .clean).WellFormed ∧ ¬ (Instr.appendWrite someone 0 []).WellFormed ∧
    ¬ (Instr.appendWrite someone 255 [1, 2]).WellFormed ∧ ¬ (Instr.shadowBankWrite 0 []).WellFormed ∧
    ¬ (Instr.shadowBankWrite 0x1FFFF [1, 2]).WellFormed ∧ ¬ (Instr.brgShadowWrite 0xFFFF [1, 2]).WellFormed ∧
    ¬ (Instr.bar0Access 0 false []).WellFormed ∧ ¬ (Instr.bar4Access 0x7FFFFF false 2 [] .clean).WellFormed ∧
    ¬ (Instr.bar4Access 0 true 2 [] .clean).WellFormed := by
  simp only [Instr.WellFormed]; decide

/-- The same for the units on the ring, the lines and the buses. -/
theorem test_ill_formed_units :
    ¬ (Instr.moduleTransfer someone .t 0).WellFormed ∧
    ¬ (Instr.frameReceived .w { header := [], payload := [], trailer := 0 } .term).WellFormed ∧
    ¬ (Instr.canLoad someone 0 3).WellFormed ∧ ¬ (Instr.canReq someone 0 3).WellFormed ∧
    ¬ (Instr.canLoadreq someone 0 3).WellFormed ∧ ¬ (Instr.canAbort someone 0 3).WellFormed ∧
    ¬ (Instr.canFrameReceived 0 { data := List.replicate 65 0 } 0).WellFormed ∧
    ¬ (Instr.usbLread 0 65536).WellFormed ∧ ¬ (Instr.startSplit 7 false 0 0).WellFormed ∧
    ¬ (Instr.hostQueueEnable someone 0 0 12).WellFormed ∧ ¬ (Instr.dmaEnable someone 0 0 9).WellFormed ∧
    ¬ (Instr.dmaDescriptorComplete 0 []).WellFormed := by
  simp only [Instr.WellFormed]; decide

/-- The same for USB lengths. -/
theorem test_ill_formed_usb_length : ¬ (Instr.usbLwrite 0 (List.replicate 65536 0)).WellFormed := by
  show ¬ ((List.replicate 65536 (0 : Byte)).length ≤ 65535)
  rw [List.length_replicate]; omega

/-- The same for the pairs, the power and the repair commands. -/
theorem test_ill_formed_rest :
    ¬ (Instr.hkLd .a 1 0 false 0 .clean).WellFormed ∧ ¬ (Instr.hkSd .a 14 0 false 0).WellFormed ∧
    ¬ (Instr.hkAxr .a 3 0 0).WellFormed ∧ ¬ (Instr.hkTimTime .a 1).WellFormed ∧ ¬ (Instr.hkTimTick .a 1).WellFormed ∧
    ¬ (Instr.hkTimFraction .a 14).WellFormed ∧ ¬ (Instr.railOutOfWindow 7).WellFormed ∧
    ¬ (Instr.domainOn 0).WellFormed ∧ ¬ (Instr.domainTestDone 9 {}).WellFormed ∧
    ¬ (Instr.domainSwitchOnFailed 15).WellFormed ∧ ¬ (Instr.domainOff 0).WellFormed ∧
    ¬ (Instr.temperatureMeasurement 3 0).WellFormed ∧ ¬ (Instr.scrubRead 0x2A 0 .clean false).WellFormed := by
  simp only [Instr.WellFormed]; decide

/-- No word spells a command: the opcode table gives its rows no bits. -/
theorem test_no_word_spells_a_command : decodeTableWord 32 0x12345678 = none := rfl

/-- CRC-32 of IEEE 802.3 over "123456789" is its published check value (R116). -/
theorem test_crc32_check : crc32 [0x31, 0x32, 0x33, 0x34, 0x35, 0x36, 0x37, 0x38, 0x39] = 0xCBF43926 := by decide +kernel

/-- CRC-16 with polynomial 0x1021 and initial value 0xFFFF over "123456789" has the published check value (R116). -/
theorem test_crc16_check : crc16 [0x31, 0x32, 0x33, 0x34, 0x35, 0x36, 0x37, 0x38, 0x39] = 0x29B1 := by decide +kernel

/-- CRC-8 with polynomial 0x07 over the six bytes 1 to 6, by hand calculation (R95). -/
theorem test_crc8_zero : crc8 0 = 0 ∧ crc8 1 = 7 := by decide +kernel

/-- SHA-256 of "abc" is the value that FIPS 180-4 prints. -/
theorem test_sha256_abc : (sha256 [0x61, 0x62, 0x63]).take 4 = [0xBA, 0x78, 0x16, 0xBF] := by decide +kernel

/-- DIV of 0x8000_0000 by −1 gives 0x8000_0000 with V (R421). -/
theorem test_div_corner : (aluDiv {} 0x80000000 0xFFFFFFFF).1 = 0x80000000 ∧ (aluDiv {} 0x80000000 0xFFFFFFFF).2.v = true ∧
    (aluDiv {} 7 0).1 = 0xFFFFFFFF ∧ (aluRem {} 7 0).1 = 7 := by decide +kernel

/-- After reset every register of the identity block reads as printed (R8). -/
theorem test_reset_id : (State.reset.regValue 0).toNat = 0x48107416 := by decide +kernel

/-- A hub at work: every domain ON, every function RUNNING, links UP, node 5 leading. -/
def live : State :=
  { power := { doms := (List.range 15).map (fun d => (d, { st := .on, tested := true })) }
    funcs := (List.range 256).map (fun i => (i, { st := .running }))
    now := 20000000000
    boot := { valid := true, released := true, bist := true, cause := 1, phase := 8 }
    rpr := { done := true }
    ident := { number := 5, lead := true }
    linkW := { st := .up, rate := 1, lastSup := 19999999000 }
    linkE := { st := .up, rate := 1, lastSup := 19999999000 }
    linkT := { st := .up, rate := 1, lastSup := 19999999000 }
    dieA := { linkUp := true, buckOn := true }
    dieB := { linkUp := true, buckOn := true }
    pcie := { linkUp := true, width := 2, speed := 3, bme := true, msixEn := true }
    usb := {
      vbus := true, vbusOk := true, pullup := true, fn := { config := true, addr := 3 }, hub := { config := true, addr := 2 } }
    ncpA := { pc := 0x10000000, sys := true }
    ncpB := { pc := 0x10000000, sys := true }
    canPll := true
    pair := { role := .leading, entered := some 5, rest := false }
    fwd := { epoch := 3 } }

/-! ### Hypotheses that are met -/

/-- Counting up along a rising range. -/
theorem count_range (n : Nat) : ∀ a k : Nat,
    ((List.range' a n).zipIdx k).foldl (fun (m : Nat) (e : Nat × Nat) => if e.1 = m then m + 1 else m) a = a + n := by
  induction n with
  | zero => intro a k; rfl
  | succ n ih =>
    intro a k
    rw [List.range'_succ, List.zipIdx_cons, List.foldl_cons, if_pos rfl, ih (a + 1) (k + 1)]
    omega
/-- A bank of actions with every slot valid. -/
@[irreducible] def fullBank : List Host.Cell := (List.range 4096).map (fun i => (32 * i + 3, 0x80))
/-- Its valid slots are all 4,096. -/
theorem validSlots_fullBank : validSlots fullBank = List.range 4096 := by
  have h : ∀ l : List Nat, (l.map (fun i => ((32 * i + 3, 0x80) : Host.Cell))).filterMap (fun c =>
      if c.1 % 32 = 3 ∧ nbit c.2.toNat 7 then some (c.1 / 32) else none) = l := by
    intro l
    induction l with
    | nil => rfl
    | cons x xs ih =>
      rw [List.map_cons, List.filterMap_cons_some (b := x), ih]
      have h1 : (32 * x + 3) % 32 = 3 := by omega
      have h2 : (32 * x + 3) / 32 = x := by omega
      have h3 : nbit (0x80 : BitVec 8).toNat 7 = true := by decide
      simp only [h1, h2, h3, and_self, if_true]
  unfold fullBank; exact h _
/-- It has no free slot (R254). -/
theorem full_bank_has_no_free_slot (s : State) (ha : s.act.active = false) (h : s.act.bank0 = fullBank) :
    s.freeActSlot = none := by
  have hb : s.act.bank = fullBank := by unfold Act.bank; rw [ha]; exact h
  unfold State.freeActSlot
  rw [hb, validSlots_fullBank, List.range_eq_range']
  dsimp only
  rw [count_range 4096 0 0]
  rfl

/-- States and operands that meet the hypotheses of the clauses of LineDieWindowAndKeyGuard. -/
theorem witness_LineDieWindowAndKeyGuard_1 :
    (∃ (s : State), s.ldx.phase = LdxPhase.fetching ∧ s.dieUp s.ldx.d = true ∧ s.ldx.waiters = []) ∧
    (∃ (w : Src) (ws : List Src) (s : State), s.ldx.phase = LdxPhase.fetching ∧ s.dieUp s.ldx.d = true ∧
      s.ldx.waiters = w :: ws) ∧
    (∃ (s : State), s.ldx.phase = LdxPhase.idle ∧ s.ldxGuarded = false) ∧
    (∃ (h : RegHit) (f : Nat) (s : State), s.ldx.phase = LdxPhase.writing ∧ s.dieUp s.ldx.d = true ∧
      regHit (ldOff s.ldx.d s.ldx.addr.toNat) = some h ∧ h.row.acc = Acc.rwx ∧ h.owner? = some f ∧
      (s.func f).st = FState.stopped ∧
      h.row.ok (BitVec.toNat (maskedWrite (s.rg (ldOff s.ldx.d s.ldx.addr.toNat)) h.row.mask (BitVec.setWidth 32 s.ldx.wdata ||| BitVec.setWidth 32 s.ldx.wmask <<< 16))) = true) ∧
    (∃ (s : State), s.ldx.phase = LdxPhase.idle ∧ s.ldx.rdvalid = true) ∧
    (∃ (s : State), s.ldx.phase ≠ LdxPhase.idle ∧ s.ldx.waiters = []) ∧
    (∃ (s : State), s.rv 2490384 = 0) ∧
    (∃ (data : Word) (s : State), maskedWrite (s.rg 2490384) 255 data = 0) ∧
    (∃ (data : Word) (s : State), s.keyOpen = false ∧ BitVec.toNat data % 65536 = 23100) ∧
    (∃ (src : Src) (data : Word) (s : State), s.keyHeldBy src = true ∧ BitVec.toNat data % 65536 = 23100) ∧
    (∃ (src : Src) (data : Word) (s : State), s.keyHeldBy src = true ∧ BitVec.toNat data % 65536 ≠ 23100) ∧
    (∃ (src : Src) (s : State), s.keyOpen = true ∧ s.keyHeldBy src = false) :=
  ⟨⟨{ live with ldx := { phase := .fetching } }, by decide +kernel⟩,
   ⟨{ port := 1, slot := 1, node := 1 }, [],
      { live with ldx := { phase := .fetching, waiters := [{ port := 1, slot := 1, node := 1 }] } }, by decide +kernel⟩,
   ⟨live, by decide +kernel⟩,
   ⟨(regHit (ldOff ({ live with funcs := (live.funcs.filter (fun f => !([40].contains f.1))), ldx := { addr := 0x1000, phase := .writing } } : State).ldx.d ({ live with funcs := (live.funcs.filter (fun f => !([40].contains f.1))), ldx := { addr := 0x1000, phase := .writing } } : State).ldx.addr.toNat)).get (by decide +kernel),
      40,
      { live with funcs := (live.funcs.filter (fun f => !([40].contains f.1))), ldx := { addr := 0x1000, phase := .writing } },
      by and_intros <;> first | decide +kernel | exact (Option.some_get _).symm⟩,
   ⟨{ live with ldx := { rdvalid := true } }, by decide +kernel⟩,
   ⟨{ live with ldx := { phase := .fetching } }, by decide +kernel⟩,
   ⟨live, by decide +kernel⟩,
   ⟨1, live, by decide +kernel⟩,
   ⟨0x5a3c, live, by decide +kernel⟩,
   ⟨{ port := 1, slot := 1, node := 1 }, 0x5a3c,
      { live with key := { opened := true, port := 1, slot := 1, node := 1, since := 0x4a817c800 } },
      by decide +kernel⟩,
   ⟨{ port := 1, slot := 1, node := 1 }, 1,
      { live with key := { opened := true, port := 1, slot := 1, node := 1, since := 0x4a817c800 } },
      by decide +kernel⟩,
   ⟨{ port := 2, slot := 1, node := 1 },
      { live with key := { opened := true, port := 1, slot := 1, node := 1, since := 0x4a817c800 } },
      by decide +kernel⟩⟩

/-- States and operands that meet the hypotheses of the clauses of LineDieWindowAndKeyGuard. -/
theorem witness_LineDieWindowAndKeyGuard_2 :
    (∃ (data : Word) (s : State), s.keyOpen = false ∧ BitVec.toNat data % 65536 ≠ 23100) ∧
    (∃ (s : State), s.key.opened = true) :=
  ⟨⟨1, live, by decide +kernel⟩,
   ⟨{ live with key := { opened := true } }, by decide +kernel⟩⟩

/-- States and operands that meet the hypotheses of the clauses of FunctionCommands. -/
theorem witness_FunctionCommands :
    (∃ (id : BitVec 8) (s : State), (s.func id.toNat).st = FState.stopped ∧ (s.func id.toNat).presv = false) ∧
    (∃ (id : BitVec 8) (s : State), (s.func id.toNat).st = FState.stopped ∧ (s.func id.toNat).presv = true ∧
      (s.func id.toNat).dirty = false) ∧
    (∃ (id : BitVec 8) (s : State), (s.func id.toNat).st = FState.halted) ∧
    (∃ (id : BitVec 8) (s : State), id.toNat ≠ 5 ∧ s.flt.aliveOn = false ∧ (s.func id.toNat).st = FState.starting) ∧
    (∃ (id : BitVec 8) (s : State), id.toNat ≠ 5 ∧ s.flt.aliveOn = false ∧ (s.func id.toNat).st = FState.running) ∧
    (∃ (id : BitVec 8) (s : State), id.toNat ≠ 5 ∧ s.aliveMay = true ∧ id.toNat ≠ 15 ∧
      (s.func id.toNat).st = FState.starting) ∧
    (∃ (id : BitVec 8) (s : State), id.toNat ≠ 5 ∧ s.aliveMay = true ∧ id.toNat ≠ 15 ∧
      (s.func id.toNat).st = FState.running) ∧
    (∃ (id : BitVec 8) (s : State), (s.func id.toNat).verdict 1 = none) ∧
    (∃ (id : BitVec 8) (s : State), (s.func id.toNat).verdict 2 = none) ∧
    (∃ (id : BitVec 8) (s : State), (s.func id.toNat).verdict 3 = none) ∧
    (∃ (id : BitVec 8) (s : State), (s.func id.toNat).verdict 4 = none) ∧
    (∃ (id : BitVec 8) (s : State), (s.func id.toNat).verdict 5 = none) :=
  ⟨⟨1, { live with funcs := (live.funcs.filter (fun f => !([1].contains f.1))) }, by decide +kernel⟩,
   ⟨1, { live with funcs := (tabSet {} live.funcs 1 { presv := true }) }, by decide +kernel⟩,
   ⟨1, { live with funcs := (tabSet {} live.funcs 1 { st := .halted }) }, by decide +kernel⟩,
   ⟨1, { live with funcs := (tabSet {} live.funcs 1 { st := .starting }) }, by decide +kernel⟩,
   ⟨1, live, by decide +kernel⟩,
   ⟨1, { live with funcs := (tabSet {} live.funcs 1 { st := .starting }) }, by decide +kernel⟩,
   ⟨1, live, by decide +kernel⟩,
   ⟨1, live, by decide +kernel⟩,
   ⟨1, { live with funcs := (live.funcs.filter (fun f => !([1].contains f.1))) }, by decide +kernel⟩,
   ⟨1, { live with funcs := (tabSet {} live.funcs 1 { st := .stopping }) }, by decide +kernel⟩,
   ⟨1, live, by decide +kernel⟩,
   ⟨1, live, by decide +kernel⟩⟩

/-- States and operands that meet the hypotheses of the clauses of FunctionTransitions. -/
theorem witness_FunctionTransitions :
    (∃ (id : BitVec 8) (s : State), (s.func id.toNat).st = FState.starting ∧ s.waits id.toNat = false) ∧
    (∃ (id : BitVec 8) (s : State), s.waits id.toNat = true) ∧
    (∃ (id : BitVec 8) (s : State), (s.func id.toNat).st = FState.stopping ∧ s.stillWorks id.toNat = false ∧
      (s.func id.toNat).restart = false) ∧
    (∃ (id : BitVec 8) (s : State), (s.func id.toNat).st = FState.stopping ∧ s.stillWorks id.toNat = false ∧
      (s.func id.toNat).restart = true) ∧
    (∃ (id : BitVec 8) (s : State), s.stillWorks id.toNat = true) :=
  ⟨⟨1, { live with funcs := (tabSet {} live.funcs 1 { st := .starting }) }, by decide +kernel⟩,
   ⟨31, { live with flt := { safe := true }, fronds := [(0, { pending := true })] }, by decide +kernel⟩,
   ⟨1, { live with funcs := (tabSet {} live.funcs 1 { st := .stopping }) }, by decide +kernel⟩,
   ⟨1, { live with funcs := (tabSet {} live.funcs 1 { st := .stopping, restart := true }) }, by decide +kernel⟩,
   ⟨16, { live with funcs := (tabSet {} (tabSet {} live.funcs 16 { st := .stopping }) 128 { st := .stopping }) },
      by decide +kernel⟩⟩

/-- States and operands that meet the hypotheses of the clauses of StrobesAndWideValues. -/
theorem witness_StrobesAndWideValues :
    (∃ (id : BitVec 8) (s : State), (s.func id.toNat).st ≠ FState.absent) ∧
    (∃ (id : BitVec 8) (s : State), (s.func id.toNat).st = FState.absent) ∧
    (∃ (off : BitVec 24) (data : Word) (h : RegHit) (f : Nat) (s : State), s.boot.request = 0 ∧ off.toNat % 4 = 0 ∧
      off.toNat < 851968 ∧ regHit off.toNat = some h ∧ h.row.acc = Acc.rwx ∧ h.row.full = false ∧ h.owner? = some f ∧
      (s.func f).st = FState.stopped ∧ s.accepts off.toNat h data = true ∧ h.row.wide = Wide.stage) ∧
    (∃ (off : BitVec 24) (data : Word) (h : RegHit) (f : Nat) (s : State) (k : Nat), s.boot.request = 0 ∧
      off.toNat % 4 = 0 ∧ off.toNat < 851968 ∧ regHit off.toNat = some h ∧ h.row.acc = Acc.rwx ∧ h.row.full = false ∧
      h.owner? = some f ∧ (s.func f).st = FState.stopped ∧ s.accepts off.toNat h data = true ∧
      h.row.wide = Wide.apply k) ∧
    (∃ (src : Src) (off : BitVec 24) (h : RegHit) (k : Nat) (s : State), off.toNat % 4 = 0 ∧ off.toNat ≠ 2490372 ∧
      s.testWindow off.toNat = false ∧ s.popReg off.toNat EccResult.clean = none ∧
      s.latchAt src.port.toNat off.toNat = none ∧ regHit off.toNat = some h ∧ h.row.wide = Wide.latch k) ∧
    (∃ (src : Src) (off : BitVec 24) (w : Word) (s : State), off.toNat % 4 = 0 ∧ off.toNat ≠ 2490372 ∧
      s.testWindow off.toNat = false ∧ s.popReg off.toNat EccResult.clean = none ∧
      s.latchAt src.port.toNat off.toNat = some w) :=
  ⟨⟨1, live, by decide +kernel⟩,
   ⟨1, { live with funcs := (tabSet {} live.funcs 1 { st := .absent }) }, by decide +kernel⟩,
   ⟨0x51000, 1, (regHit (0x51000#24).toNat).get (by decide +kernel), 3,
      { live with funcs := (live.funcs.filter (fun f => !([3].contains f.1))) },
      by and_intros <;> first | decide +kernel | exact (Option.some_get _).symm⟩,
   ⟨0x51004, 1, (regHit (0x51004#24).toNat).get (by decide +kernel), 3,
      { live with funcs := (live.funcs.filter (fun f => !([3].contains f.1))) }, 1,
      by and_intros <;> first | decide +kernel | exact (Option.some_get _).symm⟩,
   ⟨{ port := 1, slot := 1, node := 1 }, 4, (regHit (4#24).toNat).get (by decide +kernel), 1, live,
      by and_intros <;> first | decide +kernel | exact (Option.some_get _).symm⟩,
   ⟨{ port := 1, slot := 0, node := 9 }, 8, 7, { live with latches := [((1, 8), 7)] }, by decide +kernel⟩⟩

/-- States and operands that meet the hypotheses of the clauses of RegisterWritesChecked. -/
theorem witness_RegisterWritesChecked :
    (∃ (size : Width) (s : State), s.boot.request = 0 ∧ size ≠ Width.word) ∧
    (∃ (off : BitVec 24) (s : State), s.boot.request = 0 ∧ off.toNat % 4 ≠ 0) ∧
    (∃ (off : BitVec 24) (s : State), s.boot.request = 0 ∧ off.toNat % 4 = 0 ∧ regHit off.toNat = none ∧
      appliedOf? off.toNat = none ∧ s.testWindow off.toNat = false) ∧
    (∃ (off : BitVec 24) (s : State) (reason : Nat), s.boot.request = 0 ∧ off.toNat % 4 = 0 ∧
      (∃ h, regHit off.toNat = some h ∧ (reason = 5 ∧ h.row.acc = Acc.ro ∨ (reason = 6 ∧ h.row.acc = Acc.rwx ∧ ∃ f, h.owner? = some f ∧ (s.func f).st = FState.absent) ∨ reason = 0 ∧ h.row.acc = Acc.rwx ∧ ∃ f, h.owner? = some f ∧ (s.func f).st ≠ FState.absent ∧ (s.func f).st ≠ FState.stopped))) ∧
    (∃ (src : Src) (off : BitVec 24) (h : RegHit) (s : State), s.boot.request = 0 ∧ off.toNat % 4 = 0 ∧
      regHit off.toNat = some h ∧ h.row.acc = Acc.rwk ∧ s.keyHeldBy src = false) ∧
    (∃ (off : BitVec 24) (data : Word) (h : RegHit) (f : Nat) (s : State), s.boot.request = 0 ∧ off.toNat % 4 = 0 ∧
      off.toNat < 851968 ∧ regHit off.toNat = some h ∧ h.row.acc = Acc.rwx ∧ h.row.wide = Wide.no ∧
      h.row.full = false ∧ h.owner? = some f ∧ (s.func f).st = FState.stopped ∧ s.accepts off.toNat h data = true) :=
  ⟨⟨.byte, live, by decide +kernel⟩,
   ⟨1, live, by decide +kernel⟩,
   ⟨0x7ff0, live, by decide +kernel⟩,
   ⟨0, live, 5, by decide +kernel⟩,
   ⟨{ port := 1, slot := 1, node := 1 }, 0x22000c, (regHit (0x22000c#24).toNat).get (by decide +kernel), live,
      by and_intros <;> first | decide +kernel | exact (Option.some_get _).symm⟩,
   ⟨0x50000, 1, (regHit (0x50000#24).toNat).get (by decide +kernel), 3,
      { live with funcs := (live.funcs.filter (fun f => !([3].contains f.1))) },
      by and_intros <;> first | decide +kernel | exact (Option.some_get _).symm⟩⟩

/-- States and operands that meet the hypotheses of the clauses of ResetsLeave. -/
theorem witness_ResetsLeave :
    (∃ (src : Src) (s : State), s.boot.request = 0 ∧ s.keyHeldBy src = true ∧ s.boot.valid = false ∧
      s.boot.waiting = false) ∧
    (∃ (s : State), s.boot.released = false ∧ s.bootSetOn = true ∧ s.rpr.pbFail = false) :=
  ⟨⟨{ port := 1, slot := 1, node := 1 },
      { live with key := { opened := true, port := 1, slot := 1, node := 1, since := 0x4a817c800 }, boot := { live.boot with valid := false } },
      by decide +kernel⟩,
   ⟨{ live with boot := { live.boot with released := false } }, by decide +kernel⟩⟩

/-- States and operands that meet the hypotheses of the clauses of SelfTestAndRepair. -/
theorem witness_SelfTestAndRepair :
    (∃ (s : State), s.rpr.done = false ∧ s.boot.bist = false ∧ s.bootSetOn = true) ∧
    (∃ (s : State), s.boot.bist = true ∧ s.rpr.done = false) ∧
    (∃ (d : BitVec 4) (s : State), testedDomain d.toNat = true ∧ s.domOn d.toNat = true ∧
      (s.dom d.toNat).tested = false) ∧
    (∃ (s : State), s.boot.request = 0 ∧ s.rpr.done = true ∧ s.boot.released = true ∧ s.boot.valid = false ∧
      s.boot.waiting = false ∧ s.boot.listDue = false ∧ s.rpr.pbFail = true) ∧
    (∃ (s : State), s.boot.request = 0 ∧ s.rpr.done = true ∧ s.boot.released = true ∧ s.boot.valid = false ∧
      s.boot.waiting = false ∧ s.boot.listDue = false ∧ s.overlayChoice = none ∧ s.ident.straps.boot = 1) ∧
    (∃ (mid : BitVec 7) (row : BitVec 12), row.toNat < memRows mid.toNat) ∧
    (∃ (mid : BitVec 7) (row : BitVec 12) (k : Nat) (s : State), s.retireDue mid.toNat row.toNat = true ∧
      s.mayRetire mid.toNat = true ∧ mid.toNat < 96 ∧ lowestFree (memSpares mid.toNat) (s.mem mid.toNat).rows = some k) ∧
    (∃ (s : State), s.peat.job.isSome = true) ∧
    (∃ (s : State), s.peat.job = none ∧ s.rpr.mapPend = true) ∧
    (∃ (die : Die) (sec : BitVec 5) (s : State), s.retireDue (sectorMid (dieIndex die)) sec.toNat = true ∧
      s.peat.job = none ∧ s.dieUp (dieIndex die) = true) ∧
    (∃ (nn : BitVec 4) (s : State), (s.frond nn.toNat).spare ≠ 7) :=
  ⟨⟨{ live with rpr := {}, boot := { live.boot with bist := false } }, by decide +kernel⟩,
   ⟨{ live with rpr := {} }, by decide +kernel⟩,
   ⟨8, { live with power := { live.power with doms := (tabSet {} live.power.doms 8 { st := .on }) } },
      by decide +kernel⟩,
   ⟨{ live with rpr := { live.rpr with pbFail := true }, boot := { live.boot with valid := false } },
      by decide +kernel⟩,
   ⟨{ live with ident := { live.ident with straps := { boot := 1 } }, boot := { live.boot with valid := false } },
      by decide +kernel⟩,
   ⟨1, 1, by decide +kernel⟩,
   ⟨1, 1, 0, { live with rpr := { live.rpr with marks := [{ mid := 1, row := 1 }] } }, by decide +kernel⟩,
   ⟨{ live with peat := { job := some { op := 1, slot := false, kslot := 1, fid := 1, len := 1, node := 1 } } },
      by decide +kernel⟩,
   ⟨{ live with rpr := { live.rpr with mapPend := true } }, by decide +kernel⟩,
   ⟨.la, 3, { live with rpr := { live.rpr with marks := [{ mid := 96, row := 3, go := true }] } }, by decide +kernel⟩,
   ⟨1, live, by decide +kernel⟩⟩

/-- States and operands that meet the hypotheses of the clauses of PeatCommands. -/
theorem witness_PeatCommands_1 :
    (∃ (src : Src) (s : State), s.peat.job = none ∧ (peatGuarded 1 = true → s.keyHeldBy src = true)) ∧
    (∃ (src : Src) (s : State), s.peat.job = none ∧ (peatGuarded 2 = true → s.keyHeldBy src = true)) ∧
    (∃ (src : Src) (s : State), s.peat.job = none ∧ (peatGuarded 3 = true → s.keyHeldBy src = true)) ∧
    (∃ (src : Src) (s : State), s.peat.job = none ∧ (peatGuarded 4 = true → s.keyHeldBy src = true)) ∧
    (∃ (src : Src) (s : State), s.peat.job = none ∧ (peatGuarded 5 = true → s.keyHeldBy src = true)) ∧
    (∃ (src : Src) (s : State), s.peat.job = none ∧ (peatGuarded 6 = true → s.keyHeldBy src = true)) ∧
    (∃ (src : Src) (s : State), s.peat.job = none ∧ (peatGuarded 7 = true → s.keyHeldBy src = true)) ∧
    (∃ (src : Src) (s : State), s.peat.job = none ∧ (peatGuarded 8 = true → s.keyHeldBy src = true)) ∧
    (∃ (src : Src) (s : State), s.peat.job = none ∧ (peatGuarded 9 = true → s.keyHeldBy src = true)) ∧
    (∃ (src : Src) (s : State), s.peat.job = none ∧ (peatGuarded 10 = true → s.keyHeldBy src = true)) ∧
    (∃ (src : Src) (s : State), s.peat.job = none ∧ (peatGuarded 11 = true → s.keyHeldBy src = true)) ∧
    (∃ (src : Src) (s : State), s.peat.job = none ∧ (peatGuarded 12 = true → s.keyHeldBy src = true)) :=
  ⟨⟨{ port := 1, slot := 1, node := 1 },
      { live with key := { opened := true, port := 1, slot := 1, node := 1, since := 0x4a817c800 } },
      by decide +kernel⟩,
   ⟨{ port := 1, slot := 1, node := 1 },
      { live with key := { opened := true, port := 1, slot := 1, node := 1, since := 0x4a817c800 } },
      by decide +kernel⟩,
   ⟨{ port := 1, slot := 1, node := 1 },
      { live with key := { opened := true, port := 1, slot := 1, node := 1, since := 0x4a817c800 } },
      by decide +kernel⟩,
   ⟨{ port := 1, slot := 1, node := 1 },
      { live with key := { opened := true, port := 1, slot := 1, node := 1, since := 0x4a817c800 } },
      by decide +kernel⟩,
   ⟨{ port := 1, slot := 1, node := 1 },
      { live with key := { opened := true, port := 1, slot := 1, node := 1, since := 0x4a817c800 } },
      by decide +kernel⟩,
   ⟨{ port := 1, slot := 1, node := 1 },
      { live with key := { opened := true, port := 1, slot := 1, node := 1, since := 0x4a817c800 } },
      by decide +kernel⟩,
   ⟨{ port := 1, slot := 1, node := 1 },
      { live with key := { opened := true, port := 1, slot := 1, node := 1, since := 0x4a817c800 } },
      by decide +kernel⟩,
   ⟨{ port := 1, slot := 1, node := 1 },
      { live with key := { opened := true, port := 1, slot := 1, node := 1, since := 0x4a817c800 } },
      by decide +kernel⟩,
   ⟨{ port := 1, slot := 1, node := 1 },
      { live with key := { opened := true, port := 1, slot := 1, node := 1, since := 0x4a817c800 } },
      by decide +kernel⟩,
   ⟨{ port := 1, slot := 1, node := 1 },
      { live with key := { opened := true, port := 1, slot := 1, node := 1, since := 0x4a817c800 } },
      by decide +kernel⟩,
   ⟨{ port := 1, slot := 1, node := 1 },
      { live with key := { opened := true, port := 1, slot := 1, node := 1, since := 0x4a817c800 } },
      by decide +kernel⟩,
   ⟨{ port := 1, slot := 1, node := 1 },
      { live with key := { opened := true, port := 1, slot := 1, node := 1, since := 0x4a817c800 } },
      by decide +kernel⟩⟩

/-- States and operands that meet the hypotheses of the clauses of PeatCommands. -/
theorem witness_PeatCommands_2 :
    (∃ (src : Src) (s : State), s.peat.job = none ∧ (peatGuarded 13 = true → s.keyHeldBy src = true)) ∧
    (∃ (s : State), s.peat.job.isSome = true) ∧
    (∃ (s : State) (j : PeatJob), s.boot.request = 0 ∧ s.peat.job = some j ∧ j.op = 1 ∧
      s.slotReadable j.slot = true ∧ s.slotProtected j.slot = false) ∧
    (∃ (s : State) (j : PeatJob), s.boot.request = 0 ∧ s.peat.job = some j ∧ j.op = 2 ∧
      s.slotReadable j.slot = true ∧ s.slotProtected j.slot = false ∧ (s.slotOf j.slot).st = 0 ∧
      (s.slotOf j.slot).erased = true ∧ 0 < j.len ∧ j.len ≤ 27648) ∧
    (∃ (s : State) (j : PeatJob), s.boot.request = 0 ∧ s.peat.job = some j ∧ j.op = 4 ∧ s.slotReadable j.slot = true) ∧
    (∃ (s : State) (j : PeatJob), s.boot.request = 0 ∧ s.peat.job = some j ∧ j.op = 5 ∧ s.boot.valid = true ∧
      s.boot.slot = 1 ∧ s.slotReadable false = true ∧ s.peat.slotA.st = 3) ∧
    (∃ (s : State) (j : PeatJob), s.boot.request = 0 ∧ s.peat.job = some j ∧ j.op = 9 ∧ s.dieUp 0 = true ∧
      s.dieUp 1 = true) ∧
    (∃ (s : State) (j : PeatJob), s.boot.request = 0 ∧ s.peat.job = some j ∧ j.op = 10 ∧ s.dieUp 0 = true ∧
      s.dieUp 1 = true) ∧
    (∃ (s : State) (j : PeatJob), s.boot.request = 0 ∧ s.peat.job = some j ∧ j.op = 12 ∧
      nbit s.keysProgrammed j.kslot = true ∧ nbit s.peat.revoked.toNat j.kslot = false) ∧
    (∃ (s : State) (j : PeatJob), s.boot.request = 0 ∧ s.peat.job = some j ∧ j.op = 13 ∧ s.boot.valid = true) ∧
    (∃ (s : State) (j : PeatJob), s.boot.request = 0 ∧ s.peat.job = some j ∧ j.op = 1 ∧
      s.slotReadable j.slot = true ∧ s.slotProtected j.slot = true) ∧
    (∃ (s : State) (j : PeatJob), s.boot.request = 0 ∧ s.peat.job = some j ∧ j.op = 2 ∧
      s.slotReadable j.slot = true ∧ s.slotProtected j.slot = true) :=
  ⟨⟨{ port := 1, slot := 1, node := 1 },
      { live with key := { opened := true, port := 1, slot := 1, node := 1, since := 0x4a817c800 } },
      by decide +kernel⟩,
   ⟨{ live with peat := { job := some { op := 1, slot := false, kslot := 1, fid := 1, len := 1, node := 1 } } },
      by decide +kernel⟩,
   ⟨{ live with peat := { job := some { op := 1, slot := false, kslot := 1, fid := 1, len := 1, node := 1 } } },
      { op := 1, slot := false, kslot := 1, fid := 1, len := 1, node := 1 }, by decide +kernel⟩,
   ⟨{ live with peat := { job := some { op := 2, slot := false, kslot := 1, fid := 1, len := 1, node := 1 } } },
      { op := 2, slot := false, kslot := 1, fid := 1, len := 1, node := 1 }, by decide +kernel⟩,
   ⟨{ live with peat := { job := some { op := 4, slot := false, kslot := 1, fid := 1, len := 1, node := 1 } } },
      { op := 4, slot := false, kslot := 1, fid := 1, len := 1, node := 1 }, by decide +kernel⟩,
   ⟨{ live with peat := { slotA := { st := 3 }, job := some { op := 5, slot := false, kslot := 1, fid := 1, len := 1, node := 1 } }, boot := { live.boot with slot := 1 } },
      { op := 5, slot := false, kslot := 1, fid := 1, len := 1, node := 1 }, by decide +kernel⟩,
   ⟨{ live with peat := { job := some { op := 9, slot := false, kslot := 1, fid := 1, len := 1, node := 1 } } },
      { op := 9, slot := false, kslot := 1, fid := 1, len := 1, node := 1 }, by decide +kernel⟩,
   ⟨{ live with peat := { job := some { op := 10, slot := false, kslot := 1, fid := 1, len := 1, node := 1 } } },
      { op := 10, slot := false, kslot := 1, fid := 1, len := 1, node := 1 }, by decide +kernel⟩,
   ⟨{ live with peat := { keys := [(1, List.replicate 32 0)], job := some { op := 12, slot := true, kslot := 1, fid := 0, len := 1, node := 9 } } },
      { op := 12, slot := true, kslot := 1, fid := 0, len := 1, node := 9 }, by decide +kernel⟩,
   ⟨{ live with peat := { job := some { op := 13, slot := false, kslot := 1, fid := 1, len := 1, node := 1 } } },
      { op := 13, slot := false, kslot := 1, fid := 1, len := 1, node := 1 }, by decide +kernel⟩,
   ⟨{ live with peat := { job := some { op := 1, slot := false, kslot := 1, fid := 1, len := 1, node := 1 } }, boot := { live.boot with slot := 1 } },
      { op := 1, slot := false, kslot := 1, fid := 1, len := 1, node := 1 }, by decide +kernel⟩,
   ⟨{ live with peat := { job := some { op := 2, slot := false, kslot := 1, fid := 1, len := 1, node := 1 } }, boot := { live.boot with slot := 1 } },
      { op := 2, slot := false, kslot := 1, fid := 1, len := 1, node := 1 }, by decide +kernel⟩⟩

/-- States and operands that meet the hypotheses of the clauses of PeatCommands. -/
theorem witness_PeatCommands_3 :
    (∃ (s : State) (j : PeatJob), s.peat.job = some j ∧ j.dies.all s.dieUp = false) :=
  ⟨{ live with dieA := {}, peat := { job := some { op := 10, slot := true, kslot := 1, fid := 0, len := 1, node := 9 } } },
      { op := 10, slot := true, kslot := 1, fid := 0, len := 1, node := 9 }, by decide +kernel⟩

/-- States and operands that meet the hypotheses of the clauses of SuppliesAndDomains. -/
theorem witness_SuppliesAndDomains_1 :
    (∃ (rail : BitVec 3), rail.toNat ≤ 4) ∧
    (∃ (die : Die) (s : State), (s.die (dieIndex die)).buckOn = true ∧ (s.die (dieIndex die)).buckOff = none) ∧
    (∃ (die : Die) (at0 : Nat) (s : State), (s.die (dieIndex die)).buckOff = some at0) ∧
    (∃ (s : State), Roomy 1 s) ∧
    (∃ (src : Src) (s : State), s.boot.request = 0 ∧ s.boot.listDue = false ∧ s.keyHeldBy src = true ∧
      s.rv 2228224 = 13007) ∧
    (∃ (src : Src) (s : State), s.boot.request = 0 ∧ s.boot.listDue = false ∧ s.keyHeldBy src = true ∧
      s.rv 2228224 = 13007 + 2 ^ 4 ∧ (functionsIn 4).any s.active = false) ∧
    (∃ (src : Src) (s : State), s.boot.request = 0 ∧ s.boot.listDue = false ∧ s.keyHeldBy src = true ∧
      s.rv 2228224 = 13007 + 2 ^ 5 ∧ (functionsIn 5).any s.active = false) ∧
    (∃ (src : Src) (s : State), s.boot.request = 0 ∧ s.boot.listDue = false ∧ s.keyHeldBy src = true ∧
      s.rv 2228224 = 13007 + 2 ^ 8 ∧ (functionsIn 8).any s.active = false) ∧
    (∃ (src : Src) (s : State), s.boot.request = 0 ∧ s.boot.listDue = false ∧ s.keyHeldBy src = true ∧
      s.rv 2228224 = 13007 + 2 ^ 10 ∧ (functionsIn 10).any s.active = false) ∧
    (∃ (src : Src) (s : State), s.boot.request = 0 ∧ s.boot.listDue = false ∧ s.keyHeldBy src = true ∧
      s.rv 2228224 = 13007 + 2 ^ 11 ∧ (functionsIn 11).any s.active = false) ∧
    (∃ (src : Src) (s : State), s.boot.request = 0 ∧ s.boot.listDue = false ∧ s.keyHeldBy src = true ∧
      s.rv 2228224 = 13007 + 2 ^ 14 ∧ (functionsIn 14).any s.active = false) ∧
    (∃ (src : Src) (s : State) (id : Nat), s.boot.request = 0 ∧ s.boot.listDue = false ∧ s.keyHeldBy src = true ∧
      s.rv 2228224 = 13007 + 2 ^ 4 ∧ List.find? s.active (functionsIn 4) = some id) :=
  ⟨⟨1, by decide +kernel⟩,
   ⟨.la, live, by decide +kernel⟩,
   ⟨.la, 1, { live with dieA := { live.dieA with buckOff := some 1 } }, by decide +kernel⟩,
   ⟨live, by delta Roomy; decide +kernel⟩,
   ⟨{ port := 1, slot := 1, node := 1 },
      { live with key := { opened := true, port := 1, slot := 1, node := 1, since := 0x4a817c800 } },
      by decide +kernel⟩,
   ⟨{ port := 1, slot := 1, node := 1 },
      { live with regs := [(0x220000, 0x32df)], funcs := (live.funcs.filter (fun f => !([11].contains f.1))), key := { opened := true, port := 1, slot := 1, node := 1, since := 0x4a817c800 } },
      by decide +kernel⟩,
   ⟨{ port := 1, slot := 1, node := 1 },
      { live with regs := [(0x220000, 0x32ef)], funcs := (live.funcs.filter (fun f => !([9, 10].contains f.1))), key := { opened := true, port := 1, slot := 1, node := 1, since := 0x4a817c800 } },
      by decide +kernel⟩,
   ⟨{ port := 1, slot := 1, node := 1 },
      { live with regs := [(0x220000, 0x33cf)], funcs := (live.funcs.filter (fun f => !([13].contains f.1))), key := { opened := true, port := 1, slot := 1, node := 1, since := 0x4a817c800 } },
      by decide +kernel⟩,
   ⟨{ port := 1, slot := 1, node := 1 },
      { live with regs := [(0x220000, 0x36cf)], funcs := (live.funcs.filter (fun f => !([16, 17, 18, 19, 20, 21, 22, 23, 128, 129, 130, 131, 132, 133, 134, 135, 136, 137, 138, 139, 140, 141, 142, 143, 144, 145, 146, 147, 148, 149, 150, 151, 152, 153, 154, 155, 156, 157, 158, 159, 160, 161, 162, 163, 164, 165, 166, 167, 208, 209, 210, 211, 212, 213, 214, 215, 216, 217, 218, 219, 220, 221, 222, 223, 240, 241, 242, 243, 244, 245, 246, 247].contains f.1))), key := { opened := true, port := 1, slot := 1, node := 1, since := 0x4a817c800 } },
      by decide +kernel⟩,
   ⟨{ port := 1, slot := 1, node := 1 },
      { live with regs := [(0x220000, 0x3acf)], funcs := (live.funcs.filter (fun f => !([24, 25, 26, 27, 28, 29, 30, 31, 168, 169, 170, 171, 172, 173, 174, 175, 176, 177, 178, 179, 180, 181, 182, 183, 184, 185, 186, 187, 188, 189, 190, 191, 192, 193, 194, 195, 196, 197, 198, 199, 200, 201, 202, 203, 204, 205, 206, 207, 224, 225, 226, 227, 228, 229, 230, 231, 232, 233, 234, 235, 236, 237, 238, 239, 248, 249, 250, 251, 252, 253, 254, 255].contains f.1))), key := { opened := true, port := 1, slot := 1, node := 1, since := 0x4a817c800 } },
      by decide +kernel⟩,
   ⟨{ port := 1, slot := 1, node := 1 },
      { live with regs := [(0x220000, 0x72cf)], funcs := (live.funcs.filter (fun f => !([32, 33, 34, 35, 36, 37, 38, 39].contains f.1))), key := { opened := true, port := 1, slot := 1, node := 1, since := 0x4a817c800 } },
      by decide +kernel⟩,
   ⟨{ port := 1, slot := 1, node := 1 },
      { live with regs := [(0x220000, 0x32df)], key := { opened := true, port := 1, slot := 1, node := 1, since := 0x4a817c800 } },
      11, by decide +kernel⟩⟩

/-- States and operands that meet the hypotheses of the clauses of SuppliesAndDomains. -/
theorem witness_SuppliesAndDomains_2 :
    (∃ (src : Src) (s : State) (id : Nat), s.boot.request = 0 ∧ s.boot.listDue = false ∧ s.keyHeldBy src = true ∧
      s.rv 2228224 = 13007 + 2 ^ 5 ∧ List.find? s.active (functionsIn 5) = some id) ∧
    (∃ (src : Src) (s : State) (id : Nat), s.boot.request = 0 ∧ s.boot.listDue = false ∧ s.keyHeldBy src = true ∧
      s.rv 2228224 = 13007 + 2 ^ 8 ∧ List.find? s.active (functionsIn 8) = some id) ∧
    (∃ (src : Src) (s : State) (id : Nat), s.boot.request = 0 ∧ s.boot.listDue = false ∧ s.keyHeldBy src = true ∧
      s.rv 2228224 = 13007 + 2 ^ 10 ∧ List.find? s.active (functionsIn 10) = some id) ∧
    (∃ (src : Src) (s : State) (id : Nat), s.boot.request = 0 ∧ s.boot.listDue = false ∧ s.keyHeldBy src = true ∧
      s.rv 2228224 = 13007 + 2 ^ 11 ∧ List.find? s.active (functionsIn 11) = some id) ∧
    (∃ (src : Src) (s : State) (id : Nat), s.boot.request = 0 ∧ s.boot.listDue = false ∧ s.keyHeldBy src = true ∧
      s.rv 2228224 = 13007 + 2 ^ 14 ∧ List.find? s.active (functionsIn 14) = some id) ∧
    (∃ (d : BitVec 4) (s : State), s.boot.request = 0 ∧ s.boot.listDue = false ∧
      (s.dom d.toNat).st = DomState.ramping) ∧
    (∃ (d : BitVec 4) (s : State), s.boot.request = 0 ∧ s.boot.listDue = false ∧ s.seqAt = some d.toNat ∧
      (s.dom d.toNat).st = DomState.on) ∧
    (∃ (die : Die) (s : State), (s.die (dieIndex die)).lost = true ∧ s.rb (ldOff (dieIndex die) 8192) 0 = true ∧
      (s.die (dieIndex die)).gatesFree = false) :=
  ⟨⟨{ port := 1, slot := 1, node := 1 },
      { live with regs := [(0x220000, 0x32ef)], key := { opened := true, port := 1, slot := 1, node := 1, since := 0x4a817c800 } },
      9, by decide +kernel⟩,
   ⟨{ port := 1, slot := 1, node := 1 },
      { live with regs := [(0x220000, 0x33cf)], key := { opened := true, port := 1, slot := 1, node := 1, since := 0x4a817c800 } },
      13, by decide +kernel⟩,
   ⟨{ port := 1, slot := 1, node := 1 },
      { live with regs := [(0x220000, 0x36cf)], key := { opened := true, port := 1, slot := 1, node := 1, since := 0x4a817c800 } },
      16, by decide +kernel⟩,
   ⟨{ port := 1, slot := 1, node := 1 },
      { live with regs := [(0x220000, 0x3acf)], key := { opened := true, port := 1, slot := 1, node := 1, since := 0x4a817c800 } },
      24, by decide +kernel⟩,
   ⟨{ port := 1, slot := 1, node := 1 },
      { live with regs := [(0x220000, 0x72cf)], key := { opened := true, port := 1, slot := 1, node := 1, since := 0x4a817c800 } },
      32, by decide +kernel⟩,
   ⟨4, { live with power := { live.power with doms := (tabSet {} live.power.doms 4 { st := .ramping }) } },
      by decide +kernel⟩,
   ⟨4, live, by decide +kernel⟩,
   ⟨.la, { live with regs := [(0x1002000, 1)], dieA := { live.dieA with lost := true } }, by decide +kernel⟩⟩

/-- States and operands that meet the hypotheses of the clauses of PowerChannels. -/
theorem witness_PowerChannels :
    (∃ (nn : BitVec 4) (s : State), (s.chan nn.toNat).st = PcState.wait) ∧
    (∃ (nn : BitVec 4) (s : State), (s.chan nn.toNat).st = PcState.precharge) ∧
    (∃ (nn : BitVec 4) (s : State), (s.chan nn.toNat).st = PcState.ramp) ∧
    (∃ (nn : BitVec 4) (s : State), (s.chan nn.toNat).charging = true) ∧
    (∃ (nn : BitVec 4) (s : State), (s.chan nn.toNat).st ≠ PcState.off ∧ (s.chan nn.toNat).st ≠ PcState.safeoff ∧
      (s.chan nn.toNat).st ≠ PcState.reversed) ∧
    (∃ (nn : BitVec 4) (s : State), (s.chan nn.toNat).st = PcState.reversed) ∧
    (∃ (nn : BitVec 4) (s : State), (s.chan nn.toNat).st = PcState.on ∧ (s.chan nn.toNat).pg = false) ∧
    (∃ (nn : BitVec 4) (s : State), (s.chan nn.toNat).st = PcState.tripped ∧ (s.chan nn.toNat).latched = false) ∧
    (∃ (nn : BitVec 4) (s : State), (s.chan nn.toNat).pg = true) ∧
    (∃ (nn : BitVec 4) (s : State), (s.chan nn.toNat).st = PcState.tripped ∧ (s.chan nn.toNat).latched = true) :=
  ⟨⟨1, { live with power := { live.power with chans := [(1, { st := .wait })] } }, by decide +kernel⟩,
   ⟨1,
      { live with out := [.gate 1 (some false) (some true)], power := { live.power with chans := [(1, { st := .precharge })] } },
      by decide +kernel⟩,
   ⟨1,
      { live with out := [.gate 1 (some true) (some true)], power := { live.power with chans := [(1, { st := .ramp })] } },
      by decide +kernel⟩,
   ⟨1,
      { live with out := [.gate 1 (some false) (some true)], power := { live.power with chans := [(1, { st := .precharge })] } },
      by decide +kernel⟩,
   ⟨1,
      { live with out := [.gate 1 (some true) (some false)], power := { live.power with chans := [(1, { st := .on })] } },
      by decide +kernel⟩,
   ⟨1, { live with power := { live.power with chans := [(1, { st := .reversed })] } }, by decide +kernel⟩,
   ⟨1,
      { live with out := [.gate 1 (some true) (some false)], power := { live.power with chans := [(1, { st := .on })] } },
      by decide +kernel⟩,
   ⟨1, { live with power := { live.power with chans := [(1, { st := .tripped })] } }, by decide +kernel⟩,
   ⟨1, { live with power := { live.power with chans := [(1, { pg := true })] } }, by decide +kernel⟩,
   ⟨1, { live with power := { live.power with chans := [(1, { st := .tripped, latched := true })] } },
      by decide +kernel⟩⟩

/-- States and operands that meet the hypotheses of the clauses of LinkStates. -/
theorem witness_LinkStates_1 :
    (∃ (l : Link) (s : State), (s.link l).st = LState.down ∧ (s.link l).hold = true) ∧
    (∃ (l : Link) (s : State), (s.link l).st = LState.down ∧ (s.link l).hold = false) ∧
    (∃ (l : Link) (s : State), (s.link l).st = LState.training ∧ (s.link l).clk = true) ∧
    (∃ (l : Link) (s : State), (s.link l).st = LState.training ∧ (s.link l).eq = true) ∧
    (∃ (s : State), (s.link Link.t).st ≠ LState.disabled) ∧
    (∃ (l : Link) (s : State), (s.link l).st ≠ LState.disabled ∧ s.rb (linkBase l + 108) 0 = false) ∧
    (∃ (l : Link) (s : State), s.autoRate l = true ∧ (s.link l).st ≠ LState.up ∧ (s.link l).st ≠ LState.disabled ∧
      (s.link l).hold = false) ∧
    (∃ (l : Link) (b : DWord) (s : State), PairSteady s ∧ (s.link l).st = LState.handshake ∧
      BitVec.toNat b % 256 ≠ 75) ∧
    (∃ (l : Link) (b : DWord) (s : State), PairSteady s ∧ (s.link l).st = LState.handshake ∧
      crc8 (BitVec.toNat b / 256 % 2 ^ 48) ≠ BitVec.ofNat 8 (nbits (BitVec.toNat b / 256) 55 48)) ∧
    (∃ (l : Link) (b : DWord) (s : State), PairSteady s ∧ (s.link l).st = LState.up ∧ BitVec.toNat b % 256 ≠ 75) ∧
    (∃ (l : Link) (b : DWord) (s : State), PairSteady s ∧ (s.link l).st = LState.up ∧
      crc8 (BitVec.toNat b / 256 % 2 ^ 48) ≠ BitVec.ofNat 8 (nbits (BitVec.toNat b / 256) 55 48)) ∧
    (∃ (l : Link) (b : DWord) (s : State), PairSteady s ∧ BitVec.toNat b % 256 = 75 ∧
      crc8 (BitVec.toNat b / 256 % 2 ^ 48) = BitVec.ofNat 8 (nbits (BitVec.toNat b / 256) 55 48) ∧
      (s.link l).st = LState.handshake ∧ 2 ≤ (s.link l).goodSup ∧ nbits (BitVec.toNat b / 256) 18 16 = 3 ∧
      (nbit (nbits (BitVec.toNat b / 256) 15 14) (if (s.link l).rate = 1 then 1 else 0) = true) ∧ l ≠ Link.t) :=
  ⟨⟨.w, { live with linkW := { live.linkW with st := .down, hold := true } }, by decide +kernel⟩,
   ⟨.w, { live with linkW := { live.linkW with st := .down } }, by decide +kernel⟩,
   ⟨.w, { live with linkW := { live.linkW with st := .training, clk := true } }, by decide +kernel⟩,
   ⟨.w, { live with linkW := { live.linkW with st := .training, eq := true } }, by decide +kernel⟩,
   ⟨live, by decide +kernel⟩,
   ⟨.w, live, by decide +kernel⟩,
   ⟨.w, { live with linkW := { live.linkW with st := .handshake } }, by decide +kernel⟩,
   ⟨.w, 0x800000003d0004a, { live with linkW := { live.linkW with st := .handshake } },
      by delta PairSteady; decide +kernel⟩,
   ⟨.w, 0x800000003d0004b, { live with linkW := { live.linkW with st := .handshake } },
      by delta PairSteady; decide +kernel⟩,
   ⟨.w, 0x800000003d0004c, live, by delta PairSteady; decide +kernel⟩,
   ⟨.w, 0x800000003d0004b, live, by delta PairSteady; decide +kernel⟩,
   ⟨.w, 0x700000003d0004b, { live with linkW := { live.linkW with st := .handshake, goodSup := 2 } },
      by delta PairSteady; decide +kernel⟩⟩

/-- States and operands that meet the hypotheses of the clauses of LinkStates. -/
theorem witness_LinkStates_2 :
    (∃ (l : Link) (b : DWord) (s : State), PairSteady s ∧ BitVec.toNat b % 256 = 75 ∧
      crc8 (BitVec.toNat b / 256 % 2 ^ 48) = BitVec.ofNat 8 (nbits (BitVec.toNat b / 256) 55 48) ∧
      (s.link l).st = LState.handshake ∧ 2 ≤ (s.link l).goodSup ∧ nbits (BitVec.toNat b / 256) 18 16 = 3 ∧
      (nbit (nbits (BitVec.toNat b / 256) 15 14) (if (s.link l).rate = 1 then 1 else 0) = true) ∧
      BitVec.ofNat 1 (nbits (BitVec.toNat b / 256) 12 12) ≠ s.slot) ∧
    (∃ (l : Link) (b : DWord) (s : State), PairSteady s ∧ BitVec.toNat b % 256 = 75 ∧
      crc8 (BitVec.toNat b / 256 % 2 ^ 48) = BitVec.ofNat 8 (nbits (BitVec.toNat b / 256) 55 48) ∧
      (s.link l).st = LState.handshake ∧ 2 ≤ (s.link l).goodSup ∧ nbits (BitVec.toNat b / 256) 18 16 = 4 ∧
      (nbit (nbits (BitVec.toNat b / 256) 15 14) (if (s.link l).rate = 1 then 1 else 0) = true) ∧ l ≠ Link.t) ∧
    (∃ (l : Link) (b : DWord) (s : State), PairSteady s ∧ BitVec.toNat b % 256 = 75 ∧
      crc8 (BitVec.toNat b / 256 % 2 ^ 48) = BitVec.ofNat 8 (nbits (BitVec.toNat b / 256) 55 48) ∧
      (s.link l).st = LState.handshake ∧ 2 ≤ (s.link l).goodSup ∧ nbits (BitVec.toNat b / 256) 18 16 = 4 ∧
      (nbit (nbits (BitVec.toNat b / 256) 15 14) (if (s.link l).rate = 1 then 1 else 0) = true) ∧
      BitVec.ofNat 1 (nbits (BitVec.toNat b / 256) 12 12) ≠ s.slot) ∧
    (∃ (l : Link) (b : DWord) (s : State), PairSteady s ∧ BitVec.toNat b % 256 = 75 ∧
      crc8 (BitVec.toNat b / 256 % 2 ^ 48) = BitVec.ofNat 8 (nbits (BitVec.toNat b / 256) 55 48) ∧
      (s.link l).st = LState.up ∧ nbits (BitVec.toNat b / 256) 18 16 = 5) ∧
    (∃ (l : Link) (b : DWord) (s : State), PairSteady s ∧ BitVec.toNat b % 256 = 75 ∧
      crc8 (BitVec.toNat b / 256 % 2 ^ 48) = BitVec.ofNat 8 (nbits (BitVec.toNat b / 256) 55 48) ∧
      (s.link l).st = LState.up ∧ nbit (BitVec.toNat b / 256) 19 = true) ∧
    (∃ (l : Link) (b : DWord) (s : State), PairSteady s ∧ BitVec.toNat b % 256 = 75 ∧
      crc8 (BitVec.toNat b / 256 % 2 ^ 48) = BitVec.ofNat 8 (nbits (BitVec.toNat b / 256) 55 48) ∧
      (s.link l).st = LState.up ∧ nbits (BitVec.toNat b / 256) 18 16 ≠ 5 ∧ nbit (BitVec.toNat b / 256) 19 = false) ∧
    (∃ (l : Link) (s : State), PairSteady s ∧ (s.link l).st ≠ LState.disabled ∧ s.hasCage l = true ∧
      (s.link l).st ≠ LState.down) ∧
    (∃ (l : Link) (s : State), PairSteady s ∧ (s.link l).st ≠ LState.disabled ∧ s.autoRate l = true) ∧
    (∃ (l : Link) (s : State), PairSteady s ∧ (s.link l).st ≠ LState.disabled ∧ (s.link l).st ≠ LState.down ∧
      (s.link l).st ≠ LState.up) ∧
    (∃ (l : Link) (s : State) (gap : Nat), PairSteady s ∧ (s.link l).st ≠ LState.disabled ∧
      (s.link l).st = LState.up ∧
      (15 ≤ (List.filter (fun p => decide ((s.link l).blockPos + gap + 1 < p + 64)) (s.link l).badHeaders).length)) :=
  ⟨⟨.w, 0x700000003d0004b, { live with linkW := { live.linkW with st := .handshake, goodSup := 2 } },
      by delta PairSteady; decide +kernel⟩,
   ⟨.w, 0x1100000004d0004b, { live with linkW := { live.linkW with st := .handshake, goodSup := 2 } },
      by delta PairSteady; decide +kernel⟩,
   ⟨.w, 0x1100000004d0004b, { live with linkW := { live.linkW with st := .handshake, goodSup := 2 } },
      by delta PairSteady; decide +kernel⟩,
   ⟨.w, 0x7a00000005d0004b, live, by delta PairSteady; decide +kernel⟩,
   ⟨.w, 0x560000000bd0004b, live, by delta PairSteady; decide +kernel⟩,
   ⟨.w, 0x700000003d0004b, live, by delta PairSteady; decide +kernel⟩,
   ⟨.w, live, by delta PairSteady; decide +kernel⟩,
   ⟨.w, live, by delta PairSteady; decide +kernel⟩,
   ⟨.w, { live with linkW := { live.linkW with st := .training } }, by delta PairSteady; decide +kernel⟩,
   ⟨.w,
      { live with linkW := { live.linkW with blockPos := 20, badHeaders := [0, 1, 2, 3, 4, 5, 6, 7, 8, 9, 10, 11, 12, 13, 14, 15] } },
      0, by delta PairSteady; decide +kernel⟩⟩

/-- States and operands that meet the hypotheses of the clauses of LinkCare. -/
theorem witness_LinkCare :
    (∃ (l : Link) (s : State), l ≠ Link.t ∧ (s.link l).mmBusy = false) ∧
    (∃ (l : Link) (s : State), (s.link l).mmBusy = true) ∧
    (∃ (n : Nat), n < 4) ∧
    (∃ (l : Link) (s : State) (i : BitVec 5) (n : Nat), 4 ≤ n ∧ tabGet 0 (s.link l).rounds i.toNat = 2) :=
  ⟨⟨.w, live, by decide +kernel⟩,
   ⟨.w, { live with linkW := { live.linkW with mmBusy := true } }, by decide +kernel⟩,
   ⟨1, by decide +kernel⟩,
   ⟨.w, { live with linkW := { live.linkW with rounds := [(1, 2)] } }, 1, 4, by decide +kernel⟩⟩

/-- States and operands that meet the hypotheses of the clauses of FramesMove. -/
theorem witness_FramesMove :
    (∃ (l : Link) (f : Frame) (s : State), s.linkIsUp l = true ∧ f.header.length ≠ 32) ∧
    (∃ (l : Link) (f : Frame) (s : State), s.linkIsUp l = true ∧ hcrcOk f.header = false) ∧
    (∃ (l : Link) (f : Frame) (s : State), l ≠ Link.t ∧ s.linkIsUp l = true ∧ s.linkIsUp (oppositePort l) = true ∧
      s.repeatMode = true ∧ f.header.length = 32 ∧ hcrcOk f.header = true ∧ (parseHdr f.header).pf = false ∧
      s.openAt l = none ∧ s.ap (330752 + 4 * linkFn l) = 0 ∧ f.trailer = crc32 f.payload ∧
      (parseHdr f.header).hops ≠ 1) ∧
    (∃ (c : Nat) (id : Nat) (cm : Bool) (rest : List (Nat × Bool)) (p : Packet) (s : State), (List.find? (fun c => !(s.bufQ (localQ c)).isEmpty) (List.range 8) = some c) ∧
      s.bufQ (localQ c) = (id, cm) :: rest ∧ s.packet id = some p ∧ p.mirror = false ∧
      sinkOf p.h p.payload ≠ Sink.other ∧ p.h.typ ≠ 7 ∧ ¬(p.h.typ = 0 ∧ p.payload.headD 0 = 1)) ∧
    (∃ (l : Link) (id : Nat) (cm : Bool) (p : Packet) (s : State), s.linkIsUp l = true ∧
      s.class0Head (8 * linkFn l) = some (id, cm) ∧ s.packet id = some p ∧ p.inPort.isSome = true ∧ p.h.typ ≠ 1) ∧
    (∃ (o : Orig) (rest : List Orig) (s : State), s.fwd.class0 = o :: rest ∧ s.repeatMode = false ∧
      frameBytes o.h.len.toNat * 500 ≤ s.bucketNow ∧ s.fwd.annLeft = 0 ∧ s.originationFits o = true) ∧
    (∃ (o : Orig) (rest : List Orig) (s : State), s.fwd.class0 = o :: rest ∧ s.repeatMode = false ∧
      frameBytes o.h.len.toNat * 500 ≤ s.bucketNow ∧ o.announce = true ∧ s.originationFits o = true) ∧
    (∃ (o : Orig) (rest : List Orig) (s : State), firstFitting s s.fwd.held [] [] = some (o, rest)) ∧
    (∃ (s : State), s.fwd.annLeft ≠ 0 ∧ s.repeatMode = false) ∧
    (∃ (node : BitVec 12) (slot : BitVec 1) (cls : BitVec 3) (e : Delivered × Nat) (es : List (Delivered × Nat)) (s : State), (tabGet { } s.fwd.streams ((node.toNat * 2 + slot.toNat) * 8 + cls.toNat)).held = e :: es) :=
  ⟨⟨.w, { header := [], payload := [], trailer := 1 }, live, by decide +kernel⟩,
   ⟨.w, { header := [], payload := [], trailer := 1 }, live, by decide +kernel⟩,
   ⟨.w,
      { header := [19, 0, 0, 144, 0, 64, 0, 0, 0, 80, 0, 0, 0, 0, 0, 0, 0, 0, 0, 0, 0, 0, 0, 0, 0, 0, 0, 0, 14, 52, 0, 0], payload := [], trailer := 0 },
      { live with funcs := (tabSet {} live.funcs 3 { st := .absent }) }, by decide +kernel⟩,
   ⟨1, 1, false, [], { h := { cls := 2, typ := 3 }, payload := [0, 0, 0, 15, 1, 2, 3, 4] },
      { live with fwd := { live.fwd with store := [(1, some { h := { cls := 2, typ := 3 }, payload := [0, 0, 0, 15, 1, 2, 3, 4] })], queues := [(25, [(1, false)])] } },
      by decide +kernel⟩,
   ⟨.w, 4, false, { h := { typ := 3 }, payload := [], inPort := some .e },
      { live with fwd := { live.fwd with store := [(4, some { h := { typ := 3 }, payload := [], inPort := some .e })], queues := [(0, [(4, false)]), (8, [(4, false)])] } },
      by decide +kernel⟩,
   ⟨{ h := {}, payload := [], route := .ring }, [],
      { live with fwd := { live.fwd with class0 := [{ h := {}, payload := [], route := .ring }] } }, by decide +kernel⟩,
   ⟨{ h := {}, payload := [], route := .ring, announce := true }, [],
      { live with fwd := { live.fwd with class0 := [{ h := {}, payload := [], route := .ring, announce := true }] } },
      by decide +kernel⟩,
   ⟨{ h := { cls := 2, typ := 3 }, payload := [], route := .ring }, [],
      { live with fwd := { live.fwd with held := [{ h := { cls := 2, typ := 3 }, payload := [], route := .ring }] } },
      by decide +kernel⟩,
   ⟨{ live with fwd := { live.fwd with annLeft := 1 } }, by decide +kernel⟩,
   ⟨1, 1, 1, ({ sink := .time, port := .w, h := {}, payload := [], arrival := 1, corrections := 1 }, 1), [],
      { live with fwd := { live.fwd with streams := [(25, { held := [({ sink := .time, port := .w, h := {}, payload := [], arrival := 1, corrections := 1 }, 1)] })] } },
      by decide +kernel⟩⟩

/-- States and operands that meet the hypotheses of the clauses of WindowDeliversOnce. -/
theorem witness_WindowDeliversOnce :
    (∃ (w : DupWin) (w' : DupWin) (e : BitVec 3) (q : BitVec 16), w.step e q = (WinVerdict.deliver, w')) :=
  ⟨{ st := .opened, e := 1, high := 5, seen := 1 }, { st := .opened, e := 1, high := 6, seen := 3 }, 1, 6,
      by decide +kernel⟩

/-- States and operands that meet the hypotheses of the clauses of ApertureAccesses. -/
theorem witness_ApertureAccesses :
    (∃ (a : BitVec 30) (len : BitVec 13) (s : State), s.boot.request = 0 ∧ len.toNat ≠ 0 ∧
      (s.window (a.toNat / 2 ^ 24)).en = false) ∧
    (∃ (src : Src) (a : BitVec 30) (len : BitVec 13) (s : State), s.boot.request = 0 ∧ len.toNat ≠ 0 ∧
      nbit (s.window (a.toNat / 2 ^ 24)).ports src.port.toNat = false) ∧
    (∃ (a : BitVec 30) (len : BitVec 13) (s : State), s.boot.request = 0 ∧ len.toNat ≠ 0 ∧
      (s.window (a.toNat / 2 ^ 24)).size < a.toNat % 2 ^ 24 + len.toNat) ∧
    (∃ (a : BitVec 30) (len : BitVec 13) (s : State), s.boot.request = 0 ∧ len.toNat ≠ 0 ∧
      (s.window (a.toNat / 2 ^ 24)).mc = true) ∧
    (∃ (src : Src) (a : BitVec 30) (len : BitVec 13) (s : State), s.boot.request = 0 ∧ len.toNat ≠ 0 ∧
      (s.window (a.toNat / 2 ^ 24)).en = true ∧ nbit (s.window (a.toNat / 2 ^ 24)).ports src.port.toNat = true ∧
      a.toNat % 2 ^ 24 + len.toNat ≤ (s.window (a.toNat / 2 ^ 24)).size ∧ (s.window (a.toNat / 2 ^ 24)).mc = false ∧
      s.running 5 = false) ∧
    (∃ (src : Src) (a : BitVec 30) (len : BitVec 13) (data : List Byte) (s : State), s.boot.request = 0 ∧
      len.toNat ≠ 0 ∧ (s.window (a.toNat / 2 ^ 24)).en = true ∧
      nbit (s.window (a.toNat / 2 ^ 24)).ports src.port.toNat = true ∧
      a.toNat % 2 ^ 24 + len.toNat ≤ (s.window (a.toNat / 2 ^ 24)).size ∧ (s.window (a.toNat / 2 ^ 24)).mc = false ∧
      s.running 5 = true ∧ s.isOwn (s.window (a.toNat / 2 ^ 24)).node = true ∧
      (s.window (a.toNat / 2 ^ 24)).hop = false ∧ (s.window (a.toNat / 2 ^ 24)).tsel = s.slot.toNat + 1 ∧
      spanRegion ((s.window (a.toNat / 2 ^ 24)).base + a.toNat % 2 ^ 24) len.toNat = Sum.inl 1 ∧
      data.length = len.toNat) ∧
    (∃ (src : Src) (a : BitVec 30) (len : BitVec 13) (s : State), s.boot.request = 0 ∧ len.toNat ≠ 0 ∧
      (s.window (a.toNat / 2 ^ 24)).en = true ∧ nbit (s.window (a.toNat / 2 ^ 24)).ports src.port.toNat = true ∧
      a.toNat % 2 ^ 24 + len.toNat ≤ (s.window (a.toNat / 2 ^ 24)).size ∧ (s.window (a.toNat / 2 ^ 24)).mc = false ∧
      s.running 5 = true ∧ s.isOwn (s.window (a.toNat / 2 ^ 24)).node = true ∧
      (s.window (a.toNat / 2 ^ 24)).hop = false ∧ (s.window (a.toNat / 2 ^ 24)).tsel ≠ 0 ∧
      (s.window (a.toNat / 2 ^ 24)).tsel ≠ s.slot.toNat + 1 ∧ s.linkIsUp Link.t = false) ∧
    (∃ (src : Src) (a : BitVec 30) (len : BitVec 13) (s : State), s.boot.request = 0 ∧ len.toNat ≠ 0 ∧
      (s.window (a.toNat / 2 ^ 24)).en = true ∧ nbit (s.window (a.toNat / 2 ^ 24)).ports src.port.toNat = true ∧
      a.toNat % 2 ^ 24 + len.toNat ≤ (s.window (a.toNat / 2 ^ 24)).size ∧ (s.window (a.toNat / 2 ^ 24)).mc = false ∧
      s.running 5 = true ∧ s.isOwn (s.window (a.toNat / 2 ^ 24)).node = false ∧
      (s.window (a.toNat / 2 ^ 24)).hop = false ∧ s.ident.number = 4095) ∧
    (∃ (src : Src) (a : BitVec 30) (len : BitVec 13) (s : State) (e : Nat), s.boot.request = 0 ∧ len.toNat ≠ 0 ∧
      (s.window (a.toNat / 2 ^ 24)).en = true ∧ nbit (s.window (a.toNat / 2 ^ 24)).ports src.port.toNat = true ∧
      a.toNat % 2 ^ 24 + len.toNat ≤ (s.window (a.toNat / 2 ^ 24)).size ∧ (s.window (a.toNat / 2 ^ 24)).mc = false ∧
      s.running 5 = true ∧ s.isOwn (s.window (a.toNat / 2 ^ 24)).node = false ∧
      (s.window (a.toNat / 2 ^ 24)).hop = false ∧ s.ident.number ≠ 4095 ∧ s.ringLeads = true ∧
      (s.window (a.toNat / 2 ^ 24)).pref = false ∧
      ((s.window (a.toNat / 2 ^ 24)).base + a.toNat % 2 ^ 24) % 512 + len.toNat ≤ 512 ∧ s.xact.waiting = [] ∧
      s.entryFree (s.window (a.toNat / 2 ^ 24)).dom = true ∧
      s.af (458816 + 4 * (s.window (a.toNat / 2 ^ 24)).dom) 2 0 ≠ 0 ∧
      (List.find? (fun e => (tabGet none s.xact.entries e).isNone) (List.range 512) = some e)) :=
  ⟨⟨1, 1, live, by decide +kernel⟩,
   ⟨{ port := 1, slot := 1, node := 1 }, 1, 1, live, by decide +kernel⟩,
   ⟨0x1000, 1, live, by decide +kernel⟩,
   ⟨1, 1, { live with applied := [(0x70100, 0x1000)] }, by decide +kernel⟩,
   ⟨{ port := 1, slot := 1, node := 1 }, 1, 1,
      { live with applied := [(0x70100, 0x8000), (0x70104, 2)], funcs := (live.funcs.filter (fun f => !([5].contains f.1))) },
      by decide +kernel⟩,
   ⟨{ port := 1, slot := 1, node := 1 }, 0, 4, [1, 2, 3, 4],
      { live with applied := [(0x70100, 0x8000), (0x70104, 15), (0x70108, 0x10000), (0x70114, 84)] },
      by decide +kernel⟩,
   ⟨{ port := 1, slot := 1, node := 1 }, 1, 1,
      { live with applied := [(0x70100, 0x8000), (0x70104, 2), (0x70114, 0xfff8)], linkT := { live.linkT with st := .disabled } },
      by decide +kernel⟩,
   ⟨{ port := 1, slot := 1, node := 1 }, 1, 1,
      { live with applied := [(0x70100, 0x8000), (0x70104, 2)], ident := { lead := true } }, by decide +kernel⟩,
   ⟨{ port := 1, slot := 1, node := 1 }, 1, 1, { live with applied := [(0x70100, 0x8000), (0x70104, 2)] }, 0,
      by decide +kernel⟩⟩

/-- States and operands that meet the hypotheses of the clauses of TargetServes. -/
theorem witness_TargetServes :
    (∃ (d : Delivered) (s : State), s.boot.request = 0 ∧
      (List.find? (fun d => d.sink == Sink.write) s.fwd.inbox = some d) ∧ d.late = false ∧ s.serves d = true ∧
      d.h.typ = 3 ∧ writeOk d = true ∧ writeRegion d.h.addr.toNat (writeBytes d) = some (Sum.inl 1) ∧
      s.permitted d.h.src.toNat d.h.sslot.toNat 1 = true) ∧
    (∃ (d : Delivered) (s : State), s.boot.request = 0 ∧
      (List.find? (fun d => d.sink == Sink.write) s.fwd.inbox = some d) ∧ d.late = false ∧ s.serves d = true ∧
      d.h.typ = 3 ∧ writeOk d = true ∧ writeRegion d.h.addr.toNat (writeBytes d) = some (Sum.inl 1) ∧
      s.permitted d.h.src.toNat d.h.sslot.toNat 1 = false) ∧
    (∃ (d : Delivered) (s : State), s.boot.request = 0 ∧
      (List.find? (fun d => d.sink == Sink.nonPosted) s.fwd.inbox = some d) ∧ d.late = false ∧ d.h.typ = 4 ∧
      d.h.mc = false ∧ d.h.src ≠ 4095 ∧ d.h.cls ≠ 0 ∧ s.serves d = false) ∧
    (∃ (d : Delivered) (s : State), s.boot.request = 0 ∧
      (List.find? (fun d => d.sink == Sink.nonPosted) s.fwd.inbox = some d) ∧ d.late = false ∧ d.h.typ = 4 ∧
      d.h.mc = false ∧ d.h.src ≠ 4095 ∧ d.h.cls ≠ 0 ∧ s.serves d = true ∧ writeOk d = true ∧
      writeRegion d.h.addr.toNat (writeBytes d) = some (Sum.inl 1) ∧
      s.permitted d.h.src.toNat d.h.sslot.toNat 1 = true) ∧
    (∃ (d : Delivered) (s : State), (List.find? (fun d => d.sink == Sink.read) s.fwd.inbox = some d) ∧
      d.late = false ∧ s.serves d = true ∧ d.h.typ = 5 ∧ d.h.mc = false ∧ d.h.src ≠ 4095 ∧ d.h.cls ≠ 0 ∧
      d.payload.length = 4 ∧ 1 ≤ beNat (List.take 4 d.payload) ∧ beNat (List.take 4 d.payload) ≤ 512 ∧
      spanRegion (d.h.addr.toNat / 4 * 4) (4 * ((d.h.addr.toNat + beNat (List.take 4 d.payload) - d.h.addr.toNat / 4 * 4 + 3) / 4)) = Sum.inl 1) :=
  ⟨⟨{ sink := .write, port := .e, h := { cls := 2, typ := 3, src := 4, addr := 0x10000010 }, payload := [0, 0, 0, 15, 1, 2, 3, 4], arrival := 0, corrections := 0 },
      { live with regs := [(0x70e04, 2)], fwd := { live.fwd with inbox := [{ sink := .write, port := .e, h := { cls := 2, typ := 3, src := 4, addr := 0x10000010 }, payload := [0, 0, 0, 15, 1, 2, 3, 4], arrival := 0, corrections := 0 }] } },
      by decide +kernel⟩,
   ⟨{ sink := .write, port := .e, h := { cls := 2, typ := 3, src := 4, addr := 0x10000010 }, payload := [0, 0, 0, 15, 1, 2, 3, 4], arrival := 0, corrections := 0 },
      { live with regs := [(0x70e08, 0x6fff)], fwd := { live.fwd with inbox := [{ sink := .write, port := .e, h := { cls := 2, typ := 3, src := 4, addr := 0x10000010 }, payload := [0, 0, 0, 15, 1, 2, 3, 4], arrival := 0, corrections := 0 }] } },
      by decide +kernel⟩,
   ⟨{ sink := .nonPosted, port := .w, h := { cls := 1, typ := 4 }, payload := [], arrival := 1, corrections := 1 },
      { live with funcs := (tabSet {} live.funcs 5 { st := .stopping }), fwd := { live.fwd with inbox := [{ sink := .nonPosted, port := .w, h := { cls := 1, typ := 4 }, payload := [], arrival := 1, corrections := 1 }] } },
      by decide +kernel⟩,
   ⟨{ sink := .nonPosted, port := .e, h := { cls := 2, typ := 4, src := 4, addr := 0x10000010 }, payload := [0, 0, 0, 15, 1, 2, 3, 4], arrival := 0, corrections := 0 },
      { live with regs := [(0x70e04, 2)], fwd := { live.fwd with inbox := [{ sink := .nonPosted, port := .e, h := { cls := 2, typ := 4, src := 4, addr := 0x10000010 }, payload := [0, 0, 0, 15, 1, 2, 3, 4], arrival := 0, corrections := 0 }] } },
      by decide +kernel⟩,
   ⟨{ sink := .read, port := .e, h := { cls := 2, typ := 5, src := 4, addr := 0x10000010 }, payload := [0, 0, 0, 6], arrival := 0, corrections := 0 },
      { live with fwd := { live.fwd with inbox := [{ sink := .read, port := .e, h := { cls := 2, typ := 5, src := 4, addr := 0x10000010 }, payload := [0, 0, 0, 6], arrival := 0, corrections := 0 }] } },
      by decide +kernel⟩⟩

/-- States and operands that meet the hypotheses of the clauses of EntriesEnd. -/
theorem witness_EntriesEnd :
    (∃ (r : Request) (e : Nat) (s : State), s.running 5 = true ∧ nextWaiting s s.xact.waiting [] = some r ∧
      r.posted = false ∧ (List.find? (fun e => (tabGet none s.xact.entries e).isNone) (List.range 512) = some e)) ∧
    (∃ (d : Delivered) (s : State) (o : Outst) (acc : Access) (src : Src), (List.find? (fun d => d.sink == Sink.response) s.fwd.inbox = some d) ∧
      tabGet none s.xact.entries (d.h.tag.toNat % 512) = some o ∧
      tabGet 0 s.xact.gens (d.h.tag.toNat % 512) = d.h.tag.toNat / 512 ∧ o.req.fetch = none ∧ o.req.hdr.typ = 5 ∧
      d.h.rse = false ∧ tabGet none s.xact.accesses o.req.access = some acc ∧ acc.who = Who.plain src ∧
      acc.lens = [o.req.len] ∧ o.req.part = 0) ∧
    (∃ (d : Delivered) (s : State), (List.find? (fun d => d.sink == Sink.response) s.fwd.inbox = some d) ∧
      tabGet none s.xact.entries (d.h.tag.toNat % 512) = none) ∧
    (∃ (e : BitVec 9) (o : Outst) (s : State), tabGet none s.xact.entries e.toNat = some o) ∧
    (∃ (d : Delivered) (s : State), (List.find? (fun d => d.sink == Sink.errorMsg) s.fwd.inbox = some d)) ∧
    (∃ (s : State), s.xact.lines ≠ []) :=
  ⟨⟨{ hdr := { typ := 5 }, payload := [0, 0, 0, 4], route := .ring, dom := 0, posted := false, access := 1, part := 0, len := 4 },
      0,
      { live with applied := [(0x70040, 0x7fff)], xact := { waiting := [{ hdr := { typ := 5 }, payload := [0, 0, 0, 4], route := .ring, dom := 0, posted := false, access := 1, part := 0, len := 4 }] } },
      by decide +kernel⟩,
   ⟨{ sink := .response, port := .w, h := {}, payload := [], arrival := 1, corrections := 1 },
      { live with fwd := { live.fwd with inbox := [{ sink := .response, port := .w, h := {}, payload := [], arrival := 1, corrections := 1 }] }, xact := { entries := [(0, some { req := { hdr := { typ := 5 }, payload := [], route := .ring, dom := 1, posted := false, access := 1, part := 0, len := 1 }, since := 1 })], accesses := [(1, some { who := .plain { port := 1, slot := 1, node := 1 }, write := false, lens := [1] })] } },
      { req := { hdr := { typ := 5 }, payload := [], route := .ring, dom := 1, posted := false, access := 1, part := 0, len := 1 }, since := 1 },
      { who := .plain { port := 1, slot := 1, node := 1 }, write := false, lens := [1] },
      { port := 1, slot := 1, node := 1 }, by decide +kernel⟩,
   ⟨{ sink := .response, port := .w, h := {}, payload := [], arrival := 1, corrections := 1 },
      { live with fwd := { live.fwd with inbox := [{ sink := .response, port := .w, h := {}, payload := [], arrival := 1, corrections := 1 }] } },
      by decide +kernel⟩,
   ⟨1,
      { req := { hdr := {}, payload := [], route := .ring, dom := 1, posted := false, access := 1, part := 1, len := 1 }, since := 1 },
      { live with xact := { entries := [(1, some { req := { hdr := {}, payload := [], route := .ring, dom := 1, posted := false, access := 1, part := 1, len := 1 }, since := 1 })] } },
      by decide +kernel⟩,
   ⟨{ sink := .errorMsg, port := .w, h := {}, payload := [], arrival := 1, corrections := 1 },
      { live with fwd := { live.fwd with inbox := [{ sink := .errorMsg, port := .w, h := {}, payload := [], arrival := 1, corrections := 1 }] } },
      by decide +kernel⟩,
   ⟨{ live with xact := { lines := [{ key := { win := 1, target := 1, block := 1 }, dom := 1, since := 1, data := [], marked := 1 }] } },
      by decide +kernel⟩⟩

/-- States and operands that meet the hypotheses of the clauses of TimeFramesAndProbes. -/
theorem witness_TimeFramesAndProbes_1 :
    (∃ (s : State), s.running 6 = true ∧ s.time.sending = true ∧ s.timeForm = false ∧ s.ringLeads = true ∧
      s.fwd.class0.length < 16) ∧
    (∃ (d : Delivered) (s : State), (List.find? (fun d => d.sink == Sink.time) s.fwd.inbox = some d) ∧
      s.running 6 = false) ∧
    (∃ (d : Delivered) (s : State), (List.find? (fun d => d.sink == Sink.time) s.fwd.inbox = some d) ∧ s.timeRole = 3) ∧
    (∃ (d : Delivered) (s : State), (List.find? (fun d => d.sink == Sink.time) s.fwd.inbox = some d) ∧
      s.timeForm = true) ∧
    (∃ (d : Delivered) (s : State), (List.find? (fun d => d.sink == Sink.time) s.fwd.inbox = some d) ∧
      d.payload.length ≠ 32) ∧
    (∃ (d : Delivered) (s : State), (List.find? (fun d => d.sink == Sink.time) s.fwd.inbox = some d) ∧
      s.running 6 = true ∧ s.timeRole ≠ 3 ∧ s.timeForm = false ∧ d.payload.length = 32 ∧ s.time.heard = [] ∧
      s.time.sending = false ∧ s.time.current = none) ∧
    (∃ (s : State), s.running 6 = true ∧ s.timeForm = false ∧ s.time.sending = false ∧ s.timeRole = 1) ∧
    (∃ (s : State), s.running 6 = true ∧ s.timeForm = false ∧ s.time.sending = false ∧ s.timeRole = 2) ∧
    (∃ (s : State), s.running 6 = true ∧ s.timeRole ≠ 3 ∧ s.timeForm = false ∧ s.time.sending = false ∧
      s.time.appliedOnce = true ∧ s.time.sync ≠ Sync.holdover ∧ s.time.sync ≠ Sync.free ∧ s.pair.role ≠ Role.resting) ∧
    (∃ (s : State), s.ap 524308 ≠ 0 ∧ s.linkIsUp Link.w = true ∧ s.fwd.class0.length < 16) ∧
    (∃ (s : State), s.ap 524308 ≠ 0 ∧ s.linkIsUp Link.e = true ∧ s.fwd.class0.length < 16) ∧
    (∃ (d : Delivered) (s : State), (List.find? (fun d => d.sink == Sink.probe && BitVec.toNat (d.payload.headD 0) == 2) s.fwd.inbox = some d) ∧
      s.hopsTravelled d = 1) :=
  ⟨⟨{ live with time := { sending := true } }, by decide +kernel⟩,
   ⟨{ sink := .time, port := .w, h := {}, payload := [], arrival := 1, corrections := 1 },
      { live with funcs := (tabSet {} live.funcs 6 { st := .halted }), fwd := { live.fwd with inbox := [{ sink := .time, port := .w, h := {}, payload := [], arrival := 1, corrections := 1 }] } },
      by decide +kernel⟩,
   ⟨{ sink := .time, port := .w, h := {}, payload := [], arrival := 1, corrections := 1 },
      { live with regs := [(0x80000, 192)], fwd := { live.fwd with inbox := [{ sink := .time, port := .w, h := {}, payload := [], arrival := 1, corrections := 1 }] } },
      by decide +kernel⟩,
   ⟨{ sink := .time, port := .w, h := {}, payload := [], arrival := 1, corrections := 1 },
      { live with regs := [(0x80000, 32)], fwd := { live.fwd with inbox := [{ sink := .time, port := .w, h := {}, payload := [], arrival := 1, corrections := 1 }] } },
      by decide +kernel⟩,
   ⟨{ sink := .time, port := .w, h := {}, payload := [], arrival := 1, corrections := 1 },
      { live with fwd := { live.fwd with inbox := [{ sink := .time, port := .w, h := {}, payload := [], arrival := 1, corrections := 1 }] } },
      by decide +kernel⟩,
   ⟨{ sink := .time, port := .w, h := {}, payload := List.replicate 32 1, arrival := 1, corrections := 1 },
      { live with fwd := { live.fwd with inbox := [{ sink := .time, port := .w, h := {}, payload := List.replicate 32 1, arrival := 1, corrections := 1 }] } },
      by decide +kernel⟩,
   ⟨{ live with regs := [(0x80000, 64)] }, by decide +kernel⟩,
   ⟨{ live with regs := [(0x80000, 128)] }, by decide +kernel⟩,
   ⟨{ live with time := { sync := .slewing, appliedOnce := true } }, by decide +kernel⟩,
   ⟨live, by decide +kernel⟩,
   ⟨live, by decide +kernel⟩,
   ⟨{ sink := .probe, port := .e, h := { hops := 4095 }, payload := [2, 0, 0], arrival := 0, corrections := 0 },
      { live with regs := [(0x50004, 0)], fwd := { live.fwd with inbox := [{ sink := .probe, port := .e, h := { hops := 4095 }, payload := [2, 0, 0], arrival := 0, corrections := 0 }] } },
      by decide +kernel⟩⟩

/-- States and operands that meet the hypotheses of the clauses of TimeFramesAndProbes. -/
theorem witness_TimeFramesAndProbes_2 :
    (∃ (d : Delivered) (s : State), (List.find? (fun d => d.sink == Sink.probe && BitVec.toNat (d.payload.headD 0) == 2) s.fwd.inbox = some d) ∧
      s.hopsTravelled d ≠ 1) ∧
    (∃ (d : Delivered) (s : State), (List.find? (fun d => d.sink == Sink.probe && BitVec.toNat (d.payload.headD 0) == 3) s.fwd.inbox = some d) ∧
      s.probeMatches d = true) ∧
    (∃ (d : Delivered) (since : Nat) (t1 : BitVec 80) (t4 : BitVec 80) (s : State), (List.find? (fun d => d.sink == Sink.probe && BitVec.toNat (d.payload.headD 0) == 4) s.fwd.inbox = some d) ∧
      s.probeMatches d = true ∧ (s.probe d.port).since = some since ∧ (s.probe d.port).t1 = some t1 ∧
      (s.probe d.port).t4 = some t4 ∧ d.port ≠ Link.t ∧ s.now ≤ since + 625000) ∧
    (∃ (l : Link) (since : Nat) (s : State), (s.probe l).since = some since) :=
  ⟨⟨{ sink := .probe, port := .e, h := { hops := 4094 }, payload := [2, 0, 0], arrival := 0, corrections := 0 },
      { live with regs := [(0x50004, 0)], fwd := { live.fwd with inbox := [{ sink := .probe, port := .e, h := { hops := 4094 }, payload := [2, 0, 0], arrival := 0, corrections := 0 }] } },
      by decide +kernel⟩,
   ⟨{ sink := .probe, port := .e, h := { hops := 4095 }, payload := [3, 0, 0], arrival := 0, corrections := 0 },
      { live with regs := [(0x50004, 0)], time := { probeE := { since := some 7 } }, fwd := { live.fwd with inbox := [{ sink := .probe, port := .e, h := { hops := 4095 }, payload := [3, 0, 0], arrival := 0, corrections := 0 }] } },
      by decide +kernel⟩,
   ⟨{ sink := .probe, port := .e, h := { hops := 4095 }, payload := [4, 0, 0, 0, 0, 0, 0, 0, 0, 0, 0, 0, 0, 0, 0, 0, 0, 0, 0, 0, 0, 0, 0, 0], arrival := 0, corrections := 0 },
      7, 0, 0x3e80000,
      { live with now := 0x9896f, regs := [(0x50004, 0)], time := { probeE := { t1 := some 0, t4 := some 0x3e80000, since := some 7 } }, fwd := { live.fwd with inbox := [{ sink := .probe, port := .e, h := { hops := 4095 }, payload := [4, 0, 0, 0, 0, 0, 0, 0, 0, 0, 0, 0, 0, 0, 0, 0, 0, 0, 0, 0, 0, 0, 0, 0], arrival := 0, corrections := 0 }] } },
      by decide +kernel⟩,
   ⟨.e, 7, { live with time := { probeE := { since := some 7 } } }, by decide +kernel⟩⟩

/-- States and operands that meet the hypotheses of the clauses of FabricTimeKeeps. -/
theorem witness_FabricTimeKeeps_1 :
    (∃ (s : State), s.timeRole ≠ 0) ∧
    (∃ (s : State), s.timeRole = 0) ∧
    (∃ (s : State), s.syncShown = Sync.refusing) ∧
    (∃ (s : State), s.syncShown ≠ Sync.refusing) ∧
    (∃ (s : State), s.syncShown ≠ Sync.slewing ∧ s.time.rate ≠ s.time.base) ∧
    (∃ (s : State), s.rb 524288 1 = true ∧ s.time.ppsOut = false) ∧
    (∃ (s : State), s.time.ppsOut = true) ∧
    (∃ (falling : Bool) (s : State), falling ≠ s.rb 524288 4) ∧
    (∃ (s : State), s.running 6 = false) ∧
    (∃ (s : State), s.running 6 = true ∧ s.time.ppsArmed = true ∧ s.timeRole = 1) ∧
    (∃ (s : State), s.running 6 = true ∧ s.time.ppsArmed = false ∧ s.timeRole = 2 ∧ s.timeForm = true) ∧
    (∃ (s : State), s.running 6 = true ∧ s.time.ppsArmed = false ∧ s.timeRole = 2 ∧ s.timeForm = false ∧
      s.time.sending = true ∧ s.time.sync = Sync.acquire ∧ s.time.stepFirst = true) :=
  ⟨⟨{ live with regs := [(0x80000, 64)] }, by decide +kernel⟩,
   ⟨live, by decide +kernel⟩,
   ⟨{ live with time := { sync := .refusing } }, by decide +kernel⟩,
   ⟨live, by decide +kernel⟩,
   ⟨{ live with time := { rate := 0x666666666667 } }, by decide +kernel⟩,
   ⟨{ live with regs := [(0x80000, 2)] }, by decide +kernel⟩,
   ⟨{ live with time := { ppsOut := true } }, by decide +kernel⟩,
   ⟨true, live, by decide +kernel⟩,
   ⟨{ live with funcs := (tabSet {} live.funcs 6 { st := .stopping }) }, by decide +kernel⟩,
   ⟨{ live with regs := [(0x80000, 64)], time := { ppsArmed := true } }, by decide +kernel⟩,
   ⟨{ live with regs := [(0x80000, 160)] }, by decide +kernel⟩,
   ⟨{ live with regs := [(0x80000, 128)], time := { sync := .acquire, stepFirst := true, sending := true } },
      by decide +kernel⟩⟩

/-- States and operands that meet the hypotheses of the clauses of FabricTimeKeeps. -/
theorem witness_FabricTimeKeeps_2 :
    (∃ (s : State), s.running 6 = true ∧ s.time.ppsArmed = false ∧ s.timeRole = 2 ∧ s.timeForm = false ∧
      s.time.sending = true ∧ s.time.stepFirst = false ∧ s.time.sync = Sync.acquire ∧
      s.stepThr < ↑(toWholeSecond s.ft).natAbs) ∧
    (∃ (s : State), s.running 6 = true ∧ s.time.ppsArmed = false ∧ s.timeRole = 2 ∧ s.timeForm = false ∧
      s.time.sending = true ∧ s.time.stepFirst = false ∧ s.time.sync = Sync.locked ∧
      s.stepThr < ↑(toWholeSecond s.ft).natAbs) ∧
    (∃ (s : State), s.running 6 = true ∧ s.time.ppsArmed = false ∧ s.timeRole = 2 ∧ s.timeForm = false ∧
      s.time.sending = false) ∧
    (∃ (s : State), s.running 6 = true ∧ s.timeRole = 2 ∧ s.time.ppsSeen = true) :=
  ⟨⟨{ live with now := 0x4b167f790, regs := [(0x80000, 128)], applied := [(0x8000c, 1)], time := { sync := .acquire, sending := true } },
      by decide +kernel⟩,
   ⟨{ live with now := 0x4b167f790, regs := [(0x80000, 128)], applied := [(0x8000c, 1)], time := { sync := .locked, sending := true } },
      by decide +kernel⟩,
   ⟨{ live with regs := [(0x80000, 128)] }, by decide +kernel⟩,
   ⟨{ live with regs := [(0x80000, 128)], time := { ppsSeen := true } }, by decide +kernel⟩⟩

/-- States and operands that meet the hypotheses of the clauses of AxesTrack. -/
theorem witness_AxesTrack_1 :
    (∃ (d : Delivered) (s : State), (List.find? (fun d => d.sink == Sink.axis) s.fwd.inbox = some d) ∧
      s.running (64 + d.h.tag.toNat % 64) = true ∧ d.h.src.toNat = s.rf (589824 + 64 * (d.h.tag.toNat % 64)) 11 0 ∧
      20 ≤ d.payload.length ∧ BitVec.toNat (byteAt d.payload 3) = d.h.tag.toNat % 64 ∧
      tdiff s.ft (sampleOf d.payload d.h.sslot).t < -262144000) ∧
    (∃ (d : Delivered) (s : State), (List.find? (fun d => d.sink == Sink.axis) s.fwd.inbox = some d) ∧
      s.running (64 + d.h.tag.toNat % 64) = true ∧ d.h.src.toNat = s.rf (589824 + 64 * (d.h.tag.toNat % 64)) 11 0 ∧
      20 ≤ d.payload.length ∧ BitVec.toNat (byteAt d.payload 3) = d.h.tag.toNat % 64 ∧
      ↑(65536000 * s.ap (589824 + 64 * (d.h.tag.toNat % 64) + 20)) < tdiff s.ft (sampleOf d.payload d.h.sslot).t) ∧
    (∃ (d : Delivered) (s : State), (List.find? (fun d => d.sink == Sink.axis) s.fwd.inbox = some d) ∧
      s.running (64 + d.h.tag.toNat % 64) = true ∧ s.rf (589824 + 64 * (d.h.tag.toNat % 64)) 11 0 = 4095 ∧
      d.h.src = s.ident.number ∧ 20 ≤ d.payload.length ∧ BitVec.toNat (byteAt d.payload 3) = d.h.tag.toNat % 64 ∧
      tdiff s.ft (sampleOf d.payload d.h.sslot).t < -262144000) ∧
    (∃ (d : Delivered) (s : State), (List.find? (fun d => d.sink == Sink.axis) s.fwd.inbox = some d) ∧
      s.running (64 + d.h.tag.toNat % 64) = true ∧ s.rf (589824 + 64 * (d.h.tag.toNat % 64)) 11 0 = 4095 ∧
      d.h.src = s.ident.number ∧ 20 ≤ d.payload.length ∧ BitVec.toNat (byteAt d.payload 3) = d.h.tag.toNat % 64 ∧
      ↑(65536000 * s.ap (589824 + 64 * (d.h.tag.toNat % 64) + 20)) < tdiff s.ft (sampleOf d.payload d.h.sslot).t) ∧
    (∃ (d : Delivered) (s : State), (List.find? (fun d => d.sink == Sink.axis) s.fwd.inbox = some d) ∧
      s.running (64 + d.h.tag.toNat % 64) = true ∧ d.h.src.toNat = s.rf (589824 + 64 * (d.h.tag.toNat % 64)) 11 0 ∧
      20 ≤ d.payload.length ∧ BitVec.toNat (byteAt d.payload 3) = d.h.tag.toNat % 64 ∧
      -262144000 ≤ tdiff s.ft (sampleOf d.payload d.h.sslot).t ∧
      tdiff s.ft (sampleOf d.payload d.h.sslot).t ≤ ↑(65536000 * s.ap (589824 + 64 * (d.h.tag.toNat % 64) + 20)) ∧
      (sampleOf d.payload d.h.sslot).encerr = false ∧ (s.axis (d.h.tag.toNat % 64)).st = AxState.none ∧
      (sampleOf d.payload d.h.sslot).hold = false) ∧
    (∃ (d : Delivered) (s : State), (List.find? (fun d => d.sink == Sink.axis) s.fwd.inbox = some d) ∧
      s.running (64 + d.h.tag.toNat % 64) = true ∧ s.rf (589824 + 64 * (d.h.tag.toNat % 64)) 11 0 = 4095 ∧
      d.h.src = s.ident.number ∧ 20 ≤ d.payload.length ∧ BitVec.toNat (byteAt d.payload 3) = d.h.tag.toNat % 64 ∧
      -262144000 ≤ tdiff s.ft (sampleOf d.payload d.h.sslot).t ∧
      tdiff s.ft (sampleOf d.payload d.h.sslot).t ≤ ↑(65536000 * s.ap (589824 + 64 * (d.h.tag.toNat % 64) + 20)) ∧
      (sampleOf d.payload d.h.sslot).encerr = false ∧ (s.axis (d.h.tag.toNat % 64)).st = AxState.none ∧
      (sampleOf d.payload d.h.sslot).hold = false) ∧
    (∃ (d : Delivered) (s : State), (List.find? (fun d => d.sink == Sink.axis) s.fwd.inbox = some d) ∧
      s.running (64 + d.h.tag.toNat % 64) = true ∧ d.h.src.toNat = s.rf (589824 + 64 * (d.h.tag.toNat % 64)) 11 0 ∧
      20 ≤ d.payload.length ∧ BitVec.toNat (byteAt d.payload 3) = d.h.tag.toNat % 64 ∧
      -262144000 ≤ tdiff s.ft (sampleOf d.payload d.h.sslot).t ∧
      tdiff s.ft (sampleOf d.payload d.h.sslot).t ≤ ↑(65536000 * s.ap (589824 + 64 * (d.h.tag.toNat % 64) + 20)) ∧
      (sampleOf d.payload d.h.sslot).encerr = false ∧ (s.axis (d.h.tag.toNat % 64)).st = AxState.tracking ∧
      0 < tdiff (sampleOf d.payload d.h.sslot).t (s.axis (d.h.tag.toNat % 64)).t0 ∧
      (sampleOf d.payload d.h.sslot).hold = false ∧ (sampleOf d.payload d.h.sslot).zset = false ∧
      (sampleOf d.payload d.h.sslot).slot = (s.axis (d.h.tag.toNat % 64)).slot ∧
      (pdiff (countPos (sampleOf d.payload d.h.sslot).z) ((s.axis (d.h.tag.toNat % 64)).eval (sampleOf d.payload d.h.sslot).t)).natAbs ≤ s.ap (589824 + 64 * (d.h.tag.toNat % 64) + 36) * 65536) ∧
    (∃ (d : Delivered) (s : State), (List.find? (fun d => d.sink == Sink.axis) s.fwd.inbox = some d) ∧
      s.running (64 + d.h.tag.toNat % 64) = true ∧ d.h.src.toNat = s.rf (589824 + 64 * (d.h.tag.toNat % 64)) 11 0 ∧
      20 ≤ d.payload.length ∧ BitVec.toNat (byteAt d.payload 3) = d.h.tag.toNat % 64 ∧
      -262144000 ≤ tdiff s.ft (sampleOf d.payload d.h.sslot).t ∧
      tdiff s.ft (sampleOf d.payload d.h.sslot).t ≤ ↑(65536000 * s.ap (589824 + 64 * (d.h.tag.toNat % 64) + 20)) ∧
      (sampleOf d.payload d.h.sslot).encerr = false ∧ (s.axis (d.h.tag.toNat % 64)).st = AxState.coasting ∧
      0 < tdiff (sampleOf d.payload d.h.sslot).t (s.axis (d.h.tag.toNat % 64)).t0 ∧
      (sampleOf d.payload d.h.sslot).hold = false ∧ (sampleOf d.payload d.h.sslot).zset = false ∧
      (sampleOf d.payload d.h.sslot).slot = (s.axis (d.h.tag.toNat % 64)).slot ∧
      (pdiff (countPos (sampleOf d.payload d.h.sslot).z) ((s.axis (d.h.tag.toNat % 64)).eval (sampleOf d.payload d.h.sslot).t)).natAbs ≤ s.ap (589824 + 64 * (d.h.tag.toNat % 64) + 36) * 65536) ∧
    (∃ (d : Delivered) (s : State), (List.find? (fun d => d.sink == Sink.axis) s.fwd.inbox = some d) ∧
      s.running (64 + d.h.tag.toNat % 64) = true ∧ s.rf (589824 + 64 * (d.h.tag.toNat % 64)) 11 0 = 4095 ∧
      d.h.src = s.ident.number ∧ 20 ≤ d.payload.length ∧ BitVec.toNat (byteAt d.payload 3) = d.h.tag.toNat % 64 ∧
      -262144000 ≤ tdiff s.ft (sampleOf d.payload d.h.sslot).t ∧
      tdiff s.ft (sampleOf d.payload d.h.sslot).t ≤ ↑(65536000 * s.ap (589824 + 64 * (d.h.tag.toNat % 64) + 20)) ∧
      (sampleOf d.payload d.h.sslot).encerr = false ∧ (s.axis (d.h.tag.toNat % 64)).st = AxState.tracking ∧
      0 < tdiff (sampleOf d.payload d.h.sslot).t (s.axis (d.h.tag.toNat % 64)).t0 ∧
      (sampleOf d.payload d.h.sslot).hold = false ∧ (sampleOf d.payload d.h.sslot).zset = false ∧
      (sampleOf d.payload d.h.sslot).slot = (s.axis (d.h.tag.toNat % 64)).slot ∧
      (pdiff (countPos (sampleOf d.payload d.h.sslot).z) ((s.axis (d.h.tag.toNat % 64)).eval (sampleOf d.payload d.h.sslot).t)).natAbs ≤ s.ap (589824 + 64 * (d.h.tag.toNat % 64) + 36) * 65536) ∧
    (∃ (d : Delivered) (s : State), (List.find? (fun d => d.sink == Sink.axis) s.fwd.inbox = some d) ∧
      s.running (64 + d.h.tag.toNat % 64) = true ∧ s.rf (589824 + 64 * (d.h.tag.toNat % 64)) 11 0 = 4095 ∧
      d.h.src = s.ident.number ∧ 20 ≤ d.payload.length ∧ BitVec.toNat (byteAt d.payload 3) = d.h.tag.toNat % 64 ∧
      -262144000 ≤ tdiff s.ft (sampleOf d.payload d.h.sslot).t ∧
      tdiff s.ft (sampleOf d.payload d.h.sslot).t ≤ ↑(65536000 * s.ap (589824 + 64 * (d.h.tag.toNat % 64) + 20)) ∧
      (sampleOf d.payload d.h.sslot).encerr = false ∧ (s.axis (d.h.tag.toNat % 64)).st = AxState.coasting ∧
      0 < tdiff (sampleOf d.payload d.h.sslot).t (s.axis (d.h.tag.toNat % 64)).t0 ∧
      (sampleOf d.payload d.h.sslot).hold = false ∧ (sampleOf d.payload d.h.sslot).zset = false ∧
      (sampleOf d.payload d.h.sslot).slot = (s.axis (d.h.tag.toNat % 64)).slot ∧
      (pdiff (countPos (sampleOf d.payload d.h.sslot).z) ((s.axis (d.h.tag.toNat % 64)).eval (sampleOf d.payload d.h.sslot).t)).natAbs ≤ s.ap (589824 + 64 * (d.h.tag.toNat % 64) + 36) * 65536) ∧
    (∃ (d : Delivered) (s : State), (List.find? (fun d => d.sink == Sink.axis) s.fwd.inbox = some d) ∧
      s.running (64 + d.h.tag.toNat % 64) = true ∧ d.h.src.toNat = s.rf (589824 + 64 * (d.h.tag.toNat % 64)) 11 0 ∧
      20 ≤ d.payload.length ∧ BitVec.toNat (byteAt d.payload 3) = d.h.tag.toNat % 64 ∧
      -262144000 ≤ tdiff s.ft (sampleOf d.payload d.h.sslot).t ∧
      tdiff s.ft (sampleOf d.payload d.h.sslot).t ≤ ↑(65536000 * s.ap (589824 + 64 * (d.h.tag.toNat % 64) + 20)) ∧
      (sampleOf d.payload d.h.sslot).encerr = false ∧ (s.axis (d.h.tag.toNat % 64)).st = AxState.tracking ∧
      0 < tdiff (sampleOf d.payload d.h.sslot).t (s.axis (d.h.tag.toNat % 64)).t0 ∧
      (sampleOf d.payload d.h.sslot).hold = false ∧ (sampleOf d.payload d.h.sslot).zset = false ∧
      (sampleOf d.payload d.h.sslot).slot = (s.axis (d.h.tag.toNat % 64)).slot ∧
      s.ap (589824 + 64 * (d.h.tag.toNat % 64) + 36) * 65536 < (pdiff (countPos (sampleOf d.payload d.h.sslot).z) ((s.axis (d.h.tag.toNat % 64)).eval (sampleOf d.payload d.h.sslot).t)).natAbs ∧
      (s.axis (d.h.tag.toNat % 64)).rejRun < 2) ∧
    (∃ (d : Delivered) (s : State), (List.find? (fun d => d.sink == Sink.axis) s.fwd.inbox = some d) ∧
      s.running (64 + d.h.tag.toNat % 64) = true ∧ d.h.src.toNat = s.rf (589824 + 64 * (d.h.tag.toNat % 64)) 11 0 ∧
      20 ≤ d.payload.length ∧ BitVec.toNat (byteAt d.payload 3) = d.h.tag.toNat % 64 ∧
      -262144000 ≤ tdiff s.ft (sampleOf d.payload d.h.sslot).t ∧
      tdiff s.ft (sampleOf d.payload d.h.sslot).t ≤ ↑(65536000 * s.ap (589824 + 64 * (d.h.tag.toNat % 64) + 20)) ∧
      (sampleOf d.payload d.h.sslot).encerr = false ∧ (s.axis (d.h.tag.toNat % 64)).st = AxState.coasting ∧
      0 < tdiff (sampleOf d.payload d.h.sslot).t (s.axis (d.h.tag.toNat % 64)).t0 ∧
      (sampleOf d.payload d.h.sslot).hold = false ∧ (sampleOf d.payload d.h.sslot).zset = false ∧
      (sampleOf d.payload d.h.sslot).slot = (s.axis (d.h.tag.toNat % 64)).slot ∧
      s.ap (589824 + 64 * (d.h.tag.toNat % 64) + 36) * 65536 < (pdiff (countPos (sampleOf d.payload d.h.sslot).z) ((s.axis (d.h.tag.toNat % 64)).eval (sampleOf d.payload d.h.sslot).t)).natAbs ∧
      (s.axis (d.h.tag.toNat % 64)).rejRun < 2) :=
  ⟨⟨{ sink := .axis, port := .e, h := { typ := 7, src := 4095, tag := 1 }, payload := [0, 0, 0, 1, 0, 0, 0, 7, 174, 244, 10, 0, 0, 0, 0, 0, 0, 0, 0, 1], arrival := 0, corrections := 0 },
      { live with applied := [(0x90054, 10)], fwd := { live.fwd with inbox := [{ sink := .axis, port := .e, h := { typ := 7, src := 4095, tag := 1 }, payload := [0, 0, 0, 1, 0, 0, 0, 7, 174, 244, 10, 0, 0, 0, 0, 0, 0, 0, 0, 1], arrival := 0, corrections := 0 }] } },
      by decide +kernel⟩,
   ⟨{ sink := .axis, port := .e, h := { typ := 7, src := 4095, tag := 1 }, payload := [0, 0, 0, 1, 0, 0, 0, 0, 0, 0, 0, 1, 0, 0, 0, 0, 0, 0, 0, 1], arrival := 0, corrections := 0 },
      { live with applied := [(0x90054, 10)], fwd := { live.fwd with inbox := [{ sink := .axis, port := .e, h := { typ := 7, src := 4095, tag := 1 }, payload := [0, 0, 0, 1, 0, 0, 0, 0, 0, 0, 0, 1, 0, 0, 0, 0, 0, 0, 0, 1], arrival := 0, corrections := 0 }] } },
      by decide +kernel⟩,
   ⟨{ sink := .axis, port := .e, h := { typ := 7, src := 5, tag := 1 }, payload := [0, 0, 0, 1, 0, 0, 0, 7, 174, 244, 10, 0, 0, 0, 0, 0, 0, 0, 0, 1], arrival := 0, corrections := 0 },
      { live with applied := [(0x90054, 10)], fwd := { live.fwd with inbox := [{ sink := .axis, port := .e, h := { typ := 7, src := 5, tag := 1 }, payload := [0, 0, 0, 1, 0, 0, 0, 7, 174, 244, 10, 0, 0, 0, 0, 0, 0, 0, 0, 1], arrival := 0, corrections := 0 }] } },
      by decide +kernel⟩,
   ⟨{ sink := .axis, port := .e, h := { typ := 7, src := 5, tag := 1 }, payload := [0, 0, 0, 1, 0, 0, 0, 0, 0, 0, 0, 1, 0, 0, 0, 0, 0, 0, 0, 1], arrival := 0, corrections := 0 },
      { live with applied := [(0x90054, 10)], fwd := { live.fwd with inbox := [{ sink := .axis, port := .e, h := { typ := 7, src := 5, tag := 1 }, payload := [0, 0, 0, 1, 0, 0, 0, 0, 0, 0, 0, 1, 0, 0, 0, 0, 0, 0, 0, 1], arrival := 0, corrections := 0 }] } },
      by decide +kernel⟩,
   ⟨{ sink := .axis, port := .e, h := { typ := 7, src := 4095, tag := 1 }, payload := [0, 0, 0, 1, 0, 0, 0, 7, 115, 89, 64, 0, 0, 0, 0, 0, 0, 0, 0, 1], arrival := 0, corrections := 0 },
      { live with applied := [(0x90054, 10)], axes := [(1, { st := .none, p0 := 0x10000, t0 := 0x773593c17fff8 })], fwd := { live.fwd with inbox := [{ sink := .axis, port := .e, h := { typ := 7, src := 4095, tag := 1 }, payload := [0, 0, 0, 1, 0, 0, 0, 7, 115, 89, 64, 0, 0, 0, 0, 0, 0, 0, 0, 1], arrival := 0, corrections := 0 }] } },
      by decide +kernel⟩,
   ⟨{ sink := .axis, port := .e, h := { typ := 7, src := 5, tag := 1 }, payload := [0, 0, 0, 1, 0, 0, 0, 7, 115, 89, 64, 0, 0, 0, 0, 0, 0, 0, 0, 1], arrival := 0, corrections := 0 },
      { live with applied := [(0x90054, 10)], axes := [(1, { st := .none, p0 := 0x10000, t0 := 0x773593c17fff8 })], fwd := { live.fwd with inbox := [{ sink := .axis, port := .e, h := { typ := 7, src := 5, tag := 1 }, payload := [0, 0, 0, 1, 0, 0, 0, 7, 115, 89, 64, 0, 0, 0, 0, 0, 0, 0, 0, 1], arrival := 0, corrections := 0 }] } },
      by decide +kernel⟩,
   ⟨{ sink := .axis, port := .e, h := { typ := 7, src := 4095, tag := 1 }, payload := [0, 0, 0, 1, 0, 0, 0, 7, 115, 89, 64, 0, 0, 0, 0, 0, 0, 0, 0, 1], arrival := 0, corrections := 0 },
      { live with applied := [(0x90054, 10)], axes := [(1, { st := .tracking, p0 := 0x10000, t0 := 0x773593c17fff8 })], fwd := { live.fwd with inbox := [{ sink := .axis, port := .e, h := { typ := 7, src := 4095, tag := 1 }, payload := [0, 0, 0, 1, 0, 0, 0, 7, 115, 89, 64, 0, 0, 0, 0, 0, 0, 0, 0, 1], arrival := 0, corrections := 0 }] } },
      by decide +kernel⟩,
   ⟨{ sink := .axis, port := .e, h := { typ := 7, src := 4095, tag := 1 }, payload := [0, 0, 0, 1, 0, 0, 0, 7, 115, 89, 64, 0, 0, 0, 0, 0, 0, 0, 0, 1], arrival := 0, corrections := 0 },
      { live with applied := [(0x90054, 10)], axes := [(1, { st := .coasting, p0 := 0x10000, t0 := 0x773593c17fff8 })], fwd := { live.fwd with inbox := [{ sink := .axis, port := .e, h := { typ := 7, src := 4095, tag := 1 }, payload := [0, 0, 0, 1, 0, 0, 0, 7, 115, 89, 64, 0, 0, 0, 0, 0, 0, 0, 0, 1], arrival := 0, corrections := 0 }] } },
      by decide +kernel⟩,
   ⟨{ sink := .axis, port := .e, h := { typ := 7, src := 5, tag := 1 }, payload := [0, 0, 0, 1, 0, 0, 0, 7, 115, 89, 64, 0, 0, 0, 0, 0, 0, 0, 0, 1], arrival := 0, corrections := 0 },
      { live with applied := [(0x90054, 10)], axes := [(1, { st := .tracking, p0 := 0x10000, t0 := 0x773593c17fff8 })], fwd := { live.fwd with inbox := [{ sink := .axis, port := .e, h := { typ := 7, src := 5, tag := 1 }, payload := [0, 0, 0, 1, 0, 0, 0, 7, 115, 89, 64, 0, 0, 0, 0, 0, 0, 0, 0, 1], arrival := 0, corrections := 0 }] } },
      by decide +kernel⟩,
   ⟨{ sink := .axis, port := .e, h := { typ := 7, src := 5, tag := 1 }, payload := [0, 0, 0, 1, 0, 0, 0, 7, 115, 89, 64, 0, 0, 0, 0, 0, 0, 0, 0, 1], arrival := 0, corrections := 0 },
      { live with applied := [(0x90054, 10)], axes := [(1, { st := .coasting, p0 := 0x10000, t0 := 0x773593c17fff8 })], fwd := { live.fwd with inbox := [{ sink := .axis, port := .e, h := { typ := 7, src := 5, tag := 1 }, payload := [0, 0, 0, 1, 0, 0, 0, 7, 115, 89, 64, 0, 0, 0, 0, 0, 0, 0, 0, 1], arrival := 0, corrections := 0 }] } },
      by decide +kernel⟩,
   ⟨{ sink := .axis, port := .e, h := { typ := 7, src := 4095, tag := 1 }, payload := [0, 0, 0, 1, 0, 0, 0, 7, 115, 89, 64, 0, 0, 0, 0, 0, 0, 1, 134, 160], arrival := 0, corrections := 0 },
      { live with applied := [(0x90054, 10), (0x90064, 5)], axes := [(1, { st := .tracking, p0 := 0x10000, t0 := 0x773593c17fff8 })], fwd := { live.fwd with inbox := [{ sink := .axis, port := .e, h := { typ := 7, src := 4095, tag := 1 }, payload := [0, 0, 0, 1, 0, 0, 0, 7, 115, 89, 64, 0, 0, 0, 0, 0, 0, 1, 134, 160], arrival := 0, corrections := 0 }] } },
      by decide +kernel⟩,
   ⟨{ sink := .axis, port := .e, h := { typ := 7, src := 4095, tag := 1 }, payload := [0, 0, 0, 1, 0, 0, 0, 7, 115, 89, 64, 0, 0, 0, 0, 0, 0, 1, 134, 160], arrival := 0, corrections := 0 },
      { live with applied := [(0x90054, 10), (0x90064, 5)], axes := [(1, { st := .coasting, p0 := 0x10000, t0 := 0x773593c17fff8 })], fwd := { live.fwd with inbox := [{ sink := .axis, port := .e, h := { typ := 7, src := 4095, tag := 1 }, payload := [0, 0, 0, 1, 0, 0, 0, 7, 115, 89, 64, 0, 0, 0, 0, 0, 0, 1, 134, 160], arrival := 0, corrections := 0 }] } },
      by decide +kernel⟩⟩

/-- States and operands that meet the hypotheses of the clauses of AxesTrack. -/
theorem witness_AxesTrack_2 :
    (∃ (d : Delivered) (s : State), (List.find? (fun d => d.sink == Sink.axis) s.fwd.inbox = some d) ∧
      s.running (64 + d.h.tag.toNat % 64) = true ∧ s.rf (589824 + 64 * (d.h.tag.toNat % 64)) 11 0 = 4095 ∧
      d.h.src = s.ident.number ∧ 20 ≤ d.payload.length ∧ BitVec.toNat (byteAt d.payload 3) = d.h.tag.toNat % 64 ∧
      -262144000 ≤ tdiff s.ft (sampleOf d.payload d.h.sslot).t ∧
      tdiff s.ft (sampleOf d.payload d.h.sslot).t ≤ ↑(65536000 * s.ap (589824 + 64 * (d.h.tag.toNat % 64) + 20)) ∧
      (sampleOf d.payload d.h.sslot).encerr = false ∧ (s.axis (d.h.tag.toNat % 64)).st = AxState.tracking ∧
      0 < tdiff (sampleOf d.payload d.h.sslot).t (s.axis (d.h.tag.toNat % 64)).t0 ∧
      (sampleOf d.payload d.h.sslot).hold = false ∧ (sampleOf d.payload d.h.sslot).zset = false ∧
      (sampleOf d.payload d.h.sslot).slot = (s.axis (d.h.tag.toNat % 64)).slot ∧
      s.ap (589824 + 64 * (d.h.tag.toNat % 64) + 36) * 65536 < (pdiff (countPos (sampleOf d.payload d.h.sslot).z) ((s.axis (d.h.tag.toNat % 64)).eval (sampleOf d.payload d.h.sslot).t)).natAbs ∧
      (s.axis (d.h.tag.toNat % 64)).rejRun < 2) ∧
    (∃ (d : Delivered) (s : State), (List.find? (fun d => d.sink == Sink.axis) s.fwd.inbox = some d) ∧
      s.running (64 + d.h.tag.toNat % 64) = true ∧ s.rf (589824 + 64 * (d.h.tag.toNat % 64)) 11 0 = 4095 ∧
      d.h.src = s.ident.number ∧ 20 ≤ d.payload.length ∧ BitVec.toNat (byteAt d.payload 3) = d.h.tag.toNat % 64 ∧
      -262144000 ≤ tdiff s.ft (sampleOf d.payload d.h.sslot).t ∧
      tdiff s.ft (sampleOf d.payload d.h.sslot).t ≤ ↑(65536000 * s.ap (589824 + 64 * (d.h.tag.toNat % 64) + 20)) ∧
      (sampleOf d.payload d.h.sslot).encerr = false ∧ (s.axis (d.h.tag.toNat % 64)).st = AxState.coasting ∧
      0 < tdiff (sampleOf d.payload d.h.sslot).t (s.axis (d.h.tag.toNat % 64)).t0 ∧
      (sampleOf d.payload d.h.sslot).hold = false ∧ (sampleOf d.payload d.h.sslot).zset = false ∧
      (sampleOf d.payload d.h.sslot).slot = (s.axis (d.h.tag.toNat % 64)).slot ∧
      s.ap (589824 + 64 * (d.h.tag.toNat % 64) + 36) * 65536 < (pdiff (countPos (sampleOf d.payload d.h.sslot).z) ((s.axis (d.h.tag.toNat % 64)).eval (sampleOf d.payload d.h.sslot).t)).natAbs ∧
      (s.axis (d.h.tag.toNat % 64)).rejRun < 2) ∧
    (∃ (d : Delivered) (s : State), (List.find? (fun d => d.sink == Sink.axis) s.fwd.inbox = some d) ∧
      s.running (64 + d.h.tag.toNat % 64) = true ∧ d.h.src.toNat = s.rf (589824 + 64 * (d.h.tag.toNat % 64)) 11 0 ∧
      20 ≤ d.payload.length ∧ BitVec.toNat (byteAt d.payload 3) = d.h.tag.toNat % 64 ∧
      -262144000 ≤ tdiff s.ft (sampleOf d.payload d.h.sslot).t ∧
      tdiff s.ft (sampleOf d.payload d.h.sslot).t ≤ ↑(65536000 * s.ap (589824 + 64 * (d.h.tag.toNat % 64) + 20)) ∧
      (sampleOf d.payload d.h.sslot).encerr = false ∧ (s.axis (d.h.tag.toNat % 64)).st = AxState.tracking ∧
      0 < tdiff (sampleOf d.payload d.h.sslot).t (s.axis (d.h.tag.toNat % 64)).t0 ∧
      (sampleOf d.payload d.h.sslot).hold = true) ∧
    (∃ (d : Delivered) (s : State), (List.find? (fun d => d.sink == Sink.axis) s.fwd.inbox = some d) ∧
      s.running (64 + d.h.tag.toNat % 64) = true ∧ s.rf (589824 + 64 * (d.h.tag.toNat % 64)) 11 0 = 4095 ∧
      d.h.src = s.ident.number ∧ 20 ≤ d.payload.length ∧ BitVec.toNat (byteAt d.payload 3) = d.h.tag.toNat % 64 ∧
      -262144000 ≤ tdiff s.ft (sampleOf d.payload d.h.sslot).t ∧
      tdiff s.ft (sampleOf d.payload d.h.sslot).t ≤ ↑(65536000 * s.ap (589824 + 64 * (d.h.tag.toNat % 64) + 20)) ∧
      (sampleOf d.payload d.h.sslot).encerr = false ∧ (s.axis (d.h.tag.toNat % 64)).st = AxState.tracking ∧
      0 < tdiff (sampleOf d.payload d.h.sslot).t (s.axis (d.h.tag.toNat % 64)).t0 ∧
      (sampleOf d.payload d.h.sslot).hold = true) ∧
    (∃ (a : BitVec 6) (s : State), s.publishing a.toNat = true) ∧
    (∃ (a : BitVec 6) (s : State), (s.axis a.toNat).st = AxState.tracking) ∧
    (∃ (a : BitVec 6) (s : State), (s.axis a.toNat).st = AxState.acquiring) ∧
    (∃ (a : BitVec 6) (s : State), (s.axis a.toNat).st = AxState.coasting) :=
  ⟨⟨{ sink := .axis, port := .e, h := { typ := 7, src := 5, tag := 1 }, payload := [0, 0, 0, 1, 0, 0, 0, 7, 115, 89, 64, 0, 0, 0, 0, 0, 0, 1, 134, 160], arrival := 0, corrections := 0 },
      { live with applied := [(0x90054, 10), (0x90064, 5)], axes := [(1, { st := .tracking, p0 := 0x10000, t0 := 0x773593c17fff8 })], fwd := { live.fwd with inbox := [{ sink := .axis, port := .e, h := { typ := 7, src := 5, tag := 1 }, payload := [0, 0, 0, 1, 0, 0, 0, 7, 115, 89, 64, 0, 0, 0, 0, 0, 0, 1, 134, 160], arrival := 0, corrections := 0 }] } },
      by decide +kernel⟩,
   ⟨{ sink := .axis, port := .e, h := { typ := 7, src := 5, tag := 1 }, payload := [0, 0, 0, 1, 0, 0, 0, 7, 115, 89, 64, 0, 0, 0, 0, 0, 0, 1, 134, 160], arrival := 0, corrections := 0 },
      { live with applied := [(0x90054, 10), (0x90064, 5)], axes := [(1, { st := .coasting, p0 := 0x10000, t0 := 0x773593c17fff8 })], fwd := { live.fwd with inbox := [{ sink := .axis, port := .e, h := { typ := 7, src := 5, tag := 1 }, payload := [0, 0, 0, 1, 0, 0, 0, 7, 115, 89, 64, 0, 0, 0, 0, 0, 0, 1, 134, 160], arrival := 0, corrections := 0 }] } },
      by decide +kernel⟩,
   ⟨{ sink := .axis, port := .e, h := { typ := 7, src := 4095, tag := 1 }, payload := [0, 0, 1, 1, 0, 0, 0, 7, 115, 89, 64, 0, 0, 0, 0, 0, 0, 0, 0, 1], arrival := 0, corrections := 0 },
      { live with applied := [(0x90054, 10)], axes := [(1, { st := .tracking, p0 := 0x10000, t0 := 0x773593c17fff8 })], fwd := { live.fwd with inbox := [{ sink := .axis, port := .e, h := { typ := 7, src := 4095, tag := 1 }, payload := [0, 0, 1, 1, 0, 0, 0, 7, 115, 89, 64, 0, 0, 0, 0, 0, 0, 0, 0, 1], arrival := 0, corrections := 0 }] } },
      by decide +kernel⟩,
   ⟨{ sink := .axis, port := .e, h := { typ := 7, src := 5, tag := 1 }, payload := [0, 0, 1, 1, 0, 0, 0, 7, 115, 89, 64, 0, 0, 0, 0, 0, 0, 0, 0, 1], arrival := 0, corrections := 0 },
      { live with applied := [(0x90054, 10)], axes := [(1, { st := .tracking, p0 := 0x10000, t0 := 0x773593c17fff8 })], fwd := { live.fwd with inbox := [{ sink := .axis, port := .e, h := { typ := 7, src := 5, tag := 1 }, payload := [0, 0, 1, 1, 0, 0, 0, 7, 115, 89, 64, 0, 0, 0, 0, 0, 0, 0, 0, 1], arrival := 0, corrections := 0 }] } },
      by decide +kernel⟩,
   ⟨1, { live with regs := [(0x90040, 5), (0x90044, 0x8000)] }, by decide +kernel⟩,
   ⟨1, { live with axes := [(1, { st := .tracking })] }, by decide +kernel⟩,
   ⟨1, { live with axes := [(1, { st := .acquiring })] }, by decide +kernel⟩,
   ⟨1, { live with axes := [(1, { st := .coasting })] }, by decide +kernel⟩⟩

/-- States and operands that meet the hypotheses of the clauses of ActionsRun. -/
theorem witness_ActionsRun_1 :
    (∃ (off : BitVec 8) (data : List Byte) (s : State), data ≠ [] ∧ data.length % 32 = 0 ∧ off.toNat % 32 = 0 ∧
      off.toNat + data.length ≤ 256 ∧ s.act.appq.length + data.length / 32 ≤ 256) ∧
    (∃ (data : List Byte), data.length % 32 ≠ 0) ∧
    (∃ (off : BitVec 8), off.toNat % 32 ≠ 0) ∧
    (∃ (off : BitVec 8) (data : List Byte), 256 < off.toNat + data.length) ∧
    (∃ (one : List Byte) (rest : List (List Byte)) (s : State), s.running 7 = true ∧ s.act.appq = one :: rest ∧
      (parseEntry one).malformed true = true) ∧
    (∃ (one : List Byte) (rest : List (List Byte)) (s : State), s.running 7 = true ∧ s.act.appq = one :: rest ∧
      (parseEntry one).malformed true = false ∧ (parseEntry one).kind = 15 ∧ nbit (parseEntry one).arg0 0 = false ∧
      (∀ (i : Nat), i ∈ validSlots s.act.bank → (bankEntry s.act.bank i).axis ≠ (parseEntry one).axis ∨ (bankEntry s.act.bank i).tag ≠ (parseEntry one).tag)) ∧
    (∃ (one : List Byte) (rest : List (List Byte)) (s : State), s.running 7 = true ∧ s.act.appq = one :: rest ∧
      (parseEntry one).malformed true = false ∧ (parseEntry one).kind ≠ 15 ∧ s.freeActSlot = none) ∧
    (∃ (one : List Byte) (rest : List (List Byte)) (s : State) (i : Nat), s.running 7 = true ∧
      s.act.appq = one :: rest ∧ (parseEntry one).malformed true = false ∧ (parseEntry one).kind ≠ 15 ∧
      s.freeActSlot = some i ∧
      (∀ (j : Nat), j ∈ validSlots (memWriteN s.act.bank (32 * i) one) → (bankEntry (memWriteN s.act.bank (32 * i) one) j).stalepol ≠ 2) ∧
      s.mayCommit (bankEntry (memWriteN s.act.bank (32 * i) one) i) = false) ∧
    (∃ (one : List Byte) (rest : List (List Byte)) (s : State) (i : Nat), s.running 7 = true ∧
      s.act.appq = one :: rest ∧ (parseEntry one).malformed true = false ∧ (parseEntry one).kind ≠ 15 ∧
      s.freeActSlot = some i ∧
      (∀ (j : Nat), j ∈ validSlots (memWriteN s.act.bank (32 * i) one) → (bankEntry (memWriteN s.act.bank (32 * i) one) j).stalepol ≠ 2) ∧
      s.latenessAt (bankEntry (memWriteN s.act.bank (32 * i) one) i) s.ft < 0) ∧
    (∃ (slot : BitVec 12) (s : State), s.mayCommit (bankEntry s.act.bank slot.toNat) = false) ∧
    (∃ (slot : BitVec 12) (s : State), s.dueIn (bankEntry s.act.bank slot.toNat).axis (bankEntry s.act.bank slot.toNat).pos = none) ∧
    (∃ (slot : BitVec 12) (s : State) (d : Nat), s.mayCommit (bankEntry s.act.bank slot.toNat) = true ∧
      s.dueIn (bankEntry s.act.bank slot.toNat).axis (bankEntry s.act.bank slot.toNat).pos = some d ∧
      (bankEntry s.act.bank slot.toNat).kind = 1 ∧
      s.leadTicks (bankEntry s.act.bank slot.toNat).target ((bankEntry s.act.bank slot.toNat).kind == 1) + 7500 ≤ d ∧
      d ≠ 0 ∧ s.lineTargetOk (bankEntry s.act.bank slot.toNat).target = true) :=
  ⟨⟨0, List.replicate 32 1, live, by decide +kernel⟩,
   ⟨[1], by decide +kernel⟩,
   ⟨1, by decide +kernel⟩,
   ⟨224, List.replicate 64 0, by decide +kernel⟩,
   ⟨[], [], { live with act := { appq := [[]] } }, by decide +kernel⟩,
   ⟨[0, 0, 0, 248, 0, 0, 0, 0, 0, 0, 0, 0, 0, 0, 0, 0, 0, 0, 0, 0, 0, 0, 0, 0, 0, 0, 0, 0, 0, 0, 0, 0], [],
      { live with act := { appq := [[0, 0, 0, 248, 0, 0, 0, 0, 0, 0, 0, 0, 0, 0, 0, 0, 0, 0, 0, 0, 0, 0, 0, 0, 0, 0, 0, 0, 0, 0, 0, 0]] } },
      by decide +kernel⟩,
   ⟨[0, 0, 0, 136, 3, 0, 0, 0, 100, 0, 0, 0, 0, 0, 0, 0, 0, 0, 0, 0, 0, 0, 0, 0, 0, 0, 0, 0, 0, 0, 0, 0], [],
      { live with act := { bank0 := fullBank, appq := [[0, 0, 0, 136, 3, 0, 0, 0, 100, 0, 0, 0, 0, 0, 0, 0, 0, 0, 0, 0, 0, 0, 0, 0, 0, 0, 0, 0, 0, 0, 0, 0]] } },
      ⟨by decide +kernel, by decide +kernel, by decide +kernel, by decide +kernel, full_bank_has_no_free_slot _ rfl rfl⟩⟩,
   ⟨[0, 0, 0, 136, 3, 0, 0, 0, 100, 0, 0, 0, 0, 0, 0, 0, 0, 0, 0, 0, 0, 0, 0, 0, 0, 0, 0, 0, 0, 0, 0, 0], [],
      { live with act := { appq := [[0, 0, 0, 136, 3, 0, 0, 0, 100, 0, 0, 0, 0, 0, 0, 0, 0, 0, 0, 0, 0, 0, 0, 0, 0, 0, 0, 0, 0, 0, 0, 0]] } },
      0, by decide +kernel⟩,
   ⟨[0, 0, 0, 136, 3, 0, 0, 0, 100, 0, 0, 0, 0, 0, 0, 0, 0, 0, 0, 0, 0, 0, 0, 0, 0, 0, 0, 0, 0, 0, 0, 0], [],
      { live with axes := [(0, { st := .tracking, v := 0x400000, t0 := 0x773593ffffff8 })], act := { appq := [[0, 0, 0, 136, 3, 0, 0, 0, 100, 0, 0, 0, 0, 0, 0, 0, 0, 0, 0, 0, 0, 0, 0, 0, 0, 0, 0, 0, 0, 0, 0, 0]] } },
      0, by decide +kernel⟩,
   ⟨1, live, by decide +kernel⟩,
   ⟨0,
      { live with axes := [(0, { st := .tracking, t0 := 0x773593ffffff8 })], act := { bank0 := [(3, 136), (4, 3), (8, 100)] } },
      by decide +kernel⟩,
   ⟨0,
      { live with axes := [(0, { st := .tracking, v := 0x400000, t0 := 0x773593ffffff8 })], lines := [(3, { lmode := 18 })], act := { bank0 := [(3, 136), (4, 3), (8, 100)] } },
      0xfa00, by decide +kernel⟩⟩

/-- States and operands that meet the hypotheses of the clauses of ActionsRun. -/
theorem witness_ActionsRun_2 :
    (∃ (slot : BitVec 12) (s : State) (d : Nat), s.mayCommit (bankEntry s.act.bank slot.toNat) = true ∧
      s.dueIn (bankEntry s.act.bank slot.toNat).axis (bankEntry s.act.bank slot.toNat).pos = some d ∧
      (bankEntry s.act.bank slot.toNat).kind = 2 ∧
      s.leadTicks (bankEntry s.act.bank slot.toNat).target ((bankEntry s.act.bank slot.toNat).kind == 1) + 7500 ≤ d ∧
      d ≠ 0 ∧ s.lineTargetOk (bankEntry s.act.bank slot.toNat).target = true) ∧
    (∃ (l : BitVec 8) (c : LineCmd) (s : State), s.nextCmd l.toNat = some c ∧ s.frondRuns l.toNat = true ∧
      (s.line l.toNat).isOutput l.toNat = true ∧ (s.line l.toNat).osrc = 1) ∧
    (∃ (l : BitVec 8) (c : LineCmd) (s : State), s.nextCmd l.toNat = some c ∧ s.frondRuns l.toNat = false) ∧
    (∃ (l : BitVec 8) (c : LineCmd) (s : State), s.nextCmd l.toNat = some c ∧
      (s.line l.toNat).isOutput l.toNat = false) ∧
    (∃ (l : BitVec 8) (c : LineCmd) (s : State), s.nextCmd l.toNat = some c ∧ (s.line l.toNat).osrc ≠ 1) ∧
    (∃ (l : BitVec 8) (p : Pulse) (e : Nat) (s : State), s.pulseOn l.toNat = some p ∧ p.off = none ∧
      s.offInstant p = some e) :=
  ⟨⟨0,
      { live with axes := [(0, { st := .tracking, v := 0x400000, t0 := 0x773593ffffff8 })], lines := [(3, { lmode := 18 })], act := { bank0 := [(3, 144), (4, 3), (8, 100)] } },
      0xfa00, by decide +kernel⟩,
   ⟨1, { line := 1, on := true, place := 0x4a817c864, edge := 0x4a817c865, entry := none },
      { live with lines := [(1, { lmode := 18 })], act := { cmds := [{ line := 1, on := true, place := 0x4a817c864, edge := 0x4a817c865, entry := none }] } },
      by decide +kernel⟩,
   ⟨1, { line := 1, on := true, place := 0x4a817c864, edge := 0x4a817c865, entry := none },
      { live with funcs := (tabSet {} live.funcs 16 { st := .halted }), lines := [(1, { lmode := 18 })], act := { cmds := [{ line := 1, on := true, place := 0x4a817c864, edge := 0x4a817c865, entry := none }] } },
      by decide +kernel⟩,
   ⟨1, { line := 1, on := true, place := 0x4a817c864, edge := 0x4a817c865, entry := none },
      { live with lines := [(1, { lmode := 17 })], act := { cmds := [{ line := 1, on := true, place := 0x4a817c864, edge := 0x4a817c865, entry := none }] } },
      by decide +kernel⟩,
   ⟨1, { line := 1, on := true, place := 0x4a817c864, edge := 0x4a817c865, entry := none },
      { live with lines := [(1, { lmode := 34 })], act := { cmds := [{ line := 1, on := true, place := 0x4a817c864, edge := 0x4a817c865, entry := none }] } },
      by decide +kernel⟩,
   ⟨1, { line := 1, onEdge := 1, offs := [], entries := [] }, 0,
      { live with act := { pulses := [{ line := 1, onEdge := 1, offs := [], entries := [] }] } }, by decide +kernel⟩⟩

/-- States and operands that meet the hypotheses of the clauses of BanksSwap. -/
theorem witness_BanksSwap_1 :
    (∃ (s : State), s.act.sh = BankState.clearing) ∧
    (∃ (s : State), s.act.sh = BankState.opened) ∧
    (∃ (s : State), s.act.sh ≠ BankState.opened) ∧
    (∃ (s : State), s.act.sh ≠ BankState.clearing) ∧
    (∃ (s : State), (s.func 7).st = FState.starting) ∧
    (∃ (s : State), (s.func 7).st = FState.running) ∧
    (∃ (s : State), (s.func 7).st ≠ FState.starting ∧ (s.func 7).st ≠ FState.running) ∧
    (∃ (s : State), s.act.req ≠ SwapReq.none) ∧
    (∃ (s : State), (s.func 7).st ≠ FState.starting ∧ s.act.req = SwapReq.none) ∧
    (∃ (s : State), (s.func 7).st ≠ FState.starting ∧ s.act.req = SwapReq.swap ∧ s.act.sh = BankState.sorting) ∧
    (∃ (s : State), (s.func 7).st ≠ FState.starting ∧ s.act.req = SwapReq.swap ∧ s.act.sh = BankState.ready ∧
      (∀ (i : Nat), i ∈ validSlots s.act.bank → (bankEntry s.act.bank i).carry = false) ∧ s.running 7 = false) ∧
    (∃ (s : State), (s.func 7).st ≠ FState.starting ∧ s.act.req = SwapReq.swap ∧ s.act.sh = BankState.ready ∧
      (∀ (i : Nat), i ∈ validSlots s.act.bank → (bankEntry s.act.bank i).carry = false) ∧ validSlots s.act.shadow = []) :=
  ⟨⟨{ live with act := { sh := .clearing } }, by decide +kernel⟩,
   ⟨live, by decide +kernel⟩,
   ⟨{ live with act := { sh := .ready } }, by decide +kernel⟩,
   ⟨live, by decide +kernel⟩,
   ⟨{ live with funcs := (tabSet {} live.funcs 7 { st := .starting }) }, by decide +kernel⟩,
   ⟨live, by decide +kernel⟩,
   ⟨{ live with funcs := (tabSet {} live.funcs 7 { st := .absent }) }, by decide +kernel⟩,
   ⟨{ live with act := { req := .swap } }, by decide +kernel⟩,
   ⟨live, by decide +kernel⟩,
   ⟨{ live with act := { sh := .sorting, req := .swap } }, by decide +kernel⟩,
   ⟨{ live with funcs := (tabSet {} live.funcs 7 { st := .stopping }), act := { sh := .ready, req := .swap } },
      by decide +kernel⟩,
   ⟨{ live with act := { sh := .ready, req := .swap } }, by decide +kernel⟩⟩

/-- States and operands that meet the hypotheses of the clauses of BanksSwap. -/
theorem witness_BanksSwap_2 :
    (∃ (q : BitVec 4) (s : State) (e : DWord) (es : List DWord), (s.capQ q.toNat).entries = e :: es) ∧
    (∃ (q : BitVec 4) (s : State), (s.capQ q.toNat).entries = []) :=
  ⟨⟨1, { live with act := { caps := [(1, { entries := [1] })] } }, 1, [], by decide +kernel⟩,
   ⟨1, live, by decide +kernel⟩⟩

/-- States and operands that meet the hypotheses of the clauses of LinesAct. -/
theorem witness_LinesAct :
    (∃ (nn : BitVec 4) (s : State), (s.func (16 + nn.toNat)).st ≠ FState.running ∧
      (s.func (16 + nn.toNat)).st ≠ FState.starting) ∧
    (∃ (nn : BitVec 4) (s : State), s.running (16 + nn.toNat) = true ∧ s.pair.frozen = false ∧ s.flt.safe = false ∧
      (s.die (nn.toNat / 8)).lost = false) ∧
    (∃ (l : BitVec 8) (s : State), (s.func (16 + l.toNat / 16)).st ≠ FState.absent ∧ (s.line l.toNat).mode ≠ 5) ∧
    (∃ (l : BitVec 8) (s : State), (s.func (16 + l.toNat / 16)).st = FState.absent) ∧
    (∃ (l : BitVec 8) (s : State), (s.line l.toNat).mode = 5) ∧
    (∃ (l : BitVec 8) (c : LineCond) (s : State), s.lineChecked l.toNat c (s.unsupplied (l.toNat / 16)) = false) ∧
    (∃ (l : BitVec 8) (c : LineCond) (s : State), s.lineChecked l.toNat c (s.unsupplied (l.toNat / 16)) = true ∧
      (s.line l.toNat).conds.contains c = false) ∧
    (∃ (l : BitVec 8) (c : LineCond) (s : State), (s.line l.toNat).conds.contains c = true) ∧
    (∃ (nn : BitVec 4) (s : State), s.unsupplied nn.toNat = true) ∧
    (∃ (nn : BitVec 4) (s : State), s.unsupplied nn.toNat = false) :=
  ⟨⟨1, { live with funcs := (tabSet {} live.funcs 17 { st := .halted }) }, by decide +kernel⟩,
   ⟨1, live, by decide +kernel⟩,
   ⟨1, live, by decide +kernel⟩,
   ⟨1, { live with funcs := (tabSet {} live.funcs 16 { st := .absent }) }, by decide +kernel⟩,
   ⟨1, { live with lines := [(1, { lmode := 5 })] }, by decide +kernel⟩,
   ⟨1, .openIn, live, by decide +kernel⟩,
   ⟨3, .overload, { live with lines := [(3, { lmode := 2, cmd := true })] }, by decide +kernel⟩,
   ⟨1, .openIn, { live with lines := [(1, { conds := [.openIn] })] }, by decide +kernel⟩,
   ⟨1, live, by decide +kernel⟩,
   ⟨1, { live with power := { live.power with chans := [(1, { pg := true })] } }, by decide +kernel⟩⟩

/-- States and operands that meet the hypotheses of the clauses of ChannelsCarryWords. -/
theorem witness_ChannelsCarryWords :
    (∃ (ch : BitVec 5) (s : State), s.running (208 + ch.toNat) = true ∧ s.xmode ch.toNat = 1 ∧
      s.uartFrame ch.toNat = 0 ∧ s.uartBridged ch.toNat = false ∧ (s.uart ch.toNat).rx.entries.length < 64) ∧
    (∃ (ch : BitVec 5) (s : State), s.running (208 + ch.toNat) = true ∧ s.xmode ch.toNat = 1 ∧
      s.uartFrame ch.toNat = 0 ∧ s.uartBridged ch.toNat = false ∧ (s.uart ch.toNat).rx.entries.length = 64) ∧
    (∃ (ch : BitVec 5) (s : State), s.running (208 + ch.toNat) = true ∧ s.uartFrame ch.toNat = 1 ∧
      (s.uart ch.toNat).idle = false ∧ s.uartBridged ch.toNat = false ∧ (s.uart ch.toNat).rx.entries.length < 64) ∧
    (∃ (ch : BitVec 5) (s : State), s.uartBridged ch.toNat = false ∧ (s.uart ch.toNat).tx.length < 64) ∧
    (∃ (ch : BitVec 5) (s : State), s.uartBridged ch.toNat = true) ∧
    (∃ (ch : BitVec 5) (s : State), 64 ≤ (s.uart ch.toNat).tx.length) ∧
    (∃ (ch : BitVec 5) (s : State) (w : BitVec 10) (r : List (BitVec 10)), s.running (208 + ch.toNat) = true ∧
      s.xmode ch.toNat ≠ 1 ∧ (s.uart ch.toNat).sending = none ∧ (s.uart ch.toNat).tx = w :: r ∧
      (s.uart ch.toNat).offAt = none) ∧
    (∃ (ch : BitVec 5) (s : State) (w : BitVec 10), (s.uart ch.toNat).sending = some w ∧
      (s.uart ch.toNat).driver = true ∧ s.xmode ch.toNat ≠ 2 ∧ s.xmode ch.toNat ≠ 3) ∧
    (∃ (ch : BitVec 5) (s : State) (e : DWord) (es : List DWord), (s.uart ch.toNat).rx.entries = e :: es) :=
  ⟨⟨1, { live with regs := [(0x100140, 5)] }, by decide +kernel⟩,
   ⟨1, { live with regs := [(0x100140, 5)], uarts := [(1, { rx := { entries := List.replicate 64 1 } })] },
      by decide +kernel⟩,
   ⟨1, { live with regs := [(0x100140, 260)], uarts := [(1, { idle := false })] }, by decide +kernel⟩,
   ⟨1, live, by decide +kernel⟩,
   ⟨1, { live with regs := [(0x100140, 1028)] }, by decide +kernel⟩,
   ⟨1, { live with uarts := [(1, { tx := List.replicate 64 1 })] }, by decide +kernel⟩,
   ⟨1, { live with uarts := [(1, { tx := [1] })] }, 1, [], by decide +kernel⟩,
   ⟨1, { live with uarts := [(1, { sending := some 1, driver := true })] }, 1, by decide +kernel⟩,
   ⟨1, { live with uarts := [(1, { rx := { entries := [1] } })] }, 1, [], by decide +kernel⟩⟩

/-- States and operands that meet the hypotheses of the clauses of EncodersCount. -/
theorem witness_EncodersCount :
    (∃ (u : BitVec 4) (s : State) (gate : Bool), s.running (240 + u.toNat) = true ∧ s.gatedOff u.toNat gate = false ∧
      s.ecfg u.toNat 4 4 = 0) ∧
    (∃ (u : BitVec 4) (s : State) (a : Bool) (b : Bool), s.running (240 + u.toNat) = true ∧ s.ecfg u.toNat 2 0 ≤ 2 ∧
      a ≠ (s.encoder u.toNat).a ∧ b ≠ (s.encoder u.toNat).b) ∧
    (∃ (u : BitVec 4) (s : State), s.running (240 + u.toNat) = true ∧ s.ecfg u.toNat 6 5 ≠ 0 ∧
      s.ecfg u.toNat 11 11 = 0 ∧ s.ecfg u.toNat 8 7 = 1) ∧
    (∃ (u : BitVec 4) (s : State), s.running (240 + u.toNat) = true ∧ s.ecfg u.toNat 3 3 = 1 ∧
      (s.encoder u.toNat).cause1 = false) ∧
    (∃ (u : BitVec 4) (s : State), s.running (240 + u.toNat) = false) :=
  ⟨⟨1, live, false, by decide +kernel⟩,
   ⟨1, live, true, true, by decide +kernel⟩,
   ⟨1, { live with regs := [(0x110200, 0x20a2)] }, by decide +kernel⟩,
   ⟨1, { live with regs := [(0x110200, 0x200a)] }, by decide +kernel⟩,
   ⟨1, { live with funcs := (tabSet {} live.funcs 241 { st := .halted }) }, by decide +kernel⟩⟩

/-- States and operands that meet the hypotheses of the clauses of EnginesRun. -/
theorem witness_EnginesRun_1 :
    (∃ (nn : BitVec 4) (e : BitVec 2) (s : State), s.running (128 + (5 * nn.toNat + e.toNat)) = true ∧
      (s.engine (5 * nn.toNat + e.toNat)).stalled = false ∧ (s.engine (5 * nn.toNat + e.toNat)).delay = 0 ∧
      operandOk (s.engWord (5 * nn.toNat + e.toNat)) = true ∧ nbit (s.engWord (5 * nn.toNat + e.toNat)) 16 = false ∧
      (s.engine (5 * nn.toNat + e.toNat)).pc.toNat + 1 < s.winSize (5 * nn.toNat + e.toNat) ∧
      opOf (s.engWord (5 * nn.toNat + e.toNat)) = 0 ∧ nbit (s.engWord (5 * nn.toNat + e.toNat)) 11 = false ∧
      nbits (s.engWord (5 * nn.toNat + e.toNat)) 13 12 < 2) ∧
    (∃ (nn : BitVec 4) (e : BitVec 2) (s : State), s.running (128 + (5 * nn.toNat + e.toNat)) = true ∧
      (s.engine (5 * nn.toNat + e.toNat)).stalled = false ∧ (s.engine (5 * nn.toNat + e.toNat)).delay = 0 ∧
      operandOk (s.engWord (5 * nn.toNat + e.toNat)) = true ∧ nbit (s.engWord (5 * nn.toNat + e.toNat)) 16 = false ∧
      (s.engine (5 * nn.toNat + e.toNat)).pc.toNat + 1 < s.winSize (5 * nn.toNat + e.toNat) ∧
      opOf (s.engWord (5 * nn.toNat + e.toNat)) = 0 ∧ nbit (s.engWord (5 * nn.toNat + e.toNat)) 11 = true) ∧
    (∃ (nn : BitVec 4) (e : BitVec 2) (s : State), s.running (128 + (5 * nn.toNat + e.toNat)) = true ∧
      (s.engine (5 * nn.toNat + e.toNat)).stalled = false ∧ (s.engine (5 * nn.toNat + e.toNat)).delay = 0 ∧
      operandOk (s.engWord (5 * nn.toNat + e.toNat)) = true ∧ nbit (s.engWord (5 * nn.toNat + e.toNat)) 16 = false ∧
      (s.engine (5 * nn.toNat + e.toNat)).pc.toNat + 1 < s.winSize (5 * nn.toNat + e.toNat) ∧
      opOf (s.engWord (5 * nn.toNat + e.toNat)) = 1) ∧
    (∃ (nn : BitVec 4) (e : BitVec 2) (s : State), s.running (128 + (5 * nn.toNat + e.toNat)) = true ∧
      (s.engine (5 * nn.toNat + e.toNat)).stalled = false ∧ (s.engine (5 * nn.toNat + e.toNat)).delay = 0 ∧
      operandOk (s.engWord (5 * nn.toNat + e.toNat)) = true ∧ nbit (s.engWord (5 * nn.toNat + e.toNat)) 16 = false ∧
      (s.engine (5 * nn.toNat + e.toNat)).pc.toNat + 1 < s.winSize (5 * nn.toNat + e.toNat) ∧
      opOf (s.engWord (5 * nn.toNat + e.toNat)) = 2 ∧ nbit (s.engWord (5 * nn.toNat + e.toNat)) 13 = false ∧
      nbits (s.engWord (5 * nn.toNat + e.toNat)) 12 11 = 1) ∧
    (∃ (nn : BitVec 4) (e : BitVec 2) (s : State), s.running (128 + (5 * nn.toNat + e.toNat)) = true ∧
      (s.engine (5 * nn.toNat + e.toNat)).stalled = false ∧ (s.engine (5 * nn.toNat + e.toNat)).delay = 0 ∧
      operandOk (s.engWord (5 * nn.toNat + e.toNat)) = true ∧ nbit (s.engWord (5 * nn.toNat + e.toNat)) 16 = false ∧
      (s.engine (5 * nn.toNat + e.toNat)).pc.toNat + 1 < s.winSize (5 * nn.toNat + e.toNat) ∧
      opOf (s.engWord (5 * nn.toNat + e.toNat)) = 2 ∧ nbit (s.engWord (5 * nn.toNat + e.toNat)) 13 = true ∧
      nbits (s.engWord (5 * nn.toNat + e.toNat)) 12 11 = 1) ∧
    (∃ (nn : BitVec 4) (e : BitVec 2) (s : State) (v : Word) (r : List Word), s.running (128 + (5 * nn.toNat + e.toNat)) = true ∧
      (s.engine (5 * nn.toNat + e.toNat)).stalled = false ∧ (s.engine (5 * nn.toNat + e.toNat)).delay = 0 ∧
      operandOk (s.engWord (5 * nn.toNat + e.toNat)) = true ∧ nbit (s.engWord (5 * nn.toNat + e.toNat)) 16 = false ∧
      (s.engine (5 * nn.toNat + e.toNat)).pc.toNat + 1 < s.winSize (5 * nn.toNat + e.toNat) ∧
      opOf (s.engWord (5 * nn.toNat + e.toNat)) = 3 ∧ s.txd (5 * nn.toNat + e.toNat) ≠ 0 ∧
      (s.engine (5 * nn.toNat + e.toNat)).tx = v :: r) ∧
    (∃ (nn : BitVec 4) (e : BitVec 2) (s : State), s.running (128 + (5 * nn.toNat + e.toNat)) = true ∧
      (s.engine (5 * nn.toNat + e.toNat)).stalled = false ∧ (s.engine (5 * nn.toNat + e.toNat)).delay = 0 ∧
      operandOk (s.engWord (5 * nn.toNat + e.toNat)) = true ∧ nbit (s.engWord (5 * nn.toNat + e.toNat)) 16 = false ∧
      (s.engine (5 * nn.toNat + e.toNat)).pc.toNat + 1 < s.winSize (5 * nn.toNat + e.toNat) ∧
      opOf (s.engWord (5 * nn.toNat + e.toNat)) = 3 ∧ s.txd (5 * nn.toNat + e.toNat) ≠ 0 ∧
      (s.engine (5 * nn.toNat + e.toNat)).tx = []) ∧
    (∃ (nn : BitVec 4) (e : BitVec 2) (s : State), s.running (128 + (5 * nn.toNat + e.toNat)) = true ∧
      (s.engine (5 * nn.toNat + e.toNat)).stalled = false ∧ (s.engine (5 * nn.toNat + e.toNat)).delay = 0 ∧
      operandOk (s.engWord (5 * nn.toNat + e.toNat)) = true ∧ nbit (s.engWord (5 * nn.toNat + e.toNat)) 16 = false ∧
      (s.engine (5 * nn.toNat + e.toNat)).pc.toNat + 1 < s.winSize (5 * nn.toNat + e.toNat) ∧
      opOf (s.engWord (5 * nn.toNat + e.toNat)) = 4 ∧ s.txd (5 * nn.toNat + e.toNat) ≠ 8 ∧
      s.rxFull (5 * nn.toNat + e.toNat) = false) ∧
    (∃ (nn : BitVec 4) (e : BitVec 2) (s : State), s.running (128 + (5 * nn.toNat + e.toNat)) = true ∧
      (s.engine (5 * nn.toNat + e.toNat)).stalled = false ∧ (s.engine (5 * nn.toNat + e.toNat)).delay = 0 ∧
      operandOk (s.engWord (5 * nn.toNat + e.toNat)) = true ∧ nbit (s.engWord (5 * nn.toNat + e.toNat)) 16 = false ∧
      (s.engine (5 * nn.toNat + e.toNat)).pc.toNat + 1 < s.winSize (5 * nn.toNat + e.toNat) ∧
      opOf (s.engWord (5 * nn.toNat + e.toNat)) = 4 ∧ s.txd (5 * nn.toNat + e.toNat) ≠ 8 ∧
      s.rxFull (5 * nn.toNat + e.toNat) = true ∧ nbit (s.engWord (5 * nn.toNat + e.toNat)) 11 = false) ∧
    (∃ (nn : BitVec 4) (e : BitVec 2) (s : State), s.running (128 + (5 * nn.toNat + e.toNat)) = true ∧
      (s.engine (5 * nn.toNat + e.toNat)).stalled = false ∧ (s.engine (5 * nn.toNat + e.toNat)).delay = 0 ∧
      operandOk (s.engWord (5 * nn.toNat + e.toNat)) = true ∧ nbit (s.engWord (5 * nn.toNat + e.toNat)) 16 = false ∧
      (s.engine (5 * nn.toNat + e.toNat)).pc.toNat + 1 < s.winSize (5 * nn.toNat + e.toNat) ∧
      opOf (s.engWord (5 * nn.toNat + e.toNat)) = 5 ∧ nbits (s.engWord (5 * nn.toNat + e.toNat)) 13 12 = 0) ∧
    (∃ (nn : BitVec 4) (e : BitVec 2) (s : State), s.running (128 + (5 * nn.toNat + e.toNat)) = true ∧
      (s.engine (5 * nn.toNat + e.toNat)).stalled = false ∧ (s.engine (5 * nn.toNat + e.toNat)).delay = 0 ∧
      operandOk (s.engWord (5 * nn.toNat + e.toNat)) = true ∧ nbit (s.engWord (5 * nn.toNat + e.toNat)) 16 = false ∧
      (s.engine (5 * nn.toNat + e.toNat)).pc.toNat + 1 < s.winSize (5 * nn.toNat + e.toNat) ∧
      opOf (s.engWord (5 * nn.toNat + e.toNat)) = 5 ∧ nbits (s.engWord (5 * nn.toNat + e.toNat)) 13 12 = 1) ∧
    (∃ (nn : BitVec 4) (e : BitVec 2) (s : State), s.running (128 + (5 * nn.toNat + e.toNat)) = true ∧
      (s.engine (5 * nn.toNat + e.toNat)).stalled = false ∧ (s.engine (5 * nn.toNat + e.toNat)).delay = 0 ∧
      operandOk (s.engWord (5 * nn.toNat + e.toNat)) = true ∧ nbit (s.engWord (5 * nn.toNat + e.toNat)) 16 = false ∧
      (s.engine (5 * nn.toNat + e.toNat)).pc.toNat + 1 < s.winSize (5 * nn.toNat + e.toNat) ∧
      opOf (s.engWord (5 * nn.toNat + e.toNat)) = 5 ∧ nbits (s.engWord (5 * nn.toNat + e.toNat)) 13 12 = 2) :=
  ⟨⟨1, 1, { live with regs := [(0x112004, 0)] }, by decide +kernel⟩,
   ⟨0, 0, { live with regs := [(0x102000, 0x1800), (0x102004, 0)] }, by decide +kernel⟩,
   ⟨1, 1, { live with regs := [(0x112004, 16)] }, by decide +kernel⟩,
   ⟨1, 1, { live with regs := [(0x112000, 2048), (0x112004, 32)] }, by decide +kernel⟩,
   ⟨1, 1, { live with regs := [(0x112000, 0x2800), (0x112004, 32)] }, by decide +kernel⟩,
   ⟨1, 1, { live with regs := [(0x112004, 48)], engines := [(6, { tx := [1] })] }, 1, [], by decide +kernel⟩,
   ⟨1, 1, { live with regs := [(0x112004, 48)] }, by decide +kernel⟩,
   ⟨1, 1, { live with regs := [(0x112004, 64)] }, by decide +kernel⟩,
   ⟨1, 1, { live with regs := [(0x112004, 64)], engines := [(6, { rx := { entries := [1, 1, 1, 1] } })] },
      by decide +kernel⟩,
   ⟨1, 1, { live with regs := [(0x112004, 80)] }, by decide +kernel⟩,
   ⟨1, 1, { live with regs := [(0x112000, 0x1000), (0x112004, 80)] }, by decide +kernel⟩,
   ⟨1, 1, { live with regs := [(0x112000, 0x2000), (0x112004, 80)] }, by decide +kernel⟩⟩

/-- States and operands that meet the hypotheses of the clauses of EnginesRun. -/
theorem witness_EnginesRun_2 :
    (∃ (nn : BitVec 4) (e : BitVec 2) (s : State), s.running (128 + (5 * nn.toNat + e.toNat)) = true ∧
      (s.engine (5 * nn.toNat + e.toNat)).stalled = false ∧ (s.engine (5 * nn.toNat + e.toNat)).delay = 0 ∧
      operandOk (s.engWord (5 * nn.toNat + e.toNat)) = true ∧ nbit (s.engWord (5 * nn.toNat + e.toNat)) 16 = false ∧
      (s.engine (5 * nn.toNat + e.toNat)).pc.toNat + 1 < s.winSize (5 * nn.toNat + e.toNat) ∧
      opOf (s.engWord (5 * nn.toNat + e.toNat)) = 5 ∧ nbits (s.engWord (5 * nn.toNat + e.toNat)) 13 12 = 3) ∧
    (∃ (nn : BitVec 4) (e : BitVec 2) (s : State), s.running (128 + (5 * nn.toNat + e.toNat)) = true ∧
      (s.engine (5 * nn.toNat + e.toNat)).stalled = false ∧ (s.engine (5 * nn.toNat + e.toNat)).delay = 0 ∧
      operandOk (s.engWord (5 * nn.toNat + e.toNat)) = true ∧ nbit (s.engWord (5 * nn.toNat + e.toNat)) 16 = false ∧
      (s.engine (5 * nn.toNat + e.toNat)).pc.toNat + 1 < s.winSize (5 * nn.toNat + e.toNat) ∧
      opOf (s.engWord (5 * nn.toNat + e.toNat)) = 6 ∧ nbit (s.engWord (5 * nn.toNat + e.toNat)) 13 = false) ∧
    (∃ (nn : BitVec 4) (e : BitVec 2) (s : State), s.running (128 + (5 * nn.toNat + e.toNat)) = true ∧
      (s.engine (5 * nn.toNat + e.toNat)).stalled = false ∧ (s.engine (5 * nn.toNat + e.toNat)).delay = 0 ∧
      operandOk (s.engWord (5 * nn.toNat + e.toNat)) = true ∧ nbit (s.engWord (5 * nn.toNat + e.toNat)) 16 = false ∧
      (s.engine (5 * nn.toNat + e.toNat)).pc.toNat + 1 < s.winSize (5 * nn.toNat + e.toNat) ∧
      opOf (s.engWord (5 * nn.toNat + e.toNat)) = 6 ∧ nbit (s.engWord (5 * nn.toNat + e.toNat)) 13 = true ∧
      nbit (s.engWord (5 * nn.toNat + e.toNat)) 6 = false) ∧
    (∃ (nn : BitVec 4) (e : BitVec 2) (s : State), s.running (128 + (5 * nn.toNat + e.toNat)) = true ∧
      (s.engine (5 * nn.toNat + e.toNat)).stalled = false ∧ (s.engine (5 * nn.toNat + e.toNat)).delay = 0 ∧
      operandOk (s.engWord (5 * nn.toNat + e.toNat)) = true ∧ nbit (s.engWord (5 * nn.toNat + e.toNat)) 16 = false ∧
      (s.engine (5 * nn.toNat + e.toNat)).pc.toNat + 1 < s.winSize (5 * nn.toNat + e.toNat) ∧
      opOf (s.engWord (5 * nn.toNat + e.toNat)) = 6 ∧ nbit (s.engWord (5 * nn.toNat + e.toNat)) 13 = true ∧
      (s.engine (5 * nn.toNat + e.toNat)).cnt.toNat ≤ 1) ∧
    (∃ (nn : BitVec 4) (e : BitVec 2) (s : State), s.running (128 + (5 * nn.toNat + e.toNat)) = true ∧
      (s.engine (5 * nn.toNat + e.toNat)).stalled = false ∧ (s.engine (5 * nn.toNat + e.toNat)).delay = 0 ∧
      operandOk (s.engWord (5 * nn.toNat + e.toNat)) = true ∧ nbit (s.engWord (5 * nn.toNat + e.toNat)) 16 = false ∧
      (s.engine (5 * nn.toNat + e.toNat)).pc.toNat + 1 < s.winSize (5 * nn.toNat + e.toNat) ∧
      opOf (s.engWord (5 * nn.toNat + e.toNat)) = 6 ∧ nbit (s.engWord (5 * nn.toNat + e.toNat)) 13 = true ∧
      nbit (s.engWord (5 * nn.toNat + e.toNat)) 6 = true ∧ 2 ≤ (s.engine (5 * nn.toNat + e.toNat)).cnt.toNat ∧
      nbits (s.engWord (5 * nn.toNat + e.toNat)) 5 0 < s.winSize (5 * nn.toNat + e.toNat)) ∧
    (∃ (nn : BitVec 4) (e : BitVec 2) (s : State), s.running (128 + (5 * nn.toNat + e.toNat)) = true ∧
      (s.engine (5 * nn.toNat + e.toNat)).stalled = false ∧ (s.engine (5 * nn.toNat + e.toNat)).delay = 0 ∧
      operandOk (s.engWord (5 * nn.toNat + e.toNat)) = true ∧ nbit (s.engWord (5 * nn.toNat + e.toNat)) 16 = false ∧
      (s.engine (5 * nn.toNat + e.toNat)).pc.toNat + 1 < s.winSize (5 * nn.toNat + e.toNat) ∧
      opOf (s.engWord (5 * nn.toNat + e.toNat)) = 7) ∧
    (∃ (nn : BitVec 4) (e : BitVec 2) (s : State), s.running (128 + (5 * nn.toNat + e.toNat)) = true ∧
      (s.engine (5 * nn.toNat + e.toNat)).stalled = false ∧ (s.engine (5 * nn.toNat + e.toNat)).delay = 0 ∧
      operandOk (s.engWord (5 * nn.toNat + e.toNat)) = true ∧ nbit (s.engWord (5 * nn.toNat + e.toNat)) 16 = false ∧
      (s.engine (5 * nn.toNat + e.toNat)).pc.toNat + 1 < s.winSize (5 * nn.toNat + e.toNat) ∧
      opOf (s.engWord (5 * nn.toNat + e.toNat)) = 8) ∧
    (∃ (nn : BitVec 4) (e : BitVec 2) (s : State), s.running (128 + (5 * nn.toNat + e.toNat)) = true ∧
      (s.engine (5 * nn.toNat + e.toNat)).stalled = false ∧ (s.engine (5 * nn.toNat + e.toNat)).delay = 0 ∧
      operandOk (s.engWord (5 * nn.toNat + e.toNat)) = true ∧ nbit (s.engWord (5 * nn.toNat + e.toNat)) 16 = false ∧
      (s.engine (5 * nn.toNat + e.toNat)).pc.toNat + 1 < s.winSize (5 * nn.toNat + e.toNat) ∧
      opOf (s.engWord (5 * nn.toNat + e.toNat)) = 9) ∧
    (∃ (nn : BitVec 4) (e : BitVec 2) (s : State), s.running (128 + (5 * nn.toNat + e.toNat)) = true ∧
      (s.engine (5 * nn.toNat + e.toNat)).stalled = false ∧ (s.engine (5 * nn.toNat + e.toNat)).delay = 0 ∧
      10 ≤ opOf (s.engWord (5 * nn.toNat + e.toNat))) :=
  ⟨⟨1, 1, { live with regs := [(0x112000, 0x3000), (0x112004, 80)] }, by decide +kernel⟩,
   ⟨1, 1, { live with regs := [(0x112004, 96)] }, by decide +kernel⟩,
   ⟨1, 1, { live with regs := [(0x112000, 0x2000), (0x112004, 96)] }, by decide +kernel⟩,
   ⟨1, 1, { live with regs := [(0x112000, 0x2000), (0x112004, 96)] }, by decide +kernel⟩,
   ⟨1, 1, { live with regs := [(0x112000, 0x2040), (0x112004, 96)], engines := [(6, { cnt := 2 })] },
      by decide +kernel⟩,
   ⟨1, 1, { live with regs := [(0x112004, 112)] }, by decide +kernel⟩,
   ⟨0, 0, { live with regs := [(0x102000, 0x1001), (0x102004, 128)] }, by decide +kernel⟩,
   ⟨1, 1, live, by decide +kernel⟩,
   ⟨1, 1, { live with regs := [(0x112004, 160)] }, by decide +kernel⟩⟩

/-- States and operands that meet the hypotheses of the clauses of EnginesServed. -/
theorem witness_EnginesServed_1 :
    (∃ (nn : BitVec 4) (e : BitVec 2) (s : State), s.running (128 + (5 * nn.toNat + e.toNat)) = true ∧
      (s.engine (5 * nn.toNat + e.toNat)).stalled = true ∧ opOf (s.engWord (5 * nn.toNat + e.toNat)) = 0 ∧
      nbit (s.engWord (5 * nn.toNat + e.toNat)) 11 = true ∧
      s.markFlag (5 * nn.toNat + e.toNat) (nbits (s.engWord (5 * nn.toNat + e.toNat)) 1 0) = true ∧
      (s.engine (5 * nn.toNat + e.toNat)).pc.toNat + 1 < s.winSize (5 * nn.toNat + e.toNat)) ∧
    (∃ (nn : BitVec 4) (e : BitVec 2) (s : State), (s.engine (5 * nn.toNat + e.toNat)).stalled = false) ∧
    (∃ (nn : BitVec 4) (e : BitVec 2) (s : State), s.running (128 + (5 * nn.toNat + e.toNat)) = true ∧
      (s.engine (5 * nn.toNat + e.toNat)).delay ≠ 0) ∧
    (∃ (nn : BitVec 4) (e : BitVec 2) (s : State), (s.engine (5 * nn.toNat + e.toNat)).tx.length < s.txd (5 * nn.toNat + e.toNat) ∧
      (s.func (128 + (5 * nn.toNat + e.toNat))).st ≠ FState.absent) ∧
    (∃ (nn : BitVec 4) (e : BitVec 2) (s : State), s.txd (5 * nn.toNat + e.toNat) ≤ (s.engine (5 * nn.toNat + e.toNat)).tx.length) ∧
    (∃ (nn : BitVec 4) (e : BitVec 2) (s : State) (d : DWord) (ds : List DWord), (s.engine (5 * nn.toNat + e.toNat)).rx.entries = d :: ds) ∧
    (∃ (nn : BitVec 4) (e : BitVec 2) (s : State), (s.func (128 + (5 * nn.toNat + e.toNat))).st = FState.stopped) ∧
    (∃ (nn : BitVec 4) (e : BitVec 2) (s : State), (s.func (128 + (5 * nn.toNat + e.toNat))).st ≠ FState.stopped) ∧
    (∃ (l : BitVec 8) (v : Bool) (s : State), (s.line l.toNat).deferred = some v) ∧
    (∃ (nn : BitVec 4) (s : State), s.storeOpen nn.toNat = true) ∧
    (∃ (nn : BitVec 4) (s : State), s.storeOpen nn.toNat = false) ∧
    (∃ (nn : BitVec 4) (s : State) (e : Nat), (List.find? (fun e => nbit (s.frond nn.toNat).failing.toNat (nbits (s.frond nn.toNat).map.toNat (3 * e + 2) (3 * e))) [0, 1, 2, 3] = some e) ∧
      (s.func (16 + nn.toNat)).st = FState.stopped ∧ (s.frond nn.toNat).pending = true ∧
      (s.frond nn.toNat).spareWorks = true) :=
  ⟨⟨1, 1,
      { live with regs := [(0x112000, 2048), (0x112004, 0)], engines := [(6, { stalled := true })], fronds := [(1, { flags := 1 })] },
      by decide +kernel⟩,
   ⟨1, 1, live, by decide +kernel⟩,
   ⟨1, 1, { live with engines := [(6, { delay := 1 })] }, by decide +kernel⟩,
   ⟨1, 1, live, by decide +kernel⟩,
   ⟨1, 1, { live with engines := [(6, { tx := [1, 1, 1, 1] })] }, by decide +kernel⟩,
   ⟨1, 1, { live with engines := [(6, { rx := { entries := [1] } })] }, 1, [], by decide +kernel⟩,
   ⟨1, 1, { live with funcs := (live.funcs.filter (fun f => !([134].contains f.1))) }, by decide +kernel⟩,
   ⟨1, 1, live, by decide +kernel⟩,
   ⟨1, false, { live with lines := [(1, { deferred := some false })] }, by decide +kernel⟩,
   ⟨0, { live with funcs := (live.funcs.filter (fun f => !([128, 129, 130, 131].contains f.1))) }, by decide +kernel⟩,
   ⟨1, live, by decide +kernel⟩,
   ⟨1,
      { live with funcs := (live.funcs.filter (fun f => !([17].contains f.1))), fronds := [(1, { failing := 2, pending := true })] },
      1, by decide +kernel⟩⟩

/-- States and operands that meet the hypotheses of the clauses of EnginesServed. -/
theorem witness_EnginesServed_2 :
    (∃ (nn : BitVec 4) (s : State), (s.func (16 + nn.toNat)).st ≠ FState.stopped) :=
  ⟨1, live, by decide +kernel⟩

/-- States and operands that meet the hypotheses of the clauses of CanControllers. -/
theorem witness_CanControllers_1 :
    (∃ (k : BitVec 3) (s : State) (b : BitVec 2), b ≠ 3 ∧ s.running (32 + k.toNat) = false) ∧
    (∃ (k : BitVec 3) (s : State) (b : BitVec 2), b ≠ 3 ∧ s.running (32 + k.toNat) = true ∧
      s.bufOwned k.toNat b.toNat = false ∧ ((s.can k.toNat).buf b.toNat).st = BufState.empty ∧
      frameMalformed (s.staging k.toNat) = false) ∧
    (∃ (k : BitVec 3) (s : State) (b : BitVec 2), b ≠ 3 ∧ s.running (32 + k.toNat) = true ∧
      s.bufOwned k.toNat b.toNat = false ∧ ((s.can k.toNat).buf b.toNat).st = BufState.loaded ∧
      frameMalformed (s.staging k.toNat) = false) ∧
    (∃ (k : BitVec 3) (s : State) (b : BitVec 2), b ≠ 3 ∧ s.running (32 + k.toNat) = true ∧
      s.bufOwned k.toNat b.toNat = false ∧ ((s.can k.toNat).buf b.toNat).st = BufState.pending) ∧
    (∃ (k : BitVec 3) (s : State) (b : BitVec 2), b ≠ 3 ∧ s.running (32 + k.toNat) = true ∧
      s.bufOwned k.toNat b.toNat = false ∧ ((s.can k.toNat).buf b.toNat).st = BufState.sending) ∧
    (∃ (k : BitVec 3) (s : State) (b : Nat), s.canMaySend k.toNat = true ∧ s.canChoose k.toNat = some b) ∧
    (∃ (k : BitVec 3) (s : State), s.canMaySend k.toNat = false) ∧
    (∃ (k : BitVec 3) (s : State), s.canChoose k.toNat = none) ∧
    (∃ (k : BitVec 3) (s : State) (b : Nat), (s.can k.toNat).sending = some b ∧ (s.can k.toNat).tec < 256 ∧
      s.canMode k.toNat ≠ 3) ∧
    (∃ (k : BitVec 3) (s : State) (b : Nat), (s.can k.toNat).sending = some b ∧
      ((s.can k.toNat).buf b).bridged = none ∧ (s.can k.toNat).conf ≠ CanConf.busOff ∧
      s.running (32 + k.toNat) = true ∧ ((s.can k.toNat).buf b).abort = false ∧ ((s.can k.toNat).buf b).ss = false) ∧
    (∃ (k : BitVec 3) (s : State) (b : Nat), (s.can k.toNat).sending = some b ∧
      ((s.can k.toNat).buf b).bridged = none ∧ (s.can k.toNat).conf ≠ CanConf.busOff ∧
      s.running (32 + k.toNat) = true ∧ ((s.can k.toNat).buf b).abort = false ∧ ((s.can k.toNat).buf b).ss = true) ∧
    (∃ (k : BitVec 3) (s : State) (f : CanFrame) (i : Nat), s.running (32 + k.toNat) = true ∧ s.canMode k.toNat = 0 ∧
      f.fdf = false ∧ (s.can k.toNat).integrating = false ∧ (s.can k.toNat).conf ≠ CanConf.busOff ∧
      (s.can k.toNat).tec < 256 ∧ s.canFilter k.toNat f = some i ∧ s.af (canBase k.toNat + 272 + 32 * i) 1 0 = 1 ∧
      (s.can k.toNat).rx0.entries.length + (f.data.length + 3) / 4 + 2 ≤ 256) :=
  ⟨⟨1, { live with funcs := (live.funcs.filter (fun f => !([33].contains f.1))) }, 1, by decide +kernel⟩,
   ⟨0, { live with cans := [(0, { integrating := false })] }, 1, by decide +kernel⟩,
   ⟨0, { live with cans := [(0, { b1 := { st := .loaded }, integrating := false })] }, 1, by decide +kernel⟩,
   ⟨0, { live with cans := [(0, { b1 := { st := .pending }, integrating := false })] }, 1, by decide +kernel⟩,
   ⟨0, { live with cans := [(0, { b1 := { st := .sending }, integrating := false })] }, 1, by decide +kernel⟩,
   ⟨1,
      { live with regs := [(0xc2000, 64)], cans := [(1, { b0 := { st := .pending }, integrating := false, conf := .passive })] },
      0, by decide +kernel⟩,
   ⟨1, live, by decide +kernel⟩,
   ⟨1, live, by decide +kernel⟩,
   ⟨0, { live with cans := [(0, { b1 := { st := .sending, ss := true }, integrating := false })] }, 1,
      by decide +kernel⟩,
   ⟨0, { live with cans := [(0, { b1 := { st := .sending }, integrating := false })] }, 1, by decide +kernel⟩,
   ⟨0, { live with cans := [(0, { b1 := { st := .sending, ss := true }, integrating := false })] }, 1,
      by decide +kernel⟩,
   ⟨1, { live with regs := [(0xc2000, 64)], applied := [(0xc2130, 5)], cans := [(1, { integrating := false })] },
      {}, 1, by decide +kernel⟩⟩

/-- States and operands that meet the hypotheses of the clauses of CanControllers. -/
theorem witness_CanControllers_2 :
    (∃ (k : BitVec 3) (s : State), s.running (32 + k.toNat) = true ∧ s.canMode k.toNat = 0 ∧
      (s.can k.toNat).conf ≠ CanConf.busOff ∧ (s.can k.toNat).tec < 256 ∧ 248 ≤ (s.can k.toNat).tec) ∧
    (∃ (k : BitVec 3) (s : State), (s.can k.toNat).conf = CanConf.busOff ∧ (s.can k.toNat).recovering = true) ∧
    (∃ (k : BitVec 3) (s : State), s.running (32 + k.toNat) = true ∧ (s.can k.toNat).conf = CanConf.busOff ∧
      s.rb (canBase k.toNat) 6 = false ∧ (s.can k.toNat).recovering = false) ∧
    (∃ (k : BitVec 3) (s : State), s.running (32 + k.toNat) = true ∧ s.rb (canBase k.toNat) 10 = false) ∧
    (∃ (k : BitVec 3) (s : State), s.running (32 + k.toNat) = false ∧ s.rb (canxWord k.toNat) 0 = true) ∧
    (∃ (k : BitVec 3) (s : State), s.detecting k.toNat = true) ∧
    (∃ (k : BitVec 3) (s : State) (q : BitVec 1) (e : DWord) (es : List DWord), ((s.can k.toNat).rx q.toNat).entries = e :: es) :=
  ⟨⟨1, { live with regs := [(0xc2000, 64)], cans := [(1, { tec := 248 })] }, by decide +kernel⟩,
   ⟨1, { live with cans := [(1, { conf := .busOff, recovering := true })] }, by decide +kernel⟩,
   ⟨1, { live with regs := [(0xc2000, 1)], cans := [(1, { conf := .busOff })] }, by decide +kernel⟩,
   ⟨1, live, by decide +kernel⟩,
   ⟨1, { live with regs := [(0x1003802, 1)], funcs := (live.funcs.filter (fun f => !([33].contains f.1))) },
      by decide +kernel⟩,
   ⟨1, { live with regs := [(0xc2000, 66)] }, by decide +kernel⟩,
   ⟨0, { live with cans := [(0, { rx0 := { entries := [7, 8] } })] }, 0, 7, [8], by decide +kernel⟩⟩

/-- States and operands that meet the hypotheses of the clauses of BridgeServes. -/
theorem witness_BridgeServes_1 :
    (∃ (u : BrgUnit) (r : List BrgUnit) (s : State), s.running 8 = true ∧ s.brg.ingress = u :: r ∧
      s.routeMatches u = []) ∧
    (∃ (u : BrgUnit) (r : List BrgUnit) (s : State) (i : Nat), s.running 8 = true ∧ s.brg.ingress = u :: r ∧
      s.routeMatches u = [i] ∧ s.ringLeads = true ∧ nbits (bankWord s.brg.bank i 0) 25 23 ≠ 0) ∧
    (∃ (d : Delivered) (s : State), (List.find? (fun d => d.sink == Sink.bridged) s.fwd.inbox = some d) ∧
      d.ordered = true ∧ d.late = true) ∧
    (∃ (d : Delivered) (s : State), (List.find? (fun d => d.sink == Sink.bridged) s.fwd.inbox = some d) ∧
      d.h.mc = true ∧ d.late = true) ∧
    (∃ (d : Delivered) (s : State), (List.find? (fun d => d.sink == Sink.bridged) s.fwd.inbox = some d) ∧
      d.ordered = true ∧ d.late = false ∧ s.running 8 = false) ∧
    (∃ (d : Delivered) (s : State), (List.find? (fun d => d.sink == Sink.bridged) s.fwd.inbox = some d) ∧
      d.h.mc = true ∧ d.late = false ∧ s.running 8 = false) ∧
    (∃ (d : Delivered) (s : State), (List.find? (fun d => d.sink == Sink.bridged) s.fwd.inbox = some d) ∧
      d.ordered = true ∧ d.late = false ∧ s.running 8 = true ∧ s.bridgePort (nbits d.h.addr.toNat 39 32) = true ∧
      nbits d.h.addr.toNat 39 32 < 8 ∧ s.canMode (nbits d.h.addr.toNat 39 32) = 0 ∧
      s.bridgeFormat (nbits d.h.addr.toNat 39 32) d.h (slice d.payload 12 (beNat (slice d.payload 0 4) % 2048)) (nbit (beNat (slice d.payload 0 4)) 11) (decide ((slice d.payload 12 (beNat (slice d.payload 0 4) % 2048)).length < beNat (slice d.payload 0 4) % 2048)) = false ∧
      (s.can (nbits d.h.addr.toNat 39 32)).egress.length < 32) ∧
    (∃ (d : Delivered) (s : State), (List.find? (fun d => d.sink == Sink.bridged) s.fwd.inbox = some d) ∧
      d.h.mc = true ∧ d.late = false ∧ s.running 8 = true ∧ s.bridgePort (nbits d.h.addr.toNat 39 32) = true ∧
      nbits d.h.addr.toNat 39 32 < 8 ∧ s.canMode (nbits d.h.addr.toNat 39 32) = 0 ∧
      s.bridgeFormat (nbits d.h.addr.toNat 39 32) d.h (slice d.payload 12 (beNat (slice d.payload 0 4) % 2048)) (nbit (beNat (slice d.payload 0 4)) 11) (decide ((slice d.payload 12 (beNat (slice d.payload 0 4) % 2048)).length < beNat (slice d.payload 0 4) % 2048)) = false ∧
      (s.can (nbits d.h.addr.toNat 39 32)).egress.length < 32) ∧
    (∃ (k : BitVec 3) (e : Egress) (r : List Egress) (b : Nat) (s : State), (s.can k.toNat).egress = e :: r ∧
      (s.can k.toNat).conf ≠ CanConf.busOff ∧ s.running (32 + k.toNat) = true ∧
      (List.find? (fun b => s.bufOwned k.toNat b && ((s.can k.toNat).buf b).st == BufState.empty) [0, 1, 2] = some b)) ∧
    (∃ (ch : BitVec 5) (e : Egress) (r : List Egress) (s : State), (s.uart ch.toNat).egress = e :: r ∧
      s.running (208 + ch.toNat) = true) ∧
    (∃ (d : Delivered) (s : State), (List.find? (fun d => d.sink == Sink.errorReturn) s.fwd.inbox = some d)) ∧
    (∃ (d : Delivered) (s : State), (List.find? (fun d => d.sink == Sink.appMsg) s.fwd.inbox = some d) ∧
      d.h.len.toNat = 0) :=
  ⟨⟨{ port := 1, key := 1, can := none, data := [], w9 := false, ns := 1 }, [],
      { live with brg := { ingress := [{ port := 1, key := 1, can := none, data := [], w9 := false, ns := 1 }] } },
      by decide +kernel⟩,
   ⟨{ port := 1, key := 0, can := none, data := [1], w9 := false, ns := 0 }, [],
      { live with brg := { bank0 := [(1, 1), (2, 128), (3, 128)], ingress := [{ port := 1, key := 0, can := none, data := [1], w9 := false, ns := 0 }] } },
      0, by decide +kernel⟩,
   ⟨{ sink := .bridged, port := .w, h := {}, payload := [], arrival := 1, corrections := 1, late := true, ordered := true },
      { live with fwd := { live.fwd with inbox := [{ sink := .bridged, port := .w, h := {}, payload := [], arrival := 1, corrections := 1, late := true, ordered := true }] } },
      by decide +kernel⟩,
   ⟨{ sink := .bridged, port := .w, h := { mc := true }, payload := [], arrival := 1, corrections := 1, late := true },
      { live with fwd := { live.fwd with inbox := [{ sink := .bridged, port := .w, h := { mc := true }, payload := [], arrival := 1, corrections := 1, late := true }] } },
      by decide +kernel⟩,
   ⟨{ sink := .bridged, port := .w, h := {}, payload := [], arrival := 1, corrections := 1, ordered := true },
      { live with funcs := (tabSet {} live.funcs 8 { st := .absent }), fwd := { live.fwd with inbox := [{ sink := .bridged, port := .w, h := {}, payload := [], arrival := 1, corrections := 1, ordered := true }] } },
      by decide +kernel⟩,
   ⟨{ sink := .bridged, port := .w, h := { mc := true }, payload := [], arrival := 1, corrections := 1 },
      { live with funcs := (tabSet {} live.funcs 8 { st := .absent }), fwd := { live.fwd with inbox := [{ sink := .bridged, port := .w, h := { mc := true }, payload := [], arrival := 1, corrections := 1 }] } },
      by decide +kernel⟩,
   ⟨{ sink := .bridged, port := .e, h := { typ := 7, mc := true, addr := 0x100000000 }, payload := [0, 0, 0, 2, 0, 0, 0, 0, 0, 0, 0, 0, 7, 8], arrival := 0, corrections := 0, ordered := true },
      { live with regs := [(0xc2000, 256)], fwd := { live.fwd with inbox := [{ sink := .bridged, port := .e, h := { typ := 7, mc := true, addr := 0x100000000 }, payload := [0, 0, 0, 2, 0, 0, 0, 0, 0, 0, 0, 0, 7, 8], arrival := 0, corrections := 0, ordered := true }] } },
      by decide +kernel⟩,
   ⟨{ sink := .bridged, port := .e, h := { typ := 7, mc := true, addr := 0x100000000 }, payload := [0, 0, 0, 2, 0, 0, 0, 0, 0, 0, 0, 0, 7, 8], arrival := 0, corrections := 0 },
      { live with regs := [(0xc2000, 256)], fwd := { live.fwd with inbox := [{ sink := .bridged, port := .e, h := { typ := 7, mc := true, addr := 0x100000000 }, payload := [0, 0, 0, 2, 0, 0, 0, 0, 0, 0, 0, 0, 7, 8], arrival := 0, corrections := 0 }] } },
      by decide +kernel⟩,
   ⟨0, { h := {}, data := [], w9 := false }, [], 2,
      { live with regs := [(0xc0000, 256)], cans := [(0, { egress := [{ h := {}, data := [], w9 := false }] })] },
      by decide +kernel⟩,
   ⟨1, { h := {}, data := [], w9 := false }, [],
      { live with uarts := [(1, { egress := [{ h := {}, data := [], w9 := false }] })] }, by decide +kernel⟩,
   ⟨{ sink := .errorReturn, port := .w, h := {}, payload := [], arrival := 1, corrections := 1 },
      { live with fwd := { live.fwd with inbox := [{ sink := .errorReturn, port := .w, h := {}, payload := [], arrival := 1, corrections := 1 }] } },
      by decide +kernel⟩,
   ⟨{ sink := .appMsg, port := .w, h := {}, payload := [], arrival := 1, corrections := 1 },
      { live with fwd := { live.fwd with inbox := [{ sink := .appMsg, port := .w, h := {}, payload := [], arrival := 1, corrections := 1 }] } },
      by decide +kernel⟩⟩

/-- States and operands that meet the hypotheses of the clauses of BridgeServes. -/
theorem witness_BridgeServes_2 :
    (∃ (d : Delivered) (s : State), (List.find? (fun d => d.sink == Sink.appMsg) s.fwd.inbox = some d) ∧
      16 < d.h.len.toNat) ∧
    (∃ (d : Delivered) (s : State), (List.find? (fun d => d.sink == Sink.appMsg) s.fwd.inbox = some d) ∧
      1 ≤ d.h.len.toNat ∧ d.h.len.toNat ≤ 16 ∧ s.brg.msgq.entries.length + d.h.len.toNat + 2 ≤ 256) ∧
    (∃ (e : DWord) (es : List DWord) (s : State), s.brg.msgq.entries = e :: es) ∧
    (∃ (s : State), s.brg.sh = BankState.opened) ∧
    (∃ (s : State), s.brg.sh ≠ BankState.opened) ∧
    (∃ (s : State), s.brg.req = false) ∧
    (∃ (s : State), s.brg.sh = BankState.sorting ∧ (s.func 8).st ≠ FState.stopped) ∧
    (∃ (s : State), s.brg.req = true ∧ s.brg.sh = BankState.ready) ∧
    (∃ (s : State), s.brg.sh ≠ BankState.ready) ∧
    (∃ (s : State), (s.func 8).st = FState.stopped ∧ s.brg.sh = BankState.ready) :=
  ⟨⟨{ sink := .appMsg, port := .w, h := { len := 17 }, payload := [], arrival := 1, corrections := 1 },
      { live with fwd := { live.fwd with inbox := [{ sink := .appMsg, port := .w, h := { len := 17 }, payload := [], arrival := 1, corrections := 1 }] } },
      by decide +kernel⟩,
   ⟨{ sink := .appMsg, port := .w, h := { len := 1 }, payload := [], arrival := 1, corrections := 1 },
      { live with fwd := { live.fwd with inbox := [{ sink := .appMsg, port := .w, h := { len := 1 }, payload := [], arrival := 1, corrections := 1 }] } },
      by decide +kernel⟩,
   ⟨1, [], { live with brg := { msgq := { entries := [1] } } }, by decide +kernel⟩,
   ⟨live, by decide +kernel⟩,
   ⟨{ live with brg := { sh := .ready } }, by decide +kernel⟩,
   ⟨live, by decide +kernel⟩,
   ⟨{ live with brg := { sh := .sorting } }, by decide +kernel⟩,
   ⟨{ live with brg := { sh := .ready, req := true } }, by decide +kernel⟩,
   ⟨live, by decide +kernel⟩,
   ⟨{ live with funcs := (live.funcs.filter (fun f => !([8].contains f.1))), brg := { sh := .ready } },
      by decide +kernel⟩⟩

/-- States and operands that meet the hypotheses of the clauses of UsbConnects. -/
theorem witness_UsbConnects :
    (∃ (mv : BitVec 16), 4000 ≤ mv.toNat) ∧
    (∃ (mv : BitVec 16), 3500 ≤ mv.toNat ∧ mv.toNat < 4000) ∧
    (∃ (mv : BitVec 16), mv.toNat < 3500) ∧
    (∃ (s : State), s.running 9 = true ∧ s.rb 851984 0 = true ∧ s.usb.vbusOk = true ∧ s.usb.pullup = false) ∧
    (∃ (s : State), s.running 9 = false) ∧
    (∃ (s : State), s.usb.vbusOk = false) ∧
    (∃ (s : State), s.usb.pullup = true ∧ s.usb.suspended = false) ∧
    (∃ (s : State), s.usb.suspended = true ∧ s.usb.fn.rwake = true ∧ s.usb.cancelled = false ∧
      s.usb.wake = WakePhase.none ∧ s.usb.drove = false) ∧
    (∃ (s : State), s.usb.wake = WakePhase.pending) ∧
    (∃ (s : State), s.usb.wake = WakePhase.sense) ∧
    (∃ (s : State), s.usb.wake = WakePhase.drive) :=
  ⟨⟨4000, by decide +kernel⟩,
   ⟨3500, by decide +kernel⟩,
   ⟨1, by decide +kernel⟩,
   ⟨{ live with usb := { live.usb with pullup := false } }, by decide +kernel⟩,
   ⟨{ live with funcs := (tabSet {} live.funcs 9 { st := .starting }) }, by decide +kernel⟩,
   ⟨{ live with usb := { live.usb with vbusOk := false } }, by decide +kernel⟩,
   ⟨live, by decide +kernel⟩,
   ⟨{ live with usb := { live.usb with fn := { live.usb.fn with rwake := true }, suspended := true } },
      by decide +kernel⟩,
   ⟨{ live with usb := { live.usb with wake := .pending } }, by decide +kernel⟩,
   ⟨{ live with usb := { live.usb with wake := .sense } }, by decide +kernel⟩,
   ⟨{ live with usb := { live.usb with wake := .drive } }, by decide +kernel⟩⟩

/-- States and operands that meet the hypotheses of the clauses of UsbHubServes. -/
theorem witness_UsbHubServes :
    (∃ (k : BitVec 3) (s : State), 1 ≤ k.toNat ∧ k.toNat ≤ 4 ∧ (s.usbPort k.toNat).power = true ∧
      (s.usbPort k.toNat).attached = true ∧ (s.usbPort k.toNat).connect = false) ∧
    (∃ (k : BitVec 3) (s : State), 1 ≤ k.toNat ∧ k.toNat ≤ 4 ∧ (s.usbPort k.toNat).power = false) ∧
    (∃ (k : BitVec 3) (s : State), 1 ≤ k.toNat ∧ k.toNat ≤ 4 ∧ (s.usbPort k.toNat).connect = true) ∧
    (∃ (k : BitVec 3) (s : State), 1 ≤ k.toNat ∧ k.toNat ≤ 4 ∧ s.usb.suspended = false ∧
      (s.usbPort k.toNat).susp = true ∧ (s.usbPort k.toNat).resuming = false) ∧
    (∃ (k : BitVec 3) (s : State), 1 ≤ k.toNat ∧ k.toNat ≤ 4 ∧ (s.usbPort k.toNat).resuming = true) ∧
    (∃ (k : BitVec 3) (s : State), 1 ≤ k.toNat ∧ k.toNat ≤ 4 ∧ s.usb.pullup = true ∧ s.usb.hub.config = true) ∧
    (∃ (k : BitVec 3) (s : State), s.usb.hub.config = true ∧ (s.tt (s.ttOf k.toNat)).bufs.length < 2) ∧
    (∃ (k : BitVec 3) (s : State), s.usb.hub.config = true ∧ 2 ≤ (s.tt (s.ttOf k.toNat)).bufs.length) ∧
    (∃ (k : BitVec 3) (f : BitVec 14) (s : State), s.usb.hub.config = true ∧ (s.tt (s.ttOf k.toNat)).uframe ≠ f.toNat) ∧
    (∃ (k : BitVec 3) (id : BitVec 16) (s : State), (s.tt (s.ttOf k.toNat)).bufs.contains id = true) :=
  ⟨⟨1, { live with usb := { live.usb with ports := [(1, { attached := true, power := true })] } }, by decide +kernel⟩,
   ⟨1, live, by decide +kernel⟩,
   ⟨1, { live with usb := { live.usb with ports := [(1, { connect := true })] } }, by decide +kernel⟩,
   ⟨1, { live with usb := { live.usb with ports := [(1, { susp := true })] } }, by decide +kernel⟩,
   ⟨1, { live with usb := { live.usb with ports := [(1, { resuming := true })] } }, by decide +kernel⟩,
   ⟨1, live, by decide +kernel⟩,
   ⟨1, live, by decide +kernel⟩,
   ⟨1, { live with usb := { live.usb with tts := [(1, { bufs := [1, 1] })] } }, by decide +kernel⟩,
   ⟨1, 1, live, by decide +kernel⟩,
   ⟨1, 1, { live with usb := { live.usb with tts := [(1, { bufs := [1] })] } }, by decide +kernel⟩⟩

/-- States and operands that meet the hypotheses of the clauses of UsbFunctionServes. -/
theorem witness_UsbFunctionServes_1 :
    (∃ (v : BitVec 16) (s : State), s.usb.pullup = true ∧ s.running 10 = true ∧ v.toNat / 256 = 1) ∧
    (∃ (ep : Byte) (i : Nat) (s : State), epIndex ep = some i ∧ s.usb.fn.config = true) ∧
    (∃ (s : State), s.usb.fn.config = true ∧ s.epHalted 0 = true) ∧
    (∃ (toggle : Bool) (s : State), s.usb.fn.config = true ∧ s.epHalted 0 = false ∧
      toggle ≠ nbit s.usb.toggles.toNat 0) ∧
    (∃ (room : Nat) (s : State), s.usb.fn.config = true ∧ s.epHalted 0 = false ∧ room ≠ 0) ∧
    (∃ (a : BitVec 32) (len : Nat) (s : State), s.running 10 = true ∧ s.usb.pullup = true ∧ s.usb.fn.config = true ∧
      s.usb.ctl = none ∧ s.rb 868356 0 = true ∧ 16777216 ≤ a.toNat ∧ 1 ≤ len ∧ len ≤ 4096) ∧
    (∃ (a : BitVec 32) (data : List Byte) (s : State), s.running 10 = true ∧ s.usb.pullup = true ∧
      s.usb.fn.config = true ∧ s.usb.ctl = none ∧ s.rb 868356 0 = true ∧ 16777216 ≤ a.toNat ∧ 1 ≤ data.length ∧
      data.length ≤ 4096) ∧
    (∃ (c : UsbCtl) (s : State), s.boot.request = 0 ∧ s.usb.ctl = some c ∧ c.answer = true ∧ s.rb 868356 0 = true ∧
      spanRegion c.addr.toNat c.len = Sum.inl 1 ∧ c.write = false) ∧
    (∃ (c : UsbCtl) (s : State), s.boot.request = 0 ∧ s.usb.ctl = some c ∧ c.answer = true ∧ s.rb 868356 0 = true ∧
      spanRegion c.addr.toNat c.len = Sum.inl 1 ∧ c.write = true ∧ c.data ≠ [] ∧ c.data.length = c.len) ∧
    (∃ (b : List Byte) (s : State), s.boot.request = 0 ∧ s.running 10 = true ∧ s.usb.pullup = true ∧
      s.usb.fn.config = true ∧ s.epHalted 0 = false ∧ blockOps.contains (b.getD 0 0) = false) ∧
    (∃ (b : List Byte) (s : State), s.boot.request = 0 ∧ s.running 10 = true ∧ s.usb.pullup = true ∧
      s.usb.fn.config = true ∧ s.epHalted 0 = false ∧ b.getD 0 0 = 1 ∧ blockOk b = true ∧
      s.usb.blocks.length < s.rf 868352 3 0 ∧ s.running 5 = false ∧
      (s.window (leNat (slice b 4 6) / 2 ^ 24)).pw = false ∧
      (∀ (k : UsbBlock), k ∈ s.usb.blocks → k.id ≠ s.usb.nextBlock)) ∧
    (∃ (b : List Byte) (s : State), s.boot.request = 0 ∧ s.running 10 = true ∧ s.usb.pullup = true ∧
      s.usb.fn.config = true ∧ s.epHalted 0 = false ∧ b.getD 0 0 = 2 ∧ blockOk b = true ∧
      s.usb.blocks.length < s.rf 868352 3 0 ∧ s.running 5 = false ∧
      (s.window (leNat (slice b 4 6) / 2 ^ 24)).pw = false ∧
      (∀ (k : UsbBlock), k ∈ s.usb.blocks → k.id ≠ s.usb.nextBlock)) :=
  ⟨⟨257, live, by decide +kernel⟩,
   ⟨1, 0, live, by decide +kernel⟩,
   ⟨{ live with usb := { live.usb with halt := 1 } }, by decide +kernel⟩,
   ⟨true, live, by decide +kernel⟩,
   ⟨1, live, by decide +kernel⟩,
   ⟨0x1000000, 1, live, by decide +kernel⟩,
   ⟨0x1000000, [1], live, by decide +kernel⟩,
   ⟨{ write := false, addr := 0x10000010, len := 4, data := [] },
      { live with usb := { live.usb with ctl := some { write := false, addr := 0x10000010, len := 4, data := [] } } },
      by decide +kernel⟩,
   ⟨{ write := true, addr := 0x10000010, len := 2, data := [7, 8] },
      { live with usb := { live.usb with ctl := some { write := true, addr := 0x10000010, len := 2, data := [7, 8] } } },
      by decide +kernel⟩,
   ⟨[], live, by decide +kernel⟩,
   ⟨[1, 0, 5, 0, 0, 0, 0, 0, 0, 0, 4, 0, 0, 0, 0, 0],
      { live with funcs := (live.funcs.filter (fun f => !([5].contains f.1))) }, by decide +kernel⟩,
   ⟨[2, 0, 5, 0, 0, 0, 0, 0, 0, 0, 2, 0, 0, 0, 0, 0, 7, 8],
      { live with funcs := (live.funcs.filter (fun f => !([5].contains f.1))) }, by decide +kernel⟩⟩

/-- States and operands that meet the hypotheses of the clauses of UsbFunctionServes. -/
theorem witness_UsbFunctionServes_2 :
    (∃ (b : List Byte) (s : State), s.boot.request = 0 ∧ s.running 10 = true ∧ s.usb.pullup = true ∧
      s.usb.fn.config = true ∧ s.epHalted 0 = false ∧ b.getD 0 0 = 17 ∧ blockOk b = true ∧
      s.usb.blocks.length < s.rf 868352 3 0 ∧ s.rb 868356 0 = true ∧
      spanRegion (leNat (slice b 4 6)) (leNat (slice b 10 2)) = Sum.inl 1 ∧
      (∀ (k : UsbBlock), k ∈ s.usb.blocks → k.id ≠ s.usb.nextBlock)) ∧
    (∃ (b : List Byte) (s : State), s.boot.request = 0 ∧ s.running 10 = true ∧ s.usb.pullup = true ∧
      s.usb.fn.config = true ∧ s.epHalted 0 = false ∧ b.getD 0 0 = 18 ∧ blockOk b = true ∧
      s.usb.blocks.length < s.rf 868352 3 0 ∧ s.rb 868356 0 = true ∧
      spanRegion (leNat (slice b 4 6)) (leNat (slice b 10 2)) = Sum.inl 1) ∧
    (∃ (k : UsbBlock) (rest : List UsbBlock) (s : State) (st : Nat) (det : Nat) (done : Nat) (data : List Byte), s.usb.blocks = k :: rest ∧
      s.epHalted 1 = false ∧ k.result = some (st, det, done, data)) ∧
    (∃ (k : UsbBlock) (rest : List UsbBlock) (s : State), s.usb.blocks = k :: rest ∧ s.epHalted 1 = false ∧
      k.result = none) ∧
    (∃ (k : UsbBlock) (rest : List UsbBlock) (s : State), s.usb.blocks = k :: rest ∧ s.epHalted 1 = true) ∧
    (∃ (s : State), s.usb.fn.config = true ∧ s.usb.suspended = false ∧ s.epHalted 2 = true) ∧
    (∃ (s : State), s.usb.fn.config = true ∧ s.usb.suspended = false ∧ s.epHalted 2 = false ∧ s.usbQueue = none) :=
  ⟨⟨[17, 0, 5, 0, 16, 0, 0, 16, 0, 0, 4, 0, 0, 0, 0, 0], live, by decide +kernel⟩,
   ⟨[18, 0, 5, 0, 16, 0, 0, 16, 0, 0, 2, 0, 0, 0, 0, 0, 7, 8], live, by decide +kernel⟩,
   ⟨{ id := 1, op := 1, tag := 1, len := 1, issued := false, result := some (1, (1, (1, []))) }, [],
      { live with usb := { live.usb with blocks := [{ id := 1, op := 1, tag := 1, len := 1, issued := false, result := some (1, (1, (1, []))) }] } },
      1, 1, 1, [], by decide +kernel⟩,
   ⟨{ id := 1, op := 1, tag := 1, len := 1, issued := false, result := none }, [],
      { live with usb := { live.usb with blocks := [{ id := 1, op := 1, tag := 1, len := 1, issued := false, result := none }] } },
      by decide +kernel⟩,
   ⟨{ id := 1, op := 1, tag := 1, len := 1, issued := false, result := none }, [],
      { live with usb := { live.usb with halt := 2, blocks := [{ id := 1, op := 1, tag := 1, len := 1, issued := false, result := none }] } },
      by decide +kernel⟩,
   ⟨{ live with usb := { live.usb with halt := 4 } }, by decide +kernel⟩,
   ⟨live, by decide +kernel⟩⟩

/-- States and operands that meet the hypotheses of the clauses of HrkComputes. -/
theorem witness_HrkComputes :
    (∃ (p : Pair) (s : State), Issuing p s) :=
  ⟨.a, live, by delta Issuing; decide +kernel⟩

/-- States and operands that meet the hypotheses of the clauses of HrkDivides. -/
theorem witness_HrkDivides :
    (∃ (p : Pair) (s : State), Issuing p s) :=
  ⟨.a, live, by delta Issuing; decide +kernel⟩

/-- States and operands that meet the hypotheses of the clauses of HrkJumps. -/
theorem witness_HrkJumps :
    (∃ (p : Pair) (a : BitVec 4) (i : BitVec 14) (s : State), Issuing p s ∧
      BitVec.toNat ((s.ncp p).reg a + BitVec.signExtend 32 i) % 4 = 0) ∧
    (∃ (p : Pair) (a : BitVec 4) (i : BitVec 14) (s : State), Issuing p s ∧
      BitVec.toNat ((s.ncp p).reg a + BitVec.signExtend 32 i) % 4 ≠ 0 ∧ (s.ncp p).intrap = false) ∧
    (∃ (p : Pair) (s : State), s.issues p = true ∧ (s.ncp p).wfe = false ∧ fetchable (s.ncp p).pc = false ∧
      (s.ncp p).intrap = false) :=
  ⟨⟨.a, 1, 1, { live with ncpA := { live.ncpA with g := [(1, 0xffffffff)] } }, by delta Issuing; decide +kernel⟩,
   ⟨.a, 1, 1, live, by delta Issuing; decide +kernel⟩,
   ⟨.a, { live with ncpA := { pc := 0xf0000000 } }, by decide +kernel⟩⟩

/-- States and operands that meet the hypotheses of the clauses of HrkTraps. -/
theorem witness_HrkTraps_1 :
    (∃ (p : Pair) (w : Word) (s : State), Issuing p s ∧ (s.ncp p).intrap = false ∧ legalWord w = false) ∧
    (∃ (p : Pair) (n : BitVec 12) (s : State), Issuing p s ∧ (s.ncp p).intrap = false ∧ sysRegListed n.toNat = false) ∧
    (∃ (p : Pair) (d : BitVec 4) (s : State), Issuing p s ∧ (s.ncp p).intrap = false ∧ d.toNat % 2 = 1) ∧
    (∃ (p : Pair) (n : BitVec 12) (s : State), Issuing p s ∧ (s.ncp p).intrap = false ∧ (s.ncp p).sys = false ∧
      sysRegListed n.toNat = true ∧ n ≠ 0 ∧ ¬n.toNat ∈ [8, 9, 10]) ∧
    (∃ (p : Pair) (a : BitVec 4) (i : BitVec 14) (s : State), Issuing p s ∧ (s.ncp p).intrap = false ∧
      BitVec.toNat ((s.ncp p).reg a + BitVec.signExtend 32 i) % 2 = 0 ∧
      (s.ncp p).allowed AccessKind.read ((s.ncp p).reg a + BitVec.signExtend 32 i) = false) ∧
    (∃ (p : Pair) (a : BitVec 4) (i : BitVec 14) (s : State), Issuing p s ∧ (s.ncp p).intrap = false ∧
      BitVec.toNat ((s.ncp p).reg a + BitVec.signExtend 32 i) % 4 = 0 ∧
      (s.ncp p).allowed AccessKind.read ((s.ncp p).reg a + BitVec.signExtend 32 i) = false) ∧
    (∃ (p : Pair) (a : BitVec 4) (i : BitVec 14) (s : State), Issuing p s ∧ (s.ncp p).intrap = false ∧
      BitVec.toNat ((s.ncp p).reg a + BitVec.signExtend 32 i) % 2 = 0 ∧
      (s.ncp p).allowed AccessKind.read ((s.ncp p).reg a + BitVec.signExtend 32 i) = true ∧
      placeOf ((s.ncp p).reg a + BitVec.signExtend 32 i) = Place.nothing) ∧
    (∃ (p : Pair) (a : BitVec 4) (i : BitVec 14) (s : State), Issuing p s ∧ (s.ncp p).intrap = false ∧
      BitVec.toNat ((s.ncp p).reg a + BitVec.signExtend 32 i) % 4 = 0 ∧
      (s.ncp p).allowed AccessKind.read ((s.ncp p).reg a + BitVec.signExtend 32 i) = true ∧
      placeOf ((s.ncp p).reg a + BitVec.signExtend 32 i) = Place.nothing) ∧
    (∃ (p : Pair) (a : BitVec 4) (i : BitVec 14) (s : State), Issuing p s ∧ (s.ncp p).intrap = false ∧
      s.boot.request = 0 ∧ BitVec.toNat ((s.ncp p).reg a + BitVec.signExtend 32 i) % 2 ≠ 0) ∧
    (∃ (p : Pair) (a : BitVec 4) (i : BitVec 14) (s : State), Issuing p s ∧ (s.ncp p).intrap = false ∧
      s.boot.request = 0 ∧ BitVec.toNat ((s.ncp p).reg a + BitVec.signExtend 32 i) % 4 ≠ 0) ∧
    (∃ (p : Pair) (a : BitVec 4) (i : BitVec 14) (s : State), Issuing p s ∧ (s.ncp p).intrap = false ∧
      s.boot.request = 0 ∧ BitVec.toNat ((s.ncp p).reg a + BitVec.signExtend 32 i) % 1 = 0 ∧
      (s.ncp p).allowed AccessKind.write ((s.ncp p).reg a + BitVec.signExtend 32 i) = false) ∧
    (∃ (p : Pair) (a : BitVec 4) (i : BitVec 14) (s : State), Issuing p s ∧ (s.ncp p).intrap = false ∧
      s.boot.request = 0 ∧ BitVec.toNat ((s.ncp p).reg a + BitVec.signExtend 32 i) % 2 = 0 ∧
      (s.ncp p).allowed AccessKind.write ((s.ncp p).reg a + BitVec.signExtend 32 i) = false) :=
  ⟨⟨.a, 1, live, by delta Issuing; decide +kernel⟩,
   ⟨.a, 48, live, by delta Issuing; decide +kernel⟩,
   ⟨.a, 1, live, by delta Issuing; decide +kernel⟩,
   ⟨.a, 7,
      { live with ncpA := { live.ncpA with sys := false, mpuBase := [(0, 0x10000000)], mpuCfg := [(0, 3081)] } },
      by delta Issuing; decide +kernel⟩,
   ⟨.a, 1, 0,
      { live with ncpA := { live.ncpA with g := [(1, 0x20000008)], sys := false, mpuBase := [(0, 0x10000000)], mpuCfg := [(0, 3081)] } },
      by delta Issuing; decide +kernel⟩,
   ⟨.a, 1, 0,
      { live with ncpA := { live.ncpA with g := [(1, 0x20000008)], sys := false, mpuBase := [(0, 0x10000000)], mpuCfg := [(0, 3081)] } },
      by delta Issuing; decide +kernel⟩,
   ⟨.a, 1, 0, { live with ncpA := { live.ncpA with g := [(1, 0xf0000000)] } }, by delta Issuing; decide +kernel⟩,
   ⟨.a, 1, 0, { live with ncpA := { live.ncpA with g := [(1, 0xf0000000)] } }, by delta Issuing; decide +kernel⟩,
   ⟨.a, 1, 0, { live with ncpA := { live.ncpA with g := [(1, 0x20000009)] } }, by delta Issuing; decide +kernel⟩,
   ⟨.a, 1, 0, { live with ncpA := { live.ncpA with g := [(1, 0x20000009)] } }, by delta Issuing; decide +kernel⟩,
   ⟨.a, 1, 0,
      { live with ncpA := { live.ncpA with g := [(1, 0x20000008)], sys := false, mpuBase := [(0, 0x10000000)], mpuCfg := [(0, 3081)] } },
      by delta Issuing; decide +kernel⟩,
   ⟨.a, 1, 0,
      { live with ncpA := { live.ncpA with g := [(1, 0x20000008)], sys := false, mpuBase := [(0, 0x10000000)], mpuCfg := [(0, 3081)] } },
      by delta Issuing; decide +kernel⟩⟩

/-- States and operands that meet the hypotheses of the clauses of HrkTraps. -/
theorem witness_HrkTraps_2 :
    (∃ (p : Pair) (a : BitVec 4) (i : BitVec 14) (s : State), Issuing p s ∧ (s.ncp p).intrap = false ∧
      s.boot.request = 0 ∧ BitVec.toNat ((s.ncp p).reg a + BitVec.signExtend 32 i) % 4 = 0 ∧
      (s.ncp p).allowed AccessKind.write ((s.ncp p).reg a + BitVec.signExtend 32 i) = false) ∧
    (∃ (p : Pair) (a : BitVec 4) (i : BitVec 14) (s : State), Issuing p s ∧ (s.ncp p).intrap = false ∧
      s.boot.request = 0 ∧ BitVec.toNat ((s.ncp p).reg a + BitVec.signExtend 32 i) % 1 = 0 ∧
      (s.ncp p).allowed AccessKind.write ((s.ncp p).reg a + BitVec.signExtend 32 i) = true ∧
      placeOf ((s.ncp p).reg a + BitVec.signExtend 32 i) = Place.nothing) ∧
    (∃ (p : Pair) (a : BitVec 4) (i : BitVec 14) (s : State), Issuing p s ∧ (s.ncp p).intrap = false ∧
      s.boot.request = 0 ∧ BitVec.toNat ((s.ncp p).reg a + BitVec.signExtend 32 i) % 2 = 0 ∧
      (s.ncp p).allowed AccessKind.write ((s.ncp p).reg a + BitVec.signExtend 32 i) = true ∧
      placeOf ((s.ncp p).reg a + BitVec.signExtend 32 i) = Place.nothing) ∧
    (∃ (p : Pair) (a : BitVec 4) (i : BitVec 14) (s : State), Issuing p s ∧ (s.ncp p).intrap = false ∧
      s.boot.request = 0 ∧ BitVec.toNat ((s.ncp p).reg a + BitVec.signExtend 32 i) % 4 = 0 ∧
      (s.ncp p).allowed AccessKind.write ((s.ncp p).reg a + BitVec.signExtend 32 i) = true ∧
      placeOf ((s.ncp p).reg a + BitVec.signExtend 32 i) = Place.nothing) ∧
    (∃ (p : Pair) (a : BitVec 4) (s : State), Issuing p s ∧ (s.ncp p).intrap = false ∧
      BitVec.toNat ((s.ncp p).reg a) % 4 ≠ 0) ∧
    (∃ (p : Pair) (a : BitVec 4) (s : State), Issuing p s ∧ (s.ncp p).intrap = false ∧
      BitVec.toNat ((s.ncp p).reg a) % 4 = 0 ∧ (s.ncp p).allowed AccessKind.read ((s.ncp p).reg a) = true ∧
      (s.ncp p).allowed AccessKind.write ((s.ncp p).reg a) = true ∧ sharedPlace ((s.ncp p).reg a) = false) ∧
    (∃ (p : Pair) (a : BitVec 4) (s : State), Issuing p s ∧ (s.ncp p).intrap = false ∧
      nbits (BitVec.toNat ((s.ncp p).reg a)) 15 10 ≠ 0) ∧
    (∃ (p : Pair) (a : BitVec 4) (s : State), Issuing p s ∧ (s.ncp p).intrap = false ∧
      softSource p (BitVec.toNat ((s.ncp p).reg a) % 1024) = false) :=
  ⟨⟨.a, 1, 0,
      { live with ncpA := { live.ncpA with g := [(1, 0x20000008)], sys := false, mpuBase := [(0, 0x10000000)], mpuCfg := [(0, 3081)] } },
      by delta Issuing; decide +kernel⟩,
   ⟨.a, 1, 0, { live with ncpA := { live.ncpA with g := [(1, 0xf0000000)] } }, by delta Issuing; decide +kernel⟩,
   ⟨.a, 1, 0, { live with ncpA := { live.ncpA with g := [(1, 0xf0000000)] } }, by delta Issuing; decide +kernel⟩,
   ⟨.a, 1, 0, { live with ncpA := { live.ncpA with g := [(1, 0xf0000000)] } }, by delta Issuing; decide +kernel⟩,
   ⟨.a, 1, { live with ncpA := { live.ncpA with g := [(1, 0x20000009)] } }, by delta Issuing; decide +kernel⟩,
   ⟨.a, 1, { live with ncpA := { live.ncpA with g := [(1, 0x40000008)] } }, by delta Issuing; decide +kernel⟩,
   ⟨.a, 1, { live with ncpA := { live.ncpA with g := [(1, 0x20000408)] } }, by delta Issuing; decide +kernel⟩,
   ⟨.a, 1, { live with ncpA := { live.ncpA with g := [(1, 0x20000008)] } }, by delta Issuing; decide +kernel⟩⟩

/-- States and operands that meet the hypotheses of the clauses of HrkDoubleTrap. -/
theorem witness_HrkDoubleTrap :
    (∃ (p : Pair) (w : Word) (s : State), Issuing p s ∧ (s.ncp p).intrap = true ∧ Roomy 1 s ∧
      (s.ncp p).bootrom = false ∧ legalWord w = false) ∧
    (∃ (p : Pair) (s : State), Issuing p s ∧ (s.ncp p).intrap = true ∧ Roomy 1 s ∧ (s.ncp p).bootrom = false ∧
      (s.ncp p).sys = false) ∧
    (∃ (p : Pair) (a : BitVec 4) (i : BitVec 14) (s : State), Issuing p s ∧ (s.ncp p).intrap = true ∧ Roomy 1 s ∧
      (s.ncp p).bootrom = false ∧ BitVec.toNat ((s.ncp p).reg a + BitVec.signExtend 32 i) % 4 ≠ 0) ∧
    (∃ (p : Pair) (a : BitVec 4) (i : BitVec 14) (s : State), Issuing p s ∧ (s.ncp p).intrap = true ∧ Roomy 1 s ∧
      (s.ncp p).bootrom = false ∧ BitVec.toNat ((s.ncp p).reg a + BitVec.signExtend 32 i) % 4 = 0 ∧
      (s.ncp p).allowed AccessKind.read ((s.ncp p).reg a + BitVec.signExtend 32 i) = false) ∧
    (∃ (p : Pair) (a : BitVec 4) (i : BitVec 14) (s : State), Issuing p s ∧ (s.ncp p).intrap = true ∧ Roomy 1 s ∧
      (s.ncp p).bootrom = false ∧ BitVec.toNat ((s.ncp p).reg a + BitVec.signExtend 32 i) % 4 = 0 ∧
      (s.ncp p).allowed AccessKind.read ((s.ncp p).reg a + BitVec.signExtend 32 i) = true ∧
      placeOf ((s.ncp p).reg a + BitVec.signExtend 32 i) = Place.nothing) ∧
    (∃ (p : Pair) (a : BitVec 4) (s : State), Issuing p s ∧ (s.ncp p).intrap = true ∧ Roomy 1 s ∧
      (s.ncp p).bootrom = false ∧ nbits (BitVec.toNat ((s.ncp p).reg a)) 15 10 ≠ 0) :=
  ⟨⟨.a, 0xffffffff, { live with ncpA := { live.ncpA with intrap := true } }, by delta Issuing Roomy; decide +kernel⟩,
   ⟨.a,
      { live with ncpA := { live.ncpA with sys := false, intrap := true, mpuBase := [(0, 0x10000000)], mpuCfg := [(0, 3081)] } },
      by delta Issuing Roomy; decide +kernel⟩,
   ⟨.a, 1, 0, { live with ncpA := { live.ncpA with g := [(1, 1)], intrap := true } },
      by delta Issuing Roomy; decide +kernel⟩,
   ⟨.a, 1, 0,
      { live with ncpA := { live.ncpA with g := [(1, 0x20000008)], sys := false, intrap := true, mpuBase := [(0, 0x10000000)], mpuCfg := [(0, 3081)] } },
      by delta Issuing Roomy; decide +kernel⟩,
   ⟨.a, 1, 0, { live with ncpA := { live.ncpA with g := [(1, 0xf0000000)], intrap := true } },
      by delta Issuing Roomy; decide +kernel⟩,
   ⟨.a, 1, { live with ncpA := { live.ncpA with g := [(1, 1024)], intrap := true } },
      by delta Issuing Roomy; decide +kernel⟩⟩

/-- States and operands that meet the hypotheses of the clauses of HrkMemoryAccesses. -/
theorem witness_HrkMemoryAccesses_1 :
    (∃ (p : Pair) (d : BitVec 4) (a : BitVec 4) (post : Bool) (i : BitVec 14) (s : State) (o : Nat), Issuing p s ∧
      (post = true → a ≠ 0) ∧
      (placeOf (if post = true then (s.ncp p).reg a else (s.ncp p).reg a + BitVec.signExtend 32 i) = Place.data o) ∧
      ((s.ncp p).allowed AccessKind.read (if post = true then (s.ncp p).reg a else (s.ncp p).reg a + BitVec.signExtend 32 i) = true) ∧
      (BitVec.toNat (if post = true then (s.ncp p).reg a else (s.ncp p).reg a + BitVec.signExtend 32 i) % 1 = 0) ∧
      (post = true → d ≠ a)) ∧
    (∃ (p : Pair) (d : BitVec 4) (a : BitVec 4) (post : Bool) (i : BitVec 14) (s : State) (o : Nat), Issuing p s ∧
      (post = true → a ≠ 0) ∧
      (placeOf (if post = true then (s.ncp p).reg a else (s.ncp p).reg a + BitVec.signExtend 32 i) = Place.data o) ∧
      ((s.ncp p).allowed AccessKind.read (if post = true then (s.ncp p).reg a else (s.ncp p).reg a + BitVec.signExtend 32 i) = true) ∧
      (BitVec.toNat (if post = true then (s.ncp p).reg a else (s.ncp p).reg a + BitVec.signExtend 32 i) % 2 = 0) ∧
      (post = true → d ≠ a)) ∧
    (∃ (p : Pair) (d : BitVec 4) (a : BitVec 4) (post : Bool) (i : BitVec 14) (s : State) (o : Nat), Issuing p s ∧
      (post = true → a ≠ 0) ∧
      (placeOf (if post = true then (s.ncp p).reg a else (s.ncp p).reg a + BitVec.signExtend 32 i) = Place.data o) ∧
      ((s.ncp p).allowed AccessKind.read (if post = true then (s.ncp p).reg a else (s.ncp p).reg a + BitVec.signExtend 32 i) = true) ∧
      (BitVec.toNat (if post = true then (s.ncp p).reg a else (s.ncp p).reg a + BitVec.signExtend 32 i) % 4 = 0) ∧
      (post = true → d ≠ a)) ∧
    (∃ (p : Pair) (d : BitVec 4) (a : BitVec 4) (post : Bool) (i : BitVec 14) (s : State) (o : Nat), Issuing p s ∧
      (post = true → a ≠ 0) ∧
      (placeOf (if post = true then (s.ncp p).reg a else (s.ncp p).reg a + BitVec.signExtend 32 i) = Place.local_ (268435456 + o)) ∧
      o < 2097152 ∧
      ((s.ncp p).allowed AccessKind.read (if post = true then (s.ncp p).reg a else (s.ncp p).reg a + BitVec.signExtend 32 i) = true) ∧
      (BitVec.toNat (if post = true then (s.ncp p).reg a else (s.ncp p).reg a + BitVec.signExtend 32 i) % 1 = 0) ∧
      (post = true → d ≠ a)) ∧
    (∃ (p : Pair) (d : BitVec 4) (a : BitVec 4) (post : Bool) (i : BitVec 14) (s : State) (o : Nat), Issuing p s ∧
      (post = true → a ≠ 0) ∧
      (placeOf (if post = true then (s.ncp p).reg a else (s.ncp p).reg a + BitVec.signExtend 32 i) = Place.local_ (268435456 + o)) ∧
      o < 2097152 ∧
      ((s.ncp p).allowed AccessKind.read (if post = true then (s.ncp p).reg a else (s.ncp p).reg a + BitVec.signExtend 32 i) = true) ∧
      (BitVec.toNat (if post = true then (s.ncp p).reg a else (s.ncp p).reg a + BitVec.signExtend 32 i) % 2 = 0) ∧
      (post = true → d ≠ a)) ∧
    (∃ (p : Pair) (d : BitVec 4) (a : BitVec 4) (post : Bool) (i : BitVec 14) (s : State) (o : Nat), Issuing p s ∧
      (post = true → a ≠ 0) ∧
      (placeOf (if post = true then (s.ncp p).reg a else (s.ncp p).reg a + BitVec.signExtend 32 i) = Place.local_ (268435456 + o)) ∧
      o < 2097152 ∧
      ((s.ncp p).allowed AccessKind.read (if post = true then (s.ncp p).reg a else (s.ncp p).reg a + BitVec.signExtend 32 i) = true) ∧
      (BitVec.toNat (if post = true then (s.ncp p).reg a else (s.ncp p).reg a + BitVec.signExtend 32 i) % 4 = 0) ∧
      (post = true → d ≠ a)) ∧
    (∃ (p : Pair) (d : BitVec 4) (a : BitVec 4) (post : Bool) (i : BitVec 14) (s : State) (o : Nat), Issuing p s ∧
      (post = true → a ≠ 0) ∧
      (placeOf (if post = true then (s.ncp p).reg a else (s.ncp p).reg a + BitVec.signExtend 32 i) = Place.data o) ∧
      ((s.ncp p).allowed AccessKind.read (if post = true then (s.ncp p).reg a else (s.ncp p).reg a + BitVec.signExtend 32 i) = true) ∧
      (BitVec.toNat (if post = true then (s.ncp p).reg a else (s.ncp p).reg a + BitVec.signExtend 32 i) % 8 = 0) ∧
      d.toNat % 2 = 0 ∧ d.toNat ≤ 12 ∧ (post = true → d ≠ a)) ∧
    (∃ (p : Pair) (d : BitVec 4) (a : BitVec 4) (post : Bool) (i : BitVec 14) (s : State) (o : Nat), Issuing p s ∧
      (post = true → a ≠ 0) ∧
      (placeOf (if post = true then (s.ncp p).reg a else (s.ncp p).reg a + BitVec.signExtend 32 i) = Place.local_ (268435456 + o)) ∧
      o < 2097152 ∧
      ((s.ncp p).allowed AccessKind.read (if post = true then (s.ncp p).reg a else (s.ncp p).reg a + BitVec.signExtend 32 i) = true) ∧
      (BitVec.toNat (if post = true then (s.ncp p).reg a else (s.ncp p).reg a + BitVec.signExtend 32 i) % 8 = 0) ∧
      d.toNat % 2 = 0 ∧ d.toNat ≤ 12 ∧ (post = true → d ≠ a)) ∧
    (∃ (p : Pair) (d : BitVec 4) (a : BitVec 4) (post : Bool) (i : BitVec 14) (s : State) (o : Nat), Issuing p s ∧
      (post = true → a ≠ 0) ∧ s.boot.request = 0 ∧
      ((s.ncp p).allowed AccessKind.write (if post = true then (s.ncp p).reg a else (s.ncp p).reg a + BitVec.signExtend 32 i) = true) ∧
      (BitVec.toNat (if post = true then (s.ncp p).reg a else (s.ncp p).reg a + BitVec.signExtend 32 i) % (leBytes (BitVec.toNat ((s.ncp p).reg d)) 1).length = 0) ∧
      ((leBytes (BitVec.toNat ((s.ncp p).reg d)) 1).length = 8 → d.toNat % 2 = 0 ∧ d.toNat ≤ 12) ∧
      (placeOf (if post = true then (s.ncp p).reg a else (s.ncp p).reg a + BitVec.signExtend 32 i) = Place.data o)) ∧
    (∃ (p : Pair) (d : BitVec 4) (a : BitVec 4) (post : Bool) (i : BitVec 14) (s : State) (o : Nat), Issuing p s ∧
      (post = true → a ≠ 0) ∧ s.boot.request = 0 ∧
      ((s.ncp p).allowed AccessKind.write (if post = true then (s.ncp p).reg a else (s.ncp p).reg a + BitVec.signExtend 32 i) = true) ∧
      (BitVec.toNat (if post = true then (s.ncp p).reg a else (s.ncp p).reg a + BitVec.signExtend 32 i) % (leBytes (BitVec.toNat ((s.ncp p).reg d)) 2).length = 0) ∧
      ((leBytes (BitVec.toNat ((s.ncp p).reg d)) 2).length = 8 → d.toNat % 2 = 0 ∧ d.toNat ≤ 12) ∧
      (placeOf (if post = true then (s.ncp p).reg a else (s.ncp p).reg a + BitVec.signExtend 32 i) = Place.data o)) ∧
    (∃ (p : Pair) (d : BitVec 4) (a : BitVec 4) (post : Bool) (i : BitVec 14) (s : State) (o : Nat), Issuing p s ∧
      (post = true → a ≠ 0) ∧ s.boot.request = 0 ∧
      ((s.ncp p).allowed AccessKind.write (if post = true then (s.ncp p).reg a else (s.ncp p).reg a + BitVec.signExtend 32 i) = true) ∧
      (BitVec.toNat (if post = true then (s.ncp p).reg a else (s.ncp p).reg a + BitVec.signExtend 32 i) % (leBytes (BitVec.toNat ((s.ncp p).reg d)) 4).length = 0) ∧
      ((leBytes (BitVec.toNat ((s.ncp p).reg d)) 4).length = 8 → d.toNat % 2 = 0 ∧ d.toNat ≤ 12) ∧
      (placeOf (if post = true then (s.ncp p).reg a else (s.ncp p).reg a + BitVec.signExtend 32 i) = Place.data o)) ∧
    (∃ (p : Pair) (d : BitVec 4) (a : BitVec 4) (post : Bool) (i : BitVec 14) (s : State) (o : Nat), Issuing p s ∧
      (post = true → a ≠ 0) ∧ s.boot.request = 0 ∧
      ((s.ncp p).allowed AccessKind.write (if post = true then (s.ncp p).reg a else (s.ncp p).reg a + BitVec.signExtend 32 i) = true) ∧
      (BitVec.toNat (if post = true then (s.ncp p).reg a else (s.ncp p).reg a + BitVec.signExtend 32 i) % (leBytes (BitVec.toNat ((s.ncp p).reg d)) 4 ++ leBytes (BitVec.toNat ((s.ncp p).reg (d + 1))) 4).length = 0) ∧
      ((leBytes (BitVec.toNat ((s.ncp p).reg d)) 4 ++ leBytes (BitVec.toNat ((s.ncp p).reg (d + 1))) 4).length = 8 → d.toNat % 2 = 0 ∧ d.toNat ≤ 12) ∧
      (placeOf (if post = true then (s.ncp p).reg a else (s.ncp p).reg a + BitVec.signExtend 32 i) = Place.data o)) :=
  ⟨⟨.a, 2, 1, false, 0, { live with ncpA := { live.ncpA with g := [(1, 0x20000008)] } }, 8,
      by delta Issuing; decide +kernel⟩,
   ⟨.a, 2, 1, false, 0, { live with ncpA := { live.ncpA with g := [(1, 0x20000008)] } }, 8,
      by delta Issuing; decide +kernel⟩,
   ⟨.a, 2, 1, false, 0, { live with ncpA := { live.ncpA with g := [(1, 0x20000008)] } }, 8,
      by delta Issuing; decide +kernel⟩,
   ⟨.a, 2, 1, false, 0, { live with ncpA := { live.ncpA with g := [(1, 0x30000008)] } }, 8,
      by delta Issuing; decide +kernel⟩,
   ⟨.a, 2, 1, false, 0, { live with ncpA := { live.ncpA with g := [(1, 0x30000008)] } }, 8,
      by delta Issuing; decide +kernel⟩,
   ⟨.a, 2, 1, false, 0, { live with ncpA := { live.ncpA with g := [(1, 0x30000008)] } }, 8,
      by delta Issuing; decide +kernel⟩,
   ⟨.a, 2, 1, false, 0, { live with ncpA := { live.ncpA with g := [(1, 0x20000008)] } }, 8,
      by delta Issuing; decide +kernel⟩,
   ⟨.a, 2, 1, false, 0, { live with ncpA := { live.ncpA with g := [(1, 0x30000008)] } }, 8,
      by delta Issuing; decide +kernel⟩,
   ⟨.a, 2, 1, false, 0, { live with ncpA := { live.ncpA with g := [(1, 0x20000008)] } }, 8,
      by delta Issuing; decide +kernel⟩,
   ⟨.a, 2, 1, false, 0, { live with ncpA := { live.ncpA with g := [(1, 0x20000008)] } }, 8,
      by delta Issuing; decide +kernel⟩,
   ⟨.a, 2, 1, false, 0, { live with ncpA := { live.ncpA with g := [(1, 0x20000008)] } }, 8,
      by delta Issuing; decide +kernel⟩,
   ⟨.a, 2, 1, false, 0, { live with ncpA := { live.ncpA with g := [(1, 0x20000008)] } }, 8,
      by delta Issuing; decide +kernel⟩⟩

/-- States and operands that meet the hypotheses of the clauses of HrkMemoryAccesses. -/
theorem witness_HrkMemoryAccesses_2 :
    (∃ (p : Pair) (d : BitVec 4) (a : BitVec 4) (post : Bool) (i : BitVec 14) (s : State) (o : Nat), Issuing p s ∧
      (post = true → a ≠ 0) ∧ s.boot.request = 0 ∧
      ((s.ncp p).allowed AccessKind.write (if post = true then (s.ncp p).reg a else (s.ncp p).reg a + BitVec.signExtend 32 i) = true) ∧
      (BitVec.toNat (if post = true then (s.ncp p).reg a else (s.ncp p).reg a + BitVec.signExtend 32 i) % (leBytes (BitVec.toNat ((s.ncp p).reg d)) 1).length = 0) ∧
      ((leBytes (BitVec.toNat ((s.ncp p).reg d)) 1).length = 8 → d.toNat % 2 = 0 ∧ d.toNat ≤ 12) ∧
      (placeOf (if post = true then (s.ncp p).reg a else (s.ncp p).reg a + BitVec.signExtend 32 i) = Place.local_ (268435456 + o)) ∧
      o < 2097152) ∧
    (∃ (p : Pair) (d : BitVec 4) (a : BitVec 4) (post : Bool) (i : BitVec 14) (s : State) (o : Nat), Issuing p s ∧
      (post = true → a ≠ 0) ∧ s.boot.request = 0 ∧
      ((s.ncp p).allowed AccessKind.write (if post = true then (s.ncp p).reg a else (s.ncp p).reg a + BitVec.signExtend 32 i) = true) ∧
      (BitVec.toNat (if post = true then (s.ncp p).reg a else (s.ncp p).reg a + BitVec.signExtend 32 i) % (leBytes (BitVec.toNat ((s.ncp p).reg d)) 2).length = 0) ∧
      ((leBytes (BitVec.toNat ((s.ncp p).reg d)) 2).length = 8 → d.toNat % 2 = 0 ∧ d.toNat ≤ 12) ∧
      (placeOf (if post = true then (s.ncp p).reg a else (s.ncp p).reg a + BitVec.signExtend 32 i) = Place.local_ (268435456 + o)) ∧
      o < 2097152) ∧
    (∃ (p : Pair) (d : BitVec 4) (a : BitVec 4) (post : Bool) (i : BitVec 14) (s : State) (o : Nat), Issuing p s ∧
      (post = true → a ≠ 0) ∧ s.boot.request = 0 ∧
      ((s.ncp p).allowed AccessKind.write (if post = true then (s.ncp p).reg a else (s.ncp p).reg a + BitVec.signExtend 32 i) = true) ∧
      (BitVec.toNat (if post = true then (s.ncp p).reg a else (s.ncp p).reg a + BitVec.signExtend 32 i) % (leBytes (BitVec.toNat ((s.ncp p).reg d)) 4).length = 0) ∧
      ((leBytes (BitVec.toNat ((s.ncp p).reg d)) 4).length = 8 → d.toNat % 2 = 0 ∧ d.toNat ≤ 12) ∧
      (placeOf (if post = true then (s.ncp p).reg a else (s.ncp p).reg a + BitVec.signExtend 32 i) = Place.local_ (268435456 + o)) ∧
      o < 2097152) ∧
    (∃ (p : Pair) (d : BitVec 4) (a : BitVec 4) (post : Bool) (i : BitVec 14) (s : State) (o : Nat), Issuing p s ∧
      (post = true → a ≠ 0) ∧ s.boot.request = 0 ∧
      ((s.ncp p).allowed AccessKind.write (if post = true then (s.ncp p).reg a else (s.ncp p).reg a + BitVec.signExtend 32 i) = true) ∧
      (BitVec.toNat (if post = true then (s.ncp p).reg a else (s.ncp p).reg a + BitVec.signExtend 32 i) % (leBytes (BitVec.toNat ((s.ncp p).reg d)) 4 ++ leBytes (BitVec.toNat ((s.ncp p).reg (d + 1))) 4).length = 0) ∧
      ((leBytes (BitVec.toNat ((s.ncp p).reg d)) 4 ++ leBytes (BitVec.toNat ((s.ncp p).reg (d + 1))) 4).length = 8 → d.toNat % 2 = 0 ∧ d.toNat ≤ 12) ∧
      (placeOf (if post = true then (s.ncp p).reg a else (s.ncp p).reg a + BitVec.signExtend 32 i) = Place.local_ (268435456 + o)) ∧
      o < 2097152) ∧
    (∃ (p : Pair) (d : BitVec 4) (a : BitVec 4) (post : Bool) (i : BitVec 14) (s : State) (o : Nat) (q : Nat), Issuing p s ∧
      (post = true → a ≠ 0) ∧ s.boot.request = 0 ∧
      ((s.ncp p).allowed AccessKind.write (if post = true then (s.ncp p).reg a else (s.ncp p).reg a + BitVec.signExtend 32 i) = true) ∧
      (BitVec.toNat (if post = true then (s.ncp p).reg a else (s.ncp p).reg a + BitVec.signExtend 32 i) % (leBytes (BitVec.toNat ((s.ncp p).reg d)) 1).length = 0) ∧
      ((leBytes (BitVec.toNat ((s.ncp p).reg d)) 1).length = 8 → d.toNat % 2 = 0 ∧ d.toNat ≤ 12) ∧ q < o) ∧
    (∃ (p : Pair) (d : BitVec 4) (a : BitVec 4) (post : Bool) (i : BitVec 14) (s : State) (o : Nat) (q : Nat), Issuing p s ∧
      (post = true → a ≠ 0) ∧ s.boot.request = 0 ∧
      ((s.ncp p).allowed AccessKind.write (if post = true then (s.ncp p).reg a else (s.ncp p).reg a + BitVec.signExtend 32 i) = true) ∧
      (BitVec.toNat (if post = true then (s.ncp p).reg a else (s.ncp p).reg a + BitVec.signExtend 32 i) % (leBytes (BitVec.toNat ((s.ncp p).reg d)) 1).length = 0) ∧
      ((leBytes (BitVec.toNat ((s.ncp p).reg d)) 1).length = 8 → d.toNat % 2 = 0 ∧ d.toNat ≤ 12) ∧
      o + (leBytes (BitVec.toNat ((s.ncp p).reg d)) 1).length ≤ q) ∧
    (∃ (p : Pair) (d : BitVec 4) (a : BitVec 4) (post : Bool) (i : BitVec 14) (s : State) (o : Nat) (q : Nat), Issuing p s ∧
      (post = true → a ≠ 0) ∧ s.boot.request = 0 ∧
      ((s.ncp p).allowed AccessKind.write (if post = true then (s.ncp p).reg a else (s.ncp p).reg a + BitVec.signExtend 32 i) = true) ∧
      (BitVec.toNat (if post = true then (s.ncp p).reg a else (s.ncp p).reg a + BitVec.signExtend 32 i) % (leBytes (BitVec.toNat ((s.ncp p).reg d)) 2).length = 0) ∧
      ((leBytes (BitVec.toNat ((s.ncp p).reg d)) 2).length = 8 → d.toNat % 2 = 0 ∧ d.toNat ≤ 12) ∧ q < o) ∧
    (∃ (p : Pair) (d : BitVec 4) (a : BitVec 4) (post : Bool) (i : BitVec 14) (s : State) (o : Nat) (q : Nat), Issuing p s ∧
      (post = true → a ≠ 0) ∧ s.boot.request = 0 ∧
      ((s.ncp p).allowed AccessKind.write (if post = true then (s.ncp p).reg a else (s.ncp p).reg a + BitVec.signExtend 32 i) = true) ∧
      (BitVec.toNat (if post = true then (s.ncp p).reg a else (s.ncp p).reg a + BitVec.signExtend 32 i) % (leBytes (BitVec.toNat ((s.ncp p).reg d)) 2).length = 0) ∧
      ((leBytes (BitVec.toNat ((s.ncp p).reg d)) 2).length = 8 → d.toNat % 2 = 0 ∧ d.toNat ≤ 12) ∧
      o + (leBytes (BitVec.toNat ((s.ncp p).reg d)) 2).length ≤ q) ∧
    (∃ (p : Pair) (d : BitVec 4) (a : BitVec 4) (post : Bool) (i : BitVec 14) (s : State) (o : Nat) (q : Nat), Issuing p s ∧
      (post = true → a ≠ 0) ∧ s.boot.request = 0 ∧
      ((s.ncp p).allowed AccessKind.write (if post = true then (s.ncp p).reg a else (s.ncp p).reg a + BitVec.signExtend 32 i) = true) ∧
      (BitVec.toNat (if post = true then (s.ncp p).reg a else (s.ncp p).reg a + BitVec.signExtend 32 i) % (leBytes (BitVec.toNat ((s.ncp p).reg d)) 4).length = 0) ∧
      ((leBytes (BitVec.toNat ((s.ncp p).reg d)) 4).length = 8 → d.toNat % 2 = 0 ∧ d.toNat ≤ 12) ∧ q < o) ∧
    (∃ (p : Pair) (d : BitVec 4) (a : BitVec 4) (post : Bool) (i : BitVec 14) (s : State) (o : Nat) (q : Nat), Issuing p s ∧
      (post = true → a ≠ 0) ∧ s.boot.request = 0 ∧
      ((s.ncp p).allowed AccessKind.write (if post = true then (s.ncp p).reg a else (s.ncp p).reg a + BitVec.signExtend 32 i) = true) ∧
      (BitVec.toNat (if post = true then (s.ncp p).reg a else (s.ncp p).reg a + BitVec.signExtend 32 i) % (leBytes (BitVec.toNat ((s.ncp p).reg d)) 4).length = 0) ∧
      ((leBytes (BitVec.toNat ((s.ncp p).reg d)) 4).length = 8 → d.toNat % 2 = 0 ∧ d.toNat ≤ 12) ∧
      o + (leBytes (BitVec.toNat ((s.ncp p).reg d)) 4).length ≤ q) ∧
    (∃ (p : Pair) (d : BitVec 4) (a : BitVec 4) (post : Bool) (i : BitVec 14) (s : State) (o : Nat) (q : Nat), Issuing p s ∧
      (post = true → a ≠ 0) ∧ s.boot.request = 0 ∧
      ((s.ncp p).allowed AccessKind.write (if post = true then (s.ncp p).reg a else (s.ncp p).reg a + BitVec.signExtend 32 i) = true) ∧
      (BitVec.toNat (if post = true then (s.ncp p).reg a else (s.ncp p).reg a + BitVec.signExtend 32 i) % (leBytes (BitVec.toNat ((s.ncp p).reg d)) 4 ++ leBytes (BitVec.toNat ((s.ncp p).reg (d + 1))) 4).length = 0) ∧
      ((leBytes (BitVec.toNat ((s.ncp p).reg d)) 4 ++ leBytes (BitVec.toNat ((s.ncp p).reg (d + 1))) 4).length = 8 → d.toNat % 2 = 0 ∧ d.toNat ≤ 12) ∧
      q < o) ∧
    (∃ (p : Pair) (d : BitVec 4) (a : BitVec 4) (post : Bool) (i : BitVec 14) (s : State) (o : Nat) (q : Nat), Issuing p s ∧
      (post = true → a ≠ 0) ∧ s.boot.request = 0 ∧
      ((s.ncp p).allowed AccessKind.write (if post = true then (s.ncp p).reg a else (s.ncp p).reg a + BitVec.signExtend 32 i) = true) ∧
      (BitVec.toNat (if post = true then (s.ncp p).reg a else (s.ncp p).reg a + BitVec.signExtend 32 i) % (leBytes (BitVec.toNat ((s.ncp p).reg d)) 4 ++ leBytes (BitVec.toNat ((s.ncp p).reg (d + 1))) 4).length = 0) ∧
      ((leBytes (BitVec.toNat ((s.ncp p).reg d)) 4 ++ leBytes (BitVec.toNat ((s.ncp p).reg (d + 1))) 4).length = 8 → d.toNat % 2 = 0 ∧ d.toNat ≤ 12) ∧
      o + (leBytes (BitVec.toNat ((s.ncp p).reg d)) 4 ++ leBytes (BitVec.toNat ((s.ncp p).reg (d + 1))) 4).length ≤ q) :=
  ⟨⟨.a, 2, 1, false, 0, { live with ncpA := { live.ncpA with g := [(1, 0x30000008)] } }, 8,
      by delta Issuing; decide +kernel⟩,
   ⟨.a, 2, 1, false, 0, { live with ncpA := { live.ncpA with g := [(1, 0x30000008)] } }, 8,
      by delta Issuing; decide +kernel⟩,
   ⟨.a, 2, 1, false, 0, { live with ncpA := { live.ncpA with g := [(1, 0x30000008)] } }, 8,
      by delta Issuing; decide +kernel⟩,
   ⟨.a, 2, 1, false, 0, { live with ncpA := { live.ncpA with g := [(1, 0x30000008)] } }, 8,
      by delta Issuing; decide +kernel⟩,
   ⟨.a, 2, 1, false, 0, { live with ncpA := { live.ncpA with g := [(1, 0x20000008)] } }, 8, 1,
      by delta Issuing; decide +kernel⟩,
   ⟨.a, 2, 1, false, 0, { live with ncpA := { live.ncpA with g := [(1, 0x20000008)] } }, 0, 1,
      by delta Issuing; decide +kernel⟩,
   ⟨.a, 2, 1, false, 0, { live with ncpA := { live.ncpA with g := [(1, 0x20000008)] } }, 8, 1,
      by delta Issuing; decide +kernel⟩,
   ⟨.a, 2, 1, false, 0, { live with ncpA := { live.ncpA with g := [(1, 0x20000008)] } }, 8, 10,
      by delta Issuing; decide +kernel⟩,
   ⟨.a, 2, 1, false, 0, { live with ncpA := { live.ncpA with g := [(1, 0x20000008)] } }, 8, 1,
      by delta Issuing; decide +kernel⟩,
   ⟨.a, 2, 1, false, 0, { live with ncpA := { live.ncpA with g := [(1, 0x20000008)] } }, 0, 4,
      by delta Issuing; decide +kernel⟩,
   ⟨.a, 2, 1, false, 0, { live with ncpA := { live.ncpA with g := [(1, 0x20000008)] } }, 8, 1,
      by delta Issuing; decide +kernel⟩,
   ⟨.a, 2, 1, false, 0, { live with ncpA := { live.ncpA with g := [(1, 0x20000008)] } }, 0, 8,
      by delta Issuing; decide +kernel⟩⟩

/-- States and operands that meet the hypotheses of the clauses of HrkMemoryAccesses. -/
theorem witness_HrkMemoryAccesses_3 :
    (∃ (p : Pair) (d : BitVec 4) (a : BitVec 4) (post : Bool) (i : BitVec 14) (s : State) (o : Nat) (q : Nat), Issuing p s ∧
      (post = true → a ≠ 0) ∧ s.boot.request = 0 ∧
      ((s.ncp p).allowed AccessKind.write (if post = true then (s.ncp p).reg a else (s.ncp p).reg a + BitVec.signExtend 32 i) = true) ∧
      (BitVec.toNat (if post = true then (s.ncp p).reg a else (s.ncp p).reg a + BitVec.signExtend 32 i) % (leBytes (BitVec.toNat ((s.ncp p).reg d)) 1).length = 0) ∧
      ((leBytes (BitVec.toNat ((s.ncp p).reg d)) 1).length = 8 → d.toNat % 2 = 0 ∧ d.toNat ≤ 12) ∧ o ≤ q ∧
      q < o + (leBytes (BitVec.toNat ((s.ncp p).reg d)) 1).length) ∧
    (∃ (p : Pair) (d : BitVec 4) (a : BitVec 4) (post : Bool) (i : BitVec 14) (s : State) (o : Nat) (q : Nat), Issuing p s ∧
      (post = true → a ≠ 0) ∧ s.boot.request = 0 ∧
      ((s.ncp p).allowed AccessKind.write (if post = true then (s.ncp p).reg a else (s.ncp p).reg a + BitVec.signExtend 32 i) = true) ∧
      (BitVec.toNat (if post = true then (s.ncp p).reg a else (s.ncp p).reg a + BitVec.signExtend 32 i) % (leBytes (BitVec.toNat ((s.ncp p).reg d)) 2).length = 0) ∧
      ((leBytes (BitVec.toNat ((s.ncp p).reg d)) 2).length = 8 → d.toNat % 2 = 0 ∧ d.toNat ≤ 12) ∧ o ≤ q ∧
      q < o + (leBytes (BitVec.toNat ((s.ncp p).reg d)) 2).length) ∧
    (∃ (p : Pair) (d : BitVec 4) (a : BitVec 4) (post : Bool) (i : BitVec 14) (s : State) (o : Nat) (q : Nat), Issuing p s ∧
      (post = true → a ≠ 0) ∧ s.boot.request = 0 ∧
      ((s.ncp p).allowed AccessKind.write (if post = true then (s.ncp p).reg a else (s.ncp p).reg a + BitVec.signExtend 32 i) = true) ∧
      (BitVec.toNat (if post = true then (s.ncp p).reg a else (s.ncp p).reg a + BitVec.signExtend 32 i) % (leBytes (BitVec.toNat ((s.ncp p).reg d)) 4).length = 0) ∧
      ((leBytes (BitVec.toNat ((s.ncp p).reg d)) 4).length = 8 → d.toNat % 2 = 0 ∧ d.toNat ≤ 12) ∧ o ≤ q ∧
      q < o + (leBytes (BitVec.toNat ((s.ncp p).reg d)) 4).length) ∧
    (∃ (p : Pair) (d : BitVec 4) (a : BitVec 4) (post : Bool) (i : BitVec 14) (s : State) (o : Nat) (q : Nat), Issuing p s ∧
      (post = true → a ≠ 0) ∧ s.boot.request = 0 ∧
      ((s.ncp p).allowed AccessKind.write (if post = true then (s.ncp p).reg a else (s.ncp p).reg a + BitVec.signExtend 32 i) = true) ∧
      (BitVec.toNat (if post = true then (s.ncp p).reg a else (s.ncp p).reg a + BitVec.signExtend 32 i) % (leBytes (BitVec.toNat ((s.ncp p).reg d)) 4 ++ leBytes (BitVec.toNat ((s.ncp p).reg (d + 1))) 4).length = 0) ∧
      ((leBytes (BitVec.toNat ((s.ncp p).reg d)) 4 ++ leBytes (BitVec.toNat ((s.ncp p).reg (d + 1))) 4).length = 8 → d.toNat % 2 = 0 ∧ d.toNat ≤ 12) ∧
      o ≤ q ∧
      q < o + (leBytes (BitVec.toNat ((s.ncp p).reg d)) 4 ++ leBytes (BitVec.toNat ((s.ncp p).reg (d + 1))) 4).length) ∧
    (∃ (p : Pair) (a : BitVec 4) (s : State) (o : Nat), Issuing p s ∧ placeOf ((s.ncp p).reg a) = Place.data o ∧
      (s.ncp p).allowed AccessKind.read ((s.ncp p).reg a) = true ∧ o % 4 = 0 ∧
      (s.ncp p).allowed AccessKind.write ((s.ncp p).reg a) = true) ∧
    (∃ (p : Pair) (a : BitVec 4) (s : State) (o : Nat), Issuing p s ∧ placeOf ((s.ncp p).reg a) = Place.data o ∧
      (s.ncp p).allowed AccessKind.read ((s.ncp p).reg a) = true ∧ o % 32 = 0 ∧ (s.func 7).st ≠ FState.absent ∧
      s.act.appq.length < 256) ∧
    (∃ (p : Pair) (a : BitVec 4) (s : State) (o : Nat), Issuing p s ∧ placeOf ((s.ncp p).reg a) = Place.data o ∧
      (s.ncp p).allowed AccessKind.read ((s.ncp p).reg a) = true ∧ o % 32 = 0 ∧ (s.func 7).st ≠ FState.absent ∧
      256 ≤ s.act.appq.length) ∧
    (∃ (p : Pair) (a : BitVec 4) (s : State) (o : Nat), Issuing p s ∧ placeOf ((s.ncp p).reg a) = Place.data o ∧
      (s.ncp p).allowed AccessKind.read ((s.ncp p).reg a) = true ∧ o % 32 = 0 ∧ (s.func 7).st = FState.absent) ∧
    (∃ (p : Pair) (a : BitVec 4) (s : State) (o : Nat), Issuing p s ∧ placeOf ((s.ncp p).reg a) = Place.data o ∧
      (s.ncp p).allowed AccessKind.read ((s.ncp p).reg a) = true ∧ s.unadmitted p = false) ∧
    (∃ (p : Pair) (a : BitVec 4) (s : State) (o : Nat), Issuing p s ∧ placeOf ((s.ncp p).reg a) = Place.data o ∧
      (s.ncp p).allowed AccessKind.read ((s.ncp p).reg a) = true ∧ s.unadmitted p = true) :=
  ⟨⟨.a, 2, 1, false, 0, { live with ncpA := { live.ncpA with g := [(1, 0x20000008)] } }, 8, 8,
      by delta Issuing; decide +kernel⟩,
   ⟨.a, 2, 1, false, 0, { live with ncpA := { live.ncpA with g := [(1, 0x20000008)] } }, 8, 8,
      by delta Issuing; decide +kernel⟩,
   ⟨.a, 2, 1, false, 0, { live with ncpA := { live.ncpA with g := [(1, 0x20000008)] } }, 8, 8,
      by delta Issuing; decide +kernel⟩,
   ⟨.a, 2, 1, false, 0, { live with ncpA := { live.ncpA with g := [(1, 0x20000008)] } }, 8, 8,
      by delta Issuing; decide +kernel⟩,
   ⟨.a, 1, { live with ncpA := { live.ncpA with g := [(1, 0x20000000)] } }, 0, by delta Issuing; decide +kernel⟩,
   ⟨.a, 1, { live with ncpA := { live.ncpA with g := [(1, 0x20000000)] } }, 0, by delta Issuing; decide +kernel⟩,
   ⟨.a, 1,
      { live with ncpA := { live.ncpA with g := [(1, 0x20000000)] }, act := { appq := List.replicate 256 [] } }, 0,
      by delta Issuing; decide +kernel⟩,
   ⟨.a, 1,
      { live with funcs := (tabSet {} live.funcs 7 { st := .absent }), ncpA := { live.ncpA with g := [(1, 0x20000000)] } },
      0, by delta Issuing; decide +kernel⟩,
   ⟨.a, 1, { live with ncpA := { live.ncpA with g := [(1, 0x20000001)] } }, 1, by delta Issuing; decide +kernel⟩,
   ⟨.a, 1,
      { live with ncpA := { live.ncpA with g := [(1, 0x20000001)] }, fwd := { live.fwd with held := [{ h := { typ := 3 }, payload := [], route := .ring, owner := some .a }] } },
      1, by delta Issuing; decide +kernel⟩⟩

/-- States and operands that meet the hypotheses of the clauses of HrkSystemRegisters. -/
theorem witness_HrkSystemRegisters :
    (∃ (p : Pair) (a : BitVec 4) (s : State) (r : Nat), Issuing p s ∧ r < 16 ∧ (s.ncp p).sys = true ∧
      nbits (BitVec.toNat ((s.ncp p).reg a)) 12 8 ≤ 26) :=
  ⟨.a, 1, live, 1, by delta Issuing; decide +kernel⟩

/-- States and operands that meet the hypotheses of the clauses of HrkHub. -/
theorem witness_HrkHub :
    (∃ (p : Pair) (s : State) (k : BitVec 4) (l : Nat), s.issues p = true ∧ fetchable (s.ncp p).pc = true ∧
      (s.ncp p).allowed AccessKind.exec (s.ncp p).pc = true ∧ s.topLevel p = some l ∧ k.toNat ≤ l) ∧
    (∃ (p : Pair) (s : State), s.issues p = true ∧ fetchable (s.ncp p).pc = true ∧
      (s.ncp p).allowed AccessKind.exec (s.ncp p).pc = true ∧ s.topLevel p = none) ∧
    (∃ (p : Pair) (s : State) (k : BitVec 4) (l : Nat), s.issues p = true ∧ fetchable (s.ncp p).pc = true ∧
      (s.ncp p).allowed AccessKind.exec (s.ncp p).pc = true ∧ s.topLevel p = some l ∧ l < k.toNat) ∧
    (∃ (p : Pair) (a : BitVec 4) (s : State), Issuing p s ∧
      (match p with | Pair.a => 832 ≤ BitVec.toNat ((s.ncp p).reg a) % 65536 ∧ BitVec.toNat ((s.ncp p).reg a) % 65536 < 928 | Pair.b => 928 ≤ BitVec.toNat ((s.ncp p).reg a) % 65536 ∧ BitVec.toNat ((s.ncp p).reg a) % 65536 < 1024)) ∧
    (∃ (p : Pair) (d : BitVec 4) (s : State), Issuing p s ∧ d.toNat % 2 = 0 ∧ d.toNat ≤ 12) :=
  ⟨⟨.a, { live with applied := [(0xe0004, 0x8002), (0xf0320, 1122)], ncpA := { live.ncpA with pend := [200] } }, 1,
      1, by decide +kernel⟩,
   ⟨.a, live, by decide +kernel⟩,
   ⟨.a, { live with applied := [(0xe0004, 0x8002), (0xf0320, 1122)], ncpA := { live.ncpA with pend := [200] } }, 2,
      1, by decide +kernel⟩,
   ⟨.a, 1, { live with ncpA := { live.ncpA with g := [(1, 900)] } }, by delta Issuing; decide +kernel⟩,
   ⟨.a, 0, live, by delta Issuing; decide +kernel⟩⟩

/-- States and operands that meet the hypotheses of the clauses of NcpServes. -/
theorem witness_NcpServes :
    (∃ (p : Pair) (s : State) (l : Nat), s.topLevel p = some l ∧ (s.ncp p).serving.headD 0 < l ∧
      (s.ncp p).ie = true ∧ s.running (pairFn p) = true ∧ (s.ncp p).stopped = false ∧ (s.ncp p).wait = none) ∧
    (∃ (p : Pair) (s : State) (l : Nat), s.topLevel p = some l ∧ (s.ncp p).serving = [] ∧ (s.ncp p).ie = true ∧
      s.running (pairFn p) = true ∧ (s.ncp p).stopped = false ∧ (s.ncp p).wait = none) ∧
    (∃ (p : Pair) (s : State), s.topLevel p = none) ∧
    (∃ (p : Pair) (s : State), (s.ncp p).ie = false) ∧
    (∃ (p : Pair) (s : State) (l : Nat) (r : List Nat) (n : Nat), (s.ncp p).serving = l :: r ∧
      (List.find? (fun n => s.levelOf p n == some l) (s.ncp p).pend = some n) ∧ n ≠ pairSrc (otherPair p)) ∧
    (∃ (p : Pair) (s : State), s.issues p = true ∧ Roomy 1 s) ∧
    (∃ (p : Pair) (s : State) (v : BitVec 16), s.af (ncpBase p + 8) 15 0 ≠ 0 ∧ v ≠ 3162 ∧ Roomy 1 s) ∧
    (∃ (p : Pair) (s : State) (k : Nat), s.af (ncpBase p + 8) 15 0 ≠ 0 ∧ (s.ncp p).kick = some k ∧
      s.running (pairFn p) = true ∧ Roomy 1 s) ∧
    (∃ (p : Pair) (s : State), (s.ncp p).testing = true ∧ Roomy 1 s ∧ (s.flt.aliveOn = true → s.aliveMay = true) ∧
      (s.func (pairFn p)).st = FState.running) :=
  ⟨⟨.a,
      { live with applied := [(0xe0004, 0x8002), (0xf0320, 1122)], ncpA := { live.ncpA with ie := true, pend := [200] } },
      1, by decide +kernel⟩,
   ⟨.a,
      { live with applied := [(0xe0004, 0x8002), (0xf0320, 1122)], ncpA := { live.ncpA with ie := true, pend := [200] } },
      1, by decide +kernel⟩,
   ⟨.a, live, by decide +kernel⟩,
   ⟨.a, live, by decide +kernel⟩,
   ⟨.a,
      { live with applied := [(0xe0004, 0x8008), (0xf0320, 1254)], ncpA := { live.ncpA with pend := [200], serving := [3] } },
      3, [], 200, by decide +kernel⟩,
   ⟨.a, live, by delta Roomy; decide +kernel⟩,
   ⟨.a, { live with applied := [(0xe0008, 1)] }, 1, by delta Roomy; decide +kernel⟩,
   ⟨.a, { live with applied := [(0xe0008, 1)], ncpA := { live.ncpA with kick := some 1 } }, 1,
      by delta Roomy; decide +kernel⟩,
   ⟨.a, { live with ncpA := { live.ncpA with testing := true } }, by delta Roomy; decide +kernel⟩⟩

/-- States and operands that meet the hypotheses of the clauses of HrkReturns. -/
theorem witness_HrkReturns :
    (∃ (p : Pair) (s : State), Issuing p s ∧ (s.ncp p).sys = true) ∧
    (∃ (p : Pair) (s : State), Issuing p s ∧ (s.ncp p).sys = false ∧ (s.ncp p).intrap = false) :=
  ⟨⟨.a, live, by delta Issuing; decide +kernel⟩,
   ⟨.a, { live with ncpA := { live.ncpA with sys := false, mpuBase := [(0, 0x10000000)], mpuCfg := [(0, 3081)] } },
      by delta Issuing; decide +kernel⟩⟩

/-- States and operands that meet the hypotheses of the clauses of SporeQueuesServed. -/
theorem witness_SporeQueuesServed_1 :
    (∃ (q : BitVec 4) (s : State), s.running 12 = true ∧ (s.queue q.toNat).gapPend = true ∧
      (s.queue q.toNat).recs.length < s.af (qBase q.toNat + 12) 8 0 ∧ (s.queue q.toNat).recs.length < 256) ∧
    (∃ (q : BitVec 4) (s : State), s.running 12 = true ∧ s.rf (qBase q.toNat) 15 14 = 1 ∧
      (s.queue q.toNat).recs ≠ [] ∧ s.af (qBase q.toNat + 8) 4 0 ≤ (s.queue q.toNat).recs.length ∧
      (s.queue q.toNat).gapPend = false ∧ s.isOwn (s.rf (qBase q.toNat + 4) 15 4) = false ∧ s.running 3 = true ∧
      s.ringLeads = true) ∧
    (∃ (d : Delivered) (s : State), (List.find? (fun d => d.sink == Sink.spore) s.fwd.inbox = some d) ∧
      d.h.mc = true ∧ beNat (slice d.payload 0 4) = 0) ∧
    (∃ (d : Delivered) (s : State), (List.find? (fun d => d.sink == Sink.spore) s.fwd.inbox = some d) ∧
      d.h.mc = true ∧ 16 < beNat (slice d.payload 0 4)) ∧
    (∃ (d : Delivered) (s : State), (List.find? (fun d => d.sink == Sink.spore) s.fwd.inbox = some d) ∧
      d.h.mc = true ∧ d.h.len.toNat ≠ 1 + 8 * beNat (slice d.payload 0 4)) ∧
    (∃ (d : Delivered) (s : State), (List.find? (fun d => d.sink == Sink.spore) s.fwd.inbox = some d) ∧
      d.h.mc = true ∧ 64 ≤ d.h.addr.toNat / 2 ^ 32 % 256) ∧
    (∃ (d : Delivered) (s : State), (List.find? (fun d => d.sink == Sink.spore) s.fwd.inbox = some d) ∧
      d.ordered = true ∧ beNat (slice d.payload 0 4) = 0) ∧
    (∃ (d : Delivered) (s : State), (List.find? (fun d => d.sink == Sink.spore) s.fwd.inbox = some d) ∧
      d.ordered = true ∧ 16 < beNat (slice d.payload 0 4)) ∧
    (∃ (d : Delivered) (s : State), (List.find? (fun d => d.sink == Sink.spore) s.fwd.inbox = some d) ∧
      d.ordered = true ∧ d.h.len.toNat ≠ 1 + 8 * beNat (slice d.payload 0 4)) ∧
    (∃ (d : Delivered) (s : State), (List.find? (fun d => d.sink == Sink.spore) s.fwd.inbox = some d) ∧
      d.ordered = true ∧ 64 ≤ d.h.addr.toNat / 2 ^ 32 % 256) ∧
    (∃ (d : Delivered) (s : State), (List.find? (fun d => d.sink == Sink.spore) s.fwd.inbox = some d) ∧
      d.h.mc = true ∧ 1 ≤ beNat (slice d.payload 0 4) ∧ beNat (slice d.payload 0 4) ≤ 16 ∧
      d.h.len.toNat = 1 + 8 * beNat (slice d.payload 0 4) ∧ d.h.addr.toNat / 2 ^ 32 % 256 < 64 ∧
      s.hqReady (d.h.addr.toNat / 2 ^ 32 % 256) = false) ∧
    (∃ (d : Delivered) (s : State), (List.find? (fun d => d.sink == Sink.spore) s.fwd.inbox = some d) ∧
      d.ordered = true ∧ 1 ≤ beNat (slice d.payload 0 4) ∧ beNat (slice d.payload 0 4) ≤ 16 ∧
      d.h.len.toNat = 1 + 8 * beNat (slice d.payload 0 4) ∧ d.h.addr.toNat / 2 ^ 32 % 256 < 64 ∧
      s.hqReady (d.h.addr.toNat / 2 ^ 32 % 256) = false) :=
  ⟨⟨1, { live with queues := [(1, { gapPend := true })] }, by decide +kernel⟩,
   ⟨1,
      { live with regs := [(0xf3020, 0x4000), (0xf3024, 64)], queues := [(1, { recs := [({ source := 1, typ := 1, node := 1, slot := 1, gap := false, late := false, seq := 1, kind := 1, time := 1, pos := 1, axis := 1, avalid := false, astale := false, payload := 1 }, 1), ({ source := 1, typ := 1, node := 1, slot := 1, gap := false, late := false, seq := 1, kind := 1, time := 1, pos := 1, axis := 1, avalid := false, astale := false, payload := 1 }, 1), ({ source := 1, typ := 1, node := 1, slot := 1, gap := false, late := false, seq := 1, kind := 1, time := 1, pos := 1, axis := 1, avalid := false, astale := false, payload := 1 }, 1), ({ source := 1, typ := 1, node := 1, slot := 1, gap := false, late := false, seq := 1, kind := 1, time := 1, pos := 1, axis := 1, avalid := false, astale := false, payload := 1 }, 1), ({ source := 1, typ := 1, node := 1, slot := 1, gap := false, late := false, seq := 1, kind := 1, time := 1, pos := 1, axis := 1, avalid := false, astale := false, payload := 1 }, 1), ({ source := 1, typ := 1, node := 1, slot := 1, gap := false, late := false, seq := 1, kind := 1, time := 1, pos := 1, axis := 1, avalid := false, astale := false, payload := 1 }, 1), ({ source := 1, typ := 1, node := 1, slot := 1, gap := false, late := false, seq := 1, kind := 1, time := 1, pos := 1, axis := 1, avalid := false, astale := false, payload := 1 }, 1), ({ source := 1, typ := 1, node := 1, slot := 1, gap := false, late := false, seq := 1, kind := 1, time := 1, pos := 1, axis := 1, avalid := false, astale := false, payload := 1 }, 1)] })] },
      by decide +kernel⟩,
   ⟨{ sink := .spore, port := .w, h := { mc := true }, payload := [], arrival := 1, corrections := 1 },
      { live with fwd := { live.fwd with inbox := [{ sink := .spore, port := .w, h := { mc := true }, payload := [], arrival := 1, corrections := 1 }] } },
      by decide +kernel⟩,
   ⟨{ sink := .spore, port := .e, h := { typ := 7, mc := true, len := 1 }, payload := [0, 0, 0, 17], arrival := 0, corrections := 0, ordered := true },
      { live with fwd := { live.fwd with inbox := [{ sink := .spore, port := .e, h := { typ := 7, mc := true, len := 1 }, payload := [0, 0, 0, 17], arrival := 0, corrections := 0, ordered := true }] } },
      by decide +kernel⟩,
   ⟨{ sink := .spore, port := .w, h := { mc := true }, payload := [], arrival := 1, corrections := 1 },
      { live with fwd := { live.fwd with inbox := [{ sink := .spore, port := .w, h := { mc := true }, payload := [], arrival := 1, corrections := 1 }] } },
      by decide +kernel⟩,
   ⟨{ sink := .spore, port := .w, h := { mc := true, addr := 0x4000000000 }, payload := [], arrival := 1, corrections := 1 },
      { live with fwd := { live.fwd with inbox := [{ sink := .spore, port := .w, h := { mc := true, addr := 0x4000000000 }, payload := [], arrival := 1, corrections := 1 }] } },
      by decide +kernel⟩,
   ⟨{ sink := .spore, port := .w, h := {}, payload := [], arrival := 1, corrections := 1, ordered := true },
      { live with fwd := { live.fwd with inbox := [{ sink := .spore, port := .w, h := {}, payload := [], arrival := 1, corrections := 1, ordered := true }] } },
      by decide +kernel⟩,
   ⟨{ sink := .spore, port := .e, h := { typ := 7, mc := true, len := 1 }, payload := [0, 0, 0, 17], arrival := 0, corrections := 0, ordered := true },
      { live with fwd := { live.fwd with inbox := [{ sink := .spore, port := .e, h := { typ := 7, mc := true, len := 1 }, payload := [0, 0, 0, 17], arrival := 0, corrections := 0, ordered := true }] } },
      by decide +kernel⟩,
   ⟨{ sink := .spore, port := .w, h := {}, payload := [], arrival := 1, corrections := 1, ordered := true },
      { live with fwd := { live.fwd with inbox := [{ sink := .spore, port := .w, h := {}, payload := [], arrival := 1, corrections := 1, ordered := true }] } },
      by decide +kernel⟩,
   ⟨{ sink := .spore, port := .w, h := { addr := 0x4000000000 }, payload := [], arrival := 1, corrections := 1, ordered := true },
      { live with fwd := { live.fwd with inbox := [{ sink := .spore, port := .w, h := { addr := 0x4000000000 }, payload := [], arrival := 1, corrections := 1, ordered := true }] } },
      by decide +kernel⟩,
   ⟨{ sink := .spore, port := .e, h := { typ := 7, mc := true, len := 9 }, payload := [0, 0, 0, 1, 1, 1, 1, 1, 1, 1, 1, 1, 1, 1, 1, 1, 1, 1, 1, 1, 1, 1, 1, 1, 1, 1, 1, 1, 1, 1, 1, 1, 1, 1, 1, 1], arrival := 0, corrections := 0, ordered := true },
      { live with fwd := { live.fwd with inbox := [{ sink := .spore, port := .e, h := { typ := 7, mc := true, len := 9 }, payload := [0, 0, 0, 1, 1, 1, 1, 1, 1, 1, 1, 1, 1, 1, 1, 1, 1, 1, 1, 1, 1, 1, 1, 1, 1, 1, 1, 1, 1, 1, 1, 1, 1, 1, 1, 1], arrival := 0, corrections := 0, ordered := true }] } },
      by decide +kernel⟩,
   ⟨{ sink := .spore, port := .e, h := { typ := 7, mc := true, len := 9 }, payload := [0, 0, 0, 1, 1, 1, 1, 1, 1, 1, 1, 1, 1, 1, 1, 1, 1, 1, 1, 1, 1, 1, 1, 1, 1, 1, 1, 1, 1, 1, 1, 1, 1, 1, 1, 1], arrival := 0, corrections := 0, ordered := true },
      { live with fwd := { live.fwd with inbox := [{ sink := .spore, port := .e, h := { typ := 7, mc := true, len := 9 }, payload := [0, 0, 0, 1, 1, 1, 1, 1, 1, 1, 1, 1, 1, 1, 1, 1, 1, 1, 1, 1, 1, 1, 1, 1, 1, 1, 1, 1, 1, 1, 1, 1, 1, 1, 1, 1], arrival := 0, corrections := 0, ordered := true }] } },
      by decide +kernel⟩⟩

/-- States and operands that meet the hypotheses of the clauses of SporeQueuesServed. -/
theorem witness_SporeQueuesServed_2 :
    (∃ (d : Delivered) (s : State), (List.find? (fun d => d.sink == Sink.spore) s.fwd.inbox = some d) ∧
      d.h.mc = true ∧ beNat (slice d.payload 0 4) = 1 ∧ d.h.len.toNat = 9 ∧ d.h.addr.toNat / 2 ^ 32 % 256 < 64 ∧
      s.hqReady (d.h.addr.toNat / 2 ^ 32 % 256) = true ∧ s.hqFull (d.h.addr.toNat / 2 ^ 32 % 256) = false ∧
      (s.hq (d.h.addr.toNat / 2 ^ 32 % 256)).gapPend = false ∧ (s.hq (d.h.addr.toNat / 2 ^ 32 % 256)).wb = 0 ∧
      s.rf (hqReg (d.h.addr.toNat / 2 ^ 32 % 256) + 36) 7 0 = 0) ∧
    (∃ (d : Delivered) (s : State), (List.find? (fun d => d.sink == Sink.spore) s.fwd.inbox = some d) ∧
      d.ordered = true ∧ beNat (slice d.payload 0 4) = 1 ∧ d.h.len.toNat = 9 ∧ d.h.addr.toNat / 2 ^ 32 % 256 < 64 ∧
      s.hqReady (d.h.addr.toNat / 2 ^ 32 % 256) = true ∧ s.hqFull (d.h.addr.toNat / 2 ^ 32 % 256) = false ∧
      (s.hq (d.h.addr.toNat / 2 ^ 32 % 256)).gapPend = false ∧ (s.hq (d.h.addr.toNat / 2 ^ 32 % 256)).wb = 0 ∧
      s.rf (hqReg (d.h.addr.toNat / 2 ^ 32 % 256) + 36) 7 0 = 0) :=
  ⟨⟨{ sink := .spore, port := .e, h := { typ := 7, mc := true, len := 9 }, payload := [0, 0, 0, 1, 1, 1, 1, 1, 1, 1, 1, 1, 1, 1, 1, 1, 1, 1, 1, 1, 1, 1, 1, 1, 1, 1, 1, 1, 1, 1, 1, 1, 1, 1, 1, 1], arrival := 0, corrections := 0, ordered := true },
      { live with regs := [(0x200400, 0x8000), (0x200424, 256)], fwd := { live.fwd with inbox := [{ sink := .spore, port := .e, h := { typ := 7, mc := true, len := 9 }, payload := [0, 0, 0, 1, 1, 1, 1, 1, 1, 1, 1, 1, 1, 1, 1, 1, 1, 1, 1, 1, 1, 1, 1, 1, 1, 1, 1, 1, 1, 1, 1, 1, 1, 1, 1, 1], arrival := 0, corrections := 0, ordered := true }] } },
      by decide +kernel⟩,
   ⟨{ sink := .spore, port := .e, h := { typ := 7, mc := true, len := 9 }, payload := [0, 0, 0, 1, 1, 1, 1, 1, 1, 1, 1, 1, 1, 1, 1, 1, 1, 1, 1, 1, 1, 1, 1, 1, 1, 1, 1, 1, 1, 1, 1, 1, 1, 1, 1, 1], arrival := 0, corrections := 0, ordered := true },
      { live with regs := [(0x200400, 0x8000), (0x200424, 256)], fwd := { live.fwd with inbox := [{ sink := .spore, port := .e, h := { typ := 7, mc := true, len := 9 }, payload := [0, 0, 0, 1, 1, 1, 1, 1, 1, 1, 1, 1, 1, 1, 1, 1, 1, 1, 1, 1, 1, 1, 1, 1, 1, 1, 1, 1, 1, 1, 1, 1, 1, 1, 1, 1], arrival := 0, corrections := 0, ordered := true }] } },
      by decide +kernel⟩⟩

/-- States and operands that meet the hypotheses of the clauses of HostQueuesServed. -/
theorem witness_HostQueuesServed :
    (∃ (h : BitVec 6) (s : State) (size : BitVec 4), size.toNat < 12 ∧ s.rb (hqReg h.toNat) 15 = false) ∧
    (∃ (size : BitVec 4), 12 ≤ size.toNat) ∧
    (∃ (h : BitVec 6) (v : Word) (s : State), 2 ^ ((s.hq h.toNat).size + 4) < ((s.hq h.toNat).prod - BitVec.truncate 16 (maskedWrite (s.rg (hqReg h.toNat + 40)) 65535 v)).toNat) ∧
    (∃ (h : BitVec 6) (v : Word) (s : State), ((s.hq h.toNat).prod - BitVec.truncate 16 (maskedWrite (s.rg (hqReg h.toNat + 40)) 65535 v)).toNat ≤ 2 ^ ((s.hq h.toNat).size + 4) ∧
      (s.hq h.toNat).gapPend = false) ∧
    (∃ (h : BitVec 6) (v : Word) (s : State), ((s.hq h.toNat).prod - BitVec.truncate 16 (maskedWrite (s.rg (hqReg h.toNat + 40)) 65535 v)).toNat < 2 ^ ((s.hq h.toNat).size + 4) ∧
      (s.hq h.toNat).gapPend = true ∧ s.rb (hqReg h.toNat) 15 = true) ∧
    (∃ (h : BitVec 6) (s : State), (s.hq h.toNat).unsig ≠ 0 ∧ s.rf (hqReg h.toNat + 36) 15 8 ≠ 0 ∧
      s.rb (hqReg h.toNat) 15 = true) ∧
    (∃ (h : BitVec 6) (s : State), (s.hq h.toNat).unsig = 0) :=
  ⟨⟨1, live, 1, by decide +kernel⟩,
   ⟨12, by decide +kernel⟩,
   ⟨0, 0xffff8000, live, by decide +kernel⟩,
   ⟨1, 1, live, by decide +kernel⟩,
   ⟨1, 1, { live with regs := [(0x200440, 0x8000)], hostq := [(1, { gapPend := true })] }, by decide +kernel⟩,
   ⟨1, { live with regs := [(0x200440, 0x8000)], hostq := [(1, { unsig := 1 })] }, by decide +kernel⟩,
   ⟨1, live, by decide +kernel⟩⟩

/-- States and operands that meet the hypotheses of the clauses of PcieServes. -/
theorem witness_PcieServes :
    (∃ (s : State), s.running 11 = true ∧ s.pcie.linkUp = true) ∧
    (∃ (s : State), s.boot.request = 0 ∧ s.barOpen = false) ∧
    (∃ (off : BitVec 24) (s : State), s.boot.request = 0 ∧ s.barOpen = true ∧ off.toNat % 4 = 0) ∧
    (∃ (off : BitVec 23) (len : BitVec 13) (bytes : List Byte) (s : State), s.boot.request = 0 ∧ s.barOpen = true ∧
      1 ≤ len.toNat ∧ len.toNat ≤ 4096 ∧ off.toNat + len.toNat ≤ 2097152 ∧ bytes.length = len.toNat) ∧
    (∃ (off : BitVec 23) (len : BitVec 13) (s : State), s.boot.request = 0 ∧ s.barOpen = true ∧ 1 ≤ len.toNat ∧
      len.toNat ≤ 4096 ∧ 3670016 ≤ off.toNat ∧ off.toNat + len.toNat ≤ 4194304) :=
  ⟨⟨live, by decide +kernel⟩,
   ⟨{ live with funcs := (tabSet {} live.funcs 11 { st := .starting }) }, by decide +kernel⟩,
   ⟨0, live, by decide +kernel⟩,
   ⟨1, 1, [1], live, by decide +kernel⟩,
   ⟨0x380000, 1, live, by decide +kernel⟩⟩

/-- States and operands that meet the hypotheses of the clauses of DmaChannelsServed. -/
theorem witness_DmaChannelsServed_1 :
    (∃ (c : BitVec 3) (s : State) (size : BitVec 4), size.toNat ≤ 8 ∧ s.rb (dmaReg c.toNat) 15 = false) ∧
    (∃ (size : BitVec 4), 9 ≤ size.toNat) ∧
    (∃ (c : BitVec 3) (s : State), s.rf (dmaReg c.toNat) 3 0 ≤ 8 ∧ s.rb (dmaReg c.toNat) 15 = true ∧
      (s.dmac c.toNat).st = DmaState.running ∧ (s.dmac c.toNat).reading = none) ∧
    (∃ (c : BitVec 3) (s : State) (k : Nat), s.rf (dmaReg c.toNat) 3 0 ≤ 8 ∧ s.rb (dmaReg c.toNat) 15 = true ∧
      (s.dmac c.toNat).st = DmaState.running ∧ (s.dmac c.toNat).reading = some k) ∧
    (∃ (c : BitVec 3) (v : Word) (s : State), (s.dmac c.toNat).st = DmaState.running ∧
      (s.dmac c.toNat).reading = none ∧
      maskedWrite (s.rg (dmaReg c.toNat + 20)) 65535 v ≠ BitVec.zeroExtend 32 (s.dmac c.toNat).head) ∧
    (∃ (c : BitVec 3) (s : State), s.dmaDue c.toNat = false) ∧
    (∃ (c : BitVec 3) (desc : List Byte) (s : State), s.dmaDue c.toNat = true ∧
      (s.dmac c.toNat).reading.isSome = true ∧ desc.length = 32 ∧ leNat (slice desc 0 8) % 4 ≠ 0) ∧
    (∃ (c : BitVec 3) (desc : List Byte) (s : State), s.dmaDue c.toNat = true ∧
      (s.dmac c.toNat).reading.isSome = true ∧ desc.length = 32 ∧ 2 ^ 30 ≤ leNat (slice desc 8 4)) ∧
    (∃ (c : BitVec 3) (desc : List Byte) (s : State), s.dmaDue c.toNat = true ∧
      (s.dmac c.toNat).reading.isSome = true ∧ desc.length = 32 ∧ leNat (slice desc 12 4) = 0) ∧
    (∃ (c : BitVec 3) (desc : List Byte) (s : State), s.dmaDue c.toNat = true ∧
      (s.dmac c.toNat).reading.isSome = true ∧ desc.length = 32 ∧ 1048576 < leNat (slice desc 12 4)) ∧
    (∃ (c : BitVec 3) (desc : List Byte) (s : State), s.dmaDue c.toNat = true ∧
      (s.dmac c.toNat).reading.isSome = true ∧ desc.length = 32 ∧ leNat (slice desc 12 4) % 4 ≠ 0) ∧
    (∃ (c : BitVec 3) (desc : List Byte) (s : State), s.dmaDue c.toNat = true ∧
      (s.dmac c.toNat).reading.isSome = true ∧ desc.length = 32 ∧ 8 ≤ leNat (slice desc 16 4)) :=
  ⟨⟨1, live, 1, by decide +kernel⟩,
   ⟨9, by decide +kernel⟩,
   ⟨1, { live with regs := [(0x202040, 0x8000)], dma := [(1, { st := .running })] }, by decide +kernel⟩,
   ⟨1, { live with regs := [(0x202040, 0x8000)], dma := [(1, { st := .running, reading := some 1 })] }, 1,
      by decide +kernel⟩,
   ⟨1, 0xffff0003, { live with dma := [(1, { st := .running })] }, by decide +kernel⟩,
   ⟨1, live, by decide +kernel⟩,
   ⟨1, List.replicate 32 1,
      { live with regs := [(0x202054, 1)], dma := [(1, { st := .running, reading := some 1 })] }, by decide +kernel⟩,
   ⟨1, [0, 0, 0, 0, 0, 0, 0, 0, 0, 0, 0, 64, 4, 0, 0, 0, 0, 0, 0, 0, 0, 0, 0, 0, 0, 0, 0, 0, 0, 0, 0, 0],
      { live with regs := [(0x202054, 1)], dma := [(1, { st := .running, reading := some 1 })] }, by decide +kernel⟩,
   ⟨1, List.replicate 32 0,
      { live with regs := [(0x202054, 1)], dma := [(1, { st := .running, reading := some 1 })] }, by decide +kernel⟩,
   ⟨1, List.replicate 32 1,
      { live with regs := [(0x202054, 1)], dma := [(1, { st := .running, reading := some 1 })] }, by decide +kernel⟩,
   ⟨1, List.replicate 32 1,
      { live with regs := [(0x202054, 1)], dma := [(1, { st := .running, reading := some 1 })] }, by decide +kernel⟩,
   ⟨1, List.replicate 32 1,
      { live with regs := [(0x202054, 1)], dma := [(1, { st := .running, reading := some 1 })] }, by decide +kernel⟩⟩

/-- States and operands that meet the hypotheses of the clauses of DmaChannelsServed. -/
theorem witness_DmaChannelsServed_2 :
    (∃ (c : BitVec 3) (desc : List Byte) (s : State), s.dmaDue c.toNat = true ∧
      (s.dmac c.toNat).reading.isSome = true ∧ desc.length = 32 ∧ leNat (slice desc 28 4) ≠ 0) ∧
    (∃ (c : BitVec 3) (desc : List Byte) (s : State) (d : List Byte), s.dmaDue c.toNat = true ∧
      (s.dmac c.toNat).reading.isSome = true ∧ desc.length = 32 ∧ leNat (slice desc 0 8) % 4 = 0 ∧
      leNat (slice desc 8 4) < 2 ^ 30 ∧ 1 ≤ leNat (slice desc 12 4) ∧ leNat (slice desc 12 4) ≤ 1048576 ∧
      leNat (slice desc 12 4) % 4 = 0 ∧ leNat (slice desc 16 4) < 2 ∧ leNat (slice desc 28 4) = 0 ∧
      (s.dmac c.toNat).parts = [(leNat (slice desc 8 4), leNat (slice desc 12 4), stOk, d)]) ∧
    (∃ (c : BitVec 3) (desc : List Byte) (s : State) (st : Nat) (d : List Byte), s.dmaDue c.toNat = true ∧
      (s.dmac c.toNat).reading.isSome = true ∧ desc.length = 32 ∧ leNat (slice desc 0 8) % 4 = 0 ∧
      leNat (slice desc 8 4) < 2 ^ 30 ∧ 1 ≤ leNat (slice desc 12 4) ∧ leNat (slice desc 12 4) ≤ 1048576 ∧
      leNat (slice desc 12 4) % 4 = 0 ∧ leNat (slice desc 16 4) < 8 ∧ leNat (slice desc 28 4) = 0 ∧ st ≠ stOk ∧
      (s.dmac c.toNat).parts = [(leNat (slice desc 8 4), leNat (slice desc 12 4), st, d)]) ∧
    (∃ (c : BitVec 3) (s : State) (k : Nat), (s.dmac c.toNat).reading = some k ∧ s.dmaDue c.toNat = true) :=
  ⟨⟨1, List.replicate 32 1,
      { live with regs := [(0x202054, 1)], dma := [(1, { st := .running, reading := some 1 })] }, by decide +kernel⟩,
   ⟨1, [0, 0, 0, 0, 0, 0, 0, 0, 0, 0, 0, 0, 4, 0, 0, 0, 1, 0, 0, 0, 0, 0, 0, 0, 0, 0, 0, 0, 0, 0, 0, 0],
      { live with regs := [(0x202054, 1)], dma := [(1, { st := .running, reading := some 1, parts := [(0, (4, (0, [1, 2, 3, 4])))] })] },
      [1, 2, 3, 4], by decide +kernel⟩,
   ⟨1, [0, 0, 0, 0, 0, 0, 0, 0, 0, 0, 0, 0, 4, 0, 0, 0, 1, 0, 0, 0, 0, 0, 0, 0, 0, 0, 0, 0, 0, 0, 0, 0],
      { live with regs := [(0x202054, 1)], dma := [(1, { st := .running, reading := some 1, parts := [(0, (4, (2, [])))] })] },
      2, [], by decide +kernel⟩,
   ⟨1, { live with regs := [(0x202054, 1)], dma := [(1, { st := .running, reading := some 1 })] }, 1,
      by decide +kernel⟩⟩

/-- States and operands that meet the hypotheses of the clauses of MessagesClassified. -/
theorem witness_MessagesClassified :
    (∃ (m : DWord) (s : State), (Option.map (fun x => x.fst) s.takeMsg = some m) ∧ PairSteady s ∧
      s.running 15 = true ∧ nbits (BitVec.toNat m) 53 46 ≠ 24 ∧
      ((if s.rb (2170880 + 32 * s.classify m) 14 = true ∧ (s.fltEntry (s.classify m)).pend = true then min ((if decide (s.rf (2170892 + 32 * s.classify m) 15 12 ≠ 0 ∧ s.rf (2170892 + 32 * s.classify m) 15 12 ≤ (if decide ((s.fltEntry (s.classify m)).c = 0 ∨ 6250000 * 2 ^ s.rf (2170892 + 32 * s.classify m) 11 8 ≤ (s.fltTick + 2 ^ 64 - (s.fltEntry (s.classify m)).w) % 2 ^ 64) = true then 0 else (s.fltEntry (s.classify m)).c) + 1) = true then s.rf (2170892 + 32 * s.classify m) 7 5 else if s.rf (2170884 + 32 * s.classify m) 15 13 = 7 then nbits (BitVec.toNat m) 45 43 else s.rf (2170884 + 32 * s.classify m) 15 13) + 1) 4 else if decide (s.rf (2170892 + 32 * s.classify m) 15 12 ≠ 0 ∧ s.rf (2170892 + 32 * s.classify m) 15 12 ≤ (if decide ((s.fltEntry (s.classify m)).c = 0 ∨ 6250000 * 2 ^ s.rf (2170892 + 32 * s.classify m) 11 8 ≤ (s.fltTick + 2 ^ 64 - (s.fltEntry (s.classify m)).w) % 2 ^ 64) = true then 0 else (s.fltEntry (s.classify m)).c) + 1) = true then s.rf (2170892 + 32 * s.classify m) 7 5 else if s.rf (2170884 + 32 * s.classify m) 15 13 = 7 then nbits (BitVec.toNat m) 45 43 else s.rf (2170884 + 32 * s.classify m) 15 13) ≤ 2)) ∧
    (∃ (m : DWord) (s : State), (Option.map (fun x => x.fst) s.takeMsg = some m) ∧ PairSteady s ∧
      s.running 15 = false ∧ nbits (BitVec.toNat m) 45 43 ≤ 2) :=
  ⟨⟨0xc000100000000000, { live with flt := { norm := [0xc000100000000000] } }, by delta PairSteady; decide +kernel⟩,
   ⟨0xc000100000000000,
      { live with funcs := (live.funcs.filter (fun f => !([15].contains f.1))), flt := { norm := [0xc000100000000000] } },
      by delta PairSteady; decide +kernel⟩⟩

/-- States and operands that meet the hypotheses of the clauses of ReactionsHalt. -/
theorem witness_ReactionsHalt :
    (∃ (m : DWord) (r : List DWord) (id : Nat) (s : State), s.flt.prio = m :: r ∧ s.running 15 = false ∧
      nbits (BitVec.toNat m) 45 43 = 3 ∧ sourceOwner (nbits (BitVec.toNat m) 63 54) = some id ∧
      ¬5 ∈ id :: childrenOf id ∧ nbits (BitVec.toNat m) 53 46 ≠ 24 ∧ (s.flt.aliveOn = true → s.aliveMay = true) ∧
      PairSteady s) ∧
    (∃ (m : DWord) (r : List DWord) (s : State), s.flt.prio = m :: r ∧ s.running 15 = false ∧
      nbits (BitVec.toNat m) 45 43 = 4 ∧ sourceOwner (nbits (BitVec.toNat m) 63 54) = none ∧ s.flt.safe = false ∧
      PairSteady s) ∧
    (∃ (p : Pair) (v : BitVec 16) (s : State), s.af (ncpBase p + 8) 15 0 ≠ 0 ∧ v ≠ 3162 ∧ s.flt.prio.length = 16 ∧
      s.flt.safe = false) :=
  ⟨⟨0x180000000001, [], 16,
      { live with funcs := (tabSet {} live.funcs 15 { st := .absent }), flt := { prio := [0x180000000001] } },
      by delta PairSteady; decide +kernel⟩,
   ⟨0xc1c0200000000000, [],
      { live with funcs := (tabSet {} live.funcs 15 { st := .halted }), flt := { prio := [0xc1c0200000000000] } },
      by delta PairSteady; decide +kernel⟩,
   ⟨.a, 1, { live with applied := [(0xe0008, 1)], flt := { prio := List.replicate 16 1 } }, by decide +kernel⟩⟩

/-- States and operands that meet the hypotheses of the clauses of NodeSafeEndsAndDies. -/
theorem witness_NodeSafeEndsAndDies_1 :
    (∃ (entry : BitVec 8) (s : State), s.flt.safe = true ∧ s.flt.causeEntry = some entry.toNat) ∧
    (∃ (entry : BitVec 8) (s : State), (s.fltEntry entry.toNat).pend = true ∧ s.flt.causeEntry ≠ some entry.toNat) ∧
    (∃ (entry : BitVec 8) (s : State), (s.fltEntry entry.toNat).pend = false ∧ s.flt.safe = false) ∧
    (∃ (s : State), ((List.any s.flt.entries fun e => e.snd.pend) = true)) ∧
    (∃ (s : State), ((List.any s.flt.entries fun e => e.snd.pend) = false) ∧ s.flt.safeAck = true) ∧
    (∃ (src : Src) (s : State), s.boot.request = 0 ∧ s.keyHeldBy src = true ∧ s.flt.safe = true ∧
      s.flt.safeAck = true ∧ s.dieUp 0 = true ∧ s.dieUp 1 = true) ∧
    (∃ (src : Src) (s : State), s.boot.request = 0 ∧ s.keyHeldBy src = true ∧ s.flt.safe = false) ∧
    (∃ (src : Src) (s : State), s.boot.request = 0 ∧ s.keyHeldBy src = true ∧ s.flt.safeAck = false) ∧
    (∃ (src : Src) (s : State), s.boot.request = 0 ∧ s.keyHeldBy src = true ∧ s.dieUp 0 = false) ∧
    (∃ (src : Src) (s : State), s.boot.request = 0 ∧ s.keyHeldBy src = true ∧ s.dieUp 1 = false) ∧
    (∃ (s : State), Roomy 1 s ∧ PairSteady s ∧ s.boot.request = 0 ∧ s.boot.ldWait = []) ∧
    (∃ (s : State), s.aliveMay = true ∧ s.flt.aliveOn = true) :=
  ⟨⟨1, { live with flt := { safe := true, causeEntry := some 1 } }, by decide +kernel⟩,
   ⟨1, { live with flt := { entries := [(1, { pend := true })] } }, by decide +kernel⟩,
   ⟨1, live, by decide +kernel⟩,
   ⟨{ live with flt := { entries := [(3, { pend := true })] } }, by decide +kernel⟩,
   ⟨{ live with flt := { safeAck := true } }, by decide +kernel⟩,
   ⟨{ port := 1, slot := 1, node := 1 },
      { live with key := { opened := true, port := 1, slot := 1, node := 1, since := 0x4a817c800 }, flt := { safe := true, safeAck := true } },
      by decide +kernel⟩,
   ⟨{ port := 1, slot := 1, node := 1 },
      { live with key := { opened := true, port := 1, slot := 1, node := 1, since := 0x4a817c800 } },
      by decide +kernel⟩,
   ⟨{ port := 1, slot := 1, node := 1 },
      { live with key := { opened := true, port := 1, slot := 1, node := 1, since := 0x4a817c800 } },
      by decide +kernel⟩,
   ⟨{ port := 1, slot := 1, node := 1 },
      { live with key := { opened := true, port := 1, slot := 1, node := 1, since := 0x4a817c800 }, power := { live.power with doms := (tabSet {} live.power.doms 12 { st := .ramping, tested := true }) } },
      by decide +kernel⟩,
   ⟨{ port := 1, slot := 1, node := 1 },
      { live with key := { opened := true, port := 1, slot := 1, node := 1, since := 0x4a817c800 }, power := { live.power with doms := (tabSet {} live.power.doms 13 { tested := true }) } },
      by decide +kernel⟩,
   ⟨live, by delta Roomy PairSteady; decide +kernel⟩,
   ⟨{ live with flt := { aliveOn := true } }, by decide +kernel⟩⟩

/-- States and operands that meet the hypotheses of the clauses of NodeSafeEndsAndDies. -/
theorem witness_NodeSafeEndsAndDies_2 :
    (∃ (s : State), s.aliveMay = true ∧ s.flt.aliveOn = false ∧ s.pair.role ≠ Role.fallen) ∧
    (∃ (s : State), s.aliveMay = false ∧ s.flt.aliveOn = false) ∧
    (∃ (s : State), s.aliveMay = false ∧ s.flt.aliveOn = true ∧ s.pair.role ≠ Role.leading ∧
      s.pair.role ≠ Role.taking ∧ s.pair.role ≠ Role.giving) :=
  ⟨⟨live, by decide +kernel⟩,
   ⟨{ live with boot := { live.boot with valid := false } }, by decide +kernel⟩,
   ⟨{ live with flt := { aliveOn := true }, boot := { live.boot with valid := false }, pair := { live.pair with role := .none } },
      by decide +kernel⟩⟩

/-- States and operands that meet the hypotheses of the clauses of PairDecides. -/
theorem witness_PairDecides_1 :
    (∃ (s : State), s.boot.valid = true ∧ s.ident.straps.testen = false ∧ s.pair.entered = none ∧
      s.pair.role = Role.none ∧ s.slot = 1) ∧
    (∃ (s : State), s.boot.valid = true ∧ s.ident.straps.testen = false ∧ s.pair.entered = none ∧
      s.pair.role = Role.none ∧ s.slot = 0 ∧ s.flt.peerAlive = false) ∧
    (∃ (s : State), s.boot.valid = true ∧ s.ident.straps.testen = false ∧ s.pair.entered = none ∧
      s.pair.role = Role.none ∧ s.slot = 0 ∧ s.twinUp = true ∧ s.peerLead = false) ∧
    (∃ (s : State), s.boot.valid = true ∧ s.ident.straps.testen = false ∧ s.pair.entered = none ∧
      s.pair.role = Role.none ∧ s.slot = 0 ∧ s.flt.peerAlive = true ∧ s.twinUp = true ∧ s.peerLead = true) ∧
    (∃ (s : State), s.boot.valid = true ∧ s.ident.straps.testen = false ∧ s.pair.entered = none ∧
      s.pair.role = Role.none ∧ s.slot = 0 ∧ s.flt.peerAlive = true ∧ s.twinUp = false) ∧
    (∃ (s : State), s.boot.valid = false) ∧
    (∃ (s : State), s.ident.straps.testen = true) ∧
    (∃ (e : Nat) (s : State), s.pair.waiting = true ∧ s.pair.entered = some e ∧ s.flt.peerAlive = true ∧
      s.twinUp = false) ∧
    (∃ (s : State), s.pair.role = Role.probing ∧ s.ringAnswers = true) ∧
    (∃ (s : State), s.pair.role = Role.probing ∧ s.ringAnswers = false) ∧
    (∃ (s : State), s.pair.role = Role.resting ∧ s.slot = 0 ∧ s.pair.probeAt ≠ 0 ∧ s.flt.peerAlive = true ∧
      s.twinUp = false) ∧
    (∃ (e : Nat) (s : State), s.pair.role = Role.resting ∧ s.flt.peerAlive = false ∧ s.pair.fromFallen = false ∧
      s.pair.entered = some e ∧ s.slot = 1 ∧ s.pair.seenAlive = false) :=
  ⟨⟨{ live with ident := { live.ident with straps := { twinslot := 1 } }, pair := { rest := false } },
      by decide +kernel⟩,
   ⟨{ live with pair := { rest := false } }, by decide +kernel⟩,
   ⟨{ live with pair := { rest := false } }, by decide +kernel⟩,
   ⟨{ live with flt := { peerAlive := true }, linkT := { live.linkT with peerLead := true }, pair := { rest := false } },
      by decide +kernel⟩,
   ⟨{ live with flt := { peerAlive := true }, linkT := { live.linkT with st := .down }, pair := { rest := false } },
      by decide +kernel⟩,
   ⟨{ live with boot := { live.boot with valid := false } }, by decide +kernel⟩,
   ⟨{ live with ident := { live.ident with straps := { testen := true } } }, by decide +kernel⟩,
   ⟨1,
      { live with flt := { peerAlive := true }, linkT := { live.linkT with st := .disabled }, pair := { live.pair with entered := some 1, waiting := true } },
      by decide +kernel⟩,
   ⟨{ live with pair := { live.pair with role := .probing } }, by decide +kernel⟩,
   ⟨{ live with linkW := { live.linkW with st := .handshake }, linkE := { live.linkE with st := .handshake }, pair := { live.pair with role := .probing } },
      by decide +kernel⟩,
   ⟨{ live with flt := { peerAlive := true }, linkT := { live.linkT with st := .disabled }, pair := { live.pair with role := .resting, probeAt := 1 } },
      by decide +kernel⟩,
   ⟨1,
      { live with ident := { live.ident with straps := { twinslot := 1 } }, pair := { live.pair with role := .resting, entered := some 1 } },
      by decide +kernel⟩⟩

/-- States and operands that meet the hypotheses of the clauses of PairDecides. -/
theorem witness_PairDecides_2 :
    (∃ (s : State), s.flt.peerAlive = true ∧ s.pairRuns = true ∧ s.pair.role = Role.resting ∧ s.rb 266240 5 = true ∧
      s.linkT.lastSup = 0) ∧
    (∃ (s : State), s.flt.peerAlive = true ∧ s.pairRuns = true ∧ s.pair.role = Role.leading) ∧
    (∃ (s : State), PairSteady s) ∧
    (∃ (s : State), s.aliveMay = false ∧ s.flt.aliveOn = true ∧ s.pair.role = Role.leading) ∧
    (∃ (s : State), s.pair.role = Role.fallen ∧ s.pair.rest = false) ∧
    (∃ (s : State), s.aliveMay = true ∧ s.flt.aliveOn = false ∧ s.pair.role = Role.fallen) :=
  ⟨⟨{ live with flt := { peerAlive := true }, linkT := { st := .up, rate := 1 }, pair := { live.pair with role := .resting } },
      by decide +kernel⟩,
   ⟨{ live with flt := { peerAlive := true } }, by decide +kernel⟩,
   ⟨live, by delta PairSteady; decide +kernel⟩,
   ⟨{ live with flt := { aliveOn := true }, boot := { live.boot with valid := false } }, by decide +kernel⟩,
   ⟨{ live with pair := { live.pair with role := .fallen } }, by decide +kernel⟩,
   ⟨{ live with pair := { live.pair with role := .fallen } }, by decide +kernel⟩⟩

/-- States and operands that meet the hypotheses of the clauses of CheckpointsAndHealth. -/
theorem witness_CheckpointsAndHealth :
    (∃ (s : State), s.pairTalks = true ∧ s.pair.role = Role.leading) ∧
    (∃ (s : State), s.pairTalks = false) ∧
    (∃ (s : State), s.pairTalks = true ∧ s.pair.role = Role.resting ∧ s.ckptForeign = false ∧ s.pair.t0 = none ∧
      s.pair.sync ≠ CkSync.loading) ∧
    (∃ (s : State), s.pairTalks = true ∧ s.pair.role = Role.resting ∧ s.ckptForeign = false ∧ s.pair.t0 = none ∧
      s.pair.sync = CkSync.insync) ∧
    (∃ (seq : Word) (s : State), s.pairTalks = true ∧ s.pair.role = Role.resting ∧ s.ckptForeign = false ∧
      s.pair.t0 = none ∧ seq ≠ s.pair.ckSeq + 1) ∧
    (∃ (recs : List CkptRecord) (off : Nat) (v : Word), CkptRecord.register off v ∈ recs) ∧
    (∃ (copy : List CkptRecord) (recs : List CkptRecord) (off : Nat) (v : Word), CkptRecord.register off v ∈ copy ∧
      (∀ (w : Word), ¬CkptRecord.register off w ∈ recs)) ∧
    (∃ (d : Delivered) (s : State), (List.find? (fun d => d.sink == Sink.pairMsg && BitVec.toNat (d.payload.headD 0) == 1) s.fwd.inbox = some d) ∧
      PairSteady s ∧ d.payload.length = 36 ∧ s.pair.role ≠ Role.resting) ∧
    (∃ (d : Delivered) (s : State), (List.find? (fun d => d.sink == Sink.pairMsg && BitVec.toNat (d.payload.headD 0) == 1) s.fwd.inbox = some d) ∧
      PairSteady s ∧ d.payload.length ≠ 36) ∧
    (∃ (s : State), s.pair.role = Role.resting ∧ s.pair.waiting = false ∧ (s.mem 37).failed = false) :=
  ⟨⟨live, by decide +kernel⟩,
   ⟨{ live with boot := { live.boot with valid := false } }, by decide +kernel⟩,
   ⟨{ live with pair := { live.pair with role := .resting } }, by decide +kernel⟩,
   ⟨{ live with pair := { live.pair with role := .resting, sync := .insync } }, by decide +kernel⟩,
   ⟨2, { live with pair := { live.pair with role := .resting } }, by decide +kernel⟩,
   ⟨[.register 0 1], 0, 1, by decide +kernel⟩,
   ⟨[.register 8 1], [], 8, 1, by simp⟩,
   ⟨{ sink := .pairMsg, port := .e, h := { typ := 7 }, payload := [1, 0, 0, 0, 0, 0, 0, 0, 0, 0, 0, 0, 0, 0, 0, 0, 0, 0, 0, 0, 0, 0, 0, 0, 0, 0, 0, 0, 0, 0, 0, 0, 0, 0, 0, 0], arrival := 0, corrections := 0 },
      { live with fwd := { live.fwd with inbox := [{ sink := .pairMsg, port := .e, h := { typ := 7 }, payload := [1, 0, 0, 0, 0, 0, 0, 0, 0, 0, 0, 0, 0, 0, 0, 0, 0, 0, 0, 0, 0, 0, 0, 0, 0, 0, 0, 0, 0, 0, 0, 0, 0, 0, 0, 0], arrival := 0, corrections := 0 }] } },
      by delta PairSteady; decide +kernel⟩,
   ⟨{ sink := .pairMsg, port := .e, h := { typ := 7 }, payload := [1], arrival := 0, corrections := 0 },
      { live with fwd := { live.fwd with inbox := [{ sink := .pairMsg, port := .e, h := { typ := 7 }, payload := [1], arrival := 0, corrections := 0 }] } },
      by delta PairSteady; decide +kernel⟩,
   ⟨{ live with pair := { live.pair with role := .resting } }, by decide +kernel⟩⟩

/-- States and operands that meet the hypotheses of the clauses of HandoversRun. -/
theorem witness_HandoversRun_1 :
    (∃ (s : State), s.pairRuns = true ∧ s.pair.role = Role.leading ∧ s.pairTalks = true ∧ s.peerFit = true) ∧
    (∃ (s : State), s.pairRuns = true ∧ s.pair.role ≠ Role.leading) ∧
    (∃ (s : State), s.pairRuns = true ∧ s.peerFit = false) ∧
    (∃ (s : State), s.pairRuns = true ∧ s.mayReceive = true ∧ s.fwd.inbox = []) ∧
    (∃ (s : State), s.pairRuns = true ∧ s.pair.role = Role.giving ∧ s.pair.froze = false) ∧
    (∃ (s : State), s.pairRuns = true ∧ s.pair.role = Role.leading ∧ s.fwd.inbox = []) ∧
    (∃ (k : Nat) (s : State), s.pair.role = Role.giving ∧ s.pair.t0 = some k ∧ s.pair.froze = false) ∧
    (∃ (k : Nat) (s : State), s.pair.role = Role.receiving ∧ s.pair.finalIn = some k ∧ s.pair.switched = false) ∧
    (∃ (s : State), s.pair.role = Role.giving ∧ s.pair.froze = true) ∧
    (∃ (s : State), s.pair.role = Role.receiving ∧ s.pair.switched = true) ∧
    (∃ (s : State), s.mayReceive = true ∧ s.slot = 0) ∧
    (∃ (s : State), s.handing = true) :=
  ⟨⟨{ live with ident := { number := 5 }, pair := { live.pair with rest := true, sync := .insync, peerHealth := [(0, 0x2082000)] } },
      by decide +kernel⟩,
   ⟨{ live with ident := { number := 5 }, pair := { role := .resting, entered := some 5, sync := .insync } },
      by decide +kernel⟩,
   ⟨{ live with ident := { number := 5 }, pair := { role := .resting, entered := some 5, sync := .insync } },
      by decide +kernel⟩,
   ⟨{ live with ident := { number := 5 }, pair := { role := .resting, entered := some 5, sync := .insync } },
      by decide +kernel⟩,
   ⟨{ live with ident := { number := 5 }, pair := { role := .giving, entered := some 5, sync := .insync } },
      by decide +kernel⟩,
   ⟨{ live with ident := { number := 5 }, pair := { live.pair with rest := true, sync := .insync } },
      by decide +kernel⟩,
   ⟨1,
      { live with ident := { number := 5 }, pair := { role := .giving, entered := some 5, sync := .insync, t0 := some 1 } },
      by decide +kernel⟩,
   ⟨1,
      { live with ident := { number := 5 }, pair := { role := .receiving, entered := some 5, sync := .insync, finalIn := some 1 } },
      by decide +kernel⟩,
   ⟨{ live with ident := { number := 5 }, pair := { role := .giving, entered := some 5, sync := .insync, froze := true } },
      by decide +kernel⟩,
   ⟨{ live with ident := { number := 5 }, pair := { role := .receiving, entered := some 5, sync := .insync, switched := true } },
      by decide +kernel⟩,
   ⟨{ live with ident := { number := 5 }, pair := { role := .resting, entered := some 5, sync := .insync } },
      by decide +kernel⟩,
   ⟨{ live with ident := { number := 5 }, pair := { role := .giving, entered := some 5, sync := .insync } },
      by decide +kernel⟩⟩

/-- States and operands that meet the hypotheses of the clauses of HandoversRun. -/
theorem witness_HandoversRun_2 :
    (∃ (s : State), s.slot ≠ 0) ∧
    (∃ (s : State), s.pair.role ≠ Role.resting) ∧
    (∃ (s : State), s.pair.role = Role.resting ∧ s.pairTalks = true) ∧
    (∃ (s : State), s.pair.held = false) ∧
    (∃ (s : State), s.pair.held = true ∧ PairSteady s) ∧
    (∃ (s : State) (k : Nat), s.pair.holdSince = some k ∧ s.holdoffRuns = true ∧ s.mayReceive = true) :=
  ⟨⟨{ live with ident := { straps := { twinslot := 1 }, number := 5 }, pair := { role := .resting, entered := some 5, sync := .insync } },
      by decide +kernel⟩,
   ⟨{ live with ident := { number := 5 }, pair := { entered := some 5, sync := .insync } }, by decide +kernel⟩,
   ⟨{ live with ident := { number := 5 }, pair := { role := .resting, entered := some 5, sync := .insync } },
      by decide +kernel⟩,
   ⟨{ live with ident := { number := 5 }, pair := { role := .resting, entered := some 5, sync := .insync } },
      by decide +kernel⟩,
   ⟨{ live with ident := { number := 5 }, pair := { role := .resting, entered := some 5, held := true, sync := .insync } },
      by delta PairSteady; decide +kernel⟩,
   ⟨{ live with ident := { number := 5 }, pair := { role := .resting, entered := some 5, holdSince := some 1, sync := .insync } },
      1, by decide +kernel⟩⟩

/-- States and operands that meet the hypotheses of the clauses of StepRunsFront. -/
theorem witness_StepRunsFront :
    (∃ (s : State), s.pending = []) :=
  ⟨live, by decide +kernel⟩

/-- States and operands that meet the hypotheses of the clauses of ResetState. -/
theorem witness_ResetState :
    (∃ (id : Nat), id < 256) ∧
    (∃ (h : Nat), h < 64) ∧
    (∃ (c : Nat), c < 8) :=
  ⟨⟨1, by decide +kernel⟩,
   ⟨1, by decide +kernel⟩,
   ⟨1, by decide +kernel⟩⟩

/-- A command and a state of which the first clauses of the whole-machine statements speak: an idle step of `live`. -/
theorem witness_step_of_live : ∃ s t : State, WithinCapacity s ∧ MemoriesCanonical s ∧ Settled s ∧ s.pending = [] ∧
    step s = .next t :=
  ⟨live, _, ⟨by decide +kernel, by decide +kernel, fun q => by
    show (tabGet ({} : LocalQueue) [] q).recs.length ≤ 256; simp [tabGet]⟩,
    by delta MemoriesCanonical; decide +kernel, rfl, rfl, rfl⟩

/-- A command that completes and does not enter node safe (EveryCommandLeaves). -/
theorem witness_EveryCommandLeaves : ∃ (i : Instr) (s t : State), exec i s = .next t ∧ (t.flt.safe = true → s.flt.safe = true) :=
  ⟨.hkRett .a, live, _, rfl, by decide +kernel⟩

/-- RETT takes a pair to task mode (HrkReturns). -/
theorem witness_HrkReturns_task : ∃ (i : Instr) (s t : State), exec i s = .next t ∧ (s.ncp .a).sys = true ∧
    (t.ncp .a).sys = false :=
  ⟨.hkRett .a, live, _, rfl, by decide +kernel, by decide +kernel⟩

end Sys2Proof.Tests
end

section
/-! SUPPORT. Instructions that a pair performs: an instruction that issues acts by its own effect alone (R415), and one that
writes only the pair leaves everything else as the start of the command. -/

namespace Sys2Proof.Machine

theorem begun_ncp (s : State) (p : Pair) : s.begun.ncp p = s.ncp p := by cases p <;> rfl

theorem Issuing.begun {p : Pair} {s : State} (h : Issuing p s) : Issuing p s.begun := by cases p <;> exact h

theorem Issuing.issue {p : Pair} {s : State} (h : Issuing p s) (f : State → State) (w : Bool) : s.issue p f w = f s := by
  obtain ⟨hi, hw, hf, ha⟩ := h
  simp [State.issue, hi, hw, hf, ha]

/-- A command whose effect writes only a pair raises nothing, so that effect is its whole effect. -/
theorem act_setNcp {f : State → State} {s : State} {p : Pair} {x : Ncp} (h : f s.begun = s.begun.setNcp p x) :
    act f s = .next (s.begun.setNcp p x) := by
  rw [act_quiet (by rw [h, setNcp_raised, begun_raised]), h]
  cases p <;> rfl

theorem Ncp.setReg_pc (x : Ncp) (r : BitVec 4) (v : Word) : (x.setReg r v).pc = x.pc := by
  unfold Ncp.setReg
  split <;> rfl

/-- An ALU instruction writes d and the flags and goes on with the next instruction (R415, R419). -/
theorem act_alu {p : Pair} {s : State} (h : Issuing p s) (d : BitVec 4) (r : Ncp → Word × Flags) :
    act (fun s => s.alu p d r) s = .next (s.begun.setNcp p
      { (s.ncp p).setReg d (r (s.ncp p)).1 with flags := (r (s.ncp p)).2, pc := (s.ncp p).pc + 4 }) := by
  refine act_setNcp ?_
  unfold State.alu State.compute
  rw [h.begun.issue, begun_ncp, Ncp.advance]
  dsimp only
  rw [Ncp.setReg_pc]

/-- A synchronous trap outside a trap is taken (R433). -/
theorem syncTrap_of_not_intrap {s : State} {p : Pair} (h : (s.ncp p).intrap = false) (code : Nat) (epc bad : Word)
    (status imm : Nat) : s.syncTrap p code epc bad status imm = s.setNcp p ((s.ncp p).takeTrap code epc bad status imm) := by
  simp [State.syncTrap, h]

/-- RETT in system mode restores what the trap saved (R435). -/
theorem ncpRett_of_sys {s : State} {p : Pair} (hi : Issuing p s) (h : (s.ncp p).sys = true) :
    ncpRett p s = s.setNcp p (s.ncp p).returnTrap := by
  rw [ncpRett, hi.issue, if_pos h]

/-- RETT in task mode takes trap 0x2 (R432). -/
theorem ncpRett_of_task {s : State} {p : Pair} (hi : Issuing p s) (h : (s.ncp p).sys = false) :
    ncpRett p s = s.trapHere p 2 := by
  rw [ncpRett, hi.issue, if_neg (by simp [h])]

end Sys2Proof.Machine
end

section
/-! SUPPORT. Division (R421): the results of the ALU's definitions in the terms of the statement, with its two special
cases. -/

namespace Sys2Proof.Machine

theorem divSpecial_eq (a b : Word) : divSpecial a b = decide (b = 0 ∨ a = 0x80000000 ∧ b = 0xFFFFFFFF) := by
  simp only [Bool.decide_or, Bool.decide_and]
  rfl

/-- Outside the special cases the signed quotient is the truncated one, which then needs no wrapping. -/
theorem quotS_eq (a b : Word) : quotS a b = if b = 0 then 0xFFFFFFFF
    else if a = 0x80000000 ∧ b = 0xFFFFFFFF then 0x80000000 else BitVec.ofInt 32 (a.toInt.tdiv b.toInt) := by
  unfold quotS
  split
  · rfl
  · split
    case isTrue h =>
      obtain ⟨rfl, rfl⟩ := h
      decide
    case isFalse => exact BitVec.eq_of_toInt_eq (by rw [BitVec.toInt_sdiv, BitVec.toInt_ofInt])

theorem aluDiv_eq (f : Flags) (a b r : Word) (hr : r = if b = 0 then 0xFFFFFFFF
    else if a = 0x80000000 ∧ b = 0xFFFFFFFF then 0x80000000 else BitVec.ofInt 32 (a.toInt.tdiv b.toInt)) :
    aluDiv f a b = (r, { setZN f r with v := decide (b = 0 ∨ a = 0x80000000 ∧ b = 0xFFFFFFFF) }) := by
  rw [hr, ← quotS_eq, ← divSpecial_eq]
  rfl

theorem aluDivu_eq (f : Flags) (a b r : Word)
    (hr : r = if b = 0 then 0xFFFFFFFF else BitVec.ofNat 32 (a.toNat / b.toNat)) :
    aluDivu f a b = (r, { setZN f r with v := decide (b = 0) }) := by
  rw [hr, ← BitVec.udiv_def]
  rfl

theorem aluRem_eq (f : Flags) (a b r : Word) (hr : r = if b = 0 then a
    else if a = 0x80000000 ∧ b = 0xFFFFFFFF then 0 else BitVec.ofInt 32 (a.toInt.tmod b.toInt)) :
    aluRem f a b = (r, { setZN f r with v := decide (b = 0 ∨ a = 0x80000000 ∧ b = 0xFFFFFFFF) }) := by
  have h : r = if b = 0 then a else if divSpecial a b then 0 else a.srem b := by
    rw [hr, ← BitVec.toInt_srem, BitVec.ofInt_toInt]
    by_cases hb : b = 0
    · rw [if_pos hb, if_pos hb]
    · simp only [divSpecial_eq, hb, if_false, false_or, decide_eq_true_eq]
  rw [h, ← divSpecial_eq]
  rfl

theorem aluRemu_eq (f : Flags) (a b r : Word) (hr : r = if b = 0 then a else BitVec.ofNat 32 (a.toNat % b.toNat)) :
    aluRemu f a b = (r, { setZN f r with v := decide (b = 0) }) := by
  rw [hr, ← BitVec.umod_def]
  rfl

/-- A division that sets Z, N and V of its result (R420, R421) acts as an ALU instruction does. -/
theorem act_divide {p : Pair} {s : State} (h : Issuing p s) (d a b : BitVec 4) {g : Flags → Word → Word → Word × Flags}
    {r : Word} {v : Bool} (hg : g (s.ncp p).flags ((s.ncp p).reg a) ((s.ncp p).reg b) =
      (r, { setZN (s.ncp p).flags r with v := v })) :
    act (fun s => s.alu p d fun x => g x.flags (x.reg a) (x.reg b)) s = .next (s.begun.setNcp p
      { (s.ncp p).setReg d r with
        flags := { z := r == 0, n := r.msb, c := (s.ncp p).flags.c, v := v }, pc := (s.ncp p).pc + 4 }) := by
  rw [act_alu h, hg]
  rfl

/-- Settles O35: each division is an ALU instruction whose result and V are those of R421, and none of them traps. -/
theorem hrkDivides : Obligations.HrkDivides := by
  unfold Obligations.HrkDivides
  rintro p d a b s x A B rfl rfl rfl hi c r V hc
  simp only [List.mem_cons, List.not_mem_nil, or_false, Prod.mk.injEq] at hc
  obtain ⟨rfl, hr, rfl⟩ | ⟨rfl, hr, rfl⟩ | ⟨rfl, hr, rfl⟩ | ⟨rfl, hr, rfl⟩ := hc
  · exact act_divide hi d a b (aluDiv_eq _ _ _ r hr)
  · exact act_divide hi d a b (aluDivu_eq _ _ _ r hr)
  · exact act_divide hi d a b (aluRem_eq _ _ _ r hr)
  · exact act_divide hi d a b (aluRemu_eq _ _ _ r hr)

end Sys2Proof.Machine
end

section
/-! SUPPORT. System mode, and how a proof that an operation keeps it is put together. A pair leaves system mode by the
write of its mode bit alone, which only the return from a trap makes (R435); so every other operation of the model keeps
it. An operation that leaves the pairs alone is dealt with by its law under Laws; only those that write a pair need an
argument, and an operation made of others is opened up into its branches, each of which the lemma or the law of its
outermost operation carries back to the state before it. -/

namespace Sys2Proof.Machine

/-- Every part of the state but the pairs' own registers. -/
def besidePairs : List Part :=
  [.pending, .out, .raised, .now, .fresh, .limits, .regs, .applied, .staged, .latches, .funcs, .key, .ldx, .queues,
    .hostq, .dma, .pcie, .flt, .ident, .time, .axes, .linkW, .linkE, .linkT, .fwd, .shared, .lines, .uarts, .encoders,
    .engines, .fronds, .act, .cans, .canPll, .brg, .usb, .power, .dieA, .dieB, .rpr, .peat, .boot, .pair, .image,
    .xact, .counts, .pba, .lanes, .pendA, .pendB, .urgent]

/-- A pair is in system mode (`inSystem_iff`). It is said through a state that differs beside the pairs only, so that
the `_only` laws rewrite the claim for an operation that leaves the pairs alone into that for the state before it. -/
abbrev InSystem (pr : Pair) (s : State) : Prop := ∃ u, Only besidePairs u s ∧ (u.ncp pr).sys = true

variable {pr : Pair} {s t : State}

/-- The mode of a pair is not beside the pairs. -/
theorem Only.sys {u : State} (h : Only besidePairs u s) (p : Pair) : (s.ncp p).sys = (u.ncp p).sys := by
  cases p with
  | a =>
    have e : ({ s.ncpA with pend := [] } : Ncp) = { u.ncpA with pend := [] } := h .ncpA (by decide)
    have es := congrArg Ncp.sys e
    exact es
  | b =>
    have e : ({ s.ncpB with pend := [] } : Ncp) = { u.ncpB with pend := [] } := h .ncpB (by decide)
    have es := congrArg Ncp.sys e
    exact es

theorem inSystem_iff : InSystem pr s ↔ (s.ncp pr).sys = true :=
  ⟨fun ⟨_, h, hs⟩ => (h.sys pr).trans hs, fun h => ⟨s, Only.refl _ s, h⟩⟩

/-! ### One rule for each way in which an operation is built -/

theorem InSystem.mono (h : InSystem pr s) (hA : s.ncpA.sys = true → t.ncpA.sys = true)
    (hB : s.ncpB.sys = true → t.ncpB.sys = true) : InSystem pr t := by
  rw [inSystem_iff] at h ⊢
  cases pr with
  | a => exact hA h
  | b => exact hB h

theorem InSystem.only {ps : List Part} (ht : Only ps s t) (hp : ∀ q ∈ ps, q ∈ besidePairs) (h : InSystem pr s) :
    InSystem pr t := by
  obtain ⟨u, hu, hs⟩ := h
  exact ⟨u, ht.step hp hu, hs⟩

theorem InSystem.through (h : ∀ u, Only besidePairs u t ↔ Only besidePairs u s) (hs : InSystem pr s) :
    InSystem pr t := by
  obtain ⟨u, hu, hp⟩ := hs
  exact ⟨u, (h u).2 hu, hp⟩

theorem InSystem.with_pairs (x y : Ncp) (m : List Host.Cell) (b : Boot) (h : InSystem pr s)
    (hA : s.ncpA.sys = true → x.sys = true) (hB : s.ncpB.sys = true → y.sys = true) :
    InSystem pr { s with ncpA := x, ncpB := y, shared := m, boot := b } :=
  h.mono hA hB

theorem InSystem.with_pending (l : List Instr) (h : InSystem pr s) : InSystem pr { s with pending := l } := h.mono id id

theorem InSystem.begun (h : InSystem pr s) : InSystem pr s.begun := h.mono id id

theorem InSystem.ite {c : Prop} [Decidable c] (ht : InSystem pr s) (he : InSystem pr t) :
    InSystem pr (if c then s else t) := by
  split <;> assumption

theorem InSystem.foldl {α : Type} {f : State → α → State} {l : List α}
    (hf : ∀ s a, InSystem pr s → InSystem pr (f s a)) (h : InSystem pr s) : InSystem pr (l.foldl f s) := by
  induction l generalizing s with
  | nil => exact h
  | cons a l ih => exact ih (hf s a h)

theorem InSystem.foldl_snd {α β : Type} {f : β × State → α → β × State} {l : List α} {r : β × State}
    (hf : ∀ r a, InSystem pr r.2 → InSystem pr (f r a).2) (h : InSystem pr r.2) : InSystem pr (l.foldl f r).2 := by
  induction l generalizing r with
  | nil => exact h
  | cons a l ih => exact ih (hf r a h)

theorem InSystem.getD {o : Option State} (ho : ∀ u, o = some u → InSystem pr u) (h : InSystem pr s) :
    InSystem pr (o.getD s) := by
  cases o with
  | none => exact h
  | some u => exact ho u rfl

theorem InSystem.snd {α : Type} {e : α × State} {a : α} (h : InSystem pr e.2) (he : e = (a, t)) : InSystem pr t := by
  rw [he] at h; exact h

theorem State.setNcp_keepsSystem (s : State) (q : Pair) (n : Ncp) (h : InSystem pr s)
    (hn : (s.ncp q).sys = true → n.sys = true) : InSystem pr (s.setNcp q n) := by
  cases q with
  | a => exact h.mono hn id
  | b => exact h.mono id hn

theorem State.withDies_keepsSystem (s : State) (f : State → State) (h : InSystem pr (f s)) :
    InSystem pr (s.withDies f) := by
  unfold State.withDies
  refine .foldl (fun t e ht => .ite ht ?_) h
  simpa (disch := decide) only [InSystem, ↓State.emit_only] using ht

theorem State.redrive_keepsSystem (s : State) (f : State → State) (h : InSystem pr (f s)) :
    InSystem pr (s.redrive f) := by
  unfold State.redrive
  refine .foldl (fun t e ht => .ite ht ?_) (s.withDies_keepsSystem f h)
  simpa (disch := decide) only [InSystem, ↓State.emit_only] using ht

theorem State.readWords_keepsSystem (s : State) (word : State → Nat → Nat × State) (a k : Nat)
    (hf : ∀ t n, InSystem pr t → InSystem pr (word t n).2) (h : InSystem pr s) :
    InSystem pr (s.readWords word a k).2 := by
  unfold State.readWords
  exact .foldl_snd (fun r i hr => hf r.2 _ hr) h

/-! ### Writes of a pair's registers that leave its mode -/

theorem Ncp.setReg_sys (x : Ncp) (r : BitVec 4) (v : Word) : (x.setReg r v).sys = x.sys := by
  unfold Ncp.setReg
  split <;> rfl

theorem Ncp.setPair_sys (x : Ncp) (d : BitVec 4) (lo hi : Word) : (x.setPair d lo hi).sys = x.sys :=
  (Ncp.setReg_sys ..).trans (Ncp.setReg_sys ..)

theorem Ncp.storeDone_sys (x : Ncp) (base : Option (BitVec 4 × Word)) : (x.storeDone base).sys = x.sys := by
  cases base with
  | none => rfl
  | some b => exact x.setReg_sys b.1 b.2

theorem Ncp.loadDone_sys (x : Ncp) (k : LoadKind) (d : BitVec 4) (b : List Byte) (base : Option (BitVec 4 × Word)) :
    (x.loadDone k d b base).sys = x.sys := by
  cases k with
  | ld => exact (Ncp.storeDone_sys ..).trans (Ncp.setPair_sys ..)
  | _ => exact (Ncp.storeDone_sys ..).trans (Ncp.setReg_sys ..)

theorem State.sysRead_sys (s : State) (p : Pair) (n : Nat) : (s.sysRead p n).2.sys = (s.ncp p).sys := by
  unfold State.sysRead
  dsimp only
  split
  case h_12 => split <;> rfl
  all_goals rfl

/-- MTS writes PMODE, the mode that RETT restores, but not the mode itself (R431). -/
theorem Ncp.sysWrite_sys (x : Ncp) (n : Nat) (v : Word) : (x.sysWrite n v).sys = x.sys := by
  unfold Ncp.sysWrite
  split
  case h_12 =>
    split
    · rfl
    · split <;> rfl
  all_goals rfl

end Sys2Proof.Machine
end

section
/-! SUPPORT. The mode of a pair under power, traps and the issue of instructions (15, 16, 20). -/

namespace Sys2Proof.Machine

variable {pr : Pair}

theorem State.loseDomain_keepsSystem (s : State) (d : Nat) (h : InSystem pr s) : InSystem pr (s.loseDomain d) := by
  unfold State.loseDomain
  dsimp only
  split
  case h_5 =>
    simpa (disch := decide) only [InSystem, ↓State.usbDetach_only, ↓State.usbClear_only, ↓State.usbSet_only] using h
  case h_8 => exact h.mono (fun _ => rfl) id
  case h_9 => exact h.mono id (fun _ => rfl)
  case h_12 | h_13 => exact State.withDies_keepsSystem s _ (h.mono id id)
  all_goals exact h.mono id id

theorem domainOff_keepsSystem (d : BitVec 4) (s : State) (h : InSystem pr s) : InSystem pr (domainOff d s) := by
  unfold domainOff
  repeat' first
    | with_reducible assumption
    | simp (disch := decide) only [InSystem, ↓State.domTo_only, ↓State.setDie_only, ↓State.loseStatus_only,
        ↓State.losePreserved_only, ↓State.seqStep_only]
    | with_reducible apply State.loseDomain_keepsSystem
    | split

theorem lbSwitchOff_keepsSystem (s : State) (h : InSystem pr s) : InSystem pr (lbSwitchOff s) := by
  unfold lbSwitchOff
  repeat' first
    | with_reducible assumption
    | simp (disch := decide) only [InSystem, ↓State.setDie_only, ↓State.loseStatus_only]
    | with_reducible apply State.loseDomain_keepsSystem

theorem State.pairHalt_keepsSystem (s : State) (p : Pair) (h : InSystem pr s) : InSystem pr (s.pairHalt p) := by
  unfold State.pairHalt
  dsimp only
  repeat' first
    | with_reducible assumption
    | simp (disch := decide) only [InSystem, ↓State.setFunc_only, ↓State.ncpRaise_only, ↓State.fault_low]
    | with_reducible first | apply State.setNcp_keepsSystem | apply InSystem.ite
    | exact id

theorem State.syncTrap_keepsSystem (s : State) (p : Pair) (code : Nat) (epc bad : Word) (status imm : Nat)
    (h : InSystem pr s) : InSystem pr (s.syncTrap p code epc bad status imm) := by
  unfold State.syncTrap
  dsimp only
  refine InSystem.ite ?_ (s.setNcp_keepsSystem p _ h fun _ => rfl)
  simp (disch := decide) only [InSystem, ↓State.fault_only]
  exact InSystem.ite (s.setNcp_keepsSystem p _ h id) (s.pairHalt_keepsSystem p h)

theorem State.ncpFresh_keepsSystem (s : State) (p : Pair) (h : InSystem pr s) : InSystem pr (s.ncpFresh p) :=
  s.setNcp_keepsSystem p _ h fun _ => rfl

theorem State.trapHere_keepsSystem (s : State) (p : Pair) (code : Nat) (bad : Word) (status : Nat) (h : InSystem pr s) :
    InSystem pr (s.trapHere p code bad status) :=
  s.syncTrap_keepsSystem p code _ bad status 0 h

theorem State.protTrap_keepsSystem (s : State) (p : Pair) (a : Word) (h : InSystem pr s) :
    InSystem pr (s.protTrap p a) := by
  refine State.trapHere_keepsSystem _ p 4 a 0 ?_
  simpa (disch := decide) only [InSystem, ↓State.bump_only] using h

theorem State.issue_keepsSystem (s : State) (p : Pair) (f : State → State) (w : Bool) (h : InSystem pr s)
    (hf : InSystem pr (f s)) : InSystem pr (s.issue p f w) := by
  unfold State.issue
  dsimp only
  exact .ite h (.ite (s.trapHere_keepsSystem p _ _ _ h) (.ite (s.protTrap_keepsSystem p _ h) hf))

theorem State.compute_keepsSystem (s : State) (p : Pair) (f : Ncp → Ncp) (h : InSystem pr s)
    (hf : ∀ x, (f x).sys = x.sys) : InSystem pr (s.compute p f) :=
  s.issue_keepsSystem p _ _ h (s.setNcp_keepsSystem p _ h (hf (s.ncp p)).trans)

theorem State.alu_keepsSystem (s : State) (p : Pair) (d : BitVec 4) (r : Ncp → Word × Flags) (h : InSystem pr s) :
    InSystem pr (s.alu p d r) :=
  s.compute_keepsSystem p _ h fun x => x.setReg_sys d (r x).1

theorem State.branchIf_keepsSystem (s : State) (p : Pair) (i : BitVec 14) (c : Ncp → Bool) (h : InSystem pr s) :
    InSystem pr (s.branchIf p i c) :=
  s.issue_keepsSystem p _ _ h (s.setNcp_keepsSystem p _ h id)

theorem State.ncpComplete_keepsSystem (s : State) (p : Pair) (status : Nat) (data : List Byte) (h : InSystem pr s) :
    InSystem pr (s.ncpComplete p status data) := by
  unfold State.ncpComplete
  dsimp only
  split
  · exact h
  · refine .ite ?_ (State.trapHere_keepsSystem _ p _ _ _ ?_)
    · split
      · exact s.setNcp_keepsSystem p _ h fun hs => (Ncp.loadDone_sys ..).trans hs
      · exact s.setNcp_keepsSystem p _ h fun hs => (Ncp.storeDone_sys ..).trans hs
    · exact s.setNcp_keepsSystem p _ h id

end Sys2Proof.Machine
end

section
/-! SUPPORT. The mode of a pair under the initiator side of fabric transactions (07). -/

namespace Sys2Proof.Machine

variable {pr : Pair}

theorem State.completeTo_keepsSystem (s : State) (w : Who) (write : Bool) (len status detail done : Nat)
    (data : List Byte) (h : InSystem pr s) : InSystem pr (State.completeTo s w write len status detail done data) := by
  unfold State.completeTo
  repeat' first
    | with_reducible assumption
    | simp (disch := decide) only [InSystem, ↓State.emit_only, ↓State.pcieComplete_only, ↓Only.with_dma_usb]
    | with_reducible apply State.ncpComplete_keepsSystem
    | split

theorem State.partDone_keepsSystem (s : State) (id part status detail : Nat) (data : List Byte) (h : InSystem pr s) :
    InSystem pr (State.partDone s id part status detail data) := by
  unfold State.partDone
  repeat' first
    | with_reducible assumption
    | simp (disch := decide) only [InSystem, ↓Only.with_xact]
    | with_reducible apply State.completeTo_keepsSystem
    | split

theorem State.issueRequest_keepsSystem (s : State) (r : Request) (h : InSystem pr s) :
    InSystem pr (State.issueRequest s r) := by
  unfold State.issueRequest
  repeat' first
    | with_reducible assumption
    | simp (disch := decide) only [InSystem, ↓State.originate_only, ↓Only.with_xact]
    | with_reducible apply State.partDone_keepsSystem
    | split

theorem xactAdmit_keepsSystem (s : State) (h : InSystem pr s) : InSystem pr (xactAdmit s) := by
  unfold xactAdmit
  repeat' first
    | with_reducible assumption
    | simp (disch := decide) only [InSystem, ↓State.originationAdmit_only]
    | with_reducible apply State.partDone_keepsSystem
    | split

theorem State.sendRequest_keepsSystem (s : State) (r : Request) (h : InSystem pr s) :
    InSystem pr (State.sendRequest s r) := by
  unfold State.sendRequest
  repeat' first
    | with_reducible assumption
    | simp (disch := decide) only [InSystem, ↓Only.with_xact]
    | with_reducible apply State.issueRequest_keepsSystem
    | split

theorem xactWaitEnd_keepsSystem (s : State) (h : InSystem pr s) : InSystem pr (xactWaitEnd s) := by
  unfold xactWaitEnd
  repeat' first
    | with_reducible assumption
    | simp (disch := decide) only [InSystem, ↓Only.with_xact]
    | with_reducible apply State.issueRequest_keepsSystem
    | split

theorem State.dropWaiting_keepsSystem (s : State) (h : InSystem pr s) : InSystem pr (State.dropWaiting s) := by
  unfold State.dropWaiting
  repeat' first
    | with_reducible assumption
    | simp (disch := decide) only [InSystem, ↓State.pelLog_only, ↓Only.with_xact]
    | with_reducible first | apply State.partDone_keepsSystem | refine InSystem.foldl (fun _ _ h => ?_) ?_
    | split

theorem State.entryDone_keepsSystem (s : State) (e : Nat) (o : Outst) (status detail : Nat) (data : List Byte)
    (mask : Nat) (h : InSystem pr s) : InSystem pr (State.entryDone s e o status detail data mask) := by
  unfold State.entryDone
  repeat' first
    | with_reducible assumption
    | simp (disch := decide) only [InSystem, ↓State.freeEntry_only, ↓State.fillLine_only, ↓State.serveLine_only]
    | with_reducible apply State.partDone_keepsSystem
    | split

theorem xactResponse_keepsSystem (s : State) (h : InSystem pr s) : InSystem pr (xactResponse s) := by
  unfold xactResponse
  repeat' first
    | with_reducible assumption
    | simp (disch := decide) only [InSystem, ↓State.bump_only, ↓State.faultMs_low]
    | with_reducible apply State.entryDone_keepsSystem
    | with_reducible refine InSystem.only (State.takeTurn_some (by assumption)) (by decide) ?_
    | split

theorem xactTimeout_keepsSystem (e : BitVec 9) (s : State) (h : InSystem pr s) : InSystem pr (xactTimeout e s) := by
  unfold xactTimeout
  repeat' first
    | with_reducible assumption
    | simp (disch := decide) only [InSystem, ↓State.advanceTo_only, ↓State.fault_low]
    | with_reducible apply State.entryDone_keepsSystem
    | split

end Sys2Proof.Machine
end

section
/-! SUPPORT. The mode of a pair under functions (02), faults, the safe state and the delivery of raises (18). -/

namespace Sys2Proof.Machine

variable {pr : Pair}

theorem State.pairFresh_keepsSystem (s : State) (p : Pair) (h : InSystem pr s) : InSystem pr (s.pairFresh p) :=
  State.setNcp_keepsSystem _ p _ (s.ncpFresh_keepsSystem p h) id

theorem State.onFresh_keepsSystem (s : State) (id : Nat) (h : InSystem pr s) : InSystem pr (State.onFresh s id) := by
  unfold State.onFresh
  repeat' first
    | with_reducible assumption
    | simp (disch := decide) only [InSystem, ↓State.frondStart_only, ↓State.canFresh_only, ↓State.engineFresh_only,
        ↓State.uartFresh_only, ↓State.encoderFresh_only, ↓State.fwdFresh_only, ↓State.timeFresh_only,
        ↓State.actFresh_only, ↓State.brgFresh_only, ↓State.sporeFresh_only, ↓Only.with_flt]
    | with_reducible apply State.pairFresh_keepsSystem
    | split

theorem State.onStopping_keepsSystem (s : State) (id : Nat) (h : InSystem pr s) :
    InSystem pr (State.onStopping s id) := by
  unfold State.onStopping
  repeat' first
    | with_reducible assumption
    | simp (disch := decide) only [InSystem, ↓State.portStopping_only, ↓State.frondStopping_only,
        ↓State.canStopping_only, ↓State.chanStopping_only, ↓State.axisOff_only, ↓State.engineStopped_only,
        ↓State.bufferFlush_only, ↓State.timeStopped_only, ↓State.actStopping_only, ↓State.brgStopping_only,
        ↓State.usbHubStopped_only, ↓State.usbFnConnect_only, ↓State.dmaStopAll_only, ↓Only.with_fwd]
    | with_reducible apply State.dropWaiting_keepsSystem
    | split

theorem State.onHalted_keepsSystem (s : State) (id : Nat) (h : InSystem pr s) : InSystem pr (State.onHalted s id) := by
  unfold State.onHalted
  repeat' first
    | with_reducible assumption
    | simp (disch := decide) only [InSystem, ↓State.portHalted_only, ↓State.frondHalted_only, ↓State.chanSafeOff_only,
        ↓State.axisOff_only, ↓State.engineStopped_only, ↓State.engineHaltLines_only, ↓State.uartStopped_only,
        ↓State.discardWhere_only, ↓State.timeStopped_only, ↓State.actHalted_only, ↓State.usbHubStopped_only,
        ↓State.usbFnConnect_only]
    | with_reducible first | apply State.dropWaiting_keepsSystem | apply State.pairHalt_keepsSystem
    | split

theorem State.onCleared_keepsSystem (s : State) (id : Nat) (h : InSystem pr s) : InSystem pr (s.onCleared id) := by
  unfold State.onCleared
  refine .ite ?_ ?_
  · simpa (disch := decide) only [InSystem, ↓State.chanLeaveSafe_only] using h
  · split
    · exact s.setNcp_keepsSystem .a _ h fun hs => hs
    · exact s.setNcp_keepsSystem .b _ h fun hs => hs
    · exact h

theorem State.stopOne_keepsSystem (s : State) (id : Nat) (restart : Bool) (h : InSystem pr s) :
    InSystem pr (State.stopOne s id restart) := by
  unfold State.stopOne
  repeat' first
    | with_reducible assumption
    | simp (disch := decide) only [InSystem, ↓State.setFunc_only]
    | with_reducible apply State.onStopping_keepsSystem
    | split

theorem State.enterStopping_keepsSystem (s : State) (id : Nat) (restart : Bool) (h : InSystem pr s) :
    InSystem pr (State.enterStopping s id restart) := by
  unfold State.enterStopping
  repeat' first
    | with_reducible assumption
    | simp (disch := decide) only [InSystem, ↓State.staleSweep_only]
    | with_reducible first | apply State.stopOne_keepsSystem | refine InSystem.foldl (fun _ _ h => ?_) ?_

theorem State.enterStarting_keepsSystem (s : State) (id : Nat) (fresh : Bool) (h : InSystem pr s) :
    InSystem pr (State.enterStarting s id fresh) := by
  unfold State.enterStarting
  repeat' first
    | with_reducible assumption
    | simp (disch := decide) only [InSystem, ↓State.setFunc_only, ↓State.onAccepted_only, ↓State.staleSweep_only]
    | with_reducible apply State.onFresh_keepsSystem
    | split

theorem State.stopLeadSet_keepsSystem (s : State) (h : InSystem pr s) : InSystem pr (State.stopLeadSet s) := by
  unfold State.stopLeadSet
  repeat' first
    | with_reducible assumption
    | with_reducible first | apply State.enterStopping_keepsSystem | refine InSystem.foldl (fun _ _ h => ?_) ?_
    | split

theorem State.fall_keepsSystem (s : State) (h : InSystem pr s) : InSystem pr (State.fall s) := by
  unfold State.fall
  repeat' first
    | with_reducible assumption
    | simp (disch := decide) only [InSystem, ↓State.roleTo_only, ↓State.setChan_only, ↓State.safeLines_only,
        ↓Only.with_pair]
    | with_reducible first | apply State.stopLeadSet_keepsSystem | refine InSystem.foldl (fun _ _ h => ?_) ?_
    | split

theorem State.aliveCheck_keepsSystem (s : State) (h : InSystem pr s) : InSystem pr (State.aliveCheck s) := by
  unfold State.aliveCheck
  repeat' first
    | with_reducible assumption
    | simp (disch := decide) only [InSystem, ↓State.emit_only, ↓Only.with_flt]
    | with_reducible apply State.fall_keepsSystem
    | split

theorem State.stopFn_keepsSystem (s : State) (id : Nat) (restart : Bool) (h : InSystem pr s) :
    InSystem pr (State.stopFn s id restart) :=
  State.aliveCheck_keepsSystem _ (s.enterStopping_keepsSystem id restart h)

theorem State.haltOne_keepsSystem (s : State) (id : Nat) (h : InSystem pr s) : InSystem pr (State.haltOne s id) := by
  unfold State.haltOne
  repeat' first
    | with_reducible assumption
    | simp (disch := decide) only [InSystem, ↓State.setFunc_only]
    | with_reducible apply State.onHalted_keepsSystem
    | split

theorem State.haltFn_keepsSystem (s : State) (id : Nat) (h : InSystem pr s) : InSystem pr (State.haltFn s id).2 := by
  unfold State.haltFn
  repeat' first
    | with_reducible assumption
    | simp (disch := decide) only [InSystem, ↓State.staleSweep_only]
    | with_reducible first
      | apply State.haltOne_keepsSystem
      | apply State.aliveCheck_keepsSystem
      | refine InSystem.foldl (fun _ _ h => ?_) ?_
    | split

theorem State.nodeSafe_keepsSystem (s : State) (m : DWord) (entry : Option Nat) (h : InSystem pr s) :
    InSystem pr (State.nodeSafe s m entry) := by
  unfold State.nodeSafe
  repeat' first
    | with_reducible assumption
    | simp (disch := decide) only [InSystem, ↓State.bump_only, ↓State.chanSafeOff_only, ↓State.safeLines_only,
        ↓State.staleSweep_only, ↓State.event_only, ↓Only.with_flt]
    | with_reducible first
      | apply State.haltOne_keepsSystem
      | apply State.aliveCheck_keepsSystem
      | refine InSystem.foldl (fun _ _ h => ?_) ?_
    | split

theorem State.funcCommand_keepsSystem (s : State) (id cmd : Nat) (h : InSystem pr s) :
    InSystem pr (State.funcCommand s id cmd) := by
  unfold State.funcCommand
  repeat' first
    | with_reducible assumption
    | simp (disch := decide) only [InSystem, ↓State.reject_only, ↓State.cstat_only, ↓State.setFunc_only,
        ↓State.applyPending_only]
    | with_reducible first
      | apply State.enterStarting_keepsSystem
      | apply State.stopFn_keepsSystem
      | apply State.onCleared_keepsSystem
    | split

theorem funcCmd_keepsSystem (src : Src) (id : BitVec 8) (cmd : Nat) (s : State) (h : InSystem pr s) :
    InSystem pr (funcCmd src id cmd s) := by
  unfold funcCmd
  repeat' first
    | with_reducible assumption
    | simp (disch := decide) only [InSystem, ↓State.ignored_only]
    | with_reducible apply State.funcCommand_keepsSystem
    | split

theorem functionStopped_keepsSystem (id : BitVec 8) (s : State) (h : InSystem pr s) :
    InSystem pr (functionStopped id s) := by
  unfold functionStopped
  repeat' first
    | with_reducible assumption
    | simp (disch := decide) only [InSystem, ↓State.setFunc_only, ↓State.onStopped_only, ↓State.chanLeaveSafe_only]
    | with_reducible apply State.enterStarting_keepsSystem
    | split

theorem aliveToggle_keepsSystem (s : State) (h : InSystem pr s) : InSystem pr (aliveToggle s) := by
  unfold aliveToggle
  repeat' first
    | with_reducible assumption
    | simp (disch := decide) only [InSystem, ↓State.advanceTo_only, ↓State.emit_only, ↓State.roleTo_only,
        ↓Only.with_flt_pair]
    | with_reducible first | apply State.stopLeadSet_keepsSystem | apply State.aliveCheck_keepsSystem
    | split

theorem State.overflowSafe_keepsSystem (s : State) (h : InSystem pr s) : InSystem pr (State.overflowSafe s) := by
  unfold State.overflowSafe
  repeat' first
    | with_reducible assumption
    | simp (disch := decide) only [InSystem, ↓State.bump_only, ↓State.logFault_only]
    | with_reducible apply State.nodeSafe_keepsSystem

theorem State.afterLane_keepsSystem (q : State × Bool) (h : InSystem pr q.1) : InSystem pr (State.afterLane q) := by
  unfold State.afterLane
  exact .ite (q.1.overflowSafe_keepsSystem h) h

theorem State.deliverRaise_keepsSystem (s : State) (a1 : Raise) (h : InSystem pr s) :
    InSystem pr (State.deliverRaise s a1) := by
  unfold State.deliverRaise
  repeat' first
    | with_reducible assumption
    | simp (disch := decide) only [InSystem, ↓State.routeRaise_only, ↓State.laneEnter_only]
    | with_reducible apply State.afterLane_keepsSystem
    | split

theorem settleLoop_keepsSystem (k : Nat) (s : State) (h : InSystem pr s) : InSystem pr (settleLoop k s) := by
  induction k generalizing s with
  | zero => exact h.mono id id
  | succ k ih =>
    unfold settleLoop
    exact .ite h (ih _ (.foldl (fun t r ht => t.deliverRaise_keepsSystem r ht) (h.mono id id)))

theorem settle_keepsSystem (s : State) (h : InSystem pr s) : InSystem pr (settle s) := by
  unfold settle
  repeat' first
    | with_reducible assumption
    | with_reducible apply settleLoop_keepsSystem
    | split

theorem State.react_keepsSystem (s : State) (entry : Option Nat) (id : Nat) (h : InSystem pr s) :
    InSystem pr (State.react s entry id).2 := by
  unfold State.react
  repeat' first
    | with_reducible assumption
    | simp (disch := decide) only [InSystem, ↓State.eventP_only]
    | with_reducible apply State.haltFn_keepsSystem
    | split

theorem State.applyLevel_keepsSystem (s : State) (m : DWord) (v : Verdict) (h : InSystem pr s) :
    InSystem pr (State.applyLevel s m v) := by
  unfold State.applyLevel
  repeat' first
    | with_reducible assumption
    | simp (disch := decide) only [InSystem, ↓State.bump_only, ↓State.setFltEntry_only, ↓State.logFault_only]
    | with_reducible first | apply State.react_keepsSystem | apply State.nodeSafe_keepsSystem
    | split

theorem faultProcess_keepsSystem (s : State) (h : InSystem pr s) : InSystem pr (faultProcess s) := by
  unfold faultProcess
  repeat' first
    | with_reducible assumption
    | simp (disch := decide) only [InSystem, ↓State.bump_only, ↓State.setFltEntry_only, ↓State.laneNotice_only]
    | with_reducible apply State.applyLevel_keepsSystem
    | with_reducible refine InSystem.only (State.takeMsg_some (by assumption)) (by decide) ?_
    | split

end Sys2Proof.Machine
end

section
/-! SUPPORT. The mode of a pair under self-repair (21) and the action tables (10). -/

namespace Sys2Proof.Machine

variable {pr : Pair}

theorem runBist_keepsSystem (f : BistFinds) (s : State) (h : InSystem pr s) : InSystem pr (runBist f s) := by
  unfold runBist
  dsimp only
  refine .ite h ?_
  simp (disch := decide) only [InSystem, ↓State.wearSweep_only, ↓State.testSlices_only, ↓State.placeBanks_only,
    ↓Only.with_image, ↓State.testMemories_only, ↓State.applyMap_only]
  refine InSystem.with_pairs _ _ _ _ ?_ id id
  simpa (disch := decide) only [InSystem, ↓State.testMemories_only, ↓State.applyFuses_only, ↓Only.with_boot] using h

theorem domainTested_keepsSystem (d : BitVec 4) (f : BistFinds) (s : State) (h : InSystem pr s) :
    InSystem pr (domainTested d f s) := by
  unfold domainTested
  dsimp only
  refine .ite ?_ h
  simp (disch := decide) only [InSystem, ↓State.wearSweep_only]
  refine InSystem.ite (InSystem.with_pairs _ _ _ _ ?_ id id) ?_
  · simpa (disch := decide) only [InSystem, ↓State.testMemories_only, ↓State.setDom_only] using h
  · simpa (disch := decide) only [InSystem, ↓State.testEngines_only, ↓State.setDom_only] using h

theorem State.performAction_keepsSystem {s t : State} (e : ActEntry) (ht : s.performAction e = some t)
    (h : InSystem pr s) : InSystem pr t := by
  unfold State.performAction at ht
  dsimp only at ht
  repeat' split at ht
  all_goals first
    | (cases ht; done)
    | (have e := Option.some.inj ht; subst e)
  all_goals repeat' first
    | with_reducible assumption
    | simp (disch := decide) only [InSystem, ↓State.setEngine_only, ↓State.originate_only, ↓State.canRequest_only,
        ↓State.capture_only]
    | with_reducible apply State.funcCommand_keepsSystem

theorem State.commitOther_keepsSystem (s : State) (e : ActEntry) (slot d : Nat) (h : InSystem pr s) :
    InSystem pr (State.commitOther s e slot d) := by
  unfold State.commitOther
  repeat' first
    | with_reducible assumption
    | simp (disch := decide) only [InSystem, ↓State.advanceTo_only, ↓State.actMiss_only, ↓State.freeSlot_only,
        ↓State.actFail_only, ↓State.countLate_only, ↓State.bump_only, ↓State.actRecord_only]
    | with_reducible apply State.funcCommand_keepsSystem
    | with_reducible refine State.performAction_keepsSystem _ (by assumption) ?_
    | split

theorem State.commitSlot_keepsSystem (s : State) (slot : Nat) (h : InSystem pr s) :
    InSystem pr (State.commitSlot s slot) := by
  unfold State.commitSlot
  repeat' first
    | with_reducible assumption
    | simp (disch := decide) only [InSystem, ↓State.commitLine_only]
    | with_reducible apply State.commitOther_keepsSystem
    | split

theorem actCommit_keepsSystem (slot : BitVec 12) (s : State) (h : InSystem pr s) : InSystem pr (actCommit slot s) :=
  s.commitSlot_keepsSystem _ h

theorem State.judgeBehind_keepsSystem (s : State) (slot : Nat) (h : InSystem pr s) :
    InSystem pr (State.judgeBehind s slot) := by
  unfold State.judgeBehind
  repeat' first
    | with_reducible assumption
    | with_reducible first | apply State.commitSlot_keepsSystem | apply InSystem.ite

theorem actMerge_keepsSystem (s : State) (h : InSystem pr s) : InSystem pr (actMerge s) := by
  unfold actMerge
  repeat' first
    | with_reducible assumption
    | simp (disch := decide) only [InSystem, ↓State.appRefuse_only, ↓State.actCancel_only, ↓State.placeEntry_only,
        ↓State.staleSweep_only, ↓Only.with_act]
    | with_reducible apply State.judgeBehind_keepsSystem
    | split
    | with_reducible refine InSystem.snd ?_ (by assumption)

theorem State.swapBanks_keepsSystem (s : State) (h : InSystem pr s) : InSystem pr (State.swapBanks s) := by
  unfold State.swapBanks
  repeat' first
    | with_reducible assumption
    | simp (disch := decide) only [InSystem, ↓State.bump_only, ↓State.bumpBy_only, ↓State.fault_low, ↓State.event_only,
        ↓State.placeEntry_only, ↓State.staleSweep_only, ↓Only.with_act]
    | with_reducible first | apply State.judgeBehind_keepsSystem | refine InSystem.foldl (fun _ _ h => ?_) ?_
    | split

theorem actBoundary_keepsSystem (s : State) (h : InSystem pr s) : InSystem pr (actBoundary s) := by
  unfold actBoundary
  repeat' first
    | with_reducible assumption
    | simp (disch := decide) only [InSystem, ↓State.advanceTo_only, ↓Only.with_act]
    | with_reducible apply State.swapBanks_keepsSystem
    | split

end Sys2Proof.Machine
end

section
/-! SUPPORT. The mode of a pair under the lichen pair (19). -/

namespace Sys2Proof.Machine

variable {pr : Pair}

theorem State.toResting_keepsSystem (s : State) (h : InSystem pr s) : InSystem pr (State.toResting s) := by
  unfold State.toResting
  repeat' first
    | with_reducible assumption
    | simp (disch := decide) only [InSystem, ↓State.roleTo_only, ↓State.restEntered_only]
    | with_reducible apply State.stopLeadSet_keepsSystem

theorem State.toProbing_keepsSystem (s : State) (h : InSystem pr s) : InSystem pr (State.toProbing s) := by
  unfold State.toProbing
  repeat' first
    | with_reducible assumption
    | simp (disch := decide) only [InSystem, ↓State.roleTo_only, ↓State.restEntered_only, ↓Only.with_pair]
    | with_reducible apply State.stopLeadSet_keepsSystem

theorem State.decideSlot0_keepsSystem {s t : State} (ht : s.decideSlot0 = some t) (h : InSystem pr s) :
    InSystem pr t := by
  have hd : InSystem pr { s with pair := { s.pair with waiting := false } } := h.mono id id
  have hl : InSystem pr (State.toLeading { s with pair := { s.pair with waiting := false } }) := by
    simpa (disch := decide) only [InSystem, ↓State.toLeading_only] using hd
  unfold State.decideSlot0 at ht
  dsimp only at ht
  split at ht
  · rwa [← Option.some.inj ht]
  · split at ht
    · rw [← Option.some.inj ht]
      exact .ite (State.toResting_keepsSystem _ hd) hl
    · cases ht

theorem pairEntry_keepsSystem (s : State) (h : InSystem pr s) : InSystem pr (pairEntry s) := by
  unfold pairEntry
  repeat' first
    | with_reducible assumption
    | simp (disch := decide) only [InSystem, ↓Only.with_pair]
    | with_reducible first | apply State.toResting_keepsSystem | refine InSystem.getD (fun _ _ => ?_) ?_
    | with_reducible refine State.decideSlot0_keepsSystem (by assumption) ?_
    | split

theorem pairTwinTimeout_keepsSystem (s : State) (h : InSystem pr s) : InSystem pr (pairTwinTimeout s) := by
  unfold pairTwinTimeout
  repeat' first
    | with_reducible assumption
    | simp (disch := decide) only [InSystem, ↓State.advanceTo_only, ↓Only.with_pair]
    | with_reducible first | apply State.toProbing_keepsSystem | apply State.toResting_keepsSystem
    | with_reducible refine State.decideSlot0_keepsSystem (by assumption) ?_
    | split

theorem pairProbeResult_keepsSystem (s : State) (h : InSystem pr s) : InSystem pr (pairProbeResult s) := by
  unfold pairProbeResult
  repeat' first
    | with_reducible assumption
    | simp (disch := decide) only [InSystem, ↓State.toLeading_only, ↓State.advanceTo_only, ↓State.bump_only,
        ↓State.fault_low]
    | with_reducible apply State.toResting_keepsSystem
    | split

theorem pairProbeAgain_keepsSystem (s : State) (h : InSystem pr s) : InSystem pr (pairProbeAgain s) := by
  unfold pairProbeAgain
  repeat' first
    | with_reducible assumption
    | simp (disch := decide) only [InSystem, ↓State.advanceTo_only]
    | with_reducible apply State.toProbing_keepsSystem
    | split

theorem State.startLeadSet_keepsSystem (s : State) (h : InSystem pr s) : InSystem pr (State.startLeadSet s) := by
  unfold State.startLeadSet
  repeat' first
    | with_reducible assumption
    | with_reducible first | apply State.funcCommand_keepsSystem | refine InSystem.foldl (fun _ _ h => ?_) ?_

theorem State.takeOver_keepsSystem (s : State) (noCkpt : Bool) (h : InSystem pr s) :
    InSystem pr (State.takeOver s noCkpt) := by
  unfold State.takeOver
  repeat' first
    | with_reducible assumption
    | simp (disch := decide) only [InSystem, ↓State.safeLines_only, ↓State.roleTo_only, ↓State.restoreCopy_only,
        ↓State.eventP_only, ↓State.bump_only, ↓State.fault_low, ↓Only.with_pair]
    | with_reducible apply State.startLeadSet_keepsSystem
    | split

theorem pairBootwait_keepsSystem (s : State) (h : InSystem pr s) : InSystem pr (pairBootwait s) := by
  unfold pairBootwait
  repeat' first
    | with_reducible assumption
    | simp (disch := decide) only [InSystem, ↓State.advanceTo_only]
    | with_reducible apply State.takeOver_keepsSystem
    | split

theorem State.handAbort_keepsSystem (s : State) (cause : Nat) (h : InSystem pr s) :
    InSystem pr (State.handAbort s cause) := by
  unfold State.handAbort
  repeat' first
    | with_reducible assumption
    | simp (disch := decide) only [InSystem, ↓State.bump_only, ↓State.fault_low, ↓State.roleTo_only, ↓Only.with_pair]
    | with_reducible first
      | apply State.toResting_keepsSystem
      | apply State.funcCommand_keepsSystem
      | refine State.redrive_keepsSystem _ _ ?_
      | refine InSystem.foldl (fun _ _ h => ?_) ?_
    | split

theorem pairWatch_keepsSystem (s : State) (h : InSystem pr s) : InSystem pr (pairWatch s) := by
  unfold pairWatch
  repeat' first
    | with_reducible assumption
    | simp (disch := decide) only [InSystem, ↓State.twinNoted_only, ↓State.toLeading_only, ↓State.tell_only,
        ↓State.holdNoted_only]
    | with_reducible first | apply State.handAbort_keepsSystem | refine InSystem.getD (fun _ _ => ?_) ?_
    | with_reducible refine State.decideSlot0_keepsSystem (by assumption) ?_
    | split

theorem peerLost_keepsSystem (s : State) (h : InSystem pr s) : InSystem pr (peerLost s) := by
  unfold peerLost
  repeat' first
    | with_reducible assumption
    | simp (disch := decide) only [InSystem, ↓State.fault_low, ↓Only.with_flt_pair]
    | with_reducible first
      | apply State.takeOver_keepsSystem
      | apply State.handAbort_keepsSystem
      | apply pairWatch_keepsSystem
    | split

theorem peerPresent_keepsSystem (s : State) (h : InSystem pr s) : InSystem pr (peerPresent s) := by
  unfold peerPresent
  repeat' first
    | with_reducible assumption
    | simp (disch := decide) only [InSystem, ↓Only.with_flt_pair]
    | with_reducible apply pairWatch_keepsSystem

theorem handMessage_keepsSystem (m : HandoverMsg) (s : State) (h : InSystem pr s) : InSystem pr (handMessage m s) := by
  unfold handMessage
  repeat' first
    | with_reducible assumption
    | simp (disch := decide) only [InSystem, ↓State.dropPairFrame_only, ↓State.tell_only, ↓State.handRefused_only,
        ↓State.handGrant_only, ↓State.roleTo_only, ↓Only.with_pair]
    | with_reducible apply State.handAbort_keepsSystem
    | split

theorem pairRelease_keepsSystem (s : State) (h : InSystem pr s) : InSystem pr (pairRelease s) := by
  unfold pairRelease
  repeat' first
    | with_reducible assumption
    | simp (disch := decide) only [InSystem, ↓State.pairNop_only, ↓Only.with_pair]
    | with_reducible apply pairWatch_keepsSystem
    | split

theorem pairCmd_keepsSystem (src : Src) (op : Nat) (s : State) (h : InSystem pr s) :
    InSystem pr (pairCmd src op s) := by
  unfold pairCmd
  repeat' first
    | with_reducible assumption
    | simp (disch := decide) only [InSystem, ↓pairHandback_only, ↓pairYield_only, ↓pairResync_only, ↓pairHold_only,
        ↓State.ignored_only]
    | with_reducible apply pairRelease_keepsSystem
    | split

theorem handFreeze_keepsSystem (s : State) (h : InSystem pr s) : InSystem pr (handFreeze s) := by
  unfold handFreeze
  repeat' first
    | with_reducible assumption
    | simp (disch := decide) only [InSystem, ↓State.advanceTo_only, ↓State.emit_only, ↓Only.with_pair]
    | with_reducible apply State.stopLeadSet_keepsSystem
    | split

theorem handSwitch_keepsSystem (s : State) (h : InSystem pr s) : InSystem pr (handSwitch s) := by
  unfold handSwitch
  repeat' first
    | with_reducible assumption
    | simp (disch := decide) only [InSystem, ↓State.advanceTo_only, ↓State.emit_only, ↓State.bump_only,
        ↓State.eventP_only, ↓Only.with_ident_pair]
    | with_reducible apply State.toResting_keepsSystem
    | split

theorem handDone_keepsSystem (s : State) (h : InSystem pr s) : InSystem pr (handDone s) := by
  unfold handDone
  repeat' first
    | with_reducible assumption
    | simp (disch := decide) only [InSystem, ↓State.restoreCopy_only, ↓State.placePulses_only, ↓State.roleTo_only,
        ↓State.bump_only, ↓State.eventP_only, ↓Only.with_pair]
    | with_reducible first | apply State.startLeadSet_keepsSystem | refine State.redrive_keepsSystem _ _ ?_
    | split

theorem healthReceived_keepsSystem (s : State) (h : InSystem pr s) : InSystem pr (healthReceived s) := by
  unfold healthReceived
  repeat' first
    | with_reducible assumption
    | simp (disch := decide) only [InSystem, ↓State.ckptGap_only, ↓Only.with_fwd_pair]
    | with_reducible apply pairWatch_keepsSystem
    | split

theorem pairSelfTest_keepsSystem (check : BitVec 4) (pass : Bool) (s : State) (h : InSystem pr s) :
    InSystem pr (pairSelfTest check pass s) := by
  unfold pairSelfTest
  repeat' first
    | with_reducible assumption
    | simp (disch := decide) only [InSystem, ↓State.fault_low, ↓Only.with_pair]
    | with_reducible apply pairWatch_keepsSystem
    | split

end Sys2Proof.Machine
end

section
/-! SUPPORT. The mode of a pair under its own registers (15). -/

namespace Sys2Proof.Machine

variable {pr : Pair}

theorem State.watchdogExpires_keepsSystem (s : State) (p : Pair) (h : InSystem pr s) :
    InSystem pr (State.watchdogExpires s p) := by
  unfold State.watchdogExpires
  repeat' first
    | with_reducible assumption
    | simp (disch := decide) only [InSystem, ↓State.bump_only, ↓State.fault_only]
    | with_reducible apply State.setNcp_keepsSystem
    | exact id

theorem ncpKick_keepsSystem (p : Pair) (v : BitVec 16) (s : State) (h : InSystem pr s) :
    InSystem pr (ncpKick p v s) := by
  unfold ncpKick
  repeat' first
    | with_reducible assumption
    | with_reducible first | apply State.setNcp_keepsSystem | apply State.watchdogExpires_keepsSystem
    | split
    | exact id

theorem ncpWatchdog_keepsSystem (p : Pair) (s : State) (h : InSystem pr s) : InSystem pr (ncpWatchdog p s) := by
  unfold ncpWatchdog
  repeat' first
    | with_reducible assumption
    | simp (disch := decide) only [InSystem, ↓State.advanceTo_only]
    | with_reducible apply State.watchdogExpires_keepsSystem
    | split

theorem ncpEoi_keepsSystem (p : Pair) (s : State) (h : InSystem pr s) : InSystem pr (ncpEoi p s) :=
  s.setNcp_keepsSystem p _ h id

theorem State.ncpClaim_keepsSystem (s : State) (p : Pair) (h : InSystem pr s) : InSystem pr (s.ncpClaim p).2 := by
  unfold State.ncpClaim
  dsimp only
  split
  · exact h
  · split
    · exact h
    · exact s.setNcp_keepsSystem p _ h id

theorem ncpMismatch_keepsSystem (p : Pair) (pc : Word) (kind : BitVec 2) (s : State) (h : InSystem pr s) :
    InSystem pr (ncpMismatch p pc kind s) := by
  unfold ncpMismatch
  repeat' first
    | with_reducible assumption
    | simp (disch := decide) only [InSystem, ↓State.setNat_only, ↓State.bump_only, ↓State.fault_only]
    | with_reducible apply State.setNcp_keepsSystem
    | split
    | exact id

theorem ncpSelfTest_keepsSystem (p : Pair) (pass : Bool) (s : State) (h : InSystem pr s) :
    InSystem pr (ncpSelfTest p pass s) := by
  unfold ncpSelfTest
  repeat' first
    | with_reducible assumption
    | simp (disch := decide) only [InSystem, ↓State.fault_only]
    | with_reducible first | apply State.setNcp_keepsSystem | apply State.haltFn_keepsSystem
    | split
    | exact id

end Sys2Proof.Machine
end

section
/-! SUPPORT. The mode of a pair under register, local and aperture access (02, 07, 17). -/

namespace Sys2Proof.Machine

variable {pr : Pair}

theorem State.popReg_keepsSystem {s t : State} (off : Nat) (ecc : EccResult) {v : Nat}
    (ht : s.popReg off ecc = some (v, t)) (h : InSystem pr s) : InSystem pr t := by
  unfold State.popReg at ht
  dsimp only at ht
  repeat' split at ht
  all_goals first
    | (cases ht; done)
    | (have e := congrArg Prod.snd (Option.some.inj ht); subst e)
  all_goals first
    | exact s.ncpClaim_keepsSystem _ h
    | simpa (disch := decide) only [InSystem, ↓State.msgPop_only, ↓State.canPop_only, ↓State.uartPop_only,
        ↓State.engRxPop_only] using h

theorem State.regRead_keepsSystem (s : State) (port off : Nat) (ecc : EccResult) (h : InSystem pr s) :
    InSystem pr (State.regRead s port off ecc).2 := by
  unfold State.regRead
  repeat' first
    | with_reducible assumption
    | simp (disch := decide) only [InSystem, ↓State.latchUpper_only, ↓Only.with_latches]
    | with_reducible refine State.popReg_keepsSystem _ _ (by assumption) ?_
    | split

theorem State.commandWrite_keepsSystem (s : State) (src : Src) (off : Nat) (data : Word) (h : InSystem pr s) :
    InSystem pr (State.commandWrite s src off data) := by
  unfold State.commandWrite
  repeat' first
    | with_reducible assumption
    | simp (disch := decide) only [InSystem, ↓updateStrobe_only, ↓groupStrobe_only, ↓linkCmd_only, ↓xactSefree_only,
        ↓timeCmd_only, ↓actCmd_only, ↓brgCmd_only, ↓canTxCmd_only, ↓canCmd_only, ↓usbCmd_only, ↓fltAckWrite_only,
        ↓pccmd_only, ↓rprCmd_only, ↓keyUnlock_only, ↓State.frondCommand_only]
    | with_reducible first
      | apply funcCmd_keepsSystem
      | apply pairCmd_keepsSystem
      | apply ncpKick_keepsSystem
      | apply ncpEoi_keepsSystem
    | split

theorem State.wordWrite_keepsSystem (s : State) (src : Src) (off : Nat) (h : RegHit) (v : Word) (hs : InSystem pr s) :
    InSystem pr (State.wordWrite s src off h v) := by
  unfold State.wordWrite
  repeat' first
    | with_reducible assumption
    | simp (disch := decide) only [InSystem, ↓State.ignored_only, ↓State.rwWrite_only, ↓State.rwpWrite_only,
        ↓ldxDataWrite_only, ↓State.keyPass_only, ↓State.rwkWrite_only, ↓State.put_only, ↓State.setFunc_only]
    | with_reducible apply State.commandWrite_keepsSystem
    | split

theorem regWrite_keepsSystem (src : Src) (off : Nat) (size : Width) (v : Word) (s : State) (h : InSystem pr s) :
    InSystem pr (regWrite src off size v s) := by
  unfold regWrite
  repeat' first
    | with_reducible assumption
    | simp (disch := decide) only [InSystem, ↓State.ignored_only]
    | with_reducible apply State.wordWrite_keepsSystem
    | split

theorem State.wordRead_keepsSystem (s : State) (port off : Nat) (ecc : EccResult) (h : InSystem pr s) :
    InSystem pr (State.wordRead s port off ecc).2 := by
  unfold State.wordRead
  repeat' first
    | with_reducible assumption
    | simp (disch := decide) only [InSystem, ↓State.ldxReadThrough_only]
    | with_reducible apply State.regRead_keepsSystem
    | split

theorem wideWrite_keepsSystem (src : Src) (off : BitVec 24) (v : Word) (s : State) (h : InSystem pr s) :
    InSystem pr (wideWrite src off v s) :=
  regWrite_keepsSystem _ _ _ _ s h

theorem wideRead_keepsSystem (src : Src) (off : BitVec 24) (s : State) (h : InSystem pr s) :
    InSystem pr (wideRead src off s) := by
  unfold wideRead
  repeat' first
    | with_reducible assumption
    | simp (disch := decide) only [InSystem, ↓State.emit_only]
    | with_reducible apply State.wordRead_keepsSystem

theorem State.localRead_keepsSystem (s : State) (src : Src) (a k : Nat) (ecc : EccResult) (h : InSystem pr s) :
    InSystem pr (State.localRead s src a k ecc).2 := by
  unfold State.localRead
  repeat' first
    | with_reducible assumption
    | simp (disch := decide) only [InSystem, ↓State.memoryRead_only, ↓State.actionRead_only, ↓State.bufferRead_only]
    | with_reducible first
      | apply State.wordRead_keepsSystem
      | refine State.readWords_keepsSystem _ _ _ _ (fun _ _ h => ?_) ?_
    | split

theorem State.registerBytes_keepsSystem (s : State) (src : Src) (o : Nat) (bytes : List (Option Byte))
    (h : InSystem pr s) : InSystem pr (State.registerBytes s src o bytes).2 := by
  unfold State.registerBytes
  dsimp only
  repeat' first
    | with_reducible assumption
    | with_reducible first | apply regWrite_keepsSystem | refine InSystem.foldl_snd (fun _ _ h => ?_) ?_
    | split

theorem State.localWrite_keepsSystem (s : State) (src : Src) (a : Nat) (bytes : List (Option Byte))
    (h : InSystem pr s) : InSystem pr (State.localWrite s src a bytes).2 := by
  unfold State.localWrite
  repeat' first
    | with_reducible assumption
    | simp (disch := decide) only [InSystem, ↓State.actionWrite_only, ↓brgShadowWrite_only, ↓Only.with_shared_image]
    | with_reducible first | apply State.registerBytes_keepsSystem | refine InSystem.foldl (fun _ _ h => ?_) ?_
    | split

theorem State.refuseAccess_keepsSystem (s : State) (who : Who) (write posted : Bool)
    (len dom addr status detail : Nat) (h : InSystem pr s) :
    InSystem pr (State.refuseAccess s who write posted len dom addr status detail) := by
  unfold State.refuseAccess
  repeat' first
    | with_reducible assumption
    | simp (disch := decide) only [InSystem, ↓State.pelLog_only]
    | with_reducible apply State.completeTo_keepsSystem
    | split

theorem State.issueAccess_keepsSystem (s : State) (who : Who) (r : Reach) (write posted : Bool) (addr len : Nat)
    (data : List Byte) (h : InSystem pr s) : InSystem pr (State.issueAccess s who r write posted addr len data) := by
  unfold State.issueAccess
  repeat' first
    | with_reducible assumption
    | simp (disch := decide) only [InSystem, ↓Only.with_xact]
    | with_reducible first | apply State.sendRequest_keepsSystem | refine InSystem.foldl (fun _ _ h => ?_) ?_

theorem State.prefetchRead_keepsSystem (s : State) (who : Who) (r : Reach) (k addr len : Nat) (h : InSystem pr s) :
    InSystem pr (State.prefetchRead s who r k addr len) := by
  unfold State.prefetchRead
  repeat' first
    | with_reducible assumption
    | simp (disch := decide) only [InSystem, ↓State.discardWhere_only, ↓State.serveLine_only, ↓Only.with_xact]
    | with_reducible first | apply State.completeTo_keepsSystem | apply State.sendRequest_keepsSystem
    | split

theorem State.localAccess_keepsSystem (s : State) (who : Who) (write posted : Bool) (addr len : Nat)
    (data : List Byte) (ecc : EccResult) (h : InSystem pr s) :
    InSystem pr (State.localAccess s who write posted addr len data ecc) := by
  unfold State.localAccess
  repeat' first
    | with_reducible assumption
    | with_reducible first
      | apply State.localWrite_keepsSystem
      | apply State.completeTo_keepsSystem
      | apply State.localRead_keepsSystem
    | split

theorem State.aperture_keepsSystem (s : State) (who : Who) (a : Nat) (write : Bool) (len : Nat) (data : List Byte)
    (ecc : EccResult) (h : InSystem pr s) : InSystem pr (State.aperture s who a write len data ecc) := by
  unfold State.aperture
  repeat' first
    | with_reducible assumption
    | simp (disch := decide) only [InSystem, ↓State.discardWhere_only]
    | with_reducible first
      | apply State.refuseAccess_keepsSystem
      | apply State.localAccess_keepsSystem
      | apply State.issueAccess_keepsSystem
      | apply State.prefetchRead_keepsSystem
    | split

theorem apertureAccess_keepsSystem (i : Initiator) (a : BitVec 30) (write : Bool) (len : BitVec 13) (data : List Byte)
    (ecc : EccResult) (s : State) (h : InSystem pr s) : InSystem pr (apertureAccess i a write len data ecc s) := by
  unfold apertureAccess
  repeat' first
    | with_reducible assumption
    | with_reducible first | apply State.aperture_keepsSystem | apply InSystem.ite
    | split

theorem State.serveWrite_keepsSystem (s : State) (d : Delivered) (h : InSystem pr s) :
    InSystem pr (State.serveWrite s d) := by
  unfold State.serveWrite
  repeat' first
    | with_reducible assumption
    | simp (disch := decide) only [InSystem, ↓State.answerRequest_only, ↓State.bump_only, ↓State.faultMs_low]
    | with_reducible apply State.localWrite_keepsSystem
    | split

theorem State.serveRead_keepsSystem (s : State) (d : Delivered) (ecc : EccResult) (h : InSystem pr s) :
    InSystem pr (State.serveRead s d ecc) := by
  unfold State.serveRead
  repeat' first
    | with_reducible assumption
    | simp (disch := decide) only [InSystem, ↓State.answerRequest_only]
    | with_reducible apply State.localRead_keepsSystem
    | split

theorem xactPosted_keepsSystem (s : State) (h : InSystem pr s) : InSystem pr (xactPosted s) := by
  unfold xactPosted
  repeat' first
    | with_reducible assumption
    | with_reducible apply State.serveWrite_keepsSystem
    | with_reducible refine InSystem.only (State.takeTurn_some (by assumption)) (by decide) ?_
    | split

theorem xactNonPosted_keepsSystem (s : State) (h : InSystem pr s) : InSystem pr (xactNonPosted s) := by
  unfold xactNonPosted
  repeat' first
    | with_reducible assumption
    | with_reducible apply State.serveWrite_keepsSystem
    | with_reducible refine InSystem.only (State.takeTurn_some (by assumption)) (by decide) ?_
    | split

theorem xactRead_keepsSystem (ecc : EccResult) (s : State) (h : InSystem pr s) : InSystem pr (xactRead ecc s) := by
  unfold xactRead
  repeat' first
    | with_reducible assumption
    | with_reducible apply State.serveRead_keepsSystem
    | with_reducible refine InSystem.only (State.takeTurn_some (by assumption)) (by decide) ?_
    | split

theorem bar0Access_keepsSystem (off : BitVec 24) (write : Bool) (data : List (Option Byte)) (s : State)
    (h : InSystem pr s) : InSystem pr (bar0Access off write data s) := by
  unfold bar0Access
  repeat' first
    | with_reducible assumption
    | simp (disch := decide) only [InSystem, ↓State.emit_only]
    | with_reducible first | apply State.localWrite_keepsSystem | apply State.localRead_keepsSystem
    | split

theorem bar4Access_keepsSystem (off : BitVec 23) (write : Bool) (len : BitVec 13) (data : List (Option Byte))
    (ecc : EccResult) (s : State) (h : InSystem pr s) : InSystem pr (bar4Access off write len data ecc s) := by
  unfold bar4Access
  repeat' first
    | with_reducible assumption
    | simp (disch := decide) only [InSystem, ↓State.emit_only, ↓State.pcieComplete_only]
    | with_reducible first | apply State.localWrite_keepsSystem | apply State.localRead_keepsSystem
    | split

end Sys2Proof.Machine
end

section
/-! SUPPORT. The mode of a pair under the boot ROM, images and the peat store (03). -/

namespace Sys2Proof.Machine

variable {pr : Pair}

theorem State.bootWrite_keepsSystem (s : State) (off : Nat) (v : Word) (h : InSystem pr s) :
    InSystem pr (State.bootWrite s off v) := by
  unfold State.bootWrite
  repeat' first
    | with_reducible assumption
    | simp (disch := decide) only [InSystem, ↓State.ignored_only, ↓State.rwWrite_only, ↓State.rwpWrite_only,
        ↓ldxDataWrite_only, ↓State.bootDomains_only, ↓State.rwkWrite_only, ↓State.put_only, ↓State.setFunc_only]
    | with_reducible apply State.commandWrite_keepsSystem
    | split

theorem State.bootLoad_keepsSystem (s : State) (a : Nat) (d : List Byte) (h : InSystem pr s) :
    InSystem pr (s.bootLoad a d) := by
  unfold State.bootLoad
  refine .ite (h.mono id id) (.ite (h.mono id id) (.ite (h.mono id id) (.ite (h.mono id id) (.ite (h.mono id id)
    (.ite ?_ ?_)))))
  · simpa (disch := decide) only [InSystem, ↓actShadowWrite_only] using h
  · simpa (disch := decide) only [InSystem, ↓brgShadowWrite_only] using h

theorem State.applyRec_keepsSystem (s : State) (a1 : ImgRec) (h : InSystem pr s) :
    InSystem pr (State.applyRec s a1) := by
  unfold State.applyRec
  repeat' first
    | with_reducible assumption
    | simp (disch := decide) only [InSystem, ↓State.bootLdRecord_only]
    | with_reducible first | apply State.bootWrite_keepsSystem | apply State.bootLoad_keepsSystem
    | split

theorem State.applyOverlay_keepsSystem (s : State) (h : InSystem pr s) : InSystem pr (State.applyOverlay s) := by
  unfold State.applyOverlay
  repeat' first
    | with_reducible assumption
    | simp (disch := decide) only [InSystem, ↓Only.with_peat_boot]
    | with_reducible first | apply State.applyRec_keepsSystem | refine InSystem.foldl (fun _ _ h => ?_) ?_
    | split

theorem State.issueStarts_keepsSystem (s : State) (h : InSystem pr s) : InSystem pr (State.issueStarts s) := by
  unfold State.issueStarts
  repeat' first
    | with_reducible assumption
    | simp (disch := decide) only [InSystem, ↓State.dropIdlePort_only, ↓Only.with_boot]
    | with_reducible first | apply State.funcCommand_keepsSystem | refine InSystem.foldl (fun _ _ h => ?_) ?_

theorem State.leaveRom_keepsSystem (start : Bool) (s : State) (h : InSystem pr s) :
    InSystem pr (State.leaveRom start s) := by
  have h0 : InSystem pr { s with ncpB := { s.ncpB with bootrom := false } } := h.mono id id
  unfold State.leaveRom
  exact .ite (State.funcCommand_keepsSystem _ 14 1 h0) h0

theorem State.issueList_keepsSystem (s : State) (h : InSystem pr s) : InSystem pr (State.issueList s) := by
  unfold State.issueList
  repeat' first
    | with_reducible assumption
    | simp (disch := decide) only [InSystem, ↓State.pairBOff_only, ↓Only.with_boot]
    | with_reducible first | apply State.leaveRom_keepsSystem | apply State.issueStarts_keepsSystem

theorem State.listWatch_keepsSystem (s : State) (h : InSystem pr s) : InSystem pr (State.listWatch s) := by
  unfold State.listWatch
  repeat' first
    | with_reducible assumption
    | with_reducible apply State.issueList_keepsSystem
    | split

theorem State.forceStop_keepsSystem (s : State) (id : Nat) (h : InSystem pr s) :
    InSystem pr (State.forceStop s id) := by
  unfold State.forceStop
  repeat' first
    | with_reducible assumption
    | simp (disch := decide) only [InSystem, ↓State.setFunc_only, ↓State.onStopped_only]
    | with_reducible apply State.stopOne_keepsSystem
    | split

theorem State.applyImage_keepsSystem (s : State) (b : List Byte) (slot : Nat) (h : InSystem pr s) :
    InSystem pr (State.applyImage s b slot) := by
  unfold State.applyImage
  repeat' first
    | with_reducible assumption
    | simp (disch := decide) only [InSystem, ↓State.setFunc_only, ↓linkRetrain_only, ↓Only.with_ident_peat_boot]
    | with_reducible first
      | apply State.forceStop_keepsSystem
      | apply State.applyRec_keepsSystem
      | apply State.listWatch_keepsSystem
      | refine InSystem.foldl (fun _ _ h => ?_) ?_
    | split

theorem State.toBare_keepsSystem (s : State) (h : InSystem pr s) : InSystem pr (State.toBare s) := by
  unfold State.toBare
  repeat' first
    | with_reducible assumption
    | simp (disch := decide) only [InSystem, ↓domainRequest_only, ↓Only.with_ident_boot]
    | with_reducible first | apply State.funcCommand_keepsSystem | refine InSystem.foldl (fun _ _ h => ?_) ?_
    | split

theorem State.tryCandidates_keepsSystem (s : State) (l : List Bool) (h : InSystem pr s) :
    InSystem pr (s.tryCandidates l).2 := by
  induction l generalizing s with
  | nil => unfold State.tryCandidates; exact h
  | cons c cs ih =>
    unfold State.tryCandidates
    dsimp only
    split
    all_goals try dsimp only
    · refine State.applyImage_keepsSystem _ _ _ (.ite ?_ ?_) <;>
        simpa (disch := decide) only [InSystem, ↓State.setSlot_only, ↓Only.with_peat] using h
    · refine ih _ ?_
      simpa (disch := decide) only [InSystem, ↓State.setSlot_only, ↓Only.with_peat] using h

theorem State.selectImage_keepsSystem (s : State) (h : InSystem pr s) : InSystem pr (State.selectImage s).2 := by
  unfold State.selectImage
  repeat' first
    | with_reducible assumption
    | simp (disch := decide) only [InSystem, ↓State.setSlot_only, ↓Only.with_boot]
    | with_reducible first | apply State.tryCandidates_keepsSystem | refine InSystem.foldl (fun _ _ h => ?_) ?_
    | split

theorem bootImage_keepsSystem (s : State) (h : InSystem pr s) : InSystem pr (bootImage s) := by
  unfold bootImage
  repeat' first
    | with_reducible assumption
    | simp (disch := decide) only [InSystem, ↓Only.with_boot]
    | with_reducible first
      | apply State.toBare_keepsSystem
      | apply State.applyOverlay_keepsSystem
      | apply State.selectImage_keepsSystem
    | split

theorem State.reloadAll_keepsSystem (s : State) (h : InSystem pr s) : InSystem pr s.reloadAll := by
  unfold State.reloadAll
  refine .ite h ?_
  extract_lets +lift staged s1 s2 ncp boot s3
  have h1 : InSystem pr s1 := .foldl (fun t id ht => t.forceStop_keepsSystem id ht) h
  have h2 : InSystem pr s2 :=
    .foldl (fun t id ht => by simpa (disch := decide) only [InSystem, ↓State.setFunc_only] using ht) h1
  clear_value s2
  have h3 : InSystem pr s3 := State.aliveCheck_keepsSystem _ (h2.mono id id)
  clear_value s3
  have h4 : InSystem pr (if s3.ident.straps.boot = 0 then s3.selectImage else (false, s3)).2 := by
    split
    · exact s3.selectImage_keepsSystem h3
    · exact h3
  split
  rename_i e
  rw [e] at h4
  exact .ite h4 (.ite (State.applyImage_keepsSystem _ _ _ h4) (State.toBare_keepsSystem _ h4))

theorem State.applyStage_keepsSystem (s : State) (h : InSystem pr s) : InSystem pr (State.applyStage s).2 := by
  unfold State.applyStage
  dsimp only
  repeat' first
    | with_reducible assumption
    | with_reducible apply State.applyImage_keepsSystem
    | split

theorem State.reload_keepsSystem (s : State) (c : Bool) (fid : Nat) (h : InSystem pr s) :
    InSystem pr (State.reload s c fid).2 := by
  unfold State.reload
  repeat' first
    | with_reducible assumption
    | simp (disch := decide) only [InSystem, ↓Only.with_peat]
    | with_reducible first | apply State.applyRec_keepsSystem | refine InSystem.foldl (fun _ _ h => ?_) ?_
    | split

theorem State.peatRun_keepsSystem (s : State) (j : PeatJob) (bad : Bool) (h : InSystem pr s) :
    InSystem pr (State.peatRun s j bad).2 := by
  unfold State.peatRun
  repeat' first
    | with_reducible assumption
    | simp (disch := decide) only [InSystem, ↓State.peatErase_only, ↓State.peatProgram_only, ↓State.peatVerify_only,
        ↓State.peatArm_only, ↓State.peatConfirm_only, ↓State.ovlWrite_only, ↓State.ovlErase_only,
        ↓State.nodeAssign_only, ↓State.keyProg_only, ↓State.keyRevoke_only, ↓State.svnAdvance_only,
        ↓State.endSector_only, ↓State.writeMap_only]
    | with_reducible first | apply State.applyStage_keepsSystem | apply State.reload_keepsSystem
    | split

theorem peatDone_keepsSystem (failed : Option (Die × BitVec 5)) (s : State) (h : InSystem pr s) :
    InSystem pr (peatDone failed s) := by
  unfold peatDone
  repeat' first
    | with_reducible assumption
    | simp (disch := decide) only [InSystem, ↓State.markSector_only, ↓State.peatEnd_only]
    | with_reducible apply State.peatRun_keepsSystem
    | split

end Sys2Proof.Machine
end

section
/-! SUPPORT. The mode of a pair under resets (22, 23). -/

namespace Sys2Proof.Machine

variable {pr : Pair}

/-! A reset of the whole hub puts both pairs into system mode. -/

theorem State.modelOf_inSystem (s : State) : InSystem pr s.modelOf := by
  rw [inSystem_iff]
  cases pr <;> rfl

theorem State.freshHub_inSystem (cause : BitVec 5) (s : State) : InSystem pr (State.freshHub cause s) := by
  unfold State.freshHub
  simp (disch := decide) only [InSystem, ↓Only.with_ident_boot]
  exact State.modelOf_inSystem _

theorem State.coldStart_inSystem (cause : BitVec 5) (s : State) : InSystem pr (State.coldStart cause s) := by
  unfold State.coldStart
  simp (disch := decide) only [InSystem, ↓State.lowPins_only]
  exact s.redrive_keepsSystem _ (s.freshHub_inSystem cause)

theorem State.fullReset_inSystem (cause : BitVec 5) (s : State) : InSystem pr (State.fullReset cause s) := by
  unfold State.fullReset
  simp (disch := decide) only [InSystem, ↓State.lowPins_only]
  refine s.redrive_keepsSystem _ ?_
  simp (disch := decide) only [InSystem, ↓State.keepCopy_only, ↓State.keepEpoch_only]
  exact s.freshHub_inSystem cause

theorem powerOn_inSystem (s : State) : InSystem pr (powerOn s) :=
  (s.coldStart_inSystem 1).mono id id

theorem resetPin_inSystem (straps : Straps) (s : State) : InSystem pr (resetPin straps s) :=
  (State.fullReset_inSystem 2 (s.advanceTo (s.now + 10 * ticksPerUs))).mono id id

theorem supplyReset_inSystem (s : State) : InSystem pr (supplyReset s) :=
  (s.coldStart_inSystem 16).mono id id

theorem State.warmLoss_keepsSystem (s : State) (h : InSystem pr s) : InSystem pr (State.warmLoss s) := by
  unfold State.warmLoss
  repeat' first
    | with_reducible assumption
    | simp (disch := decide) only [InSystem, ↓State.loseStatus_only, ↓Only.with_latches_linkW_linkE_linkT_shared_usb]
    | with_reducible first | apply State.loseDomain_keepsSystem | refine InSystem.foldl (fun _ _ h => ?_) ?_
    | split

theorem State.warmReset_keepsSystem (s : State) (h : InSystem pr s) : InSystem pr (State.warmReset s) := by
  unfold State.warmReset
  repeat' first
    | with_reducible assumption
    | simp (disch := decide) only [InSystem, ↓dieLost_only, ↓State.warmCore_only, ↓State.trimFuncs_only,
        ↓State.warmDomains_only, ↓State.lowPins_only, ↓State.keepEpoch_only, ↓State.seqStep_only]
    | with_reducible first
      | apply State.warmLoss_keepsSystem
      | refine State.redrive_keepsSystem _ _ ?_
      | refine InSystem.foldl (fun _ _ h => ?_) ?_
    | split

theorem State.reloadReset_keepsSystem (s : State) (h : InSystem pr s) : InSystem pr (State.reloadReset s) := by
  unfold State.reloadReset
  repeat' first
    | with_reducible assumption
    | simp (disch := decide) only [InSystem, ↓Only.with_fwd]
    | with_reducible apply State.reloadAll_keepsSystem

theorem State.serveReset_keepsSystem (s : State) (h : InSystem pr s) : InSystem pr (State.serveReset s) := by
  unfold State.serveReset
  repeat' first
    | with_reducible assumption
    | simp (disch := decide) only [InSystem, ↓Only.with_boot]
    | with_reducible first
      | apply State.warmReset_keepsSystem
      | apply State.fullReset_inSystem
      | apply State.reloadReset_keepsSystem
    | split

theorem resetRelease_keepsSystem (s : State) (h : InSystem pr s) : InSystem pr (resetRelease s) := by
  unfold resetRelease
  exact .ite h (.ite (h.mono id id) (h.mono id fun _ => rfl))

end Sys2Proof.Machine
end

section
/-! SUPPORT. The mode of a pair under the HRK32 instructions but RETT (16). -/

namespace Sys2Proof.Machine

variable {pr : Pair}

theorem State.pairRead_keepsSystem (s : State) (p : Pair) (w : Word) (k : Nat) (ecc : EccResult) (h : InSystem pr s) :
    InSystem pr (State.pairRead s p w k ecc).2 := by
  unfold State.pairRead
  repeat' first
    | with_reducible assumption
    | simp (disch := decide) only [InSystem, ↓State.memoryRead_only]
    | with_reducible apply State.localRead_keepsSystem
    | split

theorem State.pairWrite_keepsSystem (s : State) (p : Pair) (w : Word) (b : List Byte) (h : InSystem pr s) :
    InSystem pr (s.pairWrite p w b).2 := by
  unfold State.pairWrite
  split
  case h_2 | h_3 => exact s.setNcp_keepsSystem p _ h id
  case h_4 => exact s.localWrite_keepsSystem _ _ _ h
  all_goals exact h

theorem State.guarded_keepsSystem (s : State) (p : Pair) (r : Bool) (n : Nat) (k : AccessKind) (w : Word)
    (f : State → State) (h : InSystem pr s) (hf : InSystem pr (f s)) : InSystem pr (s.guarded p r n k w f) := by
  unfold State.guarded
  exact .ite (s.trapHere_keepsSystem p _ _ _ h) (.ite (s.trapHere_keepsSystem p _ _ _ h)
    (.ite (s.protTrap_keepsSystem p _ h) hf))

theorem ncpLoad_keepsSystem (k : LoadKind) (p : Pair) (d a : BitVec 4) (post : Bool) (i : BitVec 14) (ecc : EccResult)
    (s : State) (h : InSystem pr s) : InSystem pr (ncpLoad k p d a post i ecc s) := by
  refine s.issue_keepsSystem p _ _ h (s.guarded_keepsSystem p _ _ _ _ _ h ?_)
  dsimp only
  split
  · exact State.aperture_keepsSystem _ _ _ _ _ _ _ (s.setNcp_keepsSystem p _ h id)
  · have h1 := s.pairRead_keepsSystem p ((s.ncp p).address a post i).1 k.size ecc h
    exact .ite (State.setNcp_keepsSystem _ p _ h1 (Ncp.loadDone_sys ..).trans)
      (State.trapHere_keepsSystem _ p _ _ _ h1)

theorem ncpStore_keepsSystem (size : Nat) (p : Pair) (d a : BitVec 4) (post : Bool) (i : BitVec 14) (s : State)
    (h : InSystem pr s) : InSystem pr (ncpStore size p d a post i s) := by
  refine s.issue_keepsSystem p _ _ h (s.guarded_keepsSystem p _ _ _ _ _ h ?_)
  dsimp only
  split
  · exact State.aperture_keepsSystem _ _ _ _ _ _ _ (s.setNcp_keepsSystem p _ h id)
  · have h1 := s.pairWrite_keepsSystem p ((s.ncp p).address a post i).1 ((s.ncp p).storeBytes size d) h
    exact .ite (State.setNcp_keepsSystem _ p _ h1 (Ncp.storeDone_sys ..).trans)
      (State.trapHere_keepsSystem _ p _ _ _ h1)

theorem State.atomic_keepsSystem (s : State) (p : Pair) (d a b : BitVec 4) (ecc : EccResult) (cas : Bool)
    (h : InSystem pr s) : InSystem pr (s.atomic p d a b ecc cas) := by
  have h1 := s.pairRead_keepsSystem p ((s.ncp p).reg a) 4 ecc h
  refine s.issue_keepsSystem p _ _ h (s.guarded_keepsSystem p _ _ _ _ _ h (.ite (s.protTrap_keepsSystem p _ h)
    (.ite (s.trapHere_keepsSystem p _ _ _ h) (.ite (State.trapHere_keepsSystem _ p _ _ _ h1) ?_))))
  exact State.setNcp_keepsSystem _ p _ (.ite (State.pairWrite_keepsSystem _ p _ _ h1) h1) (Ncp.setReg_sys ..).trans

theorem ncpCas_keepsSystem (p : Pair) (d a b : BitVec 4) (ecc : EccResult) (s : State) (h : InSystem pr s) :
    InSystem pr (ncpCas p d a b ecc s) :=
  s.atomic_keepsSystem p d a b ecc _ h

theorem ncpSwp_keepsSystem (p : Pair) (d a b : BitVec 4) (ecc : EccResult) (s : State) (h : InSystem pr s) :
    InSystem pr (ncpSwp p d a b ecc s) :=
  s.atomic_keepsSystem p d a b ecc _ h

theorem ncpFire_keepsSystem (p : Pair) (a : BitVec 4) (ecc : EccResult) (s : State) (h : InSystem pr s) :
    InSystem pr (ncpFire p a ecc s) := by
  have h1 := s.pairRead_keepsSystem p ((s.ncp p).reg a) 32 ecc h
  refine s.issue_keepsSystem p _ _ h (s.guarded_keepsSystem p _ _ _ _ _ h (.ite (s.trapHere_keepsSystem p _ _ _ h)
    (.ite (State.trapHere_keepsSystem _ p _ _ _ h1)
      (State.setNcp_keepsSystem _ p _ (.ite (.getD (fun u hu => ?_) h1) h1) id))))
  exact InSystem.only (State.appendWrite_some _ _ hu) (by decide) h1

theorem ncpJal_keepsSystem (p : Pair) (d : BitVec 4) (i : BitVec 22) (s : State) (h : InSystem pr s) :
    InSystem pr (ncpJal p d i s) :=
  s.issue_keepsSystem p _ _ h (s.setNcp_keepsSystem p _ h (Ncp.setReg_sys ..).trans)

theorem ncpJalr_keepsSystem (p : Pair) (d a : BitVec 4) (i : BitVec 14) (s : State) (h : InSystem pr s) :
    InSystem pr (ncpJalr p d a i s) :=
  s.issue_keepsSystem p _ _ h (.ite (s.trapHere_keepsSystem p _ _ _ h)
    (s.setNcp_keepsSystem p _ h (Ncp.setReg_sys ..).trans))

theorem ncpTrap_keepsSystem (p : Pair) (i : BitVec 14) (s : State) (h : InSystem pr s) : InSystem pr (ncpTrap p i s) :=
  s.issue_keepsSystem p _ _ h (s.syncTrap_keepsSystem p _ _ _ _ _ h)

theorem ncpIllegal_keepsSystem (p : Pair) (w : Word) (s : State) (h : InSystem pr s) : InSystem pr (ncpIllegal p w s) :=
  s.issue_keepsSystem p _ _ h (.ite h (s.trapHere_keepsSystem p _ _ _ h))

theorem ncpMfs_keepsSystem (p : Pair) (d : BitVec 4) (n : BitVec 12) (s : State) (h : InSystem pr s) :
    InSystem pr (ncpMfs p d n s) :=
  s.issue_keepsSystem p _ _ h (.ite (s.trapHere_keepsSystem p _ _ _ h) (.ite (s.trapHere_keepsSystem p _ _ _ h)
    (s.setNcp_keepsSystem p _ h ((Ncp.setReg_sys ..).trans (s.sysRead_sys p _)).trans)))

theorem ncpMts_keepsSystem (p : Pair) (a : BitVec 4) (n : BitVec 12) (s : State) (h : InSystem pr s) :
    InSystem pr (ncpMts p a n s) :=
  s.issue_keepsSystem p _ _ h (.ite (s.trapHere_keepsSystem p _ _ _ h) (.ite (s.trapHere_keepsSystem p _ _ _ h)
    (s.setNcp_keepsSystem p _ h (Ncp.sysWrite_sys ..).trans)))

theorem ncpFence_keepsSystem (p : Pair) (s : State) (h : InSystem pr s) : InSystem pr (ncpFence p s) :=
  s.issue_keepsSystem p _ _ h (.ite h (s.setNcp_keepsSystem p _ h id))

theorem ncpWfe_keepsSystem (p : Pair) (d i : BitVec 4) (s : State) (h : InSystem pr s) :
    InSystem pr (ncpWfe p d i s) := by
  refine s.issue_keepsSystem p _ _ h ?_
  dsimp only
  split
  · exact .ite (s.setNcp_keepsSystem p _ h fun hs => (Ncp.setReg_sys ..).trans hs) (s.setNcp_keepsSystem p _ h id)
  · exact s.setNcp_keepsSystem p _ h id

theorem ncpEventTrap_keepsSystem (p : Pair) (s : State) (h : InSystem pr s) : InSystem pr (ncpEventTrap p s) := by
  unfold ncpEventTrap
  split
  · exact s.setNcp_keepsSystem p _ h fun _ => rfl
  · exact h

theorem ncpSpore_keepsSystem (p : Pair) (a b c : BitVec 4) (s : State) (h : InSystem pr s) :
    InSystem pr (ncpSpore p a b c s) := by
  refine s.issue_keepsSystem p _ _ h (.ite (s.trapHere_keepsSystem p _ _ _ h) ?_)
  simp (disch := decide) only [InSystem, ↓State.event_only]
  exact s.setNcp_keepsSystem p _ h id

theorem ncpAxr_keepsSystem (p : Pair) (d a : BitVec 4) (i : BitVec 14) (s : State) (h : InSystem pr s) :
    InSystem pr (ncpAxr p d a i s) :=
  s.issue_keepsSystem p _ _ h (.ite (s.trapHere_keepsSystem p _ _ _ h)
    (s.setNcp_keepsSystem p _ h (Ncp.setPair_sys ..).trans))

theorem State.tim_keepsSystem (s : State) (p : Pair) (d : BitVec 4) (lo hi : Nat) (h : InSystem pr s) :
    InSystem pr (s.tim p d lo hi) :=
  s.issue_keepsSystem p _ _ h (.ite (s.trapHere_keepsSystem p _ _ _ h)
    (s.setNcp_keepsSystem p _ h (Ncp.setPair_sys ..).trans))

theorem ncpTimTime_keepsSystem (p : Pair) (d : BitVec 4) (s : State) (h : InSystem pr s) :
    InSystem pr (ncpTimTime p d s) :=
  s.tim_keepsSystem p d _ _ h

theorem ncpTimTick_keepsSystem (p : Pair) (d : BitVec 4) (s : State) (h : InSystem pr s) :
    InSystem pr (ncpTimTick p d s) :=
  s.tim_keepsSystem p d _ _ h

theorem ncpTimFraction_keepsSystem (p : Pair) (d : BitVec 4) (s : State) (h : InSystem pr s) :
    InSystem pr (ncpTimFraction p d s) :=
  s.tim_keepsSystem p d _ _ h

end Sys2Proof.Machine
end

section
/-! SUPPORT. The mode of a pair under the gateway (14) and the read of xCLAIM (15). -/

namespace Sys2Proof.Machine

variable {pr : Pair}

theorem State.usbLocalAccess_keepsSystem (s : State) (write : Bool) (a len : Nat) (data : List Byte) (ecc : EccResult)
    (h : InSystem pr s) : InSystem pr (State.usbLocalAccess s write a len data ecc).2 := by
  unfold State.usbLocalAccess
  repeat' first
    | with_reducible assumption
    | with_reducible first
      | apply State.localRead_keepsSystem
      | apply State.localWrite_keepsSystem
      | refine InSystem.foldl_snd (fun _ _ h => ?_) ?_
    | split

theorem usbLocalDone_keepsSystem (ecc : EccResult) (s : State) (h : InSystem pr s) :
    InSystem pr (usbLocalDone ecc s) := by
  unfold usbLocalDone
  repeat' first
    | with_reducible assumption
    | simp (disch := decide) only [InSystem, ↓State.usbSet_only, ↓State.usbResultIs_only, ↓State.usbAnswer_only,
        ↓State.usbStall_only]
    | with_reducible apply State.usbLocalAccess_keepsSystem
    | split

theorem usbBlock_keepsSystem (row : Byte) (b : List Byte) (ecc : EccResult) (s : State) (h : InSystem pr s) :
    InSystem pr (usbBlock row b ecc s) := by
  unfold usbBlock
  repeat' first
    | with_reducible assumption
    | simp (disch := decide) only [InSystem, ↓State.usbSet_only, ↓State.bump_only, ↓State.fault_low]
    | with_reducible first
      | apply State.aperture_keepsSystem
      | apply State.usbLocalAccess_keepsSystem
      | apply State.completeTo_keepsSystem
    | split

theorem claimAnswer_keepsSystem (src : Src) (p : Pair) (s : State) (h : InSystem pr s) :
    InSystem pr (claimAnswer src p s) := by
  unfold claimAnswer
  repeat' first
    | with_reducible assumption
    | simp (disch := decide) only [InSystem, ↓State.emit_only]
    | with_reducible apply State.ncpClaim_keepsSystem

end Sys2Proof.Machine
end

section
/-! SUPPORT. Every command but the RETT of a pair keeps that pair in system mode: one arm for each command, which names
what its operation does to the mode. -/

namespace Sys2Proof.Machine

variable {pr : Pair} {s t : State}

theorem act_keepsSystem {f : State → State} (hf : ∀ s, InSystem pr s → InSystem pr (f s)) (h : act f s = .next t)
    (hs : InSystem pr s) : InSystem pr t := by
  rw [act_next] at h
  injection h with h
  subst h
  exact .with_pending _ (settle_keepsSystem _ (hf _ hs.begun))

/-- The same for a command whose operation leaves the pairs alone. -/
theorem act_through {f : State → State} (hf : ∀ u s, Only besidePairs u (f s) ↔ Only besidePairs u s)
    (h : act f s = .next t) (hs : InSystem pr s) : InSystem pr t :=
  act_keepsSystem (fun s => .through fun u => hf u s) h hs

theorem actReset_keepsSystem {f : State → State} (hf : ∀ s, InSystem pr s → InSystem pr (f s))
    (h : actReset f s = .next t) (hs : InSystem pr s) : InSystem pr t := by
  have h1 := settle_keepsSystem _ (hf _ hs.begun)
  have h2 : InSystem pr (if (settle (f s.begun)).boot.request = 0 then settle (f s.begun)
      else settle (settle (f s.begun)).serveReset) := .ite h1 (settle_keepsSystem _ (State.serveReset_keepsSystem _ h1))
  unfold actReset at h
  injection h with h
  subst h
  exact .with_pending _ h2

/-- A command whose operation leaves the pairs alone, and the pair logic looks at what it did. -/
theorem act_watch {f : State → State} (hf : ∀ u s, Only besidePairs u (f s) ↔ Only besidePairs u s)
    (h : act (fun s => pairWatch (f s)) s = .next t) (hs : InSystem pr s) : InSystem pr t :=
  act_keepsSystem (fun s h => pairWatch_keepsSystem _ (.through (fun u => hf u s) h)) h hs

theorem actReset_watch {f : State → State} (hf : ∀ u s, Only besidePairs u (f s) ↔ Only besidePairs u s)
    (h : actReset (fun s => pairWatch (f s)) s = .next t) (hs : InSystem pr s) : InSystem pr t :=
  actReset_keepsSystem (fun s h => pairWatch_keepsSystem _ (.through (fun u => hf u s) h)) h hs

theorem actReset_listWatch {f : State → State} (hf : ∀ s, InSystem pr s → InSystem pr (f s))
    (h : actReset (fun s => (f s).listWatch) s = .next t) (hs : InSystem pr s) : InSystem pr t :=
  actReset_keepsSystem (fun s h => State.listWatch_keepsSystem _ (hf s h)) h hs

/-- The read of a queue's word whose pop leaves the pairs alone. -/
theorem act_popAnswer {src : Src} {pop : State → DWord × State}
    (hf : ∀ u s, Only besidePairs u (pop s).2 ↔ Only besidePairs u s) (h : act (popAnswer src pop) s = .next t)
    (hs : InSystem pr s) : InSystem pr t :=
  act_through (fun u s => (State.emit_only _ _ (by decide)).trans (hf u s)) h hs

/-- RETT of the other pair. -/
theorem ncpRett_keepsSystem {p : Pair} (hp : p ≠ pr) (s : State) (h : InSystem pr s) : InSystem pr (ncpRett p s) := by
  refine s.issue_keepsSystem p _ _ h (.ite ?_ (s.trapHere_keepsSystem p _ _ _ h))
  rw [inSystem_iff] at h ⊢
  rwa [setNcp_ncp_other _ _ hp.symm]

/-- Every command but the RETT of a pair keeps that pair in system mode (R435). -/
theorem exec_keepsSystem {i : Instr} (hi : i ≠ .hkRett pr) (h : exec i s = .next t) (hs : InSystem pr s) :
    InSystem pr t := by
  cases i with
  | registerWrite | sysResetWarm | sysResetFull | sysResetReload | safeExit =>
    exact actReset_keepsSystem (regWrite_keepsSystem _ _ _ _) h hs
  | wideValueWrite => exact actReset_keepsSystem (wideWrite_keepsSystem _ _ _) h hs
  | wideValueRead => exact act_keepsSystem (wideRead_keepsSystem _ _) h hs
  | funcStart | funcStop | funcRestart | funcResume | funcClear =>
    exact act_keepsSystem (fun s => s.funcCommand_keepsSystem _ _) h hs
  | functionRunning => exact act_through (fun _ s => functionRunning_only _ s (by decide)) h hs
  | functionStopped => exact act_keepsSystem (functionStopped_keepsSystem _) h hs
  | updateStrobe => exact act_through (fun _ s => updateStrobe_only _ _ s (by decide)) h hs
  | groupStrobe => exact act_through (fun _ s => groupStrobe_only _ _ s (by decide)) h hs
  | ldxAddrWrite => exact act_through (fun _ s => ldxAddrWrite_only _ _ s (by decide)) h hs
  | ldxFetchDone => exact act_through (fun _ s => ldxFetchDone_only _ s (by decide)) h hs
  | ldxDataWrite => exact act_through (fun _ s => ldxDataWrite_only _ _ s (by decide)) h hs
  | ldxWriteConfirmed => exact act_through (fun _ s => ldxWriteConfirmed_only s (by decide)) h hs
  | ldxDataRead => exact act_through (fun _ s => ldxDataRead_only _ s (by decide)) h hs
  | ldxTimeout => exact act_through (fun _ s => ldxTimeout_only s (by decide)) h hs
  | ldxClaim => exact act_through (fun _ s => ldxClaim_only _ _ s (by decide)) h hs
  | keyUnlock => exact act_through (fun _ s => keyUnlock_only _ _ s (by decide)) h hs
  | keyGuardTimeout => exact act_through (fun _ s => keyTimeout_only s (by decide)) h hs
  | resetPin => exact act_keepsSystem (fun s _ => resetPin_inSystem _ s) h hs
  | powerOn => exact act_keepsSystem (fun s _ => powerOn_inSystem s) h hs
  | vinStop => exact act_through (fun _ s => vinStop_only s (by decide)) h hs
  | supplyReset => exact act_keepsSystem (fun s _ => supplyReset_inSystem s) h hs
  | internalResetRelease => exact act_keepsSystem resetRelease_keepsSystem h hs
  | railOutOfWindow => exact act_through (fun _ s => railOut_only _ s (by decide)) h hs
  | lbSwitchOff => exact act_keepsSystem lbSwitchOff_keepsSystem h hs
  | bist => exact act_keepsSystem (runBist_keepsSystem _) h hs
  | bistDone => exact act_through (fun _ s => bistDone_only s (by decide)) h hs
  | bootImage => exact actReset_keepsSystem bootImage_keepsSystem h hs
  | peatErase | peatProgram | peatVerify | peatArm | peatConfirm | peatApplystage | peatReload | peatOvlwrite |
    peatOvlerase | peatNodeasg | peatKeyprog | peatKeyrevoke | peatSvnadv =>
    exact act_through (fun _ s => peatCommand_only _ _ s (by decide)) h hs
  | peatCommandDone => exact actReset_keepsSystem (peatDone_keepsSystem _) h hs
  | peatLineDieLost => exact act_through (fun _ s => peatLost_only s (by decide)) h hs
  | signalDetected => exact act_through (fun _ s => linkSignal_only _ s (by decide)) h hs
  | clockRecoveryLocked => exact act_through (fun _ s => linkClock_only _ s (by decide)) h hs
  | equaliserAdapted => exact act_through (fun _ s => linkEqualiser_only _ s (by decide)) h hs
  | blockLock => exact act_through (fun _ s => linkBlockLock_only _ s (by decide)) h hs
  | supervisionBlockReceived => exact act_watch (fun _ s => linkSupervision_only _ _ s (by decide)) h hs
  | supervisionBlockSend => exact act_through (fun _ s => linkSupSend_only _ s (by decide)) h hs
  | blockError => exact act_watch (fun _ s => linkBlockError_only _ _ _ s (by decide)) h hs
  | rateCycleExpiry => exact act_through (fun _ s => linkRateCycle_only _ s (by decide)) h hs
  | holdDownExpiry => exact act_through (fun _ s => linkHoldEnd_only _ s (by decide)) h hs
  | moduleLos => exact act_watch (fun _ s => linkModuleLos_only _ s (by decide)) h hs
  | signalLost => exact act_watch (fun _ s => linkSignalLost_only _ s (by decide)) h hs
  | supervisionTimeout => exact act_watch (fun _ s => linkSupTimeout_only _ s (by decide)) h hs
  | moduleAbsent => exact act_watch (fun _ s => linkModuleAbsent_only _ s (by decide)) h hs
  | linkRetrain => exact act_watch (fun _ s => linkRetrain_only _ s (by decide)) h hs
  | linkRateup => exact act_watch (fun _ s => linkRateup_only _ s (by decide)) h hs
  | moduleTransfer => exact act_through (fun _ s => linkMmctl_only _ _ _ s (by decide)) h hs
  | moduleTransferDone => exact act_through (fun _ s => linkMmDone_only _ _ _ _ s (by decide)) h hs
  | moduleTransferTimeout => exact act_through (fun _ s => linkMmTimeout_only _ s (by decide)) h hs
  | sliceShadowRound => exact act_through (fun _ s => linkSliceRound_only _ _ _ s (by decide)) h hs
  | qualityWindowEnd => exact act_through (fun _ s => linkQuality_only _ _ _ s (by decide)) h hs
  | frameReceived => exact act_through (fun _ s => fwdReceive_only _ _ _ s (by decide)) h hs
  | frameDelivered => exact act_through (fun _ s => fwdDeliver_only _ s (by decide)) h hs
  | frameSent => exact act_through (fun _ s => fwdSend_only _ _ _ _ s (by decide)) h hs
  | tokenBucketAdmit => exact act_through (fun _ s => State.tokenAdmit_only s (by decide)) h hs
  | originationAdmitted => exact act_keepsSystem xactAdmit_keepsSystem h hs
  | epochAnnouncementSend => exact act_through (fun _ s => fwdAnnounce_only s (by decide)) h hs
  | orderHoldExpiry => exact act_through (fun _ s => orderHoldExpiry_only _ _ _ _ s (by decide)) h hs
  | apertureAccess => exact actReset_keepsSystem (apertureAccess_keepsSystem _ _ _ _ _ _) h hs
  | outstandingEntryWaitEnd => exact act_keepsSystem xactWaitEnd_keepsSystem h hs
  | postedWriteReceived => exact actReset_keepsSystem xactPosted_keepsSystem h hs
  | nonPostedWriteReceived => exact actReset_keepsSystem xactNonPosted_keepsSystem h hs
  | readRequestReceived => exact act_keepsSystem (xactRead_keepsSystem _) h hs
  | responseReceived => exact act_keepsSystem xactResponse_keepsSystem h hs
  | transactionTimeout => exact act_keepsSystem (xactTimeout_keepsSystem _) h hs
  | postedErrorMessageReceived => exact act_through (fun _ s => xactErrorMessage_only s (by decide)) h hs
  | prefetchLineAged => exact act_through (fun _ s => xactLineAged_only s (by decide)) h hs
  | sefreeWrite => exact act_through (fun _ s => xactSefree_only _ s (by decide)) h hs
  | timeFrameSend => exact act_through (fun _ s => timeFrameSend_only s (by decide)) h hs
  | timeFrameReceived => exact act_through (fun _ s => timeFrameReceived_only s (by decide)) h hs
  | betterSourceTimeout => exact act_through (fun _ s => timeBetterTimeout_only s (by decide)) h hs
  | holdoverEntry => exact act_through (fun _ s => timeHoldover_only s (by decide)) h hs
  | ppsEdge => exact act_through (fun _ s => timePpsEdge_only _ s (by decide)) h hs
  | ppsTimeout => exact act_through (fun _ s => timePpsTimeout_only s (by decide)) h hs
  | timeAcceptstep => exact act_through (fun _ s => timeAcceptStep_only s (by decide)) h hs
  | timeSlew => exact act_through (fun _ s => timeSlew_only s (by decide)) h hs
  | timeLoadnow => exact act_through (fun _ s => timeLoadNow_only _ s (by decide)) h hs
  | timeArmpps => exact act_through (fun _ s => timeArmPps_only _ s (by decide)) h hs
  | probeSend => exact act_through (fun _ s => timeProbeSend_only s (by decide)) h hs
  | probeReceived => exact act_through (fun _ s => timeProbeReceived_only s (by decide)) h hs
  | probeAnswerReceived => exact act_through (fun _ s => timeProbeAnswer_only s (by decide)) h hs
  | probeFollowUpReceived => exact act_through (fun _ s => timeProbeFollowUp_only s (by decide)) h hs
  | probeExchangeTimeout => exact act_through (fun _ s => timeProbeTimeout_only _ s (by decide)) h hs
  | ppsOutRise => exact act_through (fun _ s => timePpsOutRise_only s (by decide)) h hs
  | ppsOutFall => exact act_through (fun _ s => timePpsOutFall_only s (by decide)) h hs
  | axisSampleLatch => exact act_through (fun _ s => actAxisLatch_only _ _ s (by decide)) h hs
  | axisSampleReceived => exact act_through (fun _ s => actAxisSample_only s (by decide)) h hs
  | axisCoasting => exact act_through (fun _ s => axisCoast_only _ s (by decide)) h hs
  | axisStale => exact act_through (fun _ s => actAxisStale_only _ s (by decide)) h hs
  | appendWrite => exact act_through (fun _ s => appendPage_only _ _ _ s (by decide)) h hs
  | appendMerge => exact act_keepsSystem actMerge_keepsSystem h hs
  | actionCommit => exact act_keepsSystem (actCommit_keepsSystem _) h hs
  | lineCommandPlacement => exact act_through (fun _ s => actPlacement_only _ s (by decide)) h hs
  | pulseOffEdgeCommit => exact act_through (fun _ s => actOffCommit_only _ s (by decide)) h hs
  | shadowBankWrite => exact act_through (fun _ s => actShadowWrite_only _ _ s (by decide)) h hs
  | actSeal => exact act_through (fun _ s => actSeal_only s (by decide)) h hs
  | actClearsh => exact act_through (fun _ s => actClearsh_only s (by decide)) h hs
  | actSwap => exact act_through (fun _ s => actSwap_only s (by decide)) h hs
  | actArmswap => exact act_through (fun _ s => actArmswap_only s (by decide)) h hs
  | actDisarm => exact act_through (fun _ s => actDisarm_only s (by decide)) h hs
  | actSortDone => exact act_through (fun _ s => actSortDone_only s (by decide)) h hs
  | actClearDone => exact act_through (fun _ s => actClearDone_only s (by decide)) h hs
  | actSwapBoundary => exact act_keepsSystem actBoundary_keepsSystem h hs
  | captureQueuePop => exact act_popAnswer (fun _ s => State.capturePop_only s _ _ (by decide)) h hs
  | actAidxWrite => exact act_through (fun _ s => actAidx_only _ s (by decide)) h hs
  | loutWrite => exact act_through (fun _ s => loutWrite_only _ _ s (by decide)) h hs
  | filteredEdge => exact act_through (fun _ s => lineEdge_only _ _ s (by decide)) h hs
  | lineDiagnosticEntry => exact act_through (fun _ s => lineCondEntry_only _ _ _ s (by decide)) h hs
  | lineDiagnosticExit => exact act_through (fun _ s => lineCondExit_only _ _ _ s (by decide)) h hs
  | lcmdUnlatch => exact act_through (fun _ s => lcmdUnlatch_only _ _ s (by decide)) h hs
  | frondBudgetOver => exact act_through (fun _ s => frondOver_only _ _ s (by decide)) h hs
  | frondBudgetCut => exact act_through (fun _ s => frondCut_only _ _ s (by decide)) h hs
  | rs485DriverOff => exact act_through (fun _ s => rs485Off_only _ _ s (by decide)) h hs
  | uartCharacterReceived => exact act_through (fun _ s => brgCharacter_only _ _ _ _ _ _ s (by decide)) h hs
  | uartIdleGap => exact act_through (fun _ s => brgIdleGap_only _ s (by decide)) h hs
  | utxWrite => exact act_through (fun _ s => utxWrite_only _ _ s (by decide)) h hs
  | uartTransmitStart => exact act_through (fun _ s => uartTransmitStart_only _ s (by decide)) h hs
  | uartWordSent => exact act_through (fun _ s => uartWordSent_only _ s (by decide)) h hs
  | uartRxPop => exact act_popAnswer (fun _ s => State.uartPop_only s _ _ (by decide)) h hs
  | encoderEdge => exact act_through (fun _ s => encoderEdge_only _ _ _ _ s (by decide)) h hs
  | encoderZEdge => exact act_through (fun _ s => encoderZ_only _ _ s (by decide)) h hs
  | encoderLoad => exact act_through (fun _ s => encoderLoad_only _ s (by decide)) h hs
  | encoderArmz => exact act_through (fun _ s => encoderArm_only _ s (by decide)) h hs
  | encoderSignalLoss => exact act_through (fun _ s => encoderLoss_only _ s (by decide)) h hs
  | engWait => exact act_through (fun _ s => engWait_only _ _ s (by decide)) h hs
  | engWaitFlag => exact act_through (fun _ s => engWaitFlag_only _ _ s (by decide)) h hs
  | engAt => exact act_through (fun _ s => engAt_only _ _ s (by decide)) h hs
  | engShiftOut => exact act_through (fun _ s => engShiftOut_only _ _ s (by decide)) h hs
  | engShiftIn => exact act_through (fun _ s => engShiftIn_only _ _ s (by decide)) h hs
  | engTake => exact act_through (fun _ s => engTake_only _ _ _ s (by decide)) h hs
  | engEmit => exact act_through (fun _ s => engEmit_only _ _ s (by decide)) h hs
  | engDriveOff => exact act_through (fun _ _ => engDriveOff_only _ _ _ (by decide)) h hs
  | engDriveOn => exact act_through (fun _ _ => engDriveOn_only _ _ _ (by decide)) h hs
  | engDriveToggle => exact act_through (fun _ _ => engDriveToggle_only _ _ _ (by decide)) h hs
  | engDriveFromX => exact act_through (fun _ _ => engDriveFromX_only _ _ _ (by decide)) h hs
  | engCountLoad => exact act_through (fun _ s => engCountLoad_only _ _ s (by decide)) h hs
  | engCountDecrement => exact act_through (fun _ s => engCountDecrement_only _ _ s (by decide)) h hs
  | engBranch => exact act_through (fun _ s => engBranch_only _ _ s (by decide)) h hs
  | engMark => exact act_through (fun _ s => engMark_only _ _ s (by decide)) h hs
  | engHalt => exact act_through (fun _ s => engHalt_only _ _ s (by decide)) h hs
  | engineStallComplete => exact act_through (fun _ s => engStallComplete_only _ _ _ s (by decide)) h hs
  | engineDelayEnd => exact act_through (fun _ s => engDelayEnd_only _ _ s (by decide)) h hs
  | pinCommandDeferred => exact act_through (fun _ s => enginePinDeferred_only _ s (by decide)) h hs
  | engineTxStage => exact act_through (fun _ s => engTxStage_only _ _ _ _ s (by decide)) h hs
  | engineTxAppend => exact act_through (fun _ s => engTxAppend_only _ _ _ _ s (by decide)) h hs
  | engineRxPop => exact act_popAnswer (fun _ s => State.engRxPop_only s _ _ (by decide)) h hs
  | emptyTx => exact act_through (fun _ _ => engEmptyTx_only _ _ _ _ (by decide)) h hs
  | emptyRx => exact act_through (fun _ _ => engEmptyRx_only _ _ _ _ (by decide)) h hs
  | emptyBoth => exact act_through (fun _ _ => engEmptyBoth_only _ _ _ _ (by decide)) h hs
  | programStoreStage => exact act_through (fun _ s => progStage_only _ _ _ _ s (by decide)) h hs
  | programStoreWrite => exact act_through (fun _ s => progWrite_only _ _ _ _ s (by decide)) h hs
  | pflagset => exact act_through (fun _ s => engPflagSet_only _ _ s (by decide)) h hs
  | engineSubstitution => exact act_through (fun _ s => engSubstitute_only _ s (by decide)) h hs
  | canLoad => exact act_through (fun _ _ => canLoad_only _ _ _ _ (by decide)) h hs
  | canReq => exact act_through (fun _ _ => canReq_only _ _ _ _ (by decide)) h hs
  | canLoadreq => exact act_through (fun _ _ => canLoadreq_only _ _ _ _ (by decide)) h hs
  | canAbort => exact act_through (fun _ _ => canAbort_only _ _ _ _ (by decide)) h hs
  | canRecover => exact act_through (fun _ s => canRecover_only _ s (by decide)) h hs
  | canArbitration => exact act_through (fun _ s => canArbitration_only _ s (by decide)) h hs
  | canTransmitDone => exact act_through (fun _ s => canTransmitDone_only _ s (by decide)) h hs
  | canTransmitFailed => exact act_through (fun _ s => canTransmitFailed_only _ _ s (by decide)) h hs
  | canFrameReceived => exact act_through (fun _ s => canFrameReceived_only _ _ _ s (by decide)) h hs
  | canErrorDetected => exact act_through (fun _ s => canErrorDetected_only _ _ _ _ _ s (by decide)) h hs
  | canRecoveryDone => exact act_through (fun _ s => canRecoveryDone_only _ s (by decide)) h hs
  | rateCandidateTimeout => exact act_through (fun _ s => canRateTimeout_only _ _ s (by decide)) h hs
  | canWakeUp => exact act_through (fun _ s => canWake_only _ s (by decide)) h hs
  | txdDominantTimeout => exact act_through (fun _ s => canDominant_only _ s (by decide)) h hs
  | canPllLocked => exact act_through (fun _ s => canPllLocked_only s (by decide)) h hs
  | canRxPop => exact act_popAnswer (fun _ s => State.canPop_only s _ _ _ (by decide)) h hs
  | bridgeLookup => exact act_through (fun _ s => brgLookup_only s (by decide)) h hs
  | bridgedFrameReceived => exact act_through (fun _ s => brgFrameReceived_only s (by decide)) h hs
  | bridgeEgressCan => exact act_through (fun _ s => brgEgressCan_only _ s (by decide)) h hs
  | bridgeEgressUart => exact act_through (fun _ s => brgEgressUart_only _ s (by decide)) h hs
  | errorReturnReceived => exact act_through (fun _ s => brgErrorReturn_only s (by decide)) h hs
  | applicationMessageReceived => exact act_through (fun _ s => brgMessage_only s (by decide)) h hs
  | messageQueuePop => exact act_popAnswer (fun _ s => State.msgPop_only s _ (by decide)) h hs
  | brgSeal => exact act_through (fun _ s => brgSeal_only s (by decide)) h hs
  | brgSwap => exact act_through (fun _ s => brgSwap_only s (by decide)) h hs
  | brgDisarm => exact act_through (fun _ s => brgDisarm_only s (by decide)) h hs
  | brgClearsh => exact act_through (fun _ s => brgClearsh_only s (by decide)) h hs
  | brgSortDone => exact act_through (fun _ s => brgSortDone_only s (by decide)) h hs
  | brgSwapTakesEffect => exact act_through (fun _ s => brgSwapTakes_only s (by decide)) h hs
  | brgShadowWrite => exact act_through (fun _ s => brgShadowWrite_only _ _ s (by decide)) h hs
  | brgAidxWrite => exact act_through (fun _ s => brgAidx_only _ s (by decide)) h hs
  | vbusChange => exact act_through (fun _ s => usbVbus_only _ s (by decide)) h hs
  | pullupAttach => exact act_through (fun _ s => usbAttach_only s (by decide)) h hs
  | downstreamOvercurrent => exact act_through (fun _ s => usbOvercurrent_only _ s (by decide)) h hs
  | hubClassRequest => exact act_through (fun _ s => usbHubRequest_only _ _ s (by decide)) h hs
  | portConnectReport => exact act_through (fun _ s => usbConnectReport_only _ s (by decide)) h hs
  | usbLread | usbLwrite => exact act_through (fun _ s => usbLocal_only _ _ _ _ s (by decide)) h hs
  | usbResult => exact act_through (fun _ s => usbResult_only s (by decide)) h hs
  | usbInfo => exact act_through (fun _ s => usbInfo_only s (by decide)) h hs
  | usbLocalAccessDone => exact actReset_keepsSystem (usbLocalDone_keepsSystem _) h hs
  | blockAread | blockAwrite | blockLread | blockLwrite => exact actReset_keepsSystem (usbBlock_keepsSystem _ _ _) h hs
  | commandBlockResponse => exact act_through (fun _ s => usbBlockResponse_only s (by decide)) h hs
  | eventEndpointIn => exact act_through (fun _ s => usbEventIn_only s (by decide)) h hs
  | endpointHalt => exact act_through (fun _ s => usbHalt_only _ s (by decide)) h hs
  | endpointHaltClear => exact act_through (fun _ s => usbHaltClear_only _ s (by decide)) h hs
  | standardRequest => exact act_through (fun _ s => usbStandard_only _ _ _ _ s (by decide)) h hs
  | outDataPacket => exact act_through (fun _ s => usbOutData_only _ _ s (by decide)) h hs
  | usbPing => exact act_through (fun _ s => usbPing_only _ s (by decide)) h hs
  | startSplit => exact act_through (fun _ s => usbStartSplit_only _ _ _ _ s (by decide)) h hs
  | completeSplit => exact act_through (fun _ s => usbCompleteSplit_only _ _ _ s (by decide)) h hs
  | usbSuspend => exact act_through (fun _ s => usbSuspend_only s (by decide)) h hs
  | usbResume => exact act_through (fun _ s => usbResume_only s (by decide)) h hs
  | usbWake => exact act_through (fun _ s => usbWake_only s (by decide)) h hs
  | wakeSenseStart => exact act_through (fun _ s => usbSense_only s (by decide)) h hs
  | wakeDriveStart => exact act_through (fun _ s => usbDrive_only s (by decide)) h hs
  | wakeDriveEnd => exact act_through (fun _ s => usbDriveEnd_only s (by decide)) h hs
  | hostKDuringWake => exact act_through (fun _ s => usbHostK_only s (by decide)) h hs
  | downstreamRemoteWake => exact act_through (fun _ s => usbDeviceWake_only _ s (by decide)) h hs
  | usbBusReset => exact act_through (fun _ s => usbBusReset_only _ s (by decide)) h hs
  | eventTrap => exact act_keepsSystem (ncpEventTrap_keepsSystem _) h hs
  | ncpClaim => exact act_keepsSystem (claimAnswer_keepsSystem _ _) h hs
  | ncpEoi => exact act_keepsSystem (ncpEoi_keepsSystem _) h hs
  | lockstepMismatch => exact act_keepsSystem (ncpMismatch_keepsSystem _ _ _) h hs
  | watchdogKick => exact act_keepsSystem (ncpKick_keepsSystem _ _) h hs
  | watchdogExpiry => exact act_keepsSystem (ncpWatchdog_keepsSystem _) h hs
  | lockstepSelfTestDone => exact act_keepsSystem (ncpSelfTest_keepsSystem _ _) h hs
  | hkLui => exact act_keepsSystem (fun s h => s.compute_keepsSystem _ _ h fun x => x.setReg_sys _ _) h hs
  | hkAdd | hkAddi | hkSub | hkAnd | hkAndi | hkOr | hkOri | hkXor | hkXori | hkShl | hkShli | hkShr | hkShri |
    hkSra | hkSrai | hkMul | hkMulh | hkDiv | hkDivu | hkRem | hkRemu | hkMin | hkMax | hkClz =>
    exact act_keepsSystem (fun s => s.alu_keepsSystem _ _ _) h hs
  | hkLb | hkLbu | hkLh | hkLhu | hkLw | hkLd => exact act_keepsSystem (ncpLoad_keepsSystem _ _ _ _ _ _ _) h hs
  | hkSb | hkSh | hkSw | hkSd => exact actReset_keepsSystem (ncpStore_keepsSystem _ _ _ _ _ _) h hs
  | hkBeq | hkBne | hkBlt | hkBge | hkBltu | hkBgeu | hkBfs | hkBfc =>
    exact act_keepsSystem (fun s => s.branchIf_keepsSystem _ _ _) h hs
  | hkJal => exact act_keepsSystem (ncpJal_keepsSystem _ _ _) h hs
  | hkJalr => exact act_keepsSystem (ncpJalr_keepsSystem _ _ _ _) h hs
  | hkCas => exact act_keepsSystem (ncpCas_keepsSystem _ _ _ _ _) h hs
  | hkSwp => exact act_keepsSystem (ncpSwp_keepsSystem _ _ _ _ _) h hs
  | hkMfs => exact act_keepsSystem (ncpMfs_keepsSystem _ _ _) h hs
  | hkMts => exact act_keepsSystem (ncpMts_keepsSystem _ _ _) h hs
  | hkFence => exact act_keepsSystem (ncpFence_keepsSystem _) h hs
  | hkTrap => exact act_keepsSystem (ncpTrap_keepsSystem _ _) h hs
  | hkRett => exact act_keepsSystem (ncpRett_keepsSystem fun hp => hi (congrArg _ hp)) h hs
  | hkWfe => exact act_keepsSystem (ncpWfe_keepsSystem _ _ _) h hs
  | hkSpore => exact act_keepsSystem (ncpSpore_keepsSystem _ _ _ _) h hs
  | hkAxr => exact act_keepsSystem (ncpAxr_keepsSystem _ _ _ _) h hs
  | hkTimTime => exact act_keepsSystem (ncpTimTime_keepsSystem _ _) h hs
  | hkTimTick => exact act_keepsSystem (ncpTimTick_keepsSystem _ _) h hs
  | hkTimFraction => exact act_keepsSystem (ncpTimFraction_keepsSystem _ _) h hs
  | hkFire => exact act_keepsSystem (ncpFire_keepsSystem _ _ _) h hs
  | localGapRecord => exact act_through (fun _ s => localGap_only _ s (by decide)) h hs
  | sporeFrameSend => exact act_through (fun _ s => sporeSend_only _ s (by decide)) h hs
  | sporeFrameReceived => exact act_through (fun _ s => sporeReceived_only s (by decide)) h hs
  | hqconsWrite => exact act_through (fun _ s => hqconsWrite_only _ _ _ s (by decide)) h hs
  | hostQueueEnable => exact act_through (fun _ s => hqctlWrite_only _ _ _ s (by decide)) h hs
  | msixModerationTimeout => exact act_through (fun _ s => msixTimeout_only _ s (by decide)) h hs
  | pcieLinkDown => exact act_through (fun _ s => pcieLinkDown_only s (by decide)) h hs
  | functionLevelReset => exact act_through (fun _ s => pcieFlr_only s (by decide)) h hs
  | bar0Access => exact actReset_keepsSystem (bar0Access_keepsSystem _ _ _) h hs
  | bar4Access => exact actReset_keepsSystem (bar4Access_keepsSystem _ _ _ _ _) h hs
  | dmaEnable | dmaDisable => exact act_through (fun _ s => dctlWrite_only _ _ _ s (by decide)) h hs
  | dmaTailWrite => exact act_through (fun _ s => dtailWrite_only _ _ s (by decide)) h hs
  | dmaDescriptorComplete => exact act_through (fun _ s => dmaComplete_only _ _ s (by decide)) h hs
  | dmaHostReadTimeout => exact act_through (fun _ s => dmaTimeout_only _ s (by decide)) h hs
  | faultMessageProcess =>
    exact act_keepsSystem (fun s h => pairWatch_keepsSystem _ (faultProcess_keepsSystem _ h)) h hs
  | lineDieLinkLost => exact act_watch (fun _ s => dieLost_only _ s (by decide)) h hs
  | aliveToggle => exact act_keepsSystem aliveToggle_keepsSystem h hs
  | peerAliveLost => exact act_keepsSystem peerLost_keepsSystem h hs
  | peerAlivePresent => exact act_keepsSystem peerPresent_keepsSystem h hs
  | fltAck => exact act_through (fun _ s => fltAck_only _ s (by decide)) h hs
  | fltAckAll => exact act_through (fun _ s => fltAckAll_only s (by decide)) h hs
  | pairLogicEntry => exact act_keepsSystem pairEntry_keepsSystem h hs
  | twinWaitTimeout => exact act_keepsSystem pairTwinTimeout_keepsSystem h hs
  | probeResultTimeout => exact act_keepsSystem pairProbeResult_keepsSystem h hs
  | probeRepeat => exact act_keepsSystem pairProbeAgain_keepsSystem h hs
  | bootwaitExpiry => exact act_keepsSystem pairBootwait_keepsSystem h hs
  | fallenSafeEnd => exact act_through (fun _ s => pairFallenEnd_only s (by decide)) h hs
  | checkpointIncrementSend => exact act_through (fun _ s => ckptSend_only s (by decide)) h hs
  | checkpointPartReceived => exact act_through (fun _ s => ckptPart_only _ _ _ _ _ s (by decide)) h hs
  | checkpointSilence => exact act_through (fun _ s => ckptSilence_only s (by decide)) h hs
  | healthReportSend => exact act_through (fun _ s => healthSend_only s (by decide)) h hs
  | healthReportReceived => exact act_keepsSystem healthReceived_keepsSystem h hs
  | handoverMessageReceived => exact act_keepsSystem (handMessage_keepsSystem _) h hs
  | handbackHoldoffExpiry => exact act_through (fun _ s => pairHoldoff_only s (by decide)) h hs
  | pairHandback => exact act_through (fun _ s => pairHandback_only s (by decide)) h hs
  | pairYield => exact act_through (fun _ s => pairYield_only s (by decide)) h hs
  | pairResync => exact act_through (fun _ s => pairResync_only s (by decide)) h hs
  | pairHold => exact act_through (fun _ s => pairHold_only s (by decide)) h hs
  | pairRelease => exact act_keepsSystem pairRelease_keepsSystem h hs
  | handoverFreeze => exact act_keepsSystem handFreeze_keepsSystem h hs
  | handoverSwitch => exact act_keepsSystem handSwitch_keepsSystem h hs
  | handoverDone => exact act_keepsSystem handDone_keepsSystem h hs
  | domainRequest => exact actReset_listWatch (regWrite_keepsSystem _ _ _ _) h hs
  | domainOn => exact actReset_listWatch (fun s => .through fun _ => domainOn_only _ s (by decide)) h hs
  | domainTestDone => exact act_keepsSystem (domainTested_keepsSystem _ _) h hs
  | domainSwitchOnFailed => exact actReset_listWatch (fun s => .through fun _ => domainFailed_only _ s (by decide)) h hs
  | domainOff => exact actReset_listWatch (domainOff_keepsSystem _) h hs
  | buckHiccup => exact act_through (fun _ s => buckHiccup_only _ s (by decide)) h hs
  | buckRestart => exact act_through (fun _ s => buckRestart_only _ s (by decide)) h hs
  | temperatureMeasurement => exact act_through (fun _ s => temperature_only _ _ s (by decide)) h hs
  | channelTinsExpiry => exact act_through (fun _ s => chanTins_only _ _ s (by decide)) h hs
  | prechargeDone => exact act_through (fun _ s => chanPrecharged_only _ s (by decide)) h hs
  | gateEnhanced => exact act_through (fun _ s => chanEnhanced_only _ s (by decide)) h hs
  | channelUndervoltage => exact act_through (fun _ s => chanUnder_only _ s (by decide)) h hs
  | channelOvervoltage => exact act_through (fun _ s => chanOver_only _ s (by decide)) h hs
  | pretmoExpiry => exact act_through (fun _ s => chanPretmo_only _ s (by decide)) h hs
  | faultTimerExpiry => exact act_through (fun _ s => chanFaultTimer_only _ s (by decide)) h hs
  | gtmoExpiry => exact act_through (fun _ s => chanGtmo_only _ s (by decide)) h hs
  | fastTrip => exact act_through (fun _ s => chanFastTrip_only _ s (by decide)) h hs
  | reverseCurrent => exact act_through (fun _ s => chanReverseCurrent_only _ s (by decide)) h hs
  | reversedSupply => exact act_through (fun _ s => chanReversed_only _ s (by decide)) h hs
  | reversedSupplyCleared => exact act_through (fun _ s => chanUnreversed_only _ s (by decide)) h hs
  | powerGoodAsserted => exact act_through (fun _ s => chanPg_only _ s (by decide)) h hs
  | powerGoodRemoved => exact act_through (fun _ s => chanPgGone_only _ s (by decide)) h hs
  | channelRetry => exact act_through (fun _ s => chanRetry_only _ s (by decide)) h hs
  | retryCountReset => exact act_through (fun _ s => chanRetryReset_only _ s (by decide)) h hs
  | powerRetry => exact act_through (fun _ s => chanRetryCmd_only _ s (by decide)) h hs
  | gateRelease => exact act_through (fun _ s => gateRelease_only _ s (by decide)) h hs
  | scrubRead => exact act_through (fun _ s => scrubRead_only _ _ _ _ s (by decide)) h hs
  | rowRetirement => exact act_through (fun _ s => rowRetire_only _ _ s (by decide)) h hs
  | rprRetire => exact act_through (fun _ s => rprRetire_only s (by decide)) h hs
  | rprMapwrite => exact act_through (fun _ s => State.startMapWrite_only s (by decide)) h hs
  | rprScrubnow => exact act_through (fun _ s => rprScrubNow_only s (by decide)) h hs
  | inServiceMapWrite => exact act_through (fun _ s => mapWriteStart_only s (by decide)) h hs
  | sectorRetirement => exact act_through (fun _ s => sectorRetire_only _ _ s (by decide)) h hs
  | servoIntervalEnd => exact act_through (fun _ s => timeServoEnd_only s (by decide)) h hs
  | encoderSignalRestored => exact act_through (fun _ s => encoderRestored_only _ s (by decide)) h hs
  | spareEngineTestFailed => exact act_through (fun _ s => engSpareFailed_only _ s (by decide)) h hs
  | busIntegrationDone => exact act_through (fun _ s => canIntegrated_only _ s (by decide)) h hs
  | protocolException => exact act_through (fun _ s => canProtocolException_only _ s (by decide)) h hs
  | downstreamConnectChange => exact act_through (fun _ s => usbConnectChange_only _ _ _ s (by decide)) h hs
  | downstreamResumeEnd => exact act_through (fun _ s => usbResumeEnd_only _ s (by decide)) h hs
  | illegalInstruction => exact act_keepsSystem (ncpIllegal_keepsSystem _ _) h hs
  | pcieLinkUp => exact act_through (fun _ s => pcieLinkUp_only _ _ s (by decide)) h hs
  | pcieConfigurationWrite => exact act_through (fun _ s => pcieConfig_only _ _ _ _ s (by decide)) h hs
  | lineDieLinkUp => exact actReset_watch (fun _ s => dieLinkUp_only _ s (by decide)) h hs
  | restingHubSelfTest => exact act_keepsSystem (pairSelfTest_keepsSystem _ _) h hs
  | tmrCorrection => exact act_through (fun _ s => tmrFix_only s (by decide)) h hs

/-- Settles O43: RETT that issues has the effect that R435 gives it, or takes trap 0x2; and since every other command
keeps a pair in system mode, RETT alone takes it into task mode. -/
theorem hrkReturns : Obligations.HrkReturns := by
  unfold Obligations.HrkReturns
  refine fun p => ⟨?_, ?_⟩
  · rintro s x rfl hi
    refine ⟨fun h => act_setNcp ?_, fun h ht => act_setNcp ?_⟩
    · rw [ncpRett_of_sys hi.begun (by rwa [begun_ncp]), begun_ncp]
      rfl
    · rw [ncpRett_of_task hi.begun (by rwa [begun_ncp]), State.trapHere, syncTrap_of_not_intrap (by rwa [begun_ncp]),
        begun_ncp]
  · intro i s t h hs ht
    by_contra hi
    have := inSystem_iff.1 (exec_keepsSystem hi h (inSystem_iff.2 hs))
    rw [ht] at this
    cases this

end Sys2Proof.Machine
end

section
/-! SUPPORT. The entry that classifies a fault message (R471): what a match of one entry says in terms of its registers,
the entry that the collector uses, and the VALID bit of entry 255. -/

namespace Sys2Proof.Machine

/-- Entry e matches a message: VALID, the source within SRCLO and SRCHI, and the kind equal to KIND under KMASK (R471). -/
theorem clsMatch_iff (s : State) (m : DWord) (e : Nat) :
    s.clsMatch m e = true ↔ nbit (s.rv (0x212000 + 0x20 * e)) 15 = true ∧
      nbits (s.rv (0x212000 + 0x20 * e)) 9 0 ≤ nbits m.toNat 63 54 ∧
      nbits m.toNat 63 54 ≤ nbits (s.rv (0x212004 + 0x20 * e)) 9 0 ∧
      (nbits m.toNat 53 46 ^^^ nbits (s.rv (0x212008 + 0x20 * e)) 7 0) &&& nbits (s.rv (0x212008 + 0x20 * e)) 15 8 = 0 := by
  have ha : clsBase e = 0x212000 + 0x20 * e := rfl
  have hb : clsBase e + 4 = 0x212004 + 0x20 * e := by unfold clsBase; omega
  have hc : clsBase e + 8 = 0x212008 + 0x20 * e := by unfold clsBase; omega
  unfold State.clsMatch State.rf msgSource msgKind
  rw [hb, hc, ha]
  simp only [Bool.and_eq_true, decide_eq_true_eq, beq_iff_eq, and_assoc]

/-- There is an entry for every message: one below 255, or 255. -/
theorem classify_le (s : State) (m : DWord) : s.classify m ≤ 255 := by
  unfold State.classify
  cases hf : (List.range 255).find? (s.clsMatch m) with
  | none => exact le_rfl
  | some k => exact (List.mem_range.1 (List.mem_of_find?_eq_some hf)).le

/-- Entry 255 alone is used without a match of its own. -/
theorem clsMatch_classify {s : State} {m : DWord} (h : s.classify m < 255) : s.clsMatch m (s.classify m) = true := by
  unfold State.classify at h ⊢
  cases hf : (List.range 255).find? (s.clsMatch m) with
  | none => simp [hf] at h
  | some k => exact List.find?_some hf

/-- No entry below the one used matches. -/
theorem not_clsMatch_of_lt_classify {s : State} {m : DWord} {k : Nat} (h : k < s.classify m) :
    ¬ s.clsMatch m k = true := by
  have hk : k < 255 := h.trans_le (classify_le s m)
  unfold State.classify at h
  cases hf : (List.range 255).find? (s.clsMatch m) with
  | none => exact List.find?_eq_none.1 hf k (List.mem_range.2 hk)
  | some e =>
    rw [hf] at h
    simpa using (List.find?_range_eq_some.1 hf).2.2 k h

/-- The entry used is the lowest that matches, where 255 matches what no other does (R471). -/
theorem classify_eq_iff (s : State) (m : DWord) (e : Nat) :
    s.classify m = e ↔
      e ≤ 255 ∧ (∀ k < e, ¬ s.clsMatch m k = true) ∧ (e < 255 → s.clsMatch m e = true) := by
  constructor
  · rintro rfl
    exact ⟨classify_le s m, fun _ => not_clsMatch_of_lt_classify, clsMatch_classify⟩
  · rintro ⟨hle, hlow, hmatch⟩
    rcases lt_trichotomy (s.classify m) e with hlt | heq | hgt
    · exact absurd (clsMatch_classify (hlt.trans_le hle)) (hlow _ hlt)
    · exact heq
    · exact absurd (hmatch (hgt.trans_le (classify_le s m))) (not_clsMatch_of_lt_classify hgt)

/-- A register written directly shows its live value, or else what it holds. -/
theorem regValue_of_rwx {o : Nat} (s : State) (h : (regHit o).map (·.row.acc) = some .rwx) :
    s.regValue o = ((s.view o).map (BitVec.ofNat 32)).getD (s.rg o) := by
  obtain ⟨r, hr, ha⟩ := Option.map_eq_some_iff.1 h
  unfold State.regValue
  rw [hr]
  simp only [ha]

/-- FLT.CLSA255 shows what it holds with VALID set. -/
theorem regValue_clsA255 (s : State) : s.regValue 0x213FE0 = BitVec.ofNat 32 (s.rv 0x213FE0 ||| 0x8000) := by
  have hv : s.view 0x213FE0 = some (s.rv 0x213FE0 ||| 0x8000) := rfl
  rw [regValue_of_rwx s (by decide), hv]
  rfl

/-- A bit of a number, as the library speaks of it. -/
theorem nbit_eq_testBit (v n : Nat) : nbit v n = v.testBit n := by
  rw [Nat.testBit_eq_decide_div_mod_eq]
  rfl

/-- Settles O48: classification takes the lowest entry that matches, a match is what R471 says of the entry's registers,
and entry 255 shows VALID set whatever its register holds. -/
theorem lowestEntryClassifies : Obligations.LowestEntryClassifies := by
  unfold Obligations.LowestEntryClassifies
  intro s m
  refine ⟨⟨_, rfl⟩, fun e => ?_, ?_⟩
  · simp only [← clsMatch_iff]
    exact classify_eq_iff s m e
  · rw [regValue_clsA255, nbit_eq_testBit, BitVec.toNat_ofNat, Nat.testBit_mod_two_pow, Nat.testBit_or]
    have h15 : Nat.testBit 0x8000 15 = true := by decide
    simp [h15]

end Sys2Proof.Machine
end
